-- ==== Sys2Proof/Word.lean ====
section
/-! DEFINITION. The word types of the machine (R8, R14, R22) and the sticky-flag word of R29. -/

namespace Sys2Proof

/-- One byte of memory (R8). -/
abbrev Byte := BitVec 8
/-- A lane register (R22). -/
abbrev W32 := BitVec 32
/-- A sequencer scalar register, an instruction word or an address (R14, R69, R74). -/
abbrev W64 := BitVec 64
/-- A tile register: a 128-bit tile descriptor (R18). -/
abbrev W128 := BitVec 128
/-- The six sticky flags shared by `FLAGS`, `TFLAGS` and a completion status (R29, bits 0-5):
INVALID, DIVZERO, OVERFLOW, UNDERFLOW, INEXACT, SAT from bit 0 up. -/
abbrev Flags6 := BitVec 6

/-- The number of a core, `COREID` (R26). -/
abbrev CoreNo := Fin 256
/-- A scalar or tile register number, or a lane register number (R14, R22). -/
abbrev RegNo := Fin 64
/-- A predicate number (R15). -/
abbrev PredNo := Fin 8

end Sys2Proof

namespace Sys2Proof.Machine

/-- The rounding modes of R45. -/
inductive RMode where
  | rn | rz | ru | rd
  deriving DecidableEq, Repr, Inhabited

/-- The element formats of R42, by name. -/
inductive Fmt where
  | none | int8 | uint8 | e4m3 | e5m2 | pw8 | bf16 | fp16 | fp32 | int32
  deriving DecidableEq, Repr, Inhabited

end Sys2Proof.Machine
end

