-- ==== Sys2Proof/Config.lean ====
section
/-! DEFINITION. What an implementation, its fuses and its firmware fix, and the undefined values of R2. No
constant here has a body: no proof can see what it is. -/

namespace Sys2Proof.Config

/-- The undefined values of R2: the `n`-th one of width `w` (log entry 9). -/
opaque undef (w : Nat) (n : Nat) : BitVec w

/-- A byte of on-core memory that a resume left undefined (R119, R343): the `seed` tells one resume from another, the
byte is numbered with the Kennel first, then the accumulator memory, then the private SRAM (log entry 19). -/
opaque residue (seed byte : Nat) : BitVec 8

/-- What R41 leaves open about an element that a record's format does not decode exactly into FP32: a fold into a record
whose FMT is none, and the AMAX of an integer of more than 24 significant bits (log entry 18). -/
opaque foldWord (fmt : BitVec 4) (bits : Nat) : BitVec 32

/-- `CDRAIN` (R327): ticks to drain what a core has issued, from typical times that the spec does not give. -/
opaque drainTicks (core now : Nat) : BitVec 32

/-- What the fuses hold for the MAC address of the host port (R351). -/
opaque fusedMac : BitVec 48

/-- `HMAC` (R351): fused, with the I/G and the U/L bit of the first octet 0. -/
def hmac : BitVec 48 := fusedMac &&& 0xFCFFFFFFFFFF

/-- The operator address recorded at provisioning (R361). -/
opaque operatorAddress : BitVec 128

/-- The inputs of the compatibility key (R346). -/
opaque stepping : BitVec 32
opaque monitorVersion : BitVec 32
opaque runtimeVersion : BitVec 32
opaque fuses : BitVec 256

/-- The running firmware images that an attestation report hashes (R369). -/
opaque monitorImage : List (BitVec 8)
opaque runtimeImage : List (BitVec 8)

/-- The 64 signature bytes of the device identity key (R369): ECDSA over P-256, log entry 11. -/
opaque sign (message : List (BitVec 8)) : BitVec 512

/-- A signature of some device identity key is good for the message (R347). -/
opaque verify (message : List (BitVec 8)) (signature : List (BitVec 8)) : Bool

/-- The boot ROM accepts a firmware image: its signature and its version (R370). -/
opaque firmwareGood (image : List (BitVec 8)) : Bool

/-- The flash image as shipped, and `HPADDR` in the configuration block of a flash image (R351). -/
opaque shippedFlash : List (BitVec 8)
opaque flashAddress (image : List (BitVec 8)) : BitVec 128

/-- The 64 KiB page at which the loader places the LANE section of the `n`-th image of a context (R95). -/
opaque lanePage (ctx : BitVec 32) (n : Nat) : BitVec 36

end Sys2Proof.Config
end

