-- ==== Sys2Proof/Syntax.lean ====
section
/-! DEFINITION. The instructions and steps of the machine: one constructor of `Instr` per row of
spec/opcode_table.json. Tile operands follow R69 to R71, lane operands R74 to R76; the rows from
LONG_LATENCY_RESULT on are the steps of the hardware, the Shepherd, the host port and the fabric. -/

namespace Sys2Proof

open Machine (RMode Fmt)

/-! ### Tile operands (R70) -/

/-- A scalar register or a constant-bank word: operand kinds S K. -/
inductive SK where
  | s (i : RegNo)
  | c (i : Fin 256)
  deriving DecidableEq, Repr, Inhabited

/-- A scalar register, a constant-bank word or an inline literal: operand kinds S K L. -/
inductive SKL where
  | s (i : RegNo)
  | c (i : Fin 256)
  | l (v : Byte)
  deriving DecidableEq, Repr, Inhabited

/-- An operand of a class-01 word, of any kind (R81). -/
inductive AnyOpd where
  | s (i : RegNo)
  | t (i : RegNo)
  | c (i : Fin 256)
  | l (v : Byte)
  deriving DecidableEq, Repr, Inhabited

/-- The compare conditions of R102 and R199. -/
inductive Cond where
  | eq | ne | lt | le | gt | ge | ltu | leu | gtu | geu
  deriving DecidableEq, Repr, Inhabited

/-- The atomic operations of R107. -/
inductive AtomOp where
  | add | and | or | xor | min | max | minu | maxu | xchg | cas
  deriving DecidableEq, Repr, Inhabited

/-- The scopes of R107 and R256. -/
inductive Scope where
  | core | cluster | device | system
  deriving DecidableEq, Repr, Inhabited

/-- The fence kinds of R109 and R230. -/
inductive FenceKind where
  | acq | rel | acqrel
  deriving DecidableEq, Repr, Inhabited

structure TAlu2 where
  d : SK
  a : SKL
  b : SKL
  deriving DecidableEq, Repr, Inhabited

structure TAlu1 where
  d : SK
  a : SKL
  deriving DecidableEq, Repr, Inhabited

structure TMulh where
  d : SK
  a : SKL
  b : SKL
  u : Bool
  deriving DecidableEq, Repr, Inhabited

structure TAlu3 where
  d : SK
  a : SKL
  b : SKL
  c : SKL
  deriving DecidableEq, Repr, Inhabited

structure TSel where
  d : SK
  a : SKL
  b : SKL
  p : PredNo
  deriving DecidableEq, Repr, Inhabited

structure TCmp where
  p : PredNo
  a : SKL
  b : SKL
  cond : Cond
  deriving DecidableEq, Repr, Inhabited

structure TPred2 where
  d : PredNo
  a : PredNo
  b : PredNo
  deriving DecidableEq, Repr, Inhabited

structure TPred1 where
  d : PredNo
  a : PredNo
  deriving DecidableEq, Repr, Inhabited

/-- A sequencer load (R104): `w` is the width code, `sx` the `.S` modifier. -/
structure TLoad where
  d : SK
  a : SK
  b : SKL
  w : BitVec 2
  sx : Bool
  deriving DecidableEq, Repr, Inhabited

structure TStore where
  a : SK
  b : SKL
  c : SKL
  w : BitVec 2
  deriving DecidableEq, Repr, Inhabited

/-- `ATOMS` (R107); `c` is present exactly for `.CAS`. -/
structure TAtom where
  d : SK
  a : SK
  b : SKL
  c : Option SKL
  op : AtomOp
  scope : Scope
  w64 : Bool
  acq : Bool
  rel : Bool
  deriving DecidableEq, Repr, Inhabited

structure TFence where
  kind : FenceKind
  scope : Scope
  deriving DecidableEq, Repr, Inhabited

structure TBr where
  p : PredNo
  sense : Bool
  disp : BitVec 14
  deriving DecidableEq, Repr, Inhabited

structure TLink where
  d : RegNo
  disp : BitVec 14
  deriving DecidableEq, Repr, Inhabited

structure TSrd where
  d : SK
  n : Byte
  deriving DecidableEq, Repr, Inhabited

structure TSwr where
  n : Byte
  a : SKL
  deriving DecidableEq, Repr, Inhabited

structure TLit where
  d : SK
  v : W64
  deriving DecidableEq, Repr, Inhabited

structure TDescl where
  t : RegNo
  a : SKL
  v : W64
  deriving DecidableEq, Repr, Inhabited

/-- A class-01 word (R69, R81): the binding index, four operands and MOD. -/
structure BoundWord where
  idx : Byte
  d : AnyOpd
  a : AnyOpd
  b : AnyOpd
  c : AnyOpd
  md : BitVec 14
  deriving DecidableEq, Repr, Inhabited

structure TCpyIn where
  q : BitVec 2
  dev : Bool
  t : RegNo
  a : SK
  b : SK
  c : SKL
  deriving DecidableEq, Repr, Inhabited

structure TCpyOut where
  q : BitVec 2
  dev : Bool
  d : SK
  t : RegNo
  b : SK
  c : SKL
  deriving DecidableEq, Repr, Inhabited

structure TCpyKk where
  q : BitVec 2
  dev : Bool
  t : RegNo
  a : RegNo
  b : SK
  deriving DecidableEq, Repr, Inhabited

structure TGth where
  q : BitVec 2
  dev : Bool
  t : RegNo
  a : SK
  b : SK
  c : SK
  deriving DecidableEq, Repr, Inhabited

structure TSct where
  q : BitVec 2
  dev : Bool
  d : SK
  t : RegNo
  b : SK
  c : SK
  deriving DecidableEq, Repr, Inhabited

structure TPft where
  q : BitVec 2
  dev : Bool
  a : SK
  b : SK
  c : SKL
  deriving DecidableEq, Repr, Inhabited

structure TRcpy where
  q : BitVec 2
  dev : Bool
  t : RegNo
  a : SK
  b : SK
  deriving DecidableEq, Repr, Inhabited

structure TMcast where
  q : BitVec 2
  d : SKL
  t : RegNo
  b : SK
  deriving DecidableEq, Repr, Inhabited

structure TBinit where
  dev : Bool
  y : Bool
  a : SK
  b : SKL
  c : SKL
  deriving DecidableEq, Repr, Inhabited

structure TBarv where
  dev : Bool
  d : SK
  a : SK
  deriving DecidableEq, Repr, Inhabited

structure TBexp where
  dev : Bool
  d : SK
  a : SK
  b : SKL
  deriving DecidableEq, Repr, Inhabited

structure TBwait where
  dev : Bool
  y : Bool
  a : SK
  b : SKL
  deriving DecidableEq, Repr, Inhabited

structure TBtry where
  dev : Bool
  p : PredNo
  a : SK
  b : SKL
  deriving DecidableEq, Repr, Inhabited

/-- `PSETT` (R183): FIELD 0 THRESH, 1 EO, 2 FMT, 3 REPLAY. -/
structure TPsett where
  f : BitVec 2
  a : SKL
  b : SKL
  deriving DecidableEq, Repr, Inhabited

structure TLsupd where
  d : RegNo
  p : PredNo
  deriving DecidableEq, Repr, Inhabited

structure TDqpush where
  a : SKL
  b : SK
  deriving DecidableEq, Repr, Inhabited

/-- `TDESC` (R190): FIELD 0 ALL, 1 BASE, 2 VALID, 3 SCALE, 4 PIDX. -/
structure TTdesc where
  f : BitVec 3
  t : RegNo
  a : SKL
  b : SKL
  deriving DecidableEq, Repr, Inhabited

structure TTget where
  hi : Bool
  d : SK
  t : RegNo
  deriving DecidableEq, Repr, Inhabited

structure TBind where
  a : SKL
  b : SKL
  deriving DecidableEq, Repr, Inhabited

structure TQsinit where
  a : SK
  b : SKL
  c : SKL
  deriving DecidableEq, Repr, Inhabited

/-! ### Lane operands (R74 to R76) -/

/-- Lookahead count, guard predicate and guard negate. -/
structure LHead where
  la : BitVec 4
  g : PredNo
  neg : Bool
  deriving DecidableEq, Repr, Inhabited

/-- A source register with its last-use bit. -/
structure LSrc where
  r : RegNo
  lu : Bool
  deriving DecidableEq, Repr, Inhabited

/-- Operand B: a register or the 16-bit immediate of R76. -/
inductive LB where
  | reg (s : LSrc)
  | imm (i : BitVec 16)
  deriving DecidableEq, Repr, Inhabited

/-- Operand B of `ICMP`: a register or the 12-bit immediate of R198. -/
inductive LB12 where
  | reg (s : LSrc)
  | imm (i : BitVec 12)
  deriving DecidableEq, Repr, Inhabited

/-- The conditions of `FCMP` (R200). -/
inductive FCond where
  | eq | ne | lt | le | gt | ge | num | nan
  deriving DecidableEq, Repr, Inhabited

/-- The reductions of R238. -/
inductive RedOp where
  | add | min | max | minu | maxu | and | or | xor | fadd | fmin | fmax
  deriving DecidableEq, Repr, Inhabited

/-- The increment of `CTRADD` (R210): a register or, under `.64`, a pair; or the immediate. -/
inductive CtrInc where
  | reg (s : LSrc) (w64 : Bool)
  | imm (i : BitVec 16)
  deriving DecidableEq, Repr, Inhabited

/-- The count of `REP` (R220). -/
inductive RepCount where
  | reg (s : LSrc)
  | imm (n : Byte)
  deriving DecidableEq, Repr, Inhabited

structure LR1 where
  h : LHead
  vd : RegNo
  a : LSrc
  deriving DecidableEq, Repr, Inhabited

structure LRI where
  h : LHead
  vd : RegNo
  a : LSrc
  b : LB
  deriving DecidableEq, Repr, Inhabited

structure LMulh where
  h : LHead
  vd : RegNo
  a : LSrc
  b : LB
  u : Bool
  deriving DecidableEq, Repr, Inhabited

structure LRI3 where
  h : LHead
  vd : RegNo
  a : LSrc
  b : LB
  c : LSrc
  deriving DecidableEq, Repr, Inhabited

structure LBitfn where
  h : LHead
  vd : RegNo
  a : LSrc
  b : LSrc
  c : LSrc
  lut : Byte
  deriving DecidableEq, Repr, Inhabited

structure LPermb where
  h : LHead
  vd : RegNo
  a : LSrc
  b : LSrc
  mode : BitVec 2
  deriving DecidableEq, Repr, Inhabited

structure LSel where
  h : LHead
  vd : RegNo
  a : LSrc
  b : LB
  p : PredNo
  deriving DecidableEq, Repr, Inhabited

structure LIcmp where
  h : LHead
  pd : PredNo
  a : LSrc
  b : LB12
  cond : Cond
  p : PredNo
  pneg : Bool
  deriving DecidableEq, Repr, Inhabited

structure LFcmp where
  h : LHead
  pd : PredNo
  a : LSrc
  b : LSrc
  cond : FCond
  ftz : Bool
  p : PredNo
  pneg : Bool
  deriving DecidableEq, Repr, Inhabited

structure LPredfn where
  h : LHead
  pd : PredNo
  pa : PredNo
  pb : PredNo
  pc : PredNo
  lut : Byte
  deriving DecidableEq, Repr, Inhabited

structure LPmovR where
  h : LHead
  vd : RegNo
  deriving DecidableEq, Repr, Inhabited

structure LPmovP where
  h : LHead
  a : LSrc
  mask : BitVec 7
  deriving DecidableEq, Repr, Inhabited

structure LF1 where
  h : LHead
  vd : RegNo
  a : LSrc
  rm : RMode
  ftz : Bool
  deriving DecidableEq, Repr, Inhabited

structure LF2 where
  h : LHead
  vd : RegNo
  a : LSrc
  b : LSrc
  rm : RMode
  ftz : Bool
  deriving DecidableEq, Repr, Inhabited

structure LF3 where
  h : LHead
  vd : RegNo
  a : LSrc
  b : LSrc
  c : LSrc
  rm : RMode
  ftz : Bool
  deriving DecidableEq, Repr, Inhabited

structure LFM where
  h : LHead
  vd : RegNo
  a : LSrc
  b : LSrc
  ftz : Bool
  deriving DecidableEq, Repr, Inhabited

/-- Packed 16-bit forms (R204): `fh` is `.FH`. -/
structure LPk2 where
  h : LHead
  vd : RegNo
  a : LSrc
  b : LSrc
  rm : RMode
  ftz : Bool
  fh : Bool
  deriving DecidableEq, Repr, Inhabited

structure LPk3 where
  h : LHead
  vd : RegNo
  a : LSrc
  b : LSrc
  c : LSrc
  rm : RMode
  ftz : Bool
  fh : Bool
  deriving DecidableEq, Repr, Inhabited

structure LPkM where
  h : LHead
  vd : RegNo
  a : LSrc
  b : LSrc
  ftz : Bool
  fh : Bool
  deriving DecidableEq, Repr, Inhabited

structure LCvt where
  h : LHead
  vd : RegNo
  a : LSrc
  rm : RMode
  ftz : Bool
  dst : Fmt
  src : Fmt
  nsat : Bool
  elem : BitVec 2
  deriving DecidableEq, Repr, Inhabited

structure LCvtpk where
  h : LHead
  vd : RegNo
  a : LSrc
  b : LSrc
  c : Option LSrc
  rm : RMode
  ftz : Bool
  dst : Fmt
  src : Fmt
  nsat : Bool
  pair : Bool
  deriving DecidableEq, Repr, Inhabited

structure LCvtunpk where
  h : LHead
  vd : RegNo
  a : LSrc
  rm : RMode
  ftz : Bool
  dst : Fmt
  src : Fmt
  nsat : Bool
  pair : Bool
  deriving DecidableEq, Repr, Inhabited

structure LPwenc where
  h : LHead
  vd : RegNo
  a : LSrc
  b : LSrc
  c : LSrc
  byte : BitVec 2
  deriving DecidableEq, Repr, Inhabited

structure LPwdec where
  h : LHead
  vd : RegNo
  a : LSrc
  b : LSrc
  rm : RMode
  ftz : Bool
  byte : BitVec 2
  deriving DecidableEq, Repr, Inhabited

structure LIdp4 where
  h : LHead
  vd : RegNo
  a : LSrc
  b : LSrc
  c : LSrc
  ua : Bool
  ub : Bool
  sat : Bool
  deriving DecidableEq, Repr, Inhabited

structure LFdp2 where
  h : LHead
  vd : RegNo
  a : LSrc
  b : LSrc
  c : LSrc
  rm : RMode
  ftz : Bool
  fh : Bool
  deriving DecidableEq, Repr, Inhabited

structure LMovi where
  h : LHead
  vd : RegNo
  i : BitVec 18
  deriving DecidableEq, Repr, Inhabited

structure LMovhi where
  h : LHead
  vd : RegNo
  a : LSrc
  i : BitVec 16
  deriving DecidableEq, Repr, Inhabited

structure LSread where
  h : LHead
  vd : RegNo
  n : Byte
  deriving DecidableEq, Repr, Inhabited

/-- `XPAIR`, `XBACK`, `XFWD`, `XONE` (R235); no mask means `.ALL`. -/
structure LXchg where
  h : LHead
  vd : RegNo
  a : LSrc
  m : Option LSrc
  z : Bool
  ring : Bool
  k : BitVec 5
  deriving DecidableEq, Repr, Inhabited

structure LXpick where
  h : LHead
  vd : RegNo
  a : LSrc
  b : LSrc
  m : Option LSrc
  z : Bool
  deriving DecidableEq, Repr, Inhabited

/-- `POLL` (R237): VD is a register for modes MASK (0) and COUNT (3), a predicate for SOME and EVERY. -/
structure LPoll where
  h : LHead
  mode : BitVec 2
  vd : RegNo
  pa : PredNo
  m : Option LSrc
  deriving DecidableEq, Repr, Inhabited

structure LRed where
  h : LHead
  vd : RegNo
  a : LSrc
  op : RedOp
  m : Option LSrc
  deriving DecidableEq, Repr, Inhabited

structure LBra where
  h : LHead
  disp : BitVec 18
  deriving DecidableEq, Repr, Inhabited

structure LBrx where
  h : LHead
  a : LSrc
  deriving DecidableEq, Repr, Inhabited

structure LCall where
  h : LHead
  vd : RegNo
  disp : BitVec 18
  deriving DecidableEq, Repr, Inhabited

structure LNone where
  h : LHead
  deriving DecidableEq, Repr, Inhabited

/-- `REP` (R220): FIELDS bit 0 VD, 1 VA, 2 VB, 3 VC. -/
structure LRep where
  h : LHead
  cnt : RepCount
  fields : BitVec 4
  stride : BitVec 4
  deriving DecidableEq, Repr, Inhabited

structure LLoad where
  h : LHead
  vd : RegNo
  a : LSrc
  w : BitVec 2
  sx : Bool
  off : BitVec 14
  deriving DecidableEq, Repr, Inhabited

structure LStore where
  h : LHead
  a : LSrc
  b : LSrc
  w : BitVec 2
  off : BitVec 14
  deriving DecidableEq, Repr, Inhabited

structure LAtom where
  h : LHead
  vd : RegNo
  a : LSrc
  b : LSrc
  op : AtomOp
  scope : Scope
  w64 : Bool
  acq : Bool
  rel : Bool
  deriving DecidableEq, Repr, Inhabited

structure LCas where
  h : LHead
  vd : RegNo
  a : LSrc
  b : LSrc
  c : LSrc
  scope : Scope
  w64 : Bool
  acq : Bool
  rel : Bool
  deriving DecidableEq, Repr, Inhabited

structure LFence where
  h : LHead
  kind : FenceKind
  scope : Scope
  deriving DecidableEq, Repr, Inhabited

structure LBarv where
  h : LHead
  dev : Bool
  vd : RegNo
  a : LSrc
  deriving DecidableEq, Repr, Inhabited

structure LBwait where
  h : LHead
  dev : Bool
  a : LSrc
  b : LSrc
  deriving DecidableEq, Repr, Inhabited

structure LBtry where
  h : LHead
  dev : Bool
  pd : PredNo
  a : LSrc
  b : LSrc
  deriving DecidableEq, Repr, Inhabited

structure LQpush where
  h : LHead
  sz : BitVec 2
  a : LSrc
  b : LSrc
  m : Option LSrc
  deriving DecidableEq, Repr, Inhabited

structure LQpop where
  h : LHead
  sz : BitVec 2
  vd : RegNo
  a : LSrc
  pb : PredNo
  m : Option LSrc
  deriving DecidableEq, Repr, Inhabited

structure LQend where
  h : LHead
  a : LSrc
  deriving DecidableEq, Repr, Inhabited

structure LLmma where
  h : LHead
  vd : RegNo
  a : LSrc
  b : LSrc
  m : Option LSrc
  deriving DecidableEq, Repr, Inhabited

structure LDqpop where
  h : LHead
  vd : RegNo
  pb : PredNo
  deriving DecidableEq, Repr, Inhabited

structure LRng where
  h : LHead
  vd : RegNo
  a : LSrc
  b : LSrc
  deriving DecidableEq, Repr, Inhabited

structure LCtradd where
  h : LHead
  vd : RegNo
  a : LSrc
  b : CtrInc
  deriving DecidableEq, Repr, Inhabited

/-- `MSTEP` (R211): GF 0 FP32, 1 BF16, 2 FP16. -/
structure LMstep where
  h : LHead
  pd : PredNo
  a : LSrc
  n : Byte
  gf : BitVec 2
  deriving DecidableEq, Repr, Inhabited

structure LTrap where
  h : LHead
  code : BitVec 16
  deriving DecidableEq, Repr, Inhabited

/-! ### Messages of the host port and the fabric -/

/-- A YHT message as it arrives (R352): the header fields, the payload, and the sender of the datagram. -/
structure YhtMsg where
  version : Byte
  typ : Byte
  fl : BitVec 16
  session : W32
  psn : W32
  ackpsn : W32
  addr : W64
  length : BitVec 16
  status : BitVec 16
  arg : W32
  payload : List Byte
  srcAddr : BitVec 128
  srcPort : BitVec 16
  deriving DecidableEq, Repr, Inhabited

/-- A YTT frame as it arrives (R365). -/
structure YttFrame where
  version : Byte
  typ : Byte
  fl : BitVec 16
  src : W32
  dst : W32
  flow : W32
  seq : W32
  cmd : W32
  addr : W64
  length : BitVec 16
  rows : BitVec 16
  rlen : BitVec 16
  status : BitVec 16
  pitch : W32
  arg : W32
  payload : List Byte
  deriving DecidableEq, Repr, Inhabited

/-- The answer to a remote atomic (R341, R366): its flow, and the value read; no value where it failed. -/
structure AtomAnswer where
  flow : W32
  value : Option W64
  deriving DecidableEq, Repr, Inhabited

/-- The storage that an ECC error strikes (R285). -/
inductive EccPlace where
  | hbm (pa : Nat)
  | kennel (core : CoreNo) (addr : Nat)
  | acc (core : CoreNo) (addr : Nat)
  | priv (core : CoreNo) (lane addr : Nat)
  /-- a word of the matrix working buffer, by its byte address there -/
  | work (core : CoreNo) (addr : Nat)
  /-- the word of the register pool that holds a register of a thread -/
  | pool (core : CoreNo) (lane slot : Nat) (reg : RegNo)
  /-- a word of a physical address in the L1 of a core, or in the L2 -/
  | l1 (core : CoreNo) (pa : Nat)
  | l2 (pa : Nat)
  /-- a word of the tile code that a core runs, by its address there, or of the lane code that it caches -/
  | tileCode (core : CoreNo) (addr : Nat)
  | laneCode (core : CoreNo) (pc : W64)
  deriving DecidableEq, Repr, Inhabited

/-- Why a frame is not accepted (R350). -/
inductive FrameFault where
  | badFcs | unknownEtherType | wrongDestination | badChecksum | otherPort | twoTags | pause
  deriving DecidableEq, Repr, Inhabited

/-! ### The rows of the table -/

/-- The collectives of the lanes (R232 to R253), at which threads arrive. -/
inductive CollIns where
  | xpair (x : LXchg)
  | xpick (x : LXpick)
  | xback (x : LXchg)
  | xfwd (x : LXchg)
  | xone (x : LXchg)
  | poll (x : LPoll)
  | red (x : LRed)
  | qpush (x : LQpush)
  | qpop (x : LQpop)
  | lmma (x : LLmma)
  deriving DecidableEq, Repr, Inhabited

/-- One constructor per row of spec/opcode_table.json. -/
inductive Instr where
  -- tile scalar work (R100 to R103)
  | add (x : TAlu2)
  | sub (x : TAlu2)
  | mul (x : TAlu2)
  | mulh (x : TMulh)
  | madd (x : TAlu3)
  | div (x : TAlu2)
  | divu (x : TAlu2)
  | rem (x : TAlu2)
  | remu (x : TAlu2)
  | tileAnd (x : TAlu2)
  | tileOr (x : TAlu2)
  | tileXor (x : TAlu2)
  | tileAndn (x : TAlu2)
  | tileShl (x : TAlu2)
  | tileShr (x : TAlu2)
  | tileSar (x : TAlu2)
  | min (x : TAlu2)
  | max (x : TAlu2)
  | minu (x : TAlu2)
  | maxu (x : TAlu2)
  | tileClz (x : TAlu1)
  | tilePopc (x : TAlu1)
  | tileMov (x : TAlu1)
  | tileSel (x : TSel)
  | cmp (x : TCmp)
  | pand (x : TPred2)
  | por (x : TPred2)
  | pxor (x : TPred2)
  | pnot (x : TPred1)
  -- tile memory (R104 to R109)
  | lds (x : TLoad)
  | sts (x : TStore)
  | tileLdk (x : TLoad)
  | tileStk (x : TStore)
  | atoms (x : TAtom)
  | tileFence (x : TFence)
  -- tile control (R110 to R120)
  | br (x : TBr)
  | jmp (a : SK)
  | tileCall (x : TLink)
  | tileRet (a : SK)
  | loop (x : TLink)
  | srd (x : TSrd)
  | swr (x : TSwr)
  | tileTrap (a : SKL)
  | eret
  | tileNop
  | safept (a : SKL)
  | taskEnd
  | lit (x : TLit)
  | tdescl (x : TDescl)
  -- bound operations (R122, R142)
  | mma (x : BoundWord)
  | accld (x : BoundWord)
  | accst (x : BoundWord)
  | accz (x : BoundWord)
  | tcvt (x : BoundWord)
  | qnt (x : BoundWord)
  | dqnt (x : BoundWord)
  | had (x : BoundWord)
  | perm (x : BoundWord)
  | routineDispatch (x : BoundWord)
  -- class 10 (R161 to R191)
  | cpyIn (x : TCpyIn)
  | cpyOut (x : TCpyOut)
  | cpyKk (x : TCpyKk)
  | gth (x : TGth)
  | sct (x : TSct)
  | pft (x : TPft)
  | rcpyPull (x : TRcpy)
  | rcpyPush (x : TRcpy)
  | mcast (x : TMcast)
  | binit (x : TBinit)
  | tileBarv (x : TBarv)
  | bexp (x : TBexp)
  | tileBwait (x : TBwait)
  | tileBtry (x : TBtry)
  | pclose (a : SKL)
  | ppeek (x : TAlu2)
  | pread (x : TAlu2)
  | preadHdr (x : TAlu2)
  | preset (a : SKL)
  | psett (x : TPsett)
  | lsupd (x : TLsupd)
  | launch (a : SK)
  | dqpush (x : TDqpush)
  | tdesc (x : TTdesc)
  | tget (x : TTget)
  | bind (x : TBind)
  | bindrd (x : TBind)
  | qsinit (x : TQsinit)
  -- lane integer (R194)
  | iadd (x : LRI)
  | isub (x : LRI)
  | imul (x : LRI)
  | imulh (x : LMulh)
  | imad (x : LRI3)
  | iadd64 (x : LRI)
  | idiv (x : LRI)
  | idivu (x : LRI)
  | irem (x : LRI)
  | iremu (x : LRI)
  | imin (x : LRI)
  | imax (x : LRI)
  | iminu (x : LRI)
  | imaxu (x : LRI)
  | iabs (x : LR1)
  | ineg (x : LR1)
  -- lane logic and bits (R195 to R197)
  | laneAnd (x : LRI)
  | laneOr (x : LRI)
  | laneXor (x : LRI)
  | laneAndn (x : LRI)
  | bitfn (x : LBitfn)
  | laneShl (x : LRI)
  | laneShr (x : LRI)
  | laneSar (x : LRI)
  | rotr (x : LRI)
  | lanePopc (x : LR1)
  | laneClz (x : LR1)
  | brev (x : LR1)
  | bfe (x : LRI)
  | bfi (x : LRI3)
  | permb (x : LPermb)
  | laneSel (x : LSel)
  -- lane compares and predicates (R198 to R201)
  | icmp (x : LIcmp)
  | fcmp (x : LFcmp)
  | predfn (x : LPredfn)
  | pmovToRegister (x : LPmovR)
  | pmovToPredicates (x : LPmovP)
  -- lane FP32 (R202, R203)
  | fadd (x : LF2)
  | fsub (x : LF2)
  | fmul (x : LF2)
  | ffma (x : LF3)
  | fmin (x : LFM)
  | fmax (x : LFM)
  | fdiv (x : LF2)
  | fsqrt (x : LF1)
  | frcp (x : LF1)
  | frsq (x : LF1)
  | fexp2 (x : LF1)
  | flog2 (x : LF1)
  | ftanh (x : LF1)
  -- lane packed (R204)
  | pkadd (x : LPk2)
  | pkmul (x : LPk2)
  | pkfma (x : LPk3)
  | pkmin (x : LPkM)
  | pkmax (x : LPkM)
  -- lane conversion and dot products (R205 to R208)
  | cvt (x : LCvt)
  | cvtpk (x : LCvtpk)
  | cvtunpk (x : LCvtunpk)
  | pwenc (x : LPwenc)
  | pwdec (x : LPwdec)
  | idp4 (x : LIdp4)
  | fdp2 (x : LFdp2)
  -- lane moves (R209)
  | laneMov (x : LR1)
  | movi (x : LMovi)
  | movhi (x : LMovhi)
  | sread (x : LSread)
  -- collectives (R235 to R239)
  | xpair (x : LXchg)
  | xpick (x : LXpick)
  | xback (x : LXchg)
  | xfwd (x : LXchg)
  | xone (x : LXchg)
  | poll (x : LPoll)
  | red (x : LRed)
  -- lane control (R217 to R221)
  | bra (x : LBra)
  | brx (x : LBrx)
  | laneCall (x : LCall)
  | laneRet (x : LBrx)
  | retTr (x : LNone)
  | exit (x : LNone)
  | yield (x : LNone)
  | laneNop (x : LNone)
  | rep (x : LRep)
  -- lane memory (R222 to R231)
  | ld (x : LLoad)
  | st (x : LStore)
  | laneLdk (x : LLoad)
  | laneStk (x : LStore)
  | ldp (x : LLoad)
  | stp (x : LStore)
  | ldc (x : LLoad)
  | atom (x : LAtom)
  | atomcas (x : LCas)
  | laneFence (x : LFence)
  | laneBarv (x : LBarv)
  | laneBwait (x : LBwait)
  | laneBtry (x : LBtry)
  -- streams, nesting, decisions, the rest (R240 to R251)
  | qpush (x : LQpush)
  | qpop (x : LQpop)
  | qcnt (x : LR1)
  | qend (x : LQend)
  | ltop (x : LR1)
  | lmma (x : LLmma)
  | dqpop (x : LDqpop)
  | rng (x : LRng)
  | ctradd (x : LCtradd)
  | mstep (x : LMstep)
  | laneTrap (x : LTrap)
  | brk (x : LNone)
  -- steps that the device takes by itself
  | longLatencyResult (core : CoreNo) (lane slot k : Nat)
  | sequencerResult (core : CoreNo) (k : Nat)
  | engineOpStart (core : CoreNo) (conv : Bool)
  | teamAdmission (core : CoreNo)
  | pedigreeScan (core : CoreNo) (op : Nat)
  | opCompletion (core : CoreNo) (op : Nat)
  | watchdog (core : CoreNo) (op : Nat)
  | faultDelivery (core : CoreNo)
  | retrieverCommandStart (core : CoreNo) (q : BitVec 2)
  | retrieverLanding (core : CoreNo) (cmd : Nat) (piece : Nat)
  | barrierWaitRelease (core : CoreNo) (who : Option (Nat × Nat))
  | collectiveCompletion (core : CoreNo) (lane slot : Nat)
  | fairnessTimerExpiry (core : CoreNo) (group : Nat) (op : Nat)
  | bindUpdateArrival (core : CoreNo)
  | foldPerformed (core : CoreNo) (k : Nat)
  | partialForward (slice : Nat) (ctx : W32) (idx : Nat)
  | closeDrain (ctx : W32) (idx : Nat) (slice : Nat)
  | closeCopy (ctx : W32) (idx : Nat)
  | pedigreeRequestAtHome (core : CoreNo)
  | storePerformed (core : CoreNo) (k : Nat)
  | pageWalkComplete (core : CoreNo) (va : W64)
  | invalidationDone (ctx : W32)
  | scrubGranule (g : Nat)
  | clockGate (core : CoreNo)
  | nodeRecordRead (q : Fin 64)
  | condEvaluation (q : Fin 64)
  | joinNodeRelease (q : Fin 64)
  | replenishment (q : Fin 64)
  | overrun (q : Fin 64)
  | shepherdChoice (part : Fin 16)
  | taskStart (core : CoreNo)
  | taskRetire (core : CoreNo)
  | nodeCompletion (q : Fin 64)
  | qleadExpiry (q : Fin 64)
  | launchAccept (core : CoreNo)
  | childGridCompletion (grid : Nat)
  | swapOut (core : CoreNo)
  | taskResume (core : CoreNo)
  | checkpointSave (core : CoreNo)
  | lastCall (slot : Fin 8)
  | saveImageWritten (core : CoreNo)
  | kickReread (q : Fin 64)
  | event (session : W32)
  | eventResend (session : W32)
  | yttRetransmit (flow seq : W32)
  -- steps that a message, an operator or the surroundings bring
  | translationInvalidation (ctx : W32) (g : Bool)
  | eccError (place : EccPlace) (hard : Bool) (syndrome : W64)
  | coreWake (core : CoreNo) (cause : Nat)
  | queueEnable (q : Fin 64) (v : W32)
  | queueDisable (q : Fin 64)
  | temperatureSample (core : CoreNo) (celsius : Int)
  | droopEvent (core : CoreNo)
  | recallPost (v : W32)
  | recallRelease (v : W32)
  | recallShrink (v : W32)
  | remoteAtomicToImage (ctx : W32) (slot : Nat) (lane thr : Nat) (result : AtomAnswer)
  | powerWindow (watts mhz : Nat) (lowered : Bool)
  | thermalStop (core : CoreNo)
  | thermalResume (core : CoreNo)
  | write (m : YhtMsg)
  | read (m : YhtMsg)
  | kick (m : YhtMsg)
  | ack (m : YhtMsg)
  | recovery (m : YhtMsg)
  | sessionOpen (m : YhtMsg)
  | sessionClose (m : YhtMsg)
  | regRead (m : YhtMsg)
  | regWrite (m : YhtMsg)
  | imageLoad (m : YhtMsg)
  | eventRoute (m : YhtMsg)
  | faultAnswer (m : YhtMsg)
  | contextCreate (m : YhtMsg)
  | keyRead (m : YhtMsg)
  | attest (m : YhtMsg)
  | migrateOut (m : YhtMsg)
  | partitionSet (m : YhtMsg)
  | contextDestroy (m : YhtMsg)
  | migrateIn (m : YhtMsg)
  | neighbourSolicitation (src target : BitVec 128)
  | echoRequest (src dst : BitVec 128) (data : List Byte)
  | put (m : YttFrame)
  | get (m : YttFrame)
  | data (m : YttFrame)
  | atomic (m : YttFrame)
  | atomicResp (m : YttFrame)
  | yttAck (m : YttFrame)
  | refuse (m : YttFrame)
  | powerUp
  | runtimeWatchdog
  | debugRequest (core : CoreNo) (lane slot : Nat)
  | unacceptedFrame (port : Fin 9) (why : FrameFault)
  | portLinkChange (port : Fin 9) (up : Bool)
  deriving DecidableEq, Repr, Inhabited

/-- A collective as an instruction. -/
def CollIns.ins : CollIns → Instr
  | .xpair x => .xpair x
  | .xpick x => .xpick x
  | .xback x => .xback x
  | .xfwd x => .xfwd x
  | .xone x => .xone x
  | .poll x => .poll x
  | .red x => .red x
  | .qpush x => .qpush x
  | .qpop x => .qpop x
  | .lmma x => .lmma x

end Sys2Proof
end

