-- ==== Sys2Proof/WellFormed.lean ====
section
/-! DEFINITION. Which instruction terms have an encoding (R27, R70 to R77, R86, R142, R161, R193 and the
restrictions each lane instruction's table states). A term that breaks one of these rules stands for no word. -/

namespace Sys2Proof

open Machine (RMode Fmt)

/-- The head of a lane instruction; none for every other row. -/
def Instr.laneHead : Instr → Option LHead
  | .iadd x => some x.h
  | .isub x => some x.h
  | .imul x => some x.h
  | .imulh x => some x.h
  | .imad x => some x.h
  | .iadd64 x => some x.h
  | .idiv x => some x.h
  | .idivu x => some x.h
  | .irem x => some x.h
  | .iremu x => some x.h
  | .imin x => some x.h
  | .imax x => some x.h
  | .iminu x => some x.h
  | .imaxu x => some x.h
  | .iabs x => some x.h
  | .ineg x => some x.h
  | .laneAnd x => some x.h
  | .laneOr x => some x.h
  | .laneXor x => some x.h
  | .laneAndn x => some x.h
  | .bitfn x => some x.h
  | .laneShl x => some x.h
  | .laneShr x => some x.h
  | .laneSar x => some x.h
  | .rotr x => some x.h
  | .lanePopc x => some x.h
  | .laneClz x => some x.h
  | .brev x => some x.h
  | .bfe x => some x.h
  | .bfi x => some x.h
  | .permb x => some x.h
  | .laneSel x => some x.h
  | .icmp x => some x.h
  | .fcmp x => some x.h
  | .predfn x => some x.h
  | .pmovToRegister x => some x.h
  | .pmovToPredicates x => some x.h
  | .fadd x => some x.h
  | .fsub x => some x.h
  | .fmul x => some x.h
  | .ffma x => some x.h
  | .fmin x => some x.h
  | .fmax x => some x.h
  | .fdiv x => some x.h
  | .fsqrt x => some x.h
  | .frcp x => some x.h
  | .frsq x => some x.h
  | .fexp2 x => some x.h
  | .flog2 x => some x.h
  | .ftanh x => some x.h
  | .pkadd x => some x.h
  | .pkmul x => some x.h
  | .pkfma x => some x.h
  | .pkmin x => some x.h
  | .pkmax x => some x.h
  | .cvt x => some x.h
  | .cvtpk x => some x.h
  | .cvtunpk x => some x.h
  | .pwenc x => some x.h
  | .pwdec x => some x.h
  | .idp4 x => some x.h
  | .fdp2 x => some x.h
  | .laneMov x => some x.h
  | .movi x => some x.h
  | .movhi x => some x.h
  | .sread x => some x.h
  | .xpair x => some x.h
  | .xpick x => some x.h
  | .xback x => some x.h
  | .xfwd x => some x.h
  | .xone x => some x.h
  | .poll x => some x.h
  | .red x => some x.h
  | .bra x => some x.h
  | .brx x => some x.h
  | .laneCall x => some x.h
  | .laneRet x => some x.h
  | .retTr x => some x.h
  | .exit x => some x.h
  | .yield x => some x.h
  | .laneNop x => some x.h
  | .rep x => some x.h
  | .ld x => some x.h
  | .st x => some x.h
  | .laneLdk x => some x.h
  | .laneStk x => some x.h
  | .ldp x => some x.h
  | .stp x => some x.h
  | .ldc x => some x.h
  | .atom x => some x.h
  | .atomcas x => some x.h
  | .laneFence x => some x.h
  | .laneBarv x => some x.h
  | .laneBwait x => some x.h
  | .laneBtry x => some x.h
  | .qpush x => some x.h
  | .qpop x => some x.h
  | .qcnt x => some x.h
  | .qend x => some x.h
  | .ltop x => some x.h
  | .lmma x => some x.h
  | .dqpop x => some x.h
  | .rng x => some x.h
  | .ctradd x => some x.h
  | .mstep x => some x.h
  | .laneTrap x => some x.h
  | .brk x => some x.h
  | _ => none

/-- The long-latency lane instructions of R77. -/
def Instr.longLatency : Instr → Bool
  | .ld _ | .laneLdk _ | .ldp _ | .ldc _ | .atom _ | .atomcas _ | .fsqrt _ | .frcp _ | .frsq _ | .fexp2 _ | .flog2 _ | .ftanh _ | .idiv _ | .idivu _ | .irem _ | .iremu _ | .fdiv _ | .xpair _ | .xpick _ | .xback _ | .xfwd _ | .xone _ | .rng _ | .ltop _ | .lmma _ => true
  | _ => false

/-- A block of `n` registers starts at a multiple of `n` (R193). -/
def blockOk (n : Nat) (r : RegNo) : Bool := r.val % n == 0

/-- A `.64` value field is a pair, a narrower one any register (R222, R228). -/
def pairIf (wide : Bool) (r : RegNo) : Bool := !wide || blockOk 2 r

/-- Special registers that `SRD` reads (R26, level S). -/
def tileReadable (n : Byte) : Bool := n.toNat ≤ 0x17

/-- Special registers that `SWR` writes (R26, marked RW). -/
def tileWritable (n : Byte) : Bool :=
  n.toNat == 0x0C || n.toNat == 0x0D || n.toNat == 0x0F || n.toNat == 0x10 || n.toNat == 0x11

/-- Special registers that `SREAD` reads (R26, level L). -/
def laneReadable (n : Byte) : Bool :=
  n.toNat ≤ 0x09 || (0x12 ≤ n.toNat && n.toNat ≤ 0x15) || (0x20 ≤ n.toNat && n.toNat ≤ 0x28) ||
    (0x40 ≤ n.toNat && n.toNat ≤ 0x4F)

/-- Width in bits of a format that a conversion names (R205). -/
def fmtBits : Fmt → Nat
  | .none => 0
  | .int8 | .uint8 | .e4m3 | .e5m2 | .pw8 => 8
  | .bf16 | .fp16 => 16
  | .fp32 | .int32 => 32

def fmtFloat : Fmt → Bool
  | .e4m3 | .e5m2 | .bf16 | .fp16 | .fp32 => true
  | .none | .int8 | .uint8 | .pw8 | .int32 => false

/-- The restrictions of R205 that all three conversions share. -/
def cvtOk (dst src : Fmt) (rm : RMode) (ftz nsat : Bool) : Bool :=
  dst != .none && src != .none && (!nsat || dst == .e4m3 || dst == .e5m2) &&
    (!ftz || fmtFloat dst || fmtFloat src) && (dst != .pw8 || rm == .rn)

/-- Operand D of a class-01 word is of kind 00, 01 or 10 (R81). -/
def BoundWord.ok (x : BoundWord) : Bool :=
  match x.d with
  | .l _ => false
  | .s _ | .t _ | .c _ => true

/-- A load (R222): the pair rule of the value, and `.S` at 8 and 16 bits only. -/
def LLoad.ok (x : LLoad) : Bool :=
  pairIf (x.w == 3) x.vd && (!x.sx || x.w == 0 || x.w == 1)

/-- The operand rules of each row, but for the lookahead count. -/
def Instr.shapeOk : Instr → Bool
  | .lds x | .tileLdk x => !(x.sx && x.w == 3)
  | .atoms x => (x.op == .cas) == x.c.isSome
  | .srd x => tileReadable x.n
  | .swr x => tileWritable x.n
  | .mma x => x.idx == 0x00 && x.ok
  | .accld x => x.idx == 0x01 && x.ok
  | .accst x => x.idx == 0x02 && x.ok
  | .accz x => x.idx == 0x03 && x.ok
  | .tcvt x => x.idx == 0x04 && x.ok
  | .qnt x => x.idx == 0x05 && x.ok
  | .dqnt x => x.idx == 0x06 && x.ok
  | .had x => x.idx == 0x07 && x.ok
  | .perm x => x.idx == 0x08 && x.ok
  | .routineDispatch x => decide (9 ≤ x.idx.toNat) && x.ok
  | .tdesc x => decide (x.f.toNat ≤ 4)
  | .iadd64 x =>
    blockOk 2 x.vd && blockOk 2 x.a.r && (match x.b with | .reg s => blockOk 2 s.r | .imm _ => true)
  | .imulh x => !x.u || (match x.b with | .reg _ => true | .imm _ => false)
  | .permb x => blockOk 4 x.a.r && x.mode != 3
  | .cvt x =>
    cvtOk x.dst x.src x.rm x.ftz x.nsat && decide ((x.elem.toNat + 1) * fmtBits x.src ≤ 32)
  | .cvtpk x =>
    cvtOk x.dst x.src x.rm x.ftz x.nsat && fmtBits x.dst != 32 &&
      (fmtBits x.dst == 8) == x.c.isSome && (!x.pair || fmtBits x.dst == 8)
  | .cvtunpk x =>
    cvtOk x.dst x.src x.rm x.ftz x.nsat && fmtBits x.src != 32 && blockOk 2 x.vd &&
      (!x.pair || fmtBits x.src == 8)
  | .sread x => laneReadable x.n
  | .xpair x | .xone x => !x.ring
  | .poll x => (x.mode == 0 || x.mode == 3) || decide (x.vd.val < 8)
  | .brx x | .laneRet x => blockOk 2 x.a.r
  | .laneCall x => blockOk 2 x.vd
  | .ld x => blockOk 2 x.a.r && x.ok
  | .laneLdk x | .ldp x => x.ok
  | .ldc x => x.ok && (x.w == 2 || x.w == 3)
  | .st x => blockOk 2 x.a.r && pairIf (x.w == 3) x.b.r
  | .laneStk x | .stp x => pairIf (x.w == 3) x.b.r
  | .atom x =>
    x.op != .cas && pairIf x.w64 x.vd && pairIf x.w64 x.b.r && pairIf (x.scope != .core) x.a.r
  | .atomcas x =>
    pairIf x.w64 x.vd && pairIf x.w64 x.b.r && pairIf x.w64 x.c.r && pairIf (x.scope != .core) x.a.r
  | .laneBarv x => pairIf x.dev x.a.r
  | .laneBwait x => pairIf x.dev x.a.r
  | .laneBtry x => pairIf x.dev x.a.r
  | .qpush x => blockOk (2 ^ x.sz.toNat) x.b.r
  | .qpop x => blockOk (2 ^ x.sz.toNat) x.vd
  | .dqpop x => blockOk 2 x.vd && decide (x.vd.val ≤ 58)
  | .rng x => blockOk 4 x.vd && blockOk 4 x.a.r && blockOk 2 x.b.r
  | .ctradd x =>
    blockOk 4 x.vd && blockOk 4 x.a.r &&
      (match x.b with | .reg s wide => pairIf wide s.r | .imm _ => true)
  | .mstep x => blockOk 4 x.a.r && decide (x.n.toNat ≤ 248) && x.gf != 3
  | _ => true

/-- The lookahead count is nonzero in a long-latency instruction only (R77). -/
def Instr.laOk (i : Instr) : Bool :=
  match i.laneHead with
  | some h => h.la == 0 || i.longLatency
  | none => true

/-- The term stands for a word of the instruction set (every step of the hardware is well formed). -/
def Instr.wellFormed (i : Instr) : Bool := i.shapeOk && i.laOk

end Sys2Proof
end

