-- ==== Sys2Proof/Decode.lean ====
section
/-! DEFINITION. Decoding tile and lane words (R69 to R87) and encoding them. A decoder reads the operands of
the opcode's layout and then refuses the word unless encoding what it read gives the word back: that is the
rule that reserved bits, unused fields and high register bits are zero. -/

namespace Sys2Proof

open Machine (RMode Fmt)

/-- Why a tile word is not an instruction: each is ILLEGAL_TILE (R73, R84). -/
inductive TileDecodeError where
  /-- The second word of a class-11 pair lies beyond the end of the tile code. -/
  | noSecondWord
  /-- The opcode is unassigned in its class. -/
  | unassignedOpcode
  /-- An operand kind, a register index, an unused operand or a reserved bit breaks R70, R71 or the row. -/
  | badField
  deriving DecidableEq, Repr, Inhabited

/-- Why a lane word is an unassigned encoding: each is ILLEGAL_LANE (R86). -/
inductive LaneDecodeError where
  /-- MAJOR and MINOR are unassigned. -/
  | unassignedOpcode
  /-- A reserved field, a register block, a code or a lookahead count is excluded. -/
  | badField
  deriving DecidableEq, Repr, Inhabited

/-! ### Bit fields -/

/-- `v` placed with its lowest bit at `l` of an `n`-bit field. -/
def fld (n l : Nat) {k : Nat} (v : BitVec k) : BitVec n := (v.zeroExtend n) <<< l

/-- A Boolean as one bit. -/
def bit1 (b : Bool) : BitVec 1 := BitVec.ofBool b

/-- The fields of a tile word (R69). -/
structure TileFields where
  cls : BitVec 2
  opc : Byte
  d : BitVec 10 := 0
  a : BitVec 10 := 0
  b : BitVec 10 := 0
  c : BitVec 10 := 0
  md : BitVec 14 := 0
  deriving DecidableEq, Repr, Inhabited

/-- The 64-bit word of the fields of R69. -/
def TileFields.word (f : TileFields) : W64 :=
  f.cls ++ f.opc ++ f.d ++ f.a ++ f.b ++ f.c ++ f.md

/-- The fields of a 64-bit word under R69. -/
def TileFields.ofWord (w : W64) : TileFields :=
  { cls := w.extractLsb' 62 2, opc := w.extractLsb' 54 8, d := w.extractLsb' 44 10, a := w.extractLsb' 34 10,
    b := w.extractLsb' 24 10, c := w.extractLsb' 14 10, md := w.extractLsb' 0 14 }

def TileFields.orMd (f : TileFields) (m : BitVec 14) : TileFields := { f with md := f.md ||| m }

/-- A 6-bit register number as the low bits of a field. -/
def regOf (v : BitVec 6) : RegNo := v.toFin

def predOf (v : BitVec 3) : PredNo := v.toFin

/-- A 10-bit operand field: kind and value (R70). -/
def opdField (kind : BitVec 2) (v : Byte) : BitVec 10 := kind ++ v

def opdKind (o : BitVec 10) : Nat := (o.extractLsb' 8 2).toNat

def encS (r : RegNo) : BitVec 10 := opdField 0b00 (fld 8 0 (BitVec.ofFin r : BitVec 6))
def encT (r : RegNo) : BitVec 10 := opdField 0b01 (fld 8 0 (BitVec.ofFin r : BitVec 6))
def encP (p : PredNo) : BitVec 10 := opdField 0b00 (fld 8 0 (BitVec.ofFin p : BitVec 3))
def encC (n : Fin 256) : BitVec 10 := opdField 0b10 (BitVec.ofFin n)
def encL (v : Byte) : BitVec 10 := opdField 0b11 v

def rawS (o : BitVec 10) : Option RegNo :=
  if opdKind o = 0 then some (regOf (o.extractLsb' 0 6)) else none

def rawT (o : BitVec 10) : Option RegNo :=
  if opdKind o = 1 then some (regOf (o.extractLsb' 0 6)) else none

def rawP (o : BitVec 10) : Option PredNo :=
  if opdKind o = 0 then some (predOf (o.extractLsb' 0 3)) else none

def SK.enc : SK → BitVec 10
  | .s i => encS i
  | .c i => encC i

def SK.raw (o : BitVec 10) : Option SK :=
  match opdKind o with
  | 0 => some (.s (regOf (o.extractLsb' 0 6)))
  | 2 => some (.c (o.extractLsb' 0 8).toFin)
  | _ => none

def SKL.enc : SKL → BitVec 10
  | .s i => encS i
  | .c i => encC i
  | .l v => encL v

def SKL.raw (o : BitVec 10) : Option SKL :=
  match opdKind o with
  | 0 => some (.s (regOf (o.extractLsb' 0 6)))
  | 2 => some (.c (o.extractLsb' 0 8).toFin)
  | 3 => some (.l (o.extractLsb' 0 8))
  | _ => none

def AnyOpd.enc : AnyOpd → BitVec 10
  | .s i => encS i
  | .t i => encT i
  | .c i => encC i
  | .l v => encL v

def AnyOpd.raw (o : BitVec 10) : AnyOpd :=
  match opdKind o with
  | 0 => .s (regOf (o.extractLsb' 0 6))
  | 1 => .t (regOf (o.extractLsb' 0 6))
  | 2 => .c (o.extractLsb' 0 8).toFin
  | _ => .l (o.extractLsb' 0 8)

/-! ### Modifier codes -/

/-- The condition codes of R102. -/
def Cond.code : Cond → BitVec 4
  | .eq => 0 | .ne => 1 | .lt => 2 | .le => 3 | .gt => 4 | .ge => 5 | .ltu => 6 | .leu => 7 | .gtu => 8 | .geu => 9

def Cond.ofCode (c : BitVec 4) : Option Cond :=
  match c.toNat with
  | 0 => some .eq | 1 => some .ne | 2 => some .lt | 3 => some .le | 4 => some .gt | 5 => some .ge
  | 6 => some .ltu | 7 => some .leu | 8 => some .gtu | 9 => some .geu
  | _ => none

/-- The operation codes of R107. -/
def AtomOp.code : AtomOp → BitVec 4
  | .add => 0 | .and => 1 | .or => 2 | .xor => 3 | .min => 4 | .max => 5 | .minu => 6 | .maxu => 7 | .xchg => 8
  | .cas => 9

def AtomOp.ofCode (c : BitVec 4) : Option AtomOp :=
  match c.toNat with
  | 0 => some .add | 1 => some .and | 2 => some .or | 3 => some .xor | 4 => some .min | 5 => some .max
  | 6 => some .minu | 7 => some .maxu | 8 => some .xchg | 9 => some .cas
  | _ => none

/-- The scope codes of R107. -/
def Scope.code : Scope → BitVec 2
  | .core => 0 | .cluster => 1 | .device => 2 | .system => 3

def Scope.ofCode (c : BitVec 2) : Option Scope :=
  match c.toNat with
  | 0 => some .core | 1 => some .cluster | 2 => some .device | _ => some .system

/-- The kind codes of R109 and R230. -/
def FenceKind.code : FenceKind → BitVec 2
  | .acq => 1 | .rel => 2 | .acqrel => 3

def FenceKind.ofCode (c : BitVec 2) : Option FenceKind :=
  match c.toNat with
  | 1 => some .acq | 2 => some .rel | 3 => some .acqrel | _ => none

/-- The conditions of R200. -/
def FCond.code : FCond → BitVec 4
  | .eq => 0 | .ne => 1 | .lt => 2 | .le => 3 | .gt => 4 | .ge => 5 | .num => 6 | .nan => 7

def FCond.ofCode (c : BitVec 4) : Option FCond :=
  match c.toNat with
  | 0 => some .eq | 1 => some .ne | 2 => some .lt | 3 => some .le | 4 => some .gt | 5 => some .ge
  | 6 => some .num | 7 => some .nan
  | _ => none

/-- The reductions of R238. -/
def RedOp.code : RedOp → BitVec 4
  | .add => 0 | .min => 1 | .max => 2 | .minu => 3 | .maxu => 4 | .and => 5 | .or => 6 | .xor => 7 | .fadd => 8
  | .fmin => 9 | .fmax => 10

def RedOp.ofCode (c : BitVec 4) : Option RedOp :=
  match c.toNat with
  | 0 => some .add | 1 => some .min | 2 => some .max | 3 => some .minu | 4 => some .maxu | 5 => some .and
  | 6 => some .or | 7 => some .xor | 8 => some .fadd | 9 => some .fmin | 10 => some .fmax
  | _ => none

/-- The rounding codes of R76. -/
def Machine.RMode.code : RMode → BitVec 2
  | .rn => 0 | .rz => 1 | .ru => 2 | .rd => 3

def Machine.RMode.ofCode (c : BitVec 2) : Option RMode :=
  match c.toNat with
  | 0 => some .rn | 1 => some .rz | 2 => some .ru | _ => some .rd

/-- The format codes of R42 and R205 (0 stands for no format, which no conversion names). -/
def Machine.Fmt.code : Fmt → BitVec 4
  | .none => 0 | .int8 => 1 | .uint8 => 2 | .e4m3 => 3 | .e5m2 => 4 | .pw8 => 5 | .bf16 => 6 | .fp16 => 7 | .fp32 => 8
  | .int32 => 9

def fmtOfLaneCode (c : BitVec 4) : Option Fmt :=
  match c.toNat with
  | 1 => some .int8 | 2 => some .uint8 | 3 => some .e4m3 | 4 => some .e5m2 | 5 => some .pw8 | 6 => some .bf16
  | 7 => some .fp16 | 8 => some .fp32 | 9 => some .int32
  | _ => none

/-- The fields of a lane word (R74). -/
structure LaneFields where
  maj : BitVec 6
  min : BitVec 5
  h : LHead
  vd : RegNo := 0
  a : LSrc := ⟨0, false⟩
  b : LSrc := ⟨0, false⟩
  c : LSrc := ⟨0, false⟩
  imm : BitVec 18 := 0
  deriving DecidableEq, Repr, Inhabited

/-- A source register field followed by its last-use bit. -/
def LSrc.bits (s : LSrc) : BitVec 7 := (BitVec.ofFin s.r : BitVec 6) ++ bit1 s.lu

def LSrc.ofBits (v : BitVec 7) : LSrc := ⟨regOf (v.extractLsb' 1 6), v.getLsbD 0⟩

/-- LA, GUARD and GNEG (R74). -/
def LHead.bits (h : LHead) : BitVec 8 := h.la ++ (BitVec.ofFin h.g : BitVec 3) ++ bit1 h.neg

def LHead.ofBits (v : BitVec 8) : LHead := ⟨v.extractLsb' 4 4, predOf (v.extractLsb' 1 3), v.getLsbD 0⟩

/-- The 64-bit word of the fields of R74. -/
def LaneFields.word (f : LaneFields) : W64 :=
  f.maj ++ f.min ++ f.h.bits ++ (BitVec.ofFin f.vd : BitVec 6) ++ f.a.bits ++ f.b.bits ++ f.c.bits ++ f.imm

/-- The fields of a 64-bit word under R74. -/
def LaneFields.ofWord (w : W64) : LaneFields :=
  { maj := w.extractLsb' 58 6, min := w.extractLsb' 53 5, h := LHead.ofBits (w.extractLsb' 45 8),
    vd := regOf (w.extractLsb' 39 6), a := LSrc.ofBits (w.extractLsb' 32 7), b := LSrc.ofBits (w.extractLsb' 25 7),
    c := LSrc.ofBits (w.extractLsb' 18 7), imm := w.extractLsb' 0 18 }

/-- A predicate in a register field (R193). -/
def predField (p : PredNo) : RegNo := p.castLE (by decide)

def fieldPred (r : RegNo) : PredNo := ⟨r.val % 8, Nat.mod_lt _ (by decide)⟩

/-- A combining predicate with its negate bit (R198). -/
def predNegField (p : PredNo) (neg : Bool) : RegNo := regOf (fld 6 0 (bit1 neg ++ (BitVec.ofFin p : BitVec 3)))

def fieldNeg (r : RegNo) : Bool := (BitVec.ofFin r : BitVec 6).getLsbD 3

/-- The mask operand of a collective (R232): VC, or IMM[17] for `.ALL`. -/
def maskField : Option LSrc → LSrc
  | some m => m
  | none => ⟨0, false⟩

def maskAll : Option LSrc → BitVec 18
  | some _ => 0
  | none => fld 18 17 (1#1)

def LaneFields.fieldMask (f : LaneFields) : Option LSrc := if f.imm.getLsbD 17 then none else some f.c

def fieldMask (f : LaneFields) : Option LSrc := f.fieldMask

/-- Operand B as a field and as IMM bits (R76). -/
def LB.field : LB → LSrc
  | .reg s => s
  | .imm _ => ⟨0, false⟩

def LB.immBits : LB → BitVec 18
  | .reg _ => 0
  | .imm i => fld 18 17 (1#1) ||| fld 18 0 i

def LaneFields.immB (f : LaneFields) : LB :=
  if f.imm.getLsbD 17 then .imm (f.imm.extractLsb' 0 16) else .reg f.b

def Machine.Fmt.ofCode4 (c : BitVec 4) : Option Fmt := fmtOfLaneCode c


/-! ### Tile operand shapes -/

/-- The fields of a `TAlu2` word of class `cls` and opcode `opc`. -/
def TAlu2.fields (cls : BitVec 2) (opc : Byte) (x : TAlu2) : TileFields :=
  { cls := cls, opc := opc, d := SK.enc x.d, a := SKL.enc x.a, b := SKL.enc x.b }

/-- The operands read from the fields of a `TAlu2` word. -/
def TAlu2.raw (f : TileFields) : Option TAlu2 := do
  let d ← SK.raw f.d
  let a ← SKL.raw f.a
  let b ← SKL.raw f.b
  return { d := d, a := a, b := b }

/-- The fields of a `TAlu1` word of class `cls` and opcode `opc`. -/
def TAlu1.fields (cls : BitVec 2) (opc : Byte) (x : TAlu1) : TileFields :=
  { cls := cls, opc := opc, d := SK.enc x.d, a := SKL.enc x.a }

/-- The operands read from the fields of a `TAlu1` word. -/
def TAlu1.raw (f : TileFields) : Option TAlu1 := do
  let d ← SK.raw f.d
  let a ← SKL.raw f.a
  return { d := d, a := a }

/-- The fields of a `TMulh` word of class `cls` and opcode `opc`. -/
def TMulh.fields (cls : BitVec 2) (opc : Byte) (x : TMulh) : TileFields :=
  { cls := cls, opc := opc, d := SK.enc x.d, a := SKL.enc x.a, b := SKL.enc x.b, md := fld 14 0 (bit1 x.u) }

/-- The operands read from the fields of a `TMulh` word. -/
def TMulh.raw (f : TileFields) : Option TMulh := do
  let d ← SK.raw f.d
  let a ← SKL.raw f.a
  let b ← SKL.raw f.b
  return { d := d, a := a, b := b, u := f.md.getLsbD 0 }

/-- The fields of a `TAlu3` word of class `cls` and opcode `opc`. -/
def TAlu3.fields (cls : BitVec 2) (opc : Byte) (x : TAlu3) : TileFields :=
  { cls := cls, opc := opc, d := SK.enc x.d, a := SKL.enc x.a, b := SKL.enc x.b, c := SKL.enc x.c }

/-- The operands read from the fields of a `TAlu3` word. -/
def TAlu3.raw (f : TileFields) : Option TAlu3 := do
  let d ← SK.raw f.d
  let a ← SKL.raw f.a
  let b ← SKL.raw f.b
  let c ← SKL.raw f.c
  return { d := d, a := a, b := b, c := c }

/-- The fields of a `TSel` word of class `cls` and opcode `opc`. -/
def TSel.fields (cls : BitVec 2) (opc : Byte) (x : TSel) : TileFields :=
  { cls := cls, opc := opc, d := SK.enc x.d, a := SKL.enc x.a, b := SKL.enc x.b, c := encP x.p }

/-- The operands read from the fields of a `TSel` word. -/
def TSel.raw (f : TileFields) : Option TSel := do
  let d ← SK.raw f.d
  let a ← SKL.raw f.a
  let b ← SKL.raw f.b
  let p ← rawP f.c
  return { d := d, a := a, b := b, p := p }

/-- The fields of a `TCmp` word of class `cls` and opcode `opc`. -/
def TCmp.fields (cls : BitVec 2) (opc : Byte) (x : TCmp) : TileFields :=
  { cls := cls, opc := opc, d := encP x.p, a := SKL.enc x.a, b := SKL.enc x.b, md := fld 14 0 x.cond.code }

/-- The operands read from the fields of a `TCmp` word. -/
def TCmp.raw (f : TileFields) : Option TCmp := do
  let p ← rawP f.d
  let a ← SKL.raw f.a
  let b ← SKL.raw f.b
  let cond ← Cond.ofCode (f.md.extractLsb' 0 4)
  return { p := p, a := a, b := b, cond := cond }

/-- The fields of a `TPred2` word of class `cls` and opcode `opc`. -/
def TPred2.fields (cls : BitVec 2) (opc : Byte) (x : TPred2) : TileFields :=
  { cls := cls, opc := opc, d := encP x.d, a := encP x.a, b := encP x.b }

/-- The operands read from the fields of a `TPred2` word. -/
def TPred2.raw (f : TileFields) : Option TPred2 := do
  let d ← rawP f.d
  let a ← rawP f.a
  let b ← rawP f.b
  return { d := d, a := a, b := b }

/-- The fields of a `TPred1` word of class `cls` and opcode `opc`. -/
def TPred1.fields (cls : BitVec 2) (opc : Byte) (x : TPred1) : TileFields :=
  { cls := cls, opc := opc, d := encP x.d, a := encP x.a }

/-- The operands read from the fields of a `TPred1` word. -/
def TPred1.raw (f : TileFields) : Option TPred1 := do
  let d ← rawP f.d
  let a ← rawP f.a
  return { d := d, a := a }

/-- The fields of a `TLoad` word of class `cls` and opcode `opc`. -/
def TLoad.fields (cls : BitVec 2) (opc : Byte) (x : TLoad) : TileFields :=
  { cls := cls, opc := opc, d := SK.enc x.d, a := SK.enc x.a, b := SKL.enc x.b, md := fld 14 0 x.w ||| fld 14 2 (bit1 x.sx) }

/-- The operands read from the fields of a `TLoad` word. -/
def TLoad.raw (f : TileFields) : Option TLoad := do
  let d ← SK.raw f.d
  let a ← SK.raw f.a
  let b ← SKL.raw f.b
  return { d := d, a := a, b := b, w := f.md.extractLsb' 0 2, sx := f.md.getLsbD 2 }

/-- The fields of a `TStore` word of class `cls` and opcode `opc`. -/
def TStore.fields (cls : BitVec 2) (opc : Byte) (x : TStore) : TileFields :=
  { cls := cls, opc := opc, a := SK.enc x.a, b := SKL.enc x.b, c := SKL.enc x.c, md := fld 14 0 x.w }

/-- The operands read from the fields of a `TStore` word. -/
def TStore.raw (f : TileFields) : Option TStore := do
  let a ← SK.raw f.a
  let b ← SKL.raw f.b
  let c ← SKL.raw f.c
  return { a := a, b := b, c := c, w := f.md.extractLsb' 0 2 }

/-- The fields of a `TFence` word of class `cls` and opcode `opc`. -/
def TFence.fields (cls : BitVec 2) (opc : Byte) (x : TFence) : TileFields :=
  { cls := cls, opc := opc, md := fld 14 2 x.kind.code ||| fld 14 0 x.scope.code }

/-- The operands read from the fields of a `TFence` word. -/
def TFence.raw (f : TileFields) : Option TFence := do
  let kind ← FenceKind.ofCode (f.md.extractLsb' 2 2)
  let scope ← Scope.ofCode (f.md.extractLsb' 0 2)
  return { kind := kind, scope := scope }

/-- The fields of a `TLink` word of class `cls` and opcode `opc`. -/
def TLink.fields (cls : BitVec 2) (opc : Byte) (x : TLink) : TileFields :=
  { cls := cls, opc := opc, d := encS x.d, md := fld 14 0 x.disp }

/-- The operands read from the fields of a `TLink` word. -/
def TLink.raw (f : TileFields) : Option TLink := do
  let d ← rawS f.d
  return { d := d, disp := f.md.extractLsb' 0 14 }

/-- The fields of a `TSrd` word of class `cls` and opcode `opc`. -/
def TSrd.fields (cls : BitVec 2) (opc : Byte) (x : TSrd) : TileFields :=
  { cls := cls, opc := opc, d := SK.enc x.d, md := fld 14 0 x.n }

/-- The operands read from the fields of a `TSrd` word. -/
def TSrd.raw (f : TileFields) : Option TSrd := do
  let d ← SK.raw f.d
  return { d := d, n := f.md.extractLsb' 0 8 }

/-- The fields of a `TSwr` word of class `cls` and opcode `opc`. -/
def TSwr.fields (cls : BitVec 2) (opc : Byte) (x : TSwr) : TileFields :=
  { cls := cls, opc := opc, a := SKL.enc x.a, md := fld 14 0 x.n }

/-- The operands read from the fields of a `TSwr` word. -/
def TSwr.raw (f : TileFields) : Option TSwr := do
  let a ← SKL.raw f.a
  return { a := a, n := f.md.extractLsb' 0 8 }

/-- The fields of a `TGth` word of class `cls` and opcode `opc`. -/
def TGth.fields (cls : BitVec 2) (opc : Byte) (x : TGth) : TileFields :=
  { cls := cls, opc := opc, d := encT x.t, a := SK.enc x.a, b := SK.enc x.b, c := SK.enc x.c, md := fld 14 12 x.q ||| fld 14 11 (bit1 x.dev) }

/-- The operands read from the fields of a `TGth` word. -/
def TGth.raw (f : TileFields) : Option TGth := do
  let t ← rawT f.d
  let a ← SK.raw f.a
  let b ← SK.raw f.b
  let c ← SK.raw f.c
  return { t := t, a := a, b := b, c := c, q := f.md.extractLsb' 12 2, dev := f.md.getLsbD 11 }

/-- The fields of a `TSct` word of class `cls` and opcode `opc`. -/
def TSct.fields (cls : BitVec 2) (opc : Byte) (x : TSct) : TileFields :=
  { cls := cls, opc := opc, d := SK.enc x.d, a := encT x.t, b := SK.enc x.b, c := SK.enc x.c, md := fld 14 12 x.q ||| fld 14 11 (bit1 x.dev) }

/-- The operands read from the fields of a `TSct` word. -/
def TSct.raw (f : TileFields) : Option TSct := do
  let d ← SK.raw f.d
  let t ← rawT f.a
  let b ← SK.raw f.b
  let c ← SK.raw f.c
  return { d := d, t := t, b := b, c := c, q := f.md.extractLsb' 12 2, dev := f.md.getLsbD 11 }

/-- The fields of a `TPft` word of class `cls` and opcode `opc`. -/
def TPft.fields (cls : BitVec 2) (opc : Byte) (x : TPft) : TileFields :=
  { cls := cls, opc := opc, a := SK.enc x.a, b := SK.enc x.b, c := SKL.enc x.c, md := fld 14 12 x.q ||| fld 14 11 (bit1 x.dev) }

/-- The operands read from the fields of a `TPft` word. -/
def TPft.raw (f : TileFields) : Option TPft := do
  let a ← SK.raw f.a
  let b ← SK.raw f.b
  let c ← SKL.raw f.c
  return { a := a, b := b, c := c, q := f.md.extractLsb' 12 2, dev := f.md.getLsbD 11 }

/-- The fields of a `TMcast` word of class `cls` and opcode `opc`. -/
def TMcast.fields (cls : BitVec 2) (opc : Byte) (x : TMcast) : TileFields :=
  { cls := cls, opc := opc, d := SKL.enc x.d, a := encT x.t, b := SK.enc x.b, md := fld 14 12 x.q }

/-- The operands read from the fields of a `TMcast` word. -/
def TMcast.raw (f : TileFields) : Option TMcast := do
  let d ← SKL.raw f.d
  let t ← rawT f.a
  let b ← SK.raw f.b
  return { d := d, t := t, b := b, q := f.md.extractLsb' 12 2 }

/-- The fields of a `TBinit` word of class `cls` and opcode `opc`. -/
def TBinit.fields (cls : BitVec 2) (opc : Byte) (x : TBinit) : TileFields :=
  { cls := cls, opc := opc, a := SK.enc x.a, b := SKL.enc x.b, c := SKL.enc x.c, md := fld 14 11 (bit1 x.dev) ||| fld 14 0 (bit1 x.y) }

/-- The operands read from the fields of a `TBinit` word. -/
def TBinit.raw (f : TileFields) : Option TBinit := do
  let a ← SK.raw f.a
  let b ← SKL.raw f.b
  let c ← SKL.raw f.c
  return { a := a, b := b, c := c, dev := f.md.getLsbD 11, y := f.md.getLsbD 0 }

/-- The fields of a `TBarv` word of class `cls` and opcode `opc`. -/
def TBarv.fields (cls : BitVec 2) (opc : Byte) (x : TBarv) : TileFields :=
  { cls := cls, opc := opc, d := SK.enc x.d, a := SK.enc x.a, md := fld 14 11 (bit1 x.dev) }

/-- The operands read from the fields of a `TBarv` word. -/
def TBarv.raw (f : TileFields) : Option TBarv := do
  let d ← SK.raw f.d
  let a ← SK.raw f.a
  return { d := d, a := a, dev := f.md.getLsbD 11 }

/-- The fields of a `TBexp` word of class `cls` and opcode `opc`. -/
def TBexp.fields (cls : BitVec 2) (opc : Byte) (x : TBexp) : TileFields :=
  { cls := cls, opc := opc, d := SK.enc x.d, a := SK.enc x.a, b := SKL.enc x.b, md := fld 14 11 (bit1 x.dev) }

/-- The operands read from the fields of a `TBexp` word. -/
def TBexp.raw (f : TileFields) : Option TBexp := do
  let d ← SK.raw f.d
  let a ← SK.raw f.a
  let b ← SKL.raw f.b
  return { d := d, a := a, b := b, dev := f.md.getLsbD 11 }

/-- The fields of a `TBwait` word of class `cls` and opcode `opc`. -/
def TBwait.fields (cls : BitVec 2) (opc : Byte) (x : TBwait) : TileFields :=
  { cls := cls, opc := opc, a := SK.enc x.a, b := SKL.enc x.b, md := fld 14 11 (bit1 x.dev) ||| fld 14 0 (bit1 x.y) }

/-- The operands read from the fields of a `TBwait` word. -/
def TBwait.raw (f : TileFields) : Option TBwait := do
  let a ← SK.raw f.a
  let b ← SKL.raw f.b
  return { a := a, b := b, dev := f.md.getLsbD 11, y := f.md.getLsbD 0 }

/-- The fields of a `TBtry` word of class `cls` and opcode `opc`. -/
def TBtry.fields (cls : BitVec 2) (opc : Byte) (x : TBtry) : TileFields :=
  { cls := cls, opc := opc, d := encP x.p, a := SK.enc x.a, b := SKL.enc x.b, md := fld 14 11 (bit1 x.dev) }

/-- The operands read from the fields of a `TBtry` word. -/
def TBtry.raw (f : TileFields) : Option TBtry := do
  let p ← rawP f.d
  let a ← SK.raw f.a
  let b ← SKL.raw f.b
  return { p := p, a := a, b := b, dev := f.md.getLsbD 11 }

/-- The fields of a `TPsett` word of class `cls` and opcode `opc`. -/
def TPsett.fields (cls : BitVec 2) (opc : Byte) (x : TPsett) : TileFields :=
  { cls := cls, opc := opc, a := SKL.enc x.a, b := SKL.enc x.b, md := fld 14 0 x.f }

/-- The operands read from the fields of a `TPsett` word. -/
def TPsett.raw (f : TileFields) : Option TPsett := do
  let a ← SKL.raw f.a
  let b ← SKL.raw f.b
  return { a := a, b := b, f := f.md.extractLsb' 0 2 }

/-- The fields of a `TLsupd` word of class `cls` and opcode `opc`. -/
def TLsupd.fields (cls : BitVec 2) (opc : Byte) (x : TLsupd) : TileFields :=
  { cls := cls, opc := opc, d := encS x.d, a := encP x.p }

/-- The operands read from the fields of a `TLsupd` word. -/
def TLsupd.raw (f : TileFields) : Option TLsupd := do
  let d ← rawS f.d
  let p ← rawP f.a
  return { d := d, p := p }

/-- The fields of a `TDqpush` word of class `cls` and opcode `opc`. -/
def TDqpush.fields (cls : BitVec 2) (opc : Byte) (x : TDqpush) : TileFields :=
  { cls := cls, opc := opc, a := SKL.enc x.a, b := SK.enc x.b }

/-- The operands read from the fields of a `TDqpush` word. -/
def TDqpush.raw (f : TileFields) : Option TDqpush := do
  let a ← SKL.raw f.a
  let b ← SK.raw f.b
  return { a := a, b := b }

/-- The fields of a `TTdesc` word of class `cls` and opcode `opc`. -/
def TTdesc.fields (cls : BitVec 2) (opc : Byte) (x : TTdesc) : TileFields :=
  { cls := cls, opc := opc, d := encT x.t, a := SKL.enc x.a, b := SKL.enc x.b, md := fld 14 0 x.f }

/-- The operands read from the fields of a `TTdesc` word. -/
def TTdesc.raw (f : TileFields) : Option TTdesc := do
  let t ← rawT f.d
  let a ← SKL.raw f.a
  let b ← SKL.raw f.b
  return { t := t, a := a, b := b, f := f.md.extractLsb' 0 3 }

/-- The fields of a `TTget` word of class `cls` and opcode `opc`. -/
def TTget.fields (cls : BitVec 2) (opc : Byte) (x : TTget) : TileFields :=
  { cls := cls, opc := opc, d := SK.enc x.d, a := encT x.t, md := fld 14 0 (bit1 x.hi) }

/-- The operands read from the fields of a `TTget` word. -/
def TTget.raw (f : TileFields) : Option TTget := do
  let d ← SK.raw f.d
  let t ← rawT f.a
  return { d := d, t := t, hi := f.md.getLsbD 0 }

/-- The fields of a `TBind` word of class `cls` and opcode `opc`. -/
def TBind.fields (cls : BitVec 2) (opc : Byte) (x : TBind) : TileFields :=
  { cls := cls, opc := opc, a := SKL.enc x.a, b := SKL.enc x.b }

/-- The operands read from the fields of a `TBind` word. -/
def TBind.raw (f : TileFields) : Option TBind := do
  let a ← SKL.raw f.a
  let b ← SKL.raw f.b
  return { a := a, b := b }

/-- The fields of a `TQsinit` word of class `cls` and opcode `opc`. -/
def TQsinit.fields (cls : BitVec 2) (opc : Byte) (x : TQsinit) : TileFields :=
  { cls := cls, opc := opc, a := SK.enc x.a, b := SKL.enc x.b, c := SKL.enc x.c }

/-- The operands read from the fields of a `TQsinit` word. -/
def TQsinit.raw (f : TileFields) : Option TQsinit := do
  let a ← SK.raw f.a
  let b ← SKL.raw f.b
  let c ← SKL.raw f.c
  return { a := a, b := b, c := c }

/-- The fields of a `TCpyIn` word of class `cls` and opcode `opc`. -/
def TCpyIn.fields (cls : BitVec 2) (opc : Byte) (x : TCpyIn) : TileFields :=
  { cls := cls, opc := opc, d := encT x.t, a := SK.enc x.a, b := SK.enc x.b, c := SKL.enc x.c, md := fld 14 12 x.q ||| fld 14 11 (bit1 x.dev) }

/-- The operands read from the fields of a `TCpyIn` word. -/
def TCpyIn.raw (f : TileFields) : Option TCpyIn := do
  let t ← rawT f.d
  let a ← SK.raw f.a
  let b ← SK.raw f.b
  let c ← SKL.raw f.c
  return { t := t, a := a, b := b, c := c, q := f.md.extractLsb' 12 2, dev := f.md.getLsbD 11 }

/-- The fields of a `TCpyOut` word of class `cls` and opcode `opc`. -/
def TCpyOut.fields (cls : BitVec 2) (opc : Byte) (x : TCpyOut) : TileFields :=
  { cls := cls, opc := opc, d := SK.enc x.d, a := encT x.t, b := SK.enc x.b, c := SKL.enc x.c, md := fld 14 12 x.q ||| fld 14 11 (bit1 x.dev) }

/-- The operands read from the fields of a `TCpyOut` word. -/
def TCpyOut.raw (f : TileFields) : Option TCpyOut := do
  let d ← SK.raw f.d
  let t ← rawT f.a
  let b ← SK.raw f.b
  let c ← SKL.raw f.c
  return { d := d, t := t, b := b, c := c, q := f.md.extractLsb' 12 2, dev := f.md.getLsbD 11 }

/-- The fields of a `TCpyKk` word of class `cls` and opcode `opc`. -/
def TCpyKk.fields (cls : BitVec 2) (opc : Byte) (x : TCpyKk) : TileFields :=
  { cls := cls, opc := opc, d := encT x.t, a := encT x.a, b := SK.enc x.b, md := fld 14 12 x.q ||| fld 14 11 (bit1 x.dev) }

/-- The operands read from the fields of a `TCpyKk` word. -/
def TCpyKk.raw (f : TileFields) : Option TCpyKk := do
  let t ← rawT f.d
  let a ← rawT f.a
  let b ← SK.raw f.b
  return { t := t, a := a, b := b, q := f.md.extractLsb' 12 2, dev := f.md.getLsbD 11 }

/-- The fields of a `TRcpy` word of class `cls` and opcode `opc`. -/
def TRcpy.fields (cls : BitVec 2) (opc : Byte) (x : TRcpy) : TileFields :=
  { cls := cls, opc := opc, d := encT x.t, a := SK.enc x.a, b := SK.enc x.b, md := fld 14 12 x.q ||| fld 14 11 (bit1 x.dev) }

/-- The operands read from the fields of a `TRcpy` word. -/
def TRcpy.raw (f : TileFields) : Option TRcpy := do
  let t ← rawT f.d
  let a ← SK.raw f.a
  let b ← SK.raw f.b
  return { t := t, a := a, b := b, q := f.md.extractLsb' 12 2, dev := f.md.getLsbD 11 }

/-- The fields of an `ATOMS` word (R107). -/
def TAtom.fields (cls : BitVec 2) (opc : Byte) (x : TAtom) : TileFields :=
  { cls := cls, opc := opc, d := x.d.enc, a := x.a.enc, b := x.b.enc,
    c := match x.c with | some c => c.enc | none => 0,
    md := fld 14 8 (bit1 x.rel) ||| fld 14 7 (bit1 x.acq) ||| fld 14 6 (bit1 x.w64) ||| fld 14 4 x.scope.code |||
      fld 14 0 x.op.code }

def TAtom.raw (f : TileFields) : Option TAtom := do
  let d ← SK.raw f.d
  let a ← SK.raw f.a
  let b ← SKL.raw f.b
  let op ← AtomOp.ofCode (f.md.extractLsb' 0 4)
  let scope ← Scope.ofCode (f.md.extractLsb' 4 2)
  let c ← if op = .cas then (SKL.raw f.c).map some else some none
  return { d := d, a := a, b := b, c := c, op := op, scope := scope, w64 := f.md.getLsbD 6,
           acq := f.md.getLsbD 7, rel := f.md.getLsbD 8 }

/-- The fields of a `BR` word (R110): the sense is the literal of B. -/
def TBr.fields (cls : BitVec 2) (opc : Byte) (x : TBr) : TileFields :=
  { cls := cls, opc := opc, a := encP x.p, b := encL (fld 8 0 (bit1 x.sense)), md := x.disp }

def TBr.raw (f : TileFields) : Option TBr := do
  let p ← rawP f.a
  if opdKind f.b = 3 then return { p := p, sense := f.b.getLsbD 0, disp := f.md } else none

/-- The fields of a class-01 word (R81). -/
def BoundWord.fields (x : BoundWord) : TileFields :=
  { cls := 0b01, opc := x.idx, d := x.d.enc, a := x.a.enc, b := x.b.enc, c := x.c.enc, md := x.md }

def BoundWord.raw (f : TileFields) : Option BoundWord :=
  some { idx := f.opc, d := AnyOpd.raw f.d, a := AnyOpd.raw f.a, b := AnyOpd.raw f.b, c := AnyOpd.raw f.c, md := f.md }


/-- The class-00 opcode map (R80). -/
def rawClass00 (f : TileFields) : Option Instr :=
  match f.opc.toNat with
  | 0x01 => (TAlu2.raw f).map .add
  | 0x02 => (TAlu2.raw f).map .sub
  | 0x03 => (TAlu2.raw f).map .mul
  | 0x04 => (TMulh.raw f).map .mulh
  | 0x05 => (TAlu3.raw f).map .madd
  | 0x06 => (TAlu2.raw f).map .div
  | 0x07 => (TAlu2.raw f).map .divu
  | 0x08 => (TAlu2.raw f).map .rem
  | 0x09 => (TAlu2.raw f).map .remu
  | 0x10 => (TAlu2.raw f).map .tileAnd
  | 0x11 => (TAlu2.raw f).map .tileOr
  | 0x12 => (TAlu2.raw f).map .tileXor
  | 0x13 => (TAlu2.raw f).map .tileAndn
  | 0x14 => (TAlu2.raw f).map .tileShl
  | 0x15 => (TAlu2.raw f).map .tileShr
  | 0x16 => (TAlu2.raw f).map .tileSar
  | 0x18 => (TAlu2.raw f).map .min
  | 0x19 => (TAlu2.raw f).map .max
  | 0x1a => (TAlu2.raw f).map .minu
  | 0x1b => (TAlu2.raw f).map .maxu
  | 0x1c => (TAlu1.raw f).map .tileClz
  | 0x1d => (TAlu1.raw f).map .tilePopc
  | 0x20 => (TAlu1.raw f).map .tileMov
  | 0x21 => (TSel.raw f).map .tileSel
  | 0x22 => (TCmp.raw f).map .cmp
  | 0x28 => (TPred2.raw f).map .pand
  | 0x29 => (TPred2.raw f).map .por
  | 0x2a => (TPred2.raw f).map .pxor
  | 0x2b => (TPred1.raw f).map .pnot
  | 0x30 => (TLoad.raw f).map .lds
  | 0x31 => (TStore.raw f).map .sts
  | 0x32 => (TLoad.raw f).map .tileLdk
  | 0x33 => (TStore.raw f).map .tileStk
  | 0x34 => (TAtom.raw f).map .atoms
  | 0x35 => (TFence.raw f).map .tileFence
  | 0x38 => (TBr.raw f).map .br
  | 0x39 => (SK.raw f.a).map .jmp
  | 0x3a => (TLink.raw f).map .tileCall
  | 0x3b => (SK.raw f.a).map .tileRet
  | 0x3c => (TLink.raw f).map .loop
  | 0x40 => (TSrd.raw f).map .srd
  | 0x41 => (TSwr.raw f).map .swr
  | 0x48 => (SKL.raw f.a).map .tileTrap
  | 0x49 => some .eret
  | 0x4a => some .tileNop
  | 0x4b => (SKL.raw f.a).map .safept
  | 0x4c => some .taskEnd
  | _ => none

/-- Class 01 (R81, R91): the default name of an engine index, and a routine dispatch for every other index. -/
def rawClass01 (f : TileFields) : Option Instr :=
  match f.opc.toNat with
  | 0x00 => (BoundWord.raw f).map .mma
  | 0x01 => (BoundWord.raw f).map .accld
  | 0x02 => (BoundWord.raw f).map .accst
  | 0x03 => (BoundWord.raw f).map .accz
  | 0x04 => (BoundWord.raw f).map .tcvt
  | 0x05 => (BoundWord.raw f).map .qnt
  | 0x06 => (BoundWord.raw f).map .dqnt
  | 0x07 => (BoundWord.raw f).map .had
  | 0x08 => (BoundWord.raw f).map .perm
  | _ => (BoundWord.raw f).map .routineDispatch

/-- The class-10 opcode map (R82, R161). -/
def rawClass10 (f : TileFields) : Option Instr :=
  match f.opc.toNat with
  | 0x00 =>
    match (f.md.extractLsb' 8 2).toNat with
    | 0 => (TCpyIn.raw f).map .cpyIn
    | 1 => (TCpyOut.raw f).map .cpyOut
    | 2 => (TCpyKk.raw f).map .cpyKk
    | _ => none
  | 0x01 => (TGth.raw f).map .gth
  | 0x02 => (TSct.raw f).map .sct
  | 0x03 => (TPft.raw f).map .pft
  | 0x04 => if f.md.getLsbD 8 then (TRcpy.raw f).map .rcpyPush else (TRcpy.raw f).map .rcpyPull
  | 0x05 => (TMcast.raw f).map .mcast
  | 0x08 => (TBinit.raw f).map .binit
  | 0x09 => (TBarv.raw f).map .tileBarv
  | 0x0a => (TBexp.raw f).map .bexp
  | 0x0b => (TBwait.raw f).map .tileBwait
  | 0x0c => (TBtry.raw f).map .tileBtry
  | 0x10 => (SKL.raw f.a).map .pclose
  | 0x11 => (TAlu2.raw f).map .ppeek
  | 0x12 => if f.md.getLsbD 0 then (TAlu2.raw f).map .preadHdr else (TAlu2.raw f).map .pread
  | 0x13 => (SKL.raw f.a).map .preset
  | 0x14 => (TPsett.raw f).map .psett
  | 0x18 => (TLsupd.raw f).map .lsupd
  | 0x19 => (SK.raw f.a).map .launch
  | 0x1a => (TDqpush.raw f).map .dqpush
  | 0x1b => (TTdesc.raw f).map .tdesc
  | 0x1c => (TTget.raw f).map .tget
  | 0x1d => (TBind.raw f).map .bind
  | 0x1e => (TBind.raw f).map .bindrd
  | 0x1f => (TQsinit.raw f).map .qsinit
  | _ => none

/-- Class 11 (R83, R121), with its second word. -/
def rawClass11 (f : TileFields) (w2 : W64) : Option Instr :=
  match f.opc.toNat with
  | 0x00 => (SK.raw f.d).map fun d => .lit { d := d, v := w2 }
  | 0x01 => do
    let t ← rawT f.d
    let a ← SKL.raw f.a
    return .tdescl { t := t, a := a, v := w2 }
  | _ => none

/-- Is the opcode assigned in its class (R80 to R83)? -/
def tileAssigned (f : TileFields) : Bool :=
  match f.cls.toNat with
  | 0 => [0x01, 0x02, 0x03, 0x04, 0x05, 0x06, 0x07, 0x08, 0x09, 0x10, 0x11, 0x12, 0x13, 0x14, 0x15, 0x16, 0x18,
      0x19, 0x1A, 0x1B, 0x1C, 0x1D, 0x20, 0x21, 0x22, 0x28, 0x29, 0x2A, 0x2B, 0x30, 0x31, 0x32, 0x33, 0x34, 0x35,
      0x38, 0x39, 0x3A, 0x3B, 0x3C, 0x40, 0x41, 0x48, 0x49, 0x4A, 0x4B, 0x4C].contains f.opc.toNat
  | 1 => true
  | 2 => f.opc.toNat ≤ 0x05 || (0x08 ≤ f.opc.toNat && f.opc.toNat ≤ 0x0C) ||
      (0x10 ≤ f.opc.toNat && f.opc.toNat ≤ 0x14) || (0x18 ≤ f.opc.toNat && f.opc.toNat ≤ 0x1F)
  | _ => f.opc.toNat ≤ 0x01


/-- The first word of each tile instruction (R69 to R73), as fields. -/
def tileFields : Instr → Option TileFields
  | .add x => some (x.fields 0b00 0x01)
  | .sub x => some (x.fields 0b00 0x02)
  | .mul x => some (x.fields 0b00 0x03)
  | .mulh x => some (x.fields 0b00 0x04)
  | .madd x => some (x.fields 0b00 0x05)
  | .div x => some (x.fields 0b00 0x06)
  | .divu x => some (x.fields 0b00 0x07)
  | .rem x => some (x.fields 0b00 0x08)
  | .remu x => some (x.fields 0b00 0x09)
  | .tileAnd x => some (x.fields 0b00 0x10)
  | .tileOr x => some (x.fields 0b00 0x11)
  | .tileXor x => some (x.fields 0b00 0x12)
  | .tileAndn x => some (x.fields 0b00 0x13)
  | .tileShl x => some (x.fields 0b00 0x14)
  | .tileShr x => some (x.fields 0b00 0x15)
  | .tileSar x => some (x.fields 0b00 0x16)
  | .min x => some (x.fields 0b00 0x18)
  | .max x => some (x.fields 0b00 0x19)
  | .minu x => some (x.fields 0b00 0x1a)
  | .maxu x => some (x.fields 0b00 0x1b)
  | .tileClz x => some (x.fields 0b00 0x1c)
  | .tilePopc x => some (x.fields 0b00 0x1d)
  | .tileMov x => some (x.fields 0b00 0x20)
  | .tileSel x => some (x.fields 0b00 0x21)
  | .cmp x => some (x.fields 0b00 0x22)
  | .pand x => some (x.fields 0b00 0x28)
  | .por x => some (x.fields 0b00 0x29)
  | .pxor x => some (x.fields 0b00 0x2a)
  | .pnot x => some (x.fields 0b00 0x2b)
  | .lds x => some (x.fields 0b00 0x30)
  | .sts x => some (x.fields 0b00 0x31)
  | .tileLdk x => some (x.fields 0b00 0x32)
  | .tileStk x => some (x.fields 0b00 0x33)
  | .atoms x => some (x.fields 0b00 0x34)
  | .tileFence x => some (x.fields 0b00 0x35)
  | .br x => some (x.fields 0b00 0x38)
  | .jmp a => some { cls := 0b00, opc := 0x39, a := a.enc }
  | .tileCall x => some (x.fields 0b00 0x3a)
  | .tileRet a => some { cls := 0b00, opc := 0x3b, a := a.enc }
  | .loop x => some (x.fields 0b00 0x3c)
  | .srd x => some (x.fields 0b00 0x40)
  | .swr x => some (x.fields 0b00 0x41)
  | .tileTrap a => some { cls := 0b00, opc := 0x48, a := a.enc }
  | .eret => some { cls := 0b00, opc := 0x49 }
  | .tileNop => some { cls := 0b00, opc := 0x4a }
  | .safept a => some { cls := 0b00, opc := 0x4b, a := a.enc }
  | .taskEnd => some { cls := 0b00, opc := 0x4c }
  | .mma x => some x.fields
  | .accld x => some x.fields
  | .accst x => some x.fields
  | .accz x => some x.fields
  | .tcvt x => some x.fields
  | .qnt x => some x.fields
  | .dqnt x => some x.fields
  | .had x => some x.fields
  | .perm x => some x.fields
  | .routineDispatch x => some x.fields
  | .cpyIn x => some (x.fields 0b10 0x00)
  | .cpyOut x => some ((x.fields 0b10 0x00).orMd (fld 14 8 (0b01#2)))
  | .cpyKk x => some ((x.fields 0b10 0x00).orMd (fld 14 8 (0b10#2)))
  | .gth x => some (x.fields 0b10 0x01)
  | .sct x => some (x.fields 0b10 0x02)
  | .pft x => some (x.fields 0b10 0x03)
  | .rcpyPull x => some (x.fields 0b10 0x04)
  | .rcpyPush x => some ((x.fields 0b10 0x04).orMd (fld 14 8 (1#1)))
  | .mcast x => some (x.fields 0b10 0x05)
  | .binit x => some (x.fields 0b10 0x08)
  | .tileBarv x => some (x.fields 0b10 0x09)
  | .bexp x => some (x.fields 0b10 0x0a)
  | .tileBwait x => some (x.fields 0b10 0x0b)
  | .tileBtry x => some (x.fields 0b10 0x0c)
  | .pclose a => some { cls := 0b10, opc := 0x10, a := a.enc }
  | .ppeek x => some (x.fields 0b10 0x11)
  | .pread x => some (x.fields 0b10 0x12)
  | .preadHdr x => some ((x.fields 0b10 0x12).orMd 1)
  | .preset a => some { cls := 0b10, opc := 0x13, a := a.enc }
  | .psett x => some (x.fields 0b10 0x14)
  | .lsupd x => some (x.fields 0b10 0x18)
  | .launch a => some { cls := 0b10, opc := 0x19, a := a.enc }
  | .dqpush x => some (x.fields 0b10 0x1a)
  | .tdesc x => some (x.fields 0b10 0x1b)
  | .tget x => some (x.fields 0b10 0x1c)
  | .bind x => some (x.fields 0b10 0x1d)
  | .bindrd x => some (x.fields 0b10 0x1e)
  | .qsinit x => some (x.fields 0b10 0x1f)
  | .lit x => some { cls := 0b11, opc := 0x00, d := x.d.enc }
  | .tdescl x => some { cls := 0b11, opc := 0x01, d := encT x.t, a := x.a.enc }
  | _ => none

/-! ### Lane operand shapes (R74 to R76 and each instruction's table) -/

/-- The fields of a `LR1` word. -/
def LR1.fields (maj : BitVec 6) (min : BitVec 5) (x : LR1) : LaneFields :=
  { maj := maj, min := min, h := x.h, vd := x.vd, a := x.a }

/-- The operands read from the fields of a `LR1` word. -/
def LR1.raw (f : LaneFields) : Option LR1 :=
  some { h := f.h, vd := f.vd, a := f.a }

/-- The fields of a `LBitfn` word. -/
def LBitfn.fields (maj : BitVec 6) (min : BitVec 5) (x : LBitfn) : LaneFields :=
  { maj := maj, min := min, h := x.h, vd := x.vd, a := x.a, b := x.b, c := x.c, imm := fld 18 8 x.lut }

/-- The operands read from the fields of a `LBitfn` word. -/
def LBitfn.raw (f : LaneFields) : Option LBitfn :=
  some { h := f.h, vd := f.vd, a := f.a, b := f.b, c := f.c, lut := f.imm.extractLsb' 8 8 }

/-- The fields of a `LPermb` word. -/
def LPermb.fields (maj : BitVec 6) (min : BitVec 5) (x : LPermb) : LaneFields :=
  { maj := maj, min := min, h := x.h, vd := x.vd, a := x.a, b := x.b, imm := fld 18 8 x.mode }

/-- The operands read from the fields of a `LPermb` word. -/
def LPermb.raw (f : LaneFields) : Option LPermb :=
  some { h := f.h, vd := f.vd, a := f.a, b := f.b, mode := f.imm.extractLsb' 8 2 }

/-- The fields of a `LPredfn` word. -/
def LPredfn.fields (maj : BitVec 6) (min : BitVec 5) (x : LPredfn) : LaneFields :=
  { maj := maj, min := min, h := x.h, vd := predField x.pd, a := ⟨predField x.pa, false⟩, b := ⟨predField x.pb, false⟩, c := ⟨predField x.pc, false⟩, imm := fld 18 8 x.lut }

/-- The operands read from the fields of a `LPredfn` word. -/
def LPredfn.raw (f : LaneFields) : Option LPredfn :=
  some { h := f.h, pd := fieldPred f.vd, pa := fieldPred f.a.r, pb := fieldPred f.b.r, pc := fieldPred f.c.r, lut := f.imm.extractLsb' 8 8 }

/-- The fields of a `LPmovR` word. -/
def LPmovR.fields (maj : BitVec 6) (min : BitVec 5) (x : LPmovR) : LaneFields :=
  { maj := maj, min := min, h := x.h, vd := x.vd }

/-- The operands read from the fields of a `LPmovR` word. -/
def LPmovR.raw (f : LaneFields) : Option LPmovR :=
  some { h := f.h, vd := f.vd }

/-- The fields of a `LF1` word. -/
def LF1.fields (maj : BitVec 6) (min : BitVec 5) (x : LF1) : LaneFields :=
  { maj := maj, min := min, h := x.h, vd := x.vd, a := x.a, imm := fld 18 0 x.rm.code ||| fld 18 2 (bit1 x.ftz) }

/-- The operands read from the fields of a `LF1` word. -/
def LF1.raw (f : LaneFields) : Option LF1 := do
  let rm ← RMode.ofCode (f.imm.extractLsb' 0 2)
  return { h := f.h, vd := f.vd, a := f.a, rm := rm, ftz := f.imm.getLsbD 2 }

/-- The fields of a `LF2` word. -/
def LF2.fields (maj : BitVec 6) (min : BitVec 5) (x : LF2) : LaneFields :=
  { maj := maj, min := min, h := x.h, vd := x.vd, a := x.a, b := x.b, imm := fld 18 0 x.rm.code ||| fld 18 2 (bit1 x.ftz) }

/-- The operands read from the fields of a `LF2` word. -/
def LF2.raw (f : LaneFields) : Option LF2 := do
  let rm ← RMode.ofCode (f.imm.extractLsb' 0 2)
  return { h := f.h, vd := f.vd, a := f.a, b := f.b, rm := rm, ftz := f.imm.getLsbD 2 }

/-- The fields of a `LF3` word. -/
def LF3.fields (maj : BitVec 6) (min : BitVec 5) (x : LF3) : LaneFields :=
  { maj := maj, min := min, h := x.h, vd := x.vd, a := x.a, b := x.b, c := x.c, imm := fld 18 0 x.rm.code ||| fld 18 2 (bit1 x.ftz) }

/-- The operands read from the fields of a `LF3` word. -/
def LF3.raw (f : LaneFields) : Option LF3 := do
  let rm ← RMode.ofCode (f.imm.extractLsb' 0 2)
  return { h := f.h, vd := f.vd, a := f.a, b := f.b, c := f.c, rm := rm, ftz := f.imm.getLsbD 2 }

/-- The fields of a `LFM` word. -/
def LFM.fields (maj : BitVec 6) (min : BitVec 5) (x : LFM) : LaneFields :=
  { maj := maj, min := min, h := x.h, vd := x.vd, a := x.a, b := x.b, imm := fld 18 2 (bit1 x.ftz) }

/-- The operands read from the fields of a `LFM` word. -/
def LFM.raw (f : LaneFields) : Option LFM :=
  some { h := f.h, vd := f.vd, a := f.a, b := f.b, ftz := f.imm.getLsbD 2 }

/-- The fields of a `LPk2` word. -/
def LPk2.fields (maj : BitVec 6) (min : BitVec 5) (x : LPk2) : LaneFields :=
  { maj := maj, min := min, h := x.h, vd := x.vd, a := x.a, b := x.b, imm := fld 18 0 x.rm.code ||| fld 18 2 (bit1 x.ftz) ||| fld 18 3 (bit1 x.fh) }

/-- The operands read from the fields of a `LPk2` word. -/
def LPk2.raw (f : LaneFields) : Option LPk2 := do
  let rm ← RMode.ofCode (f.imm.extractLsb' 0 2)
  return { h := f.h, vd := f.vd, a := f.a, b := f.b, rm := rm, ftz := f.imm.getLsbD 2, fh := f.imm.getLsbD 3 }

/-- The fields of a `LPk3` word. -/
def LPk3.fields (maj : BitVec 6) (min : BitVec 5) (x : LPk3) : LaneFields :=
  { maj := maj, min := min, h := x.h, vd := x.vd, a := x.a, b := x.b, c := x.c, imm := fld 18 0 x.rm.code ||| fld 18 2 (bit1 x.ftz) ||| fld 18 3 (bit1 x.fh) }

/-- The operands read from the fields of a `LPk3` word. -/
def LPk3.raw (f : LaneFields) : Option LPk3 := do
  let rm ← RMode.ofCode (f.imm.extractLsb' 0 2)
  return { h := f.h, vd := f.vd, a := f.a, b := f.b, c := f.c, rm := rm, ftz := f.imm.getLsbD 2, fh := f.imm.getLsbD 3 }

/-- The fields of a `LPkM` word. -/
def LPkM.fields (maj : BitVec 6) (min : BitVec 5) (x : LPkM) : LaneFields :=
  { maj := maj, min := min, h := x.h, vd := x.vd, a := x.a, b := x.b, imm := fld 18 2 (bit1 x.ftz) ||| fld 18 3 (bit1 x.fh) }

/-- The operands read from the fields of a `LPkM` word. -/
def LPkM.raw (f : LaneFields) : Option LPkM :=
  some { h := f.h, vd := f.vd, a := f.a, b := f.b, ftz := f.imm.getLsbD 2, fh := f.imm.getLsbD 3 }

/-- The fields of a `LCvt` word. -/
def LCvt.fields (maj : BitVec 6) (min : BitVec 5) (x : LCvt) : LaneFields :=
  { maj := maj, min := min, h := x.h, vd := x.vd, a := x.a, imm := fld 18 0 x.rm.code ||| fld 18 2 (bit1 x.ftz) ||| fld 18 4 x.dst.code ||| fld 18 8 x.src.code ||| fld 18 12 (bit1 x.nsat) ||| fld 18 14 x.elem }

/-- The operands read from the fields of a `LCvt` word. -/
def LCvt.raw (f : LaneFields) : Option LCvt := do
  let rm ← RMode.ofCode (f.imm.extractLsb' 0 2)
  let dst ← Fmt.ofCode4 (f.imm.extractLsb' 4 4)
  let src ← Fmt.ofCode4 (f.imm.extractLsb' 8 4)
  return { h := f.h, vd := f.vd, a := f.a, rm := rm, ftz := f.imm.getLsbD 2, dst := dst, src := src, nsat := f.imm.getLsbD 12, elem := f.imm.extractLsb' 14 2 }

/-- The fields of a `LCvtunpk` word. -/
def LCvtunpk.fields (maj : BitVec 6) (min : BitVec 5) (x : LCvtunpk) : LaneFields :=
  { maj := maj, min := min, h := x.h, vd := x.vd, a := x.a, imm := fld 18 0 x.rm.code ||| fld 18 2 (bit1 x.ftz) ||| fld 18 4 x.dst.code ||| fld 18 8 x.src.code ||| fld 18 12 (bit1 x.nsat) ||| fld 18 14 (bit1 x.pair) }

/-- The operands read from the fields of a `LCvtunpk` word. -/
def LCvtunpk.raw (f : LaneFields) : Option LCvtunpk := do
  let rm ← RMode.ofCode (f.imm.extractLsb' 0 2)
  let dst ← Fmt.ofCode4 (f.imm.extractLsb' 4 4)
  let src ← Fmt.ofCode4 (f.imm.extractLsb' 8 4)
  return { h := f.h, vd := f.vd, a := f.a, rm := rm, ftz := f.imm.getLsbD 2, dst := dst, src := src, nsat := f.imm.getLsbD 12, pair := f.imm.getLsbD 14 }

/-- The fields of a `LPwenc` word. -/
def LPwenc.fields (maj : BitVec 6) (min : BitVec 5) (x : LPwenc) : LaneFields :=
  { maj := maj, min := min, h := x.h, vd := x.vd, a := x.a, b := x.b, c := x.c, imm := fld 18 14 x.byte }

/-- The operands read from the fields of a `LPwenc` word. -/
def LPwenc.raw (f : LaneFields) : Option LPwenc :=
  some { h := f.h, vd := f.vd, a := f.a, b := f.b, c := f.c, byte := f.imm.extractLsb' 14 2 }

/-- The fields of a `LPwdec` word. -/
def LPwdec.fields (maj : BitVec 6) (min : BitVec 5) (x : LPwdec) : LaneFields :=
  { maj := maj, min := min, h := x.h, vd := x.vd, a := x.a, b := x.b, imm := fld 18 0 x.rm.code ||| fld 18 2 (bit1 x.ftz) ||| fld 18 14 x.byte }

/-- The operands read from the fields of a `LPwdec` word. -/
def LPwdec.raw (f : LaneFields) : Option LPwdec := do
  let rm ← RMode.ofCode (f.imm.extractLsb' 0 2)
  return { h := f.h, vd := f.vd, a := f.a, b := f.b, rm := rm, ftz := f.imm.getLsbD 2, byte := f.imm.extractLsb' 14 2 }

/-- The fields of a `LIdp4` word. -/
def LIdp4.fields (maj : BitVec 6) (min : BitVec 5) (x : LIdp4) : LaneFields :=
  { maj := maj, min := min, h := x.h, vd := x.vd, a := x.a, b := x.b, c := x.c, imm := fld 18 8 (bit1 x.ua) ||| fld 18 9 (bit1 x.ub) ||| fld 18 10 (bit1 x.sat) }

/-- The operands read from the fields of a `LIdp4` word. -/
def LIdp4.raw (f : LaneFields) : Option LIdp4 :=
  some { h := f.h, vd := f.vd, a := f.a, b := f.b, c := f.c, ua := f.imm.getLsbD 8, ub := f.imm.getLsbD 9, sat := f.imm.getLsbD 10 }

/-- The fields of a `LFdp2` word. -/
def LFdp2.fields (maj : BitVec 6) (min : BitVec 5) (x : LFdp2) : LaneFields :=
  { maj := maj, min := min, h := x.h, vd := x.vd, a := x.a, b := x.b, c := x.c, imm := fld 18 0 x.rm.code ||| fld 18 2 (bit1 x.ftz) ||| fld 18 3 (bit1 x.fh) }

/-- The operands read from the fields of a `LFdp2` word. -/
def LFdp2.raw (f : LaneFields) : Option LFdp2 := do
  let rm ← RMode.ofCode (f.imm.extractLsb' 0 2)
  return { h := f.h, vd := f.vd, a := f.a, b := f.b, c := f.c, rm := rm, ftz := f.imm.getLsbD 2, fh := f.imm.getLsbD 3 }

/-- The fields of a `LMovi` word. -/
def LMovi.fields (maj : BitVec 6) (min : BitVec 5) (x : LMovi) : LaneFields :=
  { maj := maj, min := min, h := x.h, vd := x.vd, imm := fld 18 0 x.i }

/-- The operands read from the fields of a `LMovi` word. -/
def LMovi.raw (f : LaneFields) : Option LMovi :=
  some { h := f.h, vd := f.vd, i := f.imm.extractLsb' 0 18 }

/-- The fields of a `LMovhi` word. -/
def LMovhi.fields (maj : BitVec 6) (min : BitVec 5) (x : LMovhi) : LaneFields :=
  { maj := maj, min := min, h := x.h, vd := x.vd, a := x.a, imm := fld 18 0 x.i }

/-- The operands read from the fields of a `LMovhi` word. -/
def LMovhi.raw (f : LaneFields) : Option LMovhi :=
  some { h := f.h, vd := f.vd, a := f.a, i := f.imm.extractLsb' 0 16 }

/-- The fields of a `LSread` word. -/
def LSread.fields (maj : BitVec 6) (min : BitVec 5) (x : LSread) : LaneFields :=
  { maj := maj, min := min, h := x.h, vd := x.vd, imm := fld 18 0 x.n }

/-- The operands read from the fields of a `LSread` word. -/
def LSread.raw (f : LaneFields) : Option LSread :=
  some { h := f.h, vd := f.vd, n := f.imm.extractLsb' 0 8 }

/-- The fields of a `LBra` word. -/
def LBra.fields (maj : BitVec 6) (min : BitVec 5) (x : LBra) : LaneFields :=
  { maj := maj, min := min, h := x.h, imm := fld 18 0 x.disp }

/-- The operands read from the fields of a `LBra` word. -/
def LBra.raw (f : LaneFields) : Option LBra :=
  some { h := f.h, disp := f.imm.extractLsb' 0 18 }

/-- The fields of a `LBrx` word. -/
def LBrx.fields (maj : BitVec 6) (min : BitVec 5) (x : LBrx) : LaneFields :=
  { maj := maj, min := min, h := x.h, a := x.a }

/-- The operands read from the fields of a `LBrx` word. -/
def LBrx.raw (f : LaneFields) : Option LBrx :=
  some { h := f.h, a := f.a }

/-- The fields of a `LCall` word. -/
def LCall.fields (maj : BitVec 6) (min : BitVec 5) (x : LCall) : LaneFields :=
  { maj := maj, min := min, h := x.h, vd := x.vd, imm := fld 18 0 x.disp }

/-- The operands read from the fields of a `LCall` word. -/
def LCall.raw (f : LaneFields) : Option LCall :=
  some { h := f.h, vd := f.vd, disp := f.imm.extractLsb' 0 18 }

/-- The fields of a `LNone` word. -/
def LNone.fields (maj : BitVec 6) (min : BitVec 5) (x : LNone) : LaneFields :=
  { maj := maj, min := min, h := x.h }

/-- The operands read from the fields of a `LNone` word. -/
def LNone.raw (f : LaneFields) : Option LNone :=
  some { h := f.h }

/-- The fields of a `LLoad` word. -/
def LLoad.fields (maj : BitVec 6) (min : BitVec 5) (x : LLoad) : LaneFields :=
  { maj := maj, min := min, h := x.h, vd := x.vd, a := x.a, imm := fld 18 16 x.w ||| fld 18 15 (bit1 x.sx) ||| fld 18 0 x.off }

/-- The operands read from the fields of a `LLoad` word. -/
def LLoad.raw (f : LaneFields) : Option LLoad :=
  some { h := f.h, vd := f.vd, a := f.a, w := f.imm.extractLsb' 16 2, sx := f.imm.getLsbD 15, off := f.imm.extractLsb' 0 14 }

/-- The fields of a `LStore` word. -/
def LStore.fields (maj : BitVec 6) (min : BitVec 5) (x : LStore) : LaneFields :=
  { maj := maj, min := min, h := x.h, a := x.a, b := x.b, imm := fld 18 16 x.w ||| fld 18 0 x.off }

/-- The operands read from the fields of a `LStore` word. -/
def LStore.raw (f : LaneFields) : Option LStore :=
  some { h := f.h, a := f.a, b := f.b, w := f.imm.extractLsb' 16 2, off := f.imm.extractLsb' 0 14 }

/-- The fields of a `LAtom` word. -/
def LAtom.fields (maj : BitVec 6) (min : BitVec 5) (x : LAtom) : LaneFields :=
  { maj := maj, min := min, h := x.h, vd := x.vd, a := x.a, b := x.b, imm := fld 18 0 x.op.code ||| fld 18 4 x.scope.code ||| fld 18 6 (bit1 x.w64) ||| fld 18 7 (bit1 x.acq) ||| fld 18 8 (bit1 x.rel) }

/-- The operands read from the fields of a `LAtom` word. -/
def LAtom.raw (f : LaneFields) : Option LAtom := do
  let op ← AtomOp.ofCode (f.imm.extractLsb' 0 4)
  let scope ← Scope.ofCode (f.imm.extractLsb' 4 2)
  return { h := f.h, vd := f.vd, a := f.a, b := f.b, op := op, scope := scope, w64 := f.imm.getLsbD 6, acq := f.imm.getLsbD 7, rel := f.imm.getLsbD 8 }

/-- The fields of a `LCas` word. -/
def LCas.fields (maj : BitVec 6) (min : BitVec 5) (x : LCas) : LaneFields :=
  { maj := maj, min := min, h := x.h, vd := x.vd, a := x.a, b := x.b, c := x.c, imm := fld 18 4 x.scope.code ||| fld 18 6 (bit1 x.w64) ||| fld 18 7 (bit1 x.acq) ||| fld 18 8 (bit1 x.rel) }

/-- The operands read from the fields of a `LCas` word. -/
def LCas.raw (f : LaneFields) : Option LCas := do
  let scope ← Scope.ofCode (f.imm.extractLsb' 4 2)
  return { h := f.h, vd := f.vd, a := f.a, b := f.b, c := f.c, scope := scope, w64 := f.imm.getLsbD 6, acq := f.imm.getLsbD 7, rel := f.imm.getLsbD 8 }

/-- The fields of a `LFence` word. -/
def LFence.fields (maj : BitVec 6) (min : BitVec 5) (x : LFence) : LaneFields :=
  { maj := maj, min := min, h := x.h, imm := fld 18 2 x.kind.code ||| fld 18 0 x.scope.code }

/-- The operands read from the fields of a `LFence` word. -/
def LFence.raw (f : LaneFields) : Option LFence := do
  let kind ← FenceKind.ofCode (f.imm.extractLsb' 2 2)
  let scope ← Scope.ofCode (f.imm.extractLsb' 0 2)
  return { h := f.h, kind := kind, scope := scope }

/-- The fields of a `LBarv` word. -/
def LBarv.fields (maj : BitVec 6) (min : BitVec 5) (x : LBarv) : LaneFields :=
  { maj := maj, min := min, h := x.h, vd := x.vd, a := x.a, imm := fld 18 0 (bit1 x.dev) }

/-- The operands read from the fields of a `LBarv` word. -/
def LBarv.raw (f : LaneFields) : Option LBarv :=
  some { h := f.h, vd := f.vd, a := f.a, dev := f.imm.getLsbD 0 }

/-- The fields of a `LBwait` word. -/
def LBwait.fields (maj : BitVec 6) (min : BitVec 5) (x : LBwait) : LaneFields :=
  { maj := maj, min := min, h := x.h, a := x.a, b := x.b, imm := fld 18 0 (bit1 x.dev) }

/-- The operands read from the fields of a `LBwait` word. -/
def LBwait.raw (f : LaneFields) : Option LBwait :=
  some { h := f.h, a := f.a, b := f.b, dev := f.imm.getLsbD 0 }

/-- The fields of a `LBtry` word. -/
def LBtry.fields (maj : BitVec 6) (min : BitVec 5) (x : LBtry) : LaneFields :=
  { maj := maj, min := min, h := x.h, vd := predField x.pd, a := x.a, b := x.b, imm := fld 18 0 (bit1 x.dev) }

/-- The operands read from the fields of a `LBtry` word. -/
def LBtry.raw (f : LaneFields) : Option LBtry :=
  some { h := f.h, pd := fieldPred f.vd, a := f.a, b := f.b, dev := f.imm.getLsbD 0 }

/-- The fields of a `LQend` word. -/
def LQend.fields (maj : BitVec 6) (min : BitVec 5) (x : LQend) : LaneFields :=
  { maj := maj, min := min, h := x.h, a := x.a }

/-- The operands read from the fields of a `LQend` word. -/
def LQend.raw (f : LaneFields) : Option LQend :=
  some { h := f.h, a := f.a }

/-- The fields of a `LDqpop` word. -/
def LDqpop.fields (maj : BitVec 6) (min : BitVec 5) (x : LDqpop) : LaneFields :=
  { maj := maj, min := min, h := x.h, vd := x.vd, b := ⟨predField x.pb, false⟩ }

/-- The operands read from the fields of a `LDqpop` word. -/
def LDqpop.raw (f : LaneFields) : Option LDqpop :=
  some { h := f.h, vd := f.vd, pb := fieldPred f.b.r }

/-- The fields of a `LRng` word. -/
def LRng.fields (maj : BitVec 6) (min : BitVec 5) (x : LRng) : LaneFields :=
  { maj := maj, min := min, h := x.h, vd := x.vd, a := x.a, b := x.b }

/-- The operands read from the fields of a `LRng` word. -/
def LRng.raw (f : LaneFields) : Option LRng :=
  some { h := f.h, vd := f.vd, a := f.a, b := f.b }

/-- The fields of a `LMstep` word. -/
def LMstep.fields (maj : BitVec 6) (min : BitVec 5) (x : LMstep) : LaneFields :=
  { maj := maj, min := min, h := x.h, vd := predField x.pd, a := x.a, imm := fld 18 0 x.n ||| fld 18 8 x.gf }

/-- The operands read from the fields of a `LMstep` word. -/
def LMstep.raw (f : LaneFields) : Option LMstep :=
  some { h := f.h, pd := fieldPred f.vd, a := f.a, n := f.imm.extractLsb' 0 8, gf := f.imm.extractLsb' 8 2 }

/-- The fields of a `LTrap` word. -/
def LTrap.fields (maj : BitVec 6) (min : BitVec 5) (x : LTrap) : LaneFields :=
  { maj := maj, min := min, h := x.h, imm := fld 18 0 x.code }

/-- The operands read from the fields of a `LTrap` word. -/
def LTrap.raw (f : LaneFields) : Option LTrap :=
  some { h := f.h, code := f.imm.extractLsb' 0 16 }

/-- The fields of a `LXchg` word. -/
def LXchg.fields (maj : BitVec 6) (min : BitVec 5) (x : LXchg) : LaneFields :=
  { maj := maj, min := min, h := x.h, vd := x.vd, a := x.a, c := maskField x.m, imm := fld 18 16 (bit1 x.z) ||| fld 18 15 (bit1 x.ring) ||| fld 18 0 x.k ||| maskAll x.m }

/-- The operands read from the fields of a `LXchg` word. -/
def LXchg.raw (f : LaneFields) : Option LXchg :=
  some { h := f.h, vd := f.vd, a := f.a, m := fieldMask f, z := f.imm.getLsbD 16, ring := f.imm.getLsbD 15, k := f.imm.extractLsb' 0 5 }

/-- The fields of a `LXpick` word. -/
def LXpick.fields (maj : BitVec 6) (min : BitVec 5) (x : LXpick) : LaneFields :=
  { maj := maj, min := min, h := x.h, vd := x.vd, a := x.a, b := x.b, c := maskField x.m, imm := fld 18 16 (bit1 x.z) ||| maskAll x.m }

/-- The operands read from the fields of a `LXpick` word. -/
def LXpick.raw (f : LaneFields) : Option LXpick :=
  some { h := f.h, vd := f.vd, a := f.a, b := f.b, m := fieldMask f, z := f.imm.getLsbD 16 }

/-- The fields of a `LPoll` word. -/
def LPoll.fields (maj : BitVec 6) (min : BitVec 5) (x : LPoll) : LaneFields :=
  { maj := maj, min := min, h := x.h, vd := x.vd, a := ⟨predField x.pa, false⟩, c := maskField x.m, imm := fld 18 0 x.mode ||| maskAll x.m }

/-- The operands read from the fields of a `LPoll` word. -/
def LPoll.raw (f : LaneFields) : Option LPoll :=
  some { h := f.h, vd := f.vd, pa := fieldPred f.a.r, m := fieldMask f, mode := f.imm.extractLsb' 0 2 }

/-- The fields of a `LRed` word. -/
def LRed.fields (maj : BitVec 6) (min : BitVec 5) (x : LRed) : LaneFields :=
  { maj := maj, min := min, h := x.h, vd := x.vd, a := x.a, c := maskField x.m, imm := fld 18 0 x.op.code ||| maskAll x.m }

/-- The operands read from the fields of a `LRed` word. -/
def LRed.raw (f : LaneFields) : Option LRed := do
  let op ← RedOp.ofCode (f.imm.extractLsb' 0 4)
  return { h := f.h, vd := f.vd, a := f.a, m := fieldMask f, op := op }

/-- The fields of a `LQpush` word. -/
def LQpush.fields (maj : BitVec 6) (min : BitVec 5) (x : LQpush) : LaneFields :=
  { maj := maj, min := min, h := x.h, a := x.a, b := x.b, c := maskField x.m, imm := fld 18 0 x.sz ||| maskAll x.m }

/-- The operands read from the fields of a `LQpush` word. -/
def LQpush.raw (f : LaneFields) : Option LQpush :=
  some { h := f.h, a := f.a, b := f.b, m := fieldMask f, sz := f.imm.extractLsb' 0 2 }

/-- The fields of a `LQpop` word. -/
def LQpop.fields (maj : BitVec 6) (min : BitVec 5) (x : LQpop) : LaneFields :=
  { maj := maj, min := min, h := x.h, vd := x.vd, a := x.a, b := ⟨predField x.pb, false⟩, c := maskField x.m, imm := fld 18 0 x.sz ||| maskAll x.m }

/-- The operands read from the fields of a `LQpop` word. -/
def LQpop.raw (f : LaneFields) : Option LQpop :=
  some { h := f.h, vd := f.vd, a := f.a, pb := fieldPred f.b.r, m := fieldMask f, sz := f.imm.extractLsb' 0 2 }

/-- The fields of a `LLmma` word. -/
def LLmma.fields (maj : BitVec 6) (min : BitVec 5) (x : LLmma) : LaneFields :=
  { maj := maj, min := min, h := x.h, vd := x.vd, a := x.a, b := x.b, c := maskField x.m, imm := maskAll x.m }

/-- The operands read from the fields of a `LLmma` word. -/
def LLmma.raw (f : LaneFields) : Option LLmma :=
  some { h := f.h, vd := f.vd, a := f.a, b := f.b, m := fieldMask f }

/-- The fields of a `LRI` word. -/
def LRI.fields (maj : BitVec 6) (min : BitVec 5) (x : LRI) : LaneFields :=
  { maj := maj, min := min, h := x.h, vd := x.vd, a := x.a, b := x.b.field, imm := x.b.immBits }

/-- The operands read from the fields of a `LRI` word. -/
def LRI.raw (f : LaneFields) : Option LRI :=
  some { h := f.h, vd := f.vd, a := f.a, b := f.immB }

/-- The fields of a `LRI3` word. -/
def LRI3.fields (maj : BitVec 6) (min : BitVec 5) (x : LRI3) : LaneFields :=
  { maj := maj, min := min, h := x.h, vd := x.vd, a := x.a, b := x.b.field, c := x.c, imm := x.b.immBits }

/-- The operands read from the fields of a `LRI3` word. -/
def LRI3.raw (f : LaneFields) : Option LRI3 :=
  some { h := f.h, vd := f.vd, a := f.a, b := f.immB, c := f.c }

/-- The fields of a `LMulh` word. -/
def LMulh.fields (maj : BitVec 6) (min : BitVec 5) (x : LMulh) : LaneFields :=
  { maj := maj, min := min, h := x.h, vd := x.vd, a := x.a, b := x.b.field, imm := fld 18 16 (bit1 x.u) ||| x.b.immBits }

/-- The operands read from the fields of a `LMulh` word. -/
def LMulh.raw (f : LaneFields) : Option LMulh :=
  some { h := f.h, vd := f.vd, a := f.a, b := f.immB, u := !f.imm.getLsbD 17 && f.imm.getLsbD 16 }

/-- The fields of a `LSel` word. -/
def LSel.fields (maj : BitVec 6) (min : BitVec 5) (x : LSel) : LaneFields :=
  { maj := maj, min := min, h := x.h, vd := x.vd, a := x.a, b := x.b.field, c := ⟨predField x.p, false⟩, imm := x.b.immBits }

/-- The operands read from the fields of a `LSel` word. -/
def LSel.raw (f : LaneFields) : Option LSel :=
  some { h := f.h, vd := f.vd, a := f.a, b := f.immB, p := fieldPred f.c.r }

/-- The fields of a `LFcmp` word. -/
def LFcmp.fields (maj : BitVec 6) (min : BitVec 5) (x : LFcmp) : LaneFields :=
  { maj := maj, min := min, h := x.h, vd := predField x.pd, a := x.a, b := x.b, c := ⟨predNegField x.p x.pneg, false⟩, imm := fld 18 13 x.cond.code ||| fld 18 2 (bit1 x.ftz) }

/-- The operands read from the fields of a `LFcmp` word. -/
def LFcmp.raw (f : LaneFields) : Option LFcmp := do
  let cond ← FCond.ofCode (f.imm.extractLsb' 13 4)
  return { h := f.h, pd := fieldPred f.vd, a := f.a, b := f.b, p := fieldPred f.c.r, pneg := fieldNeg f.c.r, cond := cond, ftz := f.imm.getLsbD 2 }

/-- The fields of a `LPmovP` word. -/
def LPmovP.fields (maj : BitVec 6) (min : BitVec 5) (x : LPmovP) : LaneFields :=
  { maj := maj, min := min, h := x.h, a := x.a, imm := fld 18 0 x.mask ||| fld 18 16 (1#1) }

/-- The operands read from the fields of a `LPmovP` word. -/
def LPmovP.raw (f : LaneFields) : Option LPmovP :=
  some { h := f.h, a := f.a, mask := f.imm.extractLsb' 0 7 }

/-- The fields of an `ICMP` word (R198). -/
def LIcmp.fields (maj : BitVec 6) (min : BitVec 5) (x : LIcmp) : LaneFields :=
  { maj := maj, min := min, h := x.h, vd := predField x.pd, a := x.a,
    b := match x.b with | .reg s => s | .imm _ => ⟨0, false⟩,
    c := ⟨predNegField x.p x.pneg, false⟩,
    imm := fld 18 13 x.cond.code ||| (match x.b with | .reg _ => 0 | .imm i => fld 18 17 (1#1) ||| fld 18 0 i) }

def LIcmp.raw (f : LaneFields) : Option LIcmp := do
  let cond ← Cond.ofCode (f.imm.extractLsb' 13 4)
  return { h := f.h, pd := fieldPred f.vd, a := f.a,
           b := if f.imm.getLsbD 17 then .imm (f.imm.extractLsb' 0 12) else .reg f.b,
           cond := cond, p := fieldPred f.c.r, pneg := fieldNeg f.c.r }

/-- The fields of a `CVTPK` word (R205): VC is a source for an 8-bit destination only. -/
def LCvtpk.fields (maj : BitVec 6) (min : BitVec 5) (x : LCvtpk) : LaneFields :=
  { maj := maj, min := min, h := x.h, vd := x.vd, a := x.a, b := x.b, c := maskField x.c,
    imm := fld 18 0 x.rm.code ||| fld 18 2 (bit1 x.ftz) ||| fld 18 4 x.dst.code ||| fld 18 8 x.src.code |||
      fld 18 12 (bit1 x.nsat) ||| fld 18 14 (bit1 x.pair) }

def LCvtpk.raw (f : LaneFields) : Option LCvtpk := do
  let rm ← RMode.ofCode (f.imm.extractLsb' 0 2)
  let dst ← Fmt.ofCode4 (f.imm.extractLsb' 4 4)
  let src ← Fmt.ofCode4 (f.imm.extractLsb' 8 4)
  return { h := f.h, vd := f.vd, a := f.a, b := f.b, c := if fmtBits dst = 8 then some f.c else none, rm := rm,
           ftz := f.imm.getLsbD 2, dst := dst, src := src, nsat := f.imm.getLsbD 12, pair := f.imm.getLsbD 14 }

/-- The fields of a `CTRADD` word (R210). -/
def LCtradd.fields (maj : BitVec 6) (min : BitVec 5) (x : LCtradd) : LaneFields :=
  { maj := maj, min := min, h := x.h, vd := x.vd, a := x.a,
    b := match x.b with | .reg s _ => s | .imm _ => ⟨0, false⟩,
    imm := match x.b with | .reg _ w => fld 18 16 (bit1 w) | .imm i => fld 18 17 (1#1) ||| fld 18 0 i }

def LCtradd.raw (f : LaneFields) : Option LCtradd :=
  some { h := f.h, vd := f.vd, a := f.a,
         b := if f.imm.getLsbD 17 then .imm (f.imm.extractLsb' 0 16) else .reg f.b (f.imm.getLsbD 16) }

/-- The fields of a `REP` word (R220). -/
def LRep.flds (maj : BitVec 6) (min : BitVec 5) (x : LRep) : LaneFields :=
  { maj := maj, min := min, h := x.h, a := match x.cnt with | .reg s => s | .imm _ => ⟨0, false⟩,
    imm := fld 18 12 x.fields ||| fld 18 8 x.stride |||
      (match x.cnt with | .reg _ => fld 18 16 (1#1) | .imm n => fld 18 0 n) }

def LRep.raw (f : LaneFields) : Option LRep :=
  some { h := f.h, cnt := if f.imm.getLsbD 16 then .reg f.a else .imm (f.imm.extractLsb' 0 8),
         fields := f.imm.extractLsb' 12 4, stride := f.imm.extractLsb' 8 4 }


/-- Major 0x01 of the lane opcode map (R85). -/
def rawMajor01 (f : LaneFields) : Option Instr :=
  match f.min.toNat with
  | 0 => (LRI.raw f).map .iadd
  | 1 => (LRI.raw f).map .isub
  | 2 => (LRI.raw f).map .imul
  | 3 => (LMulh.raw f).map .imulh
  | 4 => (LRI3.raw f).map .imad
  | 5 => (LRI.raw f).map .iadd64
  | 6 => (LRI.raw f).map .idiv
  | 7 => (LRI.raw f).map .idivu
  | 8 => (LRI.raw f).map .irem
  | 9 => (LRI.raw f).map .iremu
  | 10 => (LRI.raw f).map .imin
  | 11 => (LRI.raw f).map .imax
  | 12 => (LRI.raw f).map .iminu
  | 13 => (LRI.raw f).map .imaxu
  | 14 => (LR1.raw f).map .iabs
  | 15 => (LR1.raw f).map .ineg
  | _ => none

/-- Major 0x02 of the lane opcode map (R85). -/
def rawMajor02 (f : LaneFields) : Option Instr :=
  match f.min.toNat with
  | 0 => (LRI.raw f).map .laneAnd
  | 1 => (LRI.raw f).map .laneOr
  | 2 => (LRI.raw f).map .laneXor
  | 3 => (LRI.raw f).map .laneAndn
  | 4 => (LBitfn.raw f).map .bitfn
  | 5 => (LRI.raw f).map .laneShl
  | 6 => (LRI.raw f).map .laneShr
  | 7 => (LRI.raw f).map .laneSar
  | 8 => (LRI.raw f).map .rotr
  | 9 => (LR1.raw f).map .lanePopc
  | 10 => (LR1.raw f).map .laneClz
  | 11 => (LR1.raw f).map .brev
  | 12 => (LRI.raw f).map .bfe
  | 13 => (LRI3.raw f).map .bfi
  | 14 => (LPermb.raw f).map .permb
  | 15 => (LSel.raw f).map .laneSel
  | _ => none

/-- Major 0x03 of the lane opcode map (R85). -/
def rawMajor03 (f : LaneFields) : Option Instr :=
  match f.min.toNat with
  | 0 => (LIcmp.raw f).map .icmp
  | 1 => (LFcmp.raw f).map .fcmp
  | 2 => (LPredfn.raw f).map .predfn
  | 3 => if f.imm.getLsbD 16 then (LPmovP.raw f).map .pmovToPredicates else (LPmovR.raw f).map .pmovToRegister
  | _ => none

/-- Major 0x04 of the lane opcode map (R85). -/
def rawMajor04 (f : LaneFields) : Option Instr :=
  match f.min.toNat with
  | 0 => (LF2.raw f).map .fadd
  | 1 => (LF2.raw f).map .fsub
  | 2 => (LF2.raw f).map .fmul
  | 3 => (LF3.raw f).map .ffma
  | 4 => (LFM.raw f).map .fmin
  | 5 => (LFM.raw f).map .fmax
  | 6 => (LF2.raw f).map .fdiv
  | 7 => (LF1.raw f).map .fsqrt
  | 8 => (LF1.raw f).map .frcp
  | 9 => (LF1.raw f).map .frsq
  | 10 => (LF1.raw f).map .fexp2
  | 11 => (LF1.raw f).map .flog2
  | 12 => (LF1.raw f).map .ftanh
  | _ => none

/-- Major 0x05 of the lane opcode map (R85). -/
def rawMajor05 (f : LaneFields) : Option Instr :=
  match f.min.toNat with
  | 0 => (LPk2.raw f).map .pkadd
  | 1 => (LPk2.raw f).map .pkmul
  | 2 => (LPk3.raw f).map .pkfma
  | 3 => (LPkM.raw f).map .pkmin
  | 4 => (LPkM.raw f).map .pkmax
  | _ => none

/-- Major 0x06 of the lane opcode map (R85). -/
def rawMajor06 (f : LaneFields) : Option Instr :=
  match f.min.toNat with
  | 0 => (LCvt.raw f).map .cvt
  | 1 => (LCvtpk.raw f).map .cvtpk
  | 2 => (LCvtunpk.raw f).map .cvtunpk
  | 3 => (LPwenc.raw f).map .pwenc
  | 4 => (LPwdec.raw f).map .pwdec
  | _ => none

/-- Major 0x07 of the lane opcode map (R85). -/
def rawMajor07 (f : LaneFields) : Option Instr :=
  match f.min.toNat with
  | 0 => (LIdp4.raw f).map .idp4
  | 1 => (LFdp2.raw f).map .fdp2
  | _ => none

/-- Major 0x08 of the lane opcode map (R85). -/
def rawMajor08 (f : LaneFields) : Option Instr :=
  match f.min.toNat with
  | 0 => (LR1.raw f).map .laneMov
  | 1 => (LMovi.raw f).map .movi
  | 2 => (LMovhi.raw f).map .movhi
  | 3 => (LSread.raw f).map .sread
  | _ => none

/-- Major 0x09 of the lane opcode map (R85). -/
def rawMajor09 (f : LaneFields) : Option Instr :=
  match f.min.toNat with
  | 0 => (LXchg.raw f).map .xpair
  | 1 => (LXpick.raw f).map .xpick
  | 2 => (LXchg.raw f).map .xback
  | 3 => (LXchg.raw f).map .xfwd
  | 4 => (LXchg.raw f).map .xone
  | _ => none

/-- Major 0x0a of the lane opcode map (R85). -/
def rawMajor0a (f : LaneFields) : Option Instr :=
  match f.min.toNat with
  | 0 => (LPoll.raw f).map .poll
  | 1 => (LRed.raw f).map .red
  | _ => none

/-- Major 0x0b of the lane opcode map (R85). -/
def rawMajor0b (f : LaneFields) : Option Instr :=
  match f.min.toNat with
  | 0 => (LBra.raw f).map .bra
  | 1 => (LBrx.raw f).map .brx
  | 2 => (LCall.raw f).map .laneCall
  | 3 => if f.imm.getLsbD 0 then (LNone.raw f).map .retTr else (LBrx.raw f).map .laneRet
  | 4 => (LNone.raw f).map .exit
  | 5 => (LNone.raw f).map .yield
  | 6 => (LNone.raw f).map .laneNop
  | 7 => (LRep.raw f).map .rep
  | _ => none

/-- Major 0x0c of the lane opcode map (R85). -/
def rawMajor0c (f : LaneFields) : Option Instr :=
  match f.min.toNat with
  | 0 => (LLoad.raw f).map .ld
  | 1 => (LStore.raw f).map .st
  | 2 => (LLoad.raw f).map .laneLdk
  | 3 => (LStore.raw f).map .laneStk
  | 4 => (LLoad.raw f).map .ldp
  | 5 => (LStore.raw f).map .stp
  | 6 => (LLoad.raw f).map .ldc
  | _ => none

/-- Major 0x0d of the lane opcode map (R85). -/
def rawMajor0d (f : LaneFields) : Option Instr :=
  match f.min.toNat with
  | 0 => (LAtom.raw f).map .atom
  | 1 => (LCas.raw f).map .atomcas
  | 2 => (LFence.raw f).map .laneFence
  | _ => none

/-- Major 0x0e of the lane opcode map (R85). -/
def rawMajor0e (f : LaneFields) : Option Instr :=
  match f.min.toNat with
  | 0 => (LBarv.raw f).map .laneBarv
  | 1 => (LBwait.raw f).map .laneBwait
  | 2 => (LBtry.raw f).map .laneBtry
  | _ => none

/-- Major 0x0f of the lane opcode map (R85). -/
def rawMajor0f (f : LaneFields) : Option Instr :=
  match f.min.toNat with
  | 0 => (LQpush.raw f).map .qpush
  | 1 => (LQpop.raw f).map .qpop
  | 2 => (LR1.raw f).map .qcnt
  | 3 => (LQend.raw f).map .qend
  | _ => none

/-- Major 0x10 of the lane opcode map (R85). -/
def rawMajor10 (f : LaneFields) : Option Instr :=
  match f.min.toNat with
  | 0 => (LR1.raw f).map .ltop
  | 1 => (LLmma.raw f).map .lmma
  | _ => none

/-- Major 0x11 of the lane opcode map (R85). -/
def rawMajor11 (f : LaneFields) : Option Instr :=
  match f.min.toNat with
  | 0 => (LDqpop.raw f).map .dqpop
  | 1 => (LRng.raw f).map .rng
  | 2 => (LCtradd.raw f).map .ctradd
  | 3 => (LMstep.raw f).map .mstep
  | 4 => (LTrap.raw f).map .laneTrap
  | 5 => (LNone.raw f).map .brk
  | _ => none

/-- The lane opcode map (R85). -/
def rawLane (f : LaneFields) : Option Instr :=
  match f.maj.toNat with
  | 0x01 => rawMajor01 f
  | 0x02 => rawMajor02 f
  | 0x03 => rawMajor03 f
  | 0x04 => rawMajor04 f
  | 0x05 => rawMajor05 f
  | 0x06 => rawMajor06 f
  | 0x07 => rawMajor07 f
  | 0x08 => rawMajor08 f
  | 0x09 => rawMajor09 f
  | 0x0a => rawMajor0a f
  | 0x0b => rawMajor0b f
  | 0x0c => rawMajor0c f
  | 0x0d => rawMajor0d f
  | 0x0e => rawMajor0e f
  | 0x0f => rawMajor0f f
  | 0x10 => rawMajor10 f
  | 0x11 => rawMajor11 f
  | _ => none

/-- The word of each lane instruction, as fields. -/
def laneFields : Instr → Option LaneFields
  | .iadd x => some (x.fields 0x01 0)
  | .isub x => some (x.fields 0x01 1)
  | .imul x => some (x.fields 0x01 2)
  | .imulh x => some (x.fields 0x01 3)
  | .imad x => some (x.fields 0x01 4)
  | .iadd64 x => some (x.fields 0x01 5)
  | .idiv x => some (x.fields 0x01 6)
  | .idivu x => some (x.fields 0x01 7)
  | .irem x => some (x.fields 0x01 8)
  | .iremu x => some (x.fields 0x01 9)
  | .imin x => some (x.fields 0x01 10)
  | .imax x => some (x.fields 0x01 11)
  | .iminu x => some (x.fields 0x01 12)
  | .imaxu x => some (x.fields 0x01 13)
  | .iabs x => some (x.fields 0x01 14)
  | .ineg x => some (x.fields 0x01 15)
  | .laneAnd x => some (x.fields 0x02 0)
  | .laneOr x => some (x.fields 0x02 1)
  | .laneXor x => some (x.fields 0x02 2)
  | .laneAndn x => some (x.fields 0x02 3)
  | .bitfn x => some (x.fields 0x02 4)
  | .laneShl x => some (x.fields 0x02 5)
  | .laneShr x => some (x.fields 0x02 6)
  | .laneSar x => some (x.fields 0x02 7)
  | .rotr x => some (x.fields 0x02 8)
  | .lanePopc x => some (x.fields 0x02 9)
  | .laneClz x => some (x.fields 0x02 10)
  | .brev x => some (x.fields 0x02 11)
  | .bfe x => some (x.fields 0x02 12)
  | .bfi x => some (x.fields 0x02 13)
  | .permb x => some (x.fields 0x02 14)
  | .laneSel x => some (x.fields 0x02 15)
  | .icmp x => some (x.fields 0x03 0)
  | .fcmp x => some (x.fields 0x03 1)
  | .predfn x => some (x.fields 0x03 2)
  | .pmovToRegister x => some (x.fields 0x03 3)
  | .pmovToPredicates x => some (x.fields 0x03 3)
  | .fadd x => some (x.fields 0x04 0)
  | .fsub x => some (x.fields 0x04 1)
  | .fmul x => some (x.fields 0x04 2)
  | .ffma x => some (x.fields 0x04 3)
  | .fmin x => some (x.fields 0x04 4)
  | .fmax x => some (x.fields 0x04 5)
  | .fdiv x => some (x.fields 0x04 6)
  | .fsqrt x => some (x.fields 0x04 7)
  | .frcp x => some (x.fields 0x04 8)
  | .frsq x => some (x.fields 0x04 9)
  | .fexp2 x => some (x.fields 0x04 10)
  | .flog2 x => some (x.fields 0x04 11)
  | .ftanh x => some (x.fields 0x04 12)
  | .pkadd x => some (x.fields 0x05 0)
  | .pkmul x => some (x.fields 0x05 1)
  | .pkfma x => some (x.fields 0x05 2)
  | .pkmin x => some (x.fields 0x05 3)
  | .pkmax x => some (x.fields 0x05 4)
  | .cvt x => some (x.fields 0x06 0)
  | .cvtpk x => some (x.fields 0x06 1)
  | .cvtunpk x => some (x.fields 0x06 2)
  | .pwenc x => some (x.fields 0x06 3)
  | .pwdec x => some (x.fields 0x06 4)
  | .idp4 x => some (x.fields 0x07 0)
  | .fdp2 x => some (x.fields 0x07 1)
  | .laneMov x => some (x.fields 0x08 0)
  | .movi x => some (x.fields 0x08 1)
  | .movhi x => some (x.fields 0x08 2)
  | .sread x => some (x.fields 0x08 3)
  | .xpair x => some (x.fields 0x09 0)
  | .xpick x => some (x.fields 0x09 1)
  | .xback x => some (x.fields 0x09 2)
  | .xfwd x => some (x.fields 0x09 3)
  | .xone x => some (x.fields 0x09 4)
  | .poll x => some (x.fields 0x0a 0)
  | .red x => some (x.fields 0x0a 1)
  | .bra x => some (x.fields 0x0b 0)
  | .brx x => some (x.fields 0x0b 1)
  | .laneCall x => some (x.fields 0x0b 2)
  | .laneRet x => some (x.fields 0x0b 3)
  | .retTr x => some { x.fields 0x0b 3 with imm := 1 }
  | .exit x => some (x.fields 0x0b 4)
  | .yield x => some (x.fields 0x0b 5)
  | .laneNop x => some (x.fields 0x0b 6)
  | .rep x => some (x.flds 0x0b 7)
  | .ld x => some (x.fields 0x0c 0)
  | .st x => some (x.fields 0x0c 1)
  | .laneLdk x => some (x.fields 0x0c 2)
  | .laneStk x => some (x.fields 0x0c 3)
  | .ldp x => some (x.fields 0x0c 4)
  | .stp x => some (x.fields 0x0c 5)
  | .ldc x => some (x.fields 0x0c 6)
  | .atom x => some (x.fields 0x0d 0)
  | .atomcas x => some (x.fields 0x0d 1)
  | .laneFence x => some (x.fields 0x0d 2)
  | .laneBarv x => some (x.fields 0x0e 0)
  | .laneBwait x => some (x.fields 0x0e 1)
  | .laneBtry x => some (x.fields 0x0e 2)
  | .qpush x => some (x.fields 0x0f 0)
  | .qpop x => some (x.fields 0x0f 1)
  | .qcnt x => some (x.fields 0x0f 2)
  | .qend x => some (x.fields 0x0f 3)
  | .ltop x => some (x.fields 0x10 0)
  | .lmma x => some (x.fields 0x10 1)
  | .dqpop x => some (x.fields 0x11 0)
  | .rng x => some (x.fields 0x11 1)
  | .ctradd x => some (x.fields 0x11 2)
  | .mstep x => some (x.fields 0x11 3)
  | .laneTrap x => some (x.fields 0x11 4)
  | .brk x => some (x.fields 0x11 5)
  | _ => none

/-! ### The decoders and the encoder -/

/-- The words of a tile or lane instruction; a step of the hardware has none. -/
def encode (i : Instr) : List W64 :=
  match i with
  | .lit x => ((tileFields i).map TileFields.word).toList ++ [x.v]
  | .tdescl x => ((tileFields i).map TileFields.word).toList ++ [x.v]
  | _ =>
    match tileFields i with
    | some f => [f.word]
    | none => ((laneFields i).map LaneFields.word).toList

/-- The operands of a tile word by class; `w2` is the second word, read in class 11 only. -/
def rawTile (f : TileFields) (w2 : W64) : Option Instr :=
  match f.cls.toNat with
  | 0 => rawClass00 f
  | 1 => rawClass01 f
  | 2 => rawClass10 f
  | _ => rawClass11 f w2

/-- The checks of R84 after the opcode: the operands and reserved bits of the word. -/
def checkTile (f : TileFields) (w2 : W64) : Except TileDecodeError Instr :=
  match rawTile f w2 with
  | some i => if i.wellFormed = true ∧ tileFields i = some f then .ok i else .error .badField
  | none => .error .badField

/-- Decode a tile word (R84 steps 1 to 3); `w2` is the word at the next address, if the tile code holds one. -/
def decodeTile (w : W64) (w2 : Option W64) : Except TileDecodeError Instr :=
  let f := TileFields.ofWord w
  if tileAssigned f = false then .error .unassignedOpcode
  else if f.cls = 0b11 then
    match w2 with
    | some v => checkTile f v
    | none => .error .noSecondWord
  else checkTile f 0

/-- Is MAJOR and MINOR assigned (R85)? -/
def laneAssigned (f : LaneFields) : Bool :=
  match f.maj.toNat with
  | 0x01 | 0x02 => f.min.toNat < 16
  | 0x03 => f.min.toNat < 4
  | 0x04 => f.min.toNat < 13
  | 0x05 | 0x06 | 0x09 => f.min.toNat < 5
  | 0x07 | 0x0A | 0x10 => f.min.toNat < 2
  | 0x08 | 0x0F => f.min.toNat < 4
  | 0x0B => f.min.toNat < 8
  | 0x0C => f.min.toNat < 7
  | 0x0D | 0x0E => f.min.toNat < 3
  | 0x11 => f.min.toNat < 6
  | _ => false

/-- Decode a lane word (R86). -/
def decodeLane (w : W64) : Except LaneDecodeError Instr :=
  let f := LaneFields.ofWord w
  if laneAssigned f = false then .error .unassignedOpcode
  else
    match rawLane f with
    | some i => if i.wellFormed = true ∧ laneFields i = some f then .ok i else .error .badField
    | none => .error .badField

/-- A tile instruction takes two words in class 11 (R69). -/
def Instr.tileWords : Instr → Nat
  | .lit _ | .tdescl _ => 2
  | _ => 1

/-- The instruction that the decoder reads from the bits `w`, the first word in bits 63..0 and a second word
above it: as a tile word, or, where the tile decoder refuses it, as a lane word. Bits above `nbits` are zero. -/
def decodeTableWord (nbits w : Nat) : Option Instr :=
  let v := w % 2 ^ nbits
  match decodeTile (BitVec.ofNat 64 v) (some (BitVec.ofNat 64 (v / 2 ^ 64))) with
  | .ok i => some i
  | .error _ =>
    match decodeLane (BitVec.ofNat 64 v) with
    | .ok i => some i
    | .error _ => none

end Sys2Proof
end

