-- ==== Sys2Proof/Machine/Num.lean ====
section
/-! DEFINITION. Floating-point formats, decoding, exact arithmetic and rounding (R42 to R48, R53, R64). -/

namespace Sys2Proof.Machine

/-- A rounding mode from the two bits of the floating-mode layout (R76). -/
def RMode.ofBits (b : BitVec 2) : RMode :=
  if b = 0 then .rn else if b = 1 then .rz else if b = 2 then .ru else .rd

/-- The format code of R42; `Option.none` for a reserved code. -/
def Fmt.ofCode (c : BitVec 4) : Option Fmt :=
  match c.toNat with
  | 0 => some .none
  | 1 => some .int8
  | 2 => some .uint8
  | 3 => some .e4m3
  | 4 => some .e5m2
  | 5 => some .pw8
  | 6 => some .bf16
  | 7 => some .fp16
  | 8 => some .fp32
  | 9 => some .int32
  | _ => Option.none

/-- The size of an element in bytes (R42); 1 for no format (R19). -/
def Fmt.size : Fmt → Nat
  | .none | .int8 | .uint8 | .e4m3 | .e5m2 | .pw8 => 1
  | .bf16 | .fp16 => 2
  | .fp32 | .int32 => 4

/-- Layout of a binary floating-point format (R44). `ieee` is false for E4M3, which has no infinity. -/
structure FFmt where
  ebits : Nat
  fbits : Nat
  bias  : Nat
  ieee  : Bool
  deriving DecidableEq, Repr, Inhabited

def fp32F : FFmt := ⟨8, 23, 127, true⟩
def bf16F : FFmt := ⟨8, 7, 127, true⟩
def fp16F : FFmt := ⟨5, 10, 15, true⟩
def e5m2F : FFmt := ⟨5, 2, 15, true⟩
def e4m3F : FFmt := ⟨4, 3, 7, false⟩

/-- The floating layout of a format of R42, if it is a floating format. -/
def Fmt.ffmt : Fmt → Option FFmt
  | .e4m3 => some e4m3F
  | .e5m2 => some e5m2F
  | .bf16 => some bf16F
  | .fp16 => some fp16F
  | .fp32 => some fp32F
  | _ => Option.none

/-- A floating-point datum: a NaN (signalling or not), a signed infinity, or (-1)^neg × m × 2^e. -/
inductive FVal where
  | nan (sig : Bool)
  | inf (neg : Bool)
  | fin (neg : Bool) (m : Nat) (e : Int)
  deriving DecidableEq, Repr, Inhabited

/-! ### Flag words (R29) -/

def fNone : Flags6 := 0
def fInvalid : Flags6 := 0x01
def fDivZero : Flags6 := 0x02
def fOverflow : Flags6 := 0x04
def fUnderflow : Flags6 := 0x08
def fInexact : Flags6 := 0x10
def fSat : Flags6 := 0x20

/-- A flag word when a condition holds. -/
def flagIf (b : Bool) (f : Flags6) : Flags6 := if b then f else 0

/-! ### Decoding and encoding (R44, R47) -/

/-- The total width of a format in bits. -/
def FFmt.width (f : FFmt) : Nat := 1 + f.ebits + f.fbits

/-- The exponent of the smallest normal, as a power of two (R44). -/
def FFmt.emin (f : FFmt) : Int := 1 - (f.bias : Int)

/-- The datum that a bit pattern of the format names (R44). -/
def FFmt.decode (f : FFmt) (x : Nat) : FVal :=
  let frac := x % 2 ^ f.fbits
  let ex := x / 2 ^ f.fbits % 2 ^ f.ebits
  let neg := x / 2 ^ (f.fbits + f.ebits) % 2 == 1
  if f.ieee && ex == 2 ^ f.ebits - 1 then
    if frac == 0 then .inf neg else .nan (frac / 2 ^ (f.fbits - 1) == 0)
  else if !f.ieee && ex == 2 ^ f.ebits - 1 && frac == 2 ^ f.fbits - 1 then .nan false
  else if ex == 0 then .fin neg frac (f.emin - f.fbits)
  else .fin neg (2 ^ f.fbits + frac) ((ex : Int) - f.bias - f.fbits)

/-- The sign bit of a format as a number. -/
def FFmt.signBit (f : FFmt) (neg : Bool) : Nat := if neg then 2 ^ (f.ebits + f.fbits) else 0

/-- The canonical NaN of R44. -/
def FFmt.nanBits (f : FFmt) : Nat :=
  if f.ieee then (2 ^ f.ebits - 1) * 2 ^ f.fbits + 2 ^ (f.fbits - 1) else 2 ^ (f.ebits + f.fbits) - 1

/-- The infinity of R44; the largest finite value where the format has none. -/
def FFmt.maxBits (f : FFmt) : Nat :=
  if f.ieee then (2 ^ f.ebits - 1) * 2 ^ f.fbits - 1 else 2 ^ (f.ebits + f.fbits) - 2

def FFmt.infBits (f : FFmt) : Nat := if f.ieee then (2 ^ f.ebits - 1) * 2 ^ f.fbits else f.nanBits

/-- The bits of mant × 2^q, where mant ≤ 2^(fbits+1) and q is at least the subnormal quantum (R44). -/
def FFmt.pack (f : FFmt) (mant : Nat) (q : Int) : Nat :=
  if mant < 2 ^ f.fbits then mant
  else (q + f.fbits + f.bias).toNat * 2 ^ f.fbits + (mant - 2 ^ f.fbits)

/-! ### Rounding (R45, R53) -/

/-- A magnitude after rounding: mant × 2^q, whether it differs from the exact one, and whether it is
tiny in the sense of R53. -/
structure Rounded where
  mant    : Nat
  q       : Int
  inexact : Bool
  tiny    : Bool
  deriving DecidableEq, Repr, Inhabited

/-- Whether a truncated magnitude is incremented, given its lowest bit, the first discarded bit and
whether anything below it is nonzero (R45). -/
def RMode.up (rm : RMode) (neg odd half rest : Bool) : Bool :=
  match rm with
  | .rn => half && (rest || odd)
  | .rz => false
  | .ru => !neg && (half || rest)
  | .rd => neg && (half || rest)

/-- Round m × 2^e (plus a nonzero part smaller than 2^e when `sticky`) to a multiple of 2^q. -/
def roundAt (rm : RMode) (neg : Bool) (m : Nat) (e : Int) (sticky : Bool) (q : Int) : Nat × Bool :=
  if q ≤ e then
    let t := m * 2 ^ (e - q).toNat
    (if rm.up neg (t % 2 == 1) false sticky then t + 1 else t, sticky)
  else
    let k := (q - e).toNat
    let t := m / 2 ^ k
    let half := m / 2 ^ (k - 1) % 2 == 1
    let rest := m % 2 ^ (k - 1) != 0 || sticky
    (if rm.up neg (t % 2 == 1) half rest then t + 1 else t, half || rest)

/-- Round the exact magnitude m × 2^e (m nonzero, `sticky` as in `roundAt`) into the precision of `f`
with an unbounded exponent above and the subnormal quantum below (R45, R46, R53). -/
def FFmt.round (f : FFmt) (rm : RMode) (neg : Bool) (m : Nat) (e : Int) (sticky : Bool) : Rounded :=
  let top := (Nat.log2 m : Int) + e
  let qn := top - f.fbits
  let q := max qn (f.emin - f.fbits)
  let (mant, inx) := roundAt rm neg m e sticky q
  let (mu, _) := roundAt rm neg m e sticky qn
  -- tiny: mu × 2^qn < 2^emin
  let tiny := (Nat.log2 mu : Int) + qn < f.emin && (mu != 0)
  { mant := mant, q := q, inexact := inx, tiny := tiny }

/-- Whether a rounded magnitude lies beyond the largest finite value of the format. -/
def FFmt.beyond (f : FFmt) (r : Rounded) : Bool :=
  let mx := f.maxBits
  r.mant != 0 && mx < f.pack r.mant r.q

/-- The result of a conversion or arithmetic operation: bits and flags. -/
structure FRes where
  bits  : Nat
  flags : Flags6
  deriving DecidableEq, Repr, Inhabited

/-- The canonical NaN, with INVALID when asked (R47). -/
def FFmt.nanRes (f : FFmt) (invalid : Bool) : FRes := ⟨f.nanBits, flagIf invalid fInvalid⟩

/-- A signed zero. -/
def FFmt.zeroRes (f : FFmt) (neg : Bool) : FRes := ⟨f.signBit neg, 0⟩

/-- A signed infinity. -/
def FFmt.infRes (f : FFmt) (neg : Bool) (fl : Flags6) : FRes := ⟨f.signBit neg + f.infBits, fl⟩

/-- Write an exact nonzero value into an IEEE-style format under R45, R46 and R53. -/
def FFmt.finish (f : FFmt) (rm : RMode) (ftz : Bool) (neg : Bool) (m : Nat) (e : Int) (sticky : Bool) : FRes :=
  let r := f.round rm neg m e sticky
  if f.beyond r then
    let toInf := match rm with
      | .rn => true | .rz => false | .ru => !neg | .rd => neg
    if toInf then f.infRes neg (fOverflow ||| fInexact)
    else ⟨f.signBit neg + f.maxBits, fOverflow ||| fInexact⟩
  else if ftz && r.mant != 0 && r.mant < 2 ^ f.fbits then
    ⟨f.signBit neg, fUnderflow ||| fInexact⟩
  else
    ⟨f.signBit neg + f.pack r.mant r.q,
      flagIf r.inexact fInexact ||| flagIf (r.tiny && r.inexact) fUnderflow⟩

/-- Operand flushing of R46. -/
def FVal.flush (f : FFmt) (ftz : Bool) : FVal → FVal
  | .fin neg m e => if ftz && m < 2 ^ f.fbits && e == f.emin - f.fbits then .fin neg 0 e else .fin neg m e
  | v => v

def FVal.isNan : FVal → Bool
  | .nan _ => true
  | _ => false

def FVal.isSig : FVal → Bool
  | .nan s => s
  | _ => false

def FVal.isInf : FVal → Bool
  | .inf _ => true
  | _ => false

def FVal.isZero : FVal → Bool
  | .fin _ 0 _ => true
  | _ => false

def FVal.neg : FVal → FVal
  | .nan s => .nan s
  | .inf n => .inf (!n)
  | .fin n m e => .fin (!n) m e

def FVal.isNeg : FVal → Bool
  | .nan _ => false
  | .inf n => n
  | .fin n _ _ => n

/-- The signed mantissa of a finite datum. -/
def FVal.sm : FVal → Int
  | .fin n m _ => if n then -(m : Int) else (m : Int)
  | _ => 0

def FVal.ex : FVal → Int
  | .fin _ _ e => e
  | _ => 0

/-! ### Exact sums and products -/

/-- An exact dyadic number n × 2^e. -/
structure Dy where
  n : Int
  e : Int
  deriving DecidableEq, Repr, Inhabited

def Dy.add (a b : Dy) : Dy :=
  if a.n = 0 then b else if b.n = 0 then a else
  let e := min a.e b.e
  ⟨a.n * 2 ^ (a.e - e).toNat + b.n * 2 ^ (b.e - e).toNat, e⟩

def Dy.mul (a b : Dy) : Dy := ⟨a.n * b.n, a.e + b.e⟩

def Dy.ofInt (n : Int) : Dy := ⟨n, 0⟩

/-- The exact value of a finite datum; zero for the others. -/
def FVal.dy : FVal → Dy
  | .fin n m e => ⟨if n then -(m : Int) else (m : Int), e⟩
  | _ => ⟨0, 0⟩

def Dy.lt (a b : Dy) : Bool :=
  let e := min a.e b.e
  decide (a.n * 2 ^ (a.e - e).toNat < b.n * 2 ^ (b.e - e).toNat)

def Dy.eq (a b : Dy) : Bool :=
  let e := min a.e b.e
  decide (a.n * 2 ^ (a.e - e).toNat = b.n * 2 ^ (b.e - e).toNat)

/-- Write an exact dyadic value, whose zero takes the given sign. -/
def FFmt.finishDy (f : FFmt) (rm : RMode) (ftz : Bool) (zeroNeg : Bool) (d : Dy) : FRes :=
  if d.n = 0 then f.zeroRes zeroNeg
  else f.finish rm ftz (decide (d.n < 0)) d.n.natAbs d.e false

/-- The sign of an exact zero sum (R202): that of the terms when all are zeros of one sign, else + or − under RD. -/
def zeroSumNeg (rm : RMode) (allNegZero allPosZero : Bool) : Bool :=
  if allNegZero then true else if allPosZero then false else rm == .rd

/-- The sum of a list of data, rounded once: R58, R202, R208, R239. `invalid` says that an invalid
product (infinity × 0) or a NaN is among the terms and that the result therefore is a NaN with INVALID. -/
def FFmt.sumRes (f : FFmt) (rm : RMode) (ftz : Bool) (nanFlag : Bool) (vs : List FVal) : FRes :=
  if vs.any FVal.isNan then f.nanRes (nanFlag || vs.any FVal.isSig)
  else
    let pinf := vs.any (fun v => v == .inf false)
    let ninf := vs.any (fun v => v == .inf true)
    if pinf && ninf then f.nanRes true
    else if pinf then f.infRes false 0
    else if ninf then f.infRes true 0
    else
      let d := vs.foldl (fun acc v => acc.add v.dy) ⟨0, 0⟩
      let allZ := vs.all FVal.isZero
      f.finishDy rm ftz
        (zeroSumNeg rm (allZ && !vs.isEmpty && vs.all FVal.isNeg) (allZ && vs.all (fun v => !v.isNeg))) d

/-- The exact product of two data: `none` for infinity × 0 (R58, R64). -/
def FVal.mul (a b : FVal) : Option FVal :=
  match a, b with
  | .nan s, .nan t => some (.nan (s || t))
  | .nan s, _ => some (.nan s)
  | _, .nan t => some (.nan t)
  | .inf n, .inf k => some (.inf (n != k))
  | .inf n, .fin k m _ => if m = 0 then Option.none else some (.inf (n != k))
  | .fin k m _, .inf n => if m = 0 then Option.none else some (.inf (n != k))
  | .fin n m e, .fin k l g => some (.fin (n != k) (m * l) (e + g))

/-! ### The basic operations in one format (R202, R204) -/

/-- a + b, rounded once. -/
def FFmt.add (f : FFmt) (rm : RMode) (ftz : Bool) (a b : FVal) : FRes :=
  f.sumRes rm ftz false [a, b]

/-- a × b, rounded once. -/
def FFmt.mul (f : FFmt) (rm : RMode) (ftz : Bool) (a b : FVal) : FRes :=
  match a.mul b with
  | Option.none => f.nanRes true
  | some (.nan s) => f.nanRes s
  | some (.inf n) => f.infRes n 0
  | some (.fin n m e) => if m = 0 then f.zeroRes n else f.finish rm ftz n m e false

/-- a × b + c, rounded once; 0 × ∞ is invalid even when c is a quiet NaN (R202). -/
def FFmt.fma (f : FFmt) (rm : RMode) (ftz : Bool) (a b c : FVal) : FRes :=
  match a.mul b with
  | Option.none => f.nanRes true
  | some p => f.sumRes rm ftz false [p, c]

/-- Whether a precedes b in the order of R48 (−0 before +0); operands are not NaNs. -/
def FVal.before (a b : FVal) : Bool :=
  match a, b with
  | .inf n, .inf k => n && !k
  | .inf n, _ => n
  | _, .inf k => !k
  | a, b => if a.isZero && b.isZero then a.isNeg && !b.isNeg else a.dy.lt b.dy

/-- minimumNumber or maximumNumber of R48 on bit patterns `x`, `y` of the format. -/
def FFmt.minMax (f : FFmt) (ftz : Bool) (isMax : Bool) (x y : Nat) : FRes :=
  let a := (f.decode x).flush f ftz
  let b := (f.decode y).flush f ftz
  let fl := flagIf (a.isSig || b.isSig) fInvalid
  let out (v : FVal) : Nat := match v with
    | .nan _ => f.nanBits
    | .inf n => f.signBit n + f.infBits
    | .fin n m e => f.signBit n + f.pack m e
  let pick : FVal :=
    if a.isNan then (if b.isNan then a else b)
    else if b.isNan then a
    else if isMax then (if a.before b then b else a) else (if b.before a then b else a)
  ⟨out pick, fl⟩

/-- The exact quotient m × 2^e of two finite nonzero magnitudes, truncated with a sticky remainder. -/
def quotMag (ma : Nat) (ea : Int) (mb : Nat) (eb : Int) : Nat × Int × Bool :=
  let k := 64 + Nat.log2 mb
  let t := ma * 2 ^ k
  (t / mb, ea - eb - k, t % mb != 0)

/-- a / b (R202, R203). -/
def FFmt.div (f : FFmt) (rm : RMode) (ftz : Bool) (a b : FVal) : FRes :=
  match a, b with
  | .nan s, .nan t => f.nanRes (s || t)
  | .nan s, _ => f.nanRes s
  | _, .nan t => f.nanRes t
  | .inf _, .inf _ => f.nanRes true
  | .inf n, .fin k _ _ => f.infRes (n != k) 0
  | .fin n _ _, .inf k => f.zeroRes (n != k)
  | .fin n ma ea, .fin k mb eb =>
    if mb = 0 then (if ma = 0 then f.nanRes true else f.infRes (n != k) fDivZero)
    else if ma = 0 then f.zeroRes (n != k)
    else let (m, e, st) := quotMag ma ea mb eb; f.finish rm ftz (n != k) m e st

/-- Integer square root by bits, `n` steps from the top bit down (structural). -/
def isqrtGo (x : Nat) : Nat → Nat → Nat
  | 0, r => r
  | k + 1, r =>
    let r' := r + 2 ^ k
    isqrtGo x k (if r' * r' ≤ x then r' else r)

/-- floor of the square root. -/
def isqrt (x : Nat) : Nat := isqrtGo x (Nat.log2 x / 2 + 1) 0

/-- The square root of m × 2^e (m nonzero), truncated with a sticky remainder. -/
def sqrtMag (m : Nat) (e : Int) : Nat × Int × Bool :=
  let (m, e) := if e % 2 = 0 then (m, e) else (2 * m, e - 1)
  let t := m * 2 ^ 128
  let r := isqrt t
  (r, e / 2 - 64, r * r != t)

/-- √a (R203). -/
def FFmt.sqrt (f : FFmt) (rm : RMode) (ftz : Bool) (a : FVal) : FRes :=
  match a with
  | .nan s => f.nanRes s
  | .inf n => if n then f.nanRes true else f.infRes false 0
  | .fin n m e =>
    if m = 0 then f.zeroRes n else if n then f.nanRes true
    else let (r, q, st) := sqrtMag m e; f.finish rm ftz false r q st

/-- 1 / a (R203). -/
def FFmt.rcp (f : FFmt) (rm : RMode) (ftz : Bool) (a : FVal) : FRes :=
  match a with
  | .nan s => f.nanRes s
  | .inf n => f.zeroRes n
  | .fin n m e =>
    if m = 0 then f.infRes n fDivZero
    else let (q, g, st) := quotMag 1 0 m e; f.finish rm ftz n q g st

/-- 1 / √a (R203). -/
def FFmt.rsq (f : FFmt) (rm : RMode) (ftz : Bool) (a : FVal) : FRes :=
  match a with
  | .nan s => f.nanRes s
  | .inf n => if n then f.nanRes true else f.zeroRes false
  | .fin n m e =>
    if m = 0 then f.infRes n fDivZero
    else if n then f.nanRes true
    else
      let (m, e) := if e % 2 = 0 then (m, e) else (2 * m, e - 1)
      let k := 64 + Nat.log2 m
      let r := isqrt (2 ^ (2 * k) / m)
      f.finish rm ftz false r (-(e / 2) - k) (r * r * m != 2 ^ (2 * k))

end Sys2Proof.Machine
end

