-- ==== Sys2Proof/Machine/Conv.lean ====
section
/-! DEFINITION. PW8 and the conversions between element formats (R47, R49 to R55, R59, R61). -/

namespace Sys2Proof.Machine

/-- A two's-complement reading of the low `w` bits. -/
def toSigned (w x : Nat) : Int :=
  let y := x % 2 ^ w
  if 2 * y < 2 ^ w then (y : Int) else (y : Int) - 2 ^ w

/-- The low `w` bits of an integer. -/
def ofSigned (w : Nat) (x : Int) : Nat := (x % (2 ^ w : Int)).toNat

/-- `sat(x, lo, hi)` of R11. -/
def satInt (x lo hi : Int) : Int := if x < lo then lo else if hi < x then hi else x

/-- An integer as an exact datum. -/
def FVal.ofInt (x : Int) : FVal := .fin (decide (x < 0)) x.natAbs 0

/-! ### PW8 (R51 to R55) -/

/-- One half of a PW8 code (R51). -/
def pw8Term (s c : Nat) : Int :=
  if c = 0 then 0 else if s = 1 then -(2 ^ (c - 1) : Int) else 2 ^ (c - 1)

/-- The integer that a PW8 code decodes to (R51). -/
def pw8Decode (x : Nat) : Int :=
  pw8Term (x / 128 % 2) (x / 16 % 8) + pw8Term (x / 8 % 2) (x % 8)

/-- The representable positive magnitudes in rising order with their canonical codes (R55). -/
def pw8Table : List (Nat × Nat) :=
  [(1, 0x10), (2, 0x20), (3, 0x21), (4, 0x30), (5, 0x31), (6, 0x32), (7, 0x49), (8, 0x40),
   (9, 0x41), (10, 0x42), (12, 0x43), (14, 0x5A), (15, 0x59), (16, 0x50), (17, 0x51), (18, 0x52),
   (20, 0x53), (24, 0x54), (28, 0x6B), (30, 0x6A)] ++
  [(31, 0x69), (32, 0x60), (33, 0x61), (34, 0x62), (36, 0x63), (40, 0x64), (48, 0x65), (56, 0x7C),
   (60, 0x7B), (62, 0x7A), (63, 0x79), (64, 0x70), (65, 0x71), (66, 0x72), (68, 0x73), (72, 0x74),
   (80, 0x75), (96, 0x76), (128, 0x77)]

/-- The canonical code of a representable value with the given sign (R55). -/
def pw8Signed (neg : Bool) (code : Nat) : Nat :=
  if code = 0 then 0
  else if neg then 128 + (if code % 8 = 0 then code else if code / 8 % 2 = 1 then code - 8 else code + 8)
  else code

/-- The entry nearest to the magnitude num / den, the smaller on a tie (R54); starts from (0, code 0). -/
def pw8Nearest (num den : Nat) : Nat × Nat :=
  let dist (v : Nat) : Nat := if v * den ≤ num then num - v * den else v * den - num
  pw8Table.foldl (fun best e => if dist e.1 < dist best.1 then e else best) (0, 0)

/-- PW8 encoding of an exact value (R54). -/
def pw8Encode (y : FVal) : FRes :=
  match y with
  | .nan _ => ⟨0, fInvalid⟩
  | .inf n => ⟨pw8Signed n 0x77, fSat⟩
  | .fin n m e =>
    let num := m * 2 ^ e.toNat
    let den := 2 ^ (-e).toNat
    if 128 * den < num then ⟨pw8Signed n 0x77, fSat ||| fInexact⟩
    else
      let b := pw8Nearest num den
      ⟨pw8Signed n b.2, flagIf (b.1 * den != num) fInexact⟩

/-! ### Reading and converting elements (R49, R50) -/

/-- The datum that an element's bits name; integers and PW8 by their integer value (R206). -/
def Fmt.value (f : Fmt) (x : Nat) : FVal :=
  match f with
  | .none | .uint8 => .ofInt (x % 256)
  | .int8 => .ofInt (toSigned 8 x)
  | .int32 => .ofInt (toSigned 32 x)
  | .pw8 => .ofInt (pw8Decode x)
  | .e4m3 => e4m3F.decode x
  | .e5m2 => e5m2F.decode x
  | .bf16 => bf16F.decode x
  | .fp16 => fp16F.decode x
  | .fp32 => fp32F.decode x

/-- An exact value as an integer in a rounding mode, with whether the rounding changed it. -/
def roundToInt (rm : RMode) (neg : Bool) (m : Nat) (e : Int) : Int × Bool :=
  let r := roundAt rm neg m e false 0
  (if neg then -(r.1 : Int) else (r.1 : Int), r.2)

/-- A value into an integer format of `w` bits with bounds lo and hi (R50). Between INT8 and UINT8, of equal width, it
clamps as to a narrower one (log entry 58). -/
def cvtInt (w : Nat) (lo hi : Int) (rm : RMode) (v : FVal) : FRes :=
  match v with
  | .nan _ => ⟨0, fInvalid⟩
  | .inf n => ⟨ofSigned w (if n then lo else hi), fSat⟩
  | .fin n m e =>
    let r := roundToInt rm n m e
    let c := satInt r.1 lo hi
    if c = r.1 then ⟨ofSigned w c, flagIf r.2 fInexact⟩ else ⟨ofSigned w c, fSat ||| fInexact⟩

/-- A value into an FP8 format (R49, R46). -/
def cvtFp8 (f : FFmt) (rm : RMode) (ftz nsat : Bool) (v : FVal) : FRes :=
  match v with
  | .nan s => f.nanRes s
  | .inf n =>
    if nsat then (if f.ieee then f.infRes n 0 else f.nanRes true) else ⟨f.signBit n + f.maxBits, fSat⟩
  | .fin n m e =>
    if m = 0 then f.zeroRes n
    else
      let r := f.round rm n m e false
      if f.beyond r then
        if nsat then
          (if f.ieee then f.infRes n (fOverflow ||| fInexact) else ⟨f.nanBits, fOverflow ||| fInexact⟩)
        else ⟨f.signBit n + f.maxBits, fSat ||| fInexact⟩
      else f.finish rm ftz n m e false

/-- A value into a wider IEEE-style format (R45, R50). -/
def cvtFloat (f : FFmt) (rm : RMode) (ftz : Bool) (v : FVal) : FRes :=
  match v with
  | .nan s => f.nanRes s
  | .inf n => f.infRes n 0
  | .fin n m e => if m = 0 then f.zeroRes n else f.finish rm ftz n m e false

/-- A datum into an element of the destination format: R49, R50 and R54. -/
def cvtValue (dst : Fmt) (rm : RMode) (ftz nsat : Bool) (v : FVal) : FRes :=
  match dst with
  | .none => ⟨0, 0⟩
  | .int8 => cvtInt 8 (-128) 127 rm v
  | .uint8 => cvtInt 8 0 255 rm v
  | .int32 => cvtInt 32 (-2147483648) 2147483647 rm v
  | .pw8 => pw8Encode v
  | .e4m3 => cvtFp8 e4m3F rm ftz nsat v
  | .e5m2 => cvtFp8 e5m2F rm ftz nsat v
  | .bf16 => cvtFloat bf16F rm ftz v
  | .fp16 => cvtFloat fp16F rm ftz v
  | .fp32 => cvtFloat fp32F rm ftz v

/-- One element converted from `src` to `dst` (R155, R206): equal formats copy, but for signalling
NaNs and PW8, which is re-encoded. -/
def cvtElem (dst src : Fmt) (rm : RMode) (ftz nsat : Bool) (x : Nat) : FRes :=
  if dst = src ∧ dst ≠ .pw8 then
    match src.ffmt with
    | some f => if (f.decode x).isSig then f.nanRes true else ⟨x % 2 ^ f.width, 0⟩
    | Option.none => ⟨x % 2 ^ (8 * src.size), 0⟩
  else
    let v := src.value x
    let v := match src.ffmt with
      | some f => v.flush f ftz
      | Option.none => v
    cvtValue dst rm ftz nsat v

/-- The quantisation maximum M of R42; 0 where the format has none. -/
def Fmt.qmax : Fmt → Nat
  | .int8 => 127
  | .e4m3 => 448
  | .e5m2 => 57344
  | .pw8 => 128
  | _ => 0

end Sys2Proof.Machine
end

