-- ==== Sys2Proof/Machine/State.lean ====
section
/-! DEFINITION. The state of the machine: everything spec/ gives it, as plain data, and its value after reset.
INVENTORY.md lists each item with its rule; fields marked MODEL are the model's own (log entries 7 to 9). -/

namespace Sys2Proof.Machine

open Sys2Proof

/-! ### Stops -/

/-- Reasons for which the machine itself would stop. The spec gives none: R3 says that every misuse raises a named
trap or fault, which is a next state here, or has a stated result. -/
inductive Fault where
  deriving DecidableEq, Repr

/-- Reasons to refuse an instruction. -/
inductive Refusal where
  /-- Raised by an arm of `exec` whose instruction has no meaning yet. Safe: the run stops. -/
  | notModelled (mnemonic : String)
  deriving DecidableEq, Repr

/-! ### Memory -/

/-- A memory: (address, byte) pairs, addresses strictly rising, no entry equal to 0, which is what an unlisted
address reads as (R13, R294; log entry 10). -/
abbrev Memory := List Host.Cell

/-- The causes of R321. -/
inductive Cause where
  | none
  | illegalTile | unbound | rescale | rangeLock | launchOverflow | software | lsfloor
  | badDesc | illegalOperand | align | kennelRange | badAddr | translation | carveout | memoryError
  | badPerm | noStats | matrixCheck | badBinding | badBarrier | badLaunch | dqFull | remoteFault
  | remoteUnreachable | mcastPeer | watchdog
  | budget | emptyRead | lookaheadRead | divZero | badTarget | nestDepth | nestContain
  | collectiveExited | collectiveMismatch | formatDivergence | badRep | privateRange | constRange
  | badStream | streamFull | badParam | illegalLane | breakpoint
  deriving DecidableEq, Repr, Inhabited

/-! ### Floors and pending stores (R258, R259) -/

/-- The floor of one location: a stamp of the coherence order and a store number of the core. -/
structure LocFloor where
  pa : Nat
  stamp : Nat
  id : Nat
  deriving DecidableEq, Repr, Inhabited

/-- The floor of an agent (R259): the last acquire, and what its own accesses of single locations raised. -/
structure Floor where
  acq : Nat := 0
  core : Nat := 0
  locs : List LocFloor := []
  deriving DecidableEq, Repr, Inhabited

/-- Who made a store: the sequencer of the core, or a thread (lane and slot). -/
inductive Agent where
  | seq
  | thread (lane slot : Nat)
  deriving DecidableEq, Repr, Inhabited

/-- A plain store performed at CORE and not yet at DEVICE (R258). -/
structure PStore where
  id : Nat
  agent : Agent
  ctx : W32
  pa : Nat
  bytes : List Byte
  pidx : Nat
  replay : Bool
  deriving DecidableEq, Repr, Inhabited

/-- A plain store to the Kennel that has not reached its bank (R258); only its own agent can read it. -/
structure KStore where
  agent : Agent
  addr : Nat
  bytes : List Byte
  deriving DecidableEq, Repr, Inhabited

/-- What makes a late access an atomic (R107, R262): the operation with its operand and compare value, the scope, the
pedigree index of the page, the replay mark, and the op of a lane thread. -/
structure Rmw where
  op : AtomOp
  x : Nat
  cmp : Nat
  scope : Scope
  pidx : Nat
  replay : Bool
  team : Option Nat
  deriving DecidableEq, Repr, Inhabited

/-- A load or an atomic that has issued and not acted on its memory (R262): its bytes in the Kennel or, with the virtual
address, in device memory; the width of the value and whether it is sign-extended. -/
structure LateLoad where
  dev : Bool
  pa : Nat
  va : W64
  n : Nat
  sx : Bool
  rmw : Option Rmw := none
  deriving DecidableEq, Repr, Inhabited

/-! ### Bound operations (R122 to R139) -/

/-- A binding entry: four words, laid out by R31. -/
structure BindEntry where
  w0 : W64 := 0
  w1 : W64 := 0
  w2 : W64 := 0
  w3 : W64 := 0
  deriving DecidableEq, Repr, Inhabited

/-- A captured operand of an issue record (R122). -/
inductive OpVal where
  | none
  | tile (v : W128)
  | val (v : W64)
  deriving DecidableEq, Repr, Inhabited

/-- The issue record of R122: the address, the word (index and MOD among its fields), the operand values. -/
structure IssueRec where
  pc : W64
  word : BoundWord
  d : OpVal
  a : OpVal
  b : OpVal
  c : OpVal
  dreg : Option RegNo
  deriving DecidableEq, Repr, Inhabited

/-- The queues of R124. -/
inductive OpQueue where
  | matrix | conv | lane
  deriving DecidableEq, Repr, Inhabited

/-- Where a lane fault was taken: the thread, its PC, the word and the iteration of an active `REP`. -/
structure LaneWhere where
  lane : Nat
  slot : Nat
  pc : W64
  word : W64
  rep : Option Nat
  deriving DecidableEq, Repr, Inhabited

/-- The completion status of an op or command (R127, R322). -/
structure OpStatus where
  flags : Flags6 := 0
  cause : Cause := .none
  addr : W64 := 0
  detail : W64 := 0
  lane : Option LaneWhere := none
  nested : Option Byte := none
  deriving DecidableEq, Repr, Inhabited

/-- An op waits in its queue, is a running team, has executed and awaits completion, or stands in the restart slot. -/
inductive OpState where
  | queued
  | running
  | executed (st : OpStatus) (scale : Option W32)
  | delivered
  deriving DecidableEq, Repr, Inhabited

/-- A byte of an operand that an engine op has read: the core whose memory holds it, accumulator memory or Kennel, the
address. -/
structure SeenByte where
  core : CoreNo
  acc : Bool
  addr : Nat
  val : Byte
  deriving DecidableEq, Repr, Inhabited

/-- A byte that an engine op has still to write, in accumulator memory or in the Kennel. -/
structure TodoByte where
  acc : Bool
  addr : Nat
  val : Byte
  deriving DecidableEq, Repr, Inhabited

/-- A bound op that has issued and is not complete. `id` is its place in issue order, shared with commands. -/
structure Op where
  id : Nat
  rcd : IssueRec
  entry : BindEntry
  dtag : BitVec 16
  q : OpQueue
  st : OpState
  /-- the parent team's op, for a nested op, and the address of its parameter block -/
  parent : Option Nat
  block : Nat
  /-- the records that the run has folded into (R138) -/
  folded : List Nat
  replay : Bool
  held : Bool
  /-- the floor that issue gives it (R267) -/
  floor : Floor
  /-- of an engine op that runs: the bytes it has read so far, its result once it has computed, the bytes left to write -/
  seen : List SeenByte := []
  result : Option (OpStatus × Option W32) := none
  todo : List TodoByte := []
  deriving DecidableEq, Repr, Inhabited

/-- A result of a sequencer instruction that is still to be written (R98), with the flags set beside it (R65); none
until HOME has answered a pedigree request (R181). -/
structure SPend where
  d : SK
  v : Option W64
  fl : Flags6 := 0
  /-- a load that has not read its memory yet -/
  load : Option LateLoad := none
  deriving DecidableEq, Repr, Inhabited

/-- What the restart slot refers to (R137). -/
structure Restart where
  id : Nat
  isCmd : Bool
  pc : W64
  resume : W64
  final : Bool
  /-- the next issue number at delivery: what the handler issues has this one or a later one -/
  next : Nat := 0
  deriving DecidableEq, Repr, Inhabited

/-- The key under which parked accesses share a fault-buffer entry (R290). -/
structure FbKey where
  ctx : W32
  page : Nat
  cause : Byte
  access : Byte
  deriving DecidableEq, Repr, Inhabited

/-- A fault-buffer entry (R291). -/
structure FbEntry where
  key : FbKey
  va : W64
  level : Nat
  agent : Byte
  who : BitVec 16
  count : Nat
  deriving DecidableEq, Repr, Inhabited

/-- How an access that missed its translation stands: its walk runs, it waits on a fault-buffer entry, or the
entry was answered FAIL and this is the cause to take, or RETRY and the access of a thread replays (R278). -/
inductive Park where
  | none
  | retry
  | walking
  | waiting (key : FbKey) (va : W64)
  | failed (c : Cause)
  deriving DecidableEq, Repr, Inhabited

/-! ### The sequencer (R14, R26) -/

/-- No task; running; `END` executed; stopped after a `SAFEPT` to drain; stopped by a freeze; stopped by an
unhandled trap, which freezes too (R324); stopped to be discarded (R332). -/
inductive SeqMode where
  | idle | run | ended | stopped | freezing | unhandled | discarding
  deriving DecidableEq, Repr, Inhabited

/-- Why the sequencer drains at a safe point (R118, R177). -/
inductive Drain where
  | checkpoint | swap
  deriving DecidableEq, Repr, Inhabited

/-- A remote `.SYSTEM` atomic of the sequencer (R368): in flight under a flow number, or answered. -/
inductive Remote where
  | none
  | flight (flow : W32)
  | value (v : W64)
  | failed
  deriving DecidableEq, Repr, Inhabited

structure Seq where
  mode : SeqMode := .idle
  pc : W64 := 0
  s : Vector W64 64 := Vector.replicate 64 0
  p : BitVec 8 := 0x80
  t : Vector W128 64 := Vector.replicate 64 0
  c : Vector W64 256 := Vector.replicate 256 0
  code : List W64 := []
  trapvec : W64 := 0
  epc : W64 := 0
  trapcause : W64 := 0
  tflags : W64 := 0
  trapen : Bool := false
  faircyc : Nat := 256
  partid : BitVec 4 := 0
  iter : Vector W32 4 := Vector.replicate 4 0
  itern : W64 := 0
  nodearg : W64 := 0
  wake : Byte := 0
  start : Nat := 0
  dtag : BitVec 16 := 0
  safe : Option (W64 × W64) := none
  /-- the instruction executed last was a `SAFEPT` (R177) -/
  afterSafe : Bool := false
  drain : Option Drain := none
  /-- the cycle since which the task has stood at a swap-out point (R317) -/
  standSince : Option Nat := none
  restart : Option Restart := none
  pend : List SPend := []
  park : Park := .none
  remote : Remote := .none
  floor : Floor := {}
  deriving DecidableEq, Repr, Inhabited

/-! ### Lane threads (R22) -/

/-- What a long-latency instruction will write: values, a nested op's status word, or a remote atomic's answer, with
its `.ACQ` and the place of the atomic, or what a load that has not read its memory yet will read. -/
inductive LRes where
  | vals (ws : List W32)
  | nested (op : Nat)
  | remote (flow : W32) (acq : Bool) (addr : W64) (place : LaneWhere)
  | load (l : LateLoad)
  deriving DecidableEq, Repr, Inhabited

/-- An outstanding long-latency result with its flags and its window (R65, R77, R78). -/
structure LPend where
  dst : RegNo
  n : Nat
  res : LRes
  fl : Flags6
  win : Nat
  arrived : Bool
  release : List RegNo
  deriving DecidableEq, Repr, Inhabited

/-- The state of an active repeat (R220): iterations, next iteration, stride and fields. -/
structure Rep where
  n : Nat
  j : Nat
  stride : Nat
  fields : BitVec 4
  deriving DecidableEq, Repr, Inhabited

/-- A thread's arrival at a collective (R232): its instruction, mask, part and values. -/
structure Arrival where
  op : CollIns
  mask : W32
  contrib : Bool
  a : W32
  b : W32
  vals : List W32
  pc : W64
  deriving DecidableEq, Repr, Inhabited

/-- The instruction a thread has arrived at. -/
abbrev Arrival.ins (a : Arrival) : Instr := a.op.ins

/-- Why a thread does not issue (R22, R214). -/
inductive Wait where
  | none
  | barrier (addr : W64) (dev : Bool) (phase : W32)
  | coll (a : Arrival)
  | debug
  | faulted
  deriving DecidableEq, Repr, Inhabited

structure Thread where
  team : Nat := 0
  rank : Nat := 0
  pc : W64 := 0
  v : Vector W32 64 := Vector.replicate 64 0
  full : BitVec 64 := 0
  p : BitVec 8 := 0x80
  flags : Flags6 := 0
  rep : Option Rep := none
  pend : List LPend := []
  /-- records popped (R37), and the push order of the last of them -/
  cursor : Nat := 0
  lastDq : Nat := 0
  wait : Wait := .none
  park : Park := .none
  floor : Floor := {}
  /-- registers that hold the status word of a nested op (R250) -/
  status : BitVec 64 := 0
  /-- pairs of registers, even and odd, whose 64-bit word of the register pool is poisoned (R285) -/
  poison : BitVec 32 := 0
  deriving DecidableEq, Repr, Inhabited

/-- The issue arbiter of one team on one group (R214): the current subset, named by its lowest lane, and the timer. -/
structure Arb where
  low : Option Nat := none
  timer : Nat := 0
  /-- `FAIRCYC` as it stood when the timer was restarted (R111) -/
  period : Nat := 256
  deriving DecidableEq, Repr, Inhabited

/-- A team (R12, R128): its op, and what its threads have raised. -/
structure Team where
  op : Nat
  rcd : IssueRec
  entry : BindEntry
  dtag : BitVec 16
  groups : List Nat
  admitted : Nat
  /-- cycles that do not count for the watchdog (R131) -/
  exempt : Nat
  arb : Vector Arb 4
  flags : Flags6
  fault : Option OpStatus
  aborting : Bool
  /-- tiles still to be scanned; none before the scan is due (R130) -/
  scan : Option (List W128)
  deriving DecidableEq, Repr, Inhabited

/-! ### Retrievers (R161 to R172) -/

inductive CmdKind where
  | cpyIn | cpyOut | cpyKk | gth | sct | pft | pull | push | mcast
  deriving DecidableEq, Repr, Inhabited

inductive CmdState where
  | queued
  | running
  | failed (st : OpStatus)
  | delivered
  deriving DecidableEq, Repr, Inhabited

/-- A piece of a command that has not landed whole (R257, R270): the bytes of its source read so far, and the places in
them that are still to be written. -/
structure Landing where
  piece : Nat
  got : List (Option Byte)
  left : List Nat
  deriving DecidableEq, Repr, Inhabited

/-- A captured Retriever command (R163). -/
structure Cmd where
  id : Nat
  pc : W64
  q : BitVec 2
  kind : CmdKind
  dev : Bool
  /-- destination and source tile descriptors, where the command has them -/
  dst : W128
  src : W128
  /-- memory-side address, row pitch, index list, count, mask, remote reference -/
  addr : W64
  pitch : Nat
  idx : List W32
  count : Nat
  mask : Nat
  rdev : Nat
  rpart : Nat
  bar : W64
  st : CmdState
  /-- pieces that have landed, and the bytes subtracted -/
  landed : List Nat
  sub : Nat
  /-- frames of a `RCPY.PUSH` that have been sent -/
  frames : Nat
  park : Park
  /-- a named core of a `MCAST` was not running the context (R169) -/
  peerBad : Bool
  floor : Floor
  replay : Bool
  /-- the records of the tracked pages that its landings have folded into (R138) -/
  folded : List Nat
  /-- pieces under way -/
  part : List Landing := []
  deriving DecidableEq, Repr, Inhabited

/-- A Retriever queue holds commands, by number, and invalidation markers (R172). -/
inductive RetEntry where
  | cmd (id : Nat)
  | marker (ctx : W32) (g : Bool)
  deriving DecidableEq, Repr, Inhabited

/-- A range of the range-lock table (R171); `dev` is a device virtual range. -/
structure RangeLock where
  cmd : Nat
  dst : Bool
  dev : Bool
  lo : Nat
  hi : Nat
  deriving DecidableEq, Repr, Inhabited

/-! ### Decisions, launch and pedigree -/

inductive DqState where
  | free | pending | attached
  deriving DecidableEq, Repr, Inhabited

/-- A decision record (R37); `order` is its push order. -/
structure DqRec where
  payload : Vector W32 6 := Vector.replicate 6 0
  dtag : BitVec 16 := 0
  st : DqState := .free
  remain : Nat := 0
  order : Nat := 0
  deriving DecidableEq, Repr, Inhabited

/-- A launch record (R185), also the captured head of a LOOP node (R298). -/
structure LaunchRec where
  nodeid : W32 := 0
  order : Byte := 0
  serp : BitVec 4 := 0
  ndim : Nat := 0
  restartable : Bool := false
  cooperative : Bool := false
  image : W64 := 0
  entry : W64 := 0
  bound : Vector W32 4 := Vector.replicate 4 0
  arg : W64 := 0
  join : W64 := 0
  /-- of a `LAUNCH`: the queue and the context of the task that made it (R316) -/
  queue : Fin 64 := 0
  ctx : W32 := 0
  /-- MODEL: of a `LAUNCH`: its number in issue order among the records of its core that wait (R187) -/
  no : Nat := 0
  deriving DecidableEq, Repr, Inhabited

/-- A fold on its way (R274): one element for one record. `fmt` is the format of the descriptor that the scan of R130
reads by, or 0: the record's FMT at HOME. -/
structure Fold where
  ctx : W32
  idx : Nat
  bits : Nat
  replay : Bool
  fmt : BitVec 4 := 0
  deriving DecidableEq, Repr, Inhabited

/-- A bank of a record (R40). -/
structure Bank where
  amax : W32 := 0
  zeros : W32 := 0
  nans : W32 := 0
  infs : W32 := 0
  count : W64 := 0
  ovf : W32 := 0
  hist : Vector W32 32 := Vector.replicate 32 0
  deriving DecidableEq, Repr, Inhabited

/-- A pedigree record (R38, R39). -/
structure PedRec where
  ctx : W32
  idx : Nat
  gen : W32 := 0
  replay : Bool := false
  thresh : W32 := 0
  fmt : BitVec 4 := 0
  eo : Byte := 0
  opn : Bank := {}
  closed : Bank := {}
  deriving DecidableEq, Repr, Inhabited

/-- The folds of one record waiting at one slice (R274). -/
structure Partial where
  slice : Nat
  ctx : W32
  idx : Nat
  elems : List Fold
  deriving DecidableEq, Repr, Inhabited

/-- Who asked for a close. -/
inductive Closer where
  | core (c : CoreNo)
  | queue (q : Fin 64)
  deriving DecidableEq, Repr, Inhabited

/-- A close or reset in progress at HOME (R179, R182). -/
structure Close where
  ctx : W32
  idx : Nat
  reset : Bool
  who : Closer
  drained : List Nat
  deriving DecidableEq, Repr, Inhabited

/-- A pedigree request on its way to HOME (R382). -/
inductive PedReq where
  | close (idx : Nat)
  | reset (idx : Nat)
  | peek (idx field : Nat) (d : SK)
  | read (idx field : Nat) (d : SK)
  | readHdr (idx field : Nat) (d : SK)
  | sett (idx : Nat) (f : BitVec 2) (v : W64)
  deriving DecidableEq, Repr, Inhabited

/-! ### Translation (R286 to R291) -/

/-- Whose access a page walk serves (R291: AGENT and WHO). -/
inductive Walker where
  | seq
  | thread (lane slot : Nat)
  | fetch (lane slot : Nat)
  | cmd (id : Nat)
  deriving DecidableEq, Repr, Inhabited

/-- A page walk that has begun (R288, R289); `need` is the ACCESS code of R291. -/
structure Walk where
  va : W64
  need : Byte
  who : Walker
  /-- the access was parked and answered RETRY (R278) -/
  replay : Bool := false
  deriving DecidableEq, Repr, Inhabited

structure TlbEntry where
  ctx : W32
  g : Bool
  base : Nat
  bits : Nat
  pa : Nat
  x : Bool
  w : Bool
  r : Bool
  cp : BitVec 2
  pidx : Nat
  deriving DecidableEq, Repr, Inhabited

/-! ### A core -/

/-- A tile code overlay resident on a core (R120, R314). -/
structure Overlay where
  ident : List Byte
  code : List W64
  deriving DecidableEq, Repr, Inhabited

/-- The registers of a context block that a task keeps as they stood when it was placed (R320). -/
structure CtxRegs where
  frecbase : W64 := 0
  savebase : W64 := 0
  saveslots : W32 := 0
  lringsize : W32 := 128
  lringbase : W64 := 0
  deriving DecidableEq, Repr, Inhabited

/-- The task on a core (R12): its queue, its node or child grid, its iteration. -/
structure Task where
  ctx : W32
  queue : Fin 64
  grid : Option Nat
  rcd : LaunchRec
  n : Nat
  startTick : Nat
  replay : Bool
  regs : CtxRegs := {}
  deriving DecidableEq, Repr, Inhabited

/-- The decisions of R331. -/
inductive RcDecision where
  | complete | checkpoint | discard | freeze
  deriving DecidableEq, Repr, Inhabited

/-- What a Recall post or the Shepherd has decided for a core (R327, R332). -/
structure Claim where
  slot : Fin 8
  dec : RcDecision
  vacant : Bool
  /-- the save slot reserved for the core's task -/
  save : Option Nat
  /-- `CDIRTY` at acceptance (R333) -/
  cap : Nat
  /-- the COOPERATIVE node of the task at acceptance, whose cores leave together (R345) -/
  coop : Option (Fin 64 × Option Nat) := none
  deriving DecidableEq, Repr, Inhabited

/-- Sensors, clock and readings of a core (R313, R319, R327, R371). -/
structure Health where
  gated : Bool := true
  /-- left clock gating for the task that is being placed (R28 cause 3) -/
  woke : Bool := false
  /-- the cycle in which the core last left clock gating: of the causes of one cycle the lowest is recorded (R28) -/
  wokeAt : Option Nat := none
  clockStop : Bool := false
  /-- a thermal stop that the claim of the core puts off until it is vacant (R371) -/
  stopDue : Bool := false
  temp : Int := 0
  hot : Bool := false
  droops : List Nat := []
  spAvg : Option Nat := none
  spLast : Option Nat := none
  startTick : Nat := 0
  live : Nat := 0
  /-- bytes of the last image saved from the core: `CDIRTY` without a task -/
  lastImage : Nat := 0
  deriving DecidableEq, Repr, Inhabited

/-- On-core memories (R279): Kennel, accumulator, private SRAM at 2,048 x lane, caches, dirty blocks, poison. What the
L1 data cache lets a load return is held by `Core.stores` and `DevMem.old` (log entry 12). -/
structure CoreMem where
  kennel : Memory := []
  acc : Memory := []
  priv : Memory := []
  icache : List (Nat × W64) := []
  overlays : List Overlay := []
  dirty : List Nat := []
  poison : List Nat := []
  accPoison : List Nat := []
  /-- the matrix working buffer (R149), which nothing else reaches: W of the last `MMA`, and its checksum row and column -/
  wbuf : List W32 := []
  sumRow : List W32 := []
  sumCol : List W32 := []
  privPoison : List Nat := []
  /-- poisoned 64-bit words (R285) of the working buffer, of the L1 by physical address, of a tile code overlay by its
  identity, and of the lane instruction cache by virtual address -/
  workPoison : List Nat := []
  l1Poison : List Nat := []
  codePoison : List (List Byte × Nat) := []
  lanePoison : List Nat := []
  /-- byte ranges that hold undefined values since a resume (R119, R343): Kennel, accumulator, private SRAM in one
  numbering; `seed` tells one resume from another -/
  holes : List (Nat × Nat) := []
  seed : Nat := 0
  deriving DecidableEq, Repr, Inhabited

/-- A task given to a core and not yet started (R314), or a saved task to be restored there (R343). -/
inductive Placing where
  | start
  | resume (ctx : W32) (slot : Nat)
  deriving DecidableEq, Repr, Inhabited

structure Core where
  seq : Seq := {}
  task : Option Task := none
  lastCtx : Option W32 := none
  mem : CoreMem := {}
  table : Vector BindEntry 256 := Vector.replicate 256 {}
  /-- updates on their way from the Shepherd (R141): index, entry, and whether this core sent it -/
  updates : List (Nat × BindEntry × Bool) := []
  ops : List Op := []
  teams : List Team := []
  slots : Vector (Option Thread) 512 := Vector.replicate 512 none
  rr : Vector (Option Nat) 4 := Vector.replicate 4 none
  nextId : Nat := 0
  cmds : List Cmd := []
  retq : Vector (List RetEntry) 4 := Vector.replicate 4 []
  locks : List RangeLock := []
  dq : Vector DqRec 16 := Vector.replicate 16 {}
  launchQ : List LaunchRec := []
  port : List Fold := []
  ped : List PedReq := []
  stores : List PStore := []
  nextStore : Nat := 1
  /-- plain stores to device memory that have not reached the L1 (R258); only their own agent can read them -/
  lstores : List PStore := []
  kstores : List KStore := []
  /-- the floors of the core's agents at their releases: of every release, and of those beyond CORE (R263) -/
  relCore : Floor := {}
  relOut : Floor := {}
  tlb : List TlbEntry := []
  /-- dropped entries that Retriever commands ahead of a marker still use (R172) -/
  oldTlb : List TlbEntry := []
  walks : List Walk := []
  fb : List FbEntry := []
  drops : Nat := 0
  health : Health := {}
  claim : Option Claim := none
  /-- the fault record of an unhandled trap whose task is being frozen (R324) -/
  trapRec : List Byte := []
  /-- the save slot of a checkpoint save in progress (R342) -/
  saving : Option Nat := none
  placing : Option Placing := none
  /-- the LIVE queue that a post emptied this core for (R336) -/
  given : Option (Fin 64) := none
  heldFor : Option (Fin 64 × Option Nat) := none
  deriving DecidableEq, Repr, Inhabited

/-! ### Contexts, images, grids and saves (R94 to R97, R316, R320, R338) -/

/-- An image loaded into a context: its container address, identity and the sections a task uses. -/
structure Image where
  addr : W64
  ident : List Byte
  tile : List W64
  const : List W64
  lane : W64
  deriving DecidableEq, Repr, Inhabited

/-- An event on its way to the host (R360). -/
structure Event where
  code : Nat
  queue : W32
  count : W32
  nodeid : W32
  time : W64
  body : List Byte
  deriving DecidableEq, Repr, Inhabited

structure Ctx where
  num : W32
  lanehnd : W64 := 0
  frecbase : W64 := 0
  savebase : W64 := 0
  saveslots : W32 := 0
  lringsize : W32 := 128
  lringbase : W64 := 0
  cpedlimit : W32 := 0
  cpedbase : W64 := 0
  cptroot : W64 := 0
  table : Vector BindEntry 256 := Vector.replicate 256 {}
  images : List Image := []
  nextLane : Nat := 0
  ring : List (Nat × LaunchRec) := []
  savesUsed : List Nat := []
  store : List Event := []
  route : Option W32 := none
  lost : Nat := 0
  debug : Bool := false
  /-- an invalidation in progress (R271) -/
  inval : Bool := false
  deriving DecidableEq, Repr, Inhabited

/-- A child grid (R188, R316): its record, the queue, the iterations not yet placed and those completed. -/
structure Grid where
  id : Nat
  ctx : W32
  queue : Fin 64
  rcd : LaunchRec
  next : Nat
  again : List Nat
  done : Nat
  checked : Bool
  deriving DecidableEq, Repr, Inhabited

inductive SaveKind where
  | checkpoint | freeze | swap
  deriving DecidableEq, Repr, Inhabited

/-- A saved task (R338 to R344): what its image holds, as data; the bytes stand in device memory. -/
structure Save where
  ctx : W32
  slot : Nat
  kind : SaveKind
  unhandled : Bool
  task : Task
  seq : Seq
  blocks : List Nat
  /-- 64 bytes for each block, in order -/
  data : List Byte
  dq : Vector DqRec 16
  ops : List Op
  cmds : List Cmd
  teams : List Team
  threads : List (Nat × Thread)
  rpend : Nat
  /-- threads whose remote atomic was refused, and where it was (R341, R343) -/
  rfaults : List (Nat × LaneWhere)
  partcores : Nat
  /-- GRID: shared by the images of one grid, else 0 -/
  coop : Nat
  wait : Option (W64 × W32)
  deriving DecidableEq, Repr, Inhabited

/-! ### Queues (R296 to R303) -/

inductive QState where
  | disabled | empty | ready | running | waiting | insufficient | error
  deriving DecidableEq, Repr, Inhabited

/-- What a captured node record asks for (R298, R300). -/
inductive NodeBody where
  | loop (autoclose : Bool) (closes : List Nat)
  | cond (addr value : W64) (cc : Nat) (width : Nat) (skipT skipF : Nat)
  | join (barrier : W64) (phase : W32)
  | hostevent (payload : List Byte)
  deriving DecidableEq, Repr, Inhabited

/-- A captured node (R301) and its progress (R310, R315). -/
structure Node where
  rcd : LaunchRec
  body : NodeBody
  next : Nat
  again : List Nat
  done : Nat
  /-- closes still to be issued, the one under way left out; none before every task has retired -/
  closing : Option (List Nat)
  /-- a COND that has been decided: the records to skip -/
  skip : Option Nat
  deriving DecidableEq, Repr, Inhabited

/-- The fields of a queue that take effect at the next choice of R307 (R297). -/
structure QParams where
  cls : BitVec 2 := 0
  period : W32 := 0
  budget : W32 := 0
  reldl : W32 := 0
  lead : W32 := 0
  deriving DecidableEq, Repr, Inhabited

structure Queue where
  base : W64 := 0
  size : W32 := 0
  part : BitVec 4 := 0
  cls : BitVec 2 := 0
  en : Bool := false
  head : W32 := 0
  tail : W32 := 0
  period : W32 := 0
  budget : W32 := 0
  reldl : W32 := 0
  lead : W32 := 0
  /-- class, period, budget, deadline and lead as the last choice found them (R297) -/
  eff : QParams := {}
  absdl : W64 := BitVec.allOnes 64
  remain : W32 := 0
  err : Byte := 0
  demoted : Bool := false
  st : QState := .disabled
  repl : W64 := 0
  ctx : W32 := 0
  node : Option Node := none
  nitavg : Option Nat := none
  /-- tick to which the budget has been charged (R305) -/
  charged : Nat := 0
  /-- tick since which a LIVE candidate waits for a core (R308) -/
  since : Option Nat := none
  /-- a starved LIVE queue posts again when a save slot is freed -/
  starved : Bool := false
  deriving DecidableEq, Repr, Inhabited

/-! ### Partitions, the Shepherd and the Recall -/

structure Partition where
  clusters : W64 := 0
  carve : Vector (Nat × Nat) 8 := Vector.replicate 8 (0, 0)
  yttctx : W32 := BitVec.allOnes 32
  rwin : Vector W128 16 := Vector.replicate 16 0
  cursor : Nat := 255
  /-- cores of the mask that a shrinking post has taken out (R345) -/
  left : List CoreNo := []
  /-- ranges being removed: granules to be scrubbed once the invalidation is done (R361) -/
  removing : List (Nat × Nat) := []
  deriving DecidableEq, Repr, Inhabited

/-- An active post (R326 to R336). -/
structure Post where
  cores : List CoreNo
  /-- the cores that were named, without those that R345 adds -/
  named : List CoreNo
  dl : Option Nat
  last : Nat
  shrink : Bool
  /-- the LIVE queue that the Shepherd posted for (R308) -/
  live : Option (Fin 64)
  called : Bool
  deriving DecidableEq, Repr, Inhabited

structure Recall where
  cores : List CoreNo := []
  dl : W64 := 0
  shrink : Bool := false
  release : Bool := false
  result : W32 := 0
  mindl : W64 := 0
  posts : Vector (Option Post) 8 := Vector.replicate 8 none
  pdl : Vector W64 8 := Vector.replicate 8 0
  plast : Vector W64 8 := Vector.replicate 8 0
  pdone : Vector W64 8 := Vector.replicate 8 (BitVec.allOnes 64)
  pefreeze : Vector W32 8 := Vector.replicate 8 0
  deriving DecidableEq, Repr, Inhabited

/-! ### Host port and fabric -/

/-- A message on a wire, in the order sent. -/
inductive Sent where
  | yht (m : YhtMsg)
  | neighbour (src target : BitVec 128) (mac : BitVec 48)
  | echo (src dst : BitVec 128) (data : List Byte)
  | ytt (port : Nat) (f : YttFrame)
  deriving DecidableEq, Repr, Inhabited

/-- A session (R354, R359). -/
structure Session where
  num : W32
  /-- the context, or none for an operator session -/
  ctx : Option W32
  next : W32
  kept : List (W32 × YhtMsg)
  heldReq : List YhtMsg
  /-- events queued and not yet sent -/
  evq : List Event
  /-- EVENT requests sent and not acknowledged: message, sends, cycle of the last send -/
  events : List (YhtMsg × Nat × Nat)
  evNext : W32
  lost : Nat
  /-- an open KICK: message, attempts made, cycle of the last -/
  busy : Bool
  peer : BitVec 128
  peerPort : BitVec 16
  /-- bytes of the `WRITE` or `READ` of PSN `next` that have been written or read, while others have not (R257) -/
  part : List (Option Byte) := []
  deriving DecidableEq, Repr, Inhabited

/-- A KICK waiting for its next reading (R358). -/
structure KickWait where
  msg : YhtMsg
  q : Fin 64
  n : Nat
  attempt : Nat
  atCyc : Nat
  deriving DecidableEq, Repr, Inhabited

/-- A PARTITION_SET that waits for its invalidation (R361): the request and the partition. -/
structure PartWait where
  msg : YhtMsg
  part : Fin 16
  deriving DecidableEq, Repr, Inhabited

structure HostPort where
  hpaddr : BitVec 128 := 0
  up : Bool := false
  sessions : List Session := []
  nextSession : Nat := 1
  kept0 : List ((BitVec 128 × BitVec 16 × W32) × YhtMsg) := []
  kicks : List KickWait := []
  partWaits : List PartWait := []
  sent : List Sent := []
  dropped : Nat := 0
  deriving DecidableEq, Repr, Inhabited

/-- An outgoing command of the fabric: a push, a pull or an atomic, and what awaits it. -/
inductive YttJob where
  | cmd (core : CoreNo) (cmd : Nat)
  | seqAtomic (core : CoreNo)
  | laneAtomic (core : CoreNo) (lane slot : Nat)
  | saved (ctx : W32) (slot lane thr : Nat)
  deriving DecidableEq, Repr, Inhabited

/-- A frame sent and not acknowledged: the frame, sends so far, cycle of the last send (R364). -/
structure YttOut where
  f : YttFrame
  sends : Nat
  last : Nat
  deriving DecidableEq, Repr, Inhabited

/-- A flow (R365): who opened it, the next SEQ, frames accepted, and the responses kept. -/
structure YttFlow where
  flow : W32
  peer : W32
  ours : Bool
  job : Option YttJob
  seq : W32
  out : List YttOut
  accepted : List W32
  kept : List (W32 × YttFrame)
  rows : Nat
  /-- of a PUT or GET under way, by its SEQ: the bytes that have been written or read (R257) -/
  part : List (W32 × List (Option Byte)) := []
  deriving DecidableEq, Repr, Inhabited

structure Ytt where
  pfx : BitVec 128 := 0
  devid : W32 := 0
  rto : W32 := 2000
  retry : W32 := 16
  ports : Vector Bool 8 := Vector.replicate 8 false
  flows : List YttFlow := []
  nextFlow : Nat := 0
  dropped : Vector Nat 8 := Vector.replicate 8 0
  deriving DecidableEq, Repr, Inhabited

/-! ### Power, boot and the management core -/

structure Power where
  cap : W32 := 1800
  watts : W32 := 0
  clk : W32 := 1700
  throt : W32 := 0
  deriving DecidableEq, Repr, Inhabited

inductive BootState where
  | off | recovery | up
  deriving DecidableEq, Repr, Inhabited

structure Boot where
  st : BootState := .off
  flash : List Byte := []
  total : Nat := 0
  chunks : List (Nat × List Byte) := []
  /-- times the watchdog has reset the Management Runtime (R369) -/
  runtimeResets : Nat := 0
  deriving DecidableEq, Repr, Inhabited

/-- What reaches the management core (R301, R306, R316, R324, R325, R354). -/
inductive MgmtEvent where
  | queueError (q : Fin 64)
  | overrun (q : Fin 64)
  | unhandledTrap (rcd : List Byte) (saved : Bool)
  | machineCheck (rcd : List Byte)
  | launchError (rcd : List Byte)
  | recallStarved (q : Fin 64)
  | recallDone (slot : Fin 8)
  | violation (rcd : List Byte)
  | debug (core : CoreNo) (lane slot : Nat)
  | sessionLost (session : W32)
  | faultBuffer (rcd : List Byte)
  deriving DecidableEq, Repr, Inhabited

/-! ### Device memory -/

/-- A value that a byte held until the write of stamp `till` (R259). -/
structure Old where
  pa : Nat
  val : Byte
  till : Nat
  /-- the core whose agent made that write; 256 for every other agent -/
  src : Nat
  /-- the single-copy atomic write to which it belongs (R257), by a number that its bytes share; 0 for a write that is
  so byte by byte -/
  grp : Nat
  /-- that write was an atomic, of these bytes: start and length -/
  atom : Option (Nat × Nat)
  deriving DecidableEq, Repr, Inhabited

/-- The write of a `.CLUSTER` atomic that the cluster unit still holds (R261). -/
structure Held where
  core : CoreNo
  agent : Agent
  ctx : W32
  pidx : Nat
  replay : Bool
  pa : Nat
  bytes : List Byte
  deriving DecidableEq, Repr, Inhabited

/-- The scrub bitmap (R294): the bit of most granules, and the granules whose bit differs. -/
structure Scrub where
  all : Bool := false
  differ : List Nat := []
  deriving DecidableEq, Repr, Inhabited

structure DevMem where
  hbm : Memory := []
  old : List Old := []
  held : List Held := []
  stamp : Nat := 0
  scrub : Scrub := {}
  poison : List Nat := []
  /-- poisoned 64-bit words of the L2 (R285) -/
  l2Poison : List Nat := []
  corrected : Nat := 0
  uncorrected : Nat := 0
  viol : List (List Byte) := []
  lost : Nat := 0
  recs : List PedRec := []
  partials : List Partial := []
  closes : List Close := []
  deriving DecidableEq, Repr, Inhabited

/-! ### The model's own order of steps (log entry 7) -/

/-- MODEL: whose move it is. -/
inductive Turn where
  | seq (c : CoreNo)
  | lanes (c : CoreNo) (g : Fin 4)
  | event (i : Instr)
  deriving DecidableEq, Repr, Inhabited

/-- MODEL: the cycles that pass, then the move. -/
structure AgendaEntry where
  dt : Nat
  turn : Turn
  deriving DecidableEq, Repr, Inhabited

/-- MODEL: the part of the state that is not the spec's. -/
structure Sched where
  /-- MODEL: the moves to make next; empty means the automatic order -/
  agenda : List AgendaEntry := []
  /-- MODEL: the core, and the threads (lane, slot), that the instruction of this step issues on -/
  cur : CoreNo := 0
  issue : List (Nat × Nat) := []
  /-- MODEL: which allowed value each open read takes (log entry 8) -/
  choices : List Nat := []
  /-- MODEL: the counter behind undefined values (log entry 9) -/
  fresh : Nat := 0
  /-- MODEL: the counter by which the automatic order rotates -/
  auto : Nat := 0
  deriving DecidableEq, Repr, Inhabited

/-- The whole device. -/
structure State where
  now : Nat := 0
  cores : Vector Core 256 := Vector.replicate 256 {}
  /-- the L2 TLB of each cluster (R289) -/
  l2tlb : Vector (List TlbEntry) 64 := Vector.replicate 64 []
  dev : DevMem := {}
  ctxs : List Ctx := []
  grids : List Grid := []
  nextGrid : Nat := 1
  saves : List Save := []
  queues : Vector Queue 64 := Vector.replicate 64 {}
  parts : Vector Partition 16 := Vector.replicate 16 {}
  shmode : BitVec 2 := 1
  swapdly : W32 := 100
  rc : Recall := {}
  host : HostPort := {}
  ytt : Ytt := {}
  pwr : Power := {}
  boot : Boot := {}
  mgmt : List MgmtEvent := []
  sched : Sched := {}
  deriving DecidableEq, Repr, Inhabited

/-- The machine right after reset: power has just been applied, no task runs, memory reads zero, every register
holds the value INVENTORY.md lists for it. -/
def State.reset : State := {}

end Sys2Proof.Machine
end

