-- ==== Sys2Proof/Machine/Memory.lean ====
section
/-! DEFINITION. Bytes and memories: little-endian order (R8), the canonical memory, home slices (R282), device
memory with its coherence order (R258, R259), scrub bits (R294) and poison (R285). -/

namespace Sys2Proof.Machine

open Sys2Proof

/-! ### Bytes -/

/-- The `n` low bytes of `v`, least significant first (R8). -/
def leBytes : Nat → Nat → List Byte
  | 0, _ => []
  | n + 1, v => BitVec.ofNat 8 v :: leBytes n (v / 256)

/-- The number that bytes stand for, least significant first (R8). -/
def ofBytes : List Byte → Nat
  | [] => 0
  | b :: bs => b.toNat + 256 * ofBytes bs

/-! ### Canonical memories -/

/-- The byte at an address; an unlisted byte is 0 (R13, R294). -/
def memRead : Memory → Nat → Byte
  | [], _ => 0
  | (a, b) :: m, k => if a = k then b else memRead m k

/-- Write one byte, keeping the canonical form. -/
def memPut : Memory → Nat → Byte → Memory
  | [], k, v => if v = 0 then [] else [(k, v)]
  | (a, b) :: m, k, v =>
    if k < a then (if v = 0 then (a, b) :: m else (k, v) :: (a, b) :: m)
    else if k = a then (if v = 0 then m else (a, v) :: m)
    else (a, b) :: memPut m k v

/-- Every address of a memory is above `k`. -/
def memAbove : Nat → Memory → Bool
  | _, [] => true
  | k, (a, _) :: m => decide (k < a) && memAbove k m

/-- The canonical form: addresses strictly rising, no entry equal to 0. -/
def Memory.wf : Memory → Bool
  | [] => true
  | (a, b) :: m => b != 0 && memAbove a m && Memory.wf m

/-- `n` bytes from address `a` up. -/
def memReadN (m : Memory) (a : Nat) : Nat → List Byte
  | 0 => []
  | n + 1 => memRead m a :: memReadN m (a + 1) n

/-- Write bytes from address `a` up. -/
def memPutN (m : Memory) (a : Nat) : List Byte → Memory
  | [] => m
  | b :: bs => memPutN (memPut m a b) (a + 1) bs

/-- Drop every byte from `lo` below `hi`: they read 0. -/
def memClear (m : Memory) (lo hi : Nat) : Memory := m.filter fun c => !(decide (lo ≤ c.1) && decide (c.1 < hi))

/-- Keep only the bytes of the 64-byte blocks that `keep` names. -/
def memKeep (m : Memory) (keep : Nat → Bool) : Memory := m.filter fun c => keep (c.1 / 64)

/-- The number in `n` bytes at `a`. -/
def memWord (m : Memory) (a n : Nat) : Nat := ofBytes (memReadN m a n)

/-! ### Sorted sets of numbers -/

/-- Insert into a strictly rising list. -/
def setInsert (x : Nat) : List Nat → List Nat
  | [] => [x]
  | y :: ys => if x < y then x :: y :: ys else if x = y then y :: ys else y :: setInsert x ys

def setInsertAll (xs ys : List Nat) : List Nat := xs.foldl (fun acc x => setInsert x acc) ys

/-- The units of size `u` that the `n` bytes at `a` touch. -/
def unitsOf (u a n : Nat) : List Nat :=
  if n = 0 then [] else (List.range ((a + n - 1) / u - a / u + 1)).map (· + a / u)

/-- The units of size `u` that lie wholly within the `n` bytes at `a` (R285: a write of a whole unit clears poison). -/
def wholeUnits (u a n : Nat) : List Nat :=
  (unitsOf u a n).filter fun k => decide (a ≤ k * u) && decide (k * u + u ≤ a + n)

def poisonHit (u : Nat) (poison : List Nat) (a n : Nat) : Bool := (unitsOf u a n).any poison.contains

def poisonClear (u : Nat) (poison : List Nat) (a n : Nat) : List Nat :=
  poison.filter fun k => !(wholeUnits u a n).contains k

/-! ### Home slices (R282) -/

/-- The home slice of a physical address. -/
def sliceOf (pa : Nat) : Nat :=
  let a : BitVec 40 := BitVec.ofNat 40 pa
  (a.extractLsb' 12 6 ^^^ a.extractLsb' 18 6 ^^^ a.extractLsb' 24 6 ^^^ a.extractLsb' 30 6 ^^^
    (a.extractLsb' 36 3).zeroExtend 6).toNat

/-- Bytes of HBM (R282). -/
def hbmSize : Nat := 0x6000000000

/-! ### The scrub bitmap (R294) -/

/-- The bit of a 64 KiB granule. -/
def Scrub.marked (b : Scrub) (g : Nat) : Bool := b.all != b.differ.contains g

def Scrub.set (b : Scrub) (g : Nat) (v : Bool) : Scrub :=
  { b with differ := if v = b.all then b.differ.filter (· != g) else setInsert g b.differ }

/-! ### Device memory -/

/-- The byte of HBM that is latest in coherence order; a marked granule reads 0 (R294). -/
def DevMem.byte (d : DevMem) (pa : Nat) : Byte :=
  if d.scrub.marked (pa / 65536) then 0 else memRead d.hbm pa

/-- The first write to a byte after stamp `t`, with the value that it superseded. -/
def DevMem.nextWrite (d : DevMem) (t pa : Nat) : Option Old := d.old.find? fun o => o.pa == pa && decide (t < o.till)

/-- The byte as it stood at stamp `t`: the value of the first write superseded after `t`, else the latest (R259). -/
def DevMem.byteAt (d : DevMem) (t pa : Nat) : Byte :=
  match d.nextWrite t pa with
  | some o => o.val
  | none => d.byte pa

/-- The stamps from which on device memory has held each value of a byte, oldest first. -/
def DevMem.starts (d : DevMem) (pa : Nat) : List Nat := 0 :: (d.old.filter fun o => o.pa == pa).map Old.till

def DevMem.bytes (d : DevMem) (pa : Nat) : Nat → List Byte
  | 0 => []
  | n + 1 => d.byte pa :: d.bytes (pa + 1) n

def DevMem.word (d : DevMem) (pa n : Nat) : Nat := ofBytes (d.bytes pa n)

/-- A read of the bytes meets poison, in HBM or in the L2 (R285); a marked granule reads zero, whatever it holds
(R294). -/
def DevMem.poisoned (d : DevMem) (pa n : Nat) : Bool :=
  ((unitsOf 32 pa n).any fun u => d.poison.contains u && !d.scrub.marked (u / 2048)) ||
    (unitsOf 8 pa n).any fun u => d.l2Poison.contains u && !d.scrub.marked (u / 8192)

/-- The zero-fill of a marked granule by the first write to it, which clears the bit (R294); whole units of zeros are
written, so no poison is left (R285). -/
def DevMem.unmark (d : DevMem) (g : Nat) : DevMem :=
  if d.scrub.marked g then
    { d with hbm := memClear d.hbm (g * 65536) (g * 65536 + 65536), scrub := d.scrub.set g false,
             poison := d.poison.filter fun u => u / 2048 != g,
             l2Poison := d.l2Poison.filter fun u => u / 8192 != g }
  else d

/-- How a write is single-copy atomic (R257): byte by byte, as a whole, as a part of the write of a number, or as an
atomic, which is so towards accesses of the same bytes only. -/
inductive WKind where
  | bytes | plain | part (grp : Nat) | atom
  deriving DecidableEq, Repr, Inhabited

/-- Perform a write of bytes at DEVICE: one place in coherence order; `src` is the writer's core or 256. -/
def DevMem.put (d : DevMem) (src : Nat) (kind : WKind) (pa : Nat) (bs : List Byte) : DevMem :=
  let t := d.stamp + 1
  let grp := match kind with | .bytes => 0 | .plain | .atom => t | .part g => g
  let atom := match kind with | .atom => some (pa, bs.length) | .bytes | .plain | .part _ => none
  let olds := (List.range bs.length).map fun i =>
    ({ pa := pa + i, val := d.byte (pa + i), till := t, src := src, grp := grp, atom := atom } : Old)
  let d' := (unitsOf 65536 pa bs.length).foldl DevMem.unmark d
  { d' with hbm := memPutN d'.hbm pa bs, old := d'.old ++ olds, stamp := t,
            poison := poisonClear 32 d'.poison pa bs.length, l2Poison := poisonClear 8 d'.l2Poison pa bs.length }

/-! ### Floors (R259, R263) -/

def Floor.loc (f : Floor) (pa : Nat) : LocFloor :=
  (f.locs.find? fun l => l.pa == pa).getD { pa := pa, stamp := 0, id := 0 }

/-- The stamp below which no value of the location may be read. -/
def Floor.stampOf (f : Floor) (pa : Nat) : Nat := Nat.max f.acq (f.loc pa).stamp

/-- The store number of the core that reads of the location must cover. -/
def Floor.idOf (f : Floor) (pa : Nat) : Nat := Nat.max f.core (f.loc pa).id

def locsRaise (pa stamp id : Nat) : List LocFloor → List LocFloor
  | [] => [{ pa := pa, stamp := stamp, id := id }]
  | l :: ls =>
    if l.pa = pa then { pa := pa, stamp := Nat.max l.stamp stamp, id := Nat.max l.id id } :: ls
    else l :: locsRaise pa stamp id ls

/-- An access of one location raises its floor. -/
def Floor.raise (f : Floor) (pa stamp id : Nat) : Floor := { f with locs := locsRaise pa stamp id f.locs }

/-- Two floors joined: what one agent hands to another. -/
def Floor.join (f g : Floor) : Floor :=
  g.locs.foldl (fun h l => h.raise l.pa l.stamp l.id)
    { f with acq := Nat.max f.acq g.acq, core := Nat.max f.core g.core }

/-- What another core may take over from a floor: no store number, which counts within one core. -/
def Floor.outside (f : Floor) : Floor :=
  { acq := f.acq, core := 0, locs := f.locs.map fun l => { l with id := 0 } }

/-- An acquire of an agent of core `c` at a scope (R263): it covers what the agents of that instance have performed,
the narrower instances of the agent included (R256): of the stores of the core, those before number `nextStore`. -/
def Floor.acquire (f : Floor) (d : DevMem) (c : Nat) (nextStore : Nat) (sc : Scope) : Floor :=
  let f : Floor := { f with core := nextStore - 1 }
  match sc with
  | .core => (d.old.filter fun o => o.src == c).foldl (fun h o => h.raise o.pa o.till 0) f
  | .cluster => (d.old.filter fun o => o.src / 4 == c / 4).foldl (fun h o => h.raise o.pa o.till 0) f
  | .device | .system => { f with acq := d.stamp }

end Sys2Proof.Machine
end

