-- ==== Sys2Proof/Machine/Ops.lean ====
section
/-! DEFINITION. The named operations over the state: cores, Kennel, device memory by agent, translation, range
locks, barrier objects, events, and taking a tile-level trap (R112) with the return beside it (R115, R137). -/

namespace Sys2Proof.Machine

open Sys2Proof

/-! ### Parts of the state -/

def State.core (s : State) (c : CoreNo) : Core := s.cores[c.val]

def State.setCore (s : State) (c : CoreNo) (k : Core) : State := { s with cores := s.cores.set c.val k }

def State.updCore (s : State) (c : CoreNo) (f : Core → Core) : State := s.setCore c (f (s.core c))

def State.updSeq (s : State) (c : CoreNo) (f : Seq → Seq) : State := s.updCore c fun k => { k with seq := f k.seq }

def State.setSched (s : State) (x : Sched) : State := { s with sched := x }

def State.setDev (s : State) (d : DevMem) : State := { s with dev := d }

/-- The core on which the instruction of this step issues. -/
def State.cur (s : State) : CoreNo := s.sched.cur

/-- Device time in ticks (R10): 17 cycles to a tick. -/
def State.ticks (s : State) : Nat := s.now / 17

def State.ctx? (s : State) (n : W32) : Option Ctx := s.ctxs.find? fun x => x.num == n

def State.updCtx (s : State) (n : W32) (f : Ctx → Ctx) : State :=
  { s with ctxs := s.ctxs.map fun x => if x.num = n then f x else x }

/-- The partition and the index of a context number (R362). -/
def ctxPart (n : W32) : Fin 16 := (n.extractLsb' 28 4).toFin

def State.part (s : State) (p : Fin 16) : Partition := s.parts[p.val]

def State.updPart (s : State) (p : Fin 16) (f : Partition → Partition) : State :=
  { s with parts := s.parts.set p.val (f s.parts[p.val]) }

def State.queue (s : State) (q : Fin 64) : Queue := s.queues[q.val]

def State.updQueue (s : State) (q : Fin 64) (f : Queue → Queue) : State :=
  { s with queues := s.queues.set q.val (f s.queues[q.val]) }

/-- The context that runs on a core; all ones, which names none, without a task. -/
def Core.ctx (k : Core) : W32 := match k.task with | some t => t.ctx | none => BitVec.allOnes 32

/-- The partition of a core: its cluster's (R368). -/
def State.partOf (s : State) (c : CoreNo) : Option (Fin 16) :=
  (List.finRange 16).find? fun p => (s.part p).clusters.getLsbD (c.val / 4) && !(s.part p).left.contains c

/-- The cores of a partition: those of its clusters, but for the ones that have left it (R345). -/
def coresOf (p : Partition) : List CoreNo :=
  (List.finRange 256).filter fun c => p.clusters.getLsbD (c.val / 4) && !p.left.contains c

/-- The next undefined value of width `w` (R2), and the state that has used it. -/
def State.undef (s : State) (w : Nat) : BitVec w × State :=
  (Config.undef w s.sched.fresh, s.setSched { s.sched with fresh := s.sched.fresh + 1 })

/-- The next open choice; 0 when the model lists none. -/
def State.choice (s : State) : Nat × State :=
  match s.sched.choices with
  | [] => (0, s)
  | n :: ns => (n, s.setSched { s.sched with choices := ns })

/-! ### The Kennel (R279) and the other on-core memories -/

def kennelSize : Nat := 0x100000
def accSize : Nat := 0x40000
def privSize : Nat := 0x800

/-- Where the accumulator memory and the private SRAM stand in the one numbering of a core's bytes. -/
def accMap : Nat := 0x100000
def privMap : Nat := 0x140000

/-- A byte that holds an undefined value since a resume. -/
def CoreMem.hole (m : CoreMem) (x : Nat) : Bool := m.holes.any fun h => decide (h.1 ≤ x) && decide (x < h.2)

/-- A write of `n` bytes at `x` of the one numbering: they are undefined no more. -/
def fillHoles (x n : Nat) (hs : List (Nat × Nat)) : List (Nat × Nat) :=
  hs.flatMap fun h =>
    [(h.1, Nat.min h.2 x), (Nat.max h.1 (x + n), h.2)].filter fun r => decide (r.1 < r.2)

/-- `n` bytes at `a` of the memory that starts at `base` of the one numbering. -/
def CoreMem.bytes (m : CoreMem) (base : Nat) (mem : Memory) (a n : Nat) : List Byte :=
  (List.range n).map fun i =>
    if m.hole (base + a + i) then Config.residue m.seed (base + a + i) else memRead mem (a + i)

def CoreMem.kread (m : CoreMem) (a n : Nat) : List Byte := m.bytes 0 m.kennel a n
def CoreMem.aread (m : CoreMem) (a n : Nat) : List Byte := m.bytes accMap m.acc a n
def CoreMem.pread (m : CoreMem) (a n : Nat) : List Byte := m.bytes privMap m.priv a n

def Core.kread (k : Core) (a n : Nat) : List Byte := k.mem.kread a n

def Core.kword (k : Core) (a n : Nat) : Nat := ofBytes (k.kread a n)

/-- Block numbers of the dirty set (R340): Kennel, then accumulator, then private SRAM, in map order. -/
def kennelBlocks (a n : Nat) : List Nat := unitsOf 64 a n
def accBlocks (a n : Nat) : List Nat := (unitsOf 64 a n).map (· + 16384)
def privBlocks (a n : Nat) : List Nat := (unitsOf 64 a n).map (· + 20480)

def CoreMem.kput (m : CoreMem) (a : Nat) (bs : List Byte) : CoreMem :=
  { m with kennel := memPutN m.kennel a bs, dirty := setInsertAll (kennelBlocks a bs.length) m.dirty,
           holes := fillHoles a bs.length m.holes, poison := poisonClear 8 m.poison a bs.length }

def CoreMem.aput (m : CoreMem) (a : Nat) (bs : List Byte) : CoreMem :=
  { m with acc := memPutN m.acc a bs, dirty := setInsertAll (accBlocks a bs.length) m.dirty,
           holes := fillHoles (accMap + a) bs.length m.holes,
           accPoison := poisonClear 8 m.accPoison a bs.length }

/-- A lane's private SRAM lies at 2,048 x lane. -/
def CoreMem.pput (m : CoreMem) (lane a : Nat) (bs : List Byte) : CoreMem :=
  { m with priv := memPutN m.priv (2048 * lane + a) bs,
           holes := fillHoles (privMap + 2048 * lane + a) bs.length m.holes,
           privPoison := poisonClear 8 m.privPoison (2048 * lane + a) bs.length,
           dirty := setInsertAll (privBlocks (2048 * lane + a) bs.length) m.dirty }

def Core.kwrite (k : Core) (a : Nat) (bs : List Byte) : Core := { k with mem := k.mem.kput a bs }
def Core.awrite (k : Core) (a : Nat) (bs : List Byte) : Core := { k with mem := k.mem.aput a bs }
def Core.pwrite (k : Core) (lane a : Nat) (bs : List Byte) : Core := { k with mem := k.mem.pput lane a bs }

def Core.kpoisoned (k : Core) (a n : Nat) : Bool := poisonHit 8 k.mem.poison a n

/-- Word `w` of the tile code overlay in use, which is the one used last, is poisoned (R285). -/
def CoreMem.codePoisoned (m : CoreMem) (w : Nat) : Bool :=
  match m.overlays.getLast? with
  | some o => m.codePoison.contains (o.ident, w)
  | none => false

/-- Poison in a lane's private SRAM. -/
def Core.ppoisoned (k : Core) (lane a n : Nat) : Bool := poisonHit 8 k.mem.privPoison (2048 * lane + a) n

def State.kwrite (s : State) (c : CoreNo) (a : Nat) (bs : List Byte) : State := s.updCore c fun k => k.kwrite a bs

/-! ### Threads -/

def slotIx (lane slot : Nat) : Nat := 4 * lane + slot

def Core.thread (k : Core) (lane slot : Nat) : Option Thread := (k.slots[slotIx lane slot]?).getD none

def Core.setThread (k : Core) (lane slot : Nat) (t : Option Thread) : Core :=
  { k with slots := k.slots.setIfInBounds (slotIx lane slot) t }

def State.thread (s : State) (c : CoreNo) (lane slot : Nat) : Option Thread := (s.core c).thread lane slot

def State.updThread (s : State) (c : CoreNo) (lane slot : Nat) (f : Thread → Thread) : State :=
  s.updCore c fun k => k.setThread lane slot ((k.thread lane slot).map f)

/-- Every live thread with its lane and slot, in ascending (LANEID, SLOT) order (R340). -/
def Core.threads (k : Core) : List (Nat × Nat × Thread) :=
  k.slots.toList.zipIdx.filterMap fun x => x.1.map fun t => (x.2 / 4, x.2 % 4, t)

def Core.updTeam (k : Core) (op : Nat) (f : Team → Team) : Core :=
  { k with teams := k.teams.map fun t => if t.op = op then f t else t }

def Core.team? (k : Core) (op : Nat) : Option Team := k.teams.find? fun t => t.op == op

def Core.op? (k : Core) (id : Nat) : Option Op := k.ops.find? fun o => o.id == id

def Core.updOp (k : Core) (id : Nat) (f : Op → Op) : Core :=
  { k with ops := k.ops.map fun o => if o.id = id then f o else o }

def Core.cmd? (k : Core) (id : Nat) : Option Cmd := k.cmds.find? fun o => o.id == id

/-- The command is in its queue or in flight: it is not complete. -/
def Cmd.active (m : Cmd) : Bool :=
  match m.st with
  | .queued | .running => true
  | .failed _ | .delivered => false

/-- Commands that a Retriever queue holds, in flight included (R162). -/
def Core.retCount (k : Core) (q : BitVec 2) : Nat := (k.cmds.filter fun m => m.q == q && m.active).length

def Core.updCmd (k : Core) (id : Nat) (f : Cmd → Cmd) : Core :=
  { k with cmds := k.cmds.map fun o => if o.id = id then f o else o }

/-- A gated core wakes and records the cause; of several causes of one cycle it keeps the lowest (R28). -/
def Core.wakeUp (k : Core) (now : Nat) (cause : Byte) : Core :=
  if k.health.gated then
    { k with health := { k.health with gated := false, woke := k.placing.isSome || cause == 3, wokeAt := some now },
             seq := { k.seq with wake := cause } }
  else if k.health.wokeAt = some now ∧ cause < k.seq.wake then
    { k with health := { k.health with woke := k.health.woke || cause == 3 }, seq := { k.seq with wake := cause } }
  else k

/-! ### Floors of agents -/

def Core.floorOf (k : Core) : Agent → Floor
  | .seq => k.seq.floor
  | .thread l t => match k.thread l t with | some th => th.floor | none => {}

def Core.setFloor (k : Core) (a : Agent) (f : Floor) : Core :=
  match a with
  | .seq => { k with seq := { k.seq with floor := f } }
  | .thread l t => k.setThread l t ((k.thread l t).map fun th => { th with floor := f })

/-! ### Pedigree records -/

def DevMem.rcd (d : DevMem) (ctx : W32) (i : Nat) : PedRec :=
  (d.recs.find? fun r => r.ctx == ctx && r.idx == i).getD { ctx := ctx, idx := i }

def DevMem.setRcd (d : DevMem) (r : PedRec) : DevMem :=
  { d with recs := r :: d.recs.filter fun x => !(x.ctx == r.ctx && x.idx == r.idx) }

/-- Add one element to the partial of a record at a slice (R274). -/
def partialAdd (ps : List Partial) (slice : Nat) (f : Fold) : List Partial :=
  match ps with
  | [] => [⟨slice, f.ctx, f.idx, [f]⟩]
  | p :: ps =>
    if p.slice = slice ∧ p.ctx = f.ctx ∧ p.idx = f.idx then { p with elems := p.elems ++ [f] } :: ps
    else p :: partialAdd ps slice f

/-- A write to a page tracked by this record makes folds; it makes none while the record's FMT is 0 (R292). -/
def DevMem.folds (d : DevMem) (ctx : W32) (pidx : Nat) : Bool :=
  let fmt := (d.rcd ctx pidx).fmt
  pidx != 0 && fmt != 0 && (Fmt.ofCode fmt).isSome

/-- The folds that a write of `n` bytes at `pa`, already made, owes to a tracked page (R292): one per aligned
element that contains written bytes, at the home slice of that element. -/
def DevMem.foldWrite (d : DevMem) (ctx : W32) (pidx pa n : Nat) (replay : Bool) : DevMem :=
  if d.folds ctx pidx then
    let e := ((Fmt.ofCode (d.rcd ctx pidx).fmt).map Fmt.size).getD 1
    let add (ps : List Partial) (u : Nat) : List Partial :=
      partialAdd ps (sliceOf (u * e)) { ctx := ctx, idx := pidx, bits := d.word (u * e) e, replay := replay }
    { d with partials := (unitsOf e pa n).foldl add d.partials }
  else d

/-- A write of a lane op through a tracked page counts as a fold of the op (R138). -/
def State.noteFold (s : State) (c : CoreNo) (op pidx : Nat) : State :=
  if s.dev.folds (s.core c).ctx pidx then
    s.updCore c fun k => k.updOp op fun o => { o with folded := o.folded ++ [pidx] }
  else s

/-- A write performed at DEVICE, with the folds of its page (R258, R274). -/
def State.homePut (s : State) (src : Nat) (kind : WKind) (ctx : W32) (pidx : Nat) (replay : Bool) (pa : Nat)
    (bs : List Byte) : State :=
  s.setDev ((s.dev.put src kind pa bs).foldWrite ctx pidx pa bs.length replay)

/-- Raise the floors of `n` bytes. -/
def Floor.raiseAll (f : Floor) (pa n stamp : Nat) : Floor := (List.range n).foldl (fun f i => f.raise (pa + i) stamp 0) f

def Held.overlaps (h : Held) (pa n : Nat) : Bool := decide (h.pa < pa + n) && decide (pa < h.pa + h.bytes.length)

/-- The write of a `.CLUSTER` atomic leaves the cluster unit: it is performed at DEVICE (R261). -/
def State.landHeld (s : State) (h : Held) : State :=
  let s := s.homePut h.core.val .atom h.ctx h.pidx h.replay h.pa h.bytes
  (s.setDev { s.dev with held := s.dev.held.filter (· != h) }).updCore h.core fun k =>
    k.setFloor h.agent ((k.floorOf h.agent).raiseAll h.pa h.bytes.length s.dev.stamp)

/-- The cluster units let go of the writes that `take` names. -/
def State.flushHeld (s : State) (take : Held → Bool) : State := (s.dev.held.filter take).foldl State.landHeld s

/-- A write that arrives at its home slice; bytes that a cluster unit holds are performed before it (R261). -/
def State.homeWrite (s : State) (src : Nat) (kind : WKind) (ctx : W32) (pidx : Nat) (replay : Bool) (pa : Nat)
    (bs : List Byte) : State :=
  (s.flushHeld fun h => h.overlaps pa bs.length).homePut src kind ctx pidx replay pa bs

/-! ### Device memory as a core's agents see it (R257 to R262) -/

def PStore.covers (p : PStore) (pa : Nat) : Bool := decide (p.pa ≤ pa) && decide (pa < p.pa + p.bytes.length)

def PStore.overlaps (p : PStore) (pa n : Nat) : Bool := decide (p.pa < pa + n) && decide (pa < p.pa + p.bytes.length)

/-- A place in the order of the writes of one byte, at which a read takes it (R259): device memory as it stood at a
stamp; a pending store of the core, by its number; a store of the reader itself that has not reached the L1, by its
index. -/
inductive ReadAt where
  | mem (stamp : Nat)
  | pend (id : Nat)
  | own (i : Nat)
  deriving DecidableEq, Repr, Inhabited

/-- A floor covers a pending store on some byte of it. -/
def Floor.coversStore (f : Floor) (p : PStore) : Bool :=
  (List.range p.bytes.length).any fun i => decide (p.id ≤ f.idOf (p.pa + i))

/-- The number of the last pending store on a byte that the reader must see: its own, and those that its floor covers; 0
for none. -/
def mustSee (ps : List PStore) (a : Option Agent) (fl : Floor) (pa : Nat) : Nat :=
  (ps.filter fun p => p.covers pa && (some p.agent == a || decide (p.id ≤ fl.idOf pa))).foldl
    (fun m p => Nat.max m p.id) 0

/-- The last store of an agent to a byte that has not reached the L1. -/
def Core.ownAt (k : Core) (a : Option Agent) (pa : Nat) : Option Nat :=
  ((List.range k.lstores.length).filter fun i =>
    match k.lstores[i]? with
    | some p => some p.agent == a && p.covers pa
    | none => false).getLast?

/-- The places at which a read of one byte may take it, latest first (R259): its own last store where that has not
reached the L1; else the pending stores and the values of device memory that its floor does not rule out. -/
def State.places (s : State) (c : CoreNo) (a : Option Agent) (fl : Floor) (pa : Nat) : List ReadAt :=
  match (s.core c).ownAt a pa with
  | some i => [.own i]
  | none =>
    let ps := (s.core c).stores
    let must := mustSee ps a fl pa
    let pend := ((ps.filter fun p => p.covers pa && decide (must ≤ p.id)).map fun p => ReadAt.pend p.id).reverse
    let older := ((s.dev.starts pa).filter fun t =>
      match s.dev.nextWrite t pa with
      | some o => decide (fl.stampOf pa < o.till)
      | none => false).reverse.map ReadAt.mem
    if must ≠ 0 then pend else pend ++ .mem s.dev.stamp :: older

/-- One byte at a place. -/
def State.byteOf (s : State) (c : CoreNo) (pa : Nat) (r : ReadAt) : Byte :=
  let of (p : Option PStore) : Byte := match p with | some p => p.bytes.getD (pa - p.pa) 0 | none => 0
  match r with
  | .mem t => s.dev.byteAt t pa
  | .pend id => of ((s.core c).stores.find? fun p => p.id == id)
  | .own i => of (s.core c).lstores[i]?

/-- A read of a byte raises the reader's floor to the write that it returned (R259). -/
def Floor.note (f : Floor) (pa : Nat) (r : ReadAt) : Floor :=
  match r with
  | .mem t => f.raise pa t 0
  | .pend id => f.raise pa 0 id
  | .own _ => f

/-- The write that superseded a value, and a pending store, stand at or before a place. -/
def ReadAt.seesOld (r : ReadAt) (o : Old) : Bool :=
  match r with
  | .mem t => decide (o.till ≤ t)
  | .pend _ | .own _ => true

def ReadAt.seesStore (r : ReadAt) (p : PStore) : Bool :=
  match r with
  | .mem _ => false
  | .pend id => decide (p.id ≤ id)
  | .own _ => true

/-- The read of `n` bytes at `pa` and the write of that value are single-copy atomic towards each other (R257): an atomic
is so towards accesses of its own bytes. -/
def Old.whole (o : Old) (pa n : Nat) : Bool :=
  o.grp != 0 && decide (pa ≤ o.pa) && decide (o.pa < pa + n) &&
    match o.atom with
    | some (a, m) => a == pa && m == n
    | none => true

/-- The bytes of a read, each at its place, are single-copy atomic (R257): of each write that is so, the read returns all
its bytes or none. -/
def State.together (s : State) (c : CoreNo) (pa n : Nat) (rs : List ReadAt) : Bool :=
  let at_ (x : Nat) : ReadAt := rs.getD (x - pa) (.mem 0)
  let olds := s.dev.old.filter fun o => o.whole pa n
  (olds.all fun o => olds.all fun p => o.grp != p.grp || (at_ o.pa).seesOld o == (at_ p.pa).seesOld p) &&
    (s.core c).stores.all fun p =>
      let bs := (List.range n).filter fun i => p.covers (pa + i)
      bs.all fun i => bs.all fun j => (at_ (pa + i)).seesStore p == (at_ (pa + j)).seesStore p

/-- More than the places that any byte has: the base in which one choice lists the place of each byte. -/
def State.readBase (s : State) (c : CoreNo) : Nat := s.dev.stamp + (s.core c).stores.length + 2

/-- Where a read of `n` bytes at `pa` takes each of them: digit `i` of the choice `w` counts the places back from the
latest one of byte `i`. A read that is single-copy atomic takes the latest places where these are not `together`. -/
def State.readPlaces (s : State) (c : CoreNo) (a : Option Agent) (fl : Floor) (whole : Bool) (w pa n : Nat) :
    List ReadAt :=
  let at_ (d i : Nat) : ReadAt :=
    let ps := s.places c a fl (pa + i)
    ps.getD d (ps.headD (.mem s.dev.stamp))
  let latest := (List.range n).map (at_ 0)
  if w = 0 then latest
  else
    let rs := (List.range n).map fun i => at_ (w / s.readBase c ^ i % s.readBase c) i
    if !whole || s.together c pa n rs then rs else latest

/-- The bytes at places, and the floor that they raise. -/
def State.takeBytes (s : State) (c : CoreNo) (pa : Nat) (rs : List ReadAt) : List Byte :=
  rs.zipIdx.map fun r => s.byteOf c (pa + r.2) r.1

def Floor.noteAll (f : Floor) (pa : Nat) (rs : List ReadAt) : Floor :=
  rs.zipIdx.foldl (fun f r => f.note (pa + r.2) r.1) f

/-- What an agent of core `c` reads from `n` aligned bytes at `pa` (R257, R259): the latest values, or, where the
model's list of choices asks for it, earlier ones, but for what the agent's floor covers. -/
def State.devRead (s : State) (c : CoreNo) (a : Agent) (pa n : Nat) : List Byte × State :=
  let s := s.flushHeld fun h => h.overlaps pa n
  let (w, s) := s.choice
  let rs := s.readPlaces c (some a) ((s.core c).floorOf a) true w pa n
  (s.takeBytes c pa rs, s.updCore c fun k => k.setFloor a ((k.floorOf a).noteAll pa rs))

/-- What a Retriever of core `c` reads from `n` bytes at `pa` (R257, R267, R269): byte by byte, no value older than its
command's floor, which rises. -/
def State.readAs (s : State) (c : CoreNo) (id : Nat) (fl : Floor) (pa n : Nat) : List Byte × State :=
  let s := s.flushHeld fun h => h.overlaps pa n
  let (w, s) := s.choice
  let rs := s.readPlaces c none fl false w pa n
  (s.takeBytes c pa rs, s.updCore c fun k => k.updCmd id fun m => { m with floor := m.floor.noteAll pa rs })

/-- A plain store of an agent reaches the L1: performed at CORE (R258). -/
def Core.toL1 (k : Core) (p : PStore) : Core :=
  { k with stores := k.stores ++ [{ p with id := k.nextStore }], nextStore := k.nextStore + 1,
           mem := { k.mem with l1Poison := poisonClear 8 k.mem.l1Poison p.pa p.bytes.length } }

/-- A plain store of an agent as it issues; its number is the one that it takes on reaching the L1. -/
def Core.newStore (k : Core) (a : Agent) (pidx : Nat) (replay : Bool) (pa : Nat) (bs : List Byte) : PStore :=
  { id := 0, agent := a, ctx := k.ctx, pa := pa, bytes := bs, pidx := pidx, replay := replay }

/-- A plain store of an agent that goes to the L1 at once. -/
def State.devStore (s : State) (c : CoreNo) (a : Agent) (pidx : Nat) (replay : Bool) (pa : Nat) (bs : List Byte) :
    State :=
  s.updCore c fun k => k.toL1 (k.newStore a pidx replay pa bs)

/-- After a store has been performed at DEVICE, its own agent, and each agent that has read it, keep it as a floor. -/
def keepFloor (p : PStore) (stamp : Nat) (own : Bool) (f : Floor) : Floor :=
  (List.range p.bytes.length).foldl (fun f i =>
    if own = true ∨ p.id ≤ f.idOf (p.pa + i) then f.raise (p.pa + i) stamp 0 else f) f

def Core.keepFloors (k : Core) (p : PStore) (stamp : Nat) : Core :=
  { k with seq := { k.seq with floor := keepFloor p stamp (p.agent == .seq) k.seq.floor },
           slots := Vector.ofFn fun i => (k.slots[i]).map fun t =>
             { t with floor := keepFloor p stamp (p.agent == .thread (i.val / 4) (i.val % 4)) t.floor },
           ops := k.ops.map fun o => { o with floor := keepFloor p stamp false o.floor },
           cmds := k.cmds.map fun m => { m with floor := keepFloor p stamp false m.floor },
           relCore := keepFloor p stamp false k.relCore, relOut := keepFloor p stamp false k.relOut }

/-- Data that a poisoned word of the L1 held is poisoned in memory too (R285). -/
def DevMem.poisonFrom (d : DevMem) (m : CoreMem) (pa n : Nat) : DevMem :=
  if poisonHit 8 m.l1Poison pa n then { d with poison := setInsertAll (unitsOf 32 pa n) d.poison } else d

/-- A plain store reaches its home slice (R258, R294, R292). -/
def State.perform (s : State) (c : CoreNo) (p : PStore) : State :=
  let s := s.homeWrite c.val .plain p.ctx p.pidx p.replay p.pa p.bytes
  let s := s.setDev (s.dev.poisonFrom (s.core c).mem p.pa p.bytes.length)
  s.updCore c fun k =>
    ({ k with stores := k.stores.filter fun x => x.id != p.id }).keepFloors p s.dev.stamp

/-- The stores that `need` names, and the earlier ones that one of them must follow at a byte (R259). -/
def owedStores (need : PStore → Bool) : List PStore → List PStore
  | [] => []
  | p :: ps =>
    let later := owedStores need ps
    if need p || later.any (fun x => x.overlaps p.pa p.bytes.length) then p :: later else later

/-- Perform the stores of a core that `need` names, in order. -/
def State.performAll (s : State) (c : CoreNo) (need : PStore → Bool) : State :=
  (owedStores need (s.core c).stores).foldl (fun s p => s.perform c p) s

/-- The pending stores that an agent has made or has read (R263). -/
def Core.hasSeen (k : Core) (a : Agent) (p : PStore) : Bool := p.agent == a || (k.floorOf a).coversStore p

/-- Folds that a core's port has accepted go to the folding slice of the core (R274). -/
def portSlice (c : CoreNo) : Nat := 16 * (c.val / 64) + c.val / 4 % 16

def State.performFolds (s : State) (c : CoreNo) : State :=
  let fs := (s.core c).port
  (s.setDev { s.dev with partials := fs.foldl (fun ps f => partialAdd ps (portSlice c) f) s.dev.partials }).updCore c
    fun k => { k with port := [] }

/-! ### Loads and stores that have issued and not acted yet (R258, R262) -/

def KStore.overlaps (p : KStore) (a n : Nat) : Bool := decide (p.addr < a + n) && decide (a < p.addr + p.bytes.length)

/-- A store reaches its Kennel bank. -/
def Core.landKstore (k : Core) (i : Nat) : Core :=
  match k.kstores[i]? with
  | some p => ({ k with kstores := k.kstores.eraseIdx i }).kwrite p.addr p.bytes
  | none => k

/-- The Kennel stores of an agent that `take` names, with its earlier ones that one of them must follow at a byte, and
the stores that stay on their way. -/
def splitKstores (a : Agent) (take : KStore → Bool) : List KStore → List KStore × List KStore
  | [] => ([], [])
  | p :: ps =>
    let r := splitKstores a take ps
    if p.agent == a && (take p || r.1.any fun x => x.overlaps p.addr p.bytes.length) then (p :: r.1, r.2)
    else (r.1, p :: r.2)

/-- These stores reach their banks, in order. -/
def Core.landKstores (k : Core) (a : Agent) (take : KStore → Bool) : Core :=
  let r := splitKstores a take k.kstores
  r.1.foldl (fun k p => k.kwrite p.addr p.bytes) { k with kstores := r.2 }

/-- The same of the stores of an agent to device memory that have not reached the L1. -/
def splitLstores (a : Agent) (take : PStore → Bool) : List PStore → List PStore × List PStore
  | [] => ([], [])
  | p :: ps =>
    let r := splitLstores a take ps
    if p.agent == a && (take p || r.1.any fun x => x.overlaps p.pa p.bytes.length) then (p :: r.1, r.2)
    else (r.1, p :: r.2)

/-- These stores reach the L1, in order. -/
def Core.landLstores (k : Core) (a : Agent) (take : PStore → Bool) : Core :=
  let r := splitLstores a take k.lstores
  r.1.foldl Core.toL1 { k with lstores := r.2 }

/-- A store of the core reaches the L1. -/
def Core.landLstore (k : Core) (i : Nat) : Core :=
  match k.lstores[i]? with
  | some p => ({ k with lstores := k.lstores.eraseIdx i }).toL1 p
  | none => k

/-- Every store of the core reaches its Kennel bank or the L1, in order. -/
def Core.landAll (k : Core) : Core :=
  let k := k.kstores.foldl (fun k p => k.kwrite p.addr p.bytes) { k with kstores := [] }
  k.lstores.foldl Core.toL1 { k with lstores := [] }

/-- The Kennel as an agent reads it: its own stores, on their way to the banks, over what the banks hold (R258). -/
def Core.kreadBy (k : Core) (a : Agent) (addr n : Nat) : List Byte :=
  (k.kread addr n).zipIdx.map fun b =>
    match (k.kstores.filter fun p => p.agent == a && p.overlaps (addr + b.2) 1).getLast? with
    | some p => p.bytes.getD (addr + b.2 - p.addr) 0
    | none => b.1

/-- A byte of the pedigree table whose value a program load does not see: open bank and reserved area (R38, R39). -/
def Ctx.hides (x : Ctx) (va : Nat) : Bool :=
  let off := va - x.cpedbase.toNat
  let r := off % 512
  decide (x.cpedbase.toNat + 512 ≤ va) && decide (off / 512 < x.cpedlimit.toNat) &&
    (decide (0x40 ≤ r) && decide (r < 0x100) || decide (0x1C0 ≤ r))

/-- What a program load returns: the bytes read, but undefined values where R38 leaves them open. -/
def State.loadBytes (s : State) (c : CoreNo) (a : Agent) (va : W64) (pa n : Nat) : List Byte × State :=
  let r := s.devRead c a pa n
  match s.ctx? (s.core c).ctx with
  | none => r
  | some x =>
    if (List.range n).any fun i => x.hides (va.toNat + i) then
      r.1.zipIdx.foldl (fun (acc : List Byte × State) b =>
        if x.hides (va.toNat + b.2) then
          let u := acc.2.undef 8
          (acc.1 ++ [u.1], u.2)
        else (acc.1 ++ [b.1], acc.2)) ([], r.2)
    else r

/-! ### Atomics (R107, R108, R257, R261) -/

/-- Signed and unsigned minimum and maximum. -/
def minS (w : Nat) (a b : BitVec w) : BitVec w := if a.toInt ≤ b.toInt then a else b
def maxS (w : Nat) (a b : BitVec w) : BitVec w := if b.toInt ≤ a.toInt then a else b
def minU (w : Nat) (a b : BitVec w) : BitVec w := if a.toNat ≤ b.toNat then a else b
def maxU (w : Nat) (a b : BitVec w) : BitVec w := if b.toNat ≤ a.toNat then a else b

/-- The new value of R107 at `n` bytes: operand `x`, compare value `cmp`. -/
def atomNew (op : AtomOp) (n : Nat) (old x cmp : Nat) : Nat :=
  let a := BitVec.ofNat (8 * n) old
  let b := BitVec.ofNat (8 * n) x
  let r : BitVec (8 * n) := match op with
    | .add => a + b
    | .and => a &&& b
    | .or => a ||| b
    | .xor => a ^^^ b
    | .min => minS _ a b
    | .max => maxS _ a b
    | .minu => minU _ a b
    | .maxu => maxU _ a b
    | .xchg => b
    | .cas => if a = BitVec.ofNat (8 * n) cmp then b else a
  r.toNat

/-- Draw a choice for each item: the items whose choice is not 0, with it, and the state that has drawn them. -/
def drawEach {α : Type} (xs : List α) (s : State) : List (α × Nat) × State :=
  xs.foldl (fun acc x =>
    let n := acc.2.choice
    (if n.1 = 0 then acc.1 else acc.1 ++ [(x, n.1)], n.2)) ([], s)

/-- The pending stores that share only part of their bytes with an atomic, and may reach their home slice now. -/
def State.partlyAt (s : State) (pa n : Nat) : List (CoreNo × PStore) :=
  (List.finRange 256).flatMap fun c =>
    let ps := (s.core c).stores
    (ps.zipIdx.filter fun x => x.1.overlaps pa n && !(x.1.pa == pa && x.1.bytes.length == n) &&
      !((ps.take x.2).any fun y => y.overlaps x.1.pa x.1.bytes.length)).map fun x => (c, x.1)

/-- The bytes of a pending store that `take` names are performed at DEVICE, as parts of write `grp`. -/
def State.performPart (s : State) (c : CoreNo) (p : PStore) (grp : Nat) (take : Nat → Bool) : State :=
  (p.bytes.zipIdx.filter fun b => take b.2).foldl (fun s b =>
    let s := s.setDev (s.dev.put c.val (.part grp) (p.pa + b.2) [b.1])
    s.updCore c fun k => k.keepFloors { p with pa := p.pa + b.2, bytes := [b.1] } s.dev.stamp) s

/-- A store is performed around an atomic that shares part of its bytes (R257): some bytes before it, the rest after. -/
def State.storeAround (act : State → Nat × State) (s : State) : List ((CoreNo × PStore) × Nat) → Nat × State
  | [] => act s
  | ((c, p), mask) :: rest =>
    let grp := s.dev.stamp + 1
    let r := (s.performPart c p grp mask.testBit).storeAround act rest
    let u := (r.2.flushHeld fun h => h.overlaps p.pa p.bytes.length).performPart c p grp fun i => !mask.testBit i
    (r.1, (u.setDev (u.dev.foldWrite p.ctx p.pidx p.pa p.bytes.length p.replay)).updCore c fun k =>
      { k with stores := k.stores.filter fun x => x.id != p.id })

/-- An atomic on device memory acts at its home slice, the cluster unit or the fabric port (R108, R261). The agent's own
stores to any of its bytes, and those that it has read, are performed before it; plain stores that share part of its
bytes are so byte by byte, as the model's list of choices says (R257). The write of a `.CLUSTER` atomic stays in the
cluster unit; any other is performed at once, and raises the agent's floor. -/
def deviceRmw (c : CoreNo) (a : Agent) (r : Rmw) (pa n : Nat) (s : State) : Nat × State :=
  let s := s.flushHeld fun h => h.overlaps pa n
  let s := s.performAll c fun st => st.overlaps pa n && (s.core c).hasSeen a st
  let picks := drawEach (s.partlyAt pa n) s
  let ctx := (s.core c).ctx
  picks.2.storeAround (fun s =>
    let old := s.dev.word pa n
    let new := leBytes n (atomNew r.op n old r.x r.cmp)
    if r.scope = .cluster then
      (old, s.setDev { s.dev with held := s.dev.held ++
        [{ core := c, agent := a, ctx := ctx, pidx := r.pidx, replay := r.replay, pa := pa, bytes := new }] })
    else
      let s := s.homeWrite c.val .atom ctx r.pidx r.replay pa new
      (old, s.updCore c fun k => k.setFloor a ((k.floorOf a).raiseAll pa n s.dev.stamp)))
    (picks.1.filter fun x => x.2 % 2 ^ x.1.2.bytes.length != 0)

/-- The stores on their way to Kennel banks that share only part of their bytes with an atomic, and may land now. -/
def Core.partlyAt (k : Core) (addr n : Nat) : List KStore :=
  (k.kstores.zipIdx.filter fun x => x.1.overlaps addr n && !(x.1.addr == addr && x.1.bytes.length == n) &&
    !((k.kstores.take x.2).any fun y => y.agent == x.1.agent && y.overlaps x.1.addr x.1.bytes.length)).map Prod.fst

/-- The bytes of a Kennel store that `take` names are written. -/
def Core.landPart (k : Core) (p : KStore) (take : Nat → Bool) : Core :=
  (p.bytes.zipIdx.filter fun b => take b.2).foldl (fun k b => k.kwrite (p.addr + b.2) [b.1]) k

/-- A late access: its agent, its index among the agent's results, what it reads. -/
structure LateAt where
  agent : Agent
  ix : Nat
  l : LateLoad
  deriving DecidableEq, Repr, Inhabited

/-- The loads and atomics of a core that have issued and not acted yet. -/
def Core.lateAts (k : Core) : List LateAt :=
  (k.seq.pend.zipIdx.filterMap fun p => p.1.load.map fun l => ⟨.seq, p.2, l⟩) ++
    k.threads.flatMap fun x => x.2.2.pend.zipIdx.filterMap fun p =>
      match p.1.arrived, p.1.res with
      | false, .load l => some ⟨.thread x.1 x.2.1, p.2, l⟩
      | _, _ => none

/-- A loaded value, extended (R104). -/
def extendTo (w n : Nat) (sx : Bool) (v : Nat) : BitVec w :=
  if sx then BitVec.ofInt w (toSigned (8 * n) v) else BitVec.ofNat w v

/-- The registers of a lane load (R223). -/
def LateLoad.words (l : LateLoad) (v : Nat) : List W32 :=
  if l.n = 8 then [BitVec.ofNat 32 v, BitVec.ofNat 32 (v / 2 ^ 32)] else [extendTo 32 l.n l.sx v]

/-- A late access of an agent has acted: its result is `v`. -/
def Core.bindLate (k : Core) (x : LateAt) (v : Nat) : Core :=
  match x.agent with
  | .seq =>
    { k with seq := { k.seq with pend := k.seq.pend.modify x.ix fun p =>
        { p with v := some (extendTo 64 x.l.n x.l.sx v), load := none } } }
  | .thread l t =>
    k.setThread l t ((k.thread l t).map fun th =>
      { th with pend := th.pend.modify x.ix fun p => { p with res := .vals (x.l.words v) } })

/-- The late Kennel loads that share only part of their bytes with an atomic. -/
def Core.loadsAt (k : Core) (addr n : Nat) : List LateAt :=
  k.lateAts.filter fun x => !x.l.dev && x.l.rmw.isNone && decide (x.l.pa < addr + n) && decide (addr < x.l.pa + x.l.n) &&
    !(x.l.pa == addr && x.l.n == n)

/-- An atomic acts at a Kennel bank: the old value and the new state. Plain stores and loads that share part of its bytes
take effect byte by byte around it, as the model's list of choices says (R257). -/
def kennelRmw (c : CoreNo) (r : Rmw) (addr n : Nat) (s : State) : Nat × State :=
  let ps := drawEach ((s.core c).partlyAt addr n) s
  let ls := drawEach ((s.core c).loadsAt addr n) ps.2
  let k := ps.1.foldl (fun (k : Core) p => k.landPart p.1 p.2.testBit) (ls.2.core c)
  let old := k.kword addr n
  let k' := k.kwrite addr (leBytes n (atomNew r.op n old r.x r.cmp))
  let k' := ps.1.foldl (fun (k : Core) p =>
    { k.landPart p.1 fun i => !p.2.testBit i with kstores := k.kstores.erase p.1 }) k'
  (old, ls.2.setCore c (ls.1.foldl (fun k'' x =>
    let before := k.kreadBy x.1.agent x.1.l.pa x.1.l.n
    let after := k'.kreadBy x.1.agent x.1.l.pa x.1.l.n
    k''.bindLate x.1 (ofBytes (before.zipIdx.map fun b => if x.2.testBit b.2 then b.1 else after.getD b.2 0))) k'))

/-- A load or an atomic acts on its memory. -/
def State.readLate (s : State) (c : CoreNo) (a : Agent) (l : LateLoad) : Nat × State :=
  match l.rmw with
  | some r =>
    if l.dev then
      let x := deviceRmw c a r l.pa l.n s
      (x.1, match r.team with | some op => x.2.noteFold c op r.pidx | none => x.2)
    else kennelRmw c r l.pa l.n s
  | none =>
    if l.dev then
      let r := s.loadBytes c a l.va l.pa l.n
      (ofBytes r.1, r.2)
    else (ofBytes ((s.core c).kreadBy a l.pa l.n), s)

/-- Result `i` of the sequencer is a load that reads now. -/
def bindSeqLoad (c : CoreNo) (take : LateLoad → Bool) (s : State) (i : Nat) : State :=
  match ((s.core c).seq.pend[i]?).bind SPend.load with
  | none => s
  | some l =>
    if take l = false then s
    else
      let r := s.readLate c .seq l
      r.2.updCore c fun k => k.bindLate ⟨.seq, i, l⟩ r.1

/-- Result `i` of a thread is a load that reads now. -/
def bindThreadLoad (c : CoreNo) (lane slot : Nat) (take : LateLoad → Bool) (s : State) (i : Nat) : State :=
  match (s.thread c lane slot).bind fun th => th.pend[i]? with
  | none => s
  | some p =>
    match p.arrived, p.res with
    | false, .load l =>
      if take l = false then s
      else
        let r := s.readLate c (.thread lane slot) l
        r.2.updCore c fun k => k.bindLate ⟨.thread lane slot, i, l⟩ r.1
    | _, _ => s

/-- The loads of an agent that `take` names read their memory now. -/
def State.bindLoads (s : State) (c : CoreNo) (a : Agent) (take : LateLoad → Bool) : State :=
  match a with
  | .seq => (List.range (s.core c).seq.pend.length).foldl (bindSeqLoad c take) s
  | .thread l t =>
    match s.thread c l t with
    | some th => (List.range th.pend.length).foldl (bindThreadLoad c l t take) s
    | none => s

def LateLoad.overlaps (l : LateLoad) (dev : Bool) (a n : Nat) : Bool :=
  l.dev == dev && decide (l.pa < a + n) && decide (a < l.pa + l.n)

/-- Before an access of an agent to some bytes: its earlier loads of them read, for its accesses to one byte keep
program order (R106, R227). -/
def State.inOrder (s : State) (c : CoreNo) (a : Agent) (dev : Bool) (pa n : Nat) : State :=
  s.bindLoads c a fun l => l.overlaps dev pa n

/-- The same before an access that acts at a Kennel bank: the agent's earlier stores to the bytes reach it. -/
def State.atBank (s : State) (c : CoreNo) (a : Agent) (addr n : Nat) : State :=
  (s.inOrder c a false addr n).updCore c fun k => k.landKstores a fun p => p.overlaps addr n

/-- The same before an access that goes to the L1 or beyond: the agent's earlier stores to the bytes reach the L1. -/
def State.atL1 (s : State) (c : CoreNo) (a : Agent) (pa n : Nat) : State :=
  (s.inOrder c a true pa n).updCore c fun k => k.landLstores a fun p => p.overlaps pa n

/-! ### Releases and acquires (R263 to R265) -/

/-- The earlier accesses of an agent have acted: its loads have read, its atomics have executed, and its stores have
reached their Kennel banks or the L1. -/
def State.settleAgent (s : State) (c : CoreNo) (a : Agent) : State :=
  (s.bindLoads c a fun _ => true).updCore c fun k => (k.landKstores a fun _ => true).landLstores a fun _ => true

/-- A release by an agent of core `c` at a scope (R263, R275). It covers the agent's writes and those it has read. At
DEVICE and beyond it is held until these, and the folds of the core's port, are performed; the model performs them in
the same step (log entry 12). -/
def State.release (s : State) (c : CoreNo) (a : Agent) (sc : Scope) : State :=
  let s := s.settleAgent c a
  let s := if sc = .core then s else s.performAll c ((s.core c).hasSeen a)
  let s := match sc with
    | .core | .cluster => s
    | .device | .system => (s.flushHeld fun h => h.core == c && h.agent == a).performFolds c
  s.updCore c fun k =>
    { k with relCore := k.relCore.join (k.floorOf a),
             relOut := if sc = .core then k.relOut else k.relOut.join (k.floorOf a) }

/-- What the releases in the scope of an agent hand on to its acquire (R263): what the releasing agents had read. -/
def State.handed (s : State) (c : CoreNo) (sc : Scope) : Floor :=
  match sc with
  | .core | .device | .system => (s.core c).relCore
  | .cluster =>
    ((List.finRange 256).filter fun d => d.val / 4 == c.val / 4).foldl (fun f d =>
      f.join (s.core d).relOut.outside) (s.core c).relCore

/-- An acquire by an agent of core `c` (R263, R265). -/
def State.acquire (s : State) (c : CoreNo) (a : Agent) (sc : Scope) : State :=
  let s := s.flushHeld fun h => h.core.val / 4 == c.val / 4
  s.updCore c fun k =>
    k.setFloor a (((k.floorOf a).join (s.handed c sc)).acquire s.dev c.val k.nextStore sc)

/-! ### Translation (R286 to R289) -/

/-- The permissions of R288; the code is ACCESS of R291. -/
inductive Need where
  | read | write | atomic | fetch
  deriving DecidableEq, Repr, Inhabited

def Need.code : Need → Byte
  | .read => 0 | .write => 1 | .atomic => 2 | .fetch => 3

def Need.ofCode (b : Byte) : Need :=
  match b.toNat with
  | 0 => .read | 1 => .write | 2 => .atomic | _ => .fetch

def Need.ok (n : Need) (r w x : Bool) : Bool :=
  match n with
  | .read => r | .write => w | .atomic => r && w | .fetch => x

/-- A failed walk: the CAUSE and LEVEL of R291; for CARVEOUT the place refused, and whether it is a node. -/
structure WalkFail where
  cause : Byte
  level : Nat
  pa : Nat
  node : Bool
  deriving DecidableEq, Repr, Inhabited

def failNotPresent : Byte := 1
def failPermission : Byte := 2
def failBadPte : Byte := 3
def failCarveout : Byte := 4

/-- The bytes from `lo` up to `hi` lie in the ranges, each a start and a length; `fuel` exceeds their number. -/
def rangesHold (rs : List (Nat × Nat)) : Nat → Nat → Nat → Bool
  | 0, _, _ => false
  | fuel + 1, lo, hi =>
    decide (hi ≤ lo) ||
      match rs.find? fun r => decide (r.1 ≤ lo) && decide (lo < r.1 + r.2) with
      | some r => rangesHold rs fuel (r.1 + r.2) hi
      | none => false

/-- A physical range lies within the partition's carve-out, which is all its ranges together (R293); a range that is
being removed counts until the invalidation is done (R361). -/
def Partition.holds (p : Partition) (pa n : Nat) : Bool :=
  rangesHold (p.carve.toList ++ p.removing) (p.removing.length + 9) pa (pa + n)

/-- Bits of the page offset of a leaf at a level (R286). -/
def leafBits : Nat → Nat
  | 0 => 16 | 1 => 25 | _ => 34

def pteFrame (e : W64) : Nat := (e.extractLsb' 8 32).toNat
def pteLeaf (e : W64) (level : Nat) : Bool := level == 0 || e.getLsbD 5

/-- The malformed entries of R287. -/
def pteBad (e : W64) (level : Nat) (pedlimit : Nat) : Bool :=
  if pteLeaf e level then
    e.extractLsb' 6 2 == 3 || level == 3 ||
      (level == 1 && pteFrame e % 512 != 0) || (level == 2 && pteFrame e % 262144 != 0) ||
      decide (hbmSize < pteFrame e * 65536 + 2 ^ leafBits level) || decide (pedlimit ≤ (e.extractLsb' 40 24).toNat)
  else
    e.extractLsb' 40 24 != 0 || e.extractLsb' 6 2 != 0 || e.getLsbD 4 || e.extractLsb' 1 3 != 0

/-- The walk of R288 from the node at `node` on level `fuel - 1` down. -/
def walkGo (d : DevMem) (p : Partition) (x : Ctx) (va : W64) (need : Need) : Nat → Nat → Except WalkFail TlbEntry
  | 0, _ => .error ⟨failNotPresent, 0, 0, false⟩
  | level + 1, node =>
    if p.holds node 4096 = false then .error ⟨failCarveout, level, node, true⟩
    else
      let e : W64 := BitVec.ofNat 64 (d.word (node + 8 * ((va >>> (16 + 9 * level)).toNat % 512)) 8)
      if e.getLsbD 0 = false then .error ⟨failNotPresent, level, 0, false⟩
      else if pteBad e level x.cpedlimit.toNat then .error ⟨failBadPte, level, 0, false⟩
      else if pteLeaf e level = false then walkGo d p x va need level (pteFrame e * 4096)
      else
        let bits := leafBits level
        let pa := pteFrame e * 65536
        if p.holds pa (2 ^ bits) = false then .error ⟨failCarveout, level, pa, false⟩
        else if need.ok (e.getLsbD 1) (e.getLsbD 2) (e.getLsbD 3) = false then .error ⟨failPermission, level, 0, false⟩
        else .ok { ctx := x.num, g := e.getLsbD 4, base := va.toNat / 2 ^ bits * 2 ^ bits, bits := bits, pa := pa,
                   x := e.getLsbD 3, w := e.getLsbD 2, r := e.getLsbD 1, cp := e.extractLsb' 6 2,
                   pidx := (e.extractLsb' 40 24).toNat }

/-- A page walk for a context (R286, R288). -/
def State.walk (s : State) (ctx : W32) (va : W64) (need : Need) : Except WalkFail TlbEntry :=
  match s.ctx? ctx, va.extractLsb' 52 12 == 0 with
  | none, _ | _, false => .error ⟨failNotPresent, 3, 0, false⟩
  | some x, true => walkGo s.dev (s.part (ctxPart ctx)) x va need 4 x.cptroot.toNat

/-- A TLB entry translates the address for the context (R289). -/
def TlbEntry.hit (e : TlbEntry) (ctx : W32) (va : Nat) : Bool :=
  (e.ctx == ctx || (e.g && ctxPart e.ctx == ctxPart ctx)) && va / 2 ^ e.bits * 2 ^ e.bits == e.base

def TlbEntry.at (e : TlbEntry) (va : Nat) : Nat := e.pa + (va - e.base)

/-- A translated address: where it lies and the pedigree index of its page. -/
structure Phys where
  pa : Nat
  pidx : Nat
  deriving DecidableEq, Repr, Inhabited

/-- The translation of an address by TLB entries, when one with the permission is there. -/
def findIn (tlb : List TlbEntry) (ctx : W32) (va : W64) (need : Need) : Option Phys :=
  match tlb.find? fun e => e.hit ctx va.toNat with
  | some e => if need.ok e.r e.w e.x then some ⟨e.at va.toNat, e.pidx⟩ else none
  | none => none

def Core.tlbFind (k : Core) (ctx : W32) (va : W64) (need : Need) : Option Phys := findIn k.tlb ctx va need

/-- Translation without the fault buffer: the Shepherd, the host, firmware, and engines on behalf of the core. -/
def State.xlate (s : State) (ctx : W32) (va : W64) (need : Need) : Except WalkFail Phys :=
  match s.walk ctx va need with
  | .ok e => .ok ⟨e.at va.toNat, e.pidx⟩
  | .error f => .error f

/-- Begin a walk, unless that agent's walk has begun. -/
def Core.startWalk (k : Core) (w : Walk) : Core :=
  if k.walks.any fun x => x.who == w.who then k else { k with walks := k.walks ++ [w] }

/-- Cores of one die, and page walks that its walkers handle at once: 4 walkers with 8 each (R1, R289). -/
def dieCores (c : CoreNo) : List CoreNo := (List.finRange 256).filter fun d => d.val / 64 == c.val / 64
def walksPerDie : Nat := 32

/-- A walker of the core's die can take one more walk. -/
def State.walkRoom (s : State) (c : CoreNo) : Bool :=
  decide (((dieCores c).map fun d => (s.core d).walks.length).sum < walksPerDie)

/-- Map a walk's failure to the status that the access takes when it is answered FAIL (R290). -/
def failCause (b : Byte) : Cause := if b = failCarveout then .carveout else .translation

/-- Pieces of a byte range that lie in one 64 KiB page each: address and length. -/
def pagePieces : Nat → Nat → Nat → List (Nat × Nat)
  | 0, _, _ => []
  | fuel + 1, a, n =>
    if n = 0 then []
    else
      let m := Nat.min n (65536 - a % 65536)
      (a, m) :: pagePieces fuel (a + m) (n - m)

/-- Translate every piece of a range; the first failure stops it. -/
def State.xlateRange (s : State) (ctx : W32) (need : Need) (a n : Nat) :
    Except WalkFail (List (Phys × Nat)) :=
  (pagePieces (n / 65536 + 2) a n).mapM fun pc =>
    match s.xlate ctx (BitVec.ofNat 64 pc.1) need with
    | .ok p => .ok (p, pc.2)
    | .error f => .error f

/-- Read the translated pieces, latest in coherence order. -/
def DevMem.readPieces (d : DevMem) (ps : List (Phys × Nat)) : List Byte :=
  (ps.map fun x => d.bytes x.1.pa x.2).flatten

/-- Write bytes over translated pieces: each byte for itself (R257). -/
def State.writePieces (s : State) (src : Nat) (ctx : W32) (replay : Bool) : List (Phys × Nat) → List Byte → State
  | [], _ => s
  | x :: xs, bs =>
    (s.homeWrite src .bytes ctx x.1.pidx replay x.1.pa (bs.take x.2)).writePieces src ctx replay xs (bs.drop x.2)

/-! ### Accesses byte by byte (R257)

Engines, Retrievers, the host and YTT are single-copy atomic byte by byte: others may act between any two of their bytes.
The model's list of choices says which bytes a step takes; by default a step takes them all (log entry 8). -/

/-- Byte `i` of translated pieces. -/
def pieceAt : List (Phys × Nat) → Nat → Nat
  | [], _ => 0
  | x :: xs, i => if i < x.2 then x.1.pa + i else pieceAt xs (i - x.2)

/-- Take some of the bytes that an access has not taken: those whose bit of `n` is set, or all where `n` is 0. -/
def byteSteps (n : Nat) (part : List (Option Byte)) (act : Nat → State → Byte × State) (s : State) :
    List (Option Byte) × State :=
  part.zipIdx.foldl (fun acc x =>
    match x.1 with
    | some b => (acc.1 ++ [some b], acc.2)
    | none =>
      if n = 0 ∨ n.testBit x.2 then
        let r := act x.2 acc.2
        (acc.1 ++ [some r.1], r.2)
      else (acc.1 ++ [none], acc.2)) ([], s)

/-- One byte is written at DEVICE; the fold of its page is made with the last byte of its access. -/
def State.putByte (s : State) (src pa : Nat) (b : Byte) : State :=
  let s := s.flushHeld fun h => h.overlaps pa 1
  s.setDev (s.dev.put src .bytes pa [b])

/-- The folds of pieces that have been written byte by byte (R292). -/
def State.foldPieces (s : State) (ctx : W32) (replay : Bool) (ps : List (Phys × Nat)) : State :=
  s.setDev (ps.foldl (fun d p => d.foldWrite ctx p.1.pidx p.1.pa p.2 replay) s.dev)

/-- What is left of an access from outside, of `len` bytes; `part` is what it has taken. -/
def bytesLeft (part : List (Option Byte)) (len : Nat) : List (Option Byte) :=
  if part.isEmpty then List.replicate len none else part

/-- A write from outside, of bytes `bs`, goes on: what it has taken, and the state. The last byte makes the folds. -/
def State.writeOn (s : State) (ctx : W32) (ps : List (Phys × Nat)) (bs : List Byte) (n : Nat)
    (part : List (Option Byte)) : List (Option Byte) × State :=
  let r := byteSteps n (bytesLeft part bs.length) (fun i s =>
    let b := bs.getD i 0
    (b, s.putByte 256 (pieceAt ps i) b)) s
  (r.1, if r.1.all Option.isSome then r.2.foldPieces ctx false ps else r.2)

/-- A read from outside goes on. -/
def State.readOn (s : State) (ps : List (Phys × Nat)) (n : Nat) (part : List (Option Byte)) :
    List (Option Byte) × State :=
  byteSteps n (bytesLeft part (ps.map Prod.snd).sum) (fun i s => (s.dev.byte (pieceAt ps i), s)) s

/-! ### Range locks (R171) -/

/-- An access of the core's sequencer, lanes or engines breaks a range lock. -/
def Core.locked (k : Core) (dev : Bool) (a n : Nat) (write : Bool) : Bool :=
  k.locks.any fun l => l.dev == dev && decide (l.lo < a + n) && decide (a ≤ l.hi) && (l.dst || write)

/-! ### Barrier objects (R34 to R36) -/

structure Bar where
  phase : W32
  remaining : Nat
  expected : Nat
  bytes : Int
  y : Bool
  ok : Bool
  deriving DecidableEq, Repr, Inhabited

def Bar.ofBytes (bs : List Byte) : Bar :=
  let w (i : Nat) : Nat := Sys2Proof.Machine.ofBytes ((bs.drop (4 * i)).take 4)
  { phase := BitVec.ofNat 32 (w 0), remaining := w 1 % 65536, expected := w 1 / 65536, bytes := toSigned 32 (w 2),
    y := w 3 % 2 == 1, ok := w 3 / 2 == 0xBA000000 / 2 }

def Bar.toBytes (b : Bar) : List Byte :=
  leBytes 4 b.phase.toNat ++ leBytes 4 (b.remaining + 65536 * b.expected) ++ leBytes 4 (ofSigned 32 b.bytes) ++
    leBytes 4 (0xBA000000 + if b.y then 1 else 0)

/-- The check of R35 after each update. -/
def Bar.settle (b : Bar) : Bar :=
  if b.remaining = 0 ∧ b.bytes = 0 then { b with phase := b.phase + 1, remaining := b.expected, bytes := 0 } else b

/-- An update of a barrier: `arrive` arrivals (0 or 1) and `add` bytes; none is BAD_BARRIER, object unchanged. -/
def Bar.update (b : Bar) (arrive : Nat) (add : Int) : Option Bar :=
  if b.ok = false then none
  else if b.remaining < arrive then none
  else if b.bytes + add < -2 ^ 31 ∨ 2 ^ 31 - 1 < b.bytes + add then none
  else some { b with remaining := b.remaining - arrive, bytes := b.bytes + add }.settle

/-- Phase `n` is passed (R36). -/
def phasePassed (phase n : W32) : Bool := decide (1 ≤ (phase - n).toNat) && decide ((phase - n).toNat ≤ 2 ^ 31 - 1)

/-- A barrier at a place: the Kennel of a core, or a physical address. -/
inductive BarPlace where
  | kennel (c : CoreNo) (a : Nat)
  | device (p : Phys)
  deriving DecidableEq, Repr, Inhabited

def State.bar (s : State) : BarPlace → Bar
  | .kennel c a => Bar.ofBytes ((s.core c).kread a 16)
  | .device p => Bar.ofBytes (s.dev.bytes p.pa 16)

/-- Write a barrier object in one atomic update; an update that changes nothing is no write. -/
def State.setBar (s : State) (src : Nat) (ctx : W32) (replay : Bool) (b : Bar) : BarPlace → State
  | .kennel c a => s.kwrite c a b.toBytes
  | .device p => s.homeWrite src .plain ctx p.pidx replay p.pa b.toBytes

/-- Update a barrier (R35): the phase before, and the new state; none is BAD_BARRIER. -/
def State.barUpdate (s : State) (src : Nat) (ctx : W32) (replay : Bool) (pl : BarPlace) (arrive : Nat) (add : Int) :
    Option (W32 × State) :=
  match (s.bar pl).update arrive add with
  | some b => some ((s.bar pl).phase, s.setBar src ctx replay b pl)
  | none => none

/-! ### Cause codes (R321) -/

def Cause.code : Cause → Byte
  | .none => 0x00
  | .illegalTile => 0x01 | .unbound => 0x02 | .rescale => 0x03 | .rangeLock => 0x04 | .launchOverflow => 0x05
  | .software => 0x06 | .lsfloor => 0x07 | .badDesc => 0x10 | .illegalOperand => 0x11 | .align => 0x12
  | .kennelRange => 0x13 | .badAddr => 0x14 | .translation => 0x15 | .carveout => 0x16 | .memoryError => 0x17
  | .badPerm => 0x18 | .noStats => 0x19 | .matrixCheck => 0x1A | .badBinding => 0x1B | .badBarrier => 0x1C
  | .badLaunch => 0x1D | .dqFull => 0x1E | .remoteFault => 0x1F | .remoteUnreachable => 0x20 | .mcastPeer => 0x21
  | .watchdog => 0x22 | .budget => 0x30 | .emptyRead => 0x31 | .lookaheadRead => 0x32 | .divZero => 0x33
  | .badTarget => 0x34 | .nestDepth => 0x35 | .nestContain => 0x36 | .collectiveExited => 0x37
  | .collectiveMismatch => 0x38 | .formatDivergence => 0x39 | .badRep => 0x3A | .privateRange => 0x3B
  | .constRange => 0x3C | .badStream => 0x3D | .streamFull => 0x3E | .badParam => 0x3F | .illegalLane => 0x40
  | .breakpoint => 0x41

/-! ### Events (R325, R359, R360) -/

def State.toMgmt (s : State) (e : MgmtEvent) : State := { s with mgmt := s.mgmt ++ [e] }

/-- An event enters its session's queue, or the context's event store; a full one discards and counts it (R359). -/
def State.hostEvent (s : State) (ctx : W32) (e : Event) : State :=
  match s.ctx? ctx with
  | none => s
  | some x =>
    let sess : Option Session := match x.route with
      | some n => s.host.sessions.find? fun (y : Session) => y.num == n
      | none => none
    match sess with
    | some y =>
      { s with host := { s.host with sessions := s.host.sessions.map fun (z : Session) =>
          if z.num = y.num then
            (if z.evq.length + z.events.length < 1024 then { z with evq := z.evq ++ [e] }
             else { z with lost := z.lost + 1 })
          else z } }
    | none =>
      s.updCtx ctx fun x =>
        if x.store.length < 1024 then { x with store := x.store ++ [e] } else { x with lost := x.lost + 1 }

def State.mkEvent (s : State) (code : Nat) (queue nodeid : W32) (body : List Byte) : Event :=
  { code := code, queue := queue, count := 0, nodeid := nodeid, time := BitVec.ofNat 64 s.ticks,
    body := body.take 32 ++ List.replicate (32 - body.length) 0 }

/-- A machine-check record (R325). -/
def State.mcRecord (s : State) (source : Nat) (ctx core slice : Nat) (info pa : W64) : List Byte :=
  [BitVec.ofNat 8 source, BitVec.ofNat 8 ctx, BitVec.ofNat 8 core, BitVec.ofNat 8 slice] ++ leBytes 4 0 ++
    leBytes 8 s.ticks ++ leBytes 8 info.toNat ++ leBytes 8 pa.toNat

/-- A machine-check event: to the management core, and by the Runtime's policy to the context's host (log entry 13). -/
def State.machineCheck (s : State) (source : Nat) (ctx : Option W32) (core slice : Nat) (info pa : W64) : State :=
  let r := s.mcRecord source (match ctx with | some x => (ctxPart x).val | none => 255) core slice info pa
  let s := s.toMgmt (.machineCheck r)
  match ctx with
  | some x => s.hostEvent x (s.mkEvent 6 (BitVec.allOnes 32) 0 r)
  | none => s

/-- The Management Runtime may have cleared the violation log (R293), where the model's list of choices says 1 (log
entry 13). -/
def State.logCleared (s : State) : State :=
  let (n, s) := s.choice
  if n = 1 then s.setDev { s.dev with viol := [], lost := 0 } else s

/-- A violation-log entry (R293): a ring of 16, the newest over the oldest. The Runtime's policy sends it on to the
host of the context concerned (log entry 13). -/
def State.violation (s : State) (ctx : Option W32) (part : Nat) (pa agent core kind : Nat) : State :=
  let s := s.logCleared
  let r := leBytes 8 (pa % 2 ^ 48) ++ leBytes 2 (core + 256 * agent) ++ [BitVec.ofNat 8 part, BitVec.ofNat 8 kind] ++
    leBytes 4 s.ticks
  let full := s.dev.viol.length = 16
  let s := s.setDev { s.dev with viol := (if full then s.dev.viol.drop 1 else s.dev.viol) ++ [r],
                                 lost := s.dev.lost + if full then 1 else 0 }
  let s := s.toMgmt (.violation r)
  match ctx with
  | some x => s.hostEvent x (s.mkEvent 8 (BitVec.allOnes 32) 0 r)
  | none => s

/-- KIND of a violation (R293). -/
def Need.kind : Need → Nat
  | .read | .fetch => 0
  | .write => 1
  | .atomic => 2

/-- A translation that fails at the carve-out is a violation: of the walker for a node, of the agent for a page. PA is the
first byte of the node or page that is refused, not the place in it that the access asks for (log entry 43, the model's
choice). -/
def State.refusedAt (s : State) (ctx : W32) (agent core : Nat) (need : Need) (f : WalkFail) : State :=
  if f.cause ≠ failCarveout then s
  else
    s.violation (some ctx) (ctxPart ctx).val f.pa (if f.node then 3 else agent) core (if f.node then 0 else need.kind)

/-- A refused request of the Shepherd or the Recall. -/
def State.shepRefused (s : State) (ctx : W32) (need : Need) (f : WalkFail) : State := s.refusedAt ctx 6 255 need f

/-! ### Sequencer control -/

/-- Bytes of the task's tile code (R72). -/
def Seq.codeSize (q : Seq) : Nat := 8 * q.code.length

/-- The two checks of R72 on a target. -/
def Seq.targetOk (q : Seq) (a : W64) : Bool := decide (a.toNat % 8 = 0) && decide (a.toNat < q.codeSize)

def Seq.wordAt (q : Seq) (a : W64) : W64 := q.code.getD (a.toNat / 8) 0

/-- The instruction is done: on to the next word. -/
def Seq.advance (q : Seq) (words : Nat) : Seq := { q with pc := q.pc + BitVec.ofNat 64 (8 * words), afterSafe := false }

def State.seqDone (s : State) (c : CoreNo) : State := s.updSeq c fun q => q.advance 1

/-! ### Cancelling Retriever commands (R170, R341) -/

/-- The TLB entries a running command uses: ahead of a marker the old mapping still holds (R172). -/
def Core.cmdTlb (k : Core) (m : Cmd) : List TlbEntry :=
  let marked := (k.retq.toList.getD m.q.toNat []).any fun e =>
    match e with
    | .marker _ _ => true
    | .cmd _ => false
  if marked then k.oldTlb ++ k.tlb else k.tlb

/-- The L2 TLB of a core's cluster (R289). -/
def State.l2 (s : State) (c : CoreNo) : List TlbEntry := s.l2tlb.toList.getD (c.val / 4) []

/-- The level of a leaf from the bits of its page offset. -/
def levelOfBits (bits : Nat) : Nat := if bits = 16 then 0 else if bits = 25 then 1 else 2

/-- What a walk of a core ends with: an entry that a TLB of the core or of its cluster holds stands until an invalidation
(R289), else the table says. -/
def State.walkBy (s : State) (c : CoreNo) (tlb : List TlbEntry) (va : W64) (need : Need) : Except WalkFail TlbEntry :=
  let ctx := (s.core c).ctx
  match (tlb ++ s.l2 c).find? fun e => e.hit ctx va.toNat with
  | some e => if need.ok e.r e.w e.x then .ok e else .error ⟨failPermission, levelOfBits e.bits, 0, false⟩
  | none => s.walk ctx va need

/-- Where an address lies for a command, by the entries that it uses (R172). -/
def State.cmdPhys (s : State) (c : CoreNo) (m : Cmd) (need : Need) (va : W64) : Except WalkFail Phys :=
  match s.walkBy c ((s.core c).cmdTlb m) va need with
  | .ok e => .ok ⟨e.at va.toNat, e.pidx⟩
  | .error f => .error f

/-- Where a range lies for a command; the first piece that fails stops it. -/
def State.cmdRange (s : State) (c : CoreNo) (m : Cmd) (need : Need) (a n : Nat) : Except WalkFail (List (Phys × Nat)) :=
  (pagePieces (n / 65536 + 2) a n).mapM fun pc =>
    match s.cmdPhys c m need (BitVec.ofNat 64 pc.1) with
    | .ok p => .ok (p, pc.2)
    | .error f => .error f

/-- Where a command's barrier lies, if its address translates: by the entries that its subtractions use. -/
def State.cmdBar (s : State) (c : CoreNo) (m : Cmd) : Except WalkFail BarPlace :=
  if m.dev then
    match s.cmdPhys c m .atomic m.bar with
    | .ok p => .ok (.device p)
    | .error f => .error f
  else .ok (.kennel c m.bar.toNat)

/-- The bytes of a barrier object are poisoned (R285). -/
def State.barPoisoned (s : State) : BarPlace → Bool
  | .kennel c a => (s.core c).kpoisoned a 16
  | .device p => s.dev.poisoned p.pa 16

/-- Core `j` of the cluster of core `c`. -/
def clusterCore (c : CoreNo) (j : Nat) : CoreNo := ⟨4 * (c.val / 4) + j % 4, by omega⟩

/-- Bytes of one row of a tile descriptor, RBYTES + 1 (R18). -/
def descRow (t : W128) : Nat := (t.extractLsb' 20 9).toNat + 1

/-- The bytes that a `MCAST` has subtracted at core `j` of the cluster: piece `4 * row + j` stands for a row landed. -/
def Cmd.subAt (m : Cmd) (j : Nat) : Nat :=
  descRow m.src * (m.landed.filter fun x => decide (x < 256) && x % 4 == j).length

/-- Add the bytes that a command has subtracted back to its barrier, or to the barrier of each core that a `MCAST`
reached (R170); false when an update fails R35, and that add-back is lost. A barrier that no longer translates, or that
is poisoned, is such a failure too: R170 names only R35's (log entry 76, the model's choice). -/
def State.addBack (s : State) (c : CoreNo) (m : Cmd) : Bool × State :=
  let one (acc : Bool × State) (pl : Except WalkFail BarPlace) (n : Nat) : Bool × State :=
    if n = 0 then acc
    else
      match pl with
      | .error f => (false, acc.2.refusedAt (s.core c).ctx 2 c.val .atomic f)
      | .ok pl =>
        if acc.2.barPoisoned pl then (false, acc.2)
        else
          match acc.2.barUpdate c.val (s.core c).ctx m.replay pl 0 n with
          | some r => (acc.1, r.2)
          | none => (false, acc.2)
  if m.kind = .mcast then
    (List.range 4).foldl (fun acc j => one acc (.ok (.kennel (clusterCore c j) m.bar.toNat)) (m.subAt j)) (true, s)
  else one (true, s) (s.cmdBar c m) m.sub

/-- Forget the flow of a command that has ended. -/
def State.dropFlow (s : State) (c : CoreNo) (id : Nat) : State :=
  let flows := s.ytt.flows.map fun f => if f.job = some (.cmd c id) then { f with job := none, out := [] } else f
  { s with ytt := { s.ytt with flows := flows } }

/-- Cancel a command: add its bytes back, release its locks, and leave it as it was captured (R341 step 2). -/
def State.cancelCmd (s : State) (c : CoreNo) (m : Cmd) : State :=
  ((s.addBack c m).2.dropFlow c m.id).updCore c fun k =>
    ({ k with locks := k.locks.filter fun l => l.cmd != m.id,
              walks := k.walks.filter fun w => w.who != Walker.cmd m.id }).updCmd m.id
      fun m => { m with st := .queued, landed := [], sub := 0, frames := 0, park := .none, peerBad := false, part := [] }

/-- Withdraw one access from the fault buffer (R135, R136): COUNT falls by one, an entry without waiters is freed. -/
def fbWithdraw (key : FbKey) (fb : List FbEntry) : List FbEntry :=
  (fb.map fun e => if e.key = key then { e with count := e.count - 1 } else e).filter fun e => e.count != 0

def Core.unpark (k : Core) (p : Park) (who : Walker) : Core :=
  match p with
  | .waiting key _ => { k with fb := fbWithdraw key k.fb }
  | .walking => { k with walks := k.walks.filter fun w => w.who != who }
  | .none | .retry | .failed _ => k

/-- Steps 1 and 2 of a freeze (R341): the sequencer stops at its instruction boundary and every Retriever command
that has not completed is cancelled. The drain goes on by the steps of the engines, threads and ports; the image is
written by SAVE_IMAGE_WRITTEN. -/
def State.beginFreeze (s : State) (c : CoreNo) (mode : SeqMode) : State :=
  let s := s.updCore c fun k =>
    { k with walks := k.walks.filter fun w => w.who != .seq, seq := { k.seq with mode := mode, park := .none, standSince := none, drain := none },
             saving := none }
  (s.core c).cmds.foldl (fun s m =>
    match m.st with
    | .queued | .running => s.cancelCmd c m
    | .failed _ | .delivered => s) s

/-! ### Taking a tile-level trap (R112, R322, R323) -/

/-- The kinds of tile-level trap: CAUSE of `TRAPCAUSE` (R113). -/
inductive TrapKind where
  | illegalTile | unbound | tileOpFault | rescale | rangeLock | launchOverflow | software | lsfloor
  deriving DecidableEq, Repr, Inhabited

def TrapKind.code : TrapKind → Byte
  | .illegalTile => 1 | .unbound => 2 | .tileOpFault => 3 | .rescale => 4 | .rangeLock => 5 | .launchOverflow => 6
  | .software => 7 | .lsfloor => 8

/-- Everything that a trap entry records. -/
structure Trap where
  kind : TrapKind
  cause : Cause
  epc : W64
  resume : W64
  /-- `TRAPCAUSE`.CODE (R113) -/
  code : W32 := 0
  addr : W64 := 0
  detail : W64 := 0
  index : Byte := 0
  pindex : Byte := 0
  dtag : BitVec 16 := 0
  who : BitVec 16 := 0
  level : Byte := 0
  lane : Option LaneWhere := none
  nested : Bool := false
  final : Bool := false
  deriving DecidableEq, Repr, Inhabited

/-- `TRAPCAUSE` (R113). -/
def Trap.causeWord (t : Trap) : W64 := t.code ++ (t.kind.code.zeroExtend 32 : W32)

/-- FLAGS of the fault record. -/
def Trap.flagByte (t : Trap) (unhandled : Bool) : Byte :=
  let rep := match t.lane with | some l => l.rep.isSome | none => false
  (BitVec.ofBool unhandled ++ BitVec.ofBool rep ++ BitVec.ofBool t.final ++ BitVec.ofBool t.nested ++
    BitVec.ofBool t.lane.isSome : BitVec 5).zeroExtend 8

/-- The 64 bytes of the fault record (R322); `word` is the tile word at TILEPC. -/
def Trap.record (t : Trap) (unhandled : Bool) (word : W64) : List Byte :=
  let lanePc := match t.lane with | some l => l.pc | none => 0
  let w := match t.lane with | some l => l.word | none => word
  let rep := match t.lane with | some l => l.rep.getD 0 | none => 0
  [t.kind.code, t.cause.code, t.index, t.pindex, t.flagByte unhandled, t.level] ++ leBytes 2 t.who.toNat ++
    leBytes 8 t.epc.toNat ++ leBytes 8 t.resume.toNat ++ leBytes 8 lanePc.toNat ++ leBytes 8 t.addr.toNat ++
    leBytes 8 w.toNat ++ leBytes 8 t.detail.toNat ++ leBytes 4 rep ++ leBytes 2 t.dtag.toNat ++ leBytes 2 0

/-- `FAULTREC` of a core, by the context block as its task found it (R320). -/
def State.faultrec (s : State) (c : CoreNo) : W64 :=
  match (s.core c).task with
  | some t => t.regs.frecbase + BitVec.ofNat 64 (64 * c.val)
  | none => 0

/-- Re-executed work of a task marks its folds (R278). -/
def Core.replaying (k : Core) : Bool := match k.task with | some t => t.replay | none => false

/-- Store bytes as aligned words of 8, in order, as the sequencer; its earlier loads of them read first. -/
def State.storeWords (s : State) (c : CoreNo) (p : Phys) (replay : Bool) (bs : List Byte) : State :=
  (List.range (bs.length / 8)).foldl (fun s i =>
    s.devStore c .seq p.pidx replay (p.pa + 8 * i) ((bs.drop (8 * i)).take 8)) (s.atL1 c .seq p.pa bs.length)

/-- Store the fault record at `FAULTREC`; a store that fails is dropped with a machine check (R323). -/
def State.writeFaultRecord (s : State) (c : CoreNo) (r : List Byte) : State :=
  let k := s.core c
  match s.xlate k.ctx (s.faultrec c) .write with
  | .ok p => s.storeWords c p k.replaying r
  | .error f => (s.refusedAt k.ctx 0 c.val .write f).machineCheck 4 (some k.ctx) c.val 255 0 0

/-- Take a tile-level trap (R112): `EPC`, `TRAPCAUSE` and the fault record are written; the PC goes to `TRAPVEC`, or,
where that is 0 or fails R72, the trap is unhandled and the task is frozen (R324). -/
def takeTrap (c : CoreNo) (t : Trap) (s : State) : State :=
  let q := (s.core c).seq
  let handled := q.trapvec != 0 && q.targetOk q.trapvec
  let r := t.record (!handled) (q.wordAt t.epc)
  let s := s.writeFaultRecord c r
  let s := s.updSeq c fun q =>
    { q with epc := t.epc, trapcause := t.causeWord, afterSafe := false, drain := none, standSince := none }
  if handled then s.updSeq c fun q => { q with pc := q.trapvec, mode := .run }
  else (s.beginFreeze c .unhandled).updCore c fun k => { k with trapRec := r }

/-- A trap of an instruction itself: `EPC` and the resume address are its own. -/
def trapAt (c : CoreNo) (kind : TrapKind) (cause : Cause) (addr detail : W64) (s : State) : State :=
  let pc := (s.core c).seq.pc
  takeTrap c { kind := kind, cause := cause, epc := pc, resume := pc, addr := addr, detail := detail } s

/-- ILLEGAL_TILE at the current word (R84). -/
def illegalTile (c : CoreNo) (s : State) : State := trapAt c .illegalTile .illegalTile 0 0 s

/-- A tile op fault precise at the instruction (R105). -/
def tileFault (c : CoreNo) (cause : Cause) (addr : W64) (s : State) : State := trapAt c .tileOpFault cause addr 0 s

/-- The RANGE_LOCK trap (R105). -/
def lockTrap (c : CoreNo) (addr : W64) (s : State) : State := trapAt c .rangeLock .rangeLock addr 0 s

/-- A control transfer of the sequencer: checked under R72, ILLEGAL_TILE when the check fails. -/
def jumpTo (c : CoreNo) (target : W64) (s : State) : State :=
  if (s.core c).seq.targetOk target then s.updSeq c fun q => { q with pc := target, afterSafe := false }
  else illegalTile c s

/-- The return from a trap without a restart slot (R115): PC from `EPC`, checked; nothing else changes. -/
def returnPlain (c : CoreNo) (s : State) : State :=
  let q := (s.core c).seq
  if q.targetOk q.epc then s.updSeq c fun q => { q with pc := q.epc, afterSafe := false }
  else
    takeTrap c { kind := .illegalTile, cause := .illegalTile, epc := q.epc, resume := q.epc } s

end Sys2Proof.Machine
end

