-- ==== Sys2Proof/Machine/Operands.lean ====
section
/-! DEFINITION. The operand forms of tile words (R70) and the waits at issue that they bring: pending results (R98),
pending tile registers (R17), constant-bank writes (R16). -/

namespace Sys2Proof

open Machine

/-- An inline literal: sext(value, 8) to 64 bits (R70). -/
def litVal (v : Byte) : W64 := v.signExtend 64

def SK.val (q : Seq) : SK → W64
  | .s i => q.s[i.val]
  | .c i => q.c[i.val]

def SKL.val (q : Seq) : SKL → W64
  | .s i => q.s[i.val]
  | .c i => q.c[i.val]
  | .l v => litVal v

/-- Write a D operand (R99). -/
def SK.put (v : W64) (q : Seq) : SK → Seq
  | .s i => { q with s := q.s.set i.val v }
  | .c i => { q with c := q.c.set i.val v }

end Sys2Proof

namespace Sys2Proof.Machine

open Sys2Proof

/-- The outcome of an instruction. -/
abbrev Out := Host.Outcome State Fault Refusal

/-- A predicate; `p7` reads true (R15). -/
def Seq.pred (q : Seq) (p : PredNo) : Bool := p.val == 7 || q.p.getLsbD p.val

/-- One bit of a predicate file; a write to `p7` is discarded (R15). -/
def predSet (ps : BitVec 8) (p : PredNo) (b : Bool) : BitVec 8 :=
  if p.val = 7 then ps
  else if b then ps ||| (1#8 <<< p.val) else ps &&& ~~~ (1#8 <<< p.val)

def Seq.setPred (q : Seq) (p : PredNo) (b : Bool) : Seq := { q with p := predSet q.p p b }

/-- The operand's value is still to be written (R98). -/
def Seq.pendingSK (q : Seq) (o : SK) : Bool := q.pend.any fun r => r.d == o

def Seq.pendingSKL (q : Seq) : SKL → Bool
  | .s i => q.pendingSK (.s i)
  | .c i => q.pendingSK (.c i)
  | .l _ => false

/-- A tile register is the destination of an incomplete op (R17). -/
def Core.tilePending (k : Core) (t : RegNo) : Bool := k.ops.any fun o => o.rcd.dreg == some t

/-- A write of this destination waits: its last result is still to come (R98), or it is a constant-bank word while
a bound op is incomplete (R16). -/
def Core.destHeld (k : Core) (d : SK) : Bool :=
  k.seq.pendingSK d ||
    match d with
    | .s _ => false
    | .c _ => !k.ops.isEmpty

/-- An earlier division has flags on their way to `TFLAGS` (R65, R98). -/
def Seq.flagsPending (q : Seq) : Bool := q.pend.any fun r => r.fl != 0

/-- A result on its way will change the constant bank: a dispatch waits for it, for its team reads the bank as it stands
at issue (R16, R129). -/
def Seq.bankPending (q : Seq) : Bool := q.pend.any fun r =>
  match r.d with
  | .s _ => false
  | .c _ => true

/-- The tile register operand may not be read or written yet (R17). -/
def Core.tileHeld (k : Core) (t : RegNo) : Bool := k.tilePending t

/-- The state of the current core. -/
def State.curCore (s : State) : Core := s.core s.cur

/-- Write a result and go on to the next word. -/
def finishSK (d : SK) (v : W64) (s : State) : State := s.updSeq s.cur fun q => (SK.put v q d).advance 1

/-- Record a result that is to be written later (R98), with its flags, and go on. -/
def finishLateFl (fl : Flags6) (d : SK) (v : W64) (s : State) : State :=
  s.updSeq s.cur fun q => ({ q with pend := q.pend ++ [⟨d, some v, fl, none⟩] } : Seq).advance 1

def finishLate (d : SK) (v : W64) (s : State) : State := finishLateFl 0 d v s

/-- A two-operand form: it waits at issue for its operands and its destination. -/
def alu2 (finish : SK → W64 → State → State) (f : W64 → W64 → W64) (x : TAlu2) (s : State) : Out :=
  let k := s.curCore
  if k.seq.pendingSKL x.a || k.seq.pendingSKL x.b || k.destHeld x.d then .next s
  else .next (finish x.d (f (x.a.val k.seq) (x.b.val k.seq)) s)

/-- A one-operand form. -/
def alu1 (f : W64 → W64) (x : TAlu1) (s : State) : Out :=
  let k := s.curCore
  if k.seq.pendingSKL x.a || k.destHeld x.d then .next s
  else .next (finishSK x.d (f (x.a.val k.seq)) s)

/-- A predicate form. -/
def predOp (d : PredNo) (v : Seq → Bool) (s : State) : Out :=
  .next (s.updSeq s.cur fun q => (q.setPred d (v q)).advance 1)

end Sys2Proof.Machine
end

