-- ==== Sys2Proof/Machine/Desc.lean ====
section
/-! DEFINITION. Tile descriptors (R18 to R20): their fields, the bytes and elements they describe, the check that a
consumer makes. -/

namespace Sys2Proof.Machine

open Sys2Proof

/-- The fields of a tile descriptor (R18). -/
structure Desc where
  pidx : Nat
  scale : W32
  fmt : BitVec 4
  role : BitVec 2
  space : BitVec 2
  base : Nat
  peer : BitVec 2
  rows : Nat
  vrows : Nat
  rbytes : Nat
  vbytes : Nat
  pitchUnits : Nat
  deriving DecidableEq, Repr, Inhabited

/-- Read a descriptor; `rows` and `rbytes` count from 1. -/
def Desc.of (t : W128) : Desc :=
  { pidx := (t.extractLsb' 104 24).toNat, scale := t.extractLsb' 72 32, fmt := t.extractLsb' 68 4,
    role := t.extractLsb' 66 2, space := t.extractLsb' 64 2, base := (t.extractLsb' 44 20).toNat,
    peer := t.extractLsb' 42 2, rows := (t.extractLsb' 36 6).toNat + 1, vrows := (t.extractLsb' 29 7).toNat,
    rbytes := (t.extractLsb' 20 9).toNat + 1, vbytes := (t.extractLsb' 10 10).toNat,
    pitchUnits := (t.extractLsb' 0 10).toNat }

def spaceKennel : BitVec 2 := 0
def spaceAcc : BitVec 2 := 1
def spaceRemote : BitVec 2 := 2
def roleAct : BitVec 2 := 1
def roleWgt : BitVec 2 := 2

/-- The row pitch in bytes (R19). -/
def Desc.pitch (d : Desc) : Nat := if d.pitchUnits = 0 then 32 * ((d.rbytes + 31) / 32) else 32 * d.pitchUnits

/-- Bytes of the space (R19). -/
def Desc.size (d : Desc) : Nat := if d.space = spaceAcc then accSize else kennelSize

/-- The last byte covered (R19). -/
def Desc.last (d : Desc) : Nat := d.base + (d.rows - 1) * d.pitch + d.rbytes - 1

def Desc.format (d : Desc) : Option Fmt := Fmt.ofCode d.fmt

/-- The element size, 1 without a format (R19). -/
def Desc.esize (d : Desc) : Nat :=
  match d.format with
  | some .none | none => 1
  | some f => f.size

/-- Allocated elements per row (R144). -/
def Desc.cols (d : Desc) : Nat := d.rbytes / d.esize

/-- The address of element `k` of row `i`. -/
def Desc.elemAt (d : Desc) (i k : Nat) : Nat := d.base + i * d.pitch + k * d.esize

/-- An element is valid: its row and all its bytes are (R19). -/
def Desc.valid (d : Desc) (i k : Nat) : Bool := decide (i < d.vrows) && decide ((k + 1) * d.esize ≤ d.vbytes)

/-- The check of R20: `needFmt` for a consumer that needs a format. -/
def Desc.ok (d : Desc) (pedlimit : Nat) (needFmt : Bool) : Bool :=
  d.role != 3 && d.space != 3 && d.format.isSome &&
  decide (d.vrows ≤ d.rows) && decide (d.vbytes ≤ d.rbytes) &&
  decide (d.rbytes % d.esize = 0) && decide (d.base % d.esize = 0) && decide (d.pitch % d.esize = 0) &&
  (d.pitchUnits == 0 || decide (d.rbytes ≤ 32 * d.pitchUnits)) &&
  decide (d.last < d.size) &&
  (d.space != spaceAcc || ((d.fmt == 8 || d.fmt == 9) && decide (d.rbytes ≤ 256))) &&
  (d.peer == 0 || d.space == spaceRemote) &&
  decide (d.pidx < pedlimit) &&
  (!needFmt || d.fmt != 0)

/-- The rows that a descriptor covers: first byte and length of each. -/
def Desc.rowsList (d : Desc) : List (Nat × Nat) := (List.range d.rows).map fun i => (d.base + i * d.pitch, d.rbytes)

/-- Two lists of byte ranges share a byte. -/
def rangesMeet (xs ys : List (Nat × Nat)) : Bool :=
  xs.any fun x => ys.any fun y => decide (x.1 < y.1 + y.2) && decide (y.1 < x.1 + x.2)

/-- Every byte of `xs` lies within `ys`, row by row or within one row of `ys`. -/
def rangesWithin (xs ys : List (Nat × Nat)) : Bool :=
  xs.all fun x => (List.range x.2).all fun i => ys.any fun y => decide (y.1 ≤ x.1 + i) && decide (x.1 + i < y.1 + y.2)

/-- The 64-byte blocks, in dirty-set numbers, of the bytes that a live KENNEL or ACC descriptor covers in its space
(R19, R342), whether or not a consumer would refuse it under R20. -/
def Desc.liveBlocks (d : Desc) : List Nat :=
  if d.space = spaceKennel then
    ((d.rowsList.map fun r => kennelBlocks r.1 r.2).flatten).filter fun b => decide (b < 16384)
  else if d.space = spaceAcc then
    ((d.rowsList.map fun r => accBlocks r.1 r.2).flatten).filter fun b => decide (b < 20480)
  else []

/-- `PEDLIMIT` of the context on a core (R26). -/
def State.pedlimit (s : State) (c : CoreNo) : Nat :=
  match s.ctx? (s.core c).ctx with
  | some x => x.cpedlimit.toNat
  | none => 0

/-- The blocks that the live tiles of a mask cover, each once, in map order. -/
def liveBlocks (q : Seq) (mask : W64) : List Nat :=
  setInsertAll (((List.finRange 64).filter fun i => mask.getLsbD i.val).flatMap fun i =>
    (Desc.of q.t[i.val]).liveBlocks) []

end Sys2Proof.Machine
end

