-- ==== Sys2Proof/Machine/Flags.lean ====
section
/-! DEFINITION. The sticky flags of R29: `TFLAGS` of the sequencer, and the flag conditions of the scalar forms
(R64, R65). The flags of floating-point work are computed with the results in Num.lean, Conv.lean and Trans.lean. -/

namespace Sys2Proof.Machine

open Sys2Proof

/-- LSFLOOR, LSCEIL and LOVF of `TFLAGS` (R29). -/
def tflLsfloor : W64 := 0x100
def tflLsceil : W64 := 0x200
def tflLovf : W64 := 0x400

/-- The defined bits of `TFLAGS`: 0 to 5 and 8 to 10. -/
def tflMask : W64 := 0x73F

/-- OR status bits 0 to 5 into `TFLAGS` (R29). -/
def Seq.orFlags (q : Seq) (f : Flags6) : Seq := { q with tflags := q.tflags ||| f.zeroExtend 64 }

def Seq.orT (q : Seq) (f : W64) : Seq := { q with tflags := q.tflags ||| f }

/-- The flag of a division: DIVZERO for a zero divisor, and no other (R66, R99). -/
def divFlag (b : Nat) : Flags6 := flagIf (b == 0) fDivZero

/-- Signed and unsigned quotient and remainder of R66 at width `w`: a zero divisor gives all ones and the dividend;
the one overflowing signed quotient wraps. -/
def divS (w : Nat) (a b : BitVec w) : BitVec w :=
  if b = 0 then BitVec.allOnes w else BitVec.ofInt w (a.toInt.tdiv b.toInt)
def divU (w : Nat) (a b : BitVec w) : BitVec w := if b = 0 then BitVec.allOnes w else BitVec.ofNat w (a.toNat / b.toNat)
def remS (w : Nat) (a b : BitVec w) : BitVec w := if b = 0 then a else BitVec.ofInt w (a.toInt.tmod b.toInt)
def remU (w : Nat) (a b : BitVec w) : BitVec w := if b = 0 then a else BitVec.ofNat w (a.toNat % b.toNat)

end Sys2Proof.Machine
end

