-- ==== Sys2Proof/Machine/TileControl.lean ====
section
/-! DEFINITION. Control of the tile stream: transfers (R110), special registers (R111), traps (R114), safe points and
the end of a task (R117 to R120). `ERET` stands in Bound.lean, beside the restart slot. -/

namespace Sys2Proof.Machine

open Sys2Proof

/-- A displacement target (R71). -/
def dispTarget (pc : W64) (disp : BitVec 14) : W64 := pc + 8 * disp.signExtend 64

def execBr (x : TBr) (s : State) : Out :=
  let c := s.cur
  let q := s.curCore.seq
  if q.pred x.p != x.sense then .next (jumpTo c (dispTarget q.pc x.disp) s) else .next (s.seqDone c)

/-- `JMP` and `RET` (R110). -/
def jumpReg (a : SK) (s : State) : Out :=
  let q := s.curCore.seq
  if q.pendingSK a then .next s else .next (jumpTo s.cur (a.val q) s)

def execJmp (a : SK) (s : State) : Out := jumpReg a s
def execTileRet (a : SK) (s : State) : Out := jumpReg a s

def execTileCall (x : TLink) (s : State) : Out :=
  let c := s.cur
  let q := s.curCore.seq
  let target := dispTarget q.pc x.disp
  if q.pendingSK (.s x.d) then .next s
  else if q.targetOk target then
    .next (s.updSeq c fun q => { q with s := q.s.set x.d.val (q.pc + 8), pc := target, afterSafe := false })
  else .next (illegalTile c s)

def execLoop (x : TLink) (s : State) : Out :=
  let c := s.cur
  let q := s.curCore.seq
  let n := q.s[x.d.val] - 1
  let target := dispTarget q.pc x.disp
  if q.pendingSK (.s x.d) then .next s
  else if n = 0 then .next (s.updSeq c fun q => ({ q with s := q.s.set x.d.val n } : Seq).advance 1)
  else if q.targetOk target then
    .next (s.updSeq c fun q => { q with s := q.s.set x.d.val n, pc := target, afterSafe := false })
  else .next (illegalTile c s)

/-! ### Special registers (R26, R27, R111) -/

/-- The registers that both levels read (R26), 64 bits each. -/
def commonSpecial (s : State) (c : CoreNo) (n : Nat) : Option W64 :=
  let q := (s.core c).seq
  match n with
  | 0x00 => some (BitVec.ofNat 64 c.val)
  | 0x01 => some (q.partid.zeroExtend 64)
  | 0x02 => some (q.iter[0].zeroExtend 64)
  | 0x03 => some (q.iter[1].zeroExtend 64)
  | 0x04 => some (q.iter[2].zeroExtend 64)
  | 0x05 => some (q.iter[3].zeroExtend 64)
  | 0x06 => some q.itern
  | 0x07 => some (q.itern >>> 32)
  | 0x08 => some q.nodearg
  | 0x09 => some (q.nodearg >>> 32)
  | 0x12 => some (BitVec.ofNat 64 s.ticks)
  | 0x13 => some (BitVec.ofNat 64 s.ticks >>> 32)
  | 0x14 => some (BitVec.ofNat 64 (s.now - q.start))
  | 0x15 => some (BitVec.ofNat 64 (s.now - q.start) >>> 32)
  | _ => none

/-- What `SRD` reads (R26, level S). -/
def tileSpecial (s : State) (c : CoreNo) (n : Nat) : W64 :=
  let q := (s.core c).seq
  let x := s.ctx? (s.core c).ctx
  match commonSpecial s c n with
  | some v => v
  | none =>
    match n with
    | 0x0A => q.wake.zeroExtend 64
    | 0x0B => s.faultrec c
    | 0x0C => q.trapvec
    | 0x0D => q.epc
    | 0x0E => q.trapcause
    | 0x0F => q.tflags
    | 0x10 => if q.trapen then 1 else 0
    | 0x11 => BitVec.ofNat 64 q.faircyc
    | 0x16 => match x with | some x => x.cpedlimit.zeroExtend 64 | none => 0
    | 0x17 => match x with | some x => x.cpedbase | none => 0
    | _ => 0

def execSrd (x : TSrd) (s : State) : Out :=
  if s.curCore.destHeld x.d || (x.n.toNat == 0x0F && s.curCore.seq.flagsPending) then .next s
  else .next (finishSK x.d (tileSpecial s s.cur x.n.toNat) s)

/-- What `SWR` writes (R111). -/
def Seq.swr (q : Seq) (n : Nat) (a : W64) : Seq :=
  match n with
  | 0x0C => { q with trapvec := a }
  | 0x0D => { q with epc := a }
  | 0x0F => { q with tflags := a &&& tflMask }
  | 0x10 => { q with trapen := a.getLsbD 0 }
  | 0x11 => { q with faircyc := Nat.min 1024 (Nat.max 32 a.toNat) }
  | _ => q

def execSwr (x : TSwr) (s : State) : Out :=
  let q := s.curCore.seq
  if q.pendingSKL x.a || (x.n.toNat == 0x0F && q.flagsPending) then .next s
  else .next (s.updSeq s.cur fun q => (q.swr x.n.toNat (x.a.val q)).advance 1)

/-! ### Traps, no-ops, safe points, the end -/

def execTileTrap (a : SKL) (s : State) : Out :=
  let q := s.curCore.seq
  if q.pendingSKL a then .next s
  else
    .next (takeTrap s.cur { kind := .software, cause := .software, epc := q.pc + 8, resume := q.pc + 8,
                            code := (a.val q).extractLsb' 0 32 } s)

def execTileNop (s : State) : Out := .next (s.seqDone s.cur)

/-- An exponential average of weight 1/8 (R327); the first sample stands for itself. -/
def expAverage (old : Option Nat) (x : Nat) : Option Nat :=
  match old with
  | none => some x
  | some a => some ((7 * a + x) / 8)

/-- The core's readings at a `SAFEPT`: the interval average and `CLIVE` (R327, R342). -/
def Health.safePoint (h : Health) (tick live : Nat) : Health :=
  { h with spAvg := match h.spLast with | some t => expAverage h.spAvg (tick - t) | none => h.spAvg,
           spLast := some tick, live := live }

/-- A checkpoint of this core is asked for: the Recall's decision stands and the core is not yet vacant (R118). -/
def Core.checkpointAsked (k : Core) : Bool :=
  match k.claim with
  | some cl => cl.dec == .checkpoint && !cl.vacant
  | none => false

def execSafept (a : SKL) (s : State) : Out :=
  let c := s.cur
  let k := s.curCore
  if k.seq.pendingSKL a then .next s
  else
    let mask := a.val k.seq
    let live := 64 * (liveBlocks k.seq mask).length
    let stop := k.checkpointAsked && k.seq.restart.isNone
    .next (s.updCore c fun k =>
      let q := { k.seq.advance 1 with safe := some (k.seq.pc, mask), afterSafe := true }
      { k with health := k.health.safePoint s.ticks live,
               seq := if stop then { q with mode := .stopped, drain := some .checkpoint } else q })

/-- `END` (R120): nothing more is fetched; the PC stays at the `END`, to which a late delivery returns. -/
def execTaskEnd (s : State) : Out :=
  .next (s.updSeq s.cur fun q => { q with mode := .ended, afterSafe := false })

end Sys2Proof.Machine
end

