-- ==== Sys2Proof/Machine/Fabric.lean ====
section
/-! DEFINITION. Sending over the scale-out fabric (R363 to R366) and the remote windows of `.SYSTEM` atomics (R368). -/

namespace Sys2Proof.Machine

open Sys2Proof

def Ytt.flow? (y : Ytt) (n : W32) (ours : Bool) (peer : W32) : Option YttFlow :=
  y.flows.find? fun f => f.flow == n && f.ours == ours && f.peer == peer

def Ytt.setFlow (y : Ytt) (f : YttFlow) : Ytt :=
  { y with flows := f :: y.flows.filter fun x => !(x.flow == f.flow && x.ours == f.ours && x.peer == f.peer) }

/-- An SRC or DST field: identity and partition (R365). -/
def yttEnd (dev part : Nat) : W32 := BitVec.ofNat 32 (dev % 2 ^ 21 + part % 16 * 2 ^ 24)

/-- The port of a frame: by a hash of target and flow, one port while every port is up (R363; log entry 14). -/
def Ytt.portFor (y : Ytt) (dst flow : W32) : Option Nat :=
  let start := (dst.toNat + flow.toNat) % 8
  (List.range 8).map (fun i => (start + i) % 8) |>.find? fun p => y.ports.toList.getD p false

/-- Put a frame on the wire of its port; with every port down it is lost, and counts as sent. -/
def State.yttEmit (s : State) (f : YttFrame) : State :=
  match s.ytt.portFor f.dst f.flow with
  | some p => { s with host := { s.host with sent := s.host.sent ++ [.ytt p f] } }
  | none => s

/-- Send a frame that takes a sequence number: it is kept until acknowledged (R364, R366). -/
def State.yttSend (s : State) (fl : YttFlow) (f : YttFrame) : State :=
  let f := { f with flow := fl.flow, seq := fl.seq }
  let fl := { fl with seq := fl.seq + 1, out := fl.out ++ [{ f := f, sends := 1, last := s.ticks }] }
  { s with ytt := s.ytt.setFlow fl }.yttEmit f

/-- Open a flow of our own for a command. -/
def State.yttOpen (s : State) (job : YttJob) (peer : W32) : YttFlow × State :=
  let fl : YttFlow := { flow := BitVec.ofNat 32 s.ytt.nextFlow, peer := peer, ours := true, job := some job, seq := 0,
                        out := [], accepted := [], kept := [], rows := 0 }
  (fl, { s with ytt := { (s.ytt.setFlow fl) with nextFlow := s.ytt.nextFlow + 1 } })

/-- A frame with the fields that most types leave zero. -/
def yttFrame (typ : Byte) (src dst : W32) (addr : W64) (arg : W32) (payload : List Byte) : YttFrame :=
  { version := 1, typ := typ, fl := 0, src := src, dst := dst, flow := 0, seq := 0, cmd := 0, addr := addr,
    length := BitVec.ofNat 16 payload.length, rows := 0, rlen := 0, status := 0, pitch := 0, arg := arg,
    payload := payload }

/-- An RWIN register (R368). -/
structure Window where
  v : Bool
  rbase : Nat
  rdev : Nat
  rpart : Nat
  deriving DecidableEq, Repr, Inhabited

def Window.of (r : W128) : Window :=
  { v := r.getLsbD 95, rbase := (r.extractLsb' 0 47).toNat, rdev := (r.extractLsb' 64 21).toNat,
    rpart := (r.extractLsb' 88 4).toNat }

/-- The window that a `.SYSTEM` address with bit 51 set selects. -/
def Partition.window (p : Partition) (addr : W64) : Window :=
  Window.of ((p.rwin.toList).getD (addr.extractLsb' 47 4).toNat 0)

/-- Send the ATOMIC frame of a remote `.SYSTEM` atomic (R366, R368); the flow number is its tag. -/
def State.sendAtomic (s : State) (job : YttJob) (part : Fin 16) (w : Window) (addr : W64) (op : AtomOp)
    (wide acq rel : Bool) (x cmp : W64) : W32 × State :=
  let dst := yttEnd w.rdev w.rpart
  let src := yttEnd s.ytt.devid.toNat part.val
  let arg : W32 := (op.code.zeroExtend 32) ||| (if wide then 0x10 else 0) ||| (if acq then 0x20 else 0) |||
    (if rel then 0x40 else 0)
  let (fl, s) := s.yttOpen job dst
  let f := yttFrame 4 src dst (BitVec.ofNat 64 (w.rbase + (addr.extractLsb' 0 47).toNat)) arg
    (leBytes 8 x.toNat ++ leBytes 8 cmp.toNat)
  (fl.flow, s.yttSend fl { f with fl := 1 })

end Sys2Proof.Machine
end

