-- ==== Sys2Proof/Machine/Scalar.lean ====
section
/-! DEFINITION. Tile scalar work: integer forms (R100), moves (R101), compares (R102), predicates (R103), class-11
literals (R121), descriptor registers (R190) and the loss scale (R184). -/

namespace Sys2Proof.Machine

open Sys2Proof

/-! ### Integer forms (R99, R100) -/

def execAdd (x : TAlu2) (s : State) : Out := alu2 finishSK (· + ·) x s
def execSub (x : TAlu2) (s : State) : Out := alu2 finishSK (· - ·) x s
def execMul (x : TAlu2) (s : State) : Out := alu2 finishLate (· * ·) x s

/-- The high half of a product (R100). -/
def mulHigh (u : Bool) (a b : W64) : W64 :=
  if u then BitVec.ofNat 64 (a.toNat * b.toNat / 2 ^ 64) else BitVec.ofInt 64 (a.toInt * b.toInt / 2 ^ 64)

def execMulh (x : TMulh) (s : State) : Out := alu2 finishLate (mulHigh x.u) ⟨x.d, x.a, x.b⟩ s

def execMadd (x : TAlu3) (s : State) : Out :=
  let k := s.curCore
  if k.seq.pendingSKL x.a || k.seq.pendingSKL x.b || k.seq.pendingSKL x.c || k.destHeld x.d then .next s
  else .next (finishLate x.d (x.a.val k.seq * x.b.val k.seq + x.c.val k.seq) s)

/-- A division (R66): the result comes late, and DIVZERO goes to `TFLAGS` with it (R65, R99). -/
def divOp (f : W64 → W64 → W64) (x : TAlu2) (s : State) : Out :=
  alu2 (finishLateFl (divFlag (x.b.val s.curCore.seq).toNat)) f x s

def execDiv (x : TAlu2) (s : State) : Out := divOp (divS 64) x s
def execDivu (x : TAlu2) (s : State) : Out := divOp (divU 64) x s
def execRem (x : TAlu2) (s : State) : Out := divOp (remS 64) x s
def execRemu (x : TAlu2) (s : State) : Out := divOp (remU 64) x s

def execTileAnd (x : TAlu2) (s : State) : Out := alu2 finishSK (· &&& ·) x s
def execTileOr (x : TAlu2) (s : State) : Out := alu2 finishSK (· ||| ·) x s
def execTileXor (x : TAlu2) (s : State) : Out := alu2 finishSK (· ^^^ ·) x s
def execTileAndn (x : TAlu2) (s : State) : Out := alu2 finishSK (fun a b => a &&& ~~~ b) x s

/-- The shifts take the whole of the count (R100, R195). -/
def shlAll (w : Nat) (a b : BitVec w) : BitVec w := if b.toNat < w then a <<< b.toNat else 0
def shrAll (w : Nat) (a b : BitVec w) : BitVec w := if b.toNat < w then a >>> b.toNat else 0
def sarAll (w : Nat) (a b : BitVec w) : BitVec w := a.sshiftRight (Nat.min b.toNat (w - 1))

def execTileShl (x : TAlu2) (s : State) : Out := alu2 finishSK (shlAll 64) x s
def execTileShr (x : TAlu2) (s : State) : Out := alu2 finishSK (shrAll 64) x s
def execTileSar (x : TAlu2) (s : State) : Out := alu2 finishSK (sarAll 64) x s

def execMin (x : TAlu2) (s : State) : Out := alu2 finishSK (minS 64) x s
def execMax (x : TAlu2) (s : State) : Out := alu2 finishSK (maxS 64) x s
def execMinu (x : TAlu2) (s : State) : Out := alu2 finishSK (minU 64) x s
def execMaxu (x : TAlu2) (s : State) : Out := alu2 finishSK (maxU 64) x s

/-- Leading zero bits; the width itself for 0 (R100, R195). -/
def clzOf (w : Nat) (a : BitVec w) : Nat := if a = 0 then w else w - 1 - Nat.log2 a.toNat

/-- One bits among the low `n` bits. -/
def popOf {w : Nat} (a : BitVec w) : Nat → Nat
  | 0 => 0
  | n + 1 => (if a.getLsbD n then 1 else 0) + popOf a n

def execTileClz (x : TAlu1) (s : State) : Out := alu1 (fun a => BitVec.ofNat 64 (clzOf 64 a)) x s
def execTilePopc (x : TAlu1) (s : State) : Out := alu1 (fun a => BitVec.ofNat 64 (popOf a 64)) x s

/-! ### Moves, compares, predicates -/

def execTileMov (x : TAlu1) (s : State) : Out := alu1 id x s

def execTileSel (x : TSel) (s : State) : Out :=
  let p := s.curCore.seq.pred x.p
  alu2 finishSK (fun a b => if p then a else b) ⟨x.d, x.a, x.b⟩ s

/-- The conditions of R102 at any width. -/
def condHolds {w : Nat} (c : Cond) (a b : BitVec w) : Bool :=
  match c with
  | .eq => decide (a = b) | .ne => decide (a ≠ b)
  | .lt => decide (a.toInt < b.toInt) | .le => decide (a.toInt ≤ b.toInt)
  | .gt => decide (b.toInt < a.toInt) | .ge => decide (b.toInt ≤ a.toInt)
  | .ltu => decide (a.toNat < b.toNat) | .leu => decide (a.toNat ≤ b.toNat)
  | .gtu => decide (b.toNat < a.toNat) | .geu => decide (b.toNat ≤ a.toNat)

def execCmp (x : TCmp) (s : State) : Out :=
  let k := s.curCore
  if k.seq.pendingSKL x.a || k.seq.pendingSKL x.b then .next s
  else predOp x.p (fun q => condHolds x.cond (x.a.val q) (x.b.val q)) s

def execPand (x : TPred2) (s : State) : Out := predOp x.d (fun q => q.pred x.a && q.pred x.b) s
def execPor (x : TPred2) (s : State) : Out := predOp x.d (fun q => q.pred x.a || q.pred x.b) s
def execPxor (x : TPred2) (s : State) : Out := predOp x.d (fun q => q.pred x.a != q.pred x.b) s
def execPnot (x : TPred1) (s : State) : Out := predOp x.d (fun q => !q.pred x.a) s

/-! ### Class 11 (R121) -/

def execLit (x : TLit) (s : State) : Out :=
  if s.curCore.destHeld x.d then .next s
  else .next (s.updSeq s.cur fun q => (SK.put x.v q x.d).advance 2)

/-- Write a tile register and go on. -/
def finishTile (t : RegNo) (words : Nat) (v : W128) (s : State) : State :=
  s.updSeq s.cur fun q => { q with t := q.t.set t.val v }.advance words

def execTdescl (x : TDescl) (s : State) : Out :=
  let k := s.curCore
  if k.seq.pendingSKL x.a || k.tileHeld x.t then .next s
  else .next (finishTile x.t 2 (x.a.val k.seq ++ x.v) s)

/-! ### Descriptor registers (R190) -/

/-- Replace the `w` bits of `v` from bit `l` up. -/
def bitsSet {n : Nat} (v : BitVec n) (l w : Nat) (x : BitVec w) : BitVec n :=
  (v &&& ~~~ ((BitVec.allOnes w).zeroExtend n <<< l)) ||| (x.zeroExtend n <<< l)

/-- `TDESC`: only the named fields change. -/
def tdescVal (f : BitVec 3) (t : W128) (a b : W64) : W128 :=
  match f.toNat with
  | 0 => a ++ b
  | 1 => bitsSet t 44 20 (a.extractLsb' 0 20)
  | 2 => bitsSet (bitsSet t 29 7 (a.extractLsb' 0 7)) 10 10 (b.extractLsb' 0 10)
  | 3 => bitsSet t 72 32 (a.extractLsb' 0 32)
  | _ => bitsSet t 104 24 (a.extractLsb' 0 24)

def execTdesc (x : TTdesc) (s : State) : Out :=
  let k := s.curCore
  if k.seq.pendingSKL x.a || k.seq.pendingSKL x.b || k.tileHeld x.t then .next s
  else .next (finishTile x.t 1 (tdescVal x.f k.seq.t[x.t.val] (x.a.val k.seq) (x.b.val k.seq)) s)

def execTget (x : TTget) (s : State) : Out :=
  let k := s.curCore
  if k.tileHeld x.t || k.destHeld x.d then .next s
  else
    let t := k.seq.t[x.t.val]
    .next (finishSK x.d (if x.hi then t.extractLsb' 64 64 else t.extractLsb' 0 64) s)

/-! ### Loss scale (R184) -/

/-- The outcome of `LSUPD`: the new state word, the flag raised, and whether the floor was hit; none is
ILLEGAL_OPERAND. -/
def lsUpdate (d : W64) (overflow : Bool) : Option (W64 × W64 × Bool) :=
  let e := (d.extractLsb' 56 8).toInt
  let cnt := (d.extractLsb' 32 24).toNat
  let emin := (d.extractLsb' 24 8).toInt
  let emax := (d.extractLsb' 16 8).toInt
  let gi := (d.extractLsb' 0 16).toNat
  let pack (e : Int) (cnt : Nat) : W64 := BitVec.ofInt 8 e ++ BitVec.ofNat 24 cnt ++ d.extractLsb' 0 32
  if emax < emin then none
  else if overflow then
    if e ≤ emin then some (pack emin 0, tflLsfloor, true) else some (pack (e - 1) 0, 0, false)
  else
    let cnt := Nat.min (cnt + 1) (2 ^ 24 - 1)
    if gi ≠ 0 ∧ gi ≤ cnt then
      if emax ≤ e then some (pack emax 0, tflLsceil, false) else some (pack (e + 1) 0, 0, false)
    else some (pack e cnt, 0, false)

def execLsupd (x : TLsupd) (s : State) : Out :=
  let c := s.cur
  let k := s.curCore
  if k.seq.pendingSK (.s x.d) then .next s
  else
    match lsUpdate k.seq.s[x.d.val] (k.seq.pred x.p) with
    | none => .next (tileFault c .illegalOperand 0 s)
    | some (v, fl, floor) =>
      let s' := s.updSeq c fun q => ({ q with s := q.s.set x.d.val v }.orT fl).advance 1
      if floor && k.seq.trapen then
        let pc := k.seq.pc + 8
        .next (takeTrap c { kind := .lsfloor, cause := .lsfloor, epc := pc, resume := pc } s')
      else .next s'

end Sys2Proof.Machine
end

