-- ==== Sys2Proof/Machine/TileMem.lean ====
section
/-! DEFINITION. Sequencer loads, stores, atomics and fences (R104 to R109). -/

namespace Sys2Proof.Machine

open Sys2Proof

/-- The outcome of an access's translation: an address, a wait with the state that waits, or a fault (R105 step 5). -/
inductive Access where
  | ok (p : Phys)
  | wait (s : State)
  | fail (c : Cause)

/-- Translate for the sequencer: by the TLB, else a walk begins and the instruction waits. -/
def seqXlate (c : CoreNo) (va : W64) (need : Need) (s : State) : Access :=
  let k := s.core c
  match k.seq.park with
  | .failed cause => .fail cause
  | .walking | .waiting _ _ => .wait s
  | .none | .retry =>
    match k.tlbFind k.ctx va need with
    | some p => .ok p
    | none =>
      if s.walkRoom c = false then .wait s
      else
        .wait (s.updCore c fun k =>
          let k := k.startWalk { va := va, need := need.code, who := .seq }
          { k with seq := { k.seq with park := .walking } })

/-- A fault of an access whose entry was answered FAIL: the answer is used up. -/
def failAccess (c : CoreNo) (cause : Cause) (addr : W64) (s : State) : State :=
  tileFault c cause addr (s.updSeq c fun q => { q with park := .none })

/-- Bytes of a width code (R104). -/
def widthBytes (w : BitVec 2) : Nat := 2 ^ w.toNat

/-- Checks 1 to 4 of R105: the trap of the first that fails. -/
def seqCheck (c : CoreNo) (kennel : Bool) (addr : W64) (n : Nat) (write : Bool) (s : State) : Option State :=
  if addr.toNat % n ≠ 0 then some (tileFault c .align addr s)
  else if kennel ∧ kennelSize < addr.toNat + n then some (tileFault c .kennelRange addr s)
  else if kennel = false ∧ addr.extractLsb' 52 12 ≠ 0 then some (tileFault c .badAddr addr s)
  else if (s.core c).locked (!kennel) addr.toNat n write then some (lockTrap c addr s)
  else none

/-- The address and the wait of a load or store. -/
def addrWaits (q : Seq) (a : SK) (b : SKL) : Bool := q.pendingSK a || q.pendingSKL b
def addrOf (q : Seq) (a : SK) (b : SKL) : W64 := a.val q + b.val q

/-- Before an access of an agent to some bytes: its earlier loads and atomics of them act and, before an atomic, its
stores to them reach their bank or the L1 (R106, R227, R261). -/
def State.beforeLate (s : State) (c : CoreNo) (a : Agent) (l : LateLoad) : State :=
  match l.rmw, l.dev with
  | none, _ => s.inOrder c a l.dev l.pa l.n
  | some _, true => s.atL1 c a l.pa l.n
  | some _, false => s.atBank c a l.pa l.n

/-- A load, or an atomic that is no acquire, has passed its checks: the agent's earlier accesses to the bytes act first,
then it acts at once or, where the model's list of choices asks for it, later (R262); its value is on its way. -/
def seqLoad (c : CoreNo) (d : SK) (l : LateLoad) (s : State) : State :=
  let later := (s.beforeLate c .seq l).choice
  if later.1 = 0 then
    let r := later.2.readLate c .seq l
    r.2.updSeq c fun q => ({ q with pend := q.pend ++ [⟨d, some (extendTo 64 l.n l.sx r.1), 0, none⟩] } : Seq).advance 1
  else later.2.updSeq c fun q => ({ q with pend := q.pend ++ [⟨d, none, 0, some l⟩] } : Seq).advance 1

/-- A load of device memory through the L1 meets poison (R285): in memory, or in the L1, unless the model's list of choices
says that the words have left it, whose poison is then gone. -/
def State.readPoison (s : State) (c : CoreNo) (pa n : Nat) : Bool × State :=
  if s.dev.poisoned pa n then (true, s)
  else if poisonHit 8 (s.core c).mem.l1Poison pa n = false then (false, s)
  else
    let left := s.choice
    if left.1 = 0 then (true, left.2)
    else
      (false, left.2.updCore c fun k =>
        { k with mem := { k.mem with l1Poison := k.mem.l1Poison.filter fun u => !(unitsOf 8 pa n).contains u } })

/-- A plain store to the Kennel by an agent: it reaches its bank at once or, where the model's list of choices asks for
it, later (R258, R262). -/
def State.kstore (s : State) (c : CoreNo) (a : Agent) (addr : Nat) (bs : List Byte) : State :=
  let later := (s.inOrder c a false addr bs.length).choice
  if later.1 = 0 then (later.2.atBank c a addr bs.length).kwrite c addr bs
  else later.2.updCore c fun k => { k with kstores := k.kstores ++ [{ agent := a, addr := addr, bytes := bs }] }

/-- A plain store to device memory by an agent: it reaches the L1 at once or, where the model's list of choices asks for
it, later (R258, R262). -/
def State.dstore (s : State) (c : CoreNo) (a : Agent) (pidx : Nat) (replay : Bool) (pa : Nat) (bs : List Byte) : State :=
  let later := (s.inOrder c a true pa bs.length).choice
  if later.1 = 0 then (later.2.atL1 c a pa bs.length).devStore c a pidx replay pa bs
  else later.2.updCore c fun k => { k with lstores := k.lstores ++ [k.newStore a pidx replay pa bs] }

def execLds (x : TLoad) (s : State) : Out :=
  let c := s.cur
  let k := s.curCore
  let n := widthBytes x.w
  if addrWaits k.seq x.a x.b || k.destHeld x.d then .next s
  else
    let addr := addrOf k.seq x.a x.b
    match seqCheck c false addr n false s with
    | some t => .next t
    | none =>
      match seqXlate c addr .read s with
      | .wait t => .next t
      | .fail cause => .next (failAccess c cause addr s)
      | .ok p =>
        let r := s.readPoison c p.pa n
        if r.1 then .next (tileFault c .memoryError addr r.2)
        else .next (seqLoad c x.d { dev := true, pa := p.pa, va := addr, n := n, sx := x.sx } r.2)

/-- The low `n` bytes of a value. -/
def valueBytes {w : Nat} (n : Nat) (v : BitVec w) : List Byte := leBytes n v.toNat

def execSts (x : TStore) (s : State) : Out :=
  let c := s.cur
  let k := s.curCore
  let n := widthBytes x.w
  if addrWaits k.seq x.a x.b || k.seq.pendingSKL x.c then .next s
  else
    let addr := addrOf k.seq x.a x.b
    match seqCheck c false addr n true s with
    | some t => .next t
    | none =>
      match seqXlate c addr .write s with
      | .wait t => .next t
      | .fail cause => .next (failAccess c cause addr s)
      | .ok p => .next ((s.dstore c .seq p.pidx k.replaying p.pa (valueBytes n (x.c.val k.seq))).seqDone c)

def execTileLdk (x : TLoad) (s : State) : Out :=
  let c := s.cur
  let k := s.curCore
  let n := widthBytes x.w
  if addrWaits k.seq x.a x.b || k.destHeld x.d then .next s
  else
    let addr := addrOf k.seq x.a x.b
    match seqCheck c true addr n false s with
    | some t => .next t
    | none =>
      if k.kpoisoned addr.toNat n then .next (tileFault c .memoryError addr s)
      else .next (seqLoad c x.d { dev := false, pa := addr.toNat, va := addr, n := n, sx := x.sx } s)

def execTileStk (x : TStore) (s : State) : Out :=
  let c := s.cur
  let k := s.curCore
  let n := widthBytes x.w
  if addrWaits k.seq x.a x.b || k.seq.pendingSKL x.c then .next s
  else
    let addr := addrOf k.seq x.a x.b
    match seqCheck c true addr n true s with
    | some t => .next t
    | none => .next ((s.kstore c .seq addr.toNat (valueBytes n (x.c.val k.seq))).seqDone c)

/-! ### Atomics (R107, R108, R261, R368) -/

/-- An atomic of an agent acts: its earlier accesses to the bytes do so first (R261). -/
def State.actNow (s : State) (c : CoreNo) (a : Agent) (l : LateLoad) : Nat × State :=
  (s.beforeLate c a l).readLate c a l

/-- The translated place of an atomic. -/
def LateLoad.onPage (l : LateLoad) (p : Phys) : LateLoad :=
  { l with pa := p.pa, rmw := l.rmw.map fun r => { r with pidx := p.pidx } }

/-- The scope of an atomic. -/
def LateLoad.scope (l : LateLoad) : Scope := (l.rmw.map Rmw.scope).getD .core

/-- An atomic of the sequencer has passed its checks: a release before it and an acquire after it (R265). One that is no
acquire may act later than it issues, as a load may (R262). -/
def seqAtom (c : CoreNo) (d : SK) (acq rel : Bool) (l : LateLoad) (s : State) : State :=
  let s := if rel then s.release c .seq l.scope else s
  if acq then
    let r := s.actNow c .seq l
    finishLate d (extendTo 64 l.n false r.1) (r.2.acquire c .seq l.scope)
  else seqLoad c d l s

/-- A remote window address of a `.SYSTEM` atomic (R368). -/
def remoteAddr (scope : Scope) (addr : W64) : Bool := scope == .system && addr.getLsbD 51

def execAtoms (x : TAtom) (s : State) : Out :=
  let c := s.cur
  let k := s.curCore
  let n := if x.w64 then 8 else 4
  let cmpWaits := match x.c with | some o => k.seq.pendingSKL o | none => false
  if k.seq.pendingSK x.a || k.seq.pendingSKL x.b || cmpWaits || k.destHeld x.d then .next s
  else
    let addr := x.a.val k.seq
    let v := (x.b.val k.seq).toNat % 2 ^ (8 * n)
    let cmp := (match x.c with | some o => (o.val k.seq).toNat | none => 0) % 2 ^ (8 * n)
    let l : LateLoad :=
      { dev := x.scope != .core, pa := addr.toNat, va := addr, n := n, sx := false,
        rmw := some { op := x.op, x := v, cmp := cmp, scope := x.scope, pidx := 0, replay := k.replaying, team := none } }
    match seqCheck c (x.scope == .core) addr n true s with
    | some t => .next t
    | none =>
      if x.scope = .core then
        if k.kpoisoned addr.toNat n then .next (tileFault c .memoryError addr s)
        else
          .next (seqAtom c x.d x.acq x.rel l s)
      else if remoteAddr x.scope addr then
        let part := ctxPart k.ctx
        let w := (s.part part).window addr
        match k.seq.remote with
        | .value v =>
          let s' := s.updSeq c fun q => { q with remote := .none }
          .next (finishLate x.d v (if x.acq then s'.acquire c .seq .system else s'))
        | .failed => .next (tileFault c .translation addr (s.updSeq c fun q => { q with remote := .none }))
        | .flight _ => .next s
        | .none =>
          if w.v = false then .next (tileFault c .translation addr s)
          else
            let s' := if x.rel then s.release c .seq .system else s
            let r := s'.sendAtomic (.seqAtomic c) part w addr x.op x.w64 x.acq x.rel (BitVec.ofNat 64 v)
              (BitVec.ofNat 64 cmp)
            .next (r.2.updSeq c fun q => { q with remote := .flight r.1 })
      else
        match seqXlate c addr .atomic s with
        | .wait t => .next t
        | .fail cause => .next (failAccess c cause addr s)
        | .ok p =>
          if s.dev.poisoned p.pa n then .next (tileFault c .memoryError addr s)
          else
            .next (seqAtom c x.d x.acq x.rel (l.onPage p) s)

/-- A fence by an agent (R264): a release, an acquire, or both in that order. -/
def fenceBy (c : CoreNo) (a : Agent) (kind : FenceKind) (scope : Scope) (s : State) : State :=
  match kind with
  | .rel => s.release c a scope
  | .acq => s.acquire c a scope
  | .acqrel => (s.release c a scope).acquire c a scope

def execTileFence (x : TFence) (s : State) : Out :=
  .next ((fenceBy s.cur .seq x.kind x.scope (s.settleAgent s.cur .seq)).seqDone s.cur)

end Sys2Proof.Machine
end

