-- ==== Sys2Proof/Machine/Barrier.lean ====
section
/-! DEFINITION. Barriers from the sequencer (R173 to R177): the checks, `BINIT`, arrivals, waits and tests. -/

namespace Sys2Proof.Machine

open Sys2Proof

/-- The outcome of the checks of R173. -/
inductive BarAccess where
  | ok (pl : BarPlace)
  | wait (s : State)
  | trap (s : State)

/-- Steps 2 to 5 of R173 for the object at `a`. -/
def seqBarrier (c : CoreNo) (dev : Bool) (a : W64) (write : Bool) (s : State) : BarAccess :=
  if a.toNat % 16 ≠ 0 then .trap (tileFault c .badBarrier a s)
  else if dev = false then
    if kennelSize < a.toNat + 16 then .trap (tileFault c .kennelRange a s)
    else if (s.core c).locked false a.toNat 16 write then .trap (lockTrap c a s)
    else .ok (.kennel c a.toNat)
  else if a.extractLsb' 52 12 ≠ 0 then .trap (tileFault c .badAddr a s)
  else
    match seqXlate c a .atomic s with
    | .wait t => .wait t
    | .fail cause => .trap (failAccess c cause a s)
    | .ok p => .ok (.device p)

/-- Before an agent's access to an object, its own accesses to the bytes take effect (R106, R227): its stores to them,
and those that it has read, reach the place where the object is. -/
def State.barSettle (s : State) (c : CoreNo) (a : Agent) : BarPlace → State
  | .kennel _ x => s.atBank c a x 16
  | .device p =>
    let s := (s.atL1 c a p.pa 16).flushHeld fun h => h.overlaps p.pa 16
    s.performAll c fun st => st.overlaps p.pa 16 && (s.core c).hasSeen a st

/-- The scope of a barrier (R265). -/
def barScope (dev : Bool) : Scope := if dev then .device else .core

def execBinit (x : TBinit) (s : State) : Out :=
  let c := s.cur
  let k := s.curCore
  let q := k.seq
  if q.pendingSK x.a || q.pendingSKL x.b || q.pendingSKL x.c then .next s
  else
    let a := x.a.val q
    let n := (x.b.val q).toNat
    if n = 0 ∨ 65535 < n then .next (tileFault c .illegalOperand 0 s)
    else
      match seqBarrier c x.dev a true s with
      | .trap t => .next t
      | .wait t => .next t
      | .ok pl =>
        let b : Bar := { phase := (x.c.val q).extractLsb' 0 32, remaining := n, expected := n, bytes := 0, y := x.y,
                         ok := true }
        .next (((s.barSettle c .seq pl).setBar c.val k.ctx k.replaying b pl).seqDone c)

/-- One arrival, with `add` bytes (R175); it is a release by the sequencer (R265). -/
def seqArrive (dev : Bool) (d : SK) (a : W64) (add : Int) (s : State) : Out :=
  let c := s.cur
  match seqBarrier c dev a true s with
  | .trap t => .next t
  | .wait t => .next t
  | .ok pl =>
    if s.barPoisoned pl then .next (tileFault c .memoryError a s)
    else
      let u := (s.release c .seq (barScope dev)).barSettle c .seq pl
      match u.barUpdate c.val (s.core c).ctx (s.core c).replaying pl 1 add with
      | none => .next (tileFault c .badBarrier a u)
      | some r => .next (finishLate d (r.1.zeroExtend 64) r.2)

def execTileBarv (x : TBarv) (s : State) : Out :=
  let k := s.curCore
  if k.seq.pendingSK x.a || k.destHeld x.d then .next s else seqArrive x.dev x.d (x.a.val k.seq) 0 s

def execBexp (x : TBexp) (s : State) : Out :=
  let k := s.curCore
  let n := (x.b.val k.seq).toInt
  if k.seq.pendingSK x.a || k.seq.pendingSKL x.b || k.destHeld x.d then .next s
  else if n < -2 ^ 31 ∨ 2 ^ 31 ≤ n then .next (tileFault s.cur .illegalOperand 0 s)
  else seqArrive x.dev x.d (x.a.val k.seq) n s

/-- A test of phase `n` (R176): what the object says, or a trap or a wait before it can be read. -/
inductive BarTest where
  | passed (s : State)
  | notYet (b : Bar) (s : State)
  | stop (s : State)

def seqTest (dev : Bool) (a : W64) (n : W32) (s : State) : BarTest :=
  let c := s.cur
  match seqBarrier c dev a false s with
  | .trap t => .stop t
  | .wait t => .stop t
  | .ok pl =>
    if s.barPoisoned pl then .stop (tileFault c .memoryError a s)
    else
      let u := s.barSettle c .seq pl
      let b := u.bar pl
      if b.ok = false then .stop (tileFault c .badBarrier a u)
      else if phasePassed b.phase n then .passed (u.acquire c .seq (barScope dev))
      else .notYet b u

def execTileBwait (x : TBwait) (s : State) : Out :=
  let c := s.cur
  let q := s.curCore.seq
  if q.pendingSK x.a || q.pendingSKL x.b then .next s
  else
    match seqTest x.dev (x.a.val q) ((x.b.val q).extractLsb' 0 32) s with
    | .stop t => .next t
    | .passed t => .next (t.updSeq c fun q => { q.advance 1 with standSince := none })
    | .notYet b t =>
      if x.y && x.dev && b.y && q.afterSafe && q.standSince.isNone then
        .next (t.updSeq c fun q => { q with standSince := some s.now })
      else .next t

def execTileBtry (x : TBtry) (s : State) : Out :=
  let c := s.cur
  let q := s.curCore.seq
  if q.pendingSK x.a || q.pendingSKL x.b then .next s
  else
    match seqTest x.dev (x.a.val q) ((x.b.val q).extractLsb' 0 32) s with
    | .stop t => .next t
    | .passed t => .next (t.updSeq c fun q => (q.setPred x.p true).advance 1)
    | .notYet _ t => .next (t.updSeq c fun q => (q.setPred x.p false).advance 1)

end Sys2Proof.Machine
end

