-- ==== Sys2Proof/Machine/Pedigree.lean ====
section
/-! DEFINITION. Pedigree records at HOME: folds (R41), the copy in memory (R38, R39), replay marks (R278). -/

namespace Sys2Proof.Machine

open Sys2Proof

/-! ### Where a record lies -/

/-- The physical address of a record, if its page is mapped (R38). -/
def State.recordPa (s : State) (ctx : W32) (i : Nat) : Option Nat :=
  match s.ctx? ctx with
  | none => none
  | some x =>
    match s.xlate ctx (x.cpedbase + BitVec.ofNat 64 (512 * i)) .read with
    | .ok p => some p.pa
    | .error _ => none

/-- HOME of a record: the slice of its address (R39). -/
def State.recordHome (s : State) (ctx : W32) (i : Nat) : Nat :=
  match s.recordPa ctx i with
  | some pa => sliceOf pa
  | none => 0

/-- The header word at 0x0C (R39). -/
def PedRec.word0C (r : PedRec) (home : Nat) : W32 :=
  (BitVec.ofNat 6 home).zeroExtend 32 <<< 16 ||| r.fmt.zeroExtend 32 <<< 8 ||| r.eo.zeroExtend 32

/-- The header of R39. -/
def PedRec.headerBytes (r : PedRec) (home : Nat) : List Byte :=
  leBytes 4 r.gen.toNat ++ leBytes 4 (if r.replay then 1 else 0) ++ leBytes 4 r.thresh.toNat ++
    leBytes 4 (r.word0C home).toNat ++ List.replicate 48 0

/-- A bank as R40 lays it out. -/
def Bank.toBytes (b : Bank) : List Byte :=
  leBytes 4 b.amax.toNat ++ leBytes 4 b.zeros.toNat ++ leBytes 4 b.nans.toNat ++ leBytes 4 b.infs.toNat ++
    leBytes 8 b.count.toNat ++ leBytes 4 b.ovf.toNat ++ leBytes 4 0 ++
    (b.hist.toList.flatMap fun x => leBytes 4 x.toNat) ++ List.replicate 32 0

/-- HOME writes the header of a record to memory, and with `bank` its closed bank too (R38). -/
def State.mirror (s : State) (ctx : W32) (i : Nat) (bank : Bool) : State :=
  match s.recordPa ctx i with
  | none => s
  | some pa =>
    let r := s.dev.rcd ctx i
    let s := s.setDev (s.dev.put 256 .plain pa (r.headerBytes (sliceOf pa)))
    if bank then s.setDev (s.dev.put 256 .plain (pa + 0x100) r.closed.toBytes) else s

/-- Change a record, then write its header. -/
def State.updRcd (s : State) (ctx : W32) (i : Nat) (f : PedRec → PedRec) (bank : Bool) : State :=
  (s.setDev (s.dev.setRcd (f (s.dev.rcd ctx i)))).mirror ctx i bank

/-- Set REPLAY in a record's header, if it is clear (R278). -/
def State.markReplay (s : State) (ctx : W32) (i : Nat) : State :=
  if (s.dev.rcd ctx i).replay then s else s.updRcd ctx i (fun r => { r with replay := true }) false

/-! ### Folds (R41) -/

/-- One more, saturating at all ones (R41). -/
def satInc {w : Nat} (x : BitVec w) : BitVec w := if x = BitVec.allOnes w then x else x + 1

/-- The magnitude `m * 2 ^ e` as FP32 bits; left open where FP32 does not hold it. -/
def magnitudeBits (fmt : BitVec 4) (bits m : Nat) (e : Int) : W32 :=
  let r := fp32F.finish .rn false false m e false
  if r.flags &&& (fInexact ||| fOverflow) = 0 then BitVec.ofNat 32 r.bits else Config.foldWord fmt bits

/-- The element as a value of the format; left open where the format is none. -/
def foldValue (fmt : BitVec 4) (bits : Nat) : FVal :=
  match Fmt.ofCode fmt with
  | some .none | none => fp32F.decode (Config.foldWord fmt bits).toNat
  | some f => f.value (bits % 256 ^ f.size)

def foldMax (fmt : BitVec 4) : Nat := ((Fmt.ofCode fmt).map Fmt.qmax).getD 0

/-- The histogram bin of R41. -/
def foldBin (eo : Byte) (m : Nat) (e : Int) : Nat := (satInt ((Nat.log2 m : Int) + e - eo.toInt) 0 31).toNat

/-- Add one element, read by format `fmt`, to a bank; OVF counts by the M of the record's own FMT `rcdFmt` (R41, R42). -/
def Bank.fold (b : Bank) (fmt rcdFmt : BitVec 4) (eo : Byte) (bits : Nat) : Bank :=
  let b := { b with count := satInc b.count }
  match foldValue fmt bits with
  | .nan _ => { b with nans := satInc b.nans }
  | .inf _ => { b with infs := satInc b.infs }
  | .fin _ m e =>
    if m = 0 then { b with zeros := satInc b.zeros }
    else
      let a := magnitudeBits fmt bits m e
      let big := foldMax rcdFmt != 0 && !Dy.lt ⟨m, e⟩ (Dy.ofInt (foldMax rcdFmt))
      let i := foldBin eo m e
      { b with amax := if b.amax.toNat < a.toNat then a else b.amax, ovf := if big then satInc b.ovf else b.ovf,
               hist := b.hist.setIfInBounds i (satInc (b.hist.toList.getD i 0)) }

/-- One fold reaches HOME: the first marked one of a generation sets REPLAY (R278), then the element is added. -/
def State.foldHome (s : State) (f : Fold) : State :=
  let s := if f.replay then s.markReplay f.ctx f.idx else s
  let r := s.dev.rcd f.ctx f.idx
  let fmt := if f.fmt = 0 then r.fmt else f.fmt
  s.setDev (s.dev.setRcd { r with opn := r.opn.fold fmt r.fmt r.eo f.bits })

/-- A slice hands its partial of a record to HOME (R274). -/
def State.forwardPartial (s : State) (slice : Nat) (ctx : W32) (i : Nat) : State :=
  let mine (p : Partial) : Bool := p.slice == slice && p.ctx == ctx && p.idx == i
  let fs := (s.dev.partials.filter mine).flatMap Partial.elems
  fs.foldl State.foldHome (s.setDev { s.dev with partials := s.dev.partials.filter fun p => !mine p })

end Sys2Proof.Machine
end

