-- ==== Sys2Proof/Machine/Bound.lean ====
section
/-! DEFINITION. Bound operations: binding entries (R31), issue (R122 to R125), completion (R127), delivery and restart
(R136 to R139), and the nine engine functions' operand rules (R142). What an engine computes stands in Engine.lean. -/

namespace Sys2Proof.Machine

open Sys2Proof

/-! ### Binding entries (R31) -/

inductive BindKind where
  | unbound | engine | routine | reserved
  deriving DecidableEq, Repr, Inhabited

def BindEntry.kind (e : BindEntry) : BindKind :=
  match (e.w0.extractLsb' 62 2).toNat with
  | 0 => .unbound | 1 => .engine | 2 => .routine | _ => .reserved

def BindEntry.engfn (e : BindEntry) : Nat := (e.w0.extractLsb' 48 8).toNat
def BindEntry.gang (e : BindEntry) : Nat := (e.w0.extractLsb' 46 2).toNat
def BindEntry.budget (e : BindEntry) : Nat := (e.w0.extractLsb' 39 7).toNat
def BindEntry.wdog (e : BindEntry) : Nat := (e.w0.extractLsb' 33 6).toNat
def BindEntry.scratch (e : BindEntry) : Bool := e.w0.getLsbD 28
def BindEntry.inplace (e : BindEntry) : Bool := e.w0.getLsbD 27
def BindEntry.dztrap (e : BindEntry) : Bool := e.w0.getLsbD 26
def BindEntry.check (e : BindEntry) : Bool := e.w0.getLsbD 25
def BindEntry.nofair (e : BindEntry) : Bool := e.w0.getLsbD 24

/-- The size of a routine's team (R128). -/
def BindEntry.teamSize (e : BindEntry) : Nat := 32 * 2 ^ e.gang

/-- The team that an op under the entry dispatches; none for an engine function. -/
def BindEntry.team (e : BindEntry) : Option Nat :=
  match e.kind with
  | .routine => some e.teamSize
  | .unbound | .engine | .reserved => none

/-- The entry keeps R31. -/
def BindEntry.ok (e : BindEntry) : Bool :=
  match e.kind with
  | .unbound => e.w0 == 0 && e.w1 == 0 && e.w2 == 0 && e.w3 == 0
  | .engine =>
    decide (e.engfn ≤ 8) && e.w0.extractLsb' 56 6 == 0 && e.w0.extractLsb' 0 48 == 0 && e.w1 == 0 && e.w2 == 0 &&
      e.w3 == 0
  | .routine =>
    e.w0.extractLsb' 48 14 == 0 && e.gang != 3 && decide (8 ≤ e.budget) && decide (e.budget ≤ 64) &&
      decide (16 ≤ e.wdog) && decide (e.wdog ≤ 47) && e.w0.extractLsb' 29 4 == 0 && e.w0.extractLsb' 0 24 == 0 &&
      e.w1.extractLsb' 0 3 == 0 && e.w1.extractLsb' 52 12 == 0 && e.w3 == 0
  | .reserved => false

/-- The engine entry of function `fn`. -/
def engineEntry (fn : Nat) : BindEntry := { w0 := BitVec.ofNat 64 (2 ^ 62 + fn * 2 ^ 48) }

/-- The table at context creation (R33). -/
def defaultTable : Vector BindEntry 256 := Vector.ofFn fun i => if i.val ≤ 8 then engineEntry i.val else {}

/-! ### Operand rules of the engine functions (R142) -/

/-- How an operand field stands to the kinds of R142: a tile, a scalar value, the all-zero field (which is an unused
operand or `s0`), or the unused operand of a parameter block. -/
inductive OpKind where
  | tile | val | zero | absent
  deriving DecidableEq, Repr, Inhabited

def OpKind.isT : OpKind → Bool
  | .tile => true
  | .val | .zero | .absent => false

def OpKind.isV : OpKind → Bool
  | .val | .zero => true
  | .tile | .absent => false

def OpKind.isNone : OpKind → Bool
  | .zero | .absent => true
  | .tile | .val => false

def anyKind : AnyOpd → OpKind
  | .t _ => .tile
  | .s i => if i.val = 0 then .zero else .val
  | .c _ => .val
  | .l _ => .val

/-- Does the function accept the operand kinds and MOD (R142)? -/
def engineAccepts (fn : Nat) (md : Nat) (d a b c : OpKind) : Bool :=
  match fn with
  | 0x00 => d.isT && a.isT && b.isT && decide (md < 4) && (if md / 2 = 1 then c.isV else c.isNone)
  | 0x01 => d.isT && a.isT && b.isNone && c.isNone && md == 0
  | 0x02 =>
    d.isT && a.isT && (b.isT || b.isNone) && ((c.isT && b.isT) || c.isNone) && decide (md < 8) && md % 4 != 3
  | 0x03 => d.isT && a.isNone && b.isNone && c.isNone && md == 0
  | 0x04 => d.isT && a.isT && b.isNone && c.isNone && (md == 0 || md == 4)
  | 0x05 => d.isT && a.isT && decide (md < 4) && (if md = 3 then b.isV else b.isNone) && c.isNone
  | 0x06 => d.isT && a.isT && b.isNone && c.isNone && md == 0
  | 0x07 => d.isT && a.isT && b.isNone && c.isNone && (md == 1 || md == 2)
  | 0x08 => d.isT && a.isT && b.isV && c.isNone && md == 0
  | _ => false

/-- Which of A, B, C an engine function reads as an operand. -/
def engineUses (fn md : Nat) (b c : OpKind) : Bool × Bool × Bool :=
  match fn with
  | 0x00 => (true, true, md / 2 == 1)
  | 0x02 => (true, b.isT, c.isT)
  | 0x03 => (false, false, false)
  | 0x05 => (true, md == 3, false)
  | 0x08 => (true, true, false)
  | _ => (true, false, false)

/-- The queue of an engine function (R124). -/
def engineQueue (fn : Nat) : OpQueue := if fn ≤ 3 then .matrix else .conv

/-- Step 4 of R84 for a word under an entry. -/
def step4Ok (e : BindEntry) (w : BoundWord) : Bool :=
  match e.kind with
  | .engine => engineAccepts e.engfn w.md.toNat (anyKind w.d) (anyKind w.a) (anyKind w.b) (anyKind w.c)
  | .routine => w.md == 0
  | .unbound | .reserved => false

/-! ### Capturing operands (R122) -/

def anyVal (q : Seq) : AnyOpd → OpVal
  | .s i => .val q.s[i.val]
  | .t i => .tile q.t[i.val]
  | .c i => .val q.c[i.val]
  | .l v => .val (litVal v)

def anyWaits (k : Core) : AnyOpd → Bool
  | .s i => k.seq.pendingSK (.s i)
  | .c i => k.seq.pendingSK (.c i)
  | .t i => k.tilePending i
  | .l _ => false

/-- The operands that an op under the entry uses: D, A, B, C. -/
def usesOf (e : BindEntry) (w : BoundWord) : Bool × Bool × Bool × Bool :=
  match e.kind with
  | .engine => (true, engineUses e.engfn w.md.toNat (anyKind w.b) (anyKind w.c))
  | .unbound | .routine | .reserved => (true, true, true, true)

def captureRec (k : Core) (e : BindEntry) (w : BoundWord) : IssueRec :=
  let u := usesOf e w
  { pc := k.seq.pc, word := w, d := anyVal k.seq w.d,
    a := if u.2.1 then anyVal k.seq w.a else .none,
    b := if u.2.2.1 then anyVal k.seq w.b else .none,
    c := if u.2.2.2 then anyVal k.seq w.c else .none,
    dreg := match w.d with | .t i => some i | .s _ | .c _ | .l _ => none }

/-! ### The tile scoreboard (R125) -/

/-- Byte ranges of the Kennel and of accumulator memory that an op reads and writes. -/
structure Touch where
  kr : List (Nat × Nat) := []
  kw : List (Nat × Nat) := []
  ar : List (Nat × Nat) := []
  aw : List (Nat × Nat) := []
  deriving DecidableEq, Repr, Inhabited

def Touch.append (x y : Touch) : Touch := ⟨x.kr ++ y.kr, x.kw ++ y.kw, x.ar ++ y.ar, x.aw ++ y.aw⟩

/-- The bytes of one tile operand; a refused descriptor covers the whole of its space. -/
def descTouch (pedlimit : Nat) (needFmt write : Bool) (v : OpVal) : Touch :=
  match v with
  | .none | .val _ => {}
  | .tile t =>
    let d := Desc.of t
    let good := d.ok pedlimit needFmt
    let k := if good then d.rowsList else [(0, kennelSize)]
    let a := if good then d.rowsList else [(0, accSize)]
    let inK := d.space == spaceKennel || d.space == 3
    let inA := d.space == spaceAcc || d.space == 3
    { kr := if inK && !write then k else [], kw := if inK && write then k else [],
      ar := if inA && !write then a else [], aw := if inA && write then a else [] }

/-- The Kennel bytes of a permutation table: 16-bit entries, as many as the row has elements. -/
def tableTouch (tile tbl : OpVal) : Touch :=
  match tile, tbl with
  | .tile t, .val v => { kr := [(v.toNat, 2 * (Desc.of t).cols)] }
  | _, _ => {}

/-- The bytes an op reads and writes. -/
def opTouch (pedlimit : Nat) (e : BindEntry) (r : IssueRec) : Touch :=
  match e.kind with
  | .engine =>
    let rd v := descTouch pedlimit true false v
    let tbl := if e.engfn = 0 then tableTouch r.a r.c else if e.engfn = 5 ∨ e.engfn = 8 then tableTouch r.a r.b else {}
    ((descTouch pedlimit true true r.d).append (rd r.a)).append (((rd r.b).append (rd r.c)).append tbl)
  | .routine =>
    let rd v := descTouch pedlimit false e.inplace v
    ((descTouch pedlimit false true r.d).append (rd r.a)).append
      ((rd r.b).append (descTouch pedlimit false (e.inplace || e.scratch) r.c))
  | .unbound | .reserved => {}

/-- One writes a byte that the other reads or writes. -/
def Touch.conflicts (x y : Touch) : Bool :=
  rangesMeet x.kw (y.kr ++ y.kw) || rangesMeet x.kr y.kw || rangesMeet x.aw (y.ar ++ y.aw) || rangesMeet x.ar y.aw

/-- The op waits at issue for an earlier incomplete op (R125). -/
def Core.conflicts (k : Core) (pedlimit : Nat) (e : BindEntry) (q : OpQueue) (r : IssueRec) : Bool :=
  k.ops.any fun o =>
    o.parent.isNone && !(o.q == q && q != .lane) &&
      (opTouch pedlimit o.entry o.rcd).conflicts (opTouch pedlimit e r)

/-- Ops that stand in a queue (R124): an engine op until it is complete, a routine until its team is admitted. -/
def Core.queued (k : Core) (q : OpQueue) : Nat :=
  (k.ops.filter fun o => o.q == q &&
    match o.st with
    | .queued => true
    | .executed _ _ | .running => q != .lane
    | .delivered => false).length

/-! ### Waking (R28, R319) -/

/-- The `BWAIT` at which the sequencer stands, and its object, as far as its TLB can tell. -/
def State.seqBwait (s : State) (c : CoreNo) : Option (TBwait × BarPlace) :=
  let q := (s.core c).seq
  if q.mode == .run && (q.park == .none || q.park == .retry) then
    match decodeTile (q.wordAt q.pc) none with
    | .ok (.tileBwait x) =>
      if q.pendingSK x.a || q.pendingSKL x.b then none
      else
        let a := x.a.val q
        let pl : Option BarPlace :=
          if x.dev then
            match (s.core c).tlbFind (s.core c).ctx a .atomic with
            | some p => some (.device p)
            | none => none
          else if a.toNat + 16 ≤ kennelSize then some (.kennel c a.toNat) else none
        pl.map fun pl => (x, pl)
    | _ => none
  else none

/-- The sequencer waits in a `BWAIT` whose phase has not passed. -/
def State.seqWaits (s : State) (c : CoreNo) : Bool :=
  match s.seqBwait c with
  | some (x, pl) => (s.bar pl).ok && !phasePassed (s.bar pl).phase ((x.b.val (s.core c).seq).extractLsb' 0 32)
  | none => false

/-- The sequencer has come to a swap-out point whose `BWAIT.Y` has not had its turn yet (R177). -/
def State.standDue (s : State) (c : CoreNo) : Bool :=
  let q := (s.core c).seq
  match s.seqBwait c with
  | some (x, pl) => x.y && x.dev && (s.bar pl).y && q.afterSafe && q.standSince.isNone
  | none => false

/-- The phase that a thread waits for has passed, as far as its TLB can tell. -/
def State.threadReleased (s : State) (c : CoreNo) (th : Thread) : Bool :=
  match th.wait with
  | .barrier a dev n =>
    let pl : Option BarPlace :=
      if dev then ((s.core c).tlbFind (s.core c).ctx a .atomic).map .device else some (.kennel c a.toNat)
    match pl with
    | some pl => !(s.bar pl).ok || phasePassed (s.bar pl).phase n
    | none => true
  | .none | .coll _ | .debug | .faulted => false

/-- A cause of R28 that lasts is there: a phase has passed, or a task is placed. The others wake the core in the step
that they are: a record is attached, a post claims the core, the debugger asks. -/
def State.wakeCause (s : State) (c : CoreNo) (cause : Nat) : Bool :=
  let k := s.core c
  match cause with
  | 1 => k.task.isSome && k.placing.isNone && k.seq.mode == .run && (!s.seqWaits c || k.threads.any fun x => s.threadReleased c x.2.2)
  | 3 => k.placing.isSome
  | _ => false

/-- The core wakes for a cause; the lowest of those that are there is recorded (R28). -/
def State.wake (s : State) (c : CoreNo) (cause : Nat) : State :=
  let low := ((List.range cause).find? (s.wakeCause c)).getD cause
  s.updCore c fun k => k.wakeUp s.now (BitVec.ofNat 8 low)

/-! ### Decision records at issue (R37) -/

def dqIssue (dq : Vector DqRec 16) (dtag : BitVec 16) (team : Option Nat) : Vector DqRec 16 :=
  dq.map fun r =>
    if r.st = .pending ∧ r.dtag = dtag then
      match team with
      | some n => { r with st := .attached, remain := n }
      | none => { r with st := .free }
    else r

/-- The records pushed for a dispatch number, at its issue. -/
def Core.issueDq (k : Core) (dtag : BitVec 16) (team : Option Nat) : Core := { k with dq := dqIssue k.dq dtag team }

/-- A record that the issue of a routine attaches wakes a gated core with cause 2 (R28, R37). -/
def State.attachWake (s : State) (c : CoreNo) (dtag : BitVec 16) (team : Option Nat) : State :=
  if team.isSome && (s.core c).dq.toList.any fun r => r.st == .pending && r.dtag == dtag then s.wake c 2 else s

/-- Records attached to an aborted team return to PENDING. Those that stand ATTACHED when their team completes are
discarded, and with an abandoned op those that are PENDING too. -/
def dqAbort (dq : Vector DqRec 16) (dtag : BitVec 16) : Vector DqRec 16 :=
  dq.map fun r => if r.st = .attached ∧ r.dtag = dtag then { r with st := .pending, remain := 0 } else r

def dqDone (dq : Vector DqRec 16) (dtag : BitVec 16) : Vector DqRec 16 :=
  dq.map fun r => if r.st = .attached ∧ r.dtag = dtag then { r with st := .free, remain := 0 } else r

def dqDrop (dq : Vector DqRec 16) (dtag : BitVec 16) : Vector DqRec 16 :=
  dq.map fun r => if r.st ≠ .free ∧ r.dtag = dtag then { r with st := .free, remain := 0 } else r

/-! ### Issue (R122) -/

def queueOf (e : BindEntry) : OpQueue :=
  match e.kind with
  | .engine => engineQueue e.engfn
  | .unbound | .routine | .reserved => .lane

/-- The floor that issue hands to an op: the issuer's, and every store of the core so far (R106, R267). -/
def Core.issueFloor (k : Core) (a : Agent) : Floor := (k.floorOf a).join { core := k.nextStore - 1 }

/-- Place a captured op in its queue; the decision records of its number attach. -/
def Core.enqueue (k : Core) (e : BindEntry) (r : IssueRec) (dtag : BitVec 16) (replay : Bool) : Core :=
  let o : Op := { id := k.nextId, rcd := r, entry := e, dtag := dtag, q := queueOf e, st := .queued, parent := none,
                  block := 0, folded := [], replay := replay, held := false, floor := k.issueFloor .seq }
  ({ k with ops := k.ops ++ [o], nextId := k.nextId + 1 }).issueDq dtag e.team

/-- Issue a class-01 word through the binding entry that it names (R81, R84, R122 to R125). -/
def issueBound (w : BoundWord) (s : State) : Out :=
  let c := s.cur
  let k := s.curCore
  let e := k.table[w.idx.toNat]'w.idx.isLt
  if e.kind = .unbound ∨ e.kind = .reserved then
    .next (takeTrap c { kind := .unbound, cause := .unbound, epc := k.seq.pc, resume := k.seq.pc, index := w.idx,
                        pindex := w.idx } s)
  else if step4Ok e w = false then .next (illegalTile c s)
  else
    let u := usesOf e w
    let waits := anyWaits k w.d || (u.2.1 && anyWaits k w.a) || (u.2.2.1 && anyWaits k w.b) ||
      (u.2.2.2 && anyWaits k w.c)
    let r := captureRec k e w
    if waits || (e.kind == .routine && k.seq.bankPending) || decide (8 ≤ k.queued (queueOf e)) ||
        k.conflicts (s.pedlimit c) e (queueOf e) r then .next s
    else
      .next (((s.release c .seq .core).attachWake c k.seq.dtag e.team).updCore c fun k =>
        let k := k.enqueue e r k.seq.dtag k.replaying
        { k with seq := { k.seq with dtag := k.seq.dtag + 1 }.advance 1 })

def execMma (w : BoundWord) (s : State) : Out := issueBound w s
def execAccld (w : BoundWord) (s : State) : Out := issueBound w s
def execAccst (w : BoundWord) (s : State) : Out := issueBound w s
def execAccz (w : BoundWord) (s : State) : Out := issueBound w s
def execTcvt (w : BoundWord) (s : State) : Out := issueBound w s
def execQnt (w : BoundWord) (s : State) : Out := issueBound w s
def execDqnt (w : BoundWord) (s : State) : Out := issueBound w s
def execHad (w : BoundWord) (s : State) : Out := issueBound w s
def execPerm (w : BoundWord) (s : State) : Out := issueBound w s
def execRoutineDispatch (w : BoundWord) (s : State) : Out := issueBound w s

/-! ### Completion (R127) -/

/-- SCALE of a descriptor (R18). -/
def descSetScale (t : W128) (d : W32) : W128 :=
  (t &&& ~~~ ((0xFFFFFFFF : W128) <<< 72)) ||| (d.zeroExtend 128 <<< 72)

/-- The tile registers with SCALE written back into D's descriptor, where the function states it (R17, R157). -/
def Op.writeBack (o : Op) (t : Vector W128 64) (scale : Option W32) : Vector W128 64 :=
  match scale, o.rcd.dreg with
  | some d, some i => t.set i.val (descSetScale t[i.val] d)
  | _, _ => t

/-- An op leaves the core: D is released, with SCALE written back. -/
def Core.retireOp (k : Core) (o : Op) (scale : Option W32) : Core :=
  { k with ops := k.ops.filter fun x => x.id != o.id, seq := { k.seq with t := o.writeBack k.seq.t scale },
           dq := dqDone k.dq o.dtag }

/-! ### Delivery (R136) -/

/-- What has completed with a fault cause and is not delivered: issue number, and the op or command. -/
inductive Faulted where
  | op (o : Op) (st : OpStatus)
  | cmd (m : Cmd) (st : OpStatus)

def Faulted.id : Faulted → Nat
  | .op o _ => o.id
  | .cmd m _ => m.id

def Core.faulted (k : Core) : List Faulted :=
  (k.ops.filterMap fun o =>
    match o.st with
    | .executed st _ => if st.cause ≠ .none ∧ o.parent.isNone then some (.op o st) else none
    | .queued | .running | .delivered => none) ++
  (k.cmds.filterMap fun m =>
    match m.st with
    | .failed st => some (.cmd m st)
    | .queued | .running | .delivered => none)

/-- The fault to deliver next: the first in issue order, while the restart slot is free. -/
def Core.nextFault (k : Core) : Option Faulted :=
  if k.seq.restart.isSome then none
  else k.faulted.foldl (fun best f =>
    match best with
    | some b => if f.id < b.id then some f else best
    | none => some f) none

/-- WHO of a thread (R291). -/
def whoThread (lane slot : Nat) : BitVec 16 := BitVec.ofNat 16 (slot * 128 + lane)

/-- The trap of a delivered op: kind, cause and the fields of its fault record (R322, R323). -/
def opTrap (o : Op) (st : OpStatus) (resume : W64) : Trap :=
  { kind := if st.cause = .rescale then .rescale else .tileOpFault, cause := st.cause, epc := o.rcd.pc, resume := resume,
    addr := st.addr, detail := st.detail, pindex := o.rcd.word.idx,
    index := match st.nested with | some i => i | none => o.rcd.word.idx,
    dtag := o.dtag, who := match st.lane with | some l => whoThread l.lane l.slot | none => 0,
    level := if st.lane.isSome || st.nested.isSome then 1 else 0, lane := st.lane, nested := st.nested.isSome,
    final := o.entry.kind == .routine && o.entry.inplace }

def cmdTrap (m : Cmd) (st : OpStatus) (resume : W64) : Trap :=
  { kind := .tileOpFault, cause := st.cause, epc := m.pc, resume := resume, addr := st.addr, detail := st.detail,
    who := m.q.zeroExtend 16 }

/-- Deliver a completed fault (R136, R137, R383). The status bits 0 to 5 of a tile op join `TFLAGS` here: R29 ties that to
completion, and the rules leave open when it is for an op that ends with a fault or RESCALE, and may be reissued (log entry
75, the model's choice). The restart slot is filled, a held queue stays held, an access of a
waiting instruction is withdrawn, and the trap is taken with the resume address at the instruction not yet issued. The
SCALE of a `QNT` that completed with RESCALE is written (R157). -/
def deliver (c : CoreNo) (f : Faulted) (s : State) : State :=
  let k := s.core c
  let resume := k.seq.pc
  let s := s.updCore c fun k =>
    { k.unpark k.seq.park .seq with seq := { k.seq with park := .none } }
  match f with
  | .op o st =>
    let scale := match o.st with
      | .executed _ d => d
      | .queued | .running | .delivered => none
    let slot : Restart := { id := o.id, isCmd := false, pc := o.rcd.pc, resume := resume,
                            final := o.entry.kind == .routine && o.entry.inplace, next := k.nextId }
    let s := s.updCore c fun k =>
      { k with seq := ({ k.seq with restart := some slot, t := o.writeBack k.seq.t scale }).orFlags st.flags,
               ops := k.ops.map fun x =>
                 if x.id = o.id then { x with st := .delivered }
                 else if x.q = o.q ∧ o.q ≠ .lane ∧ x.st = .queued then { x with held := true }
                 else x }
    takeTrap c (opTrap o st resume) s
  | .cmd m st =>
    let slot : Restart := { id := m.id, isCmd := true, pc := m.pc, resume := resume, final := false, next := k.nextId }
    let s := s.updCore c fun k =>
      ({ k with seq := ({ k.seq with restart := some slot }).orFlags st.flags }).updCmd m.id
        fun x => { x with st := .delivered }
    takeTrap c (cmdTrap m st resume) s

/-! ### Restart (R137, R138) -/

/-- A held queue continues: what was held stands behind what entered it since the delivery (R134, R136). -/
def Core.unhold (k : Core) : Core :=
  let (held, free) := k.ops.partition fun o => o.held
  { k with ops := free ++ held.map fun o => { o with held := false } }

/-- Place the reissued op: behind every op of its queue that is not held, ahead of the held ones. -/
def Core.requeue (k : Core) (o : Op) : Core :=
  let others := k.ops.filter fun x => x.id != o.id
  let (held, free) := others.partition fun x => x.held
  { k with ops := free ++ o :: held }.unhold

/-- The op in the restart slot is abandoned: it counts as complete with its fault status (R137),
which the sequencer acquires (R265). -/
def abandon (c : CoreNo) (r : Restart) (s : State) : State :=
  (s.updCore c fun k =>
    let k := { k with seq := { k.seq with restart := none } }
    if r.isCmd then { k with cmds := k.cmds.filter fun m => m.id != r.id }.unhold
    else
      match k.op? r.id with
      | some o => { (k.retireOp o none).unhold with dq := dqDrop k.dq o.dtag }
      | none => k.unhold).acquire c .seq .core

/-- What makes a reissue wait at `ERET` under the entry as it now stands (R122): a full queue, a result still to be written
to the constant bank before a routine (R16), a conflict with an op that is earlier in issue order, those of the handler
among them (R125; log entry 78). -/
def Core.reissueWaits (k : Core) (pedlimit : Nat) (r : Restart) (o : Op) (e : BindEntry) : Bool :=
  decide (8 ≤ k.queued (queueOf e)) || (e.kind == .routine && k.seq.bankPending) ||
    ({ k with ops := k.ops.filter fun x => decide (x.id < o.id) || decide (r.next ≤ x.id) } : Core).conflicts pedlimit e
      (queueOf e) o.rcd

/-- Reissue the op of the slot with its captured record, the entry as it now stands, its dispatch number (R137). The
records that its first run folded into are marked first (R138), and every fold of the new run is marked (R278). -/
def reissueOp (c : CoreNo) (r : Restart) (o : Op) (e : BindEntry) (s : State) : State :=
  let ctx := (s.core c).ctx
  let s := o.folded.foldl (fun s i => s.markReplay ctx i) s
  ((s.release c .seq .core).attachWake c o.dtag e.team).updCore c fun k =>
    let o' : Op := { o with entry := e, q := queueOf e, st := .queued, folded := [],
                            replay := true, held := false, floor := k.issueFloor .seq }
    let k := (k.requeue o').issueDq o.dtag e.team
    { k with seq := { k.seq with restart := none, pc := r.resume, afterSafe := false } }

/-- Put a command back into its queue, from its start (R170, R341). -/
def Core.requeueCmd (k : Core) (m : Cmd) : Core :=
  { (k.updCmd m.id fun m => { m with st := .queued, landed := [], sub := 0, frames := 0, park := .none,
                                     peerBad := false, part := [] }) with
    retq := if h : m.q.toNat < 4 then k.retq.set m.q.toNat (k.retq[m.q.toNat] ++ [.cmd m.id]) else k.retq }

/-- The ranges that a command registers (R171): destination flag, device flag, first and last byte. -/
def cmdRanges (m : Cmd) : List (Bool × Bool × Nat × Nat) :=
  let tileRange (t : W128) (dst : Bool) : List (Bool × Bool × Nat × Nat) :=
    [(dst, false, (Desc.of t).base, (Desc.of t).last)]
  let rows (t : W128) (dst : Bool) : List (Bool × Bool × Nat × Nat) :=
    [(dst, true, m.addr.toNat, m.addr.toNat + ((Desc.of t).rows - 1) * m.pitch + (Desc.of t).rbytes - 1)]
  match m.kind with
  | .cpyIn => rows m.dst false ++ tileRange m.dst true
  | .cpyOut => tileRange m.src false ++ rows m.src true
  | .cpyKk => tileRange m.src false ++ tileRange m.dst true
  | .gth | .pull => tileRange m.dst true
  | .sct | .push | .mcast => tileRange m.src false
  | .pft => []

def cmdLocks (m : Cmd) : List RangeLock :=
  (cmdRanges m).map fun r => { cmd := m.id, dst := r.1, dev := r.2.1, lo := r.2.2.1, hi := r.2.2.2 }

/-- Reissue the command of the slot (R137, R138, R170, R278). -/
def reissueCmd (c : CoreNo) (r : Restart) (m : Cmd) (s : State) : State :=
  let ctx := (s.core c).ctx
  let s := m.folded.foldl (fun s i => s.markReplay ctx i) s
  (s.release c .seq .core).updCore c fun k =>
    let k := { k.requeueCmd m with locks := k.locks ++ cmdLocks m }
    let k := k.updCmd m.id fun m => { m with folded := [], replay := true, floor := k.issueFloor .seq }
    { k.unhold with seq := { k.seq with restart := none, pc := r.resume, afterSafe := false } }

/-- The return from a trap (R115, R137). -/
def execEret (s : State) : Out :=
  let c := s.cur
  let k := s.curCore
  match k.seq.restart with
  | none => .next (returnPlain c s)
  | some r =>
    if k.seq.epc ≠ r.pc then
      if k.seq.targetOk k.seq.epc then
        .next ((abandon c r s).updSeq c fun q => { q with pc := q.epc, afterSafe := false })
      else .next (returnPlain c s)
    else if r.final then
      .next ((abandon c r s).updSeq c fun q => { q with pc := r.resume, afterSafe := false })
    else if r.isCmd then
      match k.cmd? r.id with
      | some m =>
        if 24 ≤ k.retCount m.q then .next s
        else .next (reissueCmd c r m s)
      | none => .next (s.updSeq c fun q => { q with restart := none, pc := r.resume, afterSafe := false })
    else
      match k.op? r.id with
      | some o =>
        let e := k.table[o.rcd.word.idx.toNat]'o.rcd.word.idx.isLt
        if e.kind = .unbound ∨ e.kind = .reserved then
          .next (takeTrap c { kind := .unbound, cause := .unbound, epc := o.rcd.pc, resume := o.rcd.pc,
                              index := o.rcd.word.idx, pindex := o.rcd.word.idx } s)
        else if step4Ok e o.rcd.word = false then
          .next (takeTrap c { kind := .illegalTile, cause := .illegalTile, epc := o.rcd.pc, resume := o.rcd.pc } s)
        else if k.reissueWaits (s.pedlimit c) r o e then .next s
        else .next (reissueOp c r o e s)
      | none => .next (s.updSeq c fun q => { q with restart := none, pc := r.resume, afterSafe := false })

/-- The core's clock runs and its task has not been stopped to be frozen or discarded. -/
def Core.moving (k : Core) : Bool :=
  !k.health.clockStop &&
    match k.seq.mode with
    | .run | .ended | .stopped => true
    | .idle | .freezing | .unhandled | .discarding => false

end Sys2Proof.Machine
end

