-- ==== Sys2Proof/Machine/TileSync.lean ====
section
/-! DEFINITION. Pedigree requests (R178 to R183), launch records (R185 to R187), decision records (R189), stream
headers (R191) and the binding table (R140, R141). -/

namespace Sys2Proof.Machine

open Sys2Proof

/-! ### Kennel operands of the sequencer -/

/-- ALIGN, KENNEL_RANGE, then the range locks, for `n` bytes at `a`: the trap of the first that fails. -/
def kennelOperand (c : CoreNo) (a : W64) (align n : Nat) (write : Bool) (s : State) : Option State :=
  if a.toNat % align ≠ 0 then some (tileFault c .align a s)
  else if kennelSize < a.toNat + n then some (tileFault c .kennelRange a s)
  else if (s.core c).locked false a.toNat n write then some (lockTrap c a s)
  else if !write && (s.core c).kpoisoned a.toNat n then some (tileFault c .memoryError a s)
  else none

/-! ### Pedigree (R178 to R183) -/

/-- The index check of R178. -/
def State.pedOk (s : State) (c : CoreNo) (i : W64) : Bool := i != 0 && decide (i.toNat < s.pedlimit c)

def PedReq.index : PedReq → Nat
  | .close i | .reset i | .peek i _ _ | .read i _ _ | .readHdr i _ _ | .sett i _ _ => i

def PedReq.isClose : PedReq → Bool
  | .close _ | .reset _ => true
  | .peek _ _ _ | .read _ _ _ | .readHdr _ _ _ | .sett _ _ _ => false

/-- The indices of this core's incomplete closes and resets (R180). -/
def State.openCloses (s : State) (c : CoreNo) : List Nat :=
  ((s.core c).ped.filter PedReq.isClose).map PedReq.index ++
    (s.dev.closes.filter fun x => decide (x.who = .core c)).map Close.idx

/-- Hand a request to HOME. -/
def State.pedSend (s : State) (c : CoreNo) (r : PedReq) : State :=
  s.updCore c fun k => { k with ped := k.ped ++ [r], seq := k.seq.advance 1 }

/-- `PCLOSE` and `PRESET`: a DEVICE-scope release, under which every store that the core has performed to a page tracked
by the record reaches its home slice too, then a request to HOME (R179 step 1, R182). -/
def pedClose (a : SKL) (mk : Nat → PedReq) (s : State) : Out :=
  let c := s.cur
  let q := s.curCore.seq
  let i := a.val q
  if q.pendingSKL a then .next s
  else if s.pedOk c i = false then .next (tileFault c .illegalOperand 0 s)
  else if (s.openCloses c).contains i.toNat || decide (16 ≤ (s.openCloses c).length) then .next s
  else .next (((s.release c .seq .device).performAll c fun p => p.pidx == i.toNat).pedSend c (mk i.toNat))

def execPclose (a : SKL) (s : State) : Out := pedClose a .close s
def execPreset (a : SKL) (s : State) : Out := pedClose a .reset s

/-- The fields of a bank (R181). -/
def bankField (b : W64) : Bool :=
  b == 0x00 || b == 0x04 || b == 0x08 || b == 0x0C || b == 0x10 || b == 0x18 ||
    (decide (0x20 ≤ b.toNat) && decide (b.toNat < 0xA0) && decide (b.toNat % 4 = 0))

def headerField (b : W64) : Bool := b == 0x00 || b == 0x04 || b == 0x08 || b == 0x0C

/-- A pedigree read: d waits for HOME's answer (R181). -/
def pedRead (x : TAlu2) (fieldOk : W64 → Bool) (mk : Nat → Nat → SK → PedReq) (s : State) : Out :=
  let c := s.cur
  let k := s.curCore
  let q := k.seq
  let i := x.a.val q
  let b := x.b.val q
  if q.pendingSKL x.a || q.pendingSKL x.b || k.destHeld x.d then .next s
  else if s.pedOk c i = false || fieldOk b = false then .next (tileFault c .illegalOperand 0 s)
  else if (s.openCloses c).contains i.toNat then .next s
  else
    .next ((s.updSeq c fun q => { q with pend := q.pend ++ [⟨x.d, none, 0, none⟩] }).pedSend c (mk i.toNat b.toNat x.d))

def execPpeek (x : TAlu2) (s : State) : Out := pedRead x bankField .peek s
def execPread (x : TAlu2) (s : State) : Out := pedRead x bankField .read s
def execPreadHdr (x : TAlu2) (s : State) : Out := pedRead x headerField .readHdr s

def execPsett (x : TPsett) (s : State) : Out :=
  let c := s.cur
  let q := s.curCore.seq
  let i := x.a.val q
  let b := x.b.val q
  if q.pendingSKL x.a || q.pendingSKL x.b then .next s
  else if s.pedOk c i = false || (x.f == 2 && (Fmt.ofCode (b.extractLsb' 0 4)).isNone) then
    .next (tileFault c .illegalOperand 0 s)
  else if (s.openCloses c).contains i.toNat then .next s
  else .next (s.pedSend c (.sett i.toNat x.f b))

/-! ### Launch records (R185, R186) -/

/-- The four 2-bit ORDER fields, outermost first. -/
def orderFields (o : Byte) : List Nat :=
  [(o.extractLsb' 6 2).toNat, (o.extractLsb' 4 2).toNat, (o.extractLsb' 2 2).toNat, (o.extractLsb' 0 2).toNat]

/-- The BOUND, ORDER and SERP rules of R186. -/
def LaunchRec.walkOk (r : LaunchRec) : Bool :=
  ((List.finRange 4).all fun i => if i.val ≤ r.ndim then r.bound[i] != 0 else r.bound[i] == 0) &&
    ((List.range (r.ndim + 1)).all fun d => ((orderFields r.order).take (r.ndim + 1)).contains d) &&
    (((orderFields r.order).drop (r.ndim + 1)).all fun f => f == 0) &&
    ((List.range 4).all fun d => decide (d ≤ r.ndim) || !r.serp.getLsbD d)

/-- The address and alignment rules of R185 that LOOP nodes share. -/
def LaunchRec.addrOk (r : LaunchRec) : Bool :=
  decide (r.image.toNat % 65536 = 0) && decide (r.entry.toNat % 8 = 0) && decide (r.join.toNat % 16 = 0) &&
    r.image.extractLsb' 52 12 == 0 && r.arg.extractLsb' 52 12 == 0 && r.join.extractLsb' 52 12 == 0

def wordOf (bs : List Byte) (off n : Nat) : Nat := ofBytes ((bs.drop off).take n)

/-- Read the fields of R185; JOIN and ARG stand at the same offsets in a LOOP node. -/
def launchRecOf (bs : List Byte) : LaunchRec :=
  let w : W32 := BitVec.ofNat 32 (wordOf bs 0 4)
  { nodeid := BitVec.ofNat 32 (wordOf bs 4 4), order := w.extractLsb' 16 8, serp := w.extractLsb' 12 4,
    ndim := (w.extractLsb' 10 2).toNat, restartable := w.getLsbD 9, cooperative := w.getLsbD 8,
    image := BitVec.ofNat 64 (wordOf bs 8 8), entry := BitVec.ofNat 64 (wordOf bs 0x10 8),
    bound := Vector.ofFn fun i => BitVec.ofNat 32 (wordOf bs (0x18 + 4 * i.val) 4),
    arg := BitVec.ofNat 64 (wordOf bs 0x28 8), join := BitVec.ofNat 64 (wordOf bs 0x30 8) }

/-- Step 3 of R186. -/
def launchOk (bs : List Byte) : Bool :=
  let r := launchRecOf bs
  wordOf bs 3 1 == 1 && wordOf bs 0 1 == 0 && r.nodeid == 0 && wordOf bs 0x38 8 == 0 && r.addrOk && r.walkOk

/-- Records in the overflow ring of a core's context, and how many the ring holds for the core's task (R320). -/
def State.ringUsed (s : State) (c : CoreNo) : Nat × Nat :=
  (match s.ctx? (s.core c).ctx with
    | some x => x.ring.length
    | none => 0,
   match (s.core c).task with
    | some t => t.regs.lringsize.toNat
    | none => 0)

/-- The record with the queue and the context of the task that launches it (R316). -/
def State.launchedBy (s : State) (c : CoreNo) (r : LaunchRec) : LaunchRec :=
  match (s.core c).task with
  | some t => { r with queue := t.queue, ctx := t.ctx }
  | none => r

/-- The records of a core that wait for the Shepherd: its pending-launch queue, then those in overflow rings. -/
def State.launches (s : State) (c : CoreNo) : List LaunchRec :=
  (s.core c).launchQ ++ s.ctxs.flatMap fun x => (x.ring.filter fun r => r.1 == c.val).map Prod.snd

/-- The number of the next record in issue order. -/
def State.launchNo (s : State) (c : CoreNo) : Nat := (s.launches c).foldl (fun m r => Nat.max m r.no) 0 + 1

/-- A record all of whose fields are undefined values; whose it is, and its place in the order, stay. -/
def State.undefRecord (s : State) (r : LaunchRec) : LaunchRec × State :=
  let u := s.undef 512
  ({ launchRecOf (leBytes 64 u.1.toNat) with queue := r.queue, ctx := r.ctx, no := r.no }, u.2)

/-- A record passes through the overflow ring of a context, which must be aligned, and mapped with R and W (R320); where
it is not so for the access, the record is undefined (R5; log entry 31). -/
def State.throughRing (s : State) (ctx : W32) (regs : CtxRegs) (need : Need) (r : LaunchRec) : LaunchRec × State :=
  if regs.lringbase.toNat % 64 ≠ 0 then s.undefRecord r
  else
    match s.xlateRange ctx need regs.lringbase.toNat (64 * regs.lringsize.toNat) with
    | .ok _ => (r, s)
    | .error f => (s.shepRefused ctx need f).undefRecord r

/-- A record enters the pending-launch queue; one that finds the queue full goes to the ring and sets LOVF (R187). -/
def launchInto (c : CoreNo) (r : LaunchRec) (s : State) : State :=
  let r := { r with no := s.launchNo c }
  if (s.core c).launchQ.length < 4 then s.updCore c fun k => { k with launchQ := k.launchQ ++ [r] }
  else
    let regs := match (s.core c).task with | some t => t.regs | none => {}
    let x := s.throughRing r.ctx regs .write r
    (x.2.updCtx (s.core c).ctx fun y => { y with ring := y.ring ++ [(c.val, x.1)] }).updCore c fun k =>
      { k with seq := k.seq.orT tflLovf }

def execLaunch (a : SK) (s : State) : Out :=
  let c := s.cur
  let k := s.curCore
  let addr := a.val k.seq
  if k.seq.pendingSK a then .next s
  else
    match kennelOperand c addr 64 64 false s with
    | some t => .next t
    | none =>
      let bs := k.kreadBy .seq addr.toNat 64
      let used := s.ringUsed c
      if launchOk bs = false then .next (tileFault c .badLaunch addr s)
      else if 4 ≤ k.launchQ.length ∧ used.2 ≤ used.1 then .next (trapAt c .launchOverflow .launchOverflow addr 0 s)
      else .next ((launchInto c (s.launchedBy c (launchRecOf bs)) (s.release c .seq .device)).seqDone c)

/-! ### Decision records (R189) -/

/-- The lowest free decision record. -/
def freeDq (dq : Vector DqRec 16) : Option (Fin 16) := (List.finRange 16).find? fun i => dq[i].st == .free

def nextOrder (dq : Vector DqRec 16) : Nat := dq.toList.foldl (fun m r => Nat.max m r.order) 0 + 1

def execDqpush (x : TDqpush) (s : State) : Out :=
  let c := s.cur
  let k := s.curCore
  let q := k.seq
  let n := (x.a.val q).toNat
  let b := x.b.val q
  if q.pendingSKL x.a || q.pendingSK x.b then .next s
  else if 255 < n then .next (tileFault c .illegalOperand 0 s)
  else
    match kennelOperand c b 8 24 false s with
    | some t => .next t
    | none =>
      match freeDq k.dq with
      | some i =>
        let r : DqRec := { payload := Vector.ofFn fun j => BitVec.ofNat 32 (ofBytes (k.kreadBy .seq (b.toNat + 4 * j.val) 4)),
                           dtag := q.dtag + BitVec.ofNat 16 n, st := .pending, remain := 0, order := nextOrder k.dq }
        .next ((s.updCore c fun k => { k with dq := k.dq.set i.val r }).seqDone c)
      | none =>
        if k.dq.toList.any fun r => r.st == .attached then .next s else .next (tileFault c .dqFull b s)

/-! ### Conditional streams (R191) -/

/-- The header that `QSINIT` writes. -/
def streamHeader (cap rsize : Nat) : List Byte :=
  leBytes 4 0 ++ leBytes 4 0 ++ leBytes 2 cap ++ leBytes 2 rsize ++ leBytes 4 0x5C000000 ++ List.replicate 16 0

def execQsinit (x : TQsinit) (s : State) : Out :=
  let c := s.cur
  let q := s.curCore.seq
  let a := x.a.val q
  let cap := (x.b.val q).toNat
  let size := (x.c.val q).toNat
  if q.pendingSK x.a || q.pendingSKL x.b || q.pendingSKL x.c then .next s
  else if a.toNat % 32 ≠ 0 then .next (tileFault c .align a s)
  else if cap = 0 || decide (4096 < cap) || !(size == 4 || size == 8 || size == 16 || size == 32) then
    .next (tileFault c .illegalOperand 0 s)
  else if kennelSize < a.toNat + 32 + cap * size then .next (tileFault c .kennelRange a s)
  else if (s.core c).locked false a.toNat 32 true then .next (lockTrap c a s)
  else .next (((s.atBank c .seq a.toNat 32).kwrite c a.toNat (streamHeader cap size)).seqDone c)

/-! ### The binding table (R140, R141) -/

def entryOfBytes (bs : List Byte) : BindEntry :=
  { w0 := BitVec.ofNat 64 (wordOf bs 0 8), w1 := BitVec.ofNat 64 (wordOf bs 8 8),
    w2 := BitVec.ofNat 64 (wordOf bs 16 8), w3 := BitVec.ofNat 64 (wordOf bs 24 8) }

def BindEntry.toBytes (e : BindEntry) : List Byte :=
  leBytes 8 e.w0.toNat ++ leBytes 8 e.w1.toNat ++ leBytes 8 e.w2.toNat ++ leBytes 8 e.w3.toNat

/-- The Shepherd takes a `BIND`: the context's table, then an update to every core that runs a task of it (R141). -/
def broadcastBind (c : CoreNo) (ctx : W32) (i : Byte) (e : BindEntry) (s : State) : State :=
  let s := s.updCtx ctx fun x => { x with table := x.table.set i.toNat e i.isLt }
  { s with cores := Vector.ofFn fun j =>
      let k := s.cores[j]
      if k.task.isSome && k.ctx == ctx then { k with updates := k.updates ++ [(i.toNat, e, j == c)] } else k }

def execBind (x : TBind) (s : State) : Out :=
  let c := s.cur
  let k := s.curCore
  let q := k.seq
  let i := x.a.val q
  let b := x.b.val q
  if q.pendingSKL x.a || q.pendingSKL x.b then .next s
  else if 255 < i.toNat then .next (tileFault c .illegalOperand 0 s)
  else
    match kennelOperand c b 8 32 false s with
    | some t => .next t
    | none =>
      let e := entryOfBytes (k.kreadBy .seq b.toNat 32)
      if e.ok = false then .next (tileFault c .badBinding b s)
      else
        let n : Byte := i.extractLsb' 0 8
        let s := (s.release c .seq .device).updCore c fun k => { k with table := k.table.set n.toNat e n.isLt }
        .next ((broadcastBind c k.ctx n e s).seqDone c)

def execBindrd (x : TBind) (s : State) : Out :=
  let c := s.cur
  let k := s.curCore
  let q := k.seq
  let i := x.a.val q
  let b := x.b.val q
  if q.pendingSKL x.a || q.pendingSKL x.b then .next s
  else if 255 < i.toNat then .next (tileFault c .illegalOperand 0 s)
  else
    match kennelOperand c b 8 32 true s with
    | some t => .next t
    | none =>
      let n : Byte := i.extractLsb' 0 8
      .next (((s.atBank c .seq b.toNat 32).kwrite c b.toNat (k.table[n.toNat]'n.isLt).toBytes).seqDone c)

/-- BIND_UPDATE_ARRIVAL: the oldest update on its way reaches the core. A core's own later `BIND` of the index, already
in its copy, stands (R32, log entry 16). -/
def execBindUpdateArrival (c : CoreNo) (s : State) : Out :=
  .next (s.updCore c fun k =>
    match k.updates with
    | [] => k
    | (i, e, _) :: rest =>
      if rest.any fun u => u.1 == i && u.2.2 then { k with updates := rest }
      else { k with updates := rest, table := k.table.setIfInBounds i e })

end Sys2Proof.Machine
end

