-- ==== Sys2Proof/Machine/Engine.lean ====
section
/-! DEFINITION. The matrix engine and the converter: which op starts (R124, R126, R134), its checks (R143), and what
the nine functions compute (R56 to R63, R144 to R160). -/

namespace Sys2Proof.Machine

open Sys2Proof

/-! ### Operands -/

/-- The tile operand of a captured record, with the core whose memory holds it. -/
structure Tile where
  d : Desc
  core : CoreNo
  deriving DecidableEq, Repr, Inhabited

def tileOf (c : CoreNo) (v : OpVal) : Option Tile :=
  match v with
  | .tile t =>
    let d := Desc.of t
    some ⟨d, if d.space = spaceRemote then clusterCore c d.peer.toNat else c⟩
  | .none | .val _ => none

def opValWord (v : OpVal) : W64 :=
  match v with
  | .val w => w
  | .tile _ | .none => 0

/-- The bits of element (i, k). -/
def State.elem (s : State) (t : Tile) (i k : Nat) : Nat :=
  let m := (s.core t.core).mem
  ofBytes ((if t.d.space = spaceAcc then m.aread else m.kread) (t.d.elemAt i k) t.d.esize)

def Desc.fmtOr (d : Desc) : Fmt := d.format.getD .none

/-- The value of element (i, k): SCALE is not applied, PW8 is an integer (R56). -/
def State.val (s : State) (t : Tile) (i k : Nat) : FVal := t.d.fmtOr.value (s.elem t i k)

/-- A covered row of the tile is poisoned (R285). -/
def State.tilePoisoned (s : State) (t : Tile) : Bool :=
  let m := (s.core t.core).mem
  t.d.rowsList.any fun r => poisonHit 8 (if t.d.space = spaceAcc then m.accPoison else m.poison) r.1 r.2

/-! ### Checks (R143) -/

/-- A fault of an op, with the operand of R323's DETAIL: 0 D, 1 A, 2 B, 3 C. -/
def opFault (cause : Cause) (opd : Nat) (addr : W64 := 0) : OpStatus :=
  { cause := cause, addr := addr, detail := BitVec.ofNat 64 opd }

/-- Check 1: each tile operand under R20, in the order D, A, B, C. -/
def descFault (pedlimit : Nat) (r : IssueRec) : Option OpStatus :=
  let bad (v : OpVal) : Bool :=
    match v with
    | .tile t => !(Desc.of t).ok pedlimit true
    | .none | .val _ => false
  if bad r.d then some (opFault .badDesc 0)
  else if bad r.a then some (opFault .badDesc 1)
  else if bad r.b then some (opFault .badDesc 2)
  else if bad r.c then some (opFault .badDesc 3)
  else none

/-- The pairs of R56: K step and accumulator format. -/
def mmaPair (a b : Fmt) : Option (Nat × Fmt) :=
  let int8 (f : Fmt) : Bool := f == .int8 || f == .uint8
  let fp8 (f : Fmt) : Bool := f == .e4m3 || f == .e5m2
  if int8 a && int8 b then some (48, .int32)
  else if a == .pw8 && b == .int8 then some (48, .int32)
  else if fp8 a && fp8 b then some (48, .fp32)
  else if (a == .bf16 && b == .bf16) || (a == .fp16 && b == .fp16) then some (24, .fp32)
  else none

/-- The first of a list of rules that is broken: the operand it names. -/
def firstBroken (rules : List (Bool × Nat)) : Option OpStatus :=
  (rules.find? fun r => !r.1).map fun r => opFault .illegalOperand r.2

def inKR (d : Desc) : Bool := d.space == spaceKennel || d.space == spaceRemote

/-- The rules of R145. -/
def mmaRules (d a b : Desc) : Option OpStatus :=
  let pair := mmaPair a.fmtOr b.fmtOr
  firstBroken
    [(d.space == spaceAcc, 0), (inKR a, 1), (a.rows == d.rows, 1), (inKR b, 2), (b.rows == d.rbytes / 4, 2),
     (a.cols == b.cols, 2), (pair.isSome, 2),
     (match pair with | some p => a.cols % p.1 == 0 | none => false, 1),
     (match pair with | some p => d.fmtOr == p.2 | none => false, 0)]

/-- The shape of a unary function (R144). -/
def unaryRules (d a : Desc) : List (Bool × Nat) := [(d.rows == a.rows, 1), (d.cols == a.cols, 1)]

def floatHK (f : Fmt) : Bool := f == .fp32 || f == .bf16 || f == .fp16
def quantFmt (f : Fmt) : Bool := f == .int8 || f == .e4m3 || f == .e5m2 || f == .pw8

/-- Check 2 of a function of the converter. The block multiple of a Hadamard form comes last (log entry 71). -/
def converterRules (fn md : Nat) (d a : Desc) : Option OpStatus :=
  let spaces := [(d.space == spaceKennel, 0), (inKR a, 1)]
  let own : List (Bool × Nat) :=
    match fn with
    | 0x05 => [(quantFmt d.fmtOr, 0), (md == 0 || d.role == (if md = 3 then roleWgt else roleAct), 0),
               (floatHK a.fmtOr, 1)]
    | 0x06 => [(floatHK d.fmtOr, 0), (quantFmt a.fmtOr, 1)]
    | 0x07 => [(floatHK d.fmtOr, 0), (d.role == roleAct, 0), (floatHK a.fmtOr, 1)]
    | 0x08 => [(d.role == roleWgt, 0), (a.fmtOr == d.fmtOr, 1)]
    | _ => []
  match firstBroken (spaces ++ own ++ unaryRules d a) with
  | some f => some f
  | none =>
    let block := if fn = 0x05 ∨ fn = 0x07 then (match md with | 1 => 16 | 2 => 32 | _ => 1) else 1
    if a.cols % block ≠ 0 then some (opFault .badDesc 1) else none

/-- Check 2 of the accumulator functions. -/
def accldRules (d a : Desc) : Option OpStatus :=
  let pairOk := match a.fmtOr, d.fmtOr with
    | .fp32, .fp32 | .bf16, .fp32 | .fp16, .fp32 | .int32, .int32 | .int8, .int32 => true
    | _, _ => false
  firstBroken ([(d.space == spaceAcc, 0), (a.space == spaceKennel, 1), (pairOk, 1)] ++ unaryRules d a)

def accstRules (d a : Desc) : Option OpStatus :=
  let fmtOk := match d.fmtOr with
    | .fp32 | .bf16 | .fp16 | .e4m3 | .e5m2 | .int32 | .int8 => true
    | .none | .uint8 | .pw8 => false
  firstBroken ([(d.space == spaceKennel, 0), (fmtOk, 0), (a.space == spaceAcc, 1)] ++ unaryRules d a)

/-- Check 2: the space, format, role and shape rules of the function. -/
def ruleFault (fn md : Nat) (d : Desc) (a b : Option Desc) : Option OpStatus :=
  match fn, a, b with
  | 0x00, some a, some b => mmaRules d a b
  | 0x01, some a, _ => accldRules d a
  | 0x02, some a, _ => accstRules d a
  | 0x03, _, _ => firstBroken [(d.space == spaceAcc, 0)]
  | _, some a, _ => converterRules fn md d a
  | _, none, _ => none

/-- The address of the op's permutation table, if it reads one (R147, R156, R160). -/
def tableAddr (fn md : Nat) (r : IssueRec) : Option W64 :=
  if fn = 0x00 ∧ md / 2 = 1 then some (opValWord r.c)
  else if (fn = 0x05 ∧ md = 3) ∨ fn = 0x08 then some (opValWord r.b)
  else none

/-- The `n` indices of a table (R63). -/
def readTable (k : Core) (a n : Nat) : List Nat := (List.range n).map fun i => k.kword (a + 2 * i) 2

/-- Checks 3 and 4; `n` is the row's allocated element count. -/
def tableFault (k : Core) (a : W64) (n : Nat) : Option OpStatus :=
  if a.toNat % 2 ≠ 0 then some { cause := .align, addr := a }
  else if kennelSize < a.toNat + 2 * n then some { cause := .kennelRange, addr := a }
  else if k.kpoisoned a.toNat (2 * n) then some { cause := .memoryError, addr := a }
  else if (readTable k a.toNat n).any fun i => decide (n ≤ i) then some { cause := .badPerm, addr := a }
  else none

/-- The checks of R143 in order; none lets the op run. -/
def engineFault (s : State) (c : CoreNo) (fn md : Nat) (r : IssueRec) : Option OpStatus :=
  match descFault (s.pedlimit c) r with
  | some f => some f
  | none =>
    let ctx := (s.core c).ctx
    let desc (v : OpVal) : Option Desc := (tileOf c v).map Tile.d
    match desc r.d with
    | none => none
    | some d =>
      match ruleFault fn md d (desc r.a) (desc r.b) with
      | some f => some f
      | none =>
        let cols := match desc r.a with
          | some a => a.cols
          | none => d.cols
        match (tableAddr fn md r).bind fun a => tableFault (s.core c) a cols with
        | some f => some f
        | none =>
          if fn = 0x05 ∧ d.pidx = 0 then some { cause := .noStats }
          else if fn ≠ 0x05 ∧ d.space = spaceKennel ∧ d.pidx ≠ 0 ∧ (s.dev.rcd ctx d.pidx).fmt ≠ d.fmt then
            some (opFault .illegalOperand 0)
          else none

/-! ### Results -/

/-- The results of every element of the allocated rows of D. -/
abbrev Cells := List (List FRes)

def cellsOf (d : Desc) (f : Nat → Nat → FRes) : Cells :=
  (List.range d.rows).map fun i => (List.range d.cols).map fun k => f i k

/-- The flags of the valid elements (R65). -/
def cellFlags (d : Desc) (cs : Cells) : Flags6 :=
  cs.zipIdx.foldl (fun fl row =>
    row.1.zipIdx.foldl (fun fl x => if d.valid row.2 x.2 then fl ||| x.1.flags else fl) fl) 0

/-- The valid elements, as folds of the destination's record (R144). -/
def cellFolds (ctx : W32) (d : Desc) (replay : Bool) (cs : Cells) : List Fold :=
  cs.zipIdx.flatMap fun row => row.1.zipIdx.filterMap fun x =>
    if d.valid row.2 x.2 then some { ctx := ctx, idx := d.pidx, bits := x.1.bits, replay := replay } else none

def rowBytes (d : Desc) (row : List FRes) : List Byte := row.flatMap fun x => leBytes d.esize x.bits

/-- Write the rows of D. -/
def writeCells (c : CoreNo) (d : Desc) (cs : Cells) (s : State) : State :=
  s.updCore c fun k => cs.zipIdx.foldl (fun k row =>
    let a := d.base + row.2 * d.pitch
    if d.space = spaceAcc then k.awrite a (rowBytes d row.1) else k.kwrite a (rowBytes d row.1)) k

/-- What an engine function leaves: the status, SCALE, the state and the records folded into. -/
structure EngineRes where
  st : OpStatus
  scale : Option W32
  s : State
  folded : List Nat

/-- Commit results: write D, fold its valid elements through the core's port where D is a tracked Kennel tile. -/
def commit (c : CoreNo) (o : Op) (d : Desc) (cs : Cells) (s : State) : EngineRes :=
  let tracked := d.space == spaceKennel && d.pidx != 0
  let s := writeCells c d cs s
  let s := if tracked then
      s.updCore c fun k => { k with port := k.port ++ cellFolds k.ctx d o.replay cs }
    else s
  { st := { flags := cellFlags d cs }, scale := none, s := s,
    folded := if tracked && !(cellFolds 0 d false cs).isEmpty then [d.pidx] else [] }

/-! ### MMA (R145 to R149) -/

def term (p : Option FVal) : FVal := p.getD (.nan true)

/-- One K step into an accumulator value (R57, R58). -/
def mmaStep (acc : Fmt) (old : Option FVal) (terms : List FVal) : FRes :=
  let all := old.toList ++ terms
  match acc with
  | .int32 =>
    let t := all.foldl (fun x v => x + v.sm) 0
    let c := satInt t (-2147483648) 2147483647
    ⟨ofSigned 32 c, flagIf (c != t) fSat⟩
  | _ => fp32F.sumRes .rn false true all

/-- Fold the K steps of one output element; the integer formats have exponent 0 throughout. -/
def mmaElem (acc : Fmt) (old : Option Nat) (steps : List (List FVal)) : FRes :=
  steps.foldl (fun r t =>
      let x := mmaStep acc (r.2.map acc.value) t
      ((⟨x.bits, r.1.flags ||| x.flags⟩ : FRes), some x.bits))
    ((⟨old.getD 0, 0⟩ : FRes), old) |>.1

def chunks {α : Type} (n : Nat) : Nat → List α → List (List α)
  | 0, _ => []
  | fuel + 1, xs => xs.take n :: chunks n fuel (xs.drop n)

/-- The values of an `MMA` (R146). -/
def mmaCells (s : State) (md : Nat) (d a b : Tile) (table : List Nat) : Cells :=
  match mmaPair a.d.fmtOr b.d.fmtOr with
  | none => []
  | some (step, acc) =>
    let n := a.d.cols
    let rowA := (List.range a.d.rows).map fun i => table.map fun k => s.val a i k
    let rowB := (List.range b.d.rows).map fun j => (List.range n).map fun k => s.val b j k
    rowA.zipIdx.map fun ra => rowB.zipIdx.map fun rb =>
      let terms := List.zipWith (fun x y => term (x.mul y)) ra.1 rb.1
      mmaElem acc (if md % 2 = 1 then some (s.elem d ra.2 rb.2) else none) (chunks step (n / step) terms)

/-- The next `n` undefined words (R2). -/
def State.undefWords (s : State) (n : Nat) : List W32 × State :=
  ((List.range n).map fun i => Config.undef 32 (s.sched.fresh + i),
   s.setSched { s.sched with fresh := s.sched.fresh + n })

/-- W and its checksums stand in the working buffer of the core (R149): a word for each row and for each column, of which
the spec does not give the arithmetic (log entry 37). -/
def State.setWork (s : State) (c : CoreNo) (d : Desc) (cs : Cells) : State :=
  let row := s.undefWords d.cols
  let col := row.2.undefWords d.rows
  col.2.updCore c fun k => { k with mem := { k.mem with
    wbuf := cs.flatMap fun row => row.map fun x => BitVec.ofNat 32 x.bits, sumRow := row.1, sumCol := col.1,
    workPoison := [] } }

/-- `MMA`. The model's list of choices says how the checksums came out: 0 and 1 agree (1 after one rerun, counted with
the corrected errors), a larger choice makes both runs disagree at the element it names; W is committed all the same
(R149; log entry 37). -/
def runMma (c : CoreNo) (o : Op) (md : Nat) (d a b : Tile) (table : List Nat) (s : State) : EngineRes :=
  let cs := mmaCells s md d a b table
  let (n, s) := (s.setWork c d.d cs).choice
  if n ≤ 1 then
    commit c o d.d cs (s.setDev { s.dev with corrected := s.dev.corrected + n })
  else
    let row := (n - 2) / d.d.cols % d.d.rows
    let col := (n - 2) % d.d.cols
    let detail : W64 := BitVec.ofNat 64 (row + 256 * col)
    let r := commit c o d.d cs s
    let info : W64 := (o.dtag.zeroExtend 64) ||| (detail <<< 16)
    { r with st := { r.st with cause := .matrixCheck, detail := detail },
             s := r.s.machineCheck 1 (some (s.core c).ctx) c.val 255 info 0 }

/-! ### Accumulator functions (R151 to R153) -/

def accldElem (src dst : Fmt) (x : Nat) : FRes :=
  match src, dst with
  | .int8, _ => ⟨ofSigned 32 (toSigned 8 x), 0⟩
  | .bf16, _ => cvtFloat fp32F .rn false (bf16F.decode x)
  | .fp16, _ => cvtFloat fp32F .rn false (fp16F.decode x)
  | _, _ => ⟨x, 0⟩

/-- The factor that a scale operand supplies (R152). -/
def factorOf (v : OpVal) : FVal :=
  match v with
  | .tile t => fp32F.decode (Desc.of t).scale.toNat
  | .none | .val _ => .ofInt 1

/-- 2^−h times an exact value. -/
def FVal.down (h : Nat) : FVal → FVal
  | .fin n m e => .fin n m (e - h)
  | v => v

/-- An element of `ACCST` (R152). A zero product has the exclusive or of the signs (log entry 69). -/
def accstElem (src dst : Fmt) (h : Nat) (nsat : Bool) (dx dw : FVal) (x : Nat) : FRes :=
  let y := match (src.value x).mul dx with
    | some p => p.mul dw
    | none => none
  match y with
  | some (.nan _) | none => cvtValue dst .rn false nsat (.nan true)
  | some v => cvtValue dst .rn false nsat (v.down h)

/-! ### Converter functions (R154 to R160) -/

/-- The sign of H[i][j] (R61): negative for an odd number of common one bits. -/
def hadNeg (n i j : Nat) : Bool := popOf (BitVec.ofNat 8 i &&& BitVec.ofNat 8 j) n % 2 == 1

/-- Element k of the transformed row (R61), rounded once into a format. -/
def hadElem (f : FFmt) (n : Nat) (row : List FVal) (k : Nat) : FRes :=
  let block := (row.drop (k / n * n)).take n
  f.sumRes .rn false false (block.zipIdx.map fun x => if hadNeg 8 (k % n) x.2 then x.1.neg else x.1)

/-- The factors of R59 from AMAX: (r, d) as FP32 bits. The flags of these two roundings go nowhere (log entry 68). -/
def qntFactors (dst : Fmt) (amax : W32) (h : Nat) : Nat × Nat :=
  let a := cvtFloat fp32F .rz false (term ((fp32F.decode amax.toNat).mul (.ofInt h)))
  let big := 0x7F7FFFFF
  let a := if a.bits = 0x7F800000 then big else a.bits
  let av := fp32F.decode a
  let m := FVal.ofInt dst.qmax
  if av.isZero then (0x3F800000, 0x3F800000)
  else
    let r := (fp32F.div .rn false m av).bits
    ((if r = 0x7F800000 then big else r), (fp32F.div .rn false av m).bits)

/-- Quantise one element (R59): the result, and whether the conversion saturated (R60). -/
def qntElem (dst : Fmt) (r : Nat) (x : FRes) : FRes :=
  let p := fp32F.mul .rn false (fp32F.decode x.bits) (fp32F.decode r)
  let q := cvtElem dst .fp32 .rn false false p.bits
  ⟨q.bits, x.flags ||| p.flags ||| q.flags⟩

/-- The element that a transform hands to the quantiser, as FP32 with the flags of its rounding. -/
def qntSource (s : State) (a : Tile) (md : Nat) (table : List Nat) (i k : Nat) : FRes :=
  let row := (List.range a.d.cols).map fun j => s.val a i j
  match md with
  | 1 => hadElem fp32F 16 row k
  | 2 => hadElem fp32F 32 row k
  | _ => cvtElem .fp32 a.d.fmtOr .rn false false (s.elem a i (table.getD k 0))

/-- `QNT` (R157): THRESH and AMAX come from the record that D names. -/
def runQnt (c : CoreNo) (md : Nat) (d a : Tile) (table : List Nat) (s : State) : EngineRes :=
  let rcd := s.dev.rcd (s.core c).ctx d.d.pidx
  let h := match md with
    | 1 => 4
    | 2 => 8
    | _ => 1
  let f := qntFactors d.d.fmtOr rcd.closed.amax h
  let cs := cellsOf d.d fun i k => qntElem d.d.fmtOr f.1 (qntSource s a md table i k)
  let sat := (cs.zipIdx.map fun row =>
    (row.1.zipIdx.filter fun x => d.d.valid row.2 x.2 && x.1.flags &&& fSat != 0).length).sum
  let st : OpStatus := { flags := cellFlags d.d cs }
  { st := if rcd.thresh ≠ 0 ∧ rcd.thresh.toNat ≤ sat then { st with cause := .rescale } else st,
    scale := some (BitVec.ofNat 32 f.2), s := writeCells c d.d cs s, folded := [] }

/-- An element of `DQNT` (R158). A zero result has the exclusive or of the signs (log entry 70). -/
def dqntElem (src dst : Fmt) (scale : FVal) (x : Nat) : FRes :=
  match (src.value x).mul scale, dst.ffmt with
  | some v, some f => cvtFloat f .rn false v
  | none, some f => f.nanRes true
  | _, none => ⟨0, 0⟩

/-- Run a function on checked operands. -/
def runEngine (c : CoreNo) (o : Op) (fn md : Nat) (d : Tile) (a b : Option Tile) (table : List Nat) (s : State) :
    EngineRes :=
  match fn, a, b with
  | 0x00, some a, some b => runMma c o md d a b table s
  | 0x01, some a, _ => commit c o d.d (cellsOf d.d fun i k => accldElem a.d.fmtOr d.d.fmtOr (s.elem a i k)) s
  | 0x02, some a, _ =>
    let h := match md % 4 with
      | 1 => 4
      | 2 => 5
      | _ => 0
    commit c o d.d (cellsOf d.d fun i k =>
      accstElem a.d.fmtOr d.d.fmtOr h (md / 4 == 1) (factorOf o.rcd.b) (factorOf o.rcd.c) (s.elem a i k)) s
  | 0x04, some a, _ =>
    commit c o d.d (cellsOf d.d fun i k =>
      cvtElem d.d.fmtOr a.d.fmtOr .rn false (md == 4) (s.elem a i k)) s
  | 0x05, some a, _ => runQnt c md d a table s
  | 0x06, some a, _ =>
    commit c o d.d (cellsOf d.d fun i k =>
      dqntElem a.d.fmtOr d.d.fmtOr (fp32F.decode a.d.scale.toNat) (s.elem a i k)) s
  | 0x07, some a, _ =>
    let n := if md = 1 then 16 else 32
    commit c o d.d (cellsOf d.d fun i k =>
      match d.d.fmtOr.ffmt with
      | some f => hadElem f n ((List.range a.d.cols).map fun j => s.val a i j) k
      | none => ⟨0, 0⟩) s
  | 0x08, some a, _ => commit c o d.d (cellsOf d.d fun i k => ⟨s.elem a i (table.getD k 0), 0⟩) s
  | _, _, _ => commit c o d.d (cellsOf d.d fun _ _ => ⟨0, 0⟩) s

/-! ### Start (R124, R126, R143, R180) -/

/-- The op that may start in a queue, or that runs there: its head among the ops that are not held, if no op ahead of it is
incomplete. -/
def Core.startable (k : Core) (q : OpQueue) : Option Op :=
  match k.ops.filter fun o => o.q == q && !o.held && o.st != .delivered with
  | [] => none
  | o :: _ => if o.st = .queued ∨ o.st = .running then some o else none

/-- A byte of the op meets a range lock (R126). -/
def Core.opLocked (k : Core) (t : Touch) : Bool :=
  (t.kr.any fun r => k.locked false r.1 r.2 false) || (t.kw.any fun r => k.locked false r.1 r.2 true)

/-- The engines run: the clock is on and the core has a task, running or being stopped (R341 step 3). -/
def Core.enginesRun (k : Core) : Bool :=
  !k.health.clockStop &&
    match k.seq.mode with
    | .run | .ended | .stopped | .freezing | .unhandled | .discarding => true
    | .idle => false

/-- The tiles that a function reads elements of. -/
def tilesRead (fn md : Nat) (d : Tile) (a b : Option Tile) : List Tile :=
  match fn with
  | 0x00 => (if md % 2 = 1 then [d] else []) ++ a.toList ++ b.toList
  | 0x03 => []
  | _ => a.toList

/-- The Kennel bytes of the core that an op accesses (R126): none when its first checks refuse it, its table alone when a
later one does (R143). -/
def engineTouch (s : State) (c : CoreNo) (o : Op) : Touch :=
  let fn := o.entry.engfn
  let md := o.rcd.word.md.toNat
  let r := o.rcd
  let desc (v : OpVal) : Option Desc := (tileOf c v).map Tile.d
  match desc r.d with
  | none => {}
  | some d =>
    let cols := match desc r.a with | some a => a.cols | none => d.cols
    let early := (descFault (s.pedlimit c) r).isSome || (ruleFault fn md d (desc r.a) (desc r.b)).isSome
    let table := match tableAddr fn md r with
      | some a => if a.toNat % 2 = 0 ∧ a.toNat + 2 * cols ≤ kennelSize then [(a.toNat, 2 * cols)] else []
      | none => []
    if early then {}
    else if (engineFault s c fn md r).isSome then { kr := table }
    else
      let rows (t : Tile) : List (Nat × Nat) := if t.core = c ∧ t.d.space ≠ spaceAcc then t.d.rowsList else []
      { kr := table ++ (tilesRead fn md ⟨d, c⟩ (tileOf c r.a) (tileOf c r.b)).flatMap rows, kw := rows ⟨d, c⟩ }

/-- The op runs: its checks, poisoned data (R285), then the function. -/
def startOp (c : CoreNo) (o : Op) (s : State) : State :=
  let fn := o.entry.engfn
  let md := o.rcd.word.md.toNat
  let r := o.rcd
  let done (st : OpStatus) (scale : Option W32) (folded : List Nat) (s : State) : State :=
    s.updCore c fun k => k.updOp o.id fun x => { x with st := .executed st scale, folded := folded }
  match engineFault s c fn md r with
  | some f => done f none [] s
  | none =>
    match tileOf c r.d with
    | none => done {} none [] s
    | some d =>
      let a := tileOf c r.a
      let b := tileOf c r.b
      match (tilesRead fn md d a b).find? s.tilePoisoned with
      | some t => done { cause := .memoryError, addr := BitVec.ofNat 64 t.d.base } none [] s
      | none =>
        let cols := match a with
          | some a => a.d.cols
          | none => d.d.cols
        let table := match tableAddr fn md r with
          | some x => readTable (s.core c) x.toNat cols
          | none => List.range cols
        let res := runEngine c o fn md d a b table s
        done res.st res.scale res.folded res.s

/-! ### An op whose accesses are spread over time (R106, R257, R267)

An engine op is single-copy atomic byte by byte: other agents may act between any two of its reads and writes. The
model's list of choices says which of them a step makes; by default a step makes them all (log entry 8). -/

/-- The bytes of a tile: their core, whether they lie in accumulator memory, their address. -/
def Tile.places (t : Tile) : List (CoreNo × Bool × Nat) :=
  t.d.rowsList.flatMap fun r => (List.range r.2).map fun i => (t.core, t.d.space == spaceAcc, r.1 + i)

/-- The bytes that an op reads: its tiles and its table. -/
def readPlacesOf (s : State) (c : CoreNo) (o : Op) : List (CoreNo × Bool × Nat) :=
  match tileOf c o.rcd.d with
  | none => []
  | some d =>
    let table := match tableAddr o.entry.engfn o.rcd.word.md.toNat o.rcd with
      | some _ => (engineTouch s c o).kr.head?.toList
      | none => []
    ((tilesRead o.entry.engfn o.rcd.word.md.toNat d (tileOf c o.rcd.a) (tileOf c o.rcd.b)).flatMap Tile.places) ++
      table.flatMap fun r => (List.range r.2).map fun i => (c, false, r.1 + i)

/-- One byte of a core's memories. -/
def CoreMem.byteIn (m : CoreMem) (acc : Bool) (a : Nat) : Byte := ((if acc then m.aread a 1 else m.kread a 1)).headD 0

/-- The op reads the bytes that `take` names, of those that it has not read yet. -/
def readSome (c : CoreNo) (o : Op) (take : Nat → Bool) (s : State) : State :=
  let new := (readPlacesOf s c o).zipIdx.filterMap fun x =>
    if take x.2 && !(o.seen.any fun b => b.core == x.1.1 && b.acc == x.1.2.1 && b.addr == x.1.2.2) then
      some ({ core := x.1.1, acc := x.1.2.1, addr := x.1.2.2,
              val := (s.core x.1.1).mem.byteIn x.1.2.1 x.1.2.2 } : SeenByte)
    else none
  s.updCore c fun k => k.updOp o.id fun o => { o with st := .running, seen := o.seen ++ new }

/-- Put a byte where an op has read it, for the op's eyes only. -/
def CoreMem.show (m : CoreMem) (b : SeenByte) : CoreMem :=
  if b.acc then { m with acc := memPut m.acc b.addr b.val, holes := fillHoles (accMap + b.addr) 1 m.holes }
  else { m with kennel := memPut m.kennel b.addr b.val, holes := fillHoles b.addr 1 m.holes }

/-- The machine as the op has read it: the bytes read so far stand over what the memories hold now. -/
def State.seenBy (s : State) (o : Op) : State :=
  o.seen.foldl (fun s b => s.updCore b.core fun k => { k with mem := k.mem.show b }) s

/-- On-core memories as they stand in another state: their bytes, with dirty blocks and poison. -/
def CoreMem.bytesOf (m n : CoreMem) : CoreMem :=
  { m with kennel := n.kennel, acc := n.acc, holes := n.holes, dirty := n.dirty, poison := n.poison,
           accPoison := n.accPoison }

/-- The bytes of D that an op has computed in state `u`. -/
def todoOf (u : State) (c : CoreNo) (o : Op) : List TodoByte :=
  match tileOf c o.rcd.d with
  | some d => (Tile.places ⟨d.d, c⟩).map fun x =>
    { acc := x.2.1, addr := x.2.2, val := (u.core c).mem.byteIn x.2.1 x.2.2 }
  | none => []

/-- The op computes from what it has read, with all effects but its writes to D, which are still to be made. -/
def computeOp (c : CoreNo) (o : Op) (s : State) : State :=
  let u := startOp c o (s.seenBy o)
  match (u.core c).op? o.id with
  | none => u
  | some x =>
    let t : State := { u with cores := Vector.ofFn fun d =>
      if d = c then { u.core d with mem := (u.core d).mem.bytesOf (s.core d).mem } else s.core d }
    match x.st with
    | .executed st scale =>
      if st.cause = .none ∨ st.cause = .rescale ∨ st.cause = .matrixCheck then
        t.updCore c fun k => k.updOp o.id fun x =>
          { x with st := .running, result := some (st, scale), todo := todoOf u c o }
      else t
    | .queued | .running | .delivered => t

/-- The op writes the bytes that `take` names of those that it has still to write; with the last one it has executed. W
that is poisoned in the working buffer ends an `MMA` (R149, R285). -/
def writeSome (c : CoreNo) (o : Op) (take : Nat → Bool) (s : State) : State :=
  match o.result with
  | none => s
  | some (st, scale) =>
    let now := o.todo.zipIdx.filter fun x => take x.2
    let rest := o.todo.zipIdx.filter fun x => !take x.2
    if o.entry.engfn = 0 ∧ (s.core c).mem.workPoison ≠ [] then
      s.updCore c fun k => k.updOp o.id fun o =>
        { o with st := .executed { st with cause := .memoryError } none, seen := [], result := none, todo := [] }
    else
      s.updCore c fun k =>
        let k := now.foldl (fun (k : Core) x =>
          if x.1.acc then k.awrite x.1.addr [x.1.val] else k.kwrite x.1.addr [x.1.val]) k
        k.updOp o.id fun o =>
          if rest.isEmpty then { o with st := .executed st scale, seen := [], result := none, todo := [] }
          else { o with todo := rest.map Prod.fst }

/-- A step of an op: from an even choice other than 0 it reads some bytes; from an odd one it computes, if it has not, and
writes some bytes; 0 makes all that is left. -/
def engineStep (c : CoreNo) (o : Op) (n : Nat) (s : State) : State :=
  let all (i : Nat) : Bool := n == 0 || (n / 2).testBit i
  if o.result.isSome then writeSome c o all s
  else if (n = 0 ∧ o.seen = []) ∨ (engineFault s c o.entry.engfn o.rcd.word.md.toNat o.rcd).isSome then startOp c o s
  else if n ≠ 0 ∧ n % 2 = 0 then readSome c o all s
  else
    let s := computeOp c o s
    match (s.core c).op? o.id with
    | some o => writeSome c o all s
    | none => s

/-- ENGINE_OP_START: the op at the head of the matrix queue, or of the converter's, runs. -/
def execEngineOpStart (c : CoreNo) (conv : Bool) (s : State) : Out :=
  let k := s.core c
  match k.startable (if conv then .conv else .matrix) with
  | none => .next s
  | some o =>
    let waitsClose := o.entry.engfn == 5 && o.st == .queued &&
      match tileOf c o.rcd.d with
      | some d => (s.openCloses c).contains d.d.pidx
      | none => false
    if !k.enginesRun || waitsClose || k.opLocked (engineTouch s c o) then .next s
    else
      let n := s.choice
      .next (engineStep c o n.1 n.2)

end Sys2Proof.Machine
end

