-- ==== Sys2Proof/Machine/Hash.lean ====
section
/-! DEFINITION. Philox-4×32-10 (R67), the 128-bit counter (R68), CRC-32C (R358) and SHA-256 (R94, R346). -/

namespace Sys2Proof.Machine

/-! ### Philox (R67) -/

structure Philox where
  x0 : W32
  x1 : W32
  x2 : W32
  x3 : W32
  k0 : W32
  k1 : W32
  deriving DecidableEq, Repr, Inhabited

/-- The high and low words of an unsigned 32 × 32 product. -/
def mulHi32 (a b : W32) : W32 := BitVec.ofNat 32 (a.toNat * b.toNat / 2 ^ 32)

/-- One round of R67, without the key step. -/
def Philox.round (s : Philox) : Philox :=
  let hi0 := mulHi32 0xD2511F53 s.x0
  let lo0 := 0xD2511F53 * s.x0
  let hi1 := mulHi32 0xCD9E8D57 s.x2
  let lo1 := 0xCD9E8D57 * s.x2
  { s with x0 := hi1 ^^^ s.x1 ^^^ s.k0, x1 := lo1, x2 := hi0 ^^^ s.x3 ^^^ s.k1, x3 := lo0 }

def Philox.bump (s : Philox) : Philox := { s with k0 := s.k0 + 0x9E3779B9, k1 := s.k1 + 0xBB67AE85 }

/-- n rounds followed by key steps. -/
def Philox.go : Nat → Philox → Philox
  | 0, s => s
  | n + 1, s => Philox.go n s.round.bump

/-- The four outputs of R67, x0 first, for counter words c0 to c3 and key words k0 and k1. -/
def philox (c0 c1 c2 c3 k0 k1 : W32) : W32 × W32 × W32 × W32 :=
  let s := (Philox.go 9 ⟨c0, c1, c2, c3, k0, k1⟩).round
  (s.x0, s.x1, s.x2, s.x3)

/-! ### CRC-32C (R358) -/

/-- Eight shift steps of the reflected Castagnoli polynomial. -/
def crcByteGo : Nat → W32 → W32
  | 0, c => c
  | n + 1, c => crcByteGo n (if c.getLsbD 0 then (c >>> 1) ^^^ 0x82F63B78 else c >>> 1)

/-- CRC-32C of a list of bytes. -/
def crc32c (bs : List Byte) : W32 :=
  (bs.foldl (fun c b => crcByteGo 8 (c ^^^ b.zeroExtend 32)) 0xFFFFFFFF) ^^^ 0xFFFFFFFF

/-! ### SHA-256 (R94, R346)

The spec names the algorithm alone; its constants are taken from their definition, roots of primes, not from a table. -/

/-- The greatest number from `lo` up to below `lo + 2 ^ n` whose `k`-th power is at most `x`. -/
def rootBelow (k x : Nat) : Nat → Nat → Nat
  | 0, lo => lo
  | n + 1, lo => rootBelow k x n (if (lo + 2 ^ n) ^ k ≤ x then lo + 2 ^ n else lo)

/-- The first 32 bits of the fraction of the `k`-th root of `p`, for a root below 32. -/
def rootFraction (k p : Nat) : W32 := BitVec.ofNat 32 (rootBelow k (p * 2 ^ (32 * k)) 37 0)

/-- The primes below 312: the first 64. -/
def shaPrimes : List Nat :=
  (List.range 312).filter fun n => decide (2 ≤ n) && (List.range 18).all fun d => decide (d < 2) || d == n || n % d != 0

/-- The exclusive or of `x` rotated right by each of the counts. -/
def spin (x : W32) (counts : List Nat) : W32 := counts.foldl (fun acc r => acc ^^^ x.rotateRight r) 0

/-- The working variables as two sequences, of which the last four terms count, the newest first. -/
abbrev ShaSeq := List (W32 × W32)

/-- The next term of both sequences, for a constant and a word of the schedule. -/
def shaTerm (h : ShaSeq) (key word : W32) : W32 × W32 :=
  let at' (i : Nat) : W32 × W32 := h.getD i (0, 0)
  let e := (at' 0).2
  let chosen := (at' 2).2 ^^^ (e &&& ((at' 1).2 ^^^ (at' 2).2))
  let mixed := key + word + (at' 3).2 + chosen + spin e [6, 11, 25]
  let both := (at' 0).1 &&& (at' 1).1
  let most := both ||| ((at' 2).1 &&& ((at' 0).1 ||| (at' 1).1))
  (mixed + most + spin (at' 0).1 [2, 13, 22], mixed + (at' 3).1)

/-- Word 16 of a schedule window, from words 0, 1, 9 and 14. -/
def shaExtend (w : List W32) : W32 :=
  let near := w.getD 1 0
  let far := w.getD 14 0
  w.getD 0 0 + (spin near [7, 18] ^^^ near >>> 3) + w.getD 9 0 + (spin far [17, 19] ^^^ far >>> 10)

/-- One term for each constant; the window slides by one word. -/
def shaTerms (keys : List W32) (window : List W32) (h : ShaSeq) : ShaSeq :=
  (keys.foldl (fun (acc : List W32 × ShaSeq) key =>
    (acc.1.drop 1 ++ [shaExtend acc.1], shaTerm acc.2 key (acc.1.headD 0) :: acc.2.take 3)) (window, h)).2

/-- Word `i` of a block, its first byte the most significant. -/
def beWord (blk : List Byte) (i : Nat) : W32 :=
  ((blk.drop (4 * i)).take 4).foldl (fun v b => v <<< 8 ||| b.zeroExtend 32) 0

/-- A block is taken in: its terms are added to the sequences, term by term. -/
def shaAbsorb (h : ShaSeq) (blk : List Byte) : ShaSeq :=
  let keys := shaPrimes.map (rootFraction 3)
  List.zipWith (fun x y => (x.1 + y.1, x.2 + y.2)) h (shaTerms keys ((List.range 16).map (beWord blk)) h)

/-- The big-endian bytes of a natural number, n of them. -/
def beBytes : Nat → Nat → List Byte
  | 0, _ => []
  | n + 1, x => BitVec.ofNat 8 (x / 256 ^ n) :: beBytes n x

/-- SHA-256 of a list of bytes, 32 bytes. The first value of the sequences: the square roots of the first eight primes,
four for each. -/
def sha256 (m : List Byte) : List Byte :=
  let fill := 63 - (m.length + 8) % 64
  let whole := m ++ 0x80 :: (List.replicate fill 0 ++ beBytes 8 (8 * m.length))
  let roots := (shaPrimes.take 8).map (rootFraction 2)
  let last := (List.range (whole.length / 64)).foldl (fun h i => shaAbsorb h ((whole.drop (64 * i)).take 64))
    (List.zip (roots.take 4) (roots.drop 4))
  (last.map Prod.fst ++ last.map Prod.snd).flatMap fun w => beBytes 4 w.toNat

end Sys2Proof.Machine
end

