-- ==== Sys2Proof/Machine/LaneCore.lean ====
section
/-! DEFINITION. What every lane instruction shares: the registers it names (R74, R193), budget, guard and checks
(R23, R24, R75, R79, R87), lookahead windows and last-use (R77, R78), lane faults and the abort they start (R135),
entry into the lane handler (R252, R253). -/

namespace Sys2Proof

open Machine

/-! ### Registers that an instruction names -/

/-- A register field: first register, block size, last-use bit. -/
structure Fld where
  r : RegNo
  n : Nat
  lu : Bool
  deriving DecidableEq, Repr, Inhabited

/-- The `v` registers and blocks in the fields VD, VA, VB and VC. -/
structure RegUse where
  d : Option Fld := none
  a : Option Fld := none
  b : Option Fld := none
  c : Option Fld := none
  deriving DecidableEq, Repr, Inhabited

def dstFld (r : RegNo) (n : Nat) : Option Fld := some ⟨r, n, false⟩
def srcFld (x : LSrc) (n : Nat) : Option Fld := some ⟨x.r, n, x.lu⟩

def LB.fld (n : Nat) : LB → Option Fld
  | .reg x => srcFld x n
  | .imm _ => none

def LB12.fld : LB12 → Option Fld
  | .reg x => srcFld x 1
  | .imm _ => none

def maskFld (m : Option LSrc) : Option Fld := m.bind fun x => srcFld x 1

/-- One register, or a pair. -/
def pairN (wide : Bool) : Nat := if wide then 2 else 1

def LRI.use (x : LRI) : RegUse := { d := dstFld x.vd 1, a := srcFld x.a 1, b := x.b.fld 1 }
def LRI3.use (x : LRI3) : RegUse := { d := dstFld x.vd 1, a := srcFld x.a 1, b := x.b.fld 1, c := srcFld x.c 1 }
def LR1.use (x : LR1) : RegUse := { d := dstFld x.vd 1, a := srcFld x.a 1 }
def LF1.use (x : LF1) : RegUse := { d := dstFld x.vd 1, a := srcFld x.a 1 }
def LF2.use (x : LF2) : RegUse := { d := dstFld x.vd 1, a := srcFld x.a 1, b := srcFld x.b 1 }
def LF3.use (x : LF3) : RegUse := { d := dstFld x.vd 1, a := srcFld x.a 1, b := srcFld x.b 1, c := srcFld x.c 1 }
def LFM.use (x : LFM) : RegUse := { d := dstFld x.vd 1, a := srcFld x.a 1, b := srcFld x.b 1 }
def LPk2.use (x : LPk2) : RegUse := { d := dstFld x.vd 1, a := srcFld x.a 1, b := srcFld x.b 1 }
def LPkM.use (x : LPkM) : RegUse := { d := dstFld x.vd 1, a := srcFld x.a 1, b := srcFld x.b 1 }
def LXchg.use (x : LXchg) : RegUse := { d := dstFld x.vd 1, a := srcFld x.a 1, c := maskFld x.m }
def LLoad.use (x : LLoad) (addr : Nat) : RegUse := { d := dstFld x.vd (pairN (x.w == 3)), a := srcFld x.a addr }
def LStore.use (x : LStore) (addr : Nat) : RegUse := { a := srcFld x.a addr, b := srcFld x.b (pairN (x.w == 3)) }

/-- The address field of an atomic: one register at CORE scope, else a pair (R228). -/
def atomAddrN (sc : Scope) : Nat := pairN (sc != .core)

/-- What each lane instruction names; empty for every other row. -/
def Instr.use : Instr → RegUse
  | .iadd x | .isub x | .imul x | .idiv x | .idivu x | .irem x | .iremu x | .imin x | .imax x | .iminu x
  | .imaxu x | .laneAnd x | .laneOr x | .laneXor x | .laneAndn x | .laneShl x | .laneShr x | .laneSar x
  | .rotr x | .bfe x => x.use
  | .imulh x => { d := dstFld x.vd 1, a := srcFld x.a 1, b := x.b.fld 1 }
  | .imad x | .bfi x => x.use
  | .iadd64 x => { d := dstFld x.vd 2, a := srcFld x.a 2, b := x.b.fld 2 }
  | .iabs x | .ineg x | .lanePopc x | .laneClz x | .brev x | .laneMov x | .qcnt x => x.use
  | .ltop x => x.use
  | .bitfn x => { d := dstFld x.vd 1, a := srcFld x.a 1, b := srcFld x.b 1, c := srcFld x.c 1 }
  | .permb x => { d := dstFld x.vd 1, a := srcFld x.a 4, b := srcFld x.b 1 }
  | .laneSel x => { d := dstFld x.vd 1, a := srcFld x.a 1, b := x.b.fld 1 }
  | .icmp x => { a := srcFld x.a 1, b := x.b.fld }
  | .fcmp x => { a := srcFld x.a 1, b := srcFld x.b 1 }
  | .pmovToRegister x => { d := dstFld x.vd 1 }
  | .pmovToPredicates x => { a := srcFld x.a 1 }
  | .fadd x | .fsub x | .fmul x | .fdiv x => x.use
  | .ffma x => x.use
  | .fmin x | .fmax x => x.use
  | .fsqrt x | .frcp x | .frsq x | .fexp2 x | .flog2 x | .ftanh x => x.use
  | .pkadd x | .pkmul x => x.use
  | .pkfma x => { d := dstFld x.vd 1, a := srcFld x.a 1, b := srcFld x.b 1, c := srcFld x.c 1 }
  | .pkmin x | .pkmax x => x.use
  | .cvt x => { d := dstFld x.vd 1, a := srcFld x.a 1 }
  | .cvtpk x => { d := dstFld x.vd 1, a := srcFld x.a 1, b := srcFld x.b 1, c := maskFld x.c }
  | .cvtunpk x => { d := dstFld x.vd 2, a := srcFld x.a 1 }
  | .pwenc x => { d := dstFld x.vd 1, a := srcFld x.a 1, b := srcFld x.b 1, c := srcFld x.c 1 }
  | .pwdec x => { d := dstFld x.vd 1, a := srcFld x.a 1, b := srcFld x.b 1 }
  | .idp4 x => { d := dstFld x.vd 1, a := srcFld x.a 1, b := srcFld x.b 1, c := srcFld x.c 1 }
  | .fdp2 x => { d := dstFld x.vd 1, a := srcFld x.a 1, b := srcFld x.b 1, c := srcFld x.c 1 }
  | .movi x => { d := dstFld x.vd 1 }
  | .movhi x => { d := dstFld x.vd 1, a := srcFld x.a 1 }
  | .sread x => { d := dstFld x.vd 1 }
  | .xpair x | .xback x | .xfwd x | .xone x => x.use
  | .xpick x => { d := dstFld x.vd 1, a := srcFld x.a 1, b := srcFld x.b 1, c := maskFld x.m }
  | .poll x => { d := if x.mode = 0 ∨ x.mode = 3 then dstFld x.vd 1 else none, c := maskFld x.m }
  | .red x => { d := dstFld x.vd 1, a := srcFld x.a 1, c := maskFld x.m }
  | .brx x | .laneRet x => { a := srcFld x.a 2 }
  | .laneCall x => { d := dstFld x.vd 2 }
  | .rep x => { a := match x.cnt with | .reg r => srcFld r 1 | .imm _ => none }
  | .ld x => x.use 2
  | .laneLdk x | .ldp x | .ldc x => x.use 1
  | .st x => x.use 2
  | .laneStk x | .stp x => x.use 1
  | .atom x =>
    { d := dstFld x.vd (pairN x.w64), a := srcFld x.a (atomAddrN x.scope), b := srcFld x.b (pairN x.w64) }
  | .atomcas x =>
    { d := dstFld x.vd (pairN x.w64), a := srcFld x.a (atomAddrN x.scope), b := srcFld x.b (pairN x.w64),
      c := srcFld x.c (pairN x.w64) }
  | .laneBarv x => { d := dstFld x.vd 1, a := srcFld x.a (pairN x.dev) }
  | .laneBwait x => { a := srcFld x.a (pairN x.dev), b := srcFld x.b 1 }
  | .laneBtry x => { a := srcFld x.a (pairN x.dev), b := srcFld x.b 1 }
  | .qpush x => { a := srcFld x.a 1, b := srcFld x.b (2 ^ x.sz.toNat), c := maskFld x.m }
  | .qpop x => { d := dstFld x.vd (2 ^ x.sz.toNat), a := srcFld x.a 1, c := maskFld x.m }
  | .qend x => { a := srcFld x.a 1 }
  | .lmma x => { d := dstFld x.vd 1, a := srcFld x.a 1, b := srcFld x.b 1, c := maskFld x.m }
  | .dqpop x => { d := dstFld x.vd 6 }
  | .rng x => { d := dstFld x.vd 4, a := srcFld x.a 4, b := srcFld x.b 2 }
  | .ctradd x =>
    { d := dstFld x.vd 4, a := srcFld x.a 4,
      b := match x.b with | .reg r wide => srcFld r (pairN wide) | .imm _ => none }
  | .mstep x => { a := srcFld x.a 4 }
  | _ => {}

/-- The instructions that close every open window (R77). -/
def Instr.closes : Instr → Bool
  | .bra _ | .brx _ | .laneCall _ | .laneRet _ | .retTr _ | .exit _ | .yield _ | .laneNop _ | .rep _
  | .laneBarv _ | .laneBwait _ | .laneBtry _ | .xpair _ | .xpick _ | .xback _ | .xfwd _ | .xone _ | .poll _ | .red _
  | .qpush _ | .qpop _ | .lmma _ | .laneTrap _ | .brk _ => true
  | _ => false

def Fld.regs (f : Fld) : List Nat := (List.range f.n).map (· + f.r.val)

def RegUse.srcs (u : RegUse) : List Fld := u.a.toList ++ u.b.toList ++ u.c.toList
def RegUse.dsts (u : RegUse) : List Nat := (u.d.map Fld.regs).getD []
def RegUse.named (u : RegUse) : List Nat := (u.d.toList ++ u.srcs).flatMap Fld.regs

def LHead.holds (h : LHead) (p : BitVec 8) : Bool := (h.g.val == 7 || p.getLsbD h.g.val) != h.neg

end Sys2Proof

namespace Sys2Proof.Machine

open Sys2Proof

/-! ### Threads and what they issue -/

/-- A thread of a core. -/
structure TRef where
  c : CoreNo
  lane : Nat
  slot : Nat
  deriving DecidableEq, Repr, Inhabited

def State.threadOf (s : State) (t : TRef) : Option Thread := s.thread t.c t.lane t.slot

def State.onThread (s : State) (t : TRef) (f : Thread → Thread) : State := s.updThread t.c t.lane t.slot f

def TRef.agent (t : TRef) : Agent := .thread t.lane t.slot

/-- The lane word that the instruction cache holds for an address (R279). -/
def State.laneWord (s : State) (c : CoreNo) (pc : W64) : Option W64 :=
  ((s.core c).mem.icache.find? fun e => e.1 == pc.toNat).map Prod.snd

/-! ### Registers of a thread -/

def Thread.reg (th : Thread) (r : Nat) : W32 := (th.v[r]?).getD 0

def Thread.isFull (th : Thread) (r : Nat) : Bool := th.full.getLsbD r

/-- Write a register: it becomes FULL (R24), and holds no status word any more. -/
def Thread.put (th : Thread) (r : Nat) (x : W32) : Thread :=
  { th with v := th.v.setIfInBounds r x, full := th.full ||| (1#64 <<< r), status := th.status &&& ~~~ (1#64 <<< r) }

/-- Release a register: it becomes EMPTY (R24). -/
def Thread.drop (th : Thread) (r : Nat) : Thread := { th with full := th.full &&& ~~~ (1#64 <<< r) }

def Thread.putAll (th : Thread) (r : Nat) : List W32 → Thread
  | [] => th
  | x :: xs => (th.put r x).putAll (r + 1) xs

/-- A write of `n` registers from `r` on: the words of the register pool that it writes whole hold no poison (R285; log
entry 77). -/
def Thread.mend (th : Thread) (r n : Nat) : Thread :=
  { th with poison := (wholeUnits 2 r n).foldl (fun p u => p &&& ~~~ (1#32 <<< u)) th.poison }

/-- A FULL register of these lies in a poisoned word. -/
def Thread.readsPoison (th : Thread) (regs : List Nat) : Bool :=
  regs.any fun r => th.isFull r && th.poison.getLsbD (r / 2)

def Thread.pred (th : Thread) (p : PredNo) : Bool := p.val == 7 || th.p.getLsbD p.val

def LPend.covers (p : LPend) (r : Nat) : Bool := decide (p.dst.val ≤ r) && decide (r < p.dst.val + p.n)

/-- The result that is still to be written into a register (R77). -/
def Thread.owed (th : Thread) (r : Nat) : Option LPend := th.pend.find? fun p => !p.arrived && p.covers r

/-- The register lies in an open window, its result arrived or not (R79). -/
def Thread.inWindow (th : Thread) (r : Nat) : Bool := th.pend.any fun p => decide (0 < p.win) && p.covers r

/-- Every outstanding result of the thread is written. -/
def Thread.settled (th : Thread) : Bool := th.pend.all LPend.arrived

/-- The value that a pending result will have, where it is already fixed. -/
def LPend.future (p : LPend) (r : Nat) : Option W32 :=
  match p.res with
  | .vals ws => ws[r - p.dst.val]?
  | .nested _ | .remote _ _ _ _ | .load _ => none

/-- Read one register: an EMPTY one gives an undefined value (R24); one in an open window gives the old value or the
result (R77). -/
def readReg (th : Thread) (r : Nat) (s : State) : W32 × State :=
  let old (s : State) : W32 × State := if th.isFull r then (th.reg r, s) else s.undef 32
  match (th.owed r).bind fun p => p.future r with
  | none => old s
  | some w =>
    let n := s.choice
    if n.1 = 0 then old n.2 else (w, n.2)

def readRegs (th : Thread) : List Nat → State → List W32 × State
  | [], s => ([], s)
  | r :: rs, s =>
    let x := readReg th r s
    let y := readRegs th rs x.2
    (x.1 :: y.1, y.2)

def readFld (th : Thread) (f : Option Fld) (s : State) : List W32 × State :=
  match f with
  | some f => readRegs th f.regs s
  | none => ([], s)

/-! ### What an instruction leaves in its thread -/

/-- Results: registers, predicates, flags, a late result, a branch target. -/
structure LaneRes where
  regs : List (RegNo × List W32) := []
  preds : List (PredNo × Bool) := []
  flags : Flags6 := 0
  late : Option (RegNo × Nat × LRes) := none
  lateFlags : Flags6 := 0
  goto : Option W64 := none
  deriving DecidableEq, Repr, Inhabited

/-- Release the last-use sources: at once, or after an outstanding result is written (R78). -/
def Thread.release (th : Thread) (u : RegUse) : Thread :=
  ((u.srcs.filter Fld.lu).flatMap Fld.regs).foldl (fun th r =>
    match th.owed r with
    | some _ =>
      let mark (p : LPend) : LPend :=
        if !p.arrived && p.covers r then { p with release := p.release ++ [Fin.ofNat 64 r] } else p
      { th with pend := th.pend.map mark }
    | none => th.drop r) th

/-- One more instruction counts in every open window; a window that closes after its result is gone (R77). -/
def Thread.countWindows (th : Thread) : Thread :=
  let pend := (th.pend.map fun p => { p with win := p.win - 1 }).filter fun p => !(p.arrived && p.win == 0)
  { th with pend := pend }

/-- On to the next iteration of an active repeat, or to the next instruction (R220). -/
def Thread.next (th : Thread) (goto : Option W64) : Thread :=
  match th.rep with
  | some r =>
    if r.j + 1 < r.n then { th with rep := some { r with j := r.j + 1 } }
    else { th with rep := none, pc := th.pc + 16 }
  | none => { th with pc := goto.getD (th.pc + 8) }

/-- The instruction has issued with a true guard and these results. -/
def Thread.retire (th : Thread) (i : Instr) (r : LaneRes) : Thread :=
  let la := match i.laneHead with
    | some h => h.la.toNat
    | none => 0
  let th := if i.closes then { th with pend := [] } else th
  let th := (th.release i.use).countWindows
  let th := r.regs.foldl (fun th x => (th.putAll x.1.val x.2).mend x.1.val x.2.length) th
  let th := { th with p := r.preds.foldl (fun p (x : PredNo × Bool) => predSet p x.1 x.2) th.p, flags := th.flags ||| r.flags,
                      park := .none }
  let late : List LPend := match r.late with
    | some (d, n, res) => [{ dst := d, n := n, res := res, fl := r.lateFlags, win := la, arrived := false, release := [] }]
    | none => []
  ({ th with pend := th.pend ++ late }).next r.goto

/-- The instruction has issued with a false guard: no effect but the next PC and the count in windows (R75). One of R77's
list closes the windows all the same, and waits before it for what is outstanding: R77 makes no exception for a guard,
R75 and R221 name no effect of an instruction whose guard is false (log entry 75, the model's choice). -/
def Thread.pass (th : Thread) (i : Instr) : Thread :=
  ((if i.closes then { th with pend := [] } else th).countWindows).next none

/-! ### Lane faults and the abort of a team (R135) -/

/-- Threads of a team. -/
def Core.teamThreads (k : Core) (op : Nat) : List (Nat × Nat × Thread) := k.threads.filter fun x => x.2.2.team == op

/-- Withdraw what a thread waits for: its access, or the fetch of its next word. -/
def Core.unparkThread (k : Core) (lane slot : Nat) (p : Park) : Core :=
  match p with
  | .walking => { k with walks := k.walks.filter fun w => w.who != .thread lane slot && w.who != .fetch lane slot }
  | .waiting key _ => { k with fb := fbWithdraw key k.fb }
  | .none | .retry | .failed _ => k

/-- The thread stops for good: what it waits for will never come (R135). -/
def Thread.stop (th : Thread) : Thread := { th with wait := .faulted, park := .none }

/-- From an abort on, a thread parked for a replayable fault counts as parked: its access is withdrawn (R135). -/
def Core.withdrawTeam (k : Core) (op : Nat) : Core :=
  (k.teamThreads op).foldl (fun k x =>
    match x.2.2.park with
    | .none | .retry | .walking | .failed _ => k
    | .waiting _ _ => (k.unparkThread x.1 x.2.1 x.2.2.park).setThread x.1 x.2.1 (some x.2.2.stop)) k

/-- Record a fault of a team, the first one to be reported, and start its abort. -/
def Core.abortTeam (k : Core) (op : Nat) (st : OpStatus) : Core :=
  (k.updTeam op fun t => { t with fault := some (t.fault.getD st), aborting := true }).withdrawTeam op

/-- The word at a thread's PC, which it has fetched: from the instruction cache, or, where that no longer holds it, the
instruction that the thread waits at, or the word in memory (R253, R322). Where the cache was filled again with changed
code after the thread arrived, the cache's word is given (R279 leaves code stores incoherent; log entry 75, the model's
choice). -/
def State.wordAt (s : State) (t : TRef) (th : Thread) : W64 :=
  match s.laneWord t.c th.pc, th.wait with
  | some w, _ => w
  | none, .coll a => (encode a.ins).headD 0
  | none, _ =>
    match s.xlate (s.core t.c).ctx th.pc .fetch with
    | .ok p => BitVec.ofNat 64 (s.dev.word p.pa 8)
    | .error _ => 0

/-- The lane part of a fault record (R322): LANEPC and WORD are the thread's PC and the word there. -/
def State.laneWhere (s : State) (t : TRef) (th : Thread) : LaneWhere :=
  { lane := t.lane, slot := t.slot, pc := th.pc, word := s.wordAt t th, rep := th.rep.map Rep.j }

/-- A lane fault that does not replay: the thread parks and its team is aborted (R135). -/
def laneFault (t : TRef) (cause : Cause) (addr detail : W64) (s : State) : State :=
  match s.threadOf t with
  | none => s
  | some th =>
    let st : OpStatus := { cause := cause, addr := addr, detail := detail, lane := some (s.laneWhere t th) }
    (s.onThread t Thread.stop).updCore t.c fun k => k.abortTeam th.team st

/-! ### The lane handler (R252 to R254) -/

/-- The handler of the context on a core; 0 for none. -/
def State.laneHandler (s : State) (c : CoreNo) : W64 :=
  match s.ctx? (s.core c).ctx with
  | some x => x.lanehnd
  | none => 0

/-- The causes of R253. -/
inductive HandlerCause where
  | illegalLane | rangeLock | software | breakpoint
  deriving DecidableEq, Repr, Inhabited

def HandlerCause.code : HandlerCause → Byte
  | .illegalLane => 1 | .rangeLock => 2 | .software => 3 | .breakpoint => 4

def HandlerCause.cause : HandlerCause → Cause
  | .illegalLane => .illegalLane | .rangeLock => .rangeLock | .software => .software | .breakpoint => .breakpoint

def frameAddr (slot : Nat) : Nat := 0x700 + 64 * slot

/-- `v0` to `v3` as a frame saves them: 0 for EMPTY. -/
def Thread.saved (th : Thread) (r : Nat) : W32 := if th.isFull r then th.reg r else 0

/-- The 64 bytes of a trap frame (R253). -/
def frameBytes (th : Thread) (h : HandlerCause) (word addr : W64) (code : BitVec 16) : List Byte :=
  let resume := if h = .rangeLock then th.pc else th.pc + 8
  leBytes 8 resume.toNat ++ leBytes 8 th.pc.toNat ++ leBytes 8 word.toNat ++
    leBytes 8 (if h = .rangeLock then addr.toNat else 0) ++
    leBytes 4 (if h = .software then code.toNat else 0) ++ [h.code, (th.full.extractLsb' 0 4).zeroExtend 8] ++
    leBytes 2 0 ++ (List.range 4).flatMap (fun r => leBytes 4 (th.saved r).toNat) ++ leBytes 8 0

/-- The thread waits for a nested op's status word that will never be written (R135, R250). -/
def Core.orphaned (k : Core) (th : Thread) (regs : List Nat) : Bool :=
  regs.any fun r =>
    match th.owed r with
    | some p =>
      match p.res with
      | .nested op => (k.op? op).isNone
      | .vals _ | .remote _ _ _ _ | .load _ => false
    | none => false

/-- Registers whose results are outstanding. -/
def Thread.owing (th : Thread) : List Nat := (List.range 64).filter fun r => (th.owed r).isSome

/-- What issue in one thread answers: whether the thread holds its whole subset back, so that nothing issues (R214),
and the state: with the effect, or, of a thread that holds back, with the page walk that it has begun. -/
abbrev Issued := Bool × State

/-- Wait for the results of some registers: the subset is held back, but a thread that waits for a faulted nested op
stops there (R135, R250). -/
def awaitRegs (t : TRef) (th : Thread) (regs : List Nat) (s : State) : Issued :=
  if (s.core t.c).orphaned th regs then (false, s.onThread t Thread.stop) else (true, s)

/-- Enter the handler (R252), once every outstanding result of the thread is written. That closes every open window: no
other thing R252 and R253 save tells of one (log entry 59). -/
def enterHandler (t : TRef) (h : HandlerCause) (addr : W64) (code : BitVec 16) (s : State) : Issued :=
  match s.threadOf t with
  | none => (false, s)
  | some th =>
    if th.settled = false then awaitRegs t th th.owing s
    else if th.readsPoison [0, 1, 2, 3] then (false, laneFault t .memoryError 0 0 s)
    else
      let frame := frameBytes th h (s.wordAt t th) addr code
      let s := s.updCore t.c fun k => k.pwrite t.lane (frameAddr t.slot) frame
      (false, s.onThread t fun th =>
        { th.put 0 (BitVec.ofNat 32 (frameAddr t.slot)) with
          pend := [], park := .none, wait := .none, pc := s.laneHandler t.c })

/-- ILLEGAL_LANE, SOFTWARE and BREAKPOINT: the handler, or a lane fault of that name when none is installed (R254). -/
def laneTrapTo (t : TRef) (h : HandlerCause) (code : BitVec 16) (s : State) : Issued :=
  if s.laneHandler t.c = 0 then (false, laneFault t h.cause 0 0 s) else enterHandler t h 0 code s

/-- A range lock: the handler outside a repetition, else a wait (R221, R225). -/
def laneLock (t : TRef) (addr : W64) (s : State) : Issued :=
  match s.threadOf t with
  | none => (false, s)
  | some th =>
    if s.laneHandler t.c = 0 ∨ th.rep.isSome then (true, s) else enterHandler t .rangeLock addr 0 s

/-! ### Issue of one instruction in one thread -/

/-- What the meaning of an instruction sees. -/
structure LaneIn where
  t : TRef
  th : Thread
  team : Team
  a : List W32
  b : List W32
  c : List W32
  deriving DecidableEq, Repr, Inhabited

/-- What it answers: results; a state in which the thread has issued and not gone on; a wait, with the page walk that the
thread has begun; a fault; a broken range lock. -/
inductive LaneOut where
  | ok (s : State) (r : LaneRes)
  | done (s : State)
  | hold (s : State)
  | fault (s : State) (cause : Cause) (addr detail : W64)
  | lock (s : State) (addr : W64)

/-- The meaning of an instruction in one thread whose guard is true. -/
abbrev LaneFn := LaneIn → State → LaneOut

/-- The registers whose results the instruction must wait for: sources whose window has closed, destinations, and
every outstanding result for an instruction that closes windows (R77). -/
def Thread.awaits (th : Thread) (i : Instr) : List Nat :=
  if i.closes then th.owing
  else
    ((i.use.srcs.flatMap Fld.regs).filter fun r =>
      match th.owed r with
      | some p => p.win == 0
      | none => false) ++ i.use.dsts.filter fun r => (th.owed r).isSome

/-- The checks of R87 after the guard, under CHECK: LOOKAHEAD_READ, then EMPTY_READ. An instruction that closes every
window (R77) does so before its own reads, which so never take LOOKAHEAD_READ (log entry 75, the model's choice). -/
def Thread.checkFault (th : Thread) (i : Instr) : Option Cause :=
  let regs := i.use.srcs.flatMap Fld.regs
  if !i.closes && regs.any th.inWindow then some .lookaheadRead
  else if regs.any fun r => !th.isFull r && (th.owed r).isNone then some .emptyRead
  else none

/-- A thread that reads the status word of a nested op acquires at CORE (R250, R265). -/
def State.readStatus (s : State) (t : TRef) (th : Thread) (regs : List Nat) : State :=
  if regs.any th.status.getLsbD then s.acquire t.c t.agent .core else s

/-- Read the sources and run the meaning. A poisoned source is a load of poisoned data (R285; log entry 77). -/
def laneBody (i : Instr) (f : LaneFn) (t : TRef) (th : Thread) (team : Team) (s : State) : Issued :=
  let regs := i.use.srcs.flatMap Fld.regs
  if th.readsPoison regs then (false, laneFault t .memoryError 0 0 s) else
  let a := readFld th i.use.a (s.readStatus t th regs)
  let b := readFld th i.use.b a.2
  let c := readFld th i.use.c b.2
  match f ⟨t, th, team, a.1, b.1, c.1⟩ c.2 with
  | .ok s r => (false, s.onThread t fun th => th.retire i r)
  | .done s => (false, s)
  | .hold s => (true, s)
  | .fault s cause addr detail => (false, laneFault t cause addr detail s)
  | .lock s addr => laneLock t addr s

/-- The waits of R77 before an instruction. -/
def laneAwait (i : Instr) (t : TRef) (th : Thread) (go : State → Issued) (s : State) : Issued :=
  let ws := th.awaits i
  if ws.isEmpty then go s else awaitRegs t th ws s

/-- Issue an instruction in one thread, in the order of R87: BUDGET, the guard, CHECK, then its own faults. -/
def laneOne (i : Instr) (f : LaneFn) (t : TRef) (s : State) : Issued :=
  match s.threadOf t with
  | none => (false, s)
  | some th =>
    match (s.core t.c).team? th.team with
    | none => (false, s)
    | some team =>
      let guard := match i.laneHead with
        | some h => h.holds th.p
        | none => true
      if i.use.named.any fun r => decide (team.entry.budget ≤ r) then (false, laneFault t .budget 0 0 s)
      else if guard = false then
        if i.closes && !th.settled then awaitRegs t th th.owing s else (false, s.onThread t fun th => th.pass i)
      else
        match if team.entry.check then th.checkFault i else none with
        | some cause => laneAwait i t th (fun s => (false, laneFault t cause 0 0 s)) s
        | none => laneAwait i t th (laneBody i f t th team) s

/-- Issue in every thread of the current subset in one cycle (R213), by `act`; where a thread must wait, nothing issues
(R214). -/
def subsetIssue (act : TRef → State → Issued) (s : State) : State :=
  let held := s.sched.issue.filter fun x => (act ⟨s.cur, x.1, x.2⟩ s).1
  if held.isEmpty then s.sched.issue.foldl (fun u x => (act ⟨s.cur, x.1, x.2⟩ u).2) s
  else held.foldl (fun u x =>
    let r := act ⟨s.cur, x.1, x.2⟩ u
    if r.1 then r.2 else u) s

/-- Issue an instruction in the current subset. -/
def laneAll (i : Instr) (f : LaneFn) (s : State) : State := subsetIssue (laneOne i f) s

/-- ILLEGAL_LANE in every thread of the subset, whatever the guard (R86). -/
def laneIllegal (s : State) : State := subsetIssue (fun t s => laneTrapTo t .illegalLane 0 s) s

/-! ### Operands of a meaning -/

def LaneIn.a0 (x : LaneIn) : W32 := x.a.headD 0
def LaneIn.b0 (x : LaneIn) : W32 := x.b.headD 0
def LaneIn.c0 (x : LaneIn) : W32 := x.c.headD 0

/-- A pair, low word first. -/
def wide (ws : List W32) : W64 := ws.getD 1 0 ++ ws.getD 0 0
def splitWide (w : W64) : List W32 := [w.extractLsb' 0 32, w.extractLsb' 32 32]

/-- One result register. -/
def out1 (d : RegNo) (x : W32) (fl : Flags6 := 0) : LaneRes := { regs := [(d, [x])], flags := fl }

/-- A result that comes late, and its flags with it (R65, R77). -/
def outLate (d : RegNo) (ws : List W32) (fl : Flags6 := 0) : LaneRes :=
  { late := some (d, ws.length, .vals ws), lateFlags := fl }

/-- LONG_LATENCY_RESULT: the result is written, then the releases that waited for it (R78). -/
def Thread.arrive (th : Thread) (k : Nat) (ws : List W32) : Thread :=
  match th.pend[k]? with
  | none => th
  | some p =>
    let th := p.release.foldl (fun th r => th.drop r.val) ((th.putAll p.dst.val ws).mend p.dst.val ws.length)
    let pend := (th.pend.set k { p with arrived := true, release := [] }).filter fun p => !(p.arrived && p.win == 0)
    { th with pend := pend, flags := th.flags ||| p.fl }

end Sys2Proof.Machine
end

