-- ==== Sys2Proof/Machine/Trans.lean ====
section
/-! DEFINITION. The correctly rounded transcendental functions 2^a, log2 a and tanh a (R202, R203).
Each is enclosed in an interval of scaled integers, so that the truncated value handed to the one
rounding is exact with a nonzero remainder. -/

namespace Sys2Proof.Machine

/-- A pair of bounds lo ≤ x ≤ hi, both scaled by 2^P. -/
structure Encl where
  lo : Nat
  hi : Nat
  deriving DecidableEq, Repr, Inhabited

def Encl.mul (p : Nat) (a b : Encl) : Encl := ⟨a.lo * b.lo / 2 ^ p, a.hi * b.hi / 2 ^ p + 1⟩
def Encl.sqrt (p : Nat) (a : Encl) : Encl := ⟨isqrt (a.lo * 2 ^ p), isqrt (a.hi * 2 ^ p) + 1⟩
def Encl.divNat (a : Encl) (k : Nat) : Encl := ⟨a.lo / k, a.hi / k + 1⟩
def Encl.add (a b : Encl) : Encl := ⟨a.lo + b.lo, a.hi + b.hi⟩

/-- The truncated magnitude of an enclosed irrational value: (m, exponent), the value lying strictly
between m and m + 1 times 2^exponent. The dropped low bits are those on which the bounds disagree. -/
def Encl.trunc (p : Nat) (a : Encl) : Nat → Nat × Int
  | 0 => (a.lo, -(p : Int))
  | k + 1 =>
    let s := 400 - 8 * (k + 1)
    if a.lo / 2 ^ s = a.hi / 2 ^ s then (a.lo / 2 ^ s, (s : Int) - p) else Encl.trunc p a k

/-- Product of 2^(2^-i) over the set bits of a binary fraction, from its top bit down: `bits` is the
fraction scaled by 2^n, `root` encloses 2^(2^-i) for the current bit. -/
def exp2Frac (p bits : Nat) : Nat → Encl → Encl → Encl
  | 0, _, acc => acc
  | n + 1, root, acc =>
    let root := root.sqrt p
    exp2Frac p bits n root (if bits / 2 ^ n % 2 = 1 then acc.mul p root else acc)

/-- 2^a for a finite a (R203). -/
def FFmt.exp2 (f : FFmt) (rm : RMode) (ftz : Bool) (a : FVal) : FRes :=
  match a with
  | .nan s => f.nanRes s
  | .inf n => if n then f.zeroRes false else f.infRes false 0
  | .fin n m e =>
    if m = 0 then f.finish rm ftz false 1 0 false
    else if 8 ≤ (Nat.log2 m : Int) + e then
      -- |a| ≥ 256: far beyond the range on either side; the exact value is 2^(±1000…), not a tie
      (if n then f.finish rm ftz false 1 (-1000) true else f.finish rm ftz false 1 1000 true)
    else
      let w := (-e).toNat              -- fraction bits of a
      let num := m * 2 ^ e.toNat       -- |a| scaled by 2^w
      let ip := num / 2 ^ w
      let fp := num % 2 ^ w
      let (k, frac) : Int × Nat :=
        if n then (if fp = 0 then (-(ip : Int), 0) else (-(ip : Int) - 1, 2 ^ w - fp)) else ((ip : Int), fp)
      if frac = 0 then f.finish rm ftz false 1 k false
      else
        let p := 400
        let c := exp2Frac p frac w ⟨2 * 2 ^ p, 2 * 2 ^ p⟩ ⟨2 ^ p, 2 ^ p⟩
        let t := c.trunc p 49
        f.finish rm ftz false t.1 (t.2 + k) true

/-- Bits of log2 y for y in [1, 2): squaring `n` times; `acc` gathers the bits. -/
def log2Bits (p : Nat) : Nat → Encl → Nat → Nat
  | 0, _, acc => acc
  | n + 1, y, acc =>
    let y := y.mul p y
    if 2 * 2 ^ p ≤ y.lo then log2Bits p n ⟨y.lo / 2, y.hi / 2 + 1⟩ (2 * acc + 1)
    else log2Bits p n y (2 * acc)

/-- log2 a (R203). -/
def FFmt.log2 (f : FFmt) (rm : RMode) (ftz : Bool) (a : FVal) : FRes :=
  match a with
  | .nan s => f.nanRes s
  | .inf n => if n then f.nanRes true else f.infRes false 0
  | .fin n m e =>
    if m = 0 then f.infRes true fDivZero
    else if n then f.nanRes true
    else
      let l := Nat.log2 m
      let k : Int := (l : Int) + e
      if m = 2 ^ l then
        (if k = 0 then f.zeroRes false else f.finish rm ftz (decide (k < 0)) k.natAbs 0 false)
      else
        let p := 400
        let y := m * 2 ^ (p - l)
        let nb := 128
        let fr := log2Bits p nb ⟨y, y⟩ 0
        let t : Int := k * 2 ^ nb + fr       -- the value lies strictly between t and t + 1, times 2^-nb
        if 0 ≤ t then f.finish rm ftz false t.toNat (-(nb : Int)) true
        else f.finish rm ftz true (-t - 1).toNat (-(nb : Int)) true

/-- The Taylor sum of e^x for x enclosed and below 1/8, `n` further terms from term number i. -/
def expTaylor (p : Nat) (x : Encl) : Nat → Nat → Encl → Encl → Encl
  | 0, _, _, acc => ⟨acc.lo, acc.hi + 2 ^ 8⟩
  | n + 1, i, term, acc =>
    let term := (term.mul p x).divNat i
    expTaylor p x n (i + 1) term (acc.add term)

/-- Squaring n times. -/
def squareTimes (p : Nat) : Nat → Encl → Encl
  | 0, y => y
  | n + 1, y => squareTimes p n (y.mul p y)

/-- tanh a (R203). -/
def FFmt.tanh (f : FFmt) (rm : RMode) (ftz : Bool) (a : FVal) : FRes :=
  match a with
  | .nan s => f.nanRes s
  | .inf n => f.finish rm ftz n 1 0 false
  | .fin n m e =>
    if m = 0 then f.zeroRes n
    else
      let top := (Nat.log2 m : Int) + e
      if top < -45 then f.finish rm ftz n (m * 2 ^ 64 - 1) (e - 64) true
      else if 6 ≤ top then f.finish rm ftz n (2 ^ 100 - 1) (-100) true
      else
        let p : Nat := 480
        -- x = 2|a| / 2^12, scaled by 2^p
        let x := m * 2 ^ ((p : Int) + 1 - 12 + e).toNat
        let one : Encl := ⟨2 ^ p, 2 ^ p⟩
        let y := expTaylor p ⟨x, x⟩ 90 1 one one
        let ex := squareTimes p 12 y
        let lo := (ex.lo - 2 ^ p) * 2 ^ p / (ex.lo + 2 ^ p)
        let hi := (ex.hi - 2 ^ p) * 2 ^ p / (ex.hi + 2 ^ p) + 1
        let t := (Encl.mk lo hi).trunc p 49
        f.finish rm ftz n t.1 t.2 true

end Sys2Proof.Machine
end

