-- ==== Sys2Proof/Machine/LaneAlu.lean ====
section
/-! DEFINITION. Lane arithmetic without memory: integer, logic and bits, compares and predicates, FP32, packed,
conversions, dot products, moves, random numbers (R192 to R210). -/

namespace Sys2Proof

open Machine

/-- Immediate B of the integer group (R194) and of the logic group (R195). -/
def LB.sx : LB → W32 → W32
  | .reg _, b => b
  | .imm i, _ => i.signExtend 32

def LB.zx : LB → W32 → W32
  | .reg _, b => b
  | .imm i, _ => i.zeroExtend 32

end Sys2Proof

namespace Sys2Proof.Machine

open Sys2Proof

/-- A short instruction with one result register and no flag. -/
def laneOp1 (d : RegNo) (f : LaneIn → W32) : LaneFn := fun i s => .ok s (out1 d (f i))

/-- A result with flags. -/
def laneFl (d : RegNo) (f : LaneIn → FRes) : LaneFn := fun i s =>
  let r := f i
  .ok s (out1 d (BitVec.ofNat 32 r.bits) r.flags)

/-- A late result with flags. -/
def laneFlLate (d : RegNo) (f : LaneIn → FRes) : LaneFn := fun i s =>
  let r := f i
  .ok s (outLate d [BitVec.ofNat 32 r.bits] r.flags)

/-- A result predicate. -/
def lanePred (d : PredNo) (f : LaneIn → Bool) : LaneFn := fun i s => .ok s { preds := [(d, f i)] }

/-! ### Integer (R194) -/

def laneIadd (x : LRI) : LaneFn := laneOp1 x.vd fun i => i.a0 + x.b.sx i.b0
def laneIsub (x : LRI) : LaneFn := laneOp1 x.vd fun i => i.a0 - x.b.sx i.b0
def laneImul (x : LRI) : LaneFn := laneOp1 x.vd fun i => i.a0 * x.b.sx i.b0
def laneImulh (x : LMulh) : LaneFn := laneOp1 x.vd fun i =>
  let b := x.b.sx i.b0
  if x.u then mulHi32 i.a0 b else BitVec.ofInt 32 (i.a0.toInt * b.toInt / 2 ^ 32)
def laneImad (x : LRI3) : LaneFn := laneOp1 x.vd fun i => i.a0 * x.b.sx i.b0 + i.c0
def laneIadd64 (x : LRI) : LaneFn := fun i s =>
  let b : W64 := match x.b with
    | .reg _ => wide i.b
    | .imm v => v.signExtend 64
  .ok s { regs := [(x.vd, splitWide (wide i.a + b))] }

/-- A division: late, DIVZERO beside the result, or the fault DIV_ZERO under DZTRAP (R66, R323). -/
def laneDiv (f : W32 → W32 → W32) (x : LRI) : LaneFn := fun i s =>
  let b := x.b.sx i.b0
  if b = 0 ∧ i.team.entry.dztrap then .fault s .divZero 0 (i.a0.zeroExtend 64)
  else .ok s (outLate x.vd [f i.a0 b] (divFlag b.toNat))

def laneIdiv (x : LRI) : LaneFn := laneDiv (divS 32) x
def laneIdivu (x : LRI) : LaneFn := laneDiv (divU 32) x
def laneIrem (x : LRI) : LaneFn := laneDiv (remS 32) x
def laneIremu (x : LRI) : LaneFn := laneDiv (remU 32) x
def laneImin (x : LRI) : LaneFn := laneOp1 x.vd fun i => minS 32 i.a0 (x.b.sx i.b0)
def laneImax (x : LRI) : LaneFn := laneOp1 x.vd fun i => maxS 32 i.a0 (x.b.sx i.b0)
def laneIminu (x : LRI) : LaneFn := laneOp1 x.vd fun i => minU 32 i.a0 (x.b.sx i.b0)
def laneImaxu (x : LRI) : LaneFn := laneOp1 x.vd fun i => maxU 32 i.a0 (x.b.sx i.b0)
def laneIabs (x : LR1) : LaneFn := laneOp1 x.vd fun i => if i.a0.toInt < 0 then 0 - i.a0 else i.a0
def laneIneg (x : LR1) : LaneFn := laneOp1 x.vd fun i => 0 - i.a0

/-! ### Logic and bits (R195 to R197) -/

def laneAndF (x : LRI) : LaneFn := laneOp1 x.vd fun i => i.a0 &&& x.b.zx i.b0
def laneOrF (x : LRI) : LaneFn := laneOp1 x.vd fun i => i.a0 ||| x.b.zx i.b0
def laneXorF (x : LRI) : LaneFn := laneOp1 x.vd fun i => i.a0 ^^^ x.b.zx i.b0
def laneAndnF (x : LRI) : LaneFn := laneOp1 x.vd fun i => i.a0 &&& ~~~(x.b.zx i.b0)

/-- Three words looked up bit by bit, `a` the least significant index bit (R195). -/
def bitfnOf (lut : Byte) (a b c : W32) : W32 :=
  let side (t k : Nat) (v : W32) : W32 := if t / 2 ^ k % 2 = 1 then v else ~~~v
  (List.range 8).foldl (fun acc t =>
    if lut.getLsbD t then acc ||| (side t 0 a &&& side t 1 b &&& side t 2 c) else acc) 0

def laneBitfn (x : LBitfn) : LaneFn := laneOp1 x.vd fun i => bitfnOf x.lut i.a0 i.b0 i.c0
def laneShlF (x : LRI) : LaneFn := laneOp1 x.vd fun i => shlAll 32 i.a0 (x.b.zx i.b0)
def laneShrF (x : LRI) : LaneFn := laneOp1 x.vd fun i => shrAll 32 i.a0 (x.b.zx i.b0)
def laneSarF (x : LRI) : LaneFn := laneOp1 x.vd fun i => sarAll 32 i.a0 (x.b.zx i.b0)
def laneRotr (x : LRI) : LaneFn := laneOp1 x.vd fun i => i.a0.rotateRight ((x.b.zx i.b0).toNat % 32)
def lanePopcF (x : LR1) : LaneFn := laneOp1 x.vd fun i => BitVec.ofNat 32 (popOf i.a0 32)
def laneClzF (x : LR1) : LaneFn := laneOp1 x.vd fun i => BitVec.ofNat 32 (clzOf 32 i.a0)

def brevOf (a : W32) : W32 :=
  (List.range 32).foldl (fun acc k => if a.getLsbD (31 - k) then acc ||| (1#32 <<< k) else acc) 0

def laneBrev (x : LR1) : LaneFn := laneOp1 x.vd fun i => brevOf i.a0

/-- The field word of R196: position, length and sign. -/
def fieldPos (b : W32) : Nat := (b.extractLsb' 0 8).toNat
def fieldLen (b : W32) : Nat := Nat.min (b.extractLsb' 8 7).toNat 32

def bfeOf (a b : W32) : W32 :=
  let l := fieldLen b
  let sx := b.getLsbD 15
  let src : BitVec 288 := if sx then a.signExtend 288 else a.zeroExtend 288
  let v : W32 := ((src >>> fieldPos b).extractLsb' 0 32) <<< (32 - l)
  if l = 0 then 0 else if sx then v.sshiftRight (32 - l) else v >>> (32 - l)

def bfiOf (a b c : W32) : W32 :=
  let m : W32 := BitVec.ofNat 32 (2 ^ fieldLen b - 1) <<< fieldPos b
  (c &&& ~~~m) ||| ((a <<< fieldPos b) &&& m)

def laneBfe (x : LRI) : LaneFn := laneOp1 x.vd fun i => bfeOf i.a0 (x.b.zx i.b0)
def laneBfi (x : LRI3) : LaneFn := laneOp1 x.vd fun i => bfiOf i.a0 (x.b.zx i.b0) i.c0

def wordByte (w : W32) (k : Nat) : Byte := w.extractLsb' (8 * k) 8

/-- Byte lookups in a table of sixteen bytes (R197). -/
def permbOf (mode : BitVec 2) (tbl : List W32) (b : W32) : W32 :=
  let one (k : Nat) : Byte :=
    let x := wordByte b k
    let t := if mode = 1 then (x.extractLsb' 4 4).toNat else (x.extractLsb' 0 4).toNat
    if mode = 2 ∧ x.getLsbD 7 then 0 else wordByte (tbl.getD (t / 4) 0) (t % 4)
  one 3 ++ one 2 ++ one 1 ++ one 0

def lanePermb (x : LPermb) : LaneFn := laneOp1 x.vd fun i => permbOf x.mode i.a i.b0
def laneSelF (x : LSel) : LaneFn := laneOp1 x.vd fun i => if i.th.pred x.p then i.a0 else x.b.zx i.b0

/-! ### Compares and predicates (R198 to R201) -/

def LaneIn.comb (i : LaneIn) (p : PredNo) (neg : Bool) : Bool := i.th.pred p != neg

def laneIcmp (x : LIcmp) : LaneFn := lanePred x.pd fun i =>
  let b : W32 := match x.b with
    | .reg _ => i.b0
    | .imm v => v.signExtend 32
  condHolds x.cond i.a0 b && i.comb x.p x.pneg

/-- An FP32 operand (R46). -/
def f32 (ftz : Bool) (x : W32) : FVal := (fp32F.decode x.toNat).flush fp32F ftz

/-- Less than as numbers: zeros are equal. -/
def FVal.less (a b : FVal) : Bool := a.before b && !(a.isZero && b.isZero)

/-- The condition of R200 and its INVALID flag. -/
def fcmpOf (c : FCond) (a b : FVal) : Bool × Bool :=
  let nan := a.isNan || b.isNan
  let sig := a.isSig || b.isSig
  let eq := !nan && !a.less b && !b.less a
  match c with
  | .eq => (eq, sig)
  | .ne => (!eq, sig)
  | .lt => (!nan && a.less b, nan)
  | .le => (!nan && !b.less a, nan)
  | .gt => (!nan && b.less a, nan)
  | .ge => (!nan && !a.less b, nan)
  | .num => (!nan, sig)
  | .nan => (nan, sig)

def laneFcmp (x : LFcmp) : LaneFn := fun i s =>
  let r := fcmpOf x.cond (f32 x.ftz i.a0) (f32 x.ftz i.b0)
  .ok s { preds := [(x.pd, r.1 && i.comb x.p x.pneg)], flags := flagIf r.2 fInvalid }

def lanePredfn (x : LPredfn) : LaneFn := lanePred x.pd fun i =>
  x.lut.getLsbD ((i.th.pred x.pa).toNat + 2 * (i.th.pred x.pb).toNat + 4 * (i.th.pred x.pc).toNat)

def lanePmovToRegister (x : LPmovR) : LaneFn := laneOp1 x.vd fun i => (i.th.p ||| 0x80).zeroExtend 32

def lanePmovToPredicates (x : LPmovP) : LaneFn := fun i s =>
  .ok s { preds := (List.finRange 7).filterMap fun k =>
    if x.mask.getLsbD k.val then some (⟨k.val, by omega⟩, i.a0.getLsbD k.val) else none }

/-! ### FP32 (R202, R203) -/

def laneF1 (late : Bool) (f : RMode → Bool → FVal → FRes) (x : LF1) : LaneFn :=
  if late then laneFlLate x.vd fun i => f x.rm x.ftz (f32 x.ftz i.a0)
  else laneFl x.vd fun i => f x.rm x.ftz (f32 x.ftz i.a0)

def laneF2 (f : RMode → Bool → FVal → FVal → FRes) (x : LF2) : LaneFn :=
  laneFl x.vd fun i => f x.rm x.ftz (f32 x.ftz i.a0) (f32 x.ftz i.b0)

def laneFadd (x : LF2) : LaneFn := laneF2 fp32F.add x
def laneFsub (x : LF2) : LaneFn := laneF2 (fun rm z a b => fp32F.add rm z a b.neg) x
def laneFmul (x : LF2) : LaneFn := laneF2 fp32F.mul x
def laneFfma (x : LF3) : LaneFn :=
  laneFl x.vd fun i => fp32F.fma x.rm x.ftz (f32 x.ftz i.a0) (f32 x.ftz i.b0) (f32 x.ftz i.c0)
def laneFmin (x : LFM) : LaneFn := laneFl x.vd fun i => fp32F.minMax x.ftz false i.a0.toNat i.b0.toNat
def laneFmax (x : LFM) : LaneFn := laneFl x.vd fun i => fp32F.minMax x.ftz true i.a0.toNat i.b0.toNat
def laneFdiv (x : LF2) : LaneFn :=
  laneFlLate x.vd fun i => fp32F.div x.rm x.ftz (f32 x.ftz i.a0) (f32 x.ftz i.b0)
def laneFsqrt (x : LF1) : LaneFn := laneF1 true fp32F.sqrt x
def laneFrcp (x : LF1) : LaneFn := laneF1 true fp32F.rcp x
def laneFrsq (x : LF1) : LaneFn := laneF1 true fp32F.rsq x
def laneFexp2 (x : LF1) : LaneFn := laneF1 true fp32F.exp2 x
def laneFlog2 (x : LF1) : LaneFn := laneF1 true fp32F.log2 x
def laneFtanh (x : LF1) : LaneFn := laneF1 true fp32F.tanh x

/-! ### Packed 16-bit (R204) -/

def fmt16 (fh : Bool) : FFmt := if fh then fp16F else bf16F

/-- Element `k` of a packed register. -/
def half (w : W32) (k : Nat) : Nat := (w.extractLsb' (16 * k) 16).toNat

/-- Two 16-bit results side by side, their flags ORed. -/
def packRes (r0 r1 : FRes) : FRes := ⟨r0.bits % 65536 + 65536 * (r1.bits % 65536), r0.flags ||| r1.flags⟩

/-- A packed operation on decoded elements. -/
def lanePk (d : RegNo) (fh ftz : Bool) (f : FFmt → FVal → FVal → FVal → FRes) : LaneFn := laneFl d fun i =>
  let g := fmt16 fh
  let v (w : W32) (k : Nat) : FVal := (g.decode (half w k)).flush g ftz
  let el (k : Nat) : FRes := f g (v i.a0 k) (v i.b0 k) (v i.c0 k)
  packRes (el 0) (el 1)

def lanePkadd (x : LPk2) : LaneFn := lanePk x.vd x.fh x.ftz fun g a b _ => g.add x.rm x.ftz a b
def lanePkmul (x : LPk2) : LaneFn := lanePk x.vd x.fh x.ftz fun g a b _ => g.mul x.rm x.ftz a b
def lanePkfma (x : LPk3) : LaneFn := lanePk x.vd x.fh x.ftz fun g a b c => g.fma x.rm x.ftz a b c

def lanePkM (isMax : Bool) (x : LPkM) : LaneFn := laneFl x.vd fun i =>
  let el (k : Nat) : FRes := (fmt16 x.fh).minMax x.ftz isMax (half i.a0 k) (half i.b0 k)
  packRes (el 0) (el 1)

def lanePkmin (x : LPkM) : LaneFn := lanePkM false x
def lanePkmax (x : LPkM) : LaneFn := lanePkM true x

/-! ### Conversions (R205 to R207) -/

/-- Element `k` of a register in a format. -/
def elemOf (f : Fmt) (w : W32) (k : Nat) : Nat := w.toNat / 2 ^ (8 * f.size * k) % 2 ^ (8 * f.size)

def laneCvt (x : LCvt) : LaneFn :=
  laneFl x.vd fun i => cvtElem x.dst x.src x.rm x.ftz x.nsat (elemOf x.src i.a0 x.elem.toNat)

def laneCvtpk (x : LCvtpk) : LaneFn := laneFl x.vd fun i =>
  let r0 := cvtElem x.dst x.src x.rm x.ftz x.nsat (elemOf x.src i.a0 0)
  let r1 := cvtElem x.dst x.src x.rm x.ftz x.nsat (elemOf x.src i.b0 0)
  if x.dst.size = 2 then packRes r0 r1
  else
    let two : BitVec 16 := BitVec.ofNat 8 r1.bits ++ BitVec.ofNat 8 r0.bits
    let d : W32 :=
      if x.pair then two ++ i.c0.extractLsb' 0 16 else i.c0.extractLsb' 16 16 ++ two
    ⟨d.toNat, r0.flags ||| r1.flags⟩

def laneCvtunpk (x : LCvtunpk) : LaneFn := fun i s =>
  let k := if x.src.size = 1 ∧ x.pair then 2 else 0
  let r0 := cvtElem x.dst x.src x.rm x.ftz x.nsat (elemOf x.src i.a0 k)
  let r1 := cvtElem x.dst x.src x.rm x.ftz x.nsat (elemOf x.src i.a0 (k + 1))
  .ok s { regs := [(x.vd, [BitVec.ofNat 32 r0.bits, BitVec.ofNat 32 r1.bits])], flags := r0.flags ||| r1.flags }

/-- One byte of a word replaced. -/
def putByte (w : W32) (k : Nat) (b : Byte) : W32 :=
  (w &&& ~~~((0xFF : W32) <<< (8 * k))) ||| (b.zeroExtend 32 <<< (8 * k))

def lanePwenc (x : LPwenc) : LaneFn := fun i s =>
  let r := pw8Encode (((f32 false i.a0).mul (f32 false i.b0)).getD (.nan false))
  .ok s (out1 x.vd (putByte i.c0 x.byte.toNat (BitVec.ofNat 8 r.bits)) r.flags)

/-- `PWDEC` (R207). A zero product has the exclusive or of the signs (log entry 42). -/
def lanePwdec (x : LPwdec) : LaneFn := laneFl x.vd fun i =>
  let v := pw8Decode (wordByte i.a0 x.byte.toNat).toNat
  fp32F.mul x.rm x.ftz (.ofInt v) (f32 x.ftz i.b0)

/-! ### Dot products (R208) -/

def laneIdp4 (x : LIdp4) : LaneFn := fun i s =>
  let ex (u : Bool) (b : Byte) : Int := if u then (b.toNat : Int) else b.toInt
  let sum : Int := (List.range 4).foldl (fun acc k =>
    acc + ex x.ua (wordByte i.a0 k) * ex x.ub (wordByte i.b0 k)) i.c0.toInt
  let c := satInt sum (-2147483648) 2147483647
  if x.sat then .ok s (out1 x.vd (BitVec.ofInt 32 c) (flagIf (c != sum) fSat))
  else .ok s (out1 x.vd (BitVec.ofInt 32 sum))

def laneFdp2 (x : LFdp2) : LaneFn := laneFl x.vd fun i =>
  let g := fmt16 x.fh
  let v (w : W32) (k : Nat) : FVal := (g.decode (half w k)).flush g x.ftz
  match (v i.a0 0).mul (v i.b0 0), (v i.a0 1).mul (v i.b0 1) with
  | some p0, some p1 => fp32F.sumRes x.rm x.ftz true [p0, p1, f32 x.ftz i.c0]
  | _, _ => fp32F.nanRes true

/-! ### Moves (R209) -/

def laneMovF (x : LR1) : LaneFn := laneOp1 x.vd fun i => i.a0
def laneMovi (x : LMovi) : LaneFn := laneOp1 x.vd fun _ => x.i.signExtend 32
def laneMovhi (x : LMovhi) : LaneFn := laneOp1 x.vd fun i => x.i ++ i.a0.extractLsb' 0 16

/-- Word `k` of an operand of the dispatch (R30). -/
def OpVal.word (v : OpVal) (k : Nat) : W32 :=
  match v with
  | .none => 0
  | .tile t => t.extractLsb' (32 * k) 32
  | .val x => if k < 2 then x.extractLsb' (32 * k) 32 else 0

/-- What `SREAD` reads (R26, level L; R27). -/
def laneSpecial (s : State) (t : TRef) (th : Thread) (team : Team) (n : Nat) : W32 :=
  match commonSpecial s t.c n with
  | some v => v.extractLsb' 0 32
  | none =>
    match n with
    | 0x20 => BitVec.ofNat 32 t.lane
    | 0x21 => BitVec.ofNat 32 (t.lane / 32)
    | 0x22 => BitVec.ofNat 32 t.slot
    | 0x23 => BitVec.ofNat 32 th.rank
    | 0x24 => BitVec.ofNat 32 team.entry.teamSize
    | 0x25 => team.rcd.word.idx.zeroExtend 32
    | 0x26 => th.flags.zeroExtend 32
    | 0x27 => BitVec.ofNat 32 team.entry.budget
    | 0x28 => team.dtag.zeroExtend 32
    | _ =>
      let r := team.rcd
      if n < 0x44 then r.d.word (n % 4) else if n < 0x48 then r.a.word (n % 4)
      else if n < 0x4C then r.b.word (n % 4) else r.c.word (n % 4)

def laneSread (x : LSread) : LaneFn := fun i s => .ok s (out1 x.vd (laneSpecial s i.t i.th i.team x.n.toNat))

/-! ### Random numbers (R210) -/

def laneRng (x : LRng) : LaneFn := fun i s =>
  let c (k : Nat) : W32 := i.a.getD k 0
  let r := philox (c 0) (c 1) (c 2) (c 3) (i.b.getD 0 0) (i.b.getD 1 0)
  .ok s (outLate x.vd [r.1, r.2.1, r.2.2.1, r.2.2.2])

def laneCtradd (x : LCtradd) : LaneFn := fun i s =>
  let ctr : W128 := wide (i.a.drop 2) ++ wide i.a
  let inc : W128 := match x.b with
    | .reg _ w64 => if w64 then (wide i.b).zeroExtend 128 else i.b0.zeroExtend 128
    | .imm v => v.zeroExtend 128
  let d := ctr + inc
  .ok s { regs := [(x.vd, splitWide (d.extractLsb' 0 64) ++ splitWide (d.extractLsb' 64 64))] }

/-! ### The meanings -/

def execIadd (x : LRI) (s : State) : Out := .next (laneAll (.iadd x) (laneIadd x) s)
def execIsub (x : LRI) (s : State) : Out := .next (laneAll (.isub x) (laneIsub x) s)
def execImul (x : LRI) (s : State) : Out := .next (laneAll (.imul x) (laneImul x) s)
def execImulh (x : LMulh) (s : State) : Out := .next (laneAll (.imulh x) (laneImulh x) s)
def execImad (x : LRI3) (s : State) : Out := .next (laneAll (.imad x) (laneImad x) s)
def execIadd64 (x : LRI) (s : State) : Out := .next (laneAll (.iadd64 x) (laneIadd64 x) s)
def execIdiv (x : LRI) (s : State) : Out := .next (laneAll (.idiv x) (laneIdiv x) s)
def execIdivu (x : LRI) (s : State) : Out := .next (laneAll (.idivu x) (laneIdivu x) s)
def execIrem (x : LRI) (s : State) : Out := .next (laneAll (.irem x) (laneIrem x) s)
def execIremu (x : LRI) (s : State) : Out := .next (laneAll (.iremu x) (laneIremu x) s)
def execImin (x : LRI) (s : State) : Out := .next (laneAll (.imin x) (laneImin x) s)
def execImax (x : LRI) (s : State) : Out := .next (laneAll (.imax x) (laneImax x) s)
def execIminu (x : LRI) (s : State) : Out := .next (laneAll (.iminu x) (laneIminu x) s)
def execImaxu (x : LRI) (s : State) : Out := .next (laneAll (.imaxu x) (laneImaxu x) s)
def execIabs (x : LR1) (s : State) : Out := .next (laneAll (.iabs x) (laneIabs x) s)
def execIneg (x : LR1) (s : State) : Out := .next (laneAll (.ineg x) (laneIneg x) s)
def execLaneAnd (x : LRI) (s : State) : Out := .next (laneAll (.laneAnd x) (laneAndF x) s)
def execLaneOr (x : LRI) (s : State) : Out := .next (laneAll (.laneOr x) (laneOrF x) s)
def execLaneXor (x : LRI) (s : State) : Out := .next (laneAll (.laneXor x) (laneXorF x) s)
def execLaneAndn (x : LRI) (s : State) : Out := .next (laneAll (.laneAndn x) (laneAndnF x) s)
def execBitfn (x : LBitfn) (s : State) : Out := .next (laneAll (.bitfn x) (laneBitfn x) s)
def execLaneShl (x : LRI) (s : State) : Out := .next (laneAll (.laneShl x) (laneShlF x) s)
def execLaneShr (x : LRI) (s : State) : Out := .next (laneAll (.laneShr x) (laneShrF x) s)
def execLaneSar (x : LRI) (s : State) : Out := .next (laneAll (.laneSar x) (laneSarF x) s)
def execRotr (x : LRI) (s : State) : Out := .next (laneAll (.rotr x) (laneRotr x) s)
def execLanePopc (x : LR1) (s : State) : Out := .next (laneAll (.lanePopc x) (lanePopcF x) s)
def execLaneClz (x : LR1) (s : State) : Out := .next (laneAll (.laneClz x) (laneClzF x) s)
def execBrev (x : LR1) (s : State) : Out := .next (laneAll (.brev x) (laneBrev x) s)
def execBfe (x : LRI) (s : State) : Out := .next (laneAll (.bfe x) (laneBfe x) s)
def execBfi (x : LRI3) (s : State) : Out := .next (laneAll (.bfi x) (laneBfi x) s)
def execPermb (x : LPermb) (s : State) : Out := .next (laneAll (.permb x) (lanePermb x) s)
def execLaneSel (x : LSel) (s : State) : Out := .next (laneAll (.laneSel x) (laneSelF x) s)
def execIcmp (x : LIcmp) (s : State) : Out := .next (laneAll (.icmp x) (laneIcmp x) s)
def execFcmp (x : LFcmp) (s : State) : Out := .next (laneAll (.fcmp x) (laneFcmp x) s)
def execPredfn (x : LPredfn) (s : State) : Out := .next (laneAll (.predfn x) (lanePredfn x) s)
def execPmovToRegister (x : LPmovR) (s : State) : Out := .next (laneAll (.pmovToRegister x) (lanePmovToRegister x) s)
def execPmovToPredicates (x : LPmovP) (s : State) : Out := .next (laneAll (.pmovToPredicates x) (lanePmovToPredicates x) s)
def execFadd (x : LF2) (s : State) : Out := .next (laneAll (.fadd x) (laneFadd x) s)
def execFsub (x : LF2) (s : State) : Out := .next (laneAll (.fsub x) (laneFsub x) s)
def execFmul (x : LF2) (s : State) : Out := .next (laneAll (.fmul x) (laneFmul x) s)
def execFfma (x : LF3) (s : State) : Out := .next (laneAll (.ffma x) (laneFfma x) s)
def execFmin (x : LFM) (s : State) : Out := .next (laneAll (.fmin x) (laneFmin x) s)
def execFmax (x : LFM) (s : State) : Out := .next (laneAll (.fmax x) (laneFmax x) s)
def execFdiv (x : LF2) (s : State) : Out := .next (laneAll (.fdiv x) (laneFdiv x) s)
def execFsqrt (x : LF1) (s : State) : Out := .next (laneAll (.fsqrt x) (laneFsqrt x) s)
def execFrcp (x : LF1) (s : State) : Out := .next (laneAll (.frcp x) (laneFrcp x) s)
def execFrsq (x : LF1) (s : State) : Out := .next (laneAll (.frsq x) (laneFrsq x) s)
def execFexp2 (x : LF1) (s : State) : Out := .next (laneAll (.fexp2 x) (laneFexp2 x) s)
def execFlog2 (x : LF1) (s : State) : Out := .next (laneAll (.flog2 x) (laneFlog2 x) s)
def execFtanh (x : LF1) (s : State) : Out := .next (laneAll (.ftanh x) (laneFtanh x) s)
def execPkadd (x : LPk2) (s : State) : Out := .next (laneAll (.pkadd x) (lanePkadd x) s)
def execPkmul (x : LPk2) (s : State) : Out := .next (laneAll (.pkmul x) (lanePkmul x) s)
def execPkfma (x : LPk3) (s : State) : Out := .next (laneAll (.pkfma x) (lanePkfma x) s)
def execPkmin (x : LPkM) (s : State) : Out := .next (laneAll (.pkmin x) (lanePkmin x) s)
def execPkmax (x : LPkM) (s : State) : Out := .next (laneAll (.pkmax x) (lanePkmax x) s)
def execCvt (x : LCvt) (s : State) : Out := .next (laneAll (.cvt x) (laneCvt x) s)
def execCvtpk (x : LCvtpk) (s : State) : Out := .next (laneAll (.cvtpk x) (laneCvtpk x) s)
def execCvtunpk (x : LCvtunpk) (s : State) : Out := .next (laneAll (.cvtunpk x) (laneCvtunpk x) s)
def execPwenc (x : LPwenc) (s : State) : Out := .next (laneAll (.pwenc x) (lanePwenc x) s)
def execPwdec (x : LPwdec) (s : State) : Out := .next (laneAll (.pwdec x) (lanePwdec x) s)
def execIdp4 (x : LIdp4) (s : State) : Out := .next (laneAll (.idp4 x) (laneIdp4 x) s)
def execFdp2 (x : LFdp2) (s : State) : Out := .next (laneAll (.fdp2 x) (laneFdp2 x) s)
def execLaneMov (x : LR1) (s : State) : Out := .next (laneAll (.laneMov x) (laneMovF x) s)
def execMovi (x : LMovi) (s : State) : Out := .next (laneAll (.movi x) (laneMovi x) s)
def execMovhi (x : LMovhi) (s : State) : Out := .next (laneAll (.movhi x) (laneMovhi x) s)
def execSread (x : LSread) (s : State) : Out := .next (laneAll (.sread x) (laneSread x) s)
def execRng (x : LRng) (s : State) : Out := .next (laneAll (.rng x) (laneRng x) s)
def execCtradd (x : LCtradd) (s : State) : Out := .next (laneAll (.ctradd x) (laneCtradd x) s)

end Sys2Proof.Machine
end

