-- ==== Sys2Proof/Machine/LaneMem.lean ====
section
/-! DEFINITION. Lane memory: loads and stores (R222 to R227), atomics and fences (R228 to R230), barriers (R231) and
the optimiser step (R211, R212). -/

namespace Sys2Proof.Machine

open Sys2Proof

/-! ### Checks (R224, R225) -/

/-- The spaces of R222. -/
inductive LSpace where
  | device | kennel | priv | const
  deriving DecidableEq, Repr, Inhabited

/-- Steps 1 to 3 of R224: what the first failure answers. -/
def laneCheck (sp : LSpace) (i : LaneIn) (addr : W64) (n : Nat) (write : Bool) (s : State) : Option LaneOut :=
  let k := s.core i.t.c
  if addr.toNat % n ≠ 0 then some (.fault s .align addr 0)
  else
    match sp with
    | .kennel =>
      if kennelSize < addr.toNat + n then some (.fault s .kennelRange addr 0)
      else if k.locked false addr.toNat n write then some (.lock s addr) else none
    | .priv => if privSize < addr.toNat + n then some (.fault s .privateRange addr 0) else none
    | .const => if 0x800 < addr.toNat + n then some (.fault s .constRange addr 0) else none
    | .device =>
      if addr.extractLsb' 52 12 ≠ 0 then some (.fault s .badAddr addr 0)
      else if k.locked true addr.toNat n write then some (.lock s addr) else none

/-- Step 4: translate for a thread; a miss begins a walk, for which the subset waits; where the walk fails, the thread parks
(R290). -/
def laneXlate (i : LaneIn) (va : W64) (need : Need) (s : State) : Access :=
  let k := s.core i.t.c
  match i.th.park with
  | .failed cause => .fail cause
  | .walking | .waiting _ _ => .wait s
  | .none | .retry =>
    match k.tlbFind k.ctx va need with
    | some p => .ok p
    | none =>
      if s.walkRoom i.t.c = false then .wait s
      else
        .wait ((s.updCore i.t.c fun k => k.startWalk { va := va, need := need.code, who := .thread i.t.lane i.t.slot,
                                                       replay := i.th.park == .retry }).onThread i.t
          fun th => { th with park := .walking })

/-- Folds of this access carry the replay mark: re-executed work, or an access that replays (R278). -/
def laneReplay (i : LaneIn) (s : State) : Bool :=
  let k := s.core i.t.c
  k.replaying || i.th.park == .retry ||
    match k.op? i.team.op with
    | some o => o.replay
    | none => false

/-! ### Loads and stores (R222, R223) -/

/-- base + OFF; the base is a pair for device memory. -/
def laneAddr (pair : Bool) (a : List W32) (off : BitVec 14) : W64 :=
  (if pair then wide a else (a.headD 0).zeroExtend 64) + off.signExtend 64

/-- The result of a load or an atomic: one register, or a pair at 64 bits; it comes late. -/
def lateRes (vd : RegNo) (n : Nat) (r : LRes) : LaneRes := { late := some (vd, if n = 8 then 2 else 1, r) }

/-- A loaded value (R223). -/
def loadRes (x : LLoad) (v : Nat) : LaneRes :=
  let l : LateLoad := { dev := false, pa := 0, va := 0, n := widthBytes x.w, sx := x.sx }
  lateRes x.vd l.n (.vals (l.words v))

/-- A load, or an atomic that is no acquire, has passed its checks: the thread's earlier accesses to the bytes act first,
then it acts at once or, where the model's list of choices asks for it, later (R262). -/
def laneLoad (vd : RegNo) (i : LaneIn) (l : LateLoad) (s : State) : LaneOut :=
  let later := (s.beforeLate i.t.c i.t.agent l).choice
  if later.1 = 0 then
    let r := later.2.readLate i.t.c i.t.agent l
    .ok r.2 (lateRes vd l.n (.vals (l.words r.1)))
  else .ok later.2 (lateRes vd l.n (.load l))

/-- An atomic of a thread has passed its checks: a release before it and an acquire after it (R265). -/
def laneRmw (vd : RegNo) (acq rel : Bool) (i : LaneIn) (l : LateLoad) (s : State) : LaneOut :=
  let s := if rel then s.release i.t.c i.t.agent l.scope else s
  if acq then
    let r := s.actNow i.t.c i.t.agent l
    .ok (r.2.acquire i.t.c i.t.agent l.scope) (lateRes vd l.n (.vals (l.words r.1)))
  else laneLoad vd i l s

/-- The bytes that a store writes. -/
def storeBytes (w : BitVec 2) (b : List W32) : List Byte := leBytes (widthBytes w) (wide b).toNat

def laneLd (x : LLoad) : LaneFn := fun i s =>
  let addr := laneAddr true i.a x.off
  let n := widthBytes x.w
  match laneCheck .device i addr n false s with
  | some o => o
  | none =>
    match laneXlate i addr .read s with
    | .wait t => .hold t
    | .fail cause => .fault s cause addr 0
    | .ok p =>
      let r := s.readPoison i.t.c p.pa n
      if r.1 then .fault r.2 .memoryError addr 0
      else laneLoad x.vd i { dev := true, pa := p.pa, va := addr, n := n, sx := x.sx } r.2

def laneSt (x : LStore) : LaneFn := fun i s =>
  let addr := laneAddr true i.a x.off
  match laneCheck .device i addr (widthBytes x.w) true s with
  | some o => o
  | none =>
    match laneXlate i addr .write s with
    | .wait t => .hold t
    | .fail cause => .fault s cause addr 0
    | .ok p =>
      .ok ((s.dstore i.t.c i.t.agent p.pidx (laneReplay i s) p.pa (storeBytes x.w i.b)).noteFold i.t.c i.team.op p.pidx) {}

def laneLdkF (x : LLoad) : LaneFn := fun i s =>
  let addr := laneAddr false i.a x.off
  let n := widthBytes x.w
  let k := s.core i.t.c
  match laneCheck .kennel i addr n false s with
  | some o => o
  | none =>
    if k.kpoisoned addr.toNat n then .fault s .memoryError addr 0
    else laneLoad x.vd i { dev := false, pa := addr.toNat, va := addr, n := n, sx := x.sx } s

def laneStkF (x : LStore) : LaneFn := fun i s =>
  let addr := laneAddr false i.a x.off
  match laneCheck .kennel i addr (widthBytes x.w) true s with
  | some o => o
  | none => .ok (s.kstore i.t.c i.t.agent addr.toNat (storeBytes x.w i.b)) {}

def laneLdp (x : LLoad) : LaneFn := fun i s =>
  let addr := laneAddr false i.a x.off
  let n := widthBytes x.w
  match laneCheck .priv i addr n false s with
  | some o => o
  | none =>
    if (s.core i.t.c).ppoisoned i.t.lane addr.toNat n then .fault s .memoryError addr 0
    else .ok s (loadRes x (ofBytes ((s.core i.t.c).mem.pread (2048 * i.t.lane + addr.toNat) n)))

def laneStp (x : LStore) : LaneFn := fun i s =>
  let addr := laneAddr false i.a x.off
  match laneCheck .priv i addr (widthBytes x.w) true s with
  | some o => o
  | none => .ok (s.updCore i.t.c fun k => k.pwrite i.t.lane addr.toNat (storeBytes x.w i.b)) {}

/-- The constant bank as bytes, `c[n]` at 8n; no word of it changes while an op is incomplete (R16). -/
def constBytes (q : Seq) (a n : Nat) : Nat := (q.c.toList.getD (a / 8) 0).toNat / 256 ^ (a % 8) % 256 ^ n

def laneLdc (x : LLoad) : LaneFn := fun i s =>
  let addr := laneAddr false i.a x.off
  let n := widthBytes x.w
  match laneCheck .const i addr n false s with
  | some o => o
  | none => .ok s (loadRes x (constBytes (s.core i.t.c).seq addr.toNat n))

/-! ### Atomics and fences (R228 to R230) -/

/-- An atomic of a thread on a word of `n` bytes with operand and compare values (R229). -/
def laneAtomic (op : AtomOp) (vd : RegNo) (scope : Scope) (w64 acq rel : Bool) (b cmp : List W32) : LaneFn :=
  fun i s =>
    let c := i.t.c
    let n := if w64 then 8 else 4
    let addr : W64 := if scope = .core then i.a0.zeroExtend 64 else wide i.a
    let v := (wide b).toNat % 2 ^ (8 * n)
    let cv := (wide cmp).toNat % 2 ^ (8 * n)
    let l : LateLoad :=
      { dev := scope != .core, pa := addr.toNat, va := addr, n := n, sx := false,
        rmw := some { op := op, x := v, cmp := cv, scope := scope, pidx := 0, replay := laneReplay i s,
                      team := some i.team.op } }
    match laneCheck (if scope = .core then .kennel else .device) i addr n true s with
    | some o => o
    | none =>
      if scope = .core then
        if (s.core c).kpoisoned addr.toNat n then .fault s .memoryError addr 0
        else laneRmw vd acq rel i l s
      else if remoteAddr scope addr then
        let part := ctxPart (s.core c).ctx
        let w := (s.part part).window addr
        if w.v = false then .fault s .translation addr 0
        else
          let s' := if rel then s.release c i.t.agent .system else s
          let r := s'.sendAtomic (.laneAtomic c i.t.lane i.t.slot) part w addr op w64 acq rel (BitVec.ofNat 64 v)
            (BitVec.ofNat 64 cv)
          .ok r.2 { late := some (vd, if w64 then 2 else 1, .remote r.1 acq addr (s.laneWhere i.t i.th)) }
      else
        match laneXlate i addr .atomic s with
        | .wait t => .hold t
        | .fail cause => .fault s cause addr 0
        | .ok p =>
          if s.dev.poisoned p.pa n then .fault s .memoryError addr 0
          else laneRmw vd acq rel i (l.onPage p) s

def laneAtom (x : LAtom) : LaneFn := fun i s => laneAtomic x.op x.vd x.scope x.w64 x.acq x.rel i.b [] i s

def laneAtomcas (x : LCas) : LaneFn := fun i s => laneAtomic .cas x.vd x.scope x.w64 x.acq x.rel i.b i.c i s

/-- A load or atomic of the thread has not returned its value. -/
def Thread.loading (th : Thread) : Bool := th.pend.any fun p =>
  !p.arrived &&
    match p.res with
    | .vals _ | .remote _ _ _ _ | .load _ => true
    | .nested _ => false

/-- Every earlier store of the agent is performed at a scope. -/
def State.performOwn (s : State) (c : CoreNo) (a : Agent) (scope : Scope) : State :=
  let s := s.settleAgent c a
  if scope = .core then s
  else (s.flushHeld fun h => h.core == c && h.agent == a && scope != .cluster).performAll c fun p => p.agent == a

/-- A fence of any kind waits for the thread's loads and atomics, and until its stores are performed at the scope. -/
def laneFenceF (x : LFence) : LaneFn := fun i s =>
  if i.th.loading then .hold s
  else .ok (fenceBy i.t.c i.t.agent x.kind x.scope (s.performOwn i.t.c i.t.agent x.scope)) {}

/-! ### Barriers (R231) -/

/-- The checks of R173 from step 2 on. -/
def laneBarrier (dev : Bool) (i : LaneIn) (write : Bool) (s : State) : Except LaneOut (W64 × BarPlace) :=
  let a : W64 := if dev then wide i.a else i.a0.zeroExtend 64
  if a.toNat % 16 ≠ 0 then .error (.fault s .badBarrier a 0)
  else
    let pl : Except LaneOut BarPlace :=
      if dev = false then
        if kennelSize < a.toNat + 16 then .error (.fault s .kennelRange a 0)
        else if (s.core i.t.c).locked false a.toNat 16 write then .error (.lock s a)
        else .ok (.kennel i.t.c a.toNat)
      else if a.extractLsb' 52 12 ≠ 0 then .error (.fault s .badAddr a 0)
      else
        match laneXlate i a .atomic s with
        | .wait t => .error (.hold t)
        | .fail cause => .error (.fault s cause a 0)
        | .ok p => .ok (.device p)
    match pl with
    | .error e => .error e
    | .ok pl => if s.barPoisoned pl then .error (.fault s .memoryError a 0) else .ok (a, pl)

def laneBarvF (x : LBarv) : LaneFn := fun i s =>
  let c := i.t.c
  match laneBarrier x.dev i true s with
  | .error o => o
  | .ok (a, pl) =>
    match ((s.release c i.t.agent (barScope x.dev)).barSettle c i.t.agent pl).barUpdate c.val (s.core c).ctx (laneReplay i s)
        pl 1 0 with
    | none => .fault s .badBarrier a 0
    | some r => .ok r.2 (out1 x.vd r.1)

/-- A test of a phase: the address, the state that has settled the object, and whether the phase has passed. -/
def laneTest (dev : Bool) (i : LaneIn) (s : State) : Except LaneOut (W64 × State × Bool) :=
  match laneBarrier dev i false s with
  | .error o => .error o
  | .ok (a, pl) =>
    let s' := s.barSettle i.t.c i.t.agent pl
    let b := s'.bar pl
    if b.ok = false then .error (.fault s .badBarrier a 0)
    else if phasePassed b.phase i.b0 then .ok (a, s'.acquire i.t.c i.t.agent (barScope dev), true)
    else .ok (a, s', false)

def laneBwaitF (x : LBwait) : LaneFn := fun i s =>
  match laneTest x.dev i s with
  | .error o => o
  | .ok (a, s', passed) =>
    if passed then .ok s' {}
    else .done (s'.onThread i.t fun th => { th with wait := .barrier a x.dev i.b0, park := .none })

def laneBtryF (x : LBtry) : LaneFn := fun i s =>
  match laneTest x.dev i s with
  | .error o => o
  | .ok (_, s', passed) => .ok s' { preds := [(x.pd, passed)] }

/-! ### The optimiser step (R211, R212) -/

/-- An exact sum, its zero signed as RN signs it; an invalid sum is a signalling NaN, which sets INVALID. -/
def FVal.plus (a b : FVal) : FVal :=
  match a, b with
  | .nan s, .nan t => .nan (s || t)
  | .nan s, _ => .nan s
  | _, .nan t => .nan t
  | .inf n, .inf k => if n = k then .inf n else .nan true
  | .inf n, _ => .inf n
  | _, .inf k => .inf k
  | a, b =>
    let d := a.dy.add b.dy
    if d.n = 0 then .fin (a.isNeg && b.isNeg) 0 0 else .fin (decide (d.n < 0)) d.n.natAbs d.e

/-- An exact product; 0 times infinity is a signalling NaN. -/
def FVal.times (a b : FVal) : FVal := term (a.mul b)

/-- Round an exact value into FP32, RN. -/
def rn32 (v : FVal) : FRes := cvtFloat fp32F .rn false v

def FRes.val32 (r : FRes) : FVal := fp32F.decode r.bits

/-- rn(√v + ε): the root is cut at 2^−200, with a sticky rest, before the one rounding. -/
def sqrtPlus (v eps : FVal) : FRes :=
  match v with
  | .nan s => rn32 ((FVal.nan s).plus eps)
  | .inf n => if n then rn32 (.nan true) else rn32 ((FVal.inf false).plus eps)
  | .fin n m e =>
    if m = 0 then rn32 ((FVal.fin n 0 0).plus eps)
    else if n then rn32 (.nan true)
    else
      match eps with
      | .nan _ | .inf _ => rn32 eps
      | .fin _ _ _ =>
        let t := m * 2 ^ (400 + e).toNat
        let r := isqrt t
        let sticky := r * r != t
        let sum := (Dy.mk r (-200)).add eps.dy
        let up : Dy := (Dy.mk 0 (-200)).add sum
        let k : Int := up.n * 2 ^ (up.e + 200).toNat
        if sum.n = 0 then (if sticky then fp32F.finish .rn false false 1 (-201) true else fp32F.zeroRes false)
        else if 0 < k then fp32F.finish .rn false false k.toNat (-200) sticky
        else if sticky then fp32F.finish .rn false true (-k - 1).toNat (-200) true
        else fp32F.finish .rn false true (-k).toNat (-200) false

/-- rn(a / q + p), where a finite quotient enters exactly: it is (a + p × q) / q. -/
def divPlus (a q p : FVal) : FRes :=
  let special (quot : FVal) (fl : Flags6) : FRes :=
    let r := rn32 (quot.plus p)
    ⟨r.bits, r.flags ||| fl⟩
  match a, q with
  | .nan s, .nan t => special (.nan (s || t)) 0
  | .nan s, _ => special (.nan s) 0
  | _, .nan t => special (.nan t) 0
  | .inf _, .inf _ => special (.nan true) 0
  | .inf n, .fin k _ _ => special (.inf (n != k)) 0
  | .fin n _ _, .inf k => special (.fin (n != k) 0 0) 0
  | .fin n ma _, .fin k mb eb =>
    if mb = 0 then (if ma = 0 then special (.nan true) 0 else special (.inf (n != k)) fDivZero)
    else
      match p with
      | .nan _ | .inf _ => rn32 p
      | .fin _ _ _ =>
        if ma = 0 then special (.fin (n != k) 0 0) 0
        else
          let d := a.dy.add (p.dy.mul q.dy)
          if d.n = 0 then fp32F.zeroRes false
          else
            let t := quotMag d.n.natAbs d.e mb eb
            fp32F.finish .rn false (decide (d.n < 0) != k) t.1 t.2.1 t.2.2

/-- The results of one step: w′, m′ and v′ as bits, and the flags. -/
structure StepRes where
  w : Nat
  m : Nat
  v : Nat
  flags : Flags6
  deriving DecidableEq, Repr, Inhabited

/-- The assignments of R212; `h` holds lr, β1, β2, ε, λ, k1, k2, γ. -/
def adamStep (h : Nat → FVal) (w g m v : FVal) : StepRes :=
  let one := FVal.ofInt 1
  let gs := rn32 (g.times (h 7))
  let m' := rn32 (((h 1).times m).plus ((one.plus (h 1).neg).times gs.val32))
  let v' := rn32 (((h 2).times v).plus (((one.plus (h 2).neg).times gs.val32).times gs.val32))
  let mh := rn32 (m'.val32.times (h 5))
  let vh := rn32 (v'.val32.times (h 6))
  let q := sqrtPlus vh.val32 (h 3)
  let u := divPlus mh.val32 q.val32 ((h 4).times w)
  let w' := rn32 (w.plus ((h 0).times u.val32).neg)
  { w := w'.bits, m := m'.bits, v := v'.bits,
    flags := gs.flags ||| m'.flags ||| v'.flags ||| mh.flags ||| vh.flags ||| q.flags ||| u.flags ||| w'.flags }

/-- The gradient formats of R211. -/
def gradFmt (gf : BitVec 2) : FFmt := if gf = 0 then fp32F else if gf = 1 then bf16F else fp16F

def laneMstep (x : LMstep) : LaneFn := fun i s =>
  let k := s.core i.t.c
  let at_ (j : Nat) : W64 := (i.a.getD j 0).zeroExtend 64
  let size (j : Nat) : Nat := if j = 1 ∧ x.gf ≠ 0 then 2 else 4
  let word (j : Nat) : Nat := ofBytes (k.kreadBy i.t.agent (at_ j).toNat (size j))
  match (List.range 4).findSome? fun j => laneCheck .kennel i (at_ j) (size j) (j != 1) s with
  | some o => o
  | none =>
    match (List.range 4).find? fun j => k.kpoisoned (at_ j).toNat (size j) with
    | some j => .fault s .memoryError (at_ j) 0
    | none =>
      let g := (gradFmt x.gf).decode (word 1)
      if g.isNan || g.isInf then .ok s { preds := [(x.pd, true)], flags := fInvalid }
      else
        let h (j : Nat) : FVal := fp32F.decode ((k.seq.c.toList.getD (x.n.toNat + j) 0).toNat % 2 ^ 32)
        let r := adamStep h (fp32F.decode (word 0)) g (fp32F.decode (word 2)) (fp32F.decode (word 3))
        let put (s : State) (j v : Nat) : State := s.kwrite i.t.c (at_ j).toNat (leBytes 4 v)
        let s := (List.range 4).foldl (fun s j => s.atBank i.t.c i.t.agent (at_ j).toNat (size j)) s
        .ok (put (put (put s 0 r.w) 2 r.m) 3 r.v) { preds := [(x.pd, false)], flags := r.flags }

/-! ### The meanings -/

def execLd (x : LLoad) (s : State) : Out := .next (laneAll (.ld x) (laneLd x) s)
def execSt (x : LStore) (s : State) : Out := .next (laneAll (.st x) (laneSt x) s)
def execLaneLdk (x : LLoad) (s : State) : Out := .next (laneAll (.laneLdk x) (laneLdkF x) s)
def execLaneStk (x : LStore) (s : State) : Out := .next (laneAll (.laneStk x) (laneStkF x) s)
def execLdp (x : LLoad) (s : State) : Out := .next (laneAll (.ldp x) (laneLdp x) s)
def execStp (x : LStore) (s : State) : Out := .next (laneAll (.stp x) (laneStp x) s)
def execLdc (x : LLoad) (s : State) : Out := .next (laneAll (.ldc x) (laneLdc x) s)
def execAtom (x : LAtom) (s : State) : Out := .next (laneAll (.atom x) (laneAtom x) s)
def execAtomcas (x : LCas) (s : State) : Out := .next (laneAll (.atomcas x) (laneAtomcas x) s)
def execLaneFence (x : LFence) (s : State) : Out := .next (laneAll (.laneFence x) (laneFenceF x) s)
def execLaneBarv (x : LBarv) (s : State) : Out := .next (laneAll (.laneBarv x) (laneBarvF x) s)
def execLaneBwait (x : LBwait) (s : State) : Out := .next (laneAll (.laneBwait x) (laneBwaitF x) s)
def execLaneBtry (x : LBtry) (s : State) : Out := .next (laneAll (.laneBtry x) (laneBtryF x) s)
def execMstep (x : LMstep) (s : State) : Out := .next (laneAll (.mstep x) (laneMstep x) s)

end Sys2Proof.Machine
end

