-- ==== Sys2Proof/Machine/LaneColl.lean ====
section
/-! DEFINITION. Collectives (R232 to R239), conditional streams (R240 to R245), decision records (R246) and nested
issue (R132 to R134, R247 to R250). -/

namespace Sys2Proof

open Machine

/-- The mask operand of a collective; the outer option says that the instruction is one. -/
def Instr.collMask : Instr → Option (Option LSrc)
  | .xpair x | .xback x | .xfwd x | .xone x => some x.m
  | .xpick x => some x.m
  | .poll x => some x.m
  | .red x => some x.m
  | .qpush x => some x.m
  | .qpop x => some x.m
  | .lmma x => some x.m
  | _ => none

def LXchg.shape (x : LXchg) : LXchg := { x with h := default, vd := 0, a := default, m := x.m.map fun _ => default }

/-- MAJOR, MINOR and IMM of a collective: the instruction with its head and registers blanked (R232). -/
def Instr.collShape : Instr → Instr
  | .xpair x => .xpair x.shape
  | .xback x => .xback x.shape
  | .xfwd x => .xfwd x.shape
  | .xone x => .xone x.shape
  | .xpick x => .xpick { x with h := default, vd := 0, a := default, b := default, m := x.m.map fun _ => default }
  | .poll x => .poll { x with h := default, vd := 0, pa := 0, m := x.m.map fun _ => default }
  | .red x => .red { x with h := default, vd := 0, a := default, m := x.m.map fun _ => default }
  | .qpush x => .qpush { x with h := default, a := default, b := default, m := x.m.map fun _ => default }
  | .qpop x => .qpop { x with h := default, vd := 0, a := default, pb := 0, m := x.m.map fun _ => default }
  | .lmma x => .lmma { x with h := default, vd := 0, a := default, b := default, m := x.m.map fun _ => default }
  | i => i

end Sys2Proof

namespace Sys2Proof.Machine

open Sys2Proof

/-! ### Arrival (R232) -/

/-- What a contributing member brings: `a` (a predicate as 0 or 1 for `POLL`), `b`, and a block. -/
def arrivalValues (i : Instr) (th : Thread) (s : State) : (W32 × List W32) × State :=
  let b := readFld th i.use.b s
  match i with
  | .poll x => ((if th.pred x.pa then 1 else 0, []), s)
  | _ =>
    let a := readFld th i.use.a b.2
    ((a.1.headD 0, b.1), a.2)

/-- A collective in one thread: a member arrives and waits, its arrival being a CORE-scope release (R234); another thread
passes on. -/
def collOne (k : CollIns) (m : Option LSrc) (t : TRef) (s : State) : Issued :=
  let i := k.ins
  match s.threadOf t with
  | none => (false, s)
  | some th =>
    match (s.core t.c).team? th.team with
    | none => (false, s)
    | some team =>
      let guard := match i.laneHead with
        | some h => h.holds th.p
        | none => true
      let maskEmpty := match m with
        | some x => !th.isFull x.r.val
        | none => false
      let maskBad := match m with
        | some x => th.readsPoison [x.r.val]
        | none => false
      if i.use.named.any fun r => decide (team.entry.budget ≤ r) then (false, laneFault t .budget 0 0 s)
      else
        laneAwait i t th (fun s =>
          if guard && team.entry.check && maskEmpty then (false, laneFault t .emptyRead 0 0 s)
          else if maskBad then (false, laneFault t .memoryError 0 0 s)
          else
            let mk := match m with
              | some x => readReg th x.r.val s
              | none => (BitVec.allOnes 32, s)
            if mk.1.getLsbD (t.lane % 32) = false then
              (false, mk.2.onThread t fun th => (if guard then th.release { c := i.use.c } else th).pass i)
            else
              let regs := i.use.srcs.flatMap Fld.regs
              let check := if team.entry.check then th.checkFault i else none
              match if guard then check.or (if th.readsPoison regs then some .memoryError else none) else none with
              | some cause => (false, laneFault t cause 0 0 mk.2)
              | none =>
                let v := if guard then arrivalValues i th (mk.2.readStatus t th regs) else ((0, []), mk.2)
                let arr : Arrival := { op := k, mask := mk.1, contrib := guard, a := v.1.1, b := v.1.2.headD 0,
                                       vals := v.1.2, pc := th.pc }
                (false, (v.2.release t.c t.agent .core).onThread t fun th =>
                  { th with wait := .coll arr, pend := [] })) s

/-- A collective issues in every thread of the subset. -/
def collAll (k : CollIns) (s : State) : State :=
  match k.ins.collMask with
  | some m => subsetIssue (collOne k m) s
  | none => s

def execXpair (x : LXchg) (s : State) : Out := .next (collAll (.xpair x) s)
def execXpick (x : LXpick) (s : State) : Out := .next (collAll (.xpick x) s)
def execXback (x : LXchg) (s : State) : Out := .next (collAll (.xback x) s)
def execXfwd (x : LXchg) (s : State) : Out := .next (collAll (.xfwd x) s)
def execXone (x : LXchg) (s : State) : Out := .next (collAll (.xone x) s)
def execPoll (x : LPoll) (s : State) : Out := .next (collAll (.poll x) s)
def execRed (x : LRed) (s : State) : Out := .next (collAll (.red x) s)
def execQpush (x : LQpush) (s : State) : Out := .next (collAll (.qpush x) s)
def execQpop (x : LQpop) (s : State) : Out := .next (collAll (.qpop x) s)
def execLmma (x : LLmma) (s : State) : Out := .next (collAll (.lmma x) s)

/-! ### Members -/

/-- A thread that has arrived. -/
structure Member where
  t : TRef
  th : Thread
  arr : Arrival
  deriving DecidableEq, Repr, Inhabited

def Member.lane (m : Member) : Nat := m.t.lane % 32

/-- Equal masks and equal MAJOR, MINOR and IMM. -/
def Arrival.matches (a b : Arrival) : Bool := a.mask == b.mask && a.ins.collShape == b.ins.collShape

/-- The threads of a team on a group that stand at a collective, in lane order. -/
def State.arrived (s : State) (c : CoreNo) (op g : Nat) : List Member :=
  ((s.core c).teamThreads op).filterMap fun x =>
    if x.1 / 32 = g then
      match x.2.2.wait with
      | .coll a => some ⟨⟨c, x.1, x.2.1⟩, x.2.2, a⟩
      | .none | .barrier _ _ _ | .debug | .faulted => none
    else none

/-- The lanes that a mask names. -/
def maskLanes (m : W32) : List Nat := (List.range 32).filter fun l => m.getLsbD l

/-- A contributing member goes on with its results: completion is a CORE-scope acquire (R234). -/
def finishMember (m : Member) (r : LaneRes) (s : State) : State :=
  (s.acquire m.t.c m.t.agent .core).onThread m.t fun th => ({ th with wait := .none } : Thread).retire m.arr.ins r

/-- A member whose guard was false goes on. -/
def passMember (m : Member) (s : State) : State :=
  (s.acquire m.t.c m.t.agent .core).onThread m.t fun th => ({ th with wait := .none } : Thread).pass m.arr.ins

/-- Every member goes on. -/
def finishAll (mem : List Member) (res : Member → LaneRes) (s : State) : State :=
  mem.foldl (fun s m => if m.arr.contrib then finishMember m (res m) s else passMember m s) s

def faultAll (mem : List Member) (cause : Cause) (addr detail : W64) (s : State) : State :=
  mem.foldl (fun s m => laneFault m.t cause addr detail s) s

/-! ### Lane exchanges (R235, R236) -/

/-- The source lane of a reader; none where there is none. -/
def sourceLane (m : Member) : Option Nat :=
  let l := m.lane
  match m.arr.ins with
  | .xpair x => some (Nat.xor l x.k.toNat)
  | .xpick _ => some (m.arr.b.toNat % 32)
  | .xback x =>
    if x.ring then some ((l + 32 - x.k.toNat) % 32) else if x.k.toNat ≤ l then some (l - x.k.toNat) else none
  | .xfwd x =>
    if x.ring then some ((l + x.k.toNat) % 32) else if l + x.k.toNat < 32 then some (l + x.k.toNat) else none
  | .xone x => some x.k.toNat
  | _ => none

/-- The fill is 0 under `.Z`. -/
def fillZ : Instr → Bool
  | .xpair x | .xback x | .xfwd x | .xone x => x.z
  | .xpick x => x.z
  | _ => false

def exchangeValue (cons : List Member) (m : Member) : W32 :=
  match (sourceLane m).bind fun l => cons.find? fun x => x.lane == l with
  | some x => x.arr.a
  | none => if fillZ m.arr.ins then 0 else m.arr.a

/-! ### Votes and reductions (R237 to R239) -/

/-- What `POLL` writes in every contributing member. -/
def pollRes (cons : List Member) (x : LPoll) : LaneRes :=
  let yes := cons.filter fun m => m.arr.a != 0
  match x.mode.toNat with
  | 0 => out1 x.vd (BitVec.ofNat 32 (yes.foldl (fun n m => n + 2 ^ m.lane) 0))
  | 1 => { preds := [(Fin.ofNat 8 x.vd.val, !yes.isEmpty)] }
  | 2 => { preds := [(Fin.ofNat 8 x.vd.val, yes.length == cons.length)] }
  | _ => out1 x.vd (BitVec.ofNat 32 yes.length)

/-- minimumNumber or maximumNumber over a list (R48). -/
def redMinMax (isMax : Bool) : List W32 → FRes
  | [] => ⟨0, 0⟩
  | v :: vs => vs.foldl (fun r x =>
      let y := fp32F.minMax false isMax r.bits x.toNat
      ⟨y.bits, r.flags ||| y.flags⟩) (fp32F.minMax false isMax v.toNat v.toNat)

/-- Fold a word operation over a list that is not empty. -/
def redWords (f : W32 → W32 → W32) : List W32 → FRes
  | [] => ⟨0, 0⟩
  | v :: vs => ⟨(vs.foldl f v).toNat, 0⟩

/-- The reduction of R238 and R239. -/
def redOf (op : RedOp) (vs : List W32) : FRes :=
  match op with
  | .add => redWords (· + ·) vs
  | .min => redWords (minS 32) vs
  | .max => redWords (maxS 32) vs
  | .minu => redWords (minU 32) vs
  | .maxu => redWords (maxU 32) vs
  | .and => redWords (· &&& ·) vs
  | .or => redWords (· ||| ·) vs
  | .xor => redWords (· ^^^ ·) vs
  | .fadd => fp32F.sumRes .rn false true (vs.map fun v => fp32F.decode v.toNat)
  | .fmin => redMinMax false vs
  | .fmax => redMinMax true vs

/-! ### Conditional streams (R240 to R245) -/

/-- A stream header (R191). -/
structure Stream where
  tail : Nat
  head : Nat
  cap : Nat
  rsize : Nat
  done : Bool
  ok : Bool
  deriving DecidableEq, Repr, Inhabited

/-- Read a header; `ok` is the part of step 3 of R241 that does not concern SZ. -/
def Core.streamAt (k : Core) (a : Nat) : Stream :=
  let cap := k.kword (a + 8) 2
  let rsize := k.kword (a + 10) 2
  let last := k.kword (a + 12) 4
  { tail := k.kword a 4, head := k.kword (a + 4) 4, cap := cap, rsize := rsize,
    done := last % 2 == 1,
    ok := last / 2 == 0x5C000000 / 2 && cap != 0 && decide (cap ≤ 4096) &&
      (rsize == 4 || rsize == 8 || rsize == 16 || rsize == 32) && k.kword (a + 16) 16 == 0 }

/-- Records in the stream: (TAIL − HEAD) mod 2^32. -/
def Stream.count (x : Stream) : Nat := (x.tail + 2 ^ 32 - x.head) % 2 ^ 32

/-- The address of slot `n`, which is TAIL + r or HEAD + r, not reduced (R242, R243). -/
def Stream.slot (x : Stream) (a n : Nat) : Nat := a + 32 + n % x.cap * x.rsize

/-- How a stream instruction finds its object: a fault, a wait for a lock, or the header. -/
inductive StreamAccess where
  | fault (c : Cause)
  | wait
  | ok (x : Stream)
  deriving DecidableEq, Repr, Inhabited

/-- The checks of R241; `size` is the record size that SZ gives, for `QPUSH` and `QPOP`. A range lock of either kind on the
header or the slots makes the instruction wait. -/
def Core.streamCheck (k : Core) (a : Nat) (size : Option Nat) : StreamAccess :=
  if a % 32 ≠ 0 then .fault .align
  else if kennelSize < a + 32 then .fault .kennelRange
  else if k.locked false a 32 true then .wait
  else if k.kpoisoned a 32 then .fault .memoryError
  else
    let x := k.streamAt a
    if x.ok = false || (match size with | some n => x.rsize != n | none => false) then .fault .badStream
    else if size.isSome && decide (kennelSize < a + 32 + x.cap * x.rsize) then .fault .kennelRange
    else if k.locked false a (32 + x.cap * x.rsize) true then .wait
    else .ok x

def recordBytes (ws : List W32) : List Byte := ws.flatMap fun w => leBytes 4 w.toNat

def wordsOf (k : Core) (a n : Nat) : List W32 := (List.range n).map fun j => BitVec.ofNat 32 (k.kword (a + 4 * j) 4)

/-- One arrival of `QPUSH` on a checked stream (R242): a fault, or the new state. -/
def pushStep (c : CoreNo) (a : Nat) (x : Stream) (cons : List Member) (s : State) : Except Cause State :=
  if x.done then .error .badStream
  else if x.cap < x.count + cons.length then .error .streamFull
  else
    let s := cons.zipIdx.foldl (fun s m =>
      s.kwrite c (x.slot a (x.tail + m.2)) (recordBytes m.1.arr.vals)) s
    .ok (s.kwrite c a (leBytes 4 (x.tail + cons.length)))

/-- What one member of a `QPOP` receives: its block and true, or false alone (R243). -/
def popRes (k : Core) (a : Nat) (x : Stream) (q : LQpop) (r : Nat) : LaneRes :=
  if r < x.count then
    { regs := [(q.vd, wordsOf k (x.slot a (x.head + r)) (2 ^ q.sz.toNat))], preds := [(q.pb, true)] }
  else { preds := [(q.pb, false)] }

/-- A `QPOP` or `QPUSH` whose members have all arrived (R241 to R243). -/
def completeStream (c : CoreNo) (sz : BitVec 2) (pop : Option LQpop) (mem cons : List Member) (s : State) : State :=
  match cons with
  | [] => finishAll mem (fun _ => {}) s
  | m0 :: _ =>
    if cons.any fun m => m.arr.a != m0.arr.a then faultAll cons .collectiveMismatch 0 0 s
    else
      let a := m0.arr.a.toNat
      let addr : W64 := m0.arr.a.zeroExtend 64
      let k := s.core c
      match k.streamCheck a (some (4 * 2 ^ sz.toNat)) with
      | .fault cause => faultAll cons cause addr 0 s
      | .wait => s
      | .ok x =>
        match pop with
        | none =>
          match pushStep c a x cons s with
          | .error cause => faultAll cons cause addr 0 s
          | .ok s => finishAll mem (fun _ => {}) s
        | some _ =>
          let taken := Nat.min cons.length x.count
          let popped := (List.range taken).any fun r =>
            k.kpoisoned (x.slot a (x.head + r)) x.rsize
          if popped then faultAll cons .memoryError addr 0 s
          else
            let s := s.kwrite c (a + 4) (leBytes 4 (x.head + taken))
            finishAll mem (fun m =>
              match m.arr.ins with
              | .qpop q => popRes k a x q (cons.idxOf m)
              | _ => {}) s

/-- The checks of `QCNT` and `QEND` (R244), on the header as the thread sees it. -/
def laneStream (f : Nat → Stream → State → LaneOut) : LaneFn := fun i s =>
  let u := s.atBank i.t.c i.t.agent i.a0.toNat 32
  match (u.core i.t.c).streamCheck i.a0.toNat none with
  | .fault cause => .fault s cause (i.a0.zeroExtend 64) 0
  | .wait => .hold s
  | .ok x => f i.a0.toNat x u

def laneQcnt (x : LR1) : LaneFn :=
  laneStream fun _ st u => .ok u (out1 x.vd (BitVec.ofBool st.done ++ BitVec.ofNat 31 st.count))

def laneQend (_ : LQend) : LaneFn := fun i =>
  laneStream (fun a _ u => .ok (u.kwrite i.t.c (a + 12) (leBytes 4 0x5C000001)) {}) i

def execQcnt (x : LR1) (s : State) : Out := .next (laneAll (.qcnt x) (laneQcnt x) s)
def execQend (x : LQend) (s : State) : Out := .next (laneAll (.qend x) (laneQend x) s)

/-! ### Decision records (R37, R246) -/

/-- The oldest attached record of the team that the thread has not popped. -/
def nextDq (dq : Vector DqRec 16) (dtag : BitVec 16) (last : Nat) : Option (Fin 16) :=
  (List.finRange 16).foldl (fun best i =>
    let r := dq[i]
    if r.st = .attached ∧ r.dtag = dtag ∧ last < r.order then
      match best with
      | some b => if r.order < dq[b].order then some i else best
      | none => some i
    else best) none

def laneDqpop (x : LDqpop) : LaneFn := fun i s =>
  let k := s.core i.t.c
  match nextDq k.dq i.team.dtag i.th.lastDq with
  | none => .ok s { preds := [(x.pb, false)] }
  | some n =>
    let r := k.dq[n]
    let r' : DqRec := if r.remain ≤ 1 then { r with st := .free, remain := 0 } else { r with remain := r.remain - 1 }
    let s := s.updCore i.t.c fun k => { k with dq := k.dq.set n.val r' }
    let s := s.onThread i.t fun th => { th with cursor := th.cursor + 1, lastDq := r.order }
    .ok s { regs := [(x.vd, r.payload.toList)], preds := [(x.pb, true)] }

def execDqpop (x : LDqpop) (s : State) : Out := .next (laneAll (.dqpop x) (laneDqpop x) s)

/-! ### Nested issue (R132 to R134, R247 to R249) -/

/-- A parameter block (R247): index, MOD, operand kinds and values. -/
structure ParamBlock where
  idx : Byte
  md : BitVec 14
  kinds : List Nat
  vals : List W128
  ok : Bool
  deriving DecidableEq, Repr, Inhabited

def ParamBlock.of (bs : List Byte) : ParamBlock :=
  let kinds := (List.range 4).map fun j => wordOf bs 4 1 / 4 ^ j % 4
  let vals : List W128 := (List.range 4).map fun j => BitVec.ofNat 128 (wordOf bs (16 + 16 * j) 16)
  let fieldOk (kv : Nat × W128) : Bool :=
    match kv.1 with
    | 0 => kv.2 == 0
    | 1 => true
    | 2 => kv.2.extractLsb' 64 64 == 0
    | _ => false
  { idx := BitVec.ofNat 8 (wordOf bs 0 1), md := BitVec.ofNat 14 (wordOf bs 2 2), kinds := kinds, vals := vals,
    ok := wordOf bs 1 1 == 0 && decide (wordOf bs 2 2 < 16384) && wordOf bs 5 11 == 0 && (kinds.zip vals).all fieldOk }

def ParamBlock.kind (b : ParamBlock) (j : Nat) : OpKind :=
  match b.kinds.getD j 0 with
  | 1 => .tile
  | 2 => .val
  | _ => .absent

def ParamBlock.opd (b : ParamBlock) (j : Nat) : OpVal :=
  match b.kind j with
  | .tile => .tile (b.vals.getD j 0)
  | .val => .val ((b.vals.getD j 0).extractLsb' 0 64)
  | .zero | .absent => .none

/-- The issue record of a nested op: its operands stand in the values, its address is the parent's. -/
def ParamBlock.rcd (b : ParamBlock) (pc : W64) : IssueRec :=
  { pc := pc, word := { idx := b.idx, d := .l 0, a := .l 0, b := .l 0, c := .l 0, md := b.md }, d := b.opd 0,
    a := b.opd 1, b := b.opd 2, c := b.opd 3, dreg := none }

/-- The bytes of a parent operand in a space, as the scoreboard holds them (R125); REMOTE by PEER. -/
def operandBytes (pedlimit : Nat) (space peer : BitVec 2) (v : OpVal) : List (Nat × Nat) :=
  match v with
  | .none | .val _ => []
  | .tile t =>
    let d := Desc.of t
    if space = spaceRemote then (if d.space = spaceRemote ∧ d.peer = peer then d.rowsList else [])
    else
      let x := descTouch pedlimit false false v
      if space = spaceAcc then x.ar else x.kr

/-- The parent's operands that it holds as written (R125, R133). -/
def writtenOperands (team : Team) : List OpVal :=
  let r := team.rcd
  if team.entry.inplace then [r.d, r.a, r.b, r.c]
  else if team.entry.scratch then [r.d, r.c] else [r.d]

/-- A nested operand lies within one of the parent's operands; a REMOTE one is held against operands of its own PEER. -/
def operandWithin (pedlimit : Nat) (parents : List OpVal) (v : OpVal) : Bool :=
  match v with
  | .none | .val _ => true
  | .tile t =>
    let d := Desc.of t
    parents.any fun p => rangesWithin d.rowsList (operandBytes pedlimit d.space d.peer p)

/-- Where nested D must lie: within the operands that the parent holds as written, but a REMOTE one within any REMOTE
operand of the same PEER. -/
def parentsOfD (team : Team) (v : OpVal) : List OpVal :=
  let r := team.rcd
  match v with
  | .tile t => if (Desc.of t).space = spaceRemote then [r.d, r.a, r.b, r.c] else writtenOperands team
  | .none | .val _ => writtenOperands team

/-- Containment (R133). -/
def contained (pedlimit : Nat) (team : Team) (fn : Nat) (r : IssueRec) : Bool :=
  let all := [team.rcd.d, team.rcd.a, team.rcd.b, team.rcd.c]
  let tbl := match tableAddr fn r.word.md.toNat r, r.a with
    | some a, .tile t =>
      all.any fun p => rangesWithin [(a.toNat, 2 * (Desc.of t).cols)] (operandBytes pedlimit spaceKennel 0 p)
    | _, _ => true
  operandWithin pedlimit (parentsOfD team r.d) r.d && operandWithin pedlimit all r.a &&
    operandWithin pedlimit all r.b && operandWithin pedlimit all r.c && tbl

/-- What the checks of R248 and R249 answer: a fault with its address, a lock, or the op that issues. -/
inductive NestedCheck where
  | fault (c : Cause) (addr : W64)
  | lock (addr : W64)
  | ok (e : BindEntry) (r : IssueRec)
  deriving DecidableEq, Repr, Inhabited

/-- The format word of R249 agrees with the block. -/
def formatOk (f : W32) (b : ParamBlock) : Bool :=
  let fmt (j : Nat) : BitVec 4 := (Desc.of (b.vals.getD j 0)).fmt
  b.idx == 0 && f.extractLsb' 14 18 == 0 && b.md == (f.extractLsb' 12 2).zeroExtend 14 &&
    fmt 1 == f.extractLsb' 0 4 && fmt 2 == f.extractLsb' 4 4 && fmt 0 == f.extractLsb' 8 4

/-- Steps 1 to 5 of R248 for the block at `a`; `fmt` is the format word of an `LMMA`. -/
def nestedCheck (s : State) (t : TRef) (team : Team) (a : W64) (fmt : Option W32) : NestedCheck :=
  let k := s.core t.c
  let ped := s.pedlimit t.c
  if a.toNat % 16 ≠ 0 then .fault .align a
  else if kennelSize < a.toNat + 80 then .fault .kennelRange a
  else if k.locked false a.toNat 80 false then .lock a
  else if k.kpoisoned a.toNat 80 then .fault .memoryError a
  else
    let b := ParamBlock.of (k.kreadBy t.agent a.toNat 80)
    let e := match fmt with
      | some _ => engineEntry 0
      | none => k.table[b.idx.toNat]'b.idx.isLt
    let r := b.rcd team.rcd.pc
    let descBad (v : OpVal) : Bool :=
      match v with
      | .tile t => !(Desc.of t).ok ped true
      | .none | .val _ => false
    if b.ok = false then .fault .badParam a
    else if fmt.isNone && e.kind != .engine then .fault .nestDepth 0
    else if engineAccepts e.engfn b.md.toNat (b.kind 0) (b.kind 1) (b.kind 2) (b.kind 3) = false then
      .fault .badParam a
    else if descBad r.d || descBad r.a || descBad r.b || descBad r.c then .fault .badParam a
    else if (match fmt with | some f => !formatOk f b | none => false) then .fault .badParam a
    else if contained ped team e.engfn r = false then .fault .nestContain 0
    else .ok e r

/-- Step 6 of R248: a CORE-scope release of the thread, then the op enters its engine queue behind the ops there. -/
def issueNested (t : TRef) (team : Team) (e : BindEntry) (r : IssueRec) (block : Nat) (s : State) : Nat × State :=
  let s := s.release t.c t.agent .core
  let k := s.core t.c
  let replay := match k.op? team.op with
    | some o => o.replay
    | none => false
  let o : Op := { id := k.nextId, rcd := r, entry := e, dtag := team.dtag, q := queueOf e, st := .queued,
                  parent := some team.op, block := block, folded := [], replay := replay, held := false,
                  floor := k.issueFloor t.agent }
  (o.id, s.updCore t.c fun k => { k with ops := k.ops ++ [o], nextId := k.nextId + 1 })

/-- `LTOP` in one thread (R248). Of the threads of a subset that issue it at once, as many do as the engine queue has
places for, in lane order, and the others wait, by R134, so that the subset splits (log entry 34, the model's choice). -/
def laneLtop (x : LR1) : LaneFn := fun i s =>
  let a : W64 := i.a0.zeroExtend 64
  match nestedCheck s i.t i.team a none with
  | .fault cause addr => .fault s cause addr 0
  | .lock addr => .lock s addr
  | .ok e r =>
    if 8 ≤ (s.core i.t.c).queued (queueOf e) then .hold s
    else
      let n := issueNested i.t i.team e r a.toNat s
      .ok n.2 { late := some (x.vd, 1, .nested n.1) }

def execLtop (x : LR1) (s : State) : Out := .next (laneAll (.ltop x) (laneLtop x) s)

/-- An `LMMA` whose members have all arrived (R249). -/
def completeLmma (c : CoreNo) (team : Team) (mem cons : List Member) (s : State) : State :=
  match cons with
  | [] => finishAll mem (fun _ => {}) s
  | m0 :: _ =>
    match cons.find? fun m => m.arr.a != m0.arr.a with
    | some m => faultAll cons .formatDivergence 0 (m.arr.a ++ m0.arr.a) s
    | none =>
      match nestedCheck s m0.t team (m0.arr.b.zeroExtend 64) (some m0.arr.a) with
      | .fault cause addr => laneFault m0.t cause addr 0 s
      | .lock addr =>
        if s.laneHandler c = 0 then s else (enterHandler m0.t .rangeLock addr 0 s).2
      | .ok e r =>
        if 8 ≤ (s.core c).queued (queueOf e) then s
        else
          let n := issueNested m0.t team e r m0.arr.b.toNat s
          finishAll mem (fun m =>
            match m.arr.ins with
            | .lmma x => { late := some (x.vd, 1, .nested n.1) }
            | _ => {}) n.2

/-! ### COLLECTIVE_COMPLETION -/

/-- Complete a matching arrival (R232 to R243). -/
def completeColl (c : CoreNo) (team : Team) (a : Arrival) (mem : List Member) (s : State) : State :=
  let cons := mem.filter fun m => m.arr.contrib
  match a.ins with
  | .qpush x => completeStream c x.sz none mem cons s
  | .qpop x => completeStream c x.sz (some x) mem cons s
  | .lmma _ => completeLmma c team mem cons s
  | _ =>
    finishAll mem (fun m =>
      match m.arr.ins with
      | .poll x => pollRes cons x
      | .red x =>
        let r := redOf x.op (cons.map fun m => m.arr.a)
        out1 x.vd (BitVec.ofNat 32 r.bits) r.flags
      | .xpair x | .xback x | .xfwd x | .xone x => outLate x.vd [exchangeValue cons m]
      | .xpick x => outLate x.vd [exchangeValue cons m]
      | _ => {}) s

/-- COLLECTIVE_COMPLETION: the arrival of the thread completes, or faults with the others (R232, R233). Arrivals do not
match when one names a thread that stands at the other. Where a named thread has exited and another stands at a collective
that does not match, COLLECTIVE_MISMATCH is taken: R233 gives no order (log entry 75, the model's choice). -/
def execCollectiveCompletion (c : CoreNo) (lane slot : Nat) (s : State) : Out :=
  match s.thread c lane slot with
  | none => .next s
  | some th =>
    match th.wait, (s.core c).team? th.team with
    | .coll a, some team =>
      let here := s.arrived c th.team (lane / 32)
      let mem := here.filter fun m => m.arr.matches a
      let on (l : Nat) : Option Member := here.find? fun m => m.lane == l
      let live (l : Nat) : Bool :=
        ((s.core c).teamThreads th.team).any fun x => x.1 == 32 * (lane / 32) + l
      let named := maskLanes a.mask
      let other := here.filter fun m =>
        !m.arr.matches a && (named.contains m.lane || mem.any fun x => m.arr.mask.getLsbD x.lane)
      if !other.isEmpty then
        .next (faultAll (here.filter fun m => m.arr.matches a || other.any fun o => m.arr.matches o.arr)
          .collectiveMismatch 0 0 s)
      else if named.any fun l => !live l then .next (faultAll mem .collectiveExited 0 0 s)
      else if named.all fun l => (on l).isSome then .next (completeColl c team a mem s)
      else .next s
    | _, _ => .next s

end Sys2Proof.Machine
end

