-- ==== Sys2Proof/Machine/LaneCtl.lean ====
section
/-! DEFINITION. Lane control: the fetch of a lane word, PC-subsets (R213 to R216), branches, calls, exits and yields
(R217 to R219), the repeat prefix (R220, R221), traps and the return from the handler (R251 to R254). -/

namespace Sys2Proof.Machine

open Sys2Proof

/-! ### Lane fetch (R279, R288) -/

/-- What a fetch finds: the word and the state whose instruction cache holds it, a wait, or a fault. -/
inductive LaneFetched where
  | word (w : W64) (s : State)
  | wait (s : State)
  | fail (cause : Cause)

/-- Words of the lane instruction cache: 64 KiB (R279). -/
def icacheWords : Nat := 8192

/-- A fetched word enters the instruction cache; from a full one, any word leaves. -/
def State.cacheWord (s : State) (c : CoreNo) (pc w : W64) : State :=
  let n := s.choice
  let put (m : CoreMem) (old : List (Nat × W64)) : CoreMem :=
    { m with icache := (pc.toNat, w) :: old, lanePoison := m.lanePoison.filter (· != pc.toNat / 8) }
  let full := decide (icacheWords ≤ (s.core c).mem.icache.length)
  (if full then n.2 else s).updCore c fun k =>
    { k with mem := put k.mem (if full then k.mem.icache.eraseIdx (n.1 % icacheWords) else k.mem.icache) }

/-- Fetch the word at `pc` for a thread: from the instruction cache, else from device memory through a translation
with X (R279, R288). -/
def laneFetch (t : TRef) (pc : W64) (s : State) : LaneFetched :=
  match s.laneWord t.c pc with
  | some w => if (s.core t.c).mem.lanePoison.contains (pc.toNat / 8) then .fail .memoryError else .word w s
  | none =>
    let k := s.core t.c
    match s.threadOf t with
    | none => .wait s
    | some th =>
      match th.park with
      | .failed cause => .fail cause
      | .walking | .waiting _ _ => .wait s
      | .none | .retry =>
        match k.tlbFind k.ctx pc .fetch with
        | some p =>
          let w : W64 := BitVec.ofNat 64 (s.dev.word p.pa 8)
          if s.dev.poisoned p.pa 8 then .fail .memoryError else .word w (s.cacheWord t.c pc w)
        | none =>
          if s.walkRoom t.c = false then .wait s
          else
            .wait ((s.updCore t.c fun k =>
              k.startWalk { va := pc, need := Need.fetch.code, who := .fetch t.lane t.slot }).onThread t
                fun th => { th with park := .walking })

/-! ### PC-subsets (R213, R214) -/

/-- The thread belongs to the subset at its PC: it neither waits nor is parked for a replayable fault. -/
def Thread.inSubset (th : Thread) : Bool :=
  th.wait == .none &&
    match th.park with
    | .none | .retry | .walking | .failed _ => true
    | .waiting _ _ => false

/-- The threads of a team on a group that lie in some subset. -/
def Core.subsetThreads (k : Core) (op g : Nat) : List (Nat × Nat × Thread) :=
  (k.teamThreads op).filter fun x => x.1 / 32 == g && x.2.2.inSubset

/-- The subset at the PC of a thread, in lane order. -/
def Core.subsetAt (k : Core) (op g : Nat) (pc : W64) : List (Nat × Nat) :=
  ((k.subsetThreads op g).filter fun x => x.2.2.pc == pc).map fun x => (x.1, x.2.1)

/-- The lowest lanes of the subsets other than those of the lanes `out`. -/
def Core.otherHeads (k : Core) (op g : Nat) (out : List Nat) : List Nat :=
  let ts := (k.subsetThreads op g).filter fun x => !out.contains x.1
  (ts.filter fun x => ts.all fun y => y.2.2.pc != x.2.2.pc || decide (x.1 ≤ y.1)).map fun x => x.1

/-- next(S) of R214, by its lowest lane: the next head above `low`, cyclically; none when there is no other. -/
def nextHead (heads : List Nat) (low : Nat) : Option Nat :=
  match heads.find? fun l => decide (low < l) with
  | some l => some l
  | none => heads.head?

def Core.setArb (k : Core) (op g : Nat) (a : Arb) : Core :=
  k.updTeam op fun t => { t with arb := t.arb.setIfInBounds g a }

/-- The arbiter moves to next(S); it stays when there is no other subset. -/
def Core.moveArb (k : Core) (op g low : Nat) (out : List Nat) : Core :=
  k.setArb op g
    { low := some ((nextHead (k.otherHeads op g out) low).getD low), timer := 0, period := k.seq.faircyc }

/-! ### Transfers and ends (R217 to R219) -/

/-- The check of R87 on a target. -/
def laneTargetOk (a : W64) : Bool := a.extractLsb' 0 3 == 0 && a.extractLsb' 52 12 == 0

/-- Go to a checked target with results. -/
def laneGoto (target : W64) (r : LaneRes) (s : State) : LaneOut :=
  if laneTargetOk target then .ok s { r with goto := some target } else .fault s .badTarget target 0

/-- PC + 8 × sext(IMM, 18). -/
def laneDisp (pc : W64) (d : BitVec 18) : W64 := pc + 8 * d.signExtend 64

def laneBra (x : LBra) : LaneFn := fun i s => laneGoto (laneDisp i.th.pc x.disp) {} s
def laneBrx (_ : LBrx) : LaneFn := fun i s => laneGoto (wide i.a) {} s
def laneCallF (x : LCall) : LaneFn := fun i s =>
  laneGoto (laneDisp i.th.pc x.disp) { regs := [(x.vd, splitWide (i.th.pc + 8))] } s
def laneRetF (_ : LBrx) : LaneFn := fun i s => laneGoto (wide i.a) {} s

/-- Poison in what `RET.TR` reads of a frame: RESUME, FULL and SAVE (R253, R285). -/
def Core.framePoisoned (k : Core) (lane slot : Nat) : Bool :=
  k.ppoisoned lane (frameAddr slot) 8 || k.ppoisoned lane (frameAddr slot + 0x25) 0x13

/-- `RET.TR` (R254): the frame of the thread's slot gives the PC and `v0` to `v3`. Poison in what it reads is reported
before a RESUME that fails R87: no rule orders the two (log entry 75, the model's choice). -/
def laneRetTr (_ : LNone) : LaneFn := fun i s =>
  let base := 2048 * i.t.lane + frameAddr i.t.slot
  let word (a n : Nat) : Nat := ofBytes ((s.core i.t.c).mem.pread a n)
  let resume : W64 := BitVec.ofNat 64 (word base 8)
  let full := word (base + 0x25) 1
  let restore (th : Thread) : Thread := (List.range 4).foldl (fun th r =>
    if full / 2 ^ r % 2 = 1 then th.put r (BitVec.ofNat 32 (word (base + 0x28 + 4 * r) 4)) else th.drop r) th
  if (s.core i.t.c).framePoisoned i.t.lane i.t.slot then
    .fault s .memoryError (BitVec.ofNat 64 (frameAddr i.t.slot)) 0
  else if laneTargetOk resume then .ok (s.onThread i.t restore) { goto := some resume }
  else .fault s .badTarget resume 0

/-- `EXIT`: the slot and its registers are freed; the flags stay with the team (R29), and what the thread has done is
released towards the completion of the op (R265). -/
def laneExit (_ : LNone) : LaneFn := fun i s =>
  .ok ((s.release i.t.c i.t.agent .core).updCore i.t.c fun k =>
    (k.updTeam i.team.op fun t => { t with flags := t.flags ||| i.th.flags }).setThread i.t.lane i.t.slot none) {}

/-- `YIELD` with a true guard in some thread: the arbiter moves to next(S) (R214). -/
def laneYield (_ : LNone) : LaneFn := fun i s =>
  let lanes := (s.sched.issue.map Prod.fst).filter fun l => l / 32 == i.t.lane / 32
  let low := lanes.foldl Nat.min i.t.lane
  .ok (s.updCore i.t.c fun k => k.moveArb i.team.op (i.t.lane / 32) low lanes) {}

def laneNopF (_ : LNone) : LaneFn := fun _ s => .ok s {}

def execBra (x : LBra) (s : State) : Out := .next (laneAll (.bra x) (laneBra x) s)
def execBrx (x : LBrx) (s : State) : Out := .next (laneAll (.brx x) (laneBrx x) s)
def execLaneCall (x : LCall) (s : State) : Out := .next (laneAll (.laneCall x) (laneCallF x) s)
def execLaneRet (x : LBrx) (s : State) : Out := .next (laneAll (.laneRet x) (laneRetF x) s)
def execRetTr (x : LNone) (s : State) : Out := .next (laneAll (.retTr x) (laneRetTr x) s)
def execExit (x : LNone) (s : State) : Out := .next (laneAll (.exit x) (laneExit x) s)
def execYield (x : LNone) (s : State) : Out := .next (laneAll (.yield x) (laneYield x) s)
def execLaneNop (x : LNone) (s : State) : Out := .next (laneAll (.laneNop x) (laneNopF x) s)

/-! ### Traps and breakpoints (R251, R252) -/

/-- What a trap of the thread answers. -/
def trapOut (r : Issued) : LaneOut := if r.1 then .hold r.2 else .done r.2

def laneTrapF (x : LTrap) : LaneFn := fun i s => trapOut (laneTrapTo i.t .software x.code s)

/-- The context on a core is under debug. -/
def State.debugged (s : State) (c : CoreNo) : Bool :=
  match s.ctx? (s.core c).ctx with
  | some x => x.debug
  | none => false

/-- A thread stops for the debugger, which is told (R251). -/
def debugPark (t : TRef) (s : State) : State :=
  (s.onThread t fun th => { th with wait := .debug, pend := [] }).toMgmt (.debug t.c t.lane t.slot)

def laneBrk (_ : LNone) : LaneFn := fun i s =>
  if s.debugged i.t.c then .done (debugPark i.t s) else trapOut (laneTrapTo i.t .breakpoint 0 s)

def execLaneTrap (x : LTrap) (s : State) : Out := .next (laneAll (.laneTrap x) (laneTrapF x) s)
def execBrk (x : LNone) (s : State) : Out := .next (laneAll (.brk x) (laneBrk x) s)

/-! ### The repeat prefix (R220, R221) -/

/-- The meaning of an instruction that `REP` may repeat; none for the majors that R221 excludes and for `DQPOP`,
`TRAP` and `BRK`. -/
def laneFnOf : Instr → Option LaneFn
  | .iadd x => some (laneIadd x)
  | .isub x => some (laneIsub x)
  | .imul x => some (laneImul x)
  | .imulh x => some (laneImulh x)
  | .imad x => some (laneImad x)
  | .iadd64 x => some (laneIadd64 x)
  | .idiv x => some (laneIdiv x)
  | .idivu x => some (laneIdivu x)
  | .irem x => some (laneIrem x)
  | .iremu x => some (laneIremu x)
  | .imin x => some (laneImin x)
  | .imax x => some (laneImax x)
  | .iminu x => some (laneIminu x)
  | .imaxu x => some (laneImaxu x)
  | .iabs x => some (laneIabs x)
  | .ineg x => some (laneIneg x)
  | .laneAnd x => some (laneAndF x)
  | .laneOr x => some (laneOrF x)
  | .laneXor x => some (laneXorF x)
  | .laneAndn x => some (laneAndnF x)
  | .bitfn x => some (laneBitfn x)
  | .laneShl x => some (laneShlF x)
  | .laneShr x => some (laneShrF x)
  | .laneSar x => some (laneSarF x)
  | .rotr x => some (laneRotr x)
  | .lanePopc x => some (lanePopcF x)
  | .laneClz x => some (laneClzF x)
  | .brev x => some (laneBrev x)
  | .bfe x => some (laneBfe x)
  | .bfi x => some (laneBfi x)
  | .permb x => some (lanePermb x)
  | .laneSel x => some (laneSelF x)
  | .icmp x => some (laneIcmp x)
  | .fcmp x => some (laneFcmp x)
  | .predfn x => some (lanePredfn x)
  | .pmovToRegister x => some (lanePmovToRegister x)
  | .pmovToPredicates x => some (lanePmovToPredicates x)
  | .fadd x => some (laneFadd x)
  | .fsub x => some (laneFsub x)
  | .fmul x => some (laneFmul x)
  | .ffma x => some (laneFfma x)
  | .fmin x => some (laneFmin x)
  | .fmax x => some (laneFmax x)
  | .fdiv x => some (laneFdiv x)
  | .fsqrt x => some (laneFsqrt x)
  | .frcp x => some (laneFrcp x)
  | .frsq x => some (laneFrsq x)
  | .fexp2 x => some (laneFexp2 x)
  | .flog2 x => some (laneFlog2 x)
  | .ftanh x => some (laneFtanh x)
  | .pkadd x => some (lanePkadd x)
  | .pkmul x => some (lanePkmul x)
  | .pkfma x => some (lanePkfma x)
  | .pkmin x => some (lanePkmin x)
  | .pkmax x => some (lanePkmax x)
  | .cvt x => some (laneCvt x)
  | .cvtpk x => some (laneCvtpk x)
  | .cvtunpk x => some (laneCvtunpk x)
  | .pwenc x => some (lanePwenc x)
  | .pwdec x => some (lanePwdec x)
  | .idp4 x => some (laneIdp4 x)
  | .fdp2 x => some (laneFdp2 x)
  | .laneMov x => some (laneMovF x)
  | .movi x => some (laneMovi x)
  | .movhi x => some (laneMovhi x)
  | .sread x => some (laneSread x)
  | .rng x => some (laneRng x)
  | .ctradd x => some (laneCtradd x)
  | .ld x => some (laneLd x)
  | .st x => some (laneSt x)
  | .laneLdk x => some (laneLdkF x)
  | .laneStk x => some (laneStkF x)
  | .ldp x => some (laneLdp x)
  | .stp x => some (laneStp x)
  | .ldc x => some (laneLdc x)
  | .atom x => some (laneAtom x)
  | .atomcas x => some (laneAtomcas x)
  | .laneFence x => some (laneFenceF x)
  | .mstep x => some (laneMstep x)
  | _ => none

/-- A field that `REP` advances: where it stands in the word, and the block that the next instruction has there. -/
def repFields (u : RegUse) (fields : BitVec 4) : List (Nat × Option Fld) :=
  [(39, u.d), (33, u.a), (26, u.b), (19, u.c)].zipIdx.filterMap fun x => if fields.getLsbD x.2 then some x.1 else none

/-- The next word may be repeated with these fields and this stride (R221). -/
def repOk (w : W64) (x : LRep) : Bool :=
  match decodeLane w with
  | .error _ => false
  | .ok i =>
    (laneFnOf i).isSome && (repFields i.use x.fields).all fun f =>
      match f.2 with
      | some b => x.stride.toNat % b.n == 0
      | none => false

/-- The word of iteration `j`; none when a formed index passes 63. -/
def repWord (w : W64) (u : RegUse) (r : Rep) : Option W64 :=
  (repFields u r.fields).foldl (fun acc f =>
    match acc, f.2 with
    | some v, some b =>
      if 63 < b.r.val + r.j * r.stride then none
      else some (v + (BitVec.ofNat 64 (r.j * r.stride) <<< f.1))
    | _, _ => none) (some w)

/-- One iteration: form the word and issue it in the thread. -/
def repIterate (t : TRef) (w : W64) (r : Rep) (s : State) : Issued :=
  match decodeLane w with
  | .error _ => laneTrapTo t .illegalLane 0 s
  | .ok base =>
    match repWord w base.use r with
    | none => (false, laneFault t .budget 0 0 s)
    | some w' =>
      match decodeLane w' with
      | .error _ => laneTrapTo t .illegalLane 0 s
      | .ok i =>
        match laneFnOf i with
        | some f => laneOne i f t s
        | none => (false, laneFault t .badRep 0 0 s)

/-- `REP` before its first iteration: the word is checked, then the REP state is set, or an empty repeat is done. -/
def laneRepStart (w : W64) (x : LRep) : LaneFn := fun i s =>
  let n := match x.cnt with
    | .reg _ => i.a0.toNat
    | .imm c => c.toNat
  if repOk w x = false then .fault s .badRep 0 0
  else if n = 0 then .ok s { goto := some (i.th.pc + 16) }
  else
    .done (s.onThread i.t fun th =>
      { th.release { a := (Instr.rep x).use.a } with
        pend := [], park := .none, rep := some { n := n, j := 0, stride := x.stride.toNat, fields := x.fields } })

/-- `REP` in one thread. The word after it is fetched first: its own checks of BUDGET and EMPTY_READ come after that
(log entry 60). -/
def repOne (x : LRep) (t : TRef) (s : State) : Issued :=
  match s.threadOf t with
  | none => (false, s)
  | some th =>
    if th.rep.isNone && x.h.holds th.p = false then laneOne (.rep x) (fun _ s => .ok s {}) t s
    else
      match laneFetch t (th.pc + 8) s with
      | .wait s => (true, s)
      | .fail cause => (false, laneFault t cause (th.pc + 8) 0 s)
      | .word w s =>
        match th.rep with
        | some r => repIterate t w r s
        | none => laneOne (.rep x) (laneRepStart w x) t s

def execRep (x : LRep) (s : State) : Out := .next (subsetIssue (repOne x) s)

end Sys2Proof.Machine
end

