-- ==== Sys2Proof/Machine/CoreEvents.lean ====
section
/-! DEFINITION. Steps of a core that are no instruction: results (R77, R98), admission (R128), the pedigree scan and
the completion of ops (R127, R130), abort and watchdog (R131, R135, R375), delivery (R136), waits (R176, R214). -/

namespace Sys2Proof.Machine

open Sys2Proof

/-! ### Results -/

/-- LONG_LATENCY_RESULT: result `k` of a thread is written (R77); a load that has not read its memory yet reads it now.
Nested and remote results come with their op and their response. -/
def execLongLatencyResult (c : CoreNo) (lane slot k : Nat) (s : State) : Out :=
  let s := bindThreadLoad c lane slot (fun _ => true) s k
  match (s.thread c lane slot).bind fun th => th.pend[k]? with
  | none => .next s
  | some p =>
    match p.arrived, p.res with
    | false, .vals ws => .next (s.updThread c lane slot fun th => th.arrive k ws)
    | _, _ => .next s

/-- SEQUENCER_RESULT: result `k` of the sequencer is written, its flags with it (R65, R98); a load that has not read its
memory yet reads it now. -/
def execSequencerResult (c : CoreNo) (k : Nat) (s : State) : Out :=
  let s := bindSeqLoad c (fun _ => true) s k
  match (s.core c).seq.pend[k]? with
  | some ⟨d, some v, fl, _⟩ =>
    .next (s.updSeq c fun q => (SK.put v { q with pend := q.pend.eraseIdx k } d).orFlags fl)
  | _ => .next s

/-! ### TEAM_ADMISSION (R128, R25, R22) -/

/-- The lowest free slot of a lane. -/
def Core.freeSlot (k : Core) (lane : Nat) : Option Nat := (List.range 4).find? fun t => (k.thread lane t).isNone

def Core.groupFree (k : Core) (g : Nat) : Bool := (List.range 32).all fun l => (k.freeSlot (32 * g + l)).isSome

/-- The groups that a team of this GANG takes, in ascending order. -/
def Core.groupsFor (k : Core) (gang : Nat) : Option (List Nat) :=
  match gang with
  | 0 => ((List.range 4).find? k.groupFree).map fun g => [g]
  | 1 =>
    if k.groupFree 0 && k.groupFree 1 then some [0, 1]
    else if k.groupFree 2 && k.groupFree 3 then some [2, 3] else none
  | _ => if (List.range 4).all k.groupFree then some [0, 1, 2, 3] else none

/-- A thread at its start (R22); its floor is the one that issue handed to the op. -/
def startThread (o : Op) (rank : Nat) : Thread :=
  { team := o.id, rank := rank, pc := o.entry.w1, floor := o.floor }

/-- Start the threads of a team on its groups. -/
def Core.startTeam (k : Core) (now : Nat) (o : Op) (groups : List Nat) : Core :=
  let team : Team := { op := o.id, rcd := o.rcd, entry := o.entry, dtag := o.dtag, groups := groups, admitted := now,
                       exempt := 0, arb := Vector.replicate 4 { period := k.seq.faircyc }, flags := 0, fault := none, aborting := false,
                       scan := none }
  let k := { (k.updOp o.id fun o => { o with st := .running }) with teams := k.teams ++ [team] }
  groups.zipIdx.foldl (fun k g => (List.range 32).foldl (fun k l =>
    match k.freeSlot (32 * g.1 + l) with
    | some t => k.setThread (32 * g.1 + l) t (some (startThread o (32 * g.2 + l)))
    | none => k) k) k

/-- The head of the lane dispatch queue. -/
def Core.laneHead (k : Core) : Option Op := k.ops.find? fun o => o.q == .lane && o.st == .queued

def execTeamAdmission (c : CoreNo) (s : State) : Out :=
  let k := s.core c
  match k.laneHead with
  | none => .next s
  | some o =>
    match k.groupsFor o.entry.gang with
    | some gs => if k.moving then .next (s.updCore c fun k => k.startTeam s.now o gs) else .next s
    | none => .next s

/-! ### PEDIGREE_SCAN (R130) -/

/-- Steps 1 and 2 of R130: every thread has exited and every nested op has completed. -/
def Core.teamDone (k : Core) (op : Nat) : Bool :=
  (k.teamThreads op).isEmpty && !(k.ops.any fun o => o.parent == some op)

/-- The tiles that the scan reads. -/
def Team.scanTiles (t : Team) (pedlimit : Nat) : List W128 :=
  (writtenOperands t).filterMap fun v =>
    match v with
    | .tile x =>
      let d := Desc.of x
      if d.pidx ≠ 0 ∧ d.space = spaceKennel ∧ d.ok pedlimit true then some x else none
    | .none | .val _ => none

/-- The folds of one scanned tile: its valid elements, by the descriptor's FMT. -/
def scanFolds (s : State) (c : CoreNo) (replay : Bool) (t : W128) : List Fold :=
  let d := Desc.of t
  (List.range d.rows).flatMap fun i => (List.range d.cols).filterMap fun k =>
    if d.valid i k then
      some { ctx := (s.core c).ctx, idx := d.pidx, bits := s.elem ⟨d, c⟩ i k, replay := replay, fmt := d.fmt }
    else none

/-- A covered row of a scanned tile is poisoned (R285). -/
def scanPoison (s : State) (c : CoreNo) (t : W128) : Bool := s.tilePoisoned ⟨Desc.of t, c⟩

def execPedigreeScan (c : CoreNo) (op : Nat) (s : State) : Out :=
  let k := s.core c
  match k.team? op, k.op? op with
  | some team, some o =>
    if team.aborting || !k.teamDone op || !k.enginesRun then .next s
    else
      match team.scan.getD (team.scanTiles (s.pedlimit c)) with
      | [] => .next (s.updCore c fun k => k.updTeam op fun t => { t with scan := some [] })
      | x :: rest =>
        if scanPoison s c x then
          .next (s.updCore c fun k => k.updTeam op fun t =>
            { t with scan := some [], fault := some { cause := .memoryError, addr := BitVec.ofNat 64 (Desc.of x).base },
                     aborting := true })
        else
          let fs := scanFolds s c o.replay x
          .next (s.updCore c fun k =>
            let k := { k with port := k.port ++ fs }
            let k := k.updOp op fun o => if fs.isEmpty then o else { o with folded := o.folded ++ [(Desc.of x).pidx] }
            k.updTeam op fun t => { t with scan := some rest })
  | _, _ => .next s

/-! ### Abort (R135) -/

/-- Threads that run no further in an aborted team: faulted, at a barrier wait, or at a collective that names one of
these. `stopped` holds the lanes found so far. -/
def stopRound (ts : List (Nat × Nat × Thread)) (stopped : List Nat) : List Nat :=
  (ts.filter fun x =>
    match x.2.2.wait with
    | .faulted | .barrier _ _ _ => true
    | .coll a => (maskLanes a.mask).any fun l => stopped.contains (32 * (x.1 / 32) + l)
    | .none | .debug => false).map fun x => x.1

def stopFix (ts : List (Nat × Nat × Thread)) : Nat → List Nat → List Nat
  | 0, acc => acc
  | n + 1, acc =>
    let next := stopRound ts acc
    if next.length = acc.length then acc else stopFix ts n next

/-- Every thread of the team that has not exited has stopped. -/
def Core.teamStopped (k : Core) (op : Nat) : Bool :=
  let ts := k.teamThreads op
  (stopFix ts 128 []).length == ts.length

/-- Free the slots of a team. -/
def Core.freeTeam (k : Core) (op : Nat) : Core :=
  let k := { k with walks := k.walks.filter fun w =>
    match w.who with
    | .thread l t | .fetch l t => !((k.teamThreads op).any fun x => x.1 == l && x.2.1 == t)
    | .seq | .cmd _ => true }
  (k.teamThreads op).foldl (fun k x => k.setThread x.1 x.2.1 none) k

/-- The flags that the threads of a team have set and not yet left with it. -/
def Core.liveFlags (k : Core) (op : Nat) : Flags6 := (k.teamThreads op).foldl (fun f x => f ||| x.2.2.flags) 0

/-- Steps 2 to 4 of an abort. -/
def Core.finishAbort (k : Core) (team : Team) : Core :=
  let op := team.op
  let st : OpStatus := { (team.fault.getD {}) with flags := team.flags ||| k.liveFlags op }
  let k := { k.freeTeam op with dq := dqAbort k.dq team.dtag }
  { (k.updOp op fun o => { o with st := .executed st none }) with teams := k.teams.filter fun t => t.op != op }

/-- Nested ops that have not started are cancelled once the team has stopped. -/
def Core.cancelNested (k : Core) (op : Nat) : Core :=
  { k with ops := k.ops.filter fun o => !(o.parent == some op && o.st == .queued) }

/-- WATCHDOG's count of a team (R131). -/
def Team.counted (t : Team) (now : Nat) : Nat := now - t.admitted - t.exempt

/-- The live thread of lowest rank. -/
def Core.lowestRank (k : Core) (op : Nat) : Option (Nat × Nat × Thread) :=
  (k.teamThreads op).foldl (fun best x =>
    match best with
    | some b => if x.2.2.rank < b.2.2.rank then some x else best
    | none => some x) none

/-- The team has not ended step 1 of R130 within 2^WDOG counted cycles, and no expiry has stopped it yet (R131). -/
def Core.overdue (k : Core) (now : Nat) (t : Team) : Bool :=
  decide (2 ^ t.entry.wdog ≤ t.counted now) && !(t.aborting && k.teamStopped t.op)

/-- What the threads of a team have issued and still have on its way acts: late loads, atomics and stores. -/
def State.settleThreads (s : State) (c : CoreNo) (op : Nat) : State :=
  ((s.core c).teamThreads op).foldl (fun s x => s.settleAgent c (.thread x.1 x.2.1)) s

/-- The watchdog of an overdue team: every thread stops at once (R375), and the team is aborted. The record tells the
count at the expiry (R376). -/
def State.watchdog (s : State) (c : CoreNo) (op : Nat) : State :=
  let k := s.core c
  match k.team? op, k.lowestRank op with
  | some team, some x =>
    if k.overdue s.now team = false then s
    else
      let st : OpStatus := { cause := .watchdog, detail := BitVec.ofNat 64 (2 ^ team.entry.wdog),
                             lane := some (s.laneWhere ⟨c, x.1, x.2.1⟩ x.2.2) }
      (s.settleThreads c op).updCore c fun k =>
        let k := k.abortTeam op st
        (k.teamThreads op).foldl (fun k y => k.setThread y.1 y.2.1 (some { y.2.2.stop with pend := [] })) k
  | _, _ => s

/-- WATCHDOG: the machine makes this step by itself in the cycle in which a team becomes overdue. -/
def execWatchdog (c : CoreNo) (op : Nat) (s : State) : Out := .next (s.watchdog c op)

/-! ### OP_COMPLETION (R127, R130, R134, R250) -/

/-- The status word of a nested op (R250). -/
def statusWord (st : OpStatus) : W32 := st.flags.zeroExtend 32 ||| (if st.cause = .rescale then 0x40 else 0)

/-- The result of a thread that a nested op's status word answers. -/
def Thread.awaitsOp (th : Thread) (nested : Nat) : Option Nat :=
  (List.range th.pend.length).find? fun i =>
    match th.pend[i]? with
    | some p => !p.arrived && p.res == .nested nested
    | none => false

/-- The status word of a nested op arrives in a register, which is marked: a read of it is an acquire (R250, R265). -/
def Thread.arriveStatus (th : Thread) (i : Nat) (w : W32) : Thread :=
  match th.pend[i]? with
  | some p =>
    let u := th.arrive i [w]
    { u with status := u.status ||| (u.full &&& (1#64 <<< p.dst.val)) }
  | none => th

/-- A nested op's status word is written in the threads that wait for it. -/
def State.nestedArrive (s : State) (c : CoreNo) (op nested : Nat) (w : W32) : State :=
  ((s.core c).teamThreads op).foldl (fun s x =>
    match x.2.2.awaitsOp nested with
    | some i => s.updThread c x.1 x.2.1 fun th => th.arriveStatus i w
    | none => s) s

/-- The address of SCALE in the parameter block's OPD (R18, R247). -/
def blockScale (block : Nat) : Nat := block + 0x19

/-- A nested op that has executed completes; its flags join those of its parent's team, also with a fault (R65, R250). -/
def completeNested (c : CoreNo) (o : Op) (parent : Nat) (st : OpStatus) (scale : Option W32) (s : State) : State :=
  let drop (k : Core) : Core := { k with ops := k.ops.filter fun x => x.id != o.id }
  let folds (p : Op) : Op := { p with folded := p.folded ++ o.folded }
  if st.cause ≠ .none ∧ st.cause ≠ .rescale then
    s.updCore c fun k =>
      (((drop k).abortTeam parent { st with nested := some o.rcd.word.idx }).updTeam parent fun t =>
        { t with flags := t.flags ||| st.flags }).updOp parent folds
  else
    let s := match scale with
      | some d => s.kwrite c (blockScale o.block) (leBytes 4 d.toNat)
      | none => s
    ((s.updCore c drop).nestedArrive c parent o.id (statusWord st)).updCore c fun k =>
      (k.updTeam parent fun t => { t with flags := t.flags ||| st.flags }).updOp parent folds

/-- What a team's threads still have on its way acts before they are freed: each of them releases at CORE towards the
completion of the op (R265). -/
def State.settleTeam (s : State) (c : CoreNo) (op : Nat) : State :=
  ((s.core c).teamThreads op).foldl (fun s x => s.release c (.thread x.1 x.2.1) .core) s

/-- A routine op: the end of an abort, or of R130. -/
def completeTeam (c : CoreNo) (o : Op) (team : Team) (s : State) : State :=
  let k := s.core c
  if team.aborting then
    if k.teamStopped o.id = false then s
    else
      let k := k.cancelNested o.id
      if k.ops.any fun x => x.parent == some o.id then s.setCore c k
      else ((s.setCore c k).settleTeam c o.id).updCore c fun k => k.finishAbort team
  else if k.teamDone o.id && team.scan == some [] then
    (s.updCore c fun k =>
      let k := { k with teams := k.teams.filter fun t => t.op != o.id }
      { (k.retireOp o none) with seq := (k.retireOp o none).seq.orFlags team.flags }).acquire c .seq .core
  else s

def execOpCompletion (c : CoreNo) (op : Nat) (s : State) : Out :=
  let k := s.core c
  match k.op? op with
  | none => .next s
  | some o =>
    match o.st, o.parent with
    | .executed st scale, some p =>
      if scale.isSome && k.locked false (blockScale o.block) 4 true then .next s
      else .next (completeNested c o p st scale s)
    | .executed st scale, none =>
      if st.cause = .none then
        .next ((s.updCore c fun k =>
          let k := k.retireOp o scale
          { k with seq := k.seq.orFlags st.flags }).acquire c .seq .core)
      else .next s
    | .running, _ =>
      match k.team? op with
      | some team => .next (completeTeam c o team s)
      | none => .next s
    | .queued, _ | .delivered, _ => .next s

/-! ### FAULT_DELIVERY (R136) -/

/-- The sequencer takes a delivery: it stands at an instruction boundary, or a wait that a delivery interrupts, or it
has executed `END`, or drains at a safe point. -/
def Seq.takesDelivery (q : Seq) : Bool :=
  (match q.remote with
    | .none => true
    | .flight _ | .value _ | .failed => false) &&
  match q.mode with
  | .run | .ended | .stopped => true
  | .idle | .freezing | .unhandled | .discarding => false

def execFaultDelivery (c : CoreNo) (s : State) : Out :=
  let k := s.core c
  match k.nextFault with
  | some f => if k.seq.takesDelivery && !k.health.clockStop then .next (deliver c f s) else .next s
  | none => .next s

/-! ### BARRIER_WAIT_RELEASE (R176, R231) -/

/-- The phase that a thread waits for has passed: an acquire, and the thread goes on behind its `BWAIT`. A wait whose
object can no longer be read so ends, and the thread issues its `BWAIT` again. -/
def releaseWaiter (t : TRef) (th : Thread) (a : W64) (dev : Bool) (n : W32) (s : State) : State :=
  let pl : Option BarPlace :=
    if dev then
      match (s.core t.c).tlbFind (s.core t.c).ctx a .atomic with
      | some p => some (.device p)
      | none => none
    else some (.kennel t.c a.toNat)
  let held := !dev && (s.core t.c).locked false a.toNat 16 false
  match pl, held with
  | _, true => s
  | none, false => s.onThread t fun th => { th with wait := .none }
  | some pl, false =>
    let s' := s.barSettle t.c t.agent pl
    let b := s'.bar pl
    if b.ok = false || s.barPoisoned pl then s.onThread t fun th => { th with wait := .none }
    else if phasePassed b.phase n then
      let s' := s'.acquire t.c t.agent (barScope dev)
      match decodeLane (s.wordAt t th) with
      | .ok i => s'.onThread t fun th => ({ th with wait := .none } : Thread).retire i {}
      | .error _ => s'.onThread t fun th => { th with wait := .none }
    else s

/-- BARRIER_WAIT_RELEASE: of the sequencer (none) or of a thread. A gated core wakes first (R28, CORE_WAKE). -/
def execBarrierWaitRelease (c : CoreNo) (who : Option (Nat × Nat)) (s : State) : Out :=
  if (s.core c).health.gated then .next s
  else match who with
  | none =>
    let q := (s.core c).seq
    if q.mode ≠ .run then .next s
    else
      match decodeTile (q.wordAt q.pc) none with
      | .ok (.tileBwait x) => execTileBwait x (s.setSched { s.sched with cur := c })
      | _ => .next s
  | some (lane, slot) =>
    match s.thread c lane slot with
    | none => .next s
    | some th =>
      match th.wait, (s.core c).team? th.team with
      | .barrier a dev n, some team =>
        if team.aborting then .next s else .next (releaseWaiter ⟨c, lane, slot⟩ th a dev n s)
      | _, _ => .next s

/-! ### FAIRNESS_TIMER_EXPIRY (R214) -/

/-- The current subset of a team on a group: its lowest lane, and its lanes and slots. -/
def Core.currentSubset (k : Core) (team : Team) (g : Nat) : Option (Nat × List (Nat × Nat)) :=
  let at_ (l : Nat) : Option (Nat × List (Nat × Nat)) :=
    match (k.subsetThreads team.op g).find? fun x => x.1 == l with
    | some x =>
      let sub := k.subsetAt team.op g x.2.2.pc
      some ((sub.map Prod.fst).foldl Nat.min l, sub)
    | none => none
  let a := (team.arb.toList.getD g {}).low
  match a.bind at_ with
  | some r => some r
  | none => (nextHead (k.otherHeads team.op g []) (a.getD 127)).bind at_

/-- The timer has run out, and another subset is there. -/
def Core.expires (k : Core) (team : Team) (g : Nat) : Bool :=
  decide ((team.arb.toList.getD g {}).period ≤ (team.arb.toList.getD g {}).timer) && !team.entry.nofair &&
    match k.currentSubset team g with
    | some r => !(k.otherHeads team.op g (r.2.map Prod.fst)).isEmpty
    | none => false

/-- The move to next(S) that an expiry makes. -/
def Core.expire (k : Core) (team : Team) (g : Nat) : Core :=
  match k.currentSubset team g with
  | some r => k.moveArb team.op g r.1 (r.2.map Prod.fst)
  | none => k

def execFairnessTimerExpiry (c : CoreNo) (group op : Nat) (s : State) : Out :=
  match (s.core c).team? op with
  | some team => if (s.core c).expires team group then .next (s.updCore c fun k => k.expire team group) else .next s
  | none => .next s

end Sys2Proof.Machine
end

