-- ==== Sys2Proof/Machine/Retriever.lean ====
section
/-! DEFINITION. The Retrievers: issue of the nine commands (R161 to R169), their start (R162), their landings (R164
to R169), failures (R170), range locks (R171) and invalidation markers (R172). -/

namespace Sys2Proof.Machine

open Sys2Proof

/-! ### Issue (R163) -/

/-- A command before its capture. -/
def newCmd (kind : CmdKind) (q : BitVec 2) (dev : Bool) (bar : W64) : Cmd :=
  { id := 0, pc := 0, q := q, kind := kind, dev := dev, dst := 0, src := 0, addr := 0, pitch := 0, idx := [],
    count := 0, mask := 0, rdev := 0, rpart := 0, bar := bar, st := .queued, landed := [], sub := 0, frames := 0, park := .none,
    peerBad := false, floor := {}, replay := false, folded := [] }

/-- The operands of a command: its tiles, a Kennel list or reference that it reads (address, alignment, length), and
its device virtual addresses. -/
structure CmdOperands where
  tiles : List W128
  klist : Option (W64 × Nat × Nat) := none
  devs : List W64 := []
  shapeOk : Bool := true
  deriving DecidableEq, Repr, Inhabited

/-- The checks of R163: the state of the trap that the first failure takes. -/
def cmdCheck (c : CoreNo) (m : Cmd) (o : CmdOperands) (s : State) : Option State :=
  let k := s.core c
  let bars : List (W64 × Nat × Nat) := if m.dev then [] else [(m.bar, 16, 16)]
  let kaddrs := o.klist.toList ++ bars
  let vas := o.devs ++ if m.dev then [m.bar] else []
  let bad := o.tiles.filter fun t => !(Desc.of t).ok (s.pedlimit c) false
  let outside := o.tiles.filter fun t => (Desc.of t).space != spaceKennel
  if !bad.isEmpty then some (tileFault c .badDesc 0 s)
  else if !outside.isEmpty || !o.shapeOk then some (tileFault c .illegalOperand 0 s)
  else
    match kaddrs.find? fun a => a.1.toNat % a.2.1 != 0 with
    | some a => some (tileFault c .align a.1 s)
    | none =>
      match kaddrs.find? fun a => decide (kennelSize < a.1.toNat + a.2.2) with
      | some a => some (tileFault c .kennelRange a.1 s)
      | none =>
        match vas.find? fun a => a.extractLsb' 52 12 != 0 with
        | some a => some (tileFault c .badAddr a s)
        | none =>
          if m.dev && m.bar.toNat % 16 != 0 then some (tileFault c .badBarrier m.bar s)
          else
            match o.klist with
            | some a =>
              if k.locked false a.1.toNat a.2.2 false then some (lockTrap c a.1 s)
              else if k.kpoisoned a.1.toNat a.2.2 then some (tileFault c .memoryError a.1 s)
              else none
            | none => none

/-- The command enters its queue: it is numbered with the bound ops, its floor is the release of issue (R106), its
ranges are registered (R171). -/
def Core.captureCmd (k : Core) (m : Cmd) : Core :=
  let m := { m with id := k.nextId, pc := k.seq.pc, floor := k.issueFloor .seq, replay := k.replaying }
  { k with
    cmds := k.cmds ++ [m], nextId := k.nextId + 1, locks := k.locks ++ cmdLocks m,
    retq := if h : m.q.toNat < 4 then k.retq.set m.q.toNat (k.retq[m.q.toNat] ++ [.cmd m.id]) else k.retq,
    seq := k.seq.advance 1 }

/-- Issue a command: it waits for its operands, its tile registers and a place in its queue (R162). -/
def issueCmd (waits : Bool) (regs : List RegNo) (m : Cmd) (o : CmdOperands) (s : State) : Out :=
  let c := s.cur
  let k := s.curCore
  if waits || regs.any k.tilePending || decide (24 ≤ k.retCount m.q) then .next s
  else
    match cmdCheck c m o s with
    | some t => .next t
    | none => .next ((s.release c .seq .core).updCore c fun k => k.captureCmd m)

/-- The memory pitch of R165 from operand C. -/
def cpyPitch (c : W64) (d : Desc) : Nat := if c = 0 then d.rbytes else c.toNat
def cpyPitchOk (c : W64) (d : Desc) : Bool := c == 0 || (decide (d.rbytes ≤ c.toNat) && decide (c.toNat < 2 ^ 32))

def execCpyIn (x : TCpyIn) (s : State) : Out :=
  let q := s.curCore.seq
  let d := Desc.of q.t[x.t]
  let pitch := x.c.val q
  issueCmd (q.pendingSK x.a || q.pendingSK x.b || q.pendingSKL x.c) [x.t]
    { newCmd .cpyIn x.q x.dev (x.b.val q) with dst := q.t[x.t], addr := x.a.val q, pitch := cpyPitch pitch d }
    { tiles := [q.t[x.t]], devs := [x.a.val q], shapeOk := cpyPitchOk pitch d } s

def execCpyOut (x : TCpyOut) (s : State) : Out :=
  let q := s.curCore.seq
  let d := Desc.of q.t[x.t]
  let pitch := x.c.val q
  issueCmd (q.pendingSK x.d || q.pendingSK x.b || q.pendingSKL x.c) [x.t]
    { newCmd .cpyOut x.q x.dev (x.b.val q) with src := q.t[x.t], addr := x.d.val q, pitch := cpyPitch pitch d }
    { tiles := [q.t[x.t]], devs := [x.d.val q], shapeOk := cpyPitchOk pitch d } s

def execCpyKk (x : TCpyKk) (s : State) : Out :=
  let q := s.curCore.seq
  let d := Desc.of q.t[x.t]
  let a := Desc.of q.t[x.a]
  issueCmd (q.pendingSK x.b) [x.t, x.a]
    { newCmd .cpyKk x.q x.dev (x.b.val q) with dst := q.t[x.t], src := q.t[x.a] }
    { tiles := [q.t[x.t], q.t[x.a]],
      shapeOk := d.rows == a.rows && d.rbytes == a.rbytes && !rangesMeet d.rowsList a.rowsList } s

/-- The index list of R166. -/
def readIndices (k : Core) (a n : Nat) : List W32 := (List.range n).map fun i => BitVec.ofNat 32 (ofBytes (k.kreadBy .seq (a + 4 * i) 4))

def execGth (x : TGth) (s : State) : Out :=
  let k := s.curCore
  let q := k.seq
  let n := (Desc.of q.t[x.t]).rows
  let list := x.c.val q
  issueCmd (q.pendingSK x.a || q.pendingSK x.b || q.pendingSK x.c) [x.t]
    { newCmd .gth x.q x.dev (x.b.val q) with dst := q.t[x.t], addr := x.a.val q, idx := readIndices k list.toNat n }
    { tiles := [q.t[x.t]], klist := some (list, 4, 4 * n), devs := [x.a.val q] } s

def execSct (x : TSct) (s : State) : Out :=
  let k := s.curCore
  let q := k.seq
  let n := (Desc.of q.t[x.t]).rows
  let list := x.c.val q
  issueCmd (q.pendingSK x.d || q.pendingSK x.b || q.pendingSK x.c) [x.t]
    { newCmd .sct x.q x.dev (x.b.val q) with src := q.t[x.t], addr := x.d.val q, idx := readIndices k list.toNat n }
    { tiles := [q.t[x.t]], klist := some (list, 4, 4 * n), devs := [x.d.val q] } s

def execPft (x : TPft) (s : State) : Out :=
  let q := s.curCore.seq
  let n := (x.c.val q).toNat
  issueCmd (q.pendingSK x.a || q.pendingSK x.b || q.pendingSKL x.c) []
    { newCmd .pft x.q x.dev (x.b.val q) with addr := x.a.val q, count := n }
    { tiles := [], devs := [x.a.val q], shapeOk := decide (1 ≤ n) && decide (n ≤ 2 ^ 24) } s

/-- The fields of a remote reference (R168). -/
structure RemoteRef where
  pitch : Nat
  rpart : Nat
  rdev : Nat
  rva : W64
  reserved : Bool
  deriving DecidableEq, Repr, Inhabited

def RemoteRef.of (w0 w1 : W64) : RemoteRef :=
  { pitch := (w1.extractLsb' 32 32).toNat, rpart := (w1.extractLsb' 24 4).toNat, rdev := (w1.extractLsb' 0 21).toNat,
    rva := w0, reserved := w0.extractLsb' 52 12 != 0 || w1.extractLsb' 28 4 != 0 || w1.extractLsb' 21 3 != 0 }

/-- `RCPY` in either direction. The fields of a reference that cannot be read, because it is misaligned or beyond the
Kennel, are not looked at (log entry 15). -/
def rcpy (kind : CmdKind) (x : TRcpy) (s : State) : Out :=
  let k := s.curCore
  let q := k.seq
  let a := x.a.val q
  let d := Desc.of q.t[x.t]
  let readable := decide (a.toNat % 16 = 0) && decide (a.toNat + 16 ≤ kennelSize)
  let r := RemoteRef.of (BitVec.ofNat 64 (ofBytes (k.kreadBy .seq a.toNat 8)))
    (BitVec.ofNat 64 (ofBytes (k.kreadBy .seq (a.toNat + 8) 8)))
  issueCmd (q.pendingSK x.a || q.pendingSK x.b) [x.t]
    { newCmd kind x.q x.dev (x.b.val q) with
      dst := q.t[x.t], src := q.t[x.t], addr := r.rva, pitch := if r.pitch = 0 then d.rbytes else r.pitch,
      rdev := r.rdev, rpart := r.rpart }
    { tiles := [q.t[x.t]], klist := some (a, 16, 16),
      shapeOk := !readable || (!r.reserved && (r.pitch == 0 || decide (d.rbytes ≤ r.pitch))) } s

def execRcpyPull (x : TRcpy) (s : State) : Out := rcpy .pull x s
def execRcpyPush (x : TRcpy) (s : State) : Out := rcpy .push x s

def execMcast (x : TMcast) (s : State) : Out :=
  let q := s.curCore.seq
  let mask := x.d.val q
  let others := mask &&& ~~~ (1 <<< (s.cur.val % 4) : W64)
  issueCmd (q.pendingSKL x.d || q.pendingSK x.b) [x.t]
    { newCmd .mcast x.q false (x.b.val q) with src := q.t[x.t], mask := others.toNat }
    { tiles := [q.t[x.t]], shapeOk := others != 0 && decide (mask.toNat < 16) } s

/-! ### Completion and failure (R164, R170, R171) -/

/-- Rows of the command's tile. -/
def Cmd.tile (m : Cmd) : Desc :=
  match m.kind with
  | .cpyIn | .cpyKk | .gth | .pull => Desc.of m.dst
  | .cpyOut | .sct | .push | .mcast | .pft => Desc.of m.src

/-- The pieces of a command: rows, rows for each named core of a `MCAST`, or 512-byte pieces of a `PFT`. -/
def Cmd.pieces (m : Cmd) : List Nat :=
  match m.kind with
  | .pft => List.range ((m.count + 511) / 512)
  | .mcast => (List.range (4 * m.tile.rows)).filter fun p => m.mask.testBit (p % 4)
  | .cpyIn | .cpyOut | .cpyKk | .gth | .sct | .pull | .push => List.range m.tile.rows

/-- A piece has landed; a `MCAST` row for a core that does not run the context counts under `256 +` its number. -/
def Cmd.hasLanded (m : Cmd) (p : Nat) : Bool :=
  m.landed.contains p || (m.kind == .mcast && m.landed.contains (256 + p))

/-- A command leaves the Retriever, and its locks with it. -/
def Core.dropCmd (k : Core) (id : Nat) : Core :=
  { k with cmds := k.cmds.filter fun m => m.id != id, locks := k.locks.filter fun l => l.cmd != id }

/-- A command fails while it executes (R170). -/
def failCmd (c : CoreNo) (m : Cmd) (cause : Cause) (addr : W64) (s : State) : State :=
  let (ok, s) := s.addBack c m
  let st : OpStatus := { cause := if ok then cause else .badBarrier, addr := if ok then addr else m.bar,
                         detail := if ok then 0 else cause.code.zeroExtend 64 }
  (s.updCore c fun k =>
    ({ k.unpark m.park (.cmd m.id) with locks := k.locks.filter fun l => l.cmd != m.id }).updCmd m.id fun x =>
      { x with st := .failed st, park := .none }).dropFlow c m.id

/-- Record landed pieces; the last one completes the command, or ends a `MCAST` with MCAST_PEER (R169). -/
def settleCmd (c : CoreNo) (id : Nat) (ps : List Nat) (size : Nat) (peerBad : Bool) (s : State) : State :=
  let s := s.updCore c fun k => k.updCmd id fun m =>
    { m with landed := m.landed ++ ps, sub := m.sub + size, peerBad := m.peerBad || peerBad, park := .none }
  match (s.core c).cmd? id with
  | none => s
  | some m =>
    if m.pieces.all m.hasLanded then
      if m.peerBad then failCmd c m .mcastPeer 0 s else (s.updCore c fun k => k.dropCmd id).dropFlow c id
    else s

/-- Subtract the size of a landing whose bytes have been performed (R164). -/
def subtractLanding (c : CoreNo) (m : Cmd) (pl : BarPlace) (ps : List Nat) (size : Nat) (s : State) : State :=
  if s.barPoisoned pl then failCmd c m .memoryError m.bar s
  else
    match s.barUpdate c.val (s.core c).ctx m.replay pl 0 (-(size : Int)) with
    | some r => settleCmd c m.id ps size false r.2
    | none => failCmd c m .badBarrier m.bar s

/-! ### Translation for a Retriever (R170, R172, R290) -/

/-- The outcome of translating for a command. -/
inductive CmdAccess where
  | ok (ps : List (Phys × Nat))
  | wait (s : State)
  | fail (cause : Cause) (addr : W64)

/-- Translate byte ranges for a command: by the TLB, else a walk begins and the command parks. -/
def cmdXlate (c : CoreNo) (m : Cmd) (need : Need) (a n : Nat) (s : State) : CmdAccess :=
  let k := s.core c
  if 2 ^ 52 < a + n then .fail .badAddr (BitVec.ofNat 64 a)
  else
    match m.park with
    | .failed cause => .fail cause (BitVec.ofNat 64 a)
    | .walking | .waiting _ _ => .wait s
    | .none | .retry =>
      let pcs := pagePieces (n / 65536 + 2) a n
      let one (x : Nat × Nat) := (findIn (k.cmdTlb m) k.ctx (BitVec.ofNat 64 x.1) need).map fun p => (p, x.2)
      match pcs.find? fun x => (one x).isNone with
      | some x =>
        if s.walkRoom c = false then .wait s
        else
          .wait (s.updCore c fun k =>
            (k.startWalk { va := BitVec.ofNat 64 x.1, need := need.code, who := .cmd m.id }).updCmd m.id fun m =>
              { m with park := .walking })
      | none => .ok (pcs.filterMap one)

/-- The command's barrier, translated where it lies in device memory. -/
inductive CmdBarrier where
  | at (pl : BarPlace)
  | wait (s : State)
  | fail (cause : Cause) (addr : W64)

def cmdBarrier (c : CoreNo) (m : Cmd) (s : State) : CmdBarrier :=
  if m.dev = false then .at (.kennel c m.bar.toNat)
  else
    match cmdXlate c m .atomic m.bar.toNat 16 s with
    | .wait t => .wait t
    | .fail cause a => .fail cause a
    | .ok ps =>
      match ps with
      | p :: _ => .at (.device p.1)
      | [] => .wait s

/-! ### Landings (R164 to R169) -/

/-- One side of a landing: Kennel bytes, or device bytes at virtual address. -/
inductive Side where
  | kennel (a n : Nat)
  | memory (a n : Nat)
  deriving DecidableEq, Repr, Inhabited

def Desc.row (d : Desc) (i : Nat) : Side := .kennel (d.base + i * d.pitch) d.rbytes

def Cmd.memRow (m : Cmd) (i : Nat) : Side := .memory (m.addr.toNat + i * m.pitch) m.tile.rbytes

def Cmd.listRow (m : Cmd) (i : Nat) : Side :=
  .memory (m.addr.toNat + (m.idx.getD i 0).toNat * m.tile.rbytes) m.tile.rbytes

/-- Source and destination of row `i`. -/
def Cmd.sides (m : Cmd) (i : Nat) : Side × Side :=
  match m.kind with
  | .cpyIn => (m.memRow i, (Desc.of m.dst).row i)
  | .cpyOut => ((Desc.of m.src).row i, m.memRow i)
  | .cpyKk => ((Desc.of m.src).row i, (Desc.of m.dst).row i)
  | .gth => (m.listRow i, (Desc.of m.dst).row i)
  | .sct => ((Desc.of m.src).row i, m.listRow i)
  | .pull | .push | .mcast | .pft => ((Desc.of m.src).row i, (Desc.of m.src).row i)

/-- The physical bytes that a row will be written to, as far as they translate for the command. -/
def State.landBytes (s : State) (c : CoreNo) (m : Cmd) (i : Nat) : List (Nat × Nat) :=
  match (m.sides i).2 with
  | .kennel a n => [(a, n)]
  | .memory a n =>
    match s.cmdRange c m .write a n with
    | .ok ps => ps.map fun x => (x.1.pa, x.2)
    | .error _ => []

/-- An earlier row to the same bytes has not landed: rows take effect in row order (R164). -/
def State.rowBlocked (s : State) (c : CoreNo) (m : Cmd) (i : Nat) : Bool :=
  (List.range i).any fun j => !m.landed.contains j && rangesMeet (s.landBytes c m j) (s.landBytes c m i)

/-- Translate the memory side of a landing, if it has one. -/
def sideXlate (c : CoreNo) (m : Cmd) (need : Need) (x : Side) (s : State) : CmdAccess :=
  match x with
  | .kennel _ _ => .ok []
  | .memory a n => cmdXlate c m need a n s

/-- The bytes of a source side; none when they are poisoned (R285). -/
def readSide (c : CoreNo) (m : Cmd) (x : Side) (ps : List (Phys × Nat)) (s : State) : Option (List Byte × State) :=
  match x with
  | .kennel a n => if (s.core c).kpoisoned a n then none else some ((s.core c).kread a n, s)
  | .memory _ _ =>
    if ps.any fun p => s.dev.poisoned p.1.pa p.2 then none
    else
      some (ps.foldl (fun acc p =>
        let r := acc.2.readAs c m.id m.floor p.1.pa p.2
        (acc.1 ++ r.1, r.2)) ([], s))

def writeSide (c : CoreNo) (m : Cmd) (x : Side) (ps : List (Phys × Nat)) (bs : List Byte) (s : State) : State :=
  match x with
  | .kennel a _ => s.kwrite c a bs
  | .memory _ _ =>
    let ctx := (s.core c).ctx
    let folds := (ps.map fun p => p.1.pidx).filter fun i => s.dev.folds ctx i
    (s.writePieces c.val ctx m.replay ps bs).updCore c fun k => k.updCmd m.id fun m => { m with folded := m.folded ++ folds }

def Side.addr : Side → W64
  | .kennel a _ => BitVec.ofNat 64 a
  | .memory a _ => BitVec.ofNat 64 a

/-! ### A piece that lands byte by byte (R257, R269, R270)

By default a step makes every read and write of a piece; the model's list of choices may ask for some of them (log entry
8). -/

/-- Read byte `i` of a source side. -/
def readByte (c : CoreNo) (m : Cmd) (x : Side) (ps : List (Phys × Nat)) (i : Nat) (s : State) : Byte × State :=
  match x with
  | .kennel a _ => (((s.core c).kread (a + i) 1).headD 0, s)
  | .memory _ _ =>
    let fl := match (s.core c).cmd? m.id with | some m => m.floor | none => m.floor
    let r := s.readAs c m.id fl (pieceAt ps i) 1
    (r.1.headD 0, r.2)

/-- Write byte `i` of a destination side, of core `d` where it lies in the Kennel; its fold is made with the last byte. -/
def writeByte (d : CoreNo) (x : Side) (ps : List (Phys × Nat)) (i : Nat) (b : Byte) (s : State) : State :=
  match x with
  | .kennel a _ => s.kwrite d (a + i) [b]
  | .memory _ _ => s.putByte d.val (pieceAt ps i) b

/-- The folds of a side that has been written byte by byte. -/
def foldSide (c : CoreNo) (m : Cmd) (ps : List (Phys × Nat)) (s : State) : State :=
  let ctx := (s.core c).ctx
  let folds := (ps.map fun p => p.1.pidx).filter fun i => s.dev.folds ctx i
  (s.foldPieces ctx m.replay ps).updCore c fun k =>
    k.updCmd m.id fun m => { m with folded := m.folded ++ folds }

/-- What a command holds of a piece of `len` bytes. -/
def Cmd.landingOf (m : Cmd) (piece len : Nat) : Landing :=
  (m.part.find? fun p => p.piece == piece).getD
    { piece := piece, got := List.replicate len none, left := List.range len }

/-- A step of a piece: with choice `n` even and not 0 it reads some of the bytes that it has not read, else it reads the
rest and writes some; 0 makes all that is left. The bytes of the piece, when the last one is written. -/
def landSome (c : CoreNo) (m : Cmd) (piece len n : Nat) (read : Nat → State → Byte × State)
    (write : Nat → Byte → State → State) (s : State) : Option (List Byte) × State :=
  let p := m.landingOf piece len
  let pick (i : Nat) : Bool := n == 0 || (n / 2).testBit i
  let reading := n != 0 && n % 2 == 0 && p.got.any Option.isNone
  let got := byteSteps (if reading then n / 2 else 0) p.got read s
  let now := if reading then [] else p.left.filter pick
  let s := now.foldl (fun s i => write i ((got.1.getD i none).getD 0) s) got.2
  let left := p.left.filter fun i => !now.contains i
  let q : Landing := { p with got := got.1, left := left }
  (if left.isEmpty then some (got.1.map fun b => b.getD 0) else none,
   s.updCore c fun k => k.updCmd m.id fun m =>
    { m with part := (m.part.filter fun p => p.piece != piece) ++ if left.isEmpty then [] else [q] })

/-- Poison where a piece has still to read (R285). -/
def sidePoisoned (c : CoreNo) (x : Side) (ps : List (Phys × Nat)) (s : State) : Bool :=
  match x with
  | .kennel a n => (s.core c).kpoisoned a n
  | .memory _ _ => ps.any fun p => s.dev.poisoned p.1.pa p.2

def Side.len : Side → Nat
  | .kennel _ n | .memory _ n => n

/-- Some bytes of a row from side to side; core `d` holds a destination in the Kennel. When the last is written the row has
landed. -/
def landPartly (c d : CoreNo) (m : Cmd) (piece n : Nat) (src dst : Side) (sp dp : List (Phys × Nat))
    (landed : State → State) (s : State) : State :=
  let p := m.landingOf piece src.len
  if p.got.any Option.isNone && sidePoisoned c src sp s then failCmd c m .memoryError src.addr s
  else
    let r := landSome c m piece src.len n (readByte c m src sp) (writeByte d dst dp) s
    match r.1 with
    | none => r.2
    | some _ =>
      landed (match dst with
        | .memory _ _ => foldSide c m dp r.2
        | .kennel _ _ => r.2)

/-- A piece moves whole in one step: the default choice, and nothing of it under way. -/
def Cmd.whole (m : Cmd) (piece n : Nat) : Bool := n == 0 && !(m.part.any fun p => p.piece == piece)

/-- One row of `CPY`, `GTH` or `SCT` lands. -/
def landRow (c : CoreNo) (m : Cmd) (i n : Nat) (s : State) : State :=
  let (src, dst) := m.sides i
  match sideXlate c m .read src s with
  | .wait t => t
  | .fail cause a => failCmd c m cause a s
  | .ok sp =>
    match sideXlate c m .write dst s with
    | .wait t => t
    | .fail cause a => failCmd c m cause a s
    | .ok dp =>
      match cmdBarrier c m s with
      | .wait t => t
      | .fail cause a => failCmd c m cause a s
      | .at pl =>
        if m.whole i n then
          match readSide c m src sp s with
          | none => failCmd c m .memoryError src.addr s
          | some (bs, s) => subtractLanding c m pl [i] bs.length (writeSide c m dst dp bs s)
        else landPartly c c m i n src dst sp dp (subtractLanding c m pl [i] src.len) s

/-- Translate for a `PFT`, which takes no translation fault after issue (R167): the failure where there is one, which is a
violation when it lies at the carve-out (R293). An address past 2^52 has no page. -/
def pftXlate (c : CoreNo) (m : Cmd) (need : Need) (a n : Nat) (s : State) : Except WalkFail (List (Phys × Nat)) :=
  if 2 ^ 52 < a + n then .error ⟨failNotPresent, 3, 0, false⟩ else s.cmdRange c m need a n

/-- A request of a `PFT` that is dropped is counted, and logged where the carve-out refuses it. -/
def pftDrop (c : CoreNo) (need : Need) (f : WalkFail) (s : State) : State :=
  (s.refusedAt (s.core c).ctx 2 c.val need f).updCore c fun k => { k with drops := k.drops + 1 }

/-- One piece of a `PFT`: nothing is written; a translation that fails is dropped and counted, that of its barrier too,
to which then nothing is subtracted (R167, log entry 57). -/
def landPft (c : CoreNo) (m : Cmd) (i : Nat) (s : State) : State :=
  let n := Nat.min 512 (m.count - 512 * i)
  let s := match pftXlate c m .read (m.addr.toNat + 512 * i) n s with
    | .ok _ => s
    | .error f => pftDrop c .read f s
  if m.dev = false then subtractLanding c m (.kennel c m.bar.toNat) [i] n s
  else
    match pftXlate c m .atomic m.bar.toNat 16 s with
    | .ok (p :: _) => subtractLanding c m (.device p.1) [i] n s
    | .ok [] => settleCmd c m.id [i] 0 false s
    | .error f => settleCmd c m.id [i] 0 false (pftDrop c .atomic f s)

/-- A row of a `MCAST` has been written in a core of the cluster: that core's barrier is updated. -/
def landedMcast (c peer : CoreNo) (m : Cmd) (p : Nat) (s : State) : State :=
  let size := descRow m.src
  let pl : BarPlace := .kennel peer m.bar.toNat
  if s.barPoisoned pl then failCmd c m .memoryError m.bar s
  else
    match s.barUpdate c.val (s.core c).ctx m.replay pl 0 (-(size : Int)) with
    | some r => settleCmd c m.id [p] size false r.2
    | none => failCmd c m .badBarrier m.bar s

/-- One row of a `MCAST` lands in one core of the cluster (R169). -/
def landMcast (c : CoreNo) (m : Cmd) (p n : Nat) (s : State) : State :=
  let d := Desc.of m.src
  let row := p / 4
  let peer := clusterCore c (p % 4)
  let a := d.base + row * d.pitch
  if (s.core peer).seq.mode == .idle || (s.core peer).ctx != (s.core c).ctx then settleCmd c m.id [256 + p] 0 true s
  else if m.whole p n then
    if (s.core c).kpoisoned a d.rbytes then failCmd c m .memoryError (BitVec.ofNat 64 a) s
    else landedMcast c peer m p (s.kwrite peer a ((s.core c).kread a d.rbytes))
  else landPartly c peer m p n (.kennel a d.rbytes) (.kennel a d.rbytes) [] [] (landedMcast c peer m p) s

/-- A row of a `RCPY.PULL` that a DATA frame has brought, and that has not landed whole, goes on (R366). -/
def landPull (c : CoreNo) (m : Cmd) (i n : Nat) (s : State) : State :=
  let row := (Desc.of m.dst).row i
  if m.part.any fun p => p.piece == i then
    match cmdBarrier c m s with
    | .wait t => t
    | .fail cause a => failCmd c m cause a s
    | .at pl => landPartly c c m i n row row [] [] (subtractLanding c m pl [i] row.len) s
  else s

/-! ### Start (R162, R172) and the frames of `RCPY` (R364, R366) -/

/-- Rows of one YTT frame: whole rows, at most 8,192 bytes. -/
def rowsPerFrame (rlen : Nat) : Nat := 8192 / rlen

/-- First row and row count of each frame of a command of `rows` rows. -/
def frameRows (rows rlen : Nat) : List (Nat × Nat) :=
  let n := rowsPerFrame rlen
  (List.range ((rows + n - 1) / n)).map fun i => (n * i, Nat.min n (rows - n * i))

/-- Send the GET of a `RCPY.PULL`. -/
def startPull (c : CoreNo) (m : Cmd) (s : State) : State :=
  let d := Desc.of m.dst
  let dst := yttEnd m.rdev m.rpart
  let (fl, s) := s.yttOpen (.cmd c m.id) dst
  let f := yttFrame 2 (yttEnd s.ytt.devid.toNat (ctxPart (s.core c).ctx).val) dst m.addr 0 []
  s.yttSend fl { f with fl := 1, rows := BitVec.ofNat 16 d.rows, rlen := BitVec.ofNat 16 d.rbytes,
                        pitch := BitVec.ofNat 32 m.pitch }

/-- Open the flow of a `RCPY.PUSH`. -/
def startPush (c : CoreNo) (m : Cmd) (s : State) : State := (s.yttOpen (.cmd c m.id) (yttEnd m.rdev m.rpart)).2

/-- Send the next PUT frame of a `RCPY.PUSH`: its rows are read before, byte by byte (R267, R270). -/
def sendPush (c : CoreNo) (m : Cmd) (n : Nat) (s : State) : State :=
  let d := Desc.of m.src
  let dst := yttEnd m.rdev m.rpart
  match (frameRows d.rows d.rbytes)[m.frames]?, s.ytt.flows.find? fun f => f.job == some (.cmd c m.id) with
  | some r, some fl =>
    let rows := (List.range r.2).map fun i => d.base + (r.1 + i) * d.pitch
    let k := s.core c
    let send (bytes : List Byte) (s : State) : State :=
      let f := yttFrame 1 (yttEnd s.ytt.devid.toNat (ctxPart k.ctx).val) dst (BitVec.ofNat 64 (m.addr.toNat + r.1 * m.pitch)) 0
        bytes
      let last : BitVec 16 := if r.1 + r.2 = d.rows then 1 else 0
      (s.yttSend fl { f with fl := last, rows := BitVec.ofNat 16 r.2, rlen := BitVec.ofNat 16 d.rbytes,
                             pitch := BitVec.ofNat 32 m.pitch }).updCore c fun k =>
        k.updCmd m.id fun m => { m with frames := m.frames + 1 }
    let piece := 256 + m.frames
    if ((m.landingOf piece (r.2 * d.rbytes)).got.any Option.isNone) && rows.any (fun a => k.kpoisoned a d.rbytes) then
      failCmd c m .memoryError (BitVec.ofNat 64 d.base) s
    else if m.whole piece n then send (rows.flatMap fun a => k.kread a d.rbytes) s
    else
      let got := landSome c m piece (r.2 * d.rbytes) n
        (fun i s => (((s.core c).kread (d.base + (r.1 + i / d.rbytes) * d.pitch + i % d.rbytes) 1).headD 0, s))
        (fun _ _ s => s) s
      match got.1 with
      | some bytes => send bytes got.2
      | none => got.2
  | _, _ => s

/-- RETRIEVER_LANDING: one piece of a running command. Rows of a `RCPY` land by DATA and ACK frames instead (R168); a
`RCPY.PUSH` sends its next frame. -/
def execRetrieverLanding (c : CoreNo) (id piece : Nat) (s : State) : Out :=
  match (s.core c).cmd? id with
  | none => .next s
  | some m =>
    if m.st ≠ .running || !(s.core c).moving || !m.pieces.contains piece || m.hasLanded piece then .next s
    else
      let (n, s) := s.choice
      match m.kind with
      | .pull => .next (landPull c m piece n s)
      | .push => .next (sendPush c m n s)
      | .pft => .next (landPft c m piece s)
      | .mcast => .next (landMcast c m piece n s)
      | .cpyIn | .cpyOut | .cpyKk | .gth | .sct =>
        if s.rowBlocked c m piece then .next s else .next (landRow c m piece n s)

/-- RETRIEVER_COMMAND_START: the entry at the head of a Retriever queue, a command or a marker. A marker passes once
every command ahead of it is complete. -/
def execRetrieverCommandStart (c : CoreNo) (q : BitVec 2) (s : State) : Out :=
  let k := s.core c
  if !k.moving then .next s
  else
    match k.retq.toList.getD q.toNat [] with
    | [] => .next s
    | e :: rest =>
      let pop (k : Core) : Core :=
        { k with retq := if h : q.toNat < 4 then k.retq.set q.toNat rest else k.retq }
      match e with
      | .marker _ _ =>
        if k.cmds.any fun m => m.q == q && m.st == .running then .next s else .next (s.updCore c pop)
      | .cmd id =>
        let s := s.updCore c fun k => (pop k).updCmd id fun m => { m with st := .running }
        match (s.core c).cmd? id with
        | none => .next s
        | some m =>
          match m.kind with
          | .pull => .next (startPull c m s)
          | .push => .next (startPush c m s)
          | .cpyIn | .cpyOut | .cpyKk | .gth | .sct | .pft | .mcast => .next s

end Sys2Proof.Machine
end

