-- ==== Sys2Proof/Machine/MemEvents.lean ====
section
/-! DEFINITION. Steps of memory: folds and closes (R274 to R278, R179 to R183), stores (R258), page walks and the fault
buffer (R288 to R291), ECC errors (R285) and the scrubber (R294). -/

namespace Sys2Proof.Machine

open Sys2Proof

/-! ### Folds (R274) -/

/-- FOLD_PERFORMED: fold `k` of a core's port reaches the folding slice of the core. -/
def execFoldPerformed (c : CoreNo) (k : Nat) (s : State) : Out :=
  match (s.core c).port[k]? with
  | none => .next s
  | some f =>
    .next ((s.setDev { s.dev with partials := partialAdd s.dev.partials (portSlice c) f }).updCore c fun x =>
      { x with port := x.port.eraseIdx k })

/-- The close of a record that is in progress at HOME. -/
def DevMem.closeOf (d : DevMem) (ctx : W32) (i : Nat) : Option Close :=
  d.closes.find? fun x => x.ctx == ctx && x.idx == i

/-- A slice whose drain point has passed keeps its new partials until the copy (R276). -/
def DevMem.drained (d : DevMem) (ctx : W32) (i slice : Nat) : Bool :=
  match d.closeOf ctx i with
  | some x => x.drained.contains slice
  | none => false

/-- PARTIAL_FORWARD: a slice forwards its partial of a record to HOME. -/
def execPartialForward (slice : Nat) (ctx : W32) (i : Nat) (s : State) : Out :=
  if s.dev.drained ctx i slice then .next s else .next (s.forwardPartial slice ctx i)

/-! ### Closes and resets (R179, R182, R276, R277) -/

def DevMem.updClose (d : DevMem) (ctx : W32) (i : Nat) (f : Close → Close) : DevMem :=
  { d with closes := d.closes.map fun x => if x.ctx = ctx ∧ x.idx = i then f x else x }

/-- CLOSE_DRAIN: the drain point of a slice; it forwards its folds, then acknowledges. -/
def execCloseDrain (ctx : W32) (i slice : Nat) (s : State) : Out :=
  match s.dev.closeOf ctx i with
  | none => .next s
  | some x =>
    if x.drained.contains slice || decide (64 ≤ slice) then .next s
    else
      let s := s.forwardPartial slice ctx i
      .next (s.setDev (s.dev.updClose ctx i fun x => { x with drained := x.drained ++ [slice] }))

/-- The record after a close or a reset: the open bank is empty, GEN one more. -/
def PedRec.close (r : PedRec) (reset : Bool) : PedRec :=
  { r with gen := r.gen + 1, opn := {}, closed := if reset then {} else r.opn, replay := r.replay && !reset }

/-- CLOSE_COPY: with every slice drained, HOME ends the generation in one step. -/
def execCloseCopy (ctx : W32) (i : Nat) (s : State) : Out :=
  match s.dev.closeOf ctx i with
  | none => .next s
  | some x =>
    if x.drained.length < 64 then .next s
    else
      let s := s.updRcd ctx i (fun r => r.close x.reset) true
      .next (s.setDev { s.dev with closes := s.dev.closes.filter fun y => !(y.ctx == ctx && y.idx == i) })

/-! ### Requests at HOME (R181, R183, R382) -/

/-- A field of a bank (R181). -/
def Bank.field (b : Bank) (f : Nat) : W64 :=
  match f with
  | 0x00 => b.amax.zeroExtend 64
  | 0x04 => b.zeros.zeroExtend 64
  | 0x08 => b.nans.zeroExtend 64
  | 0x0C => b.infs.zeroExtend 64
  | 0x10 => b.count
  | 0x18 => b.ovf.zeroExtend 64
  | _ => (b.hist.toList.getD ((f - 0x20) / 4) 0).zeroExtend 64

/-- A word of the header (R181). -/
def PedRec.hdrField (r : PedRec) (home f : Nat) : W64 :=
  match f with
  | 0x00 => r.gen.zeroExtend 64
  | 0x04 => if r.replay then 1 else 0
  | 0x08 => r.thresh.zeroExtend 64
  | _ => (r.word0C home).zeroExtend 64

/-- A header field that `PSETT` writes (R183). -/
def PedRec.sett (r : PedRec) (f : BitVec 2) (v : W64) : PedRec :=
  match f.toNat with
  | 0 => { r with thresh := v.extractLsb' 0 32 }
  | 1 => { r with eo := v.extractLsb' 0 8 }
  | 2 => { r with fmt := v.extractLsb' 0 4 }
  | _ => { r with replay := v.getLsbD 0 }

/-- HOME's answer reaches the pending result for a register. -/
def Seq.answer (q : Seq) (d : SK) (v : W64) : Seq :=
  { q with pend := q.pend.map fun p => if p.d = d ∧ p.v = none then { p with v := some v } else p }

/-- HOME performs a request of core `c`. -/
def pedAtHome (c : CoreNo) (r : PedReq) (s : State) : State :=
  let ctx := (s.core c).ctx
  let rcd := s.dev.rcd ctx r.index
  let opened (reset : Bool) : State :=
    s.setDev { s.dev with closes := s.dev.closes ++
      [{ ctx := ctx, idx := r.index, reset := reset, who := .core c, drained := [] }] }
  match r with
  | .close _ => opened false
  | .reset _ => opened true
  | .peek _ f d => s.updSeq c fun q => q.answer d (rcd.opn.field f)
  | .read _ f d => s.updSeq c fun q => q.answer d (rcd.closed.field f)
  | .readHdr i f d => s.updSeq c fun q => q.answer d (rcd.hdrField (s.recordHome ctx i) f)
  | .sett i f v => s.updRcd ctx i (fun x => x.sett f v) false

/-- Requests of one record are performed in issue order; a close or reset waits for the one in progress (R179, R382). -/
def State.pedReady (s : State) (c : CoreNo) : List Nat :=
  let k := s.core c
  (List.range k.ped.length).filter fun i =>
    match k.ped[i]? with
    | none => false
    | some r =>
      !((k.ped.take i).any fun x => x.index == r.index) &&
        !(r.isClose && (s.dev.closeOf k.ctx r.index).isSome)

/-- PEDIGREE_REQUEST_AT_HOME: a request of a core is performed; requests of different records in any order. -/
def execPedigreeRequestAtHome (c : CoreNo) (s : State) : Out :=
  let ready := s.pedReady c
  match ready with
  | [] => .next s
  | i0 :: _ =>
    let n := s.choice
    let i := ready.getD (n.1 % ready.length) i0
    match (n.2.core c).ped[i]? with
    | none => .next s
    | some r => .next ((pedAtHome c r n.2).updCore c fun k => { k with ped := k.ped.eraseIdx i })

/-! ### Stores (R258) -/

/-- STORE_PERFORMED: store `k` of a core reaches its home slice. Stores of a core to one byte do so in their order.
Behind the stores to device memory stand those to the Kennel, which reach their banks; those of one agent to one byte do
so in their order. Behind these stand the stores to device memory that have not reached the L1, which reach it. -/
def execStorePerformed (c : CoreNo) (k : Nat) (s : State) : Out :=
  let ps := (s.core c).stores
  match ps[k]? with
  | some p => if (ps.take k).any fun x => x.overlaps p.pa p.bytes.length then .next s else .next (s.perform c p)
  | none =>
    let ks := (s.core c).kstores
    let i := k - ps.length
    match ks[i]? with
    | some p =>
      if (ks.take i).any fun x => x.agent == p.agent && x.overlaps p.addr p.bytes.length then .next s
      else .next (s.updCore c fun k => k.landKstore i)
    | none =>
      let ls := (s.core c).lstores
      let j := i - ks.length
      match ls[j]? with
      | some p =>
        if (ls.take j).any fun x => x.agent == p.agent && x.overlaps p.pa p.bytes.length then .next s
        else .next (s.updCore c fun k => k.landLstore j)
      | none => .next s

/-! ### Page walks (R288 to R291) -/

/-- AGENT and WHO of a fault-buffer entry (R291). -/
def Walker.agentWho (k : Core) : Walker → Byte × BitVec 16
  | .seq => (0, 0)
  | .thread l t => (1, whoThread l t)
  | .fetch _ _ => (2, 0)
  | .cmd id => (3, match k.cmd? id with | some m => m.q.zeroExtend 16 | none => 0)

/-- A fault-buffer entry as R291 lays it out. -/
def FbEntry.toBytes (e : FbEntry) (c : CoreNo) : List Byte :=
  leBytes 8 e.va.toNat ++ leBytes 2 0 ++ [e.key.cause, BitVec.ofNat 8 e.level, e.key.access, e.agent] ++
    leBytes 2 e.who.toNat ++ leBytes 2 e.count ++ leBytes 2 0 ++ leBytes 4 e.key.ctx.toNat ++ [BitVec.ofNat 8 c.val] ++
    List.replicate 7 0

/-- Set how the access of a walker stands. -/
def Core.setPark (k : Core) (w : Walker) (p : Park) : Core :=
  match w with
  | .seq => { k with seq := { k.seq with park := p } }
  | .thread l t | .fetch l t => k.setThread l t ((k.thread l t).map fun th => { th with park := p })
  | .cmd id => k.updCmd id fun m => { m with park := p }

/-- The TLB that an agent uses. -/
def Core.walkerTlb (k : Core) : Walker → List TlbEntry
  | .cmd id => match k.cmd? id with | some m => k.cmdTlb m | none => k.tlb
  | .seq | .thread _ _ | .fetch _ _ => k.tlb

/-- The end of a walk. -/
def State.walkEnd (s : State) (c : CoreNo) (w : Walk) : Except WalkFail TlbEntry :=
  s.walkBy c ((s.core c).walkerTlb w.who) w.va (Need.ofCode w.need)

/-- Room for one more entry in a TLB of a size: a full one loses an entry, which the model's list of choices picks, else
the oldest (R289; log entry 27). -/
def tlbRoom (size pick : Nat) (tlb : List TlbEntry) : List TlbEntry :=
  if tlb.length < size then tlb else tlb.eraseIdx (tlb.length - 1 - pick % tlb.length)

/-- An entry enters the L1 TLB of a core, of 64 entries, and the L2 TLB of its cluster, of 2,048. -/
def State.tlbFill (s : State) (c : CoreNo) (e : TlbEntry) : State :=
  let k := s.core c
  let (p, s) := if k.tlb.contains e || k.oldTlb.contains e || k.tlb.length < 64 then (0, s) else s.choice
  let s := s.updCore c fun k =>
    { k with tlb := if k.tlb.contains e || k.oldTlb.contains e then k.tlb else e :: tlbRoom 64 p k.tlb }
  if (s.l2 c).contains e || k.oldTlb.contains e then s
  else
    let (p, s) := if (s.l2 c).length < 2048 then (0, s) else s.choice
    { s with l2tlb := s.l2tlb.setIfInBounds (c.val / 4) (e :: tlbRoom 2048 p (s.l2 c)) }

/-- REQUESTER and KIND of a violation at the walker (R293): the walker reads a node, the agent asks for the page. -/
def walkViolation (c : CoreNo) (w : Walk) (f : WalkFail) (s : State) : State :=
  let agent := match w.who with
    | .seq => 0
    | .thread _ _ | .fetch _ _ => 1
    | .cmd _ => 2
  s.refusedAt (s.core c).ctx agent c.val (Need.ofCode w.need) f

/-- The thread of a walker belongs to a team that is being aborted. -/
def Core.abortedWalker (k : Core) : Walker → Bool
  | .thread l t | .fetch l t =>
    match (k.thread l t).bind fun th => k.team? th.team with
    | some team => team.aborting
    | none => false
  | .seq | .cmd _ => false

/-- The thread of a walker stops for good. -/
def Core.stopWalker (k : Core) : Walker → Core
  | .thread l t | .fetch l t =>
    k.setThread l t ((k.thread l t).map fun th => { th with wait := .faulted, park := .none })
  | .seq | .cmd _ => k

/-- A failed walk joins the fault-buffer entry of its key, or makes one and raises its event. A full buffer leaves the
access to wait before translation (R290). A thread of a team that is being aborted stops instead of parking (R135). -/
def parkWalk (c : CoreNo) (w : Walk) (f : WalkFail) (s : State) : State :=
  let k := s.core c
  let key : FbKey := { ctx := k.ctx, page := w.va.toNat / 65536, cause := f.cause, access := w.need }
  let aw := w.who.agentWho k
  let ended (k : Core) : Core := { k with walks := k.walks.filter fun x => x.who != w.who }
  let parked (k : Core) : Core := (ended k).setPark w.who (.waiting key w.va)
  if k.abortedWalker w.who then (walkViolation c w f s).updCore c fun k => (ended k).stopWalker w.who
  else if k.fb.any fun e => e.key == key then
    (walkViolation c w f s).updCore c fun k => parked { k with fb := k.fb.map fun e =>
      if e.key = key then { e with count := Nat.min (e.count + 1) 0xFFFF } else e }
  else if 64 ≤ k.fb.length then s.updCore c fun k => (ended k).setPark w.who (if w.replay then .retry else .none)
  else
    let e : FbEntry := { key := key, va := w.va, level := f.level, agent := aw.1, who := aw.2, count := 1 }
    let s := (walkViolation c w f s).updCore c fun k => parked { k with fb := k.fb ++ [e] }
    (s.toMgmt (.faultBuffer (e.toBytes c))).hostEvent k.ctx (s.mkEvent 5 (BitVec.allOnes 32) 0 (e.toBytes c))

/-- One walk ends. -/
def endWalk (c : CoreNo) (s : State) (w : Walk) : State :=
  match s.walkEnd c w with
  | .ok e =>
    (s.tlbFill c e).updCore c fun k =>
      ({ k with walks := k.walks.filter fun x => x.who != w.who }).setPark w.who (if w.replay then .retry else .none)
  | .error f => parkWalk c w f s

/-- PAGE_WALK_COMPLETE: the walks of a core for one address end. -/
def execPageWalkComplete (c : CoreNo) (va : W64) (s : State) : Out :=
  .next (((s.core c).walks.filter fun w => w.va == va).foldl (endWalk c) s)

/-! ### Invalidation (R271, R172, R289) -/

/-- The entry falls to an invalidation of the context: a G entry only when the invalidation names G. -/
def TlbEntry.dropped (e : TlbEntry) (ctx : W32) (g : Bool) : Bool :=
  if e.g then g && ctxPart e.ctx == ctxPart ctx else e.ctx == ctx

/-- A core receives an invalidation: its TLB entries are dropped, a marker enters each of its Retriever queues. The entries
dropped, those of the cluster's L2 TLB among them, stay for the commands ahead of the markers (R172). -/
def Core.invalidate (k : Core) (ctx : W32) (g : Bool) (l2 : List TlbEntry) : Core :=
  { k with tlb := k.tlb.filter fun e => !e.dropped ctx g,
           oldTlb := k.oldTlb ++ (k.tlb.filter fun e => e.dropped ctx g) ++ l2,
           retq := k.retq.map fun q => q ++ [.marker ctx g] }

def State.invalidate (s : State) (ctx : W32) (g : Bool) : State :=
  { (s.updCtx ctx fun x => { x with inval := true }) with
    cores := Vector.ofFn fun c => s.cores[c].invalidate ctx g ((s.l2 c).filter fun e => e.dropped ctx g),
    l2tlb := s.l2tlb.map fun t => t.filter fun e => !e.dropped ctx g }

def execTranslationInvalidation (ctx : W32) (g : Bool) (s : State) : Out :=
  if (s.ctx? ctx).isSome then .next (s.invalidate ctx g) else .next s

/-- The loads and atomics of a core's sequencer and threads that have issued and not acted on their memory (R262). -/
def Core.lateLoads (k : Core) : List LateLoad :=
  k.lateAts.map LateAt.l

/-- The three conditions of R271 hold for a context, but for the writes that cluster units hold; the model waits for
every load and store of its partition. -/
def State.invalidated (s : State) (ctx : W32) : Bool :=
  s.cores.toList.all fun k =>
    (k.retq.toList.all fun q => q.all fun e =>
      match e with
      | .marker x _ => x != ctx
      | .cmd _ => true) &&
    (k.stores.all fun p => ctxPart p.ctx != ctxPart ctx) && (k.lstores.all fun p => ctxPart p.ctx != ctxPart ctx) &&
    !(ctxPart k.ctx == ctxPart ctx && k.lateLoads.any LateLoad.dev)

/-- The invalidation of a context is done. -/
def State.endInvalidation (s : State) (ctx : W32) : State :=
  { (s.updCtx ctx fun x => { x with inval := false }) with
    cores := s.cores.map fun k => { k with oldTlb := k.oldTlb.filter fun e => !e.dropped ctx true } }

/-! ### ECC (R285) -/

/-- An uncorrectable error poisons its unit. -/
def CoreMem.poisonAt (m : CoreMem) (p : EccPlace) : CoreMem :=
  match p with
  | .kennel _ a => { m with poison := setInsert (a / 8) m.poison }
  | .acc _ a => { m with accPoison := setInsert (a / 8) m.accPoison }
  | .priv _ lane a => { m with privPoison := setInsert ((2048 * lane + a) / 8) m.privPoison }
  | .work _ a => { m with workPoison := setInsert (a / 8) m.workPoison }
  | .l1 _ pa => { m with l1Poison := setInsert (pa / 8) m.l1Poison }
  | .laneCode _ pc => { m with lanePoison := setInsert (pc.toNat / 8) m.lanePoison }
  | .tileCode _ a =>
    match m.overlays.getLast? with
    | some o => { m with codePoison := (o.ident, a / 8) :: m.codePoison }
    | none => m
  | .hbm _ | .l2 _ | .pool _ _ _ _ => m

/-- The core that a unit belongs to; none for HBM and the L2. -/
def eccCore (p : EccPlace) : Option CoreNo :=
  match p with
  | .kennel c _ | .acc c _ | .priv c _ _ | .work c _ | .pool c _ _ _ | .l1 c _ | .tileCode c _ | .laneCode c _ => some c
  | .hbm _ | .l2 _ => none

def State.poison (s : State) (p : EccPlace) : State :=
  match p, eccCore p with
  | .hbm pa, _ => s.setDev { s.dev with poison := setInsert (pa / 32) s.dev.poison }
  | .l2 pa, _ => s.setDev { s.dev with l2Poison := setInsert (pa / 8) s.dev.l2Poison }
  | .pool c lane slot r, _ => s.updThread c lane slot fun th => { th with poison := th.poison ||| 1#32 <<< (r.toNat / 2) }
  | _, some c => s.updCore c fun k => { k with mem := k.mem.poisonAt p }
  | _, none => s

/-- SLICE and PA of the machine check of an ECC error (R325). -/
def eccConcerns (p : EccPlace) : Nat × W64 :=
  match p with
  | .hbm pa | .l2 pa => (sliceOf pa, BitVec.ofNat 64 pa)
  | .l1 _ pa => (255, BitVec.ofNat 64 pa)
  | .kennel _ _ | .acc _ _ | .priv _ _ _ | .work _ _ | .pool _ _ _ _ | .tileCode _ _ | .laneCode _ _ => (255, 0)

/-- ECC_ERROR: a corrected error is counted; an uncorrectable one poisons and raises a machine check, for the context of
the core whose unit it strikes. -/
def execEccError (p : EccPlace) (hard : Bool) (syndrome : W64) (s : State) : Out :=
  if hard = false then .next (s.setDev { s.dev with corrected := s.dev.corrected + 1 })
  else
    let s := (s.setDev { s.dev with uncorrected := s.dev.uncorrected + 1 }).poison p
    let at_ := eccConcerns p
    .next (match eccCore p with
      | some c => s.machineCheck 2 ((s.core c).task.map Task.ctx) c.val at_.1 syndrome at_.2
      | none => s.machineCheck 2 none 255 at_.1 syndrome at_.2)

/-! ### The scrubber (R294) -/

/-- SCRUB_GRANULE: the scrubber writes zeros into a marked granule and clears its bit. -/
def execScrubGranule (g : Nat) (s : State) : Out := .next (s.setDev (s.dev.unmark g))

/-- The Secure Monitor marks the granules of a range; no earlier value of theirs can be read again. -/
def DevMem.mark (d : DevMem) (base size : Nat) : DevMem :=
  let gs := (List.range (size / 65536)).map (· + base / 65536)
  { d with scrub := gs.foldl (fun b g => b.set g true) d.scrub,
           old := d.old.filter fun o => !(decide (base ≤ o.pa) && decide (o.pa < base + size)) }

end Sys2Proof.Machine
end

