-- ==== Sys2Proof/Machine/Save.lean ====
section
/-! DEFINITION. Save images (R338 to R343): their size, their bytes, what a save keeps and what a resume restores. -/

namespace Sys2Proof.Machine

open Sys2Proof

/-! ### Sizes (R327, R340) -/

/-- Engine ops held behind a faulted op (R136, R340). -/
def Core.heldOps (k : Core) : List Op := k.ops.filter fun o => o.held && o.st == .queued && o.q != .lane

/-- Bytes of the captured index list of a command, padded to 64. -/
def Cmd.listBytes (m : Cmd) : Nat :=
  match m.kind with
  | .gth | .sct => 64 * ((4 * m.idx.length + 63) / 64)
  | .cpyIn | .cpyOut | .cpyKk | .pft | .pull | .push | .mcast => 0

/-- `CDIRTY`: the freeze image size of a core; without a task the size of its last image, 0 before any save. -/
def Core.cdirty (k : Core) : Nat :=
  if k.task.isNone then k.health.lastImage
  else
    16384 + 320 * k.threads.length + 128 * k.heldOps.length + ((k.cmds.filter Cmd.active).map Cmd.listBytes).sum +
      64 * k.mem.dirty.length

/-! ### The compatibility key (R346) -/

def compatKey : List Byte :=
  sha256 (leBytes 4 Config.stepping.toNat ++ leBytes 4 Config.monitorVersion.toNat ++
    leBytes 4 Config.runtimeVersion.toNat ++ leBytes 32 Config.fuses.toNat ++ leBytes 4 0)

/-! ### Save slots (R338) -/

/-- The registers of a context block that a task placed now keeps (R320). -/
def Ctx.regs (x : Ctx) : CtxRegs :=
  { frecbase := x.frecbase, savebase := x.savebase, saveslots := x.saveslots, lringsize := x.lringsize,
    lringbase := x.lringbase }

def State.ctxRegs (s : State) (ctx : W32) : CtxRegs := ((s.ctx? ctx).map Ctx.regs).getD {}

/-- Where a save slot of a task's context stands, as the task found `SAVEBASE`. -/
def Task.slotBase (t : Task) (slot : Nat) : Nat := t.regs.savebase.toNat + 0x200000 * slot

/-- The free ones of the first `n` save slots of a context. -/
def Ctx.freeIn (x : Ctx) (n : W32) : List Nat := (List.range n.toNat).filter fun i => !x.savesUsed.contains i

/-- The free save slots of a context. -/
def Ctx.freeSlots (x : Ctx) : List Nat := x.freeIn x.saveslots

/-- The free save slots that a task may use. -/
def State.freeFor (s : State) (t : Task) : List Nat :=
  match s.ctx? t.ctx with
  | some x => x.freeIn t.regs.saveslots
  | none => []

def State.takeSlot (s : State) (ctx : W32) (slot : Nat) : State :=
  s.updCtx ctx fun x => { x with savesUsed := setInsert slot x.savesUsed }

def State.freeSlot (s : State) (ctx : W32) (slot : Nat) : State :=
  s.updCtx ctx fun x => { x with savesUsed := x.savesUsed.filter (· != slot) }

/-- The slot that a save of a core uses: the one reserved for it, else the lowest free one. -/
def State.slotFor (s : State) (c : CoreNo) : Option Nat :=
  match (s.core c).claim.bind Claim.save with
  | some i => some i
  | none => (s.core c).task.bind fun t => (s.freeFor t).head?

/-! ### Blocks (R340) -/

/-- The 64 bytes of a block of the one numbering. -/
def CoreMem.block (m : CoreMem) (b : Nat) : List Byte :=
  if b < 16384 then m.kread (64 * b) 64
  else if b < 20480 then m.aread (64 * (b - 16384)) 64
  else m.pread (64 * (b - 20480)) 64

/-- Write a block back. -/
def CoreMem.putBlock (m : CoreMem) (b : Nat) (bs : List Byte) : CoreMem :=
  if b < 16384 then m.kput (64 * b) bs
  else if b < 20480 then m.aput (64 * (b - 16384)) bs
  else m.pput 0 (64 * (b - 20480)) bs

/-- The three block maps, one bit a block. -/
def blockMap (bs : List Nat) : List Byte := leBytes 3072 (bs.foldl (fun m b => m ||| 2 ^ b) 0)

/-! ### What a save keeps -/

/-- Cores of the partition of a context, as PARTCORES counts them: a cluster counts until all of it has left (R345, R386;
log entry 79). -/
def State.partCores (s : State) (ctx : W32) : List CoreNo :=
  (List.finRange 256).filter fun c => (s.part (ctxPart ctx)).clusters.getLsbD (c.val / 4)

/-- The operands of a `BWAIT` at the PC: address and phase. -/
def Seq.waitsFor (q : Seq) : Option (W64 × W32) :=
  match decodeTile (q.wordAt q.pc) none with
  | .ok (.tileBwait x) => some (x.a.val q, (x.b.val q).extractLsb' 0 32)
  | _ => none

/-- A parked access as a freeze records it: for replay, unless it was a fetch, or has been answered FAIL (R341, R343). -/
def Park.stilled (p : Park) : Park :=
  match p with
  | .waiting key _ => if key.access = 3 then .none else .retry
  | .retry => .retry
  | .failed c => .failed c
  | .none | .walking => .none

/-- A thread as a freeze leaves it: no open window; what a remote atomic owes stays. -/
def Thread.stilled (th : Thread) : Thread :=
  { th with park := th.park.stilled, pend := (th.pend.filter fun p => !p.arrived).map fun p => { p with win := 0 } }

/-- Results of remote atomics that a thread still waits for (R341 step 4). -/
def Thread.remotePend (th : Thread) : List LPend := th.pend.filter fun p =>
  !p.arrived &&
    match p.res with
    | .remote _ _ _ _ => true
    | .vals _ | .nested _ | .load _ => false

/-- The sequencer as a checkpoint keeps it (R119): only the tiles of the mask. -/
def Seq.atSafe (q : Seq) : Seq :=
  let mask := match q.safe with | some (_, m) => m | none => 0
  { q with t := Vector.ofFn fun i => if mask.getLsbD i.val then q.t[i] else 0, restart := none }

def Seq.resting (q : Seq) : Seq :=
  { q with mode := .idle, drain := none, standSince := none, pend := [], park := .none,
           afterSafe := q.drain == some .swap, floor := {} }

/-- 1 when an atomic of the sequencer to a remote window is in flight: the save counts it in RPEND, as it does those of
threads, and waits for none of them (R341 step 4; log entry 46). -/
def Seq.inFlight (q : Seq) : Nat :=
  match q.remote with
  | .flight _ => 1
  | .none | .value _ | .failed => 0

/-- Save a core's task as it stands. -/
def State.mkSave (s : State) (c : CoreNo) (t : Task) (kind : SaveKind) (slot coop : Nat) : Save :=
  let k := s.core c
  let freeze := kind == .freeze
  let mask := match k.seq.safe with | some (_, m) => m | none => 0
  let blocks := if freeze then k.mem.dirty else liveBlocks k.seq mask
  let ths := if freeze then k.threads.map fun x => (slotIx x.1 x.2.1, x.2.2.stilled) else []
  { ctx := t.ctx, slot := slot, kind := kind, unhandled := k.seq.mode == .unhandled, task := t,
    seq := (if freeze then k.seq else k.seq.atSafe).resting, blocks := blocks,
    data := blocks.flatMap k.mem.block, dq := k.dq,
    ops := if freeze then k.ops else [], cmds := if freeze then k.cmds else [],
    teams := if freeze then k.teams.map fun t => { t with admitted := t.counted s.now, exempt := 0 } else [],
    threads := ths, rpend := (ths.map fun x => x.2.remotePend.length).sum + k.seq.inFlight, rfaults := [],
    partcores := (s.partCores t.ctx).length, coop := coop,
    wait := if kind = .swap then k.seq.waitsFor else none }

/-! ### The bytes of an image (R340) -/

def SaveKind.code : SaveKind → Nat
  | .checkpoint => 1 | .freeze => 2 | .swap => 3

/-- Bytes whose layout the spec does not give are undefined values (log entry 20). -/
def State.filler (s : State) (n : Nat) : List Byte × State :=
  ((List.range n).map fun i => Config.undef 8 (s.sched.fresh + i),
   s.setSched { s.sched with fresh := s.sched.fresh + n })

/-- `n` entries of `size` bytes whose layout is open, then zeros up to `total`. -/
def State.openArea (s : State) (n size total : Nat) : List Byte × State :=
  let r := s.filler (Nat.min (n * size) total)
  (r.1 ++ List.replicate (total - r.1.length) 0, r.2)

def DqRec.toBytes (r : DqRec) : List Byte :=
  let st := match r.st with | .free => 0 | .pending => 1 | .attached => 2
  (r.payload.toList.flatMap fun x => leBytes 4 x.toNat) ++ leBytes 4 (r.dtag.toNat + st * 2 ^ 30) ++ leBytes 4 r.remain

/-- The wait state of a thread record: address, phase, kind. -/
def Thread.waitBytes (th : Thread) : List Byte :=
  match th.remotePend, th.wait with
  | p :: _, _ =>
    match p.res with
    | .remote _ _ a _ => leBytes 8 a.toNat ++ leBytes 4 (p.dst.val + if p.n = 2 then 64 else 0) ++ leBytes 4 3
    | .vals _ | .nested _ | .load _ => leBytes 16 0
  | [], .barrier a _ n => leBytes 8 a.toNat ++ leBytes 4 n.toNat ++ leBytes 4 1
  | [], .coll _ => leBytes 8 0 ++ leBytes 4 0 ++ leBytes 4 2
  | [], .none | [], .debug | [], .faulted => leBytes 16 0

/-- The address of a parked access, or 0. -/
def Thread.parkedAt (th : Thread) (ws : List Walk) (lane slot : Nat) : W64 :=
  match th.park with
  | .waiting _ va => va
  | .walking => ((ws.find? fun w => w.who == .thread lane slot || w.who == .fetch lane slot).map Walk.va).getD 0
  | .none | .retry | .failed _ => 0

/-- The 320 bytes of a thread record. -/
def threadRecord (k : Core) (lane slot : Nat) (th : Thread) : List Byte :=
  let rep := match th.rep with | some r => leBytes 4 r.n ++ leBytes 4 r.j | none => leBytes 8 0
  let ctl := (match th.rep with | some r => r.stride % 16 + 16 * r.fields.toNat + 256 | none => 0) +
    2 ^ 16 * th.p.toNat + 2 ^ 24 * (th.cursor % 256)
  let entry := (k.teams.findIdx? fun t => t.op == th.team).getD 0
  leBytes 8 th.pc.toNat ++ leBytes 8 th.full.toNat ++ rep ++ leBytes 4 ctl ++ leBytes 4 th.flags.toNat ++
    th.waitBytes ++ leBytes 8 (lane + 256 * slot + 1024 * (entry % 16) + 16384 * th.rank) ++
    leBytes 8 (th.parkedAt k.walks lane slot).toNat ++
    ((List.range 64).flatMap fun i => leBytes 4 (if th.isFull i then (th.reg i).toNat else 0))

/-- Bytes 0x0000 to 0x013F. -/
def Save.head (v : Save) (s : State) (len : Nat) : List Byte :=
  let q := v.seq
  let t := v.task
  leBytes 4 0x53564149 ++ leBytes 2 (v.kind.code + if v.unhandled then 0x8000 else 0) ++ leBytes 2 1 ++
    leBytes 4 len ++ leBytes 4 v.ctx.toNat ++ leBytes 4 t.queue.val ++ leBytes 4 t.rcd.nodeid.toNat ++
    leBytes 8 q.itern.toNat ++ (q.iter.toList.flatMap fun x => leBytes 4 x.toNat) ++ leBytes 8 q.nodearg.toNat ++
    leBytes 8 t.rcd.image.toNat ++ leBytes 4 v.partcores ++
    leBytes 4 ((if t.rcd.cooperative then 1 else 0) + if t.rcd.restartable then 2 else 0) ++ leBytes 8 v.coop ++
    leBytes 8 s.ticks ++ leBytes 2 q.dtag.toNat ++ leBytes 6 0 ++ compatKey ++ leBytes 128 0 ++
    leBytes 8 q.pc.toNat ++ leBytes 8 q.p.toNat ++ leBytes 8 q.trapvec.toNat ++ leBytes 8 q.epc.toNat ++
    leBytes 8 q.trapcause.toNat ++ leBytes 8 q.tflags.toNat ++ leBytes 8 (if q.trapen then 1 else 0) ++
    leBytes 8 q.faircyc

/-- The register part, 0x0200 to 0x11FF. -/
def Save.regs (v : Save) : List Byte :=
  (v.seq.s.toList.flatMap fun x => leBytes 8 x.toNat) ++ (v.seq.t.toList.flatMap fun x => leBytes 16 x.toNat) ++
    (v.seq.c.toList.flatMap fun x => leBytes 8 x.toNat) ++ (v.dq.toList.flatMap DqRec.toBytes)

/-- The image of a save, with the core it leaves (R340). -/
def Save.image (v : Save) (c : CoreNo) (s : State) : List Byte × State :=
  let k := s.core c
  let freeze := v.kind == .freeze
  let held := if freeze then k.heldOps.length else 0
  let cmds := if freeze then k.cmds.filter Cmd.active else []
  let len := if freeze then k.cdirty else 16384 + v.data.length
  let slot := s.openArea (if freeze && v.seq.restart.isSome then 1 else 0) 128 128
  let safe := match v.seq.safe with | some (a, m) => leBytes 8 a.toNat ++ leBytes 8 m.toNat | none => leBytes 16 0
  let lane := slot.2.openArea
    (if freeze then (k.ops.filter fun o => o.q == .lane && o.st == .queued).length else 0) 128 1024
  let ret := lane.2.openArea cmds.length 64 6144
  let team := ret.2.openArea (if freeze then k.teams.length else 0) 64 1024
  let fbs := if freeze then
      ((k.fb.filter fun e => e.key.ctx == v.ctx).take 16).flatMap fun e => e.toBytes c
    else []
  let ops := team.2.openArea held 128 (128 * held)
  let lists := cmds.flatMap fun m =>
    let bs := if m.listBytes = 0 then [] else m.idx.flatMap fun i => leBytes 4 i.toNat
    bs ++ List.replicate (m.listBytes - bs.length) 0
  let ths := if freeze then k.threads.flatMap fun x => threadRecord k x.1 x.2.1 x.2.2 else []
  (v.head s len ++ slot.1 ++ safe ++ leBytes 4 v.rpend ++ leBytes 2 held ++ leBytes 42 0 ++ v.regs ++ lane.1 ++
    ret.1 ++ team.1 ++ blockMap v.blocks ++ fbs ++ List.replicate (512 - fbs.length) 0 ++ ths ++ ops.1 ++ lists ++
    v.data, ops.2)

/-- Write bytes of a context through its page table (R339). -/
def State.writeVa (s : State) (ctx : W32) (a : Nat) (bs : List Byte) : Except WalkFail State :=
  match s.xlateRange ctx .write a bs.length with
  | .error f => .error f
  | .ok ps => .ok (s.writePieces 256 ctx false ps bs)

/-- Read bytes of a context through its page table. -/
def State.readVa (s : State) (ctx : W32) (a n : Nat) : Except WalkFail (List Byte) :=
  match s.xlateRange ctx .read a n with
  | .error f => .error f
  | .ok ps => .ok (s.dev.readPieces ps)

/-! ### When a core has drained (R118, R341) -/

/-- No fold, store, request or walk result of the core is on its way. -/
def Core.quietPorts (k : Core) : Bool := k.port.isEmpty && k.stores.isEmpty && k.kstores.isEmpty && k.lstores.isEmpty && k.ped.isEmpty

/-- Every engine queue of the core is empty (R120): an op or command that has been delivered stands in none. -/
def Core.enginesEmpty (k : Core) : Bool :=
  (k.ops.all fun o => o.st == .delivered) && (k.cmds.all fun m => m.st == .delivered) && k.teams.isEmpty &&
    k.threads.isEmpty && (k.retq.toList.all List.isEmpty)

/-- The drain of R118: every issued op and command has completed. -/
def Core.drained (k : Core) : Bool :=
  k.ops.isEmpty && k.cmds.isEmpty && k.enginesEmpty && k.seq.pend.isEmpty && k.quietPorts

/-- A thread has no result to wait for but those of remote atomics (R341 step 4). -/
def Thread.still (th : Thread) : Bool := th.pend.all fun p =>
  p.arrived ||
    match p.res with
    | .remote _ _ _ _ => true
    | .vals _ | .nested _ | .load _ => false

/-- Steps 1 to 5 of R341 are done. -/
def Core.frozen (k : Core) : Bool :=
  k.quietPorts && k.seq.pend.isEmpty &&
    (k.ops.all fun o =>
      match o.st, o.q with
      | .queued, .lane => true
      | .queued, .matrix | .queued, .conv => o.held
      | .running, _ => !(k.teamThreads o.id).isEmpty
      | .executed _ _, _ => o.parent.isNone
      | .delivered, _ => true) &&
    k.threads.all fun x => x.2.2.still

/-! ### A core without its task -/

/-- The core lets go of its task: engines, lanes, queues and fault-buffer entries are cleared. -/
def Core.release (k : Core) : Core :=
  let ctx := k.ctx
  let k := k.landAll
  { k with task := none, ops := [], teams := [], slots := Vector.replicate 512 none, cmds := [], locks := [], placing := none,
           retq := k.retq.map fun q => q.filter fun e =>
             match e with
             | .cmd _ => false
             | .marker _ _ => true,
           dq := Vector.replicate 16 {}, walks := [], updates := [], saving := none, trapRec := [],
           fb := k.fb.filter fun e => e.key.ctx != ctx, mem := { k.mem with dirty := [] },
           seq := { k.seq with mode := .idle, pend := [], park := .none, remote := .none, restart := none,
                               drain := none, standSince := none, afterSafe := false },
           health := { k.health with spAvg := none, spLast := none } }

/-! ### Resume (R343, R119) -/

/-- Bytes of a saved task's image, read for its resume; a refused read is a violation (R293). -/
def State.readImage (s : State) (v : Save) (off n : Nat) : Option (List Byte) × State :=
  match s.readVa v.ctx (v.task.slotBase v.slot + off) n with
  | .ok bs => (some bs, s)
  | .error f => (none, s.shepRefused v.ctx .read f)

/-- Every reserved field of an image is zero (R4, R340). -/
def imageReserved (bs : List Byte) (threads : Nat) : Bool :=
  let w (off n : Nat) : Nat := ofBytes ((bs.drop off).take n)
  w 0x44 4 / 4 == 0 && w 0x5A 6 == 0 && w 0x80 128 == 0 && w 0x1D6 42 == 0 &&
    (List.range threads).all fun i => w (16384 + 320 * i + 0x18) 4 / 512 % 128 == 0 && w (16384 + 320 * i + 0x30) 8 / 2 ^ 21 == 0

/-- Read the documented fields of an image back from memory; where it cannot be read, the save stands (R339). Of a
malformed one no field is used (R4); no fault is named, so that these fields are undefined values (R5; log entry 49). -/
def Save.reread (v : Save) (s : State) : Save × State :=
  match s.readImage v 0 (16384 + 320 * v.threads.length) with
  | (none, s) => (v, s)
  | (some bs, s) =>
    let (bs, s) := if imageReserved bs v.threads.length then (bs, s) else s.filler bs.length
    let w (off n : Nat) : Nat := ofBytes ((bs.drop off).take n)
    let q := v.seq
    let q : Seq :=
      { q with
        pc := BitVec.ofNat 64 (w 0x100 8), p := BitVec.ofNat 8 (w 0x108 8) ||| 0x80,
        trapvec := BitVec.ofNat 64 (w 0x110 8), epc := BitVec.ofNat 64 (w 0x118 8),
        trapcause := BitVec.ofNat 64 (w 0x120 8), tflags := BitVec.ofNat 64 (w 0x128 8) &&& tflMask,
        trapen := (w 0x130 8).testBit 0, faircyc := Nat.min 1024 (Nat.max 32 (w 0x138 8)), dtag := BitVec.ofNat 16 (w 0x58 2),
        itern := BitVec.ofNat 64 (w 0x18 8), nodearg := BitVec.ofNat 64 (w 0x30 8),
        iter := Vector.ofFn fun i => BitVec.ofNat 32 (w (0x20 + 4 * i.val) 4),
        s := Vector.ofFn fun i => BitVec.ofNat 64 (w (0x200 + 8 * i.val) 8),
        t := Vector.ofFn fun i => BitVec.ofNat 128 (w (0x400 + 16 * i.val) 16),
        c := Vector.ofFn fun i => BitVec.ofNat 64 (w (0x800 + 8 * i.val) 8) }
    let thread (i : Nat) (th : Thread) : Thread :=
      let o := 16384 + 320 * i
      { th with pc := BitVec.ofNat 64 (w o 8), full := BitVec.ofNat 64 (w (o + 8) 8),
                p := BitVec.ofNat 8 (w (o + 0x1A) 1) ||| 0x80, flags := BitVec.ofNat 6 (w (o + 0x1C) 4),
                v := Vector.ofFn fun j => BitVec.ofNat 32 (w (o + 0x40 + 4 * j.val) 4) }
    ({ v with seq := q, threads := v.threads.zipIdx.map fun x => (x.1.1, thread x.2 x.1.2) }, s)

/-- The saved blocks as memory holds them now. -/
def Save.blockData (v : Save) (s : State) : List Byte × State :=
  let lists := ((v.cmds.filter Cmd.active).map Cmd.listBytes).sum
  let held := (v.ops.filter fun o => o.held && o.st == .queued && o.q != .lane).length
  let off := 16384 + 320 * v.threads.length + 128 * held + lists
  let r := s.readImage v off v.data.length
  (r.1.getD v.data, r.2)

/-- The on-core memories before a task of a context starts or resumes (R13): cleared if the core last ran another. The
lane instruction cache holds code by virtual address, and so is emptied with them. -/
def CoreMem.forContext (m : CoreMem) (same : Bool) : CoreMem :=
  if same then { m with dirty := [] }
  else { m with kennel := [], acc := [], priv := [], icache := [], lanePoison := [], dirty := [], poison := [], accPoison := [],
                privPoison := [], holes := [] }

/-- On-core memories after a resume: the saved blocks; every other byte is undefined where the core last ran the same
context (R119, R343), and zero where it ran another (R13). -/
def restoreMem (m : CoreMem) (same : Bool) (blocks : List Nat) (data : List Byte) (seed : Nat) : CoreMem :=
  let m := m.forContext same
  let m := if same then { m with kennel := [], acc := [], priv := [], poison := [], accPoison := [], privPoison := [],
                                 holes := [(0, 0x180000)], seed := seed }
           else m
  blocks.zipIdx.foldl (fun m b => m.putBlock b.1 ((data.drop (64 * b.2)).take 64)) m

/-- Entry into a queue again, for a command that the freeze cancelled. -/
def Core.reenter (k : Core) (m : Cmd) : Core :=
  if m.active then
    { k with locks := k.locks ++ cmdLocks m,
             retq := k.retq.setIfInBounds m.q.toNat ((k.retq.toList.getD m.q.toNat []) ++ [.cmd m.id]) }
  else k

/-- Threads whose remote atomic was refused take the fault there (R343). -/
def Core.takeRemoteFaults (k : Core) (fs : List (Nat × LaneWhere)) : Core :=
  fs.foldl (fun k f =>
    match (k.slots[f.1]?).getD none with
    | none => k
    | some th =>
      let k := k.setThread (f.1 / 4) (f.1 % 4) (some { th with wait := .faulted })
      k.abortTeam th.team { cause := .translation, lane := some f.2 }) k

/-- The floor of an agent of core `c` that has just made a DEVICE-scope acquire, and read nothing before. -/
def State.newFloor (s : State) (c : CoreNo) : Floor := ({} : Floor).acquire s.dev c.val (s.core c).nextStore .device

/-- The core takes a saved task (R343): the acquire of its resume covers all that it left, its ops, commands and threads
(R265, R272). `CLIVE` keeps the core's value until the task's first `SAFEPT` there: the rules say nothing of it (log entry
75, the model's choice). `WAKEREASON` of a core that was not gated stays as the task had it: no rule says
what it reads then (log entry 61). -/
def State.restore (s : State) (c : CoreNo) (v : Save) : State :=
  let (v, s) := v.reread s
  let (data, s) := v.blockData s
  let table := match s.ctx? v.ctx with
    | some x => x.table
    | none => Vector.replicate 256 {}
  let seed := s.sched.fresh
  let s := s.setSched { s.sched with fresh := s.sched.fresh + 1 }
  let fl := s.newFloor c
  (s.updCore c fun k =>
    let next := (v.ops.map Op.id ++ v.cmds.map Cmd.id).foldl (fun n i => Nat.max n (i + 1)) k.nextId
    let k := { k with
      task := some (k.task.getD v.task), lastCtx := some v.ctx, mem := restoreMem k.mem (k.lastCtx == some v.ctx) v.blocks data seed, table := table,
      ops := v.ops.map fun o => { o with floor := fl }, cmds := v.cmds.map fun m => { m with floor := fl }, placing := none, updates := [],
      teams := v.teams.map fun t => { t with admitted := s.now - t.admitted }, dq := v.dq, nextId := next,
      slots := v.threads.foldl (fun sl x => sl.setIfInBounds x.1 (some { x.2 with floor := fl })) (Vector.replicate 512 none),
      seq := { v.seq with mode := .run, pc := if v.unhandled then v.seq.trapvec else v.seq.pc,
                          start := s.now, wake := if k.health.gated || k.health.woke then 3 else v.seq.wake },
      health := { k.health with gated := false, woke := false, spLast := none, spAvg := none, startTick := s.ticks } }
    (v.cmds.foldl Core.reenter k).takeRemoteFaults v.rfaults).acquire c .seq .device

/-! ### The cap on dirty bytes (R333) -/

/-- The move would make blocks dirty that take `CDIRTY` of a claimed core past its cap, before the core is vacant (R333;
log entry 22). -/
def Core.pastCap (k l : Core) : Bool :=
  match l.claim with
  | none => false
  | some x => !x.vacant && decide (x.cap < l.cdirty) && decide (k.mem.dirty.length < l.mem.dirty.length)

/-- A move past a cap waits. -/
def capped (s : State) (o : Host.Outcome State Fault Refusal) : Host.Outcome State Fault Refusal :=
  match o with
  | .next t => if (s.cores.toList.zip t.cores.toList).any fun x => x.1.pastCap x.2 then .next s else .next t
  | .fault f => .fault f
  | .refused r => .refused r

end Sys2Proof.Machine
end

