-- ==== Sys2Proof/Machine/Recall.lean ====
section
/-! DEFINITION. The Recall (R326 to R337, R344, R345): readings, estimates, posts, decisions, stops, vacancy. Placing
tasks stands in Shepherd.lean. -/

namespace Sys2Proof.Machine

open Sys2Proof

/-! ### Loop nests (R310) -/

/-- Iterations of a loop nest. -/
def LaunchRec.total (r : LaunchRec) : Nat :=
  ((List.finRange 4).filter fun i => i.val ≤ r.ndim).foldl (fun n i => n * r.bound[i].toNat) 1

/-- The loop indices of iteration `n`. -/
def LaunchRec.indices (r : LaunchRec) (n : Nat) : Vector W32 4 :=
  let depths := ((orderFields r.order).take (r.ndim + 1)).reverse
  (depths.foldl (fun (acc : Nat × Vector W32 4) d =>
    let b := (r.bound.toList.getD d 1).toNat
    let j := acc.1 % b
    let rem := acc.1 / b
    let j := if r.serp.getLsbD d && rem % 2 == 1 then b - 1 - j else j
    (rem, acc.2.setIfInBounds d (BitVec.ofNat 32 j))) (n, Vector.replicate 4 0)).2

/-! ### Readings (R327) -/

def unknownReading : W32 := BitVec.allOnes 32

def readingOf (x : Option Nat) : W32 := match x with | some n => BitVec.ofNat 32 n | none => unknownReading

def Core.celapsed (k : Core) (ticks : Nat) : Nat :=
  if k.task.isNone || k.placing.isSome then 0 else ticks - k.health.startTick

/-- `CDRAIN`: 0 when nothing is issued. -/
def State.cdrain (s : State) (c : CoreNo) : Nat :=
  let k := s.core c
  if k.ops.isEmpty && k.cmds.isEmpty then 0 else (Config.drainTicks c.val s.now).toNat

/-! ### Estimates (R330) -/

def ceilDiv (a b : Nat) : Nat := (a + b - 1) / b

/-- save(x): the slowest core, or all of them together. -/
def saveTime (xs : List Nat) : Nat :=
  Nat.max (xs.foldl (fun m x => Nat.max m (ceilDiv x 1088)) 0) (ceilDiv xs.sum 192000)

def stopTime : Nat := 1000

def maxOf (xs : List Nat) : Nat := xs.foldl Nat.max 0

/-- An estimate that reads an unknown value is infinite: none. -/
def maxKnown (xs : List (Option Nat)) : Option Nat :=
  xs.foldl (fun acc x =>
    match acc, x with
    | some a, some b => some (Nat.max a b)
    | _, _ => none) (some 0)

def State.eDrain (s : State) (cs : List CoreNo) : Nat := maxOf (cs.map s.cdrain)

/-- `NITAVG` of the queue that a core's task belongs to. -/
def State.nitavgOf (s : State) (c : CoreNo) : Option Nat :=
  match (s.core c).task with
  | some t => (s.queue t.queue).nitavg
  | none => some 0

def State.eComplete (s : State) (cs : List CoreNo) : Option Nat :=
  (maxKnown (cs.map fun c => (s.nitavgOf c).map fun n => n - (s.core c).celapsed s.ticks)).map (· + s.eDrain cs)

def State.eCheckpoint (s : State) (cs : List CoreNo) : Option Nat :=
  (maxKnown (cs.map fun c => (s.core c).health.spAvg)).map fun a =>
    a + s.eDrain cs + saveTime (cs.map fun c => 16384 + (s.core c).health.live)

def State.eFreeze (s : State) (cs : List CoreNo) : Nat :=
  saveTime (cs.map fun c => (s.core c).cdirty + 65536) + stopTime

/-! ### Posts (R326, R328) -/

def Recall.activePosts (r : Recall) : List (Fin 8 × Post) :=
  (List.finRange 8).filterMap fun j => (r.posts[j]).map fun p => (j, p)

def State.setRc (s : State) (r : Recall) : State := { s with rc := r }

/-- Cores claimed by active posts. -/
def State.claimedCores (s : State) : List CoreNo := (s.rc.activePosts.flatMap fun p => p.2.cores).eraseDups

/-- Two tasks belong to one node or one child grid. -/
def Task.sameNode (a b : Task) : Bool := a.queue == b.queue && a.grid == b.grid

/-- The running cores of the node of a task. -/
def State.nodeCores (s : State) (t : Task) : List CoreNo :=
  (List.finRange 256).filter fun c =>
    match (s.core c).task with
    | some u => u.sameNode t
    | none => false

/-- A set that names a core of a running COOPERATIVE node takes every core of that node (R329). -/
def State.widen (s : State) (cs : List CoreNo) : List CoreNo :=
  let more := cs.flatMap fun c =>
    match (s.core c).task with
    | some t => if t.rcd.cooperative then s.nodeCores t else []
    | none => []
  (List.finRange 256).filter fun c => cs.contains c || more.contains c

/-- The groups of R329: the running cores of a set by node. -/
def State.groups (s : State) (cs : List CoreNo) : List (List CoreNo) :=
  cs.foldl (fun gs c =>
    match (s.core c).task with
    | none => gs
    | some t =>
      let here (g : List CoreNo) : Bool := g.any fun d =>
        match (s.core d).task with
        | some u => u.sameNode t
        | none => false
      if gs.any here then gs.map fun g => if here g then g ++ [c] else g else gs ++ [[c]]) []

def State.runningOf (s : State) (cs : List CoreNo) : List CoreNo := cs.filter fun c => (s.core c).task.isSome

/-- Every cluster that the set touches lies in it whole (R345). -/
def wholeClusters (cs : List CoreNo) : Bool :=
  cs.all fun c => (List.range 4).all fun j => cs.contains (clusterCore c j)

/-- The set is empty, or a core lies in no partition or not in the first core's. -/
def State.badSet (s : State) (cs : List CoreNo) : Bool :=
  match cs with
  | [] => true
  | c :: _ => (s.partOf c).isNone || cs.any fun d => s.partOf d != s.partOf c

/-- Fewer free save slots than running cores, context by context. -/
def State.noSaveSpace (s : State) (cs : List CoreNo) : Bool :=
  let run := s.runningOf cs
  run.any fun c =>
    let need := (run.filter fun d => (s.core d).ctx == (s.core c).ctx).length
    match (s.core c).task with
    | some t => decide ((s.freeFor t).length < need)
    | none => false

/-- The check of R328: the status of the first that fails, 0 for none; E_freeze beside it. `named` is the set as it was
posted, whose clusters a shrink names whole (R345), and `cs` the set widened. -/
def State.postStatus (s : State) (named cs : List CoreNo) (dl : W64) (shrink : Bool) : Nat × Nat :=
  let ef := s.eFreeze ((s.claimedCores ++ cs).eraseDups)
  let act := s.rc.activePosts
  if s.badSet cs || (dl == BitVec.allOnes 64 && !shrink) || (shrink && !wholeClusters named) then (4, ef)
  else if decide (8 ≤ act.length) || cs.any s.claimedCores.contains ||
      act.any (fun p =>
        match p.2.dl with
        | some d => decide (d < s.ticks + ef)
        | none => false) then (2, ef)
  else if s.noSaveSpace cs then (3, ef)
  else if dl.toNat < s.ticks + ef then (1, ef)
  else (0, ef)

/-- The decision for a group (R331). -/
def State.decision (s : State) (g : List CoreNo) (dl : Nat) : RcDecision :=
  let left := dl - s.ticks
  let room := left - left / 8
  let within (e : Option Nat) : Bool := match e with | some x => x ≤ room | none => false
  let restartable := g.all fun c => match (s.core c).task with | some t => t.rcd.restartable | none => false
  if within (s.eComplete g) then .complete
  else if within (s.eCheckpoint g) && g.all (fun c => (s.core c).seq.restart.isNone) then .checkpoint
  else if restartable && decide (stopTime ≤ room) then .discard
  else .freeze

/-! ### Stops (R332, R334, R341) -/

/-- The teams of a core end at once: their threads are gone (R332 DISCARD). -/
def Core.dropTeams (k : Core) : Core :=
  { k with ops := k.ops.filter fun o => o.q != .lane, teams := [], slots := Vector.replicate 512 none,
           walks := k.walks.filter fun w =>
             match w.who with
             | .thread _ _ | .fetch _ _ => false
             | .seq | .cmd _ => true }

/-- Stop the task of a core without a save: its teams are aborted, and its Kennel stores stand (R332). -/
def State.beginDiscard (s : State) (c : CoreNo) : State :=
  let s := s.beginFreeze c .discarding
  (((s.core c).teams.map Team.op).foldl (fun s op => s.settleThreads c op) s).updCore c fun k => k.dropTeams.landAll

/-- An unfinished checkpoint save is abandoned (R334). -/
def State.abandonSave (s : State) (c : CoreNo) : State :=
  let k := s.core c
  match k.saving with
  | none => s
  | some slot =>
    let ctx := k.ctx
    let s := { s with saves := s.saves.filter fun v => !(v.ctx == ctx && v.slot == slot) }
    let s := if k.claim.bind Claim.save = some slot then s else s.freeSlot ctx slot
    s.updCore c fun k => { k with saving := none }

/-- The clock of a core goes on; a thermal stop of it is due again when the core is vacant (R371). -/
def Core.restartClock (k : Core) : Core :=
  { k with health := { k.health with clockStop := false, stopDue := k.health.stopDue || k.health.clockStop } }

/-- A claimed core that is not vacant escalates (R334): a RESTARTABLE node to DISCARD, also from a freeze, any other to
FREEZE. The save of an unhandled trap goes on (R337). -/
def State.escalate (s : State) (c : CoreNo) : State :=
  let k := s.core c
  match k.task, k.claim with
  | some t, some cl =>
    if cl.vacant then s
    else
      let s := s.updCore c Core.restartClock
      if k.seq.mode == .unhandled || k.seq.mode == .discarding || (k.seq.mode == .freezing && !t.rcd.restartable) then s
      else
        let dec := if t.rcd.restartable then RcDecision.discard else .freeze
        let s := (s.abandonSave c).updCore c fun k => { k with claim := some { cl with dec := dec } }
        if t.rcd.restartable then s.beginDiscard c else s.beginFreeze c .freezing
  | _, _ => s

/-! ### Claims (R328, R332, R333, R337) -/

/-- A core at a swap-out point stops there and drains (R177, R337). -/
def Core.beginSwap (k : Core) : Core := { k with seq := { k.seq with mode := .stopped, drain := some .swap } }

/-- Claim a core for a post; `evict` is false for a shrink without a deadline, which evicts nothing (R345). A core in a
thermal stop goes on and escalates, whatever the post (R371). A swap-out under way and the
save of an unhandled trap go on (R337). -/
def State.claimCore (s : State) (slot : Fin 8) (evict : Bool) (dec : RcDecision) (c : CoreNo) : State :=
  let k := s.core c
  let save := k.task.bind fun t => (s.freeFor t).head?
  let s := match save with
    | some i => s.takeSlot k.ctx i
    | none => s
  let coop := k.task.bind fun t => if t.rcd.cooperative && !evict then some (t.queue, t.grid) else none
  let cl : Claim := { slot := slot, dec := dec, vacant := k.task.isNone, save := save, cap := k.cdirty + 65536, coop := coop }
  let standing := k.seq.standSince.isSome && s.seqWaits c
  let s := (s.wake c 4).updCore c fun k => { k with claim := some cl, heldFor := none, given := none }
  if k.task.isNone then s
  else if k.health.clockStop then s.escalate c
  else if !evict || k.seq.mode == .unhandled || k.seq.drain == some .swap then s
  else if standing then s.updCore c Core.beginSwap
  else
    match dec with
    | .complete | .checkpoint => s
    | .discard => s.beginDiscard c
    | .freeze => s.beginFreeze c .freezing

/-! ### Vacancy (R336, R345) -/

/-- A core leaves for good: every core of a post is vacant. -/
def State.postVacant (s : State) (p : Post) : Bool :=
  p.cores.all fun c =>
    match (s.core c).claim with
    | some cl => cl.vacant
    | none => true

/-- Clusters whose every core lies in a list. -/
def clusterMask (cs : List CoreNo) : W64 :=
  (List.range 64).foldl (fun m i =>
    if cs.any fun c => c.val / 4 == i then m ||| (1 <<< i : W64) else m) 0

/-- Cores leave the partition that holds them; a cluster whose four cores have left is no longer its own (R345). -/
def Partition.drop (p : Partition) (cs : List CoreNo) : Partition :=
  let left := p.left ++ cs.filter fun c => p.clusters.getLsbD (c.val / 4) && !p.left.contains c
  let gone := clusterMask (left.filter fun c => (List.range 4).all fun j => left.contains (clusterCore c j))
  { p with clusters := p.clusters &&& ~~~ gone, left := left.filter fun c => !gone.getLsbD (c.val / 4) }

def State.dropCores (s : State) (cs : List CoreNo) : State := { s with parts := s.parts.map fun p => p.drop cs }

/-- End a post whose cores are all vacant: `PDONE`, the slots not used, and the cores handed on (R336). -/
def State.endPost (s : State) (j : Fin 8) (p : Post) : State :=
  let s := s.setRc { s.rc with posts := s.rc.posts.set j.val none, pdone := s.rc.pdone.set j.val (BitVec.ofNat 64 s.ticks) }
  let s := p.cores.foldl (fun s c =>
    let k := s.core c
    let s := match k.claim.bind Claim.save with
      | some i => match k.lastCtx with | some x => s.freeSlot x i | none => s
      | none => s
    s.updCore c fun k =>
      match p.live with
      | some q => { k with claim := none, given := some q }
      | none =>
        if p.shrink then { k with claim := none }
        else { k with claim := k.claim.map fun cl => { cl with save := none } }) s
  let s := if p.shrink then s.dropCores p.named else s
  let s := s.toMgmt (.recallDone j)
  match p.live with
  | some q =>
    let body := leBytes 8 (s.rc.result.toNat) ++ leBytes 8 s.ticks
    s.hostEvent (s.queue q).ctx (s.mkEvent 9 (BitVec.ofNat 32 q.val) 0 body)
  | none => s

/-- The named cores of a shrinking post that are vacant leave their partition; those of a COOPERATIVE node that nothing
evicts leave when all of the node's are vacant (R345). -/
def State.leaveVacant (s : State) (p : Post) : State :=
  let claims := p.cores.filterMap fun c => (s.core c).claim
  s.dropCores (p.named.filter fun c =>
    match (s.core c).claim with
    | some cl => cl.vacant && (cl.coop.isNone || claims.all fun x => x.coop != cl.coop || x.vacant)
    | none => false)

/-- The thermal stop that the claim of a core has put off begins when the core is vacant and still above 95 (R371; log
entry 72). -/
def State.stopVacant (s : State) (c : CoreNo) : State :=
  let h := (s.core c).health
  let s := s.updCore c fun k =>
    { k with health := { k.health with stopDue := false, clockStop := h.clockStop || (h.stopDue && decide (95 < h.temp)) } }
  if h.stopDue && decide (95 < h.temp) then s.machineCheck 6 none c.val 255 0 0 else s

/-- A core has become vacant; its post ends with the last one. -/
def State.vacate (s : State) (c : CoreNo) : State :=
  match (s.core c).claim with
  | none => s
  | some cl =>
    let s := (s.updCore c fun k => { k with claim := some { cl with vacant := true } }).stopVacant c
    match s.rc.posts[cl.slot] with
    | none => s
    | some p =>
      if !p.cores.contains c then s
      else if s.postVacant p then s.endPost cl.slot p
      else if p.shrink then s.leaveVacant p else s

/-- A save slot has been used; where it is the one reserved for the core, nothing is reserved any more. -/
def Core.useSlot (k : Core) (slot : Nat) : Core :=
  { k with claim := k.claim.map fun cl => if cl.save = some slot then { cl with save := none } else cl }

/-! ### Iterations that go back (R332) -/

/-- The iteration of a task returns to the unplaced set of its node or grid, which goes by number (R310). -/
def State.giveBack (s : State) (t : Task) : State :=
  match t.grid with
  | some g => { s with grids := s.grids.map fun x => if x.id = g then { x with again := setInsert t.n x.again } else x }
  | none => s.updQueue t.queue fun q => { q with node := q.node.map fun n => { n with again := setInsert t.n n.again } }

/-! ### Time and the deadlines of posts (R334, R335) -/

/-- The tick that time does not pass yet: the last-call point of a post that has not been called, the deadline of one
whose cores are not all vacant. -/
def State.timeLimit (s : State) : Option Nat :=
  (s.rc.activePosts.filterMap fun x =>
    match x.2.dl with
    | none => none
    | some d => if x.2.called then (if s.postVacant x.2 then none else some d) else some x.2.last).min?

/-- The cycles of `dt` that may pass before a last call or a deadline. -/
def State.clip (s : State) (dt : Nat) : Nat :=
  match s.timeLimit with
  | none => dt
  | some t => Nat.min dt (17 * t + 16 - s.now)

/-- At its last-call point every claimed core of a post that is not vacant escalates. -/
def State.lastCall (s : State) (j : Fin 8) : State :=
  match s.rc.posts[j] with
  | none => s
  | some p =>
    if p.called || decide (s.ticks < p.last) then s
    else
      let s := s.setRc { s.rc with posts := s.rc.posts.set j.val (some { p with called := true }) }
      p.cores.foldl State.escalate s

/-- LAST_CALL: the machine makes this step by itself at the last-call point. -/
def execLastCall (j : Fin 8) (s : State) : Out := .next (s.lastCall j)

end Sys2Proof.Machine
end

