-- ==== Sys2Proof/Machine/Queues.lean ====
section
/-! DEFINITION. Hardware queues (R295 to R306): their registers, enabling and disabling, budgets, node records, and the
nodes that the Shepherd completes itself. -/

namespace Sys2Proof.Machine

open Sys2Proof

/-! ### Registers (R296, R297) -/

def QState.code : QState → Nat
  | .disabled => 0 | .empty => 1 | .ready => 2 | .running => 3 | .waiting => 4 | .insufficient => 5 | .error => 6

/-- Cores of the partition of a queue. -/
def State.queueCores (s : State) (x : Queue) : List CoreNo := coresOf (s.part x.part.toFin)

/-- A COOPERATIVE node is wider than its partition (R312). -/
def State.tooWide (s : State) (x : Queue) (r : LaunchRec) : Bool :=
  r.cooperative && decide ((s.queueCores x).length < r.total)

/-- A queue whose partition is too small for a COOPERATIVE node or child grid with iterations to place (R302, R312,
R316, R345), or whose COOPERATIVE grid is saved (R344). -/
def State.deferred (s : State) (q : Fin 64) : Bool :=
  let x := s.queue q
  (s.saves.any fun v => v.task.queue == q && v.coop != 0 && v.kind != .swap) ||
    (match x.node with
      | some n => s.tooWide x n.rcd && (decide (n.next < n.rcd.total) || !n.again.isEmpty)
      | none => false) ||
    s.grids.any fun g => g.queue == q && s.tooWide x g.rcd && (decide (g.next < g.rcd.total) || !g.again.isEmpty)

/-- The state that `QSTATUS` shows: a deferred queue shows INSUFFICIENT_RESIDENCY. A DISABLED or an ERROR queue shows its own
state, whatever its child grids are: R302 leaves that open (log entry 75, the model's choice). -/
def State.shownState (s : State) (q : Fin 64) : QState :=
  let st := (s.queue q).st
  match st with
  | .disabled | .error => st
  | .empty | .ready | .running | .waiting | .insufficient => if s.deferred q then .insufficient else st

def State.qstatus (s : State) (q : Fin 64) : W32 :=
  let x := s.queue q
  BitVec.ofNat 32 (2 ^ 24 * x.err.toNat + (if x.demoted then 256 else 0) + (s.shownState q).code)

def Queue.ctl (x : Queue) : W32 :=
  BitVec.ofNat 32 (2 ^ 28 * x.part.toNat + 2 ^ 26 * x.cls.toNat + if x.en then 1 else 0)

/-- Valid records (R296). -/
def Queue.records (x : Queue) : Nat := (x.tail - x.head).toNat

/-- A queue-error event (R301, R339, R360). -/
def State.queueError (s : State) (q : Fin 64) (nodeid : W32) : State :=
  let x := s.queue q
  (s.toMgmt (.queueError q)).hostEvent x.ctx
    (s.mkEvent 2 (BitVec.ofNat 32 q.val) nodeid (leBytes 4 (s.qstatus q).toNat))

/-- Put a queue into ERROR (R301). -/
def State.queueFail (s : State) (q : Fin 64) (err : Nat) (nodeid : W32) : State :=
  (s.updQueue q fun x => { x with st := .error, err := BitVec.ofNat 8 err, node := none }).queueError q
    nodeid

/-! ### Budgets (R304 to R306) -/

/-- Cores that a queue's tasks occupy (R305). -/
def State.occupied (s : State) (q : Fin 64) : Nat :=
  (s.cores.toList.filter fun k => (k.task.map Task.queue) == some q).length

/-- CLASS and the period, budget, deadline and lead as they stand take effect (R297). -/
def Queue.latch (x : Queue) : Queue :=
  { x with eff := { cls := x.cls, period := x.period, budget := x.budget, reldl := x.reldl, lead := x.lead } }

/-- Charge a queue for `n` cores up to tick `t`, or to `QREPL` where that is earlier. -/
def Queue.charge (x : Queue) (n t : Nat) : Queue :=
  if x.eff.period = 0 then { x with charged := t }
  else
    let t := Nat.max x.charged (Nat.min t x.repl.toNat)
    { x with remain := BitVec.ofNat 32 (x.remain.toNat - n * (t - x.charged)), charged := t }

def State.charge (s : State) (q : Fin 64) : State :=
  let n := s.occupied q
  s.updQueue q fun x => x.charge n s.ticks

/-- A relative deadline from tick `t`; all ones for none. -/
def deadlineFrom (t : Nat) (reldl : W32) : W64 :=
  if reldl = 0 then BitVec.allOnes 64 else BitVec.ofNat 64 (t + reldl.toNat)

/-- A replenishment (R304). -/
def Queue.replenish (x : Queue) : Queue :=
  { x with remain := x.eff.budget, absdl := deadlineFrom x.repl.toNat x.eff.reldl, demoted := false,
           charged := x.repl.toNat, repl := x.repl + x.eff.period.zeroExtend 64 }

def execReplenishment (q : Fin 64) (s : State) : Out :=
  let x := s.queue q
  if x.st = .disabled ∨ x.eff.period = 0 ∨ s.ticks < x.repl.toNat then .next s
  else .next ((s.charge q).updQueue q Queue.replenish)

/-- OVERRUN: the budget is used up before the replenishment (R306). -/
def execOverrun (q : Fin 64) (s : State) : Out :=
  let s := s.charge q
  let x := s.queue q
  if x.st = .disabled ∨ x.eff.period = 0 ∨ x.demoted ∨ x.remain ≠ 0 ∨ x.repl.toNat ≤ s.ticks then .next s
  else
    let s := (s.updQueue q fun x => { x with demoted := true }).toMgmt (.overrun q)
    .next (s.hostEvent x.ctx (s.mkEvent 3 (BitVec.ofNat 32 q.val) 0 []))

/-! ### Enabling and disabling (R296, R302) -/

/-- The checks of R296 on a write that sets EN. -/
def State.enableOk (s : State) (x : Queue) (v : W32) : Bool :=
  x.base.toNat % 128 == 0 && x.base.extractLsb' 52 12 == 0 && decide (1 ≤ x.size.toNat) &&
    decide (x.size.toNat ≤ 65536) && (s.ctx? x.ctx).isSome && x.ctx.extractLsb' 28 4 == v.extractLsb' 28 4

/-- CLASS as a write leaves it. -/
def newClass (old : BitVec 2) (v : W32) : BitVec 2 := if v.extractLsb' 26 2 = 3 then old else v.extractLsb' 26 2

/-- EN ← 1 at tick `t` (R302, R304). The first replenishment takes place at once, and so by the fields as they stand
(log entry 62). A queue that still drains after EN ← 0 stays RUNNING, with EN 1 again and its budget and deadline begun
anew: the table of R302 has no such transition (log entry 75, the model's choice). -/
def Queue.enable (x : Queue) (v : W32) (t : Nat) : Queue :=
  let x : Queue :=
    { x with en := true, part := v.extractLsb' 28 4, cls := newClass x.cls v, nitavg := none, demoted := false,
             charged := t, repl := BitVec.ofNat 64 t, absdl := BitVec.allOnes 64, remain := 0,
             st := if x.st = .disabled then .empty else x.st }
  let x := x.latch
  if x.eff.period = 0 then x else x.replenish

/-- EN ← 0 (R302). -/
def State.disableQueue (s : State) (q : Fin 64) : State :=
  let x := s.queue q
  match x.st with
  | .running => s.updQueue q fun x => { x with en := false }
  | .error => s.updQueue q fun x => { x with en := false, err := 0, st := .disabled }
  | .disabled => s.updQueue q fun x => { x with en := false }
  | .empty | .ready | .waiting | .insufficient =>
    let s := s.updQueue q fun x => { x with en := false, st := .disabled, node := none }
    { s with cores := s.cores.map fun k => if k.heldFor = some (q, none) then { k with heldFor := none } else k }

/-- A write of `QCTL`; none where it is DENIED. -/
def State.writeCtl (s : State) (q : Fin 64) (v : W32) : Option State :=
  let x := s.queue q
  let cls := newClass x.cls v
  if v.getLsbD 0 then
    if x.en then some (s.updQueue q fun x => { x with cls := cls })
    else if s.enableOk x v then some (s.updQueue q fun x => x.enable v s.ticks) else none
  else if x.en then some ((s.updQueue q fun x => { x with cls := cls }).disableQueue q)
  else some ((s.updQueue q fun x => { x with cls := cls, part := v.extractLsb' 28 4 }).disableQueue q)

/-- QUEUE_ENABLE: a write of `QCTL` that sets EN. -/
def execQueueEnable (q : Fin 64) (v : W32) (s : State) : Out :=
  match s.writeCtl q (v ||| 1) with
  | some t => .next t
  | none => .next s

def execQueueDisable (q : Fin 64) (s : State) : Out := .next (s.disableQueue q)

/-! ### Node records (R298 to R301) -/

def allZero (bs : List Byte) : Bool := bs.all fun b => b == 0

/-- The CLOSE list of a LOOP record. -/
def closesOf (bs : List Byte) : List Nat := (List.range 8).map fun i => wordOf bs (0x38 + 4 * i) 4

/-- A LOOP record's own rules (R298, R301 BAD_NODE). -/
def loopOk (bs : List Byte) (pedlimit : Nat) : Bool :=
  let r := launchRecOf bs
  decide (wordOf bs 0 1 % 128 = 0) && allZero ((bs.drop 0x58).take 0x28) && r.addrOk && r.walkOk &&
    (closesOf bs).all fun c => c == 0 || decide (c < pedlimit)

/-- The rules that COND, JOIN and HOSTEVENT records share. -/
def plainOk (bs : List Byte) : Bool := wordOf bs 0 3 == 0 && allZero ((bs.drop 8).take 0x58)

def condOk (bs : List Byte) : Bool :=
  let a := wordOf bs 0x60 8
  let w := wordOf bs 0x70 4
  plainOk bs && decide (a % 2 ^ (w / 16 % 4) = 0) && decide (a < 2 ^ 52) && decide (w < 64) && decide (w % 16 ≤ 9) &&
    wordOf bs 0x74 2 != 0 && wordOf bs 0x76 2 != 0 && wordOf bs 0x78 8 == 0

def joinOk (bs : List Byte) : Bool := plainOk bs && decide (wordOf bs 0x60 8 < 2 ^ 52) && allZero (bs.drop 0x6C)

/-- What a record asks for; none is BAD_NODE. -/
def nodeBody (bs : List Byte) (pedlimit : Nat) : Option NodeBody :=
  match wordOf bs 3 1 with
  | 1 =>
    if loopOk bs pedlimit then
      some (.loop ((BitVec.ofNat 32 (wordOf bs 0 4) : W32).getLsbD 7) ((closesOf bs).filter fun c => c != 0))
    else none
  | 2 =>
    let w := wordOf bs 0x70 4
    if condOk bs then
      some (.cond (BitVec.ofNat 64 (wordOf bs 0x60 8)) (BitVec.ofNat 64 (wordOf bs 0x68 8)) (w % 16) (w / 16 % 4)
        (wordOf bs 0x74 2) (wordOf bs 0x76 2))
    else none
  | 3 =>
    if joinOk bs then some (.join (BitVec.ofNat 64 (wordOf bs 0x60 8)) (BitVec.ofNat 32 (wordOf bs 0x68 4))) else none
  | 4 => if plainOk bs then some (.hostevent (bs.drop 0x60)) else none
  | _ => none

/-- The image check of R301 and R316. -/
def State.imageOk (s : State) (ctx : W32) (r : LaunchRec) : Bool :=
  match (s.ctx? ctx).bind fun x => x.images.find? fun i => decide (i.addr = r.image) with
  | some i => decide (r.entry.toNat < 8 * i.tile.length)
  | none => false

/-- On to the next record: the state of a queue that has done with one (R302). -/
def Queue.doneWith (x : Queue) (skip : Nat) : Queue :=
  { x with head := x.head + BitVec.ofNat 32 skip, node := none,
           st := if x.en then .empty else .disabled }

/-- Take up a record that has passed its checks. -/
def State.takeNode (s : State) (q : Fin 64) (r : LaunchRec) (b : NodeBody) : State :=
  let x := s.queue q
  let n : Node := { rcd := r, body := b, next := 0, again := [], done := 0, closing := none,
                    skip := none }
  match b with
  | .loop _ _ =>
    s.updQueue q fun x =>
      { x with node := some n, starved := false,
               absdl := if x.eff.period = 0 then deadlineFrom s.ticks x.eff.reldl else x.absdl,
               st := if s.tooWide x r then .insufficient else .ready }
  | .cond _ _ _ _ _ _ | .join _ _ => s.updQueue q fun x => { x with node := some n, st := .waiting }
  | .hostevent body =>
    (s.hostEvent x.ctx (s.mkEvent 1 (BitVec.ofNat 32 q.val) r.nodeid body)).updQueue q fun x => x.doneWith 1

/-- NODE_RECORD_READ: the record at the head is read, captured and checked. Of a malformed record no field is used
(R4), so that its event carries the NODEID 0 (log entry 63). -/
def execNodeRecordRead (q : Fin 64) (s : State) : Out :=
  let x := s.queue q
  if x.st ≠ .empty ∨ x.head = x.tail then .next s
  else
    let a := x.base.toNat + 128 * (x.head.toNat % x.size.toNat)
    match s.readVa x.ctx a 128 with
    | .error f => .next ((s.shepRefused x.ctx .read f).queueFail q 3 0)
    | .ok bs =>
      let r := { launchRecOf bs with queue := q, ctx := x.ctx }
      let limit := match s.ctx? x.ctx with | some y => y.cpedlimit.toNat | none => 0
      match nodeBody bs limit with
      | none => .next (s.queueFail q 1 0)
      | some b =>
        if wordOf bs 3 1 = 1 ∧ s.imageOk x.ctx r = false then .next (s.queueFail q 2 r.nodeid)
        else .next (s.takeNode q r b)

/-! ### COND and JOIN (R303) -/

/-- The comparison of R102 by its code, on the low bits of both values. -/
def condCode (cc bytes : Nat) (a b : Nat) : Bool :=
  let x := BitVec.ofNat (8 * bytes) a
  let y := BitVec.ofNat (8 * bytes) b
  match cc with
  | 0 => condHolds .eq x y | 1 => condHolds .ne x y | 2 => condHolds .lt x y | 3 => condHolds .le x y
  | 4 => condHolds .gt x y | 5 => condHolds .ge x y | 6 => condHolds .ltu x y | 7 => condHolds .leu x y
  | 8 => condHolds .gtu x y | _ => condHolds .geu x y

/-- The skip of a decided COND, once enough records are valid. -/
def State.condSkip (s : State) (q : Fin 64) (n : Nat) : State :=
  let x := s.queue q
  if x.records < n then s.updQueue q fun x => { x with node := x.node.map fun y => { y with skip := some n } }
  else s.updQueue q fun x => x.doneWith n

def execCondEvaluation (q : Fin 64) (s : State) : Out :=
  let x := s.queue q
  match x.st, x.node with
  | .waiting, some n =>
    match n.body, n.skip with
    | .cond _ _ _ _ _ _, some k => .next (s.condSkip q k)
    | .cond a v cc w t f, none =>
      match s.xlate x.ctx a .read with
      | .error f => .next ((s.shepRefused x.ctx .read f).queueFail q 4 n.rcd.nodeid)
      | .ok p => .next (s.condSkip q (if condCode cc (2 ^ w) (s.dev.word p.pa (2 ^ w)) v.toNat then t else f))
    | .loop _ _, _ | .join _ _, _ | .hostevent _, _ => .next s
  | _, _ => .next s

def execJoinNodeRelease (q : Fin 64) (s : State) : Out :=
  let x := s.queue q
  match x.st, x.node with
  | .waiting, some n =>
    match n.body with
    | .join a ph =>
      match s.xlate x.ctx a .atomic with
      | .error f => .next ((s.shepRefused x.ctx .atomic f).queueFail q 5 n.rcd.nodeid)
      | .ok p =>
        let b := s.bar (.device p)
        if a.toNat % 16 ≠ 0 ∨ b.ok = false then .next (s.queueFail q 5 n.rcd.nodeid)
        else if phasePassed b.phase ph then .next (s.updQueue q fun x => x.doneWith 1) else .next s
    | .loop _ _ | .cond _ _ _ _ _ _ | .hostevent _ => .next s
  | _, _ => .next s

end Sys2Proof.Machine
end

