-- ==== Sys2Proof/Machine/Tasks.lean ====
section
/-! DEFINITION. Tasks on cores (R120, R310 to R317, R343): placement, start, resume, retirement, the completion of nodes
and child grids, and the acceptance of launches. -/

namespace Sys2Proof.Machine

open Sys2Proof

/-! ### Unplaced iterations (R310, R311) -/

/-- The iterations of a node or grid that are not yet placed: those that came back, by number, then the rest in
order, so that they are handed out in linear order (R310). -/
structure Nest where
  rcd : LaunchRec
  next : Nat
  again : List Nat
  deriving DecidableEq, Repr, Inhabited

def Nest.count (x : Nest) : Nat := x.again.length + (x.rcd.total - x.next)

/-- The next iteration, whether it is a rerun (R278), and what is left. -/
def Nest.take (x : Nest) : Option (Nat × Bool × Nest) :=
  match x.again with
  | n :: rest => some (n, true, { x with again := rest })
  | [] => if x.next < x.rcd.total then some (x.next, false, { x with next := x.next + 1 }) else none

def State.grid? (s : State) (g : Nat) : Option Grid := s.grids.find? fun x => x.id == g

def State.updGrid (s : State) (g : Nat) (f : Grid → Grid) : State :=
  { s with grids := s.grids.map fun x => if x.id = g then f x else x }

/-- The iterations of the node of a queue, or of a child grid. -/
def State.nest (s : State) (q : Fin 64) (g : Option Nat) : Option Nest :=
  match g with
  | some g => (s.grid? g).map fun x => ⟨x.rcd, x.next, x.again⟩
  | none =>
    match (s.queue q).node with
    | some n =>
      match n.body with
      | .loop _ _ => some ⟨n.rcd, n.next, n.again⟩
      | .cond _ _ _ _ _ _ | .join _ _ | .hostevent _ => none
    | none => none

def State.setNest (s : State) (q : Fin 64) (g : Option Nat) (x : Nest) : State :=
  match g with
  | some g => s.updGrid g fun y => { y with next := x.next, again := x.again }
  | none => s.updQueue q fun y => { y with node := y.node.map fun n => { n with next := x.next, again := x.again } }

/-! ### Placement (R312, R314) -/

/-- A task is given to a core, with the registers of its context block as they stand (R320); its queue is charged from
now (R305). -/
def State.place (s : State) (c : CoreNo) (t : Task) (p : Placing) : State :=
  let s := s.charge t.queue
  let s := s.updCore c fun k =>
    { k with task := some { t with startTick := s.ticks, regs := s.ctxRegs t.ctx }, placing := some p, heldFor := none, given := none }
  let s := s.updPart ((s.queue t.queue).part.toFin) fun x => { x with cursor := c.val }
  s.updQueue t.queue fun x =>
    { x with since := some s.ticks, starved := false,
             st := if t.grid.isNone && x.st == .ready then .running else x.st }

/-- Give the next iteration of a node or grid to a core. -/
def State.placeNext (s : State) (q : Fin 64) (g : Option Nat) (c : CoreNo) : State :=
  match (s.nest q g).bind Nest.take with
  | none => s
  | some (n, re, rest) =>
    let s := s.setNest q g rest
    s.place c { ctx := rest.rcd.ctx, queue := q, grid := g, rcd := rest.rcd, n := n, startTick := s.ticks, replay := re }
      .start

/-! ### Overlays (R120, R314) -/

def overlayWords (os : List Overlay) : Nat := (os.map fun o => o.code.length).sum

/-- Drop the overlays used least recently until `n` more words fit into 64 KiB. -/
def dropOverlays (n : Nat) : List Overlay → List Overlay
  | [] => []
  | o :: os => if overlayWords (o :: os) + n ≤ 8192 then o :: os else dropOverlays n os

/-- Load an overlay, unless it is resident; it is now the one used last. -/
def loadOverlay (os : List Overlay) (o : Overlay) : List Overlay :=
  dropOverlays o.code.length (os.filter fun x => x.ident != o.ident) ++ [o]

/-- The tile code of an image is the overlay in use; one that was not resident is fetched whole, and holds no poison
(R285). -/
def CoreMem.useOverlay (m : CoreMem) (o : Overlay) : CoreMem :=
  { m with overlays := loadOverlay m.overlays o,
           codePoison := m.codePoison.filter fun x => m.overlays.any fun y => y.ident == x.1 }

/-! ### TASK_START (R314, R14, R26) -/

/-- The sequencer at the start of a task. -/
def startSeq (t : Task) (im : Image) (gated : Bool) (now : Nat) : Seq :=
  { mode := .run, pc := t.rcd.entry, code := im.tile, partid := t.ctx.extractLsb' 28 4,
    c := Vector.ofFn fun i => im.const.getD i.val 0,
    iter := t.rcd.indices t.n, itern := BitVec.ofNat 64 t.n, nodearg := t.rcd.arg, wake := if gated then 3 else 0,
    start := now }

/-- The image of a task. -/
def State.taskImage (s : State) (t : Task) : Option Image :=
  (s.ctx? t.ctx).bind fun x => x.images.find? fun i => decide (i.addr = t.rcd.image)

def Core.beginTask (k : Core) (t : Task) (im : Image) (table : Vector BindEntry 256) (ticks now : Nat) : Core :=
  let m := k.mem.forContext (k.lastCtx == some t.ctx)
  { k with seq := startSeq t im (k.health.gated || k.health.woke) now, lastCtx := some t.ctx, placing := none, table := table, updates := [],
           mem := m.useOverlay ⟨im.ident, im.tile⟩,
           health := { k.health with gated := false, woke := false, spAvg := none, spLast := none, startTick := ticks, live := 0 } }

/-- Start the task that was placed on a core. Its start is a DEVICE-scope acquire (R265, R295). -/
def State.startTask (s : State) (c : CoreNo) : State :=
  match (s.core c).task with
  | none => s
  | some t =>
    match s.taskImage t, s.ctx? t.ctx with
    | some im, some x =>
      (s.updCore c fun k => k.beginTask t im x.table s.ticks s.now).acquire c .seq .device
    | _, _ => s

def execTaskStart (c : CoreNo) (s : State) : Out :=
  match (s.core c).placing with
  | some .start => .next (s.startTask c)
  | some (.resume _ _) | none => .next s

/-! ### TASK_RESUME (R343) -/

def State.save? (s : State) (ctx : W32) (slot : Nat) : Option Save :=
  s.saves.find? fun v => v.ctx == ctx && v.slot == slot

/-- Restore the saved task that was placed on a core; its slot is free again. -/
def State.resumeTask (s : State) (c : CoreNo) (ctx : W32) (slot : Nat) : State :=
  match s.save? ctx slot with
  | none => s
  | some v =>
    let s := s.restore c v
    let s := s.updCore c fun k =>
      { k with mem := match s.taskImage v.task with
                      | some im => k.mem.useOverlay ⟨im.ident, im.tile⟩
                      | none => k.mem }
    ({ s with saves := s.saves.filter fun v => !(v.ctx == ctx && v.slot == slot) }).freeSlot ctx slot

def execTaskResume (c : CoreNo) (s : State) : Out :=
  match (s.core c).placing with
  | some (.resume ctx slot) => .next (s.resumeTask c ctx slot)
  | some .start | none => .next s

/-- A task that was placed on a core is on it. -/
def State.finishPlacing (s : State) (c : CoreNo) : State :=
  match (s.core c).placing with
  | some .start => s.startTask c
  | some (.resume ctx slot) => s.resumeTask c ctx slot
  | none => s

/-! ### A core is freed (R120) -/

/-- Nothing awaits the flows of a core's commands and atomics any more. -/
def State.dropFlows (s : State) (c : CoreNo) : State :=
  let flows := s.ytt.flows.map fun f =>
    let mine := match f.job with
      | some (.cmd d _) | some (.seqAtomic d) | some (.laneAtomic d _ _) => d == c
      | some (.saved _ _ _ _) | none => false
    if mine then { f with job := none } else f
  { s with ytt := { s.ytt with flows := flows } }

/-- The core lets go of its task; its queue has been charged up to now. -/
def State.freeCore (s : State) (c : CoreNo) : State :=
  match (s.core c).task with
  | none => s
  | some t => ((s.charge t.queue).dropFlows c).updCore c Core.release

/-- One more completed task of the node or grid. -/
def State.countDone (s : State) (t : Task) : State :=
  match t.grid with
  | some g => s.updGrid g fun x => { x with done := x.done + 1 }
  | none => s.updQueue t.queue fun q => { q with node := q.node.map fun n => { n with done := n.done + 1 } }

/-- The task of a core has ended and nothing that it issued is left (R120). -/
def Core.retirable (k : Core) : Bool :=
  k.seq.mode == .ended && k.enginesEmpty && k.seq.pend.isEmpty && k.ped.isEmpty

/-- The completion of a task is a DEVICE-scope release of every store that it and its ops made, those of a delivered op's
threads among them (R120 step 4). -/
def State.releaseTask (s : State) (c : CoreNo) : State :=
  (((s.updCore c Core.landAll).release c .seq .device).flushHeld fun h => h.core == c).performAll c fun _ => true

/-- TASK_RETIRE: the core is freed; it goes on with its node (R311), or is vacant for its post (R336). -/
def execTaskRetire (c : CoreNo) (s : State) : Out :=
  let k := s.core c
  match k.task with
  | none => .next s
  | some t =>
    if k.retirable = false then .next s
    else
      let s := ((s.releaseTask c).freeCore c).countDone t
      let s := s.updQueue t.queue fun q => { q with nitavg := expAverage q.nitavg (s.ticks - t.startTick) }
      if k.claim.isSome then .next (s.vacate c)
      else if t.rcd.cooperative then .next s
      else .next (s.placeNext t.queue t.grid c)

/-! ### Completion of a node (R315) -/

/-- One arrival at a JOIN barrier by the Shepherd; false is a failure, and the arrival is lost. -/
def State.joinArrive (s : State) (ctx : W32) (a : W64) : Bool × State :=
  if a = 0 then (true, s)
  else if a.toNat % 16 ≠ 0 then (false, s)
  else
    match s.xlate ctx a .atomic with
    | .error f => (false, s.shepRefused ctx .atomic f)
    | .ok p =>
      match s.barUpdate 256 ctx false (.device p) 1 0 with
      | some r => (true, r.2)
      | none => (false, s)

/-- A close that a queue asked for is in progress. -/
def State.closing (s : State) (q : Fin 64) : Bool := s.dev.closes.any fun x => x.who == .queue q

/-- The end of a LOOP node: JOIN, then the queue advances. -/
def State.endNode (s : State) (q : Fin 64) (n : Node) : State :=
  let x := s.queue q
  let r := s.joinArrive x.ctx n.rcd.join
  let s := r.2.updQueue q fun x => x.doneWith 1
  if r.1 then s else s.queueFail q 5 n.rcd.nodeid

/-- Every task of a node has retired. -/
def Node.finished (n : Node) : Bool := decide (n.rcd.total ≤ n.done)

/-- NODE_COMPLETION: the next of the closes in list order, then the JOIN arrival and the advance. -/
def execNodeCompletion (q : Fin 64) (s : State) : Out :=
  let x := s.queue q
  match x.st, x.node with
  | .running, some n =>
    match n.body with
    | .loop auto closes =>
      if n.finished = false || s.closing q then .next s
      else
        match n.closing.getD (if auto then closes else []) with
        | [] => .next (s.endNode q n)
        | i :: rest =>
          if (s.dev.closeOf x.ctx i).isSome then .next s
          else
            let s := s.updQueue q fun x => { x with node := some { n with closing := some rest } }
            .next (s.setDev { s.dev with closes := s.dev.closes ++
              [{ ctx := x.ctx, idx := i, reset := false, who := .queue q, drained := [] }] })
    | .cond _ _ _ _ _ _ | .join _ _ | .hostevent _ => .next s
  | _, _ => .next s

/-! ### Child grids (R187, R188, R316) -/

/-- The arrival at the JOIN of a child grid that is over; a lost one is a machine check of source 3 (R188). -/
def State.endGrid (s : State) (g : Grid) : State :=
  let s := { s with grids := s.grids.filter fun x => x.id != g.id }
  let r := s.joinArrive g.ctx g.rcd.join
  if r.1 then r.2 else r.2.machineCheck 3 (some g.ctx) 255 255 0 0

def execChildGridCompletion (g : Nat) (s : State) : Out :=
  match s.grid? g with
  | none => .next s
  | some x => if x.rcd.total ≤ x.done then .next (s.endGrid x) else .next s

/-- The record issued first. -/
def firstLaunch (rs : List LaunchRec) : Option LaunchRec :=
  rs.foldl (fun best r => match best with
    | some b => if r.no < b.no then some r else some b
    | none => some r) none

/-- The oldest record of a core that waits for the Shepherd, and the state without it (R187). -/
def State.takeLaunch (s : State) (c : CoreNo) : Option (LaunchRec × State) :=
  match firstLaunch (s.launches c) with
  | none => none
  | some r =>
    if (s.core c).launchQ.contains r then
      some (r, s.updCore c fun k => { k with launchQ := k.launchQ.erase r })
    else
      let regs := match (s.core c).task with
        | some t => if t.ctx = r.ctx then t.regs else s.ctxRegs r.ctx
        | none => s.ctxRegs r.ctx
      some (({ s with ctxs := s.ctxs.map fun x => { x with ring := x.ring.erase (c.val, r) } } : State).throughRing r.ctx regs
        .read r)

/-- LAUNCH_ACCEPT: the record becomes a child grid of its queue. -/
def execLaunchAccept (c : CoreNo) (s : State) : Out :=
  match s.takeLaunch c with
  | none => .next s
  | some (r, s) =>
    let g : Grid := { id := s.nextGrid, ctx := r.ctx, queue := r.queue, rcd := r, next := 0, again := [], done := 0,
                      checked := false }
    .next { s with grids := s.grids ++ [g], nextGrid := s.nextGrid + 1 }

end Sys2Proof.Machine
end

