-- ==== Sys2Proof/Machine/Posts.lean ====
section
/-! DEFINITION. The steps of the Recall (R326 to R345): posts, releases, shrinks, last calls, and the saves that empty
cores. -/

namespace Sys2Proof.Machine

open Sys2Proof

/-! ### Posts (R328 to R331) -/

/-- The first free post slot. -/
def Recall.freeSlot (r : Recall) : Option (Fin 8) := (List.finRange 8).find? fun j => (r.posts[j]).isNone

/-- A new post moves the last-call points of the others forward, never back, so that R335 holds for them too (log
entry 44). -/
def State.lowerLast (s : State) (ef : Nat) : State :=
  let posts := s.rc.posts.map fun p => p.map fun (p : Post) =>
    match p.dl with
    | some d => if p.called then p else { p with last := Nat.min p.last (d - ef) }
    | none => p
  let plast := Vector.ofFn fun i : Fin 8 => match posts[i] with
    | some p => if p.dl.isSome then (BitVec.ofNat 64 p.last : W64) else s.rc.plast[i]
    | none => s.rc.plast[i]
  s.setRc { s.rc with posts := posts, plast := plast }

/-- The registers and the slot of an accepted post. -/
def State.openPost (s : State) (j : Fin 8) (p : Post) (dl : W64) (ef : Nat) : State :=
  let last : W64 := if p.dl.isSome then BitVec.ofNat 64 p.last else BitVec.allOnes 64
  s.setRc { s.rc with
    posts := s.rc.posts.set j.val (some p), pdl := s.rc.pdl.set j.val dl, plast := s.rc.plast.set j.val last,
    pdone := s.rc.pdone.set j.val (BitVec.allOnes 64), pefreeze := s.rc.pefreeze.set j.val (BitVec.ofNat 32 ef) }

/-- The decisions of R331, group by group; a post without a deadline lets every task run on (R345). -/
def State.decisions (s : State) (cs : List CoreNo) (dl : Option Nat) : List (List CoreNo × RcDecision) :=
  (s.groups cs).map fun g => (g, match dl with | some d => s.decision g d | none => .complete)

/-- A post (R328): its status, written to `RCRESULT`, and the state. Tasks being placed on cores of the set get there
first. -/
def State.post (s : State) (cs : List CoreNo) (dl : W64) (shrink : Bool) (live : Option (Fin 64)) : Nat × State :=
  let named := cs
  let cs := s.widen named
  let r := s.postStatus named cs dl shrink
  match r.1, s.rc.freeSlot with
  | 0, some j =>
    let s := cs.foldl State.finishPlacing s
    let d := if dl = BitVec.allOnes 64 then none else some dl.toNat
    let p : Post := { cores := cs, named := named, dl := d, last := dl.toNat - r.2, shrink := shrink, live := live,
                      called := d.isNone }
    let ds := s.decisions cs d
    let s := (s.lowerLast r.2).openPost j p dl r.2
    let s := s.setRc { s.rc with result := BitVec.ofNat 32 (256 * j.val) }
    let s := cs.foldl (fun s c =>
      let dec := match ds.find? fun x => x.1.contains c with | some x => x.2 | none => .complete
      s.claimCore j d.isSome dec c) s
    (0, if s.postVacant p then s.endPost j p else if shrink then s.leaveVacant p else s)
  | 0, none => (2, s.setRc { s.rc with result := 2 })
  | st, _ =>
    (st, s.setRc { s.rc with result := BitVec.ofNat 32 st,
                             mindl := if st = 1 then BitVec.ofNat 64 (s.ticks + r.2) else s.rc.mindl })

/-- `RCCTL` after a write: SHRINK and RELEASE stay, GO reads 0. -/
def State.setRcCtl (s : State) (v : W32) : State :=
  s.setRc { s.rc with shrink := v.getLsbD 1, release := v.getLsbD 2 }

/-- A write of GO without RELEASE posts `RCCORES` with `RCDL` (R326). -/
def State.goPost (s : State) (v : W32) : State :=
  ((s.setRcCtl v).post s.rc.cores s.rc.dl (v.getLsbD 1) none).2

/-- RECALL_POST: a write of `RCCTL` with GO, neither SHRINK nor RELEASE. -/
def execRecallPost (v : W32) (s : State) : Out :=
  if v.getLsbD 0 && !v.getLsbD 1 && !v.getLsbD 2 then .next (s.goPost v) else .next s

/-- RECALL_SHRINK: GO with SHRINK (R345). -/
def execRecallShrink (v : W32) (s : State) : Out :=
  if v.getLsbD 0 && v.getLsbD 1 && !v.getLsbD 2 then .next (s.goPost v) else .next s

/-- The vacant cores of `RCCORES` that no active post claims go back to scheduling (R326, R336). -/
def State.goRelease (s : State) : State :=
  let busy := s.claimedCores
  s.rc.cores.foldl (fun s c => s.updCore c fun k =>
    match k.claim with
    | some cl => if cl.vacant && !busy.contains c then { k with claim := none } else k
    | none => k) s

/-- RECALL_RELEASE: GO with RELEASE. -/
def execRecallRelease (v : W32) (s : State) : Out :=
  if v.getLsbD 0 && v.getLsbD 2 then .next ((s.setRcCtl v).goRelease) else .next s

/-! ### Tearing a context down (R324) -/

/-- A core keeps nothing of a context that is torn down; should a context take its number again, it is another one
(R13). -/
def Core.forget (k : Core) (n : W32) : Core :=
  { k with tlb := k.tlb.filter fun e => e.ctx != n, oldTlb := k.oldTlb.filter fun e => e.ctx != n,
           lastCtx := if k.lastCtx = some n then none else k.lastCtx,
           launchQ := k.launchQ.filter fun r => r.ctx != n, port := k.port.filter fun f => f.ctx != n,
           retq := k.retq.map fun q => q.filter fun e =>
             match e with
             | .marker x _ => x != n
             | .cmd _ => true }

/-- The task of a core is dropped with its context. -/
def State.tearCore (s : State) (n : W32) (c : CoreNo) : State :=
  let k := s.core c
  if k.task.isSome && k.ctx == n then
    ((s.updCore c fun k => { k with ped := [] }).freeCore c).vacate c
  else s

/-- Tear down a context: its tasks are dropped, its stores performed, for none may reach memory that is given away (R294);
its slots freed, its queues DISABLED with `QHEAD` as it stands. -/
def State.destroyContext (s : State) (n : W32) : State :=
  let s := (List.finRange 256).foldl (fun s c => s.tearCore n c) s
  let s := ((List.finRange 256).foldl (fun s c => s.performAll c fun p => p.ctx == n) s).flushHeld fun h => h.ctx == n
  let mine (q : Fin 64) : Bool := (s.queue q).ctx == n && (s.queue q).st != .disabled
  let gone := s.grids.filter fun g => g.ctx == n
  let s := { s with
    cores := s.cores.map fun (k : Core) =>
      let k := k.forget n
      let held := match k.heldFor with
        | some (q, none) => mine q
        | some (_, some g) => gone.any fun x => x.id == g
        | none => false
      { k with heldFor := if held then none else k.heldFor },
    queues := Vector.ofFn fun q =>
      let x := s.queues[q]
      if mine q then { x with st := .disabled, en := false, err := 0, node := none } else x,
    l2tlb := s.l2tlb.map fun (es : List TlbEntry) => es.filter fun e => e.ctx != n,
    grids := s.grids.filter fun g => g.ctx != n, saves := s.saves.filter fun v => v.ctx != n,
    ctxs := s.ctxs.filter fun x => x.num != n,
    ytt := { s.ytt with flows := s.ytt.flows.map fun (f : YttFlow) =>
      match f.job with
      | some (.saved x _ _ _) => if x = n then { f with job := none } else f
      | some (.cmd _ _) | some (.seqAtomic _) | some (.laneAtomic _ _ _) | none => f } }
  s.setDev { s.dev with recs := s.dev.recs.filter fun r => r.ctx != n,
                        partials := s.dev.partials.filter fun p => p.ctx != n,
                        closes := s.dev.closes.filter fun x => x.ctx != n }

/-! ### Saves (R338 to R344) -/

/-- A task that is lost with its image: its node is reported and left RUNNING, and the core is freed. The Management
Runtime then tears the context down (R339): in the same step, or later by CONTEXT_DESTROY where the next choice is not 0
(log entry 53). -/
def State.dropTask (s : State) (c : CoreNo) (t : Task) : State :=
  let (n, s) := (((s.freeCore c).queueError t.queue t.rcd.nodeid).vacate c).choice
  if n = 0 then s.destroyContext t.ctx else s

/-- A number that the images of one grid share (R340 GRID). -/
def State.gridNumber (s : State) (t : Task) : Nat × State :=
  if t.rcd.cooperative = false then (0, s)
  else
    match s.saves.find? fun v => v.task.sameNode t && v.coop != 0 && v.ctx == t.ctx with
    | some v => (v.coop, s)
    | none => (s.nextGrid, { s with nextGrid := s.nextGrid + 1 })

/-- What stands for an uncorrectable ECC error among the failures of a write; no walk answers it. -/
def eccFail : WalkFail := ⟨0, 0, 0, false⟩

/-- A block of the one numbering holds poisoned data (R285). -/
def CoreMem.blockPoisoned (m : CoreMem) (b : Nat) : Bool :=
  if b < 16384 then poisonHit 8 m.poison (64 * b) 64
  else if b < 20480 then poisonHit 8 m.accPoison (64 * (b - 16384)) 64
  else poisonHit 8 m.privPoison (64 * (b - 20480)) 64

/-- Poison in what an image takes from the core: its blocks and, of a freeze, the registers of its threads (R285). -/
def Core.savePoison (k : Core) (v : Save) : Bool :=
  v.blocks.any k.mem.blockPoisoned || (v.kind == .freeze && k.threads.any fun x => x.2.2.readsPoison (List.range 64))

/-- The write of an image into a slot: it fails where translation does, and where what is to be saved is poisoned
(R339). -/
def State.writeImage (s : State) (c : CoreNo) (v : Save) : Except WalkFail State :=
  if (s.ctx? v.ctx).isNone then .error ⟨failNotPresent, 3, 0, false⟩
  else if (s.core c).savePoison v then .error eccFail
  else
    let img := v.image c s
    match img.2.writeVa v.ctx (v.task.slotBase v.slot) img.1 with
    | .error f => .error f
    | .ok t =>
      .ok (({ t with saves := t.saves ++ [v] }).updCore c fun k =>
        { k with health := { k.health with lastImage := img.1.length } })

/-- A core's image cannot be written: a machine check of source 5, and the task is dropped. -/
def State.saveFailed (s : State) (c : CoreNo) (t : Task) (f : WalkFail) : State :=
  ((s.shepRefused t.ctx .write f).machineCheck 5 (some t.ctx) c.val 255 0 0).dropTask c t

/-- Every task of a COOPERATIVE grid has stopped at its `SAFEPT` (R344). -/
def State.gridStopped (s : State) (t : Task) : Bool :=
  !t.rcd.cooperative || (s.nodeCores t).all fun d => (s.core d).seq.mode == .stopped

/-- CHECKPOINT_SAVE: after the drain the live blocks are saved; the save ends with SAVE_IMAGE_WRITTEN. A swap-out that
finds no slot is given up (R317). A swap-out takes a task of a COOPERATIVE grid by itself (log entry 80). -/
def execCheckpointSave (c : CoreNo) (s : State) : Out :=
  let k := s.core c
  match k.task, k.seq.drain with
  | some t, some d =>
    if k.seq.mode ≠ .stopped ∨ k.drained = false ∨ k.saving.isSome ∨ k.health.clockStop ∨
        (d = .checkpoint ∧ s.gridStopped t = false) then
      .next s
    else
      match s.slotFor c with
      | none => .next (s.updSeq c fun q => { q with mode := .run, drain := none, standSince := none })
      | some slot =>
        let g := s.gridNumber t
        let v := g.2.mkSave c t (if d = .swap then .swap else .checkpoint) slot g.1
        match g.2.writeImage c v with
        | .error f => .next (g.2.saveFailed c t f)
        | .ok s => .next ((s.takeSlot t.ctx slot).updCore c fun k => { k with saving := some slot })
  | _, _ => .next s

/-- The saved task leaves the core, which is vacant for its post; a slot reserved for it that the save has not used stays
until the post ends (R336). -/
def State.leave (s : State) (c : CoreNo) (slot : Nat) : State :=
  ((s.updCore c fun k => k.useSlot slot).freeCore c).vacate c

/-- The unhandled-trap event (R324). -/
def State.unhandledEvent (s : State) (t : Task) (r : List Byte) (saved : Bool) : State :=
  (s.toMgmt (.unhandledTrap r saved)).hostEvent t.ctx (s.mkEvent 4 (BitVec.ofNat 32 t.queue.val) t.rcd.nodeid r)

/-- Remote atomics of a core now belong to the saved threads, or, as lane 128, to the saved sequencer (R341 step 4). -/
def State.flowsToSave (s : State) (c : CoreNo) (ctx : W32) (slot : Nat) : State :=
  let flows := s.ytt.flows.map fun f =>
    match f.job with
    | some (.laneAtomic d l th) => if d = c then { f with job := some (.saved ctx slot l th) } else f
    | some (.seqAtomic d) => if d = c then { f with job := some (.saved ctx slot 128 0) } else f
    | some (.cmd _ _) | some (.saved _ _ _ _) | none => f
  { s with ytt := { s.ytt with flows := flows } }

/-- Step 6 of R341, and what follows it (R324, R339). -/
def State.freezeSave (s : State) (c : CoreNo) (t : Task) : State :=
  let k := s.core c
  let event (s : State) (saved : Bool) : State :=
    if k.seq.mode == .unhandled then s.unhandledEvent t k.trapRec saved else s
  match s.slotFor c with
  | none => ((event s false).freeCore c).vacate c
  | some slot =>
    let g := s.gridNumber t
    match g.2.writeImage c (g.2.mkSave c t .freeze slot g.1) with
    | .error f => (event g.2 false).saveFailed c t f
    | .ok s => ((event (s.takeSlot t.ctx slot) true).flowsToSave c t.ctx slot).leave c slot

/-- The stop of a DISCARD is done (R332, R341 steps 1 to 3): the folds that the port has accepted are performed too. -/
def Core.discarded (k : Core) : Bool :=
  k.ped.isEmpty && k.port.isEmpty &&
    k.ops.all fun o =>
      match o.st with
      | .queued => o.held
      | .running => false
      | .executed _ _ | .delivered => true

/-- SAVE_IMAGE_WRITTEN: a save of a core ends, or a discard does, and the core becomes vacant. -/
def execSaveImageWritten (c : CoreNo) (s : State) : Out :=
  let k := s.core c
  match k.task, k.saving with
  | some _, some slot => .next (s.leave c slot)
  | some t, none =>
    match k.seq.mode with
    | .freezing | .unhandled => if k.frozen then .next (s.freezeSave c t) else .next s
    | .discarding => if k.discarded then .next (((s.giveBack t).freeCore c).vacate c) else .next s
    | .idle | .run | .ended | .stopped => .next s
  | none, _ => .next s

/-! ### REMOTE_ATOMIC_TO_IMAGE (R341, R343) -/

/-- The result that a saved thread still waits for on a flow. -/
def Thread.remoteOn (th : Thread) (flow : W32) : Option LPend :=
  th.remotePend.find? fun p =>
    match p.res with
    | .remote f _ _ _ => f == flow
    | .vals _ | .nested _ | .load _ => false

/-- The atomic of a saved thread that the flow answers: its registers, or the fault to be taken on resume. -/
def Save.answerThread (v : Save) (lane thr : Nat) (flow : W32) (result : Option W64) : Save :=
  let ix := slotIx lane thr
  match (v.threads.find? fun x => x.1 == ix).bind fun x => x.2.remoteOn flow with
  | none => v
  | some p =>
    let place := match p.res with
      | .remote _ _ _ pl => [(ix, pl)]
      | .vals _ | .nested _ | .load _ => []
    let done (th : Thread) : Thread :=
      let th := { th with pend := th.pend.filter fun x => x != p }
      match result with
      | some r => th.putAll p.dst.val (if p.n = 2 then [r.extractLsb' 0 32, r.extractLsb' 32 32] else [r.extractLsb' 0 32])
      | none => th
    { v with threads := v.threads.map fun x => if x.1 = ix then (x.1, done x.2) else x, rpend := v.rpend - 1,
             rfaults := if result.isNone then v.rfaults ++ place else v.rfaults }

def Save.answer (v : Save) (lane thr : Nat) (flow : W32) (result : Option W64) : Save :=
  if lane = 128 then
    if v.seq.remote ≠ .flight flow then v
    else
      { v with seq := { v.seq with remote := match result with | some r => .value r | none => .failed },
               rpend := v.rpend - 1 }
  else v.answerThread lane thr flow result

/-- The fabric port writes bytes of an image; a refused write is a violation (R293). -/
def State.putImage (s : State) (v : Save) (off : Nat) (bs : List Byte) : State :=
  match s.writeVa v.ctx (v.task.slotBase v.slot + off) bs with
  | .ok t => t
  | .error f => s.refusedAt v.ctx 5 255 .write f

/-- Rewrite RPEND and one thread record of an image that stands in memory: FULL, the wait state, the registers `dst` on. -/
def State.rewriteThread (s : State) (v : Save) (lane thr : Nat) (dst : Option (Nat × Nat)) : State :=
  let s := s.putImage v 0x1D0 (leBytes 4 v.rpend)
  match v.threads.zipIdx.find? fun e => e.1.1 == slotIx lane thr with
  | some e =>
    let o := 16384 + 320 * e.2
    let th := e.1.2
    let s := (s.putImage v (o + 8) (leBytes 8 th.full.toNat)).putImage v (o + 0x20) th.waitBytes
    match dst with
    | some (r, n) => s.putImage v (o + 0x40 + 4 * r) ((List.range n).flatMap fun i => leBytes 4 (th.reg (r + i)).toNat)
    | none => s
  | none => s

/-- The response to a remote atomic reaches the fabric port after the thread has been saved. -/
def State.remoteToImage (s : State) (ctx : W32) (slot lane thr : Nat) (flow : W32) (result : Option W64) : State :=
  match s.save? ctx slot with
  | none => s
  | some v =>
    let w := v.answer lane thr flow result
    let p := (v.threads.find? fun x => x.1 == slotIx lane thr).bind fun x => x.2.remoteOn flow
    let dst := match p, result with
      | some p, some _ => some (p.dst.val, p.n)
      | _, _ => none
    if w = v then s
    else
      ({ s with saves := s.saves.map fun (x : Save) => if x.ctx = ctx ∧ x.slot = slot then w else x }).rewriteThread w lane
        thr dst

def execRemoteAtomicToImage (ctx : W32) (slot : Nat) (lane thr : Nat) (result : AtomAnswer) (s : State) : Out :=
  .next (s.remoteToImage ctx slot lane thr result.flow result.value)

end Sys2Proof.Machine
end

