-- ==== Sys2Proof/Machine/Shepherd.lean ====
section
/-! DEFINITION. The Shepherd's choices (R307 to R317): candidates, offers, COOPERATIVE holds, LIVE posts, swap-outs; and
the sensors and clock gating of cores (R28, R313, R319, R371). -/

namespace Sys2Proof.Machine

open Sys2Proof

/-! ### Free cores (R312) -/

/-- Nothing keeps the core from an offer but a LIVE queue it may be given to. -/
def Core.free (k : Core) : Bool := k.task.isNone && k.claim.isNone && k.heldFor.isNone && k.enginesEmpty

/-- The free cores of a partition, in ascending `COREID` from after the cursor, wrapping. -/
def State.freeCores (s : State) (p : Fin 16) : List CoreNo :=
  let x := s.part p
  let cs := coresOf x
  ((cs.filter fun c => decide (x.cursor < c.val)) ++ cs.filter fun c => decide (c.val ≤ x.cursor)).filter fun c =>
    (s.core c).free

/-- A core that a LIVE post has emptied is only for that queue (R336). -/
def State.mayUse (s : State) (q : Fin 64) (c : CoreNo) : Bool :=
  match (s.core c).given with
  | some r => r == q
  | none => true

/-- The core that reads the lowest temperature, the first of a list on equal readings. -/
def State.coolest (s : State) : List CoreNo → Option CoreNo
  | [] => none
  | c :: cs =>
    match s.coolest cs with
    | none => some c
    | some d =>
      let tc := (s.core c).health.temp
      let td := (s.core d).health.temp
      if tc < td ∨ (tc = td ∧ c.val < d.val) then some c else some d

/-- The core that an offer takes (R312): the first; outside NORMAL mode the first that is not HOT, else the coolest
(R313). -/
def State.pickCore (s : State) (cs : List CoreNo) : Option CoreNo :=
  if s.shmode = 0 then cs.head?
  else
    match cs.find? fun c => !(s.core c).health.hot with
    | some c => some c
    | none => s.coolest cs

/-! ### Saved tasks (R343, R344) -/

/-- Insert into a list ordered by a number, after its equals. -/
def insertBy {α : Type} (f : α → Nat) (x : α) : List α → List α
  | [] => [x]
  | y :: ys => if f x < f y then x :: y :: ys else y :: insertBy f x ys

def sortBy {α : Type} (f : α → Nat) (xs : List α) : List α := xs.foldl (fun acc x => insertBy f x acc) []

/-- The save is still being written, or its task is being placed. -/
def State.saveBusy (s : State) (v : Save) : Bool :=
  s.cores.toList.any fun k =>
    (k.saving == some v.slot && k.ctx == v.ctx) || k.placing == some (.resume v.ctx v.slot)

/-- The `TRAPVEC` that stands in the image is a valid one (R324). -/
def State.imageTrapvec (s : State) (v : Save) : Bool :=
  match s.readVa v.ctx (v.task.slotBase v.slot + 0x110) 8 with
  | .ok bs => ofBytes bs != 0 && v.seq.targetOk (BitVec.ofNat 64 (ofBytes bs))
  | .error _ => false

/-- The phase that a swapped-out task waits for has passed; a barrier that cannot be read lets it meet its fault. -/
def State.swapReady (s : State) (v : Save) : Bool :=
  match v.wait with
  | none => true
  | some (a, n) =>
    match s.xlate v.ctx a .atomic with
    | .error _ => true
    | .ok p =>
      let b := s.bar (.device p)
      !b.ok || phasePassed b.phase n

/-- The saved task may resume with its grid. -/
def State.saveReady (s : State) (v : Save) : Bool :=
  !s.saveBusy v && (!v.unhandled || s.imageTrapvec v) &&
    match v.kind with
    | .checkpoint | .swap => true
    | .freeze => (s.partCores v.ctx).length == v.partcores && v.rpend == 0

/-- The saved tasks of the grid of a saved task, in iteration order. -/
def State.gridSaves (s : State) (v : Save) : List Save :=
  sortBy (fun w => w.task.n) (s.saves.filter fun w => w.ctx == v.ctx && w.coop == v.coop)

/-- The free cores that an offer of several looks at (R313): outside NORMAL mode those that are not HOT, unless all are. -/
def State.notHot (s : State) (free : List CoreNo) : List CoreNo :=
  let cool := free.filter fun c => !(s.core c).health.hot
  if s.shmode = 0 ∨ cool.isEmpty then free else cool

/-- The cores of clusters whose four cores are all free, in `COREID` order. -/
def State.wholeFree (s : State) (free : List CoreNo) : List CoreNo :=
  (List.finRange 256).filter fun c => (List.range 4).all fun j => (s.notHot free).contains (clusterCore c j)

/-- The saved task resumes by itself: it is of no COOPERATIVE grid, or of one whose saved tasks have all been swapped out
(R317, R344; log entry 80). -/
def State.savedAlone (s : State) (v : Save) : Bool := v.coop == 0 || (s.gridSaves v).all fun w => w.kind == .swap

/-- The saved task may resume now: by itself, or with its whole grid (R344). A task that has been swapped out and resumes by
itself waits for its phase. -/
def State.resumable (s : State) (free : List CoreNo) (v : Save) : Bool :=
  if s.savedAlone v then s.saveReady v && (v.kind != .swap || s.swapReady v)
  else
    let g := s.gridSaves v
    g.all s.saveReady && (s.nodeCores v.task).isEmpty && decide (4 * ceilDiv g.length 4 ≤ (s.wholeFree free).length)

def State.saveFor (s : State) (q : Fin 64) (free : List CoreNo) : Option Save :=
  s.saves.find? fun v => v.task.queue == q && s.resumable free v

/-- `n` cores of a list, each the coolest of those left (R313). -/
def State.coolestOf (s : State) : Nat → List CoreNo → List CoreNo
  | 0, _ => []
  | n + 1, cs =>
    match s.coolest cs with
    | some c => c :: s.coolestOf n (cs.erase c)
    | none => []

/-- The cores that a saved grid of `n` tasks takes, in `COREID` order: outside NORMAL mode the coolest where all are HOT
(R313, R344). -/
def State.gridCores (s : State) (free : List CoreNo) (n : Nat) : List CoreNo :=
  let cs := s.wholeFree free
  if s.shmode ≠ 0 ∧ cs.all fun c => (s.core c).health.hot then
    let take := s.coolestOf n cs
    cs.filter take.contains
  else cs

/-- Place a saved task, or a saved grid as a whole. -/
def State.placeSave (s : State) (c : CoreNo) (free : List CoreNo) (v : Save) : State :=
  if s.savedAlone v then s.place c v.task (.resume v.ctx v.slot)
  else
    ((s.gridSaves v).zip (s.gridCores free (s.gridSaves v).length)).foldl (fun s x => s.place x.2 x.1.task (.resume x.1.ctx x.1.slot)) s

/-! ### Nodes and grids with work -/

/-- Iterations are left, and a COOPERATIVE one fits the partition. -/
def State.nestOpen (s : State) (q : Fin 64) (g : Option Nat) : Bool :=
  match s.nest q g with
  | some n => decide (0 < n.count) && !s.tooWide (s.queue q) n.rcd
  | none => false

/-- The child grids of a queue that offer tasks, in order of acceptance (R316). -/
def State.openGrids (s : State) (q : Fin 64) : List Nat :=
  (s.grids.filter fun g => g.queue == q && s.nestOpen q (some g.id)).map Grid.id

def State.nodeOpen (s : State) (q : Fin 64) : Bool :=
  ((s.queue q).st == .ready || (s.queue q).st == .running) && s.nestOpen q none

/-- What a queue offers a task from, in order: its child grids, then its node (R307). -/
def State.sources (s : State) (q : Fin 64) : List (Option Nat) :=
  (s.openGrids q).map some ++ if s.nodeOpen q then [none] else []

/-- The queue is a candidate of R307. -/
def State.hasWork (s : State) (q : Fin 64) (free : List CoreNo) : Bool :=
  (s.saveFor q free).isSome || !(s.sources q).isEmpty

/-- Class rank; a demoted queue ranks as BACKGROUND (R307). -/
def Queue.rank (x : Queue) : Nat := if x.demoted then 2 else x.eff.cls.toNat

/-- The keys of R307 in one number. -/
def State.rankKey (s : State) (q : Fin 64) : Nat :=
  let x := s.queue q
  (x.rank * 2 ^ 64 + x.absdl.toNat) * 64 + q.val

/-- The candidates of a partition, best first. -/
def State.candidates (s : State) (p : Fin 16) (free : List CoreNo) : List (Fin 64) :=
  sortBy s.rankKey ((List.finRange 64).filter fun q => (s.queue q).part.toFin == p && s.hasWork q free)

/-! ### COOPERATIVE holds (R312) -/

def State.heldCores (s : State) (q : Fin 64) (g : Option Nat) : List CoreNo :=
  (List.finRange 256).filter fun c => (s.core c).heldFor == some (q, g)

/-- Hold one more core; with enough of them every iteration is placed, in `COREID` order. -/
def State.hold (s : State) (q : Fin 64) (g : Option Nat) (c : CoreNo) : State :=
  let s := s.updCore c fun k => { k with heldFor := some (q, g) }
  let held := s.heldCores q g
  match s.nest q g with
  | none => s
  | some n =>
    if held.length < n.count then s
    else
      let s := s.setNest q g { n with again := sortBy id n.again }
      held.foldl (fun s c => s.placeNext q g c) s

/-- The node or grid that holds cores in a partition. -/
def State.holder (s : State) (p : Fin 16) : Option (Fin 64 × Option Nat) :=
  (coresOf (s.part p)).findSome? fun c => (s.core c).heldFor

/-! ### SHEPHERD_CHOICE (R307, R312, R316) -/

/-- The bytes of a launch record (R185). -/
def LaunchRec.toBytes (r : LaunchRec) : List Byte :=
  let w := 2 ^ 24 + 2 ^ 16 * r.order.toNat + 2 ^ 12 * r.serp.toNat + 2 ^ 10 * r.ndim +
    (if r.restartable then 512 else 0) + if r.cooperative then 256 else 0
  leBytes 4 w ++ leBytes 4 r.nodeid.toNat ++ leBytes 8 r.image.toNat ++ leBytes 8 r.entry.toNat ++
    (r.bound.toList.flatMap fun b => leBytes 4 b.toNat) ++ leBytes 8 r.arg.toNat ++ leBytes 8 r.join.toNat ++
    leBytes 8 0

/-- A child grid that fails the image check runs no task: a launch error, and its JOIN arrival (R316). -/
def State.launchError (s : State) (g : Grid) : State :=
  let bs := g.rcd.toBytes
  let s := (s.toMgmt (.launchError bs)).hostEvent g.ctx (s.mkEvent 7 (BitVec.ofNat 32 g.queue.val) g.rcd.nodeid bs)
  s.endGrid g

/-- One source of a queue takes a core. -/
def State.offer (s : State) (q : Fin 64) (g : Option Nat) (c : CoreNo) : State :=
  match g.bind s.grid? with
  | some x =>
    if !x.checked && !s.imageOk x.ctx x.rcd then s.launchError x
    else
      let s := s.updGrid x.id fun y => { y with checked := true }
      if x.rcd.cooperative then s.hold q g c else s.placeNext q g c
  | none =>
    match s.nest q none with
    | some n => if n.rcd.cooperative then s.hold q none c else s.placeNext q none c
    | none => s

/-- A candidate takes a free core, if it can use one. -/
def State.serve (s : State) (free : List CoreNo) (q : Fin 64) : Option State :=
  let mine := free.filter (s.mayUse q)
  match s.pickCore mine with
  | none => none
  | some c =>
    match s.saveFor q mine with
    | some v => some (s.placeSave c mine v)
    | none => (s.sources q).head?.map fun g => s.offer q g c

/-- What the cores held for a COOPERATIVE node or grid are held for is wider than the partition. -/
def State.holdsInVain (s : State) (k : Core) : Bool :=
  match k.heldFor with
  | some (q, g) =>
    match s.nest q g with
    | some n => s.tooWide (s.queue q) n.rcd
    | none => false
  | none => false

/-- COOPERATIVE nodes and the partition's present size (R302, R304, R312, R345): cores held in vain are released. -/
def State.reconsider (s : State) (p : Fin 16) : State :=
  let s := { s with cores := s.cores.map fun k => if s.holdsInVain k then { k with heldFor := none } else k }
  (List.finRange 64).foldl (fun s q =>
    let x := s.queue q
    match x.node with
    | none => s
    | some n =>
      if x.part.toFin ≠ p ∨ (x.st ≠ .ready ∧ x.st ≠ .insufficient) then s
      else if s.tooWide x n.rcd then s.updQueue q fun x => { x with st := .insufficient }
      else if x.st = .insufficient then
        s.updQueue q fun x =>
          { x with st := .ready,
                   absdl := if x.eff.period = 0 then deadlineFrom s.ticks x.eff.reldl else x.absdl }
      else s) s

/-- A core given to a LIVE queue that has no work any more is open to all. -/
def State.lapse (s : State) (p : Fin 16) (free : List CoreNo) : State :=
  (coresOf (s.part p)).foldl (fun s c =>
    match (s.core c).given with
    | some q => if s.hasWork q free then s else s.updCore c fun k => { k with given := none }
    | none => s) s

/-- At a choice, the fields of the queues of the partition take effect (R297). -/
def State.latchQueues (s : State) (p : Fin 16) : State :=
  { s with queues := s.queues.map fun x => if x.part.toFin = p then x.latch else x }

/-- SHEPHERD_CHOICE: one free core of a partition is offered. -/
def execShepherdChoice (p : Fin 16) (s : State) : Out :=
  let s := s.reconsider p
  let free := s.freeCores p
  let s := if free.isEmpty then s else s.latchQueues p
  let s := s.lapse p free
  let held := match s.holder p with
    | some (q, g) => (s.pickCore (free.filter (s.mayUse q))).map fun c => s.hold q g c
    | none => none
  match held with
  | some t => .next t
  | none =>
    match (s.candidates p free).findSome? (s.serve free) with
    | some t => .next t
    | none => .next s

/-! ### QLEAD_EXPIRY (R308) -/

/-- Cores that the LIVE queue can still use: a COOPERATIVE node needs those that it does not hold yet, each task that may
resume one. -/
def State.coresWanted (s : State) (q : Fin 64) : Nat :=
  let free := s.freeCores (s.queue q).part.toFin
  ((s.sources q).map fun g =>
    match s.nest q g with
    | some n => n.count - (s.heldCores q g).length
    | none => 0).sum + (s.saves.filter fun v => v.task.queue == q && s.resumable free v).length

/-- An active post has been made for the queue. -/
def State.livePosted (s : State) (q : Fin 64) : Bool := s.rc.activePosts.any fun p => p.2.live == some q

/-- Since when a LIVE queue has been a candidate with work and no core for it (R308): from the moment it became one, or
last received a core. A post made for it ends the wait. -/
def State.noteWaits (s : State) : State :=
  if s.queues.toList.all fun x => x.eff.lead == 0 || x.eff.cls != 0 then s
  else
    { s with queues := Vector.ofFn fun q : Fin 64 =>
        let x := s.queues[q]
        if x.eff.cls ≠ 0 ∨ x.eff.lead = 0 then x
        else if s.hasWork q (s.freeCores x.part.toFin) then
          (if x.since.isSome || s.livePosted q then x else { x with since := some s.ticks })
        else { x with since := none } }

/-- The order of targets: BACKGROUND, and what R306 ranks so (log entry 50), before BATCH, then the latest `QABSDL`, then
the lowest `COREID`. -/
def State.targetKey (s : State) (c : CoreNo) : Nat :=
  match (s.core c).task with
  | some t =>
    let x := s.queue t.queue
    ((2 - x.rank) * 2 ^ 64 + (2 ^ 64 - 1 - x.absdl.toNat)) * 256 + c.val
  | none => 0

/-- Running tasks of BATCH and BACKGROUND queues of a partition, in the order of targets. -/
def State.targets (s : State) (p : Fin 16) : List CoreNo :=
  sortBy s.targetKey ((coresOf (s.part p)).filter fun c =>
    match (s.core c).task with
    | some t => (s.queue t.queue).eff.cls != 0
    | none => false)

/-- `QABSDL` of the queue that a core's task belongs to. -/
def State.deadlineOf (s : State) (c : CoreNo) : Nat :=
  match (s.core c).task with
  | some t => (s.queue t.queue).absdl.toNat
  | none => 0

/-- Keep, for each context, as many of the cores as it has free save slots: those of the latest `QABSDL` are dropped
first, whatever their class (R308). -/
def State.fitSlots (s : State) (cs : List CoreNo) : List CoreNo :=
  (sortBy s.deadlineOf cs).foldl (fun (acc : List CoreNo) c =>
    let used := (acc.filter fun d => (s.core d).ctx == (s.core c).ctx).length
    let room := match (s.core c).task with | some t => (s.freeFor t).length | none => 0
    if used < room then acc ++ [c] else acc) []

/-- The LIVE queue reports that it is starved of save slots (R308, event 11). -/
def State.starve (s : State) (q : Fin 64) : State :=
  let x := s.queue q
  if x.starved then s
  else
    let s := (s.updQueue q fun x => { x with starved := true }).toMgmt (.recallStarved q)
    s.hostEvent x.ctx (s.mkEvent 11 (BitVec.ofNat 32 q.val) 0 (leBytes 4 s.rc.result.toNat))

/-- Post for a LIVE queue, again where R308 says so. -/
def State.livePost (q : Fin 64) : Nat → List CoreNo → W64 → State → State
  | 0, _, _, s => s
  | fuel + 1, cs, dl, s =>
    if cs.isEmpty then s
    else
      let r := s.post cs dl false (some q)
      match r.1 with
      | 0 => r.2.updQueue q fun x => { x with since := none, starved := false }
      | 1 => State.livePost q fuel cs r.2.rc.mindl r.2
      | 2 =>
        let rest := cs.filter fun c => !s.claimedCores.contains c
        if rest.length < cs.length then State.livePost q fuel rest dl r.2 else r.2
      | 3 =>
        let rest := s.fitSlots cs
        if rest.isEmpty then r.2.starve q
        else if rest.length < cs.length then State.livePost q fuel rest dl r.2 else r.2
      | _ => r.2

/-- QLEAD_EXPIRY: a LIVE queue, demoted or not, has waited `QLEAD` ticks for a core. -/
def execQleadExpiry (q : Fin 64) (s : State) : Out :=
  let x := s.queue q
  let p := x.part.toFin
  match x.since with
  | none => .next s
  | some t =>
    if x.eff.cls ≠ 0 ∨ x.eff.lead = 0 ∨ s.ticks < t + x.eff.lead.toNat ∨ s.hasWork q (s.freeCores p) = false then .next s
    else
      let n := Nat.min (s.coresWanted q) (coresOf (s.part p)).length
      .next (s.livePost q 5 ((s.targets p).take n) (BitVec.ofNat 64 (s.ticks + x.eff.lead.toNat)))

/-! ### SWAP_OUT (R317) -/

/-- The tick since which a task has stood at a swap-out point long enough to be swapped out, if it may be: it still
stands there only while the phase has not passed (R177). -/
def State.swapSince (s : State) (c : CoreNo) : Option Nat :=
  let k := s.core c
  match k.task, k.seq.standSince with
  | some t, some since =>
    let room := !(s.freeFor t).isEmpty
    let p := (s.queue t.queue).part.toFin
    let free := s.freeCores p
    let rival := (s.candidates p free).any fun q =>
      decide ((s.queue q).rank < (s.queue t.queue).rank ∨ s.rankKey q ≤ s.rankKey t.queue) &&
        !free.any (s.mayUse q)
    if s.seqWaits c && k.claim.isNone && room && rival &&
        decide (since + 17 * s.swapdly.toNat ≤ s.now) then some since
    else none
  | _, _ => none

/-- SWAP_OUT: of the tasks of a partition that qualify, the one that has stood longest drains to be saved. -/
def execSwapOut (c : CoreNo) (s : State) : Out :=
  match s.swapSince c, s.partOf c with
  | some t, some p =>
    let earlier := (coresOf (s.part p)).any fun d =>
      match s.swapSince d with
      | some u => decide (u < t)
      | none => false
    if earlier then .next s else .next (s.updCore c Core.beginSwap)
  | _, _ => .next s

/-! ### Sensors (R313) -/

/-- HOT after a reading at cycle `now`: 10 ms are 17,000,000 cycles. -/
def Health.settle (h : Health) (now : Nat) : Health :=
  if 95 ≤ h.temp then { h with hot := true }
  else if h.temp ≤ 88 ∧ h.droops.all fun d => decide (d + 17000000 ≤ now) then { h with hot := false }
  else h

/-- TEMPERATURE_SAMPLE: a core's sensor is read. -/
def execTemperatureSample (c : CoreNo) (celsius : Int) (s : State) : Out :=
  .next (s.updCore c fun k => { k with health := ({ k.health with temp := celsius } : Health).settle s.now })

/-- DROOP_EVENT: the third within 1 ms (1,700,000 cycles) makes the core HOT. -/
def execDroopEvent (c : CoreNo) (s : State) : Out :=
  .next (s.updCore c fun k =>
    let ds := (k.health.droops.filter fun d => decide (s.now < d + 17000000)) ++ [s.now]
    let recent := (ds.filter fun d => decide (s.now ≤ d + 1700000)).length
    { k with health := { k.health with droops := ds, hot := k.health.hot || decide (3 ≤ recent) } })

/-! ### Clock gating (R319, R28) -/

/-- Nothing works on an op: its team's threads wait, no group is free for it, or it waits for the sequencer to clear the
restart slot. -/
def Core.opRests (k : Core) (o : Op) : Bool :=
  match o.st with
  | .running => o.q == .lane
  | .queued => o.held || (o.q == .lane && (k.laneHead.all fun h => (k.groupsFor h.entry.gang).isNone))
  | .executed st _ => st.cause != .none && o.parent.isNone && k.seq.restart.isSome
  | .delivered => true

/-- Every thread waits on a barrier or a collective and has nothing outstanding; no engine, Retriever or port is busy. -/
def Core.asleep (k : Core) : Bool :=
  k.quietPorts && k.walks.isEmpty && k.updates.isEmpty && !(k.cmds.any Cmd.active) &&
    k.ops.all k.opRests && k.teams.all (fun t => !t.aborting) &&
    k.threads.all fun x =>
      x.2.2.pend.isEmpty && x.2.2.park == .none &&
        match x.2.2.wait with
        | .barrier _ _ _ | .coll _ => true
        | .none | .debug | .faulted => false

/-- CLOCK_GATE: a free core, or one that only waits, is gated. At a swap-out point the `BWAIT.Y` has its turn first, from
which on the task stands there (R177, R317). -/
def execClockGate (c : CoreNo) (s : State) : Out :=
  let k := s.core c
  let free := k.task.isNone && k.placing.isNone && k.enginesEmpty
  if free || (k.task.isSome && k.placing.isNone && s.seqWaits c && !s.standDue c && k.asleep) then
    .next (s.updCore c fun k => { k with health := { k.health with gated := true } })
  else .next s

/-- CORE_WAKE: a gated core leaves clock gating for one of the causes of R28. -/
def execCoreWake (c : CoreNo) (cause : Nat) (s : State) : Out :=
  if s.wakeCause c cause then .next (s.wake c cause) else .next s

end Sys2Proof.Machine
end

