-- ==== Sys2Proof/Machine/Fetch.lean ====
section
/-! DEFINITION. Fetch: which instruction a turn runs (R69, R72, R84, R213, R214), the time a step takes, and how the
arbiter stands afterwards. -/

namespace Sys2Proof.Machine

open Sys2Proof

/-- The team and group whose subset issues, its lowest lane and its lanes. -/
structure Issue where
  core : CoreNo
  g : Nat
  op : Nat
  low : Nat
  lanes : List Nat
  deriving DecidableEq, Repr, Inhabited

/-- What a turn does: nothing more than the new state, an instruction, or an instruction of a subset. -/
inductive Move where
  | done (s : State)
  | run (i : Instr) (s : State)
  | lanes (i : Instr) (n : Issue) (s : State)
  deriving Inhabited

/-! ### Time -/

/-- A team waits for a replayable translation fault, or its core is being frozen: these cycles do not count (R131). -/
def Core.tick (k : Core) (dt : Nat) : Core :=
  { k with teams := k.teams.map fun t =>
      let parked := (k.teamThreads t.op).any fun x =>
        match x.2.2.park with
        | .waiting _ _ => true
        | .none | .retry | .walking | .failed _ => false
      let frozen := k.seq.mode == .freezing || k.seq.mode == .unhandled
      if parked || frozen then { t with exempt := t.exempt + dt } else t }

/-- The teams that are overdue: core and op. -/
def State.overdue (s : State) : List (CoreNo × Nat) :=
  (List.finRange 256).flatMap fun c =>
    ((s.core c).teams.filter fun t => (s.core c).overdue s.now t).map fun t => (c, t.op)

/-- Cycles pass, none beyond a last-call point that has not been called or a deadline that cores are still to meet (R334,
R335). The watchdogs that run out in them abort their teams (R131, R375), and the last calls are made. What waits is noted before
they pass (R308). -/
def State.pass (s : State) (dt : Nat) : State :=
  if dt = 0 then s
  else
    let n := s.clip dt
    let s := s.noteWaits
    let s : State :=
      { s with now := s.now + n, cores := s.cores.map fun k => if k.teams.isEmpty then k else k.tick n }
    let s := s.overdue.foldl (fun s x => s.watchdog x.1 x.2) s
    (s.rc.activePosts.map Prod.fst).foldl State.lastCall s

/-! ### The sequencer -/

/-- The second word of a pair, if the tile code holds it (R69). -/
def Seq.nextWord (q : Seq) : Option W64 := q.code[q.pc.toNat / 8 + 1]?

/-- The tile instruction at the PC; none beyond the end of the tile code (R72). -/
def Seq.fetch (q : Seq) : Option (Except TileDecodeError Instr) :=
  if q.pc.toNat < q.codeSize ∧ q.pc.toNat % 8 = 0 then some (decodeTile (q.wordAt q.pc) q.nextWord) else none

/-- A word of the instruction at the PC is poisoned (R285). -/
def Core.codePoisoned (k : Core) (i : Instr) : Bool :=
  (List.range i.tileWords).any fun j => k.mem.codePoisoned (k.seq.pc.toNat / 8 + j)

/-- The turn of a sequencer: a fault is delivered first (R136), then the word at the PC is decoded. A poisoned word is a
load of poisoned data (R285; log entry 77). -/
def seqMove (c : CoreNo) (s : State) : Move :=
  let k := s.core c
  if k.health.clockStop || k.health.gated || k.seq.mode != .run then .done s
  else
    match if k.seq.takesDelivery then k.nextFault else none with
    | some f => .done (deliver c f s)
    | none =>
      match k.seq.fetch with
      | some (.ok i) =>
        if k.codePoisoned i then .done (tileFault c .memoryError k.seq.pc s)
        else .run i (s.setSched { s.sched with cur := c })
      | some (.error _) =>
        .done (if k.mem.codePoisoned (k.seq.pc.toNat / 8) then tileFault c .memoryError k.seq.pc s else illegalTile c s)
      | none => .done (illegalTile c s)

/-! ### The lanes -/

/-- The teams with a thread on a group. -/
def Core.teamsOn (k : Core) (g : Nat) : List Nat :=
  (k.teams.filter fun t => (k.teamThreads t.op).any fun x => x.1 / 32 == g).map Team.op

/-- The team whose turn it is: the next above the last one served, cyclically. -/
def Core.nextTeam (k : Core) (g : Nat) : Option Nat :=
  let ts := k.teamsOn g
  match (k.rr.toList.getD g none) with
  | some last => ((ts.filter fun t => decide (last < t)).min?).or ts.min?
  | none => ts.min?

/-- Rotate a list, so that the order in which threads of a subset act is open where the model lists choices. -/
def rotate {α : Type} (n : Nat) (xs : List α) : List α := xs.drop (n % xs.length) ++ xs.take (n % xs.length)

/-- The team's turn counts in its timer; the subset that is current issues next (R214, R374). -/
def Core.takeTurn (k : Core) (op g : Nat) (low : Nat) : Core :=
  let k := { k with rr := k.rr.setIfInBounds g (some op) }
  k.updTeam op fun t =>
    let a := t.arb.toList.getD g {}
    { t with arb := t.arb.setIfInBounds g { a with low := some low, timer := a.timer + 1 } }

/-- The turn of a group: its next team's current subset is fetched and decoded once. -/
def laneMove (c : CoreNo) (g : Fin 4) (s : State) : Move :=
  let k := s.core c
  if k.health.gated || k.moving = false then .done s
  else
    match (k.nextTeam g.val).bind k.team? with
    | none => .done s
    | some team0 =>
      let due := k.expires team0 g.val
      let k := if due then k.expire team0 g.val else k
      match (k.team? team0.op).bind fun t => k.currentSubset t g.val with
      | none => .done (s.setCore c { k with rr := k.rr.setIfInBounds g.val (some team0.op) })
      | some (low, sub) =>
        let s := s.setCore c (k.takeTurn team0.op g.val low)
        match sub.find? fun x => x.1 == low with
        | none => .done s
        | some x =>
          let t : TRef := ⟨c, x.1, x.2⟩
          match s.threadOf t with
          | none => .done s
          | some th =>
            match laneFetch t th.pc s with
            | .wait s => .done s
            | .fail cause => .done (laneFault t cause th.pc 0 s)
            | .word w s =>
              let n := s.choice
              let s := n.2.setSched { n.2.sched with cur := c, issue := rotate n.1 sub }
              match decodeLane w with
              | .ok i => .lanes i ⟨c, g.val, team0.op, low, sub.map Prod.fst⟩ s
              | .error _ => .done (laneIllegal s)

/-- After an issue: where the lowest lane of the subset has left it, the rest of the subset is current; where every
thread of it waits or has exited, next(S) is, with the timer at 0 (R214). -/
def afterIssue (n : Issue) (s : State) : State :=
  s.updCore n.core fun k =>
    match k.team? n.op with
    | none => k
    | some t =>
      let a := t.arb.toList.getD n.g {}
      let here := (k.subsetThreads n.op n.g).map fun x => x.1
      if a.low ≠ some n.low ∨ here.contains n.low then k
      else
        match n.lanes.filter here.contains with
        | [] => k.moveArb n.op n.g n.low n.lanes
        | l :: ls => k.setArb n.op n.g { a with low := some (ls.foldl Nat.min l) }

/-! ### Turns -/

/-- A step of the hardware or of the host: neither a tile nor a lane instruction. -/
def isStep (i : Instr) : Bool := (tileFields i).isNone && (laneFields i).isNone

/-- What a turn does. What a cluster unit holds back of `.CLUSTER` atomics is performed at DEVICE no later than the next
step that is not an instruction (R261). -/
def turnMove (t : Turn) (s : State) : Move :=
  match t with
  | .seq c => seqMove c s
  | .lanes c g => laneMove c g s
  | .event i => if isStep i then .run i (s.flushHeld fun _ => true) else .done s

end Sys2Proof.Machine
end

