-- ==== Sys2Proof/Machine/Loader.lean ====
section
/-! DEFINITION. The image loader (R94 to R97): the checks in their order, and what a loaded image leaves in its context
(R33, R95). -/

namespace Sys2Proof.Machine

open Sys2Proof

/-! ### The container (R94) -/

structure Section where
  typ : Nat
  res : Nat
  off : Nat
  size : Nat
  deriving DecidableEq, Repr, Inhabited

/-- The section table. -/
def sectionsOf (bs : List Byte) : List Section :=
  (List.range (wordOf bs 6 2)).map fun i =>
    let o := 64 + 16 * i
    ⟨wordOf bs o 4, wordOf bs (o + 4) 4, wordOf bs (o + 8) 4, wordOf bs (o + 12) 4⟩

/-- Two sections overlap: each begins before the other ends. A section of SIZE 0 that begins inside another one counts as
overlapping it (log entry 64). -/
def Section.meets (x y : Section) : Bool := decide (x.off < y.off + y.size) && decide (y.off < x.off + x.size)

/-- No two sections of a list overlap or share a TYPE. -/
def sectionsApart : List Section → Bool
  | [] => true
  | x :: xs => (xs.all fun y => !x.meets y && x.typ != y.typ) && sectionsApart xs

def sectionBytes (bs : List Byte) (typ : Nat) : Option (List Byte) :=
  ((sectionsOf bs).find? fun x => x.typ == typ).map fun x => (bs.drop x.off).take x.size

def codeWords (bs : List Byte) : List W64 :=
  (List.range (bs.length / 8)).map fun i => BitVec.ofNat 64 (wordOf bs (8 * i) 8)

/-- The header by itself: MAGIC, VERSION, NSECT, the reserved bytes, and LENGTH, which is wrong where it does not reach
the end of the section table (log entry 65). -/
def headerOk (bs : List Byte) : Bool :=
  let n := wordOf bs 6 2
  decide (64 ≤ bs.length) && wordOf bs 0 4 == 0x49564C56 && wordOf bs 4 2 == 1 && decide (1 ≤ n) && decide (n ≤ 6) &&
    decide (64 + 16 * n ≤ wordOf bs 8 8) && ((bs.drop 0x30).take 16).all (fun b => b == 0)

/-- Status 1 of R96. -/
def containerOk (bs : List Byte) : Bool :=
  let n := wordOf bs 6 2
  let len := wordOf bs 8 8
  let secs := sectionsOf bs
  let binds := (sectionBytes bs 5).getD []
  headerOk bs && len == bs.length &&
    (secs.all fun x => x.res == 0 && decide (1 ≤ x.typ) && decide (x.typ ≤ 6) && decide (64 + 16 * n ≤ x.off) &&
      x.off % 8 == 0 && x.size % 8 == 0 && decide (x.off + x.size ≤ len)) &&
    sectionsApart secs && (sectionBytes bs 1).isSome && ((sectionBytes bs 4).getD []).length % 16 == 0 &&
    (List.range (binds.length / 8)).all fun i => wordOf binds (8 * i + 1) 1 == 0 && wordOf binds (8 * i + 4) 4 == 0

/-- Status 2: IDENT is the SHA-256 of the container with IDENT taken as zero. -/
def identOk (bs : List Byte) : Bool :=
  sha256 (bs.take 0x10 ++ List.replicate 32 0 ++ bs.drop 0x30) == (bs.drop 0x10).take 32

/-! ### Tile code (R96 statuses 4 to 6, R97) -/

/-- The byte addresses of the instructions of a TILE section, a class-11 pair counting as one. Here and below words are
known by CLASS and OPC alone, also those that decode to nothing (log entry 66). -/
def tileStarts (at_ : Nat) : List W64 → List Nat
  | [] => []
  | [_] => [at_]
  | w :: x :: ws => if w.extractLsb' 62 2 = 3 then at_ :: tileStarts (at_ + 16) ws else at_ :: tileStarts (at_ + 8) (x :: ws)

def tileAt (tile : List W64) (a : Nat) : W64 := tile.getD (a / 8) 0

/-- A `SAFEPT` stands at the address. -/
def isSafept (tile : List W64) (a : Nat) : Bool :=
  (tileAt tile a).extractLsb' 62 2 == 0 && (tileAt tile a).extractLsb' 54 8 == 0x4B

/-- The displacement of a `BR`, `CALL` or `LOOP` at the address (R71, R110). -/
def branchAt (tile : List W64) (a : Nat) : Option Int :=
  let w := tileAt tile a
  let opc := w.extractLsb' 54 8
  if w.extractLsb' 62 2 = 0 ∧ (opc = 0x38 ∨ opc = 0x3A ∨ opc = 0x3C) then some (w.extractLsb' 0 14).toInt else none

/-- The branches of a TILE section: displacement and target. -/
def branchesOf (tile : List W64) (starts : List Nat) : List (Int × Int) :=
  starts.filterMap fun a => (branchAt tile a).map fun d => (d, (a : Int) + 8 * d)

/-- Status 4: a target outside the code, or on the second word of a pair. -/
def targetsOk (tile : List W64) (starts : List Nat) : Bool :=
  (branchesOf tile starts).all fun b => decide (0 ≤ b.2) && starts.contains b.2.toNat

/-- The longest piece of a section cut after every `SAFEPT`. -/
def runsOk (tile : List W64) : Nat → List Nat → Bool
  | n, [] => decide (n ≤ 1024)
  | n, a :: as => if isSafept tile a then decide (n + 1 ≤ 1024) && runsOk tile 0 as else runsOk tile (n + 1) as

/-- The instructions from the nearest `SAFEPT` at or below the target to it; none without one. -/
def pastSafept (tile : List W64) (target : Nat) (starts : List Nat) : Option Nat :=
  (starts.filter fun a => decide (a ≤ target)).foldl (fun n a =>
    if isSafept tile a then some 0 else n.map (· + 1)) none

/-- Status 6: a backward branch lands at most 64 instructions past a `SAFEPT`. -/
def backwardOk (tile : List W64) (starts : List Nat) : Bool :=
  (branchesOf tile starts).all fun b =>
    decide (0 ≤ b.1) ||
      match pastSafept tile b.2.toNat starts with
      | some n => decide (n ≤ 64)
      | none => false

/-! ### Routines and binds (R95) -/

structure Routine where
  off : Nat
  gang : Nat
  budget : Nat
  wdog : Nat
  flags : Byte
  res : Nat
  deriving DecidableEq, Repr, Inhabited

def routinesOf (bs : List Byte) : List Routine :=
  (List.range (bs.length / 16)).map fun i =>
    let o := 16 * i
    ⟨wordOf bs o 4, wordOf bs (o + 4) 1, wordOf bs (o + 5) 1, wordOf bs (o + 6) 1, BitVec.ofNat 8 (wordOf bs (o + 7) 1),
      wordOf bs (o + 8) 8⟩

/-- BINDS entries: index and routine number. -/
def bindsOf (bs : List Byte) : List (Nat × Nat) :=
  (List.range (bs.length / 8)).map fun i => (wordOf bs (8 * i) 1, wordOf bs (8 * i + 2) 2)

def Routine.ok (r : Routine) (lane : Nat) : Bool :=
  decide (r.gang ≤ 2) && decide (16 ≤ r.wdog) && decide (r.wdog ≤ 47) && r.off % 8 == 0 && decide (r.off < lane) &&
    r.flags.extractLsb' 5 3 == 0 && r.res == 0

/-- The binding entry of a routine whose LANE section stands at `lane` (R31, R95). -/
def Routine.entry (r : Routine) (lane : W64) (ident : List Byte) : BindEntry :=
  let bit (i j : Nat) : Nat := if r.flags.getLsbD i then 2 ^ j else 0
  { w0 := BitVec.ofNat 64 (2 ^ 63 + 2 ^ 46 * r.gang + 2 ^ 39 * r.budget + 2 ^ 33 * r.wdog + bit 0 27 + bit 1 26 +
            bit 2 25 + bit 3 24 + bit 4 28),
    w1 := lane + BitVec.ofNat 64 r.off, w2 := BitVec.ofNat 64 (wordOf ident 0 8), w3 := 0 }

/-! ### Loading -/

/-- The load status of R96: the first check that fails. -/
def loadStatus (bs : List Byte) : Nat :=
  let tile := codeWords ((sectionBytes bs 1).getD [])
  let starts := tileStarts 0 tile
  let lane := ((sectionBytes bs 2).getD []).length
  let routines := routinesOf ((sectionBytes bs 4).getD [])
  let binds := bindsOf ((sectionBytes bs 5).getD [])
  if containerOk bs = false then 1
  else if identOk bs = false then 2
  else if 8192 < tile.length ∨ 2048 < ((sectionBytes bs 3).getD []).length then 3
  else if targetsOk tile starts = false then 4
  else if runsOk tile 0 starts = false then 5
  else if backwardOk tile starts = false then 6
  else if binds.any fun b => decide (routines.length ≤ b.2) then 7
  else if routines.any fun r => decide (r.budget < 8) || decide (64 < r.budget) then 8
  else if routines.any fun r => !r.ok lane then 9
  else 0

/-- Where the loader places the LANE section of the next image of a context: a 64 KiB page of its choosing (log entry
24). -/
def Ctx.lanePlace (x : Ctx) : W64 := (Config.lanePage x.num x.nextLane ++ (0 : BitVec 16) : BitVec 52).zeroExtend 64

/-- A context after an image has been loaded into it: the image, and its declarations in order. The image stands in the
place of one loaded before at the same container address, whose lane code stays where it was placed (log entry 67). -/
def Ctx.load (x : Ctx) (addr : W64) (bs : List Byte) : Ctx :=
  let ident := (bs.drop 0x10).take 32
  let im : Image := { addr := addr, ident := ident, tile := codeWords ((sectionBytes bs 1).getD []),
                      const := codeWords ((sectionBytes bs 3).getD []), lane := x.lanePlace }
  let routines := routinesOf ((sectionBytes bs 4).getD [])
  let table := (bindsOf ((sectionBytes bs 5).getD [])).foldl (fun t b =>
    match routines[b.2]? with
    | some r => t.setIfInBounds b.1 (r.entry x.lanePlace ident)
    | none => t) x.table
  { x with images := im :: x.images.filter fun i => i.addr != addr, table := table, nextLane := x.nextLane + 1 }

/-- Write lane code to device virtual memory, page by page: to the pages that lanes can fetch from (R288). -/
def State.placeLane (s : State) (ctx : W32) (a : Nat) (bs : List Byte) : State :=
  ((pagePieces (bs.length / 65536 + 2) a bs.length).foldl (fun (acc : State × List Byte) pc =>
    let rest := acc.2.drop pc.2
    match acc.1.xlate ctx (BitVec.ofNat 64 pc.1) .fetch with
    | .ok p => (acc.1.homeWrite 256 .bytes ctx p.pidx false p.pa (acc.2.take pc.2), rest)
    | .error f => (acc.1.shepRefused ctx .fetch f, rest)) (s, bs)).1

/-- A core holds no copies of `n` bytes of lane code at `a` any more (R279: the reload that keeps the cache coherent). -/
def Core.dropLane (k : Core) (ctx : W32) (a n : Nat) : Core :=
  if k.lastCtx = some ctx then
    { k with mem := { k.mem with icache := k.mem.icache.filter fun e => !(decide (a ≤ e.1) && decide (e.1 < a + n)) } }
  else k

/-- Load an image whose status is LOADED into a context (R95). -/
def State.loadImage (s : State) (x : Ctx) (addr : W64) (bs : List Byte) : State :=
  let lane := (sectionBytes bs 2).getD []
  let a := x.lanePlace.toNat
  let s := s.placeLane x.num a lane
  { (s.updCtx x.num fun x => x.load addr bs) with cores := s.cores.map fun k => k.dropLane x.num a lane.length }

end Sys2Proof.Machine
end

