-- ==== Sys2Proof/Machine/Power.lean ====
section
/-! DEFINITION. Power and thermal stops (R371, R372). -/

namespace Sys2Proof.Machine

open Sys2Proof

/-- POWER_WINDOW: a window of 10 ms ends with its average power and its lowest clock; a window in which the cap lowered a
clock is counted, saturating. -/
def execPowerWindow (watts mhz : Nat) (lowered : Bool) (s : State) : Out :=
  .next { s with pwr := { s.pwr with
    watts := BitVec.ofNat 32 watts, clk := BitVec.ofNat 32 mhz,
    throt := if lowered then satInc s.pwr.throt else s.pwr.throt } }

/-- The core is claimed by an active post and not yet vacant. -/
def State.pressed (s : State) (c : CoreNo) : Bool :=
  match (s.core c).claim with
  | some cl => !cl.vacant && s.claimedCores.contains c
  | none => false

/-- THERMAL_STOP: a core that reads 105 °C or more stops its clock; a claimed one escalates, goes on until it is vacant,
and stops then. -/
def execThermalStop (c : CoreNo) (s : State) : Out :=
  let k := s.core c
  if k.health.temp < 105 ∨ k.health.clockStop then .next s
  else if s.pressed c then
    .next ((s.updCore c fun k => { k with health := { k.health with stopDue := true } }).escalate c)
  else
    let s := s.updCore c fun k => { k with health := { k.health with clockStop := true } }
    .next (s.machineCheck 6 (k.task.map Task.ctx) c.val 255 0 0)

/-- THERMAL_RESUME: a stopped core that reads 95 °C or less goes on. -/
def execThermalResume (c : CoreNo) (s : State) : Out :=
  if (s.core c).health.temp ≤ 95 then
    .next (s.updCore c fun k => { k with health := { k.health with clockStop := false } })
  else .next s

end Sys2Proof.Machine
end

