-- ==== Sys2Proof/Machine/Registers.lean ====
section
/-! DEFINITION. The register space of REG_READ and REG_WRITE (R362): queues (R296), Shepherd (R318), Recall (R326, R327),
scale-out (R363), host port (R351), partitions (R368), power (R372), contexts (R320). -/

namespace Sys2Proof.Machine

open Sys2Proof

/-- Eight bytes of a wide register. -/
def piece {w : Nat} (x : BitVec w) (i : Nat) : W64 := x.extractLsb' (64 * i) 64

/-- A wide register with eight bytes replaced. -/
def setPiece {w : Nat} (x : BitVec w) (i : Nat) (v : W64) : BitVec w :=
  (x &&& ~~~ (((BitVec.allOnes 64 : W64).zeroExtend w) <<< (64 * i))) ||| ((v.zeroExtend w) <<< (64 * i))

def low32 (v : W64) : W32 := v.extractLsb' 0 32

/-! ### Reads -/

def readQueue (s : State) (q : Fin 64) (o : Nat) : W64 :=
  let x := (s.charge q).queue q
  match o with
  | 0x00 => x.base
  | 0x08 => x.size.zeroExtend 64
  | 0x0C => x.ctl.zeroExtend 64
  | 0x10 => x.head.zeroExtend 64
  | 0x14 => x.tail.zeroExtend 64
  | 0x18 => x.period.zeroExtend 64
  | 0x1C => x.budget.zeroExtend 64
  | 0x20 => x.reldl.zeroExtend 64
  | 0x24 => x.lead.zeroExtend 64
  | 0x28 => x.absdl
  | 0x30 => if x.eff.period = 0 then 0 else x.remain.zeroExtend 64
  | 0x34 => (s.qstatus q).zeroExtend 64
  | 0x38 => x.repl
  | 0x40 => x.ctx.zeroExtend 64
  | _ => 0

/-- `HOTMAP`, and every other map of cores. -/
def coreMap (f : CoreNo → Bool) : BitVec 256 :=
  BitVec.ofNat 256 ((List.finRange 256).foldl (fun n c => if f c then n + 2 ^ c.val else n) 0)

def readShepherd (s : State) (o : Nat) : W64 :=
  match o with
  | 0x00 => s.shmode.zeroExtend 64
  | 0x04 => s.swapdly.zeroExtend 64
  | 0x08 | 0x10 | 0x18 | 0x20 => piece (coreMap fun c => (s.core c).health.hot) ((o - 8) / 8)
  | _ => 0

def rcActive (r : Recall) : Nat :=
  (List.finRange 8).foldl (fun n j => if (r.posts[j]).isSome then n + 2 ^ j.val else n) 0

def readRecall (s : State) (o : Nat) : W64 :=
  let r := s.rc
  if h : 0x100 ≤ o ∧ o < 0x200 then
    let j : Fin 8 := ⟨(o - 0x100) / 0x20, by omega⟩
    match o % 0x20 with
    | 0x00 => r.pdl[j]
    | 0x08 => r.plast[j]
    | 0x10 => r.pdone[j]
    | 0x18 => r.pefreeze[j].zeroExtend 64
    | _ => 0
  else
    match o with
    | 0x00 | 0x08 | 0x10 | 0x18 => piece (coreMap r.cores.contains) (o / 8)
    | 0x20 => r.dl
    | 0x28 => (if r.shrink then 2 else 0) + if r.release then 4 else 0
    | 0x2C => r.result.zeroExtend 64
    | 0x30 => r.mindl
    | 0x38 => BitVec.ofNat 64 (rcActive r)
    | _ => 0

def RcDecision.code : RcDecision → Nat
  | .complete => 1 | .checkpoint => 2 | .discard => 3 | .freeze => 4

def Core.rcState (k : Core) : Nat :=
  match k.claim with
  | some cl => (if cl.vacant then 5 else cl.dec.code) + 16 * cl.slot.val
  | none => 0

def readCore (s : State) (c : CoreNo) (o : Nat) : W64 :=
  let k := s.core c
  match o with
  | 0x00 => BitVec.ofNat 64 k.cdirty
  | 0x04 => BitVec.ofNat 64 k.health.live
  | 0x08 => (readingOf k.health.spAvg).zeroExtend 64
  | 0x0C => BitVec.ofNat 64 (s.cdrain c)
  | 0x10 => BitVec.ofNat 64 (k.celapsed s.ticks % 2 ^ 32)
  | 0x14 => BitVec.ofNat 64 k.rcState
  | _ => 0

/-- `PCARVE` from a base and a size. -/
def carveReg (r : Nat × Nat) : W128 := BitVec.ofNat 128 (r.1 / 2 ^ 25 * 2 ^ 25 + r.2 / 2 ^ 25 * 2 ^ 89)

def readPart (s : State) (p : Fin 16) (o : Nat) : W64 :=
  let x := s.part p
  let wide (r : W128) : W64 := if o % 0x10 = 0 then piece r 0 else if o % 0x10 = 8 then piece r 1 else 0
  if o = 0 then x.clusters
  else if o = 8 then x.yttctx.zeroExtend 64
  else if 0x10 ≤ o ∧ o < 0x90 then wide (carveReg (x.carve.toList.getD ((o - 0x10) / 0x10) (0, 0)))
  else if 0x90 ≤ o ∧ o < 0x190 then wide (x.rwin.toList.getD ((o - 0x90) / 0x10) 0)
  else 0

def readCtx (x : Ctx) (o : Nat) : W64 :=
  match o with
  | 0x00 => x.lanehnd
  | 0x08 => x.frecbase
  | 0x10 => x.savebase
  | 0x18 => x.saveslots.zeroExtend 64
  | 0x1C => x.lringsize.zeroExtend 64
  | 0x20 => x.lringbase
  | 0x28 => BitVec.ofNat 64 x.freeSlots.length
  | 0x2C => x.cpedlimit.zeroExtend 64
  | 0x30 => x.cpedbase
  | 0x38 => x.cptroot
  | _ => 0

def readMisc (s : State) (off : Nat) : W64 :=
  match off with
  | 0x7000 => piece s.ytt.pfx 0
  | 0x7008 => piece s.ytt.pfx 1
  | 0x7010 => s.ytt.devid.zeroExtend 64
  | 0x7014 => s.ytt.rto.zeroExtend 64
  | 0x7018 => s.ytt.retry.zeroExtend 64
  | 0x7100 => Config.hmac.zeroExtend 64
  | 0x7110 => piece s.host.hpaddr 0
  | 0x7118 => piece s.host.hpaddr 1
  | 0xA000 => s.pwr.cap.zeroExtend 64
  | 0xA004 => s.pwr.watts.zeroExtend 64
  | 0xA008 => s.pwr.clk.zeroExtend 64
  | 0xA00C => s.pwr.throt.zeroExtend 64
  | _ => 0

/-- The context whose block lies at an offset of the context blocks. -/
def blockCtx (off : Nat) : W32 :=
  let i := (off - 0xC000) / 0x40
  BitVec.ofNat 32 (i / 16 * 2 ^ 28 + i % 16)

/-- REG_READ: the register at the offset, zero where there is none. -/
def State.regRead (s : State) (off : Nat) : W64 :=
  if off < 0x2000 then readQueue s (Fin.ofNat 64 (off / 0x80)) (off % 0x80)
  else if off < 0x2028 then readShepherd s (off - 0x2000)
  else if 0x3000 ≤ off ∧ off < 0x3200 then readRecall s (off - 0x3000)
  else if 0x4000 ≤ off ∧ off < 0x6000 then readCore s (Fin.ofNat 256 ((off - 0x4000) / 0x20)) (off % 0x20)
  else if 0x6000 ≤ off ∧ off < 0x6200 then
    if off % 8 = 0 then (readingOf (s.queue (Fin.ofNat 64 ((off - 0x6000) / 8))).nitavg).zeroExtend 64 else 0
  else if 0x8000 ≤ off ∧ off < 0xA000 then readPart s (Fin.ofNat 16 ((off - 0x8000) / 0x200)) (off % 0x200)
  else if 0xC000 ≤ off ∧ off < 0x10000 then
    match s.ctx? (blockCtx off) with
    | some x => readCtx x (off % 0x40)
    | none => 0
  else readMisc s off

/-! ### Writes; none is DENIED -/

/-- A write that EN = 1 shuts out is ignored (R296). -/
def State.whileOff (s : State) (q : Fin 64) (f : Queue → Queue) : Option State :=
  if (s.queue q).en then some s else some (s.updQueue q f)

def writeQueue (s : State) (q : Fin 64) (o : Nat) (v : W64) : Option State :=
  let w := low32 v
  match o with
  | 0x00 => s.whileOff q fun x => { x with base := v }
  | 0x08 => s.whileOff q fun x => { x with size := w }
  | 0x0C => s.writeCtl q w
  | 0x10 => s.whileOff q fun x => { x with head := w }
  | 0x14 => some (s.updQueue q fun x => { x with tail := w })
  | 0x18 => some (s.updQueue q fun x => { x with period := w })
  | 0x1C => some (s.updQueue q fun x => { x with budget := w })
  | 0x20 => some (s.updQueue q fun x => { x with reldl := w })
  | 0x24 => some (s.updQueue q fun x => { x with lead := w })
  | 0x40 => s.whileOff q fun x => { x with ctx := w }
  | _ => none

def writeRecall (s : State) (o : Nat) (v : W64) : Option State :=
  match o with
  | 0x00 | 0x08 | 0x10 | 0x18 =>
    let m := setPiece (coreMap s.rc.cores.contains) (o / 8) v
    some (s.setRc { s.rc with cores := (List.finRange 256).filter fun c => m.getLsbD c.val })
  | 0x20 => some (s.setRc { s.rc with dl := v })
  | 0x28 =>
    let w := low32 v
    if w.getLsbD 0 then (if w.getLsbD 2 then some ((s.setRcCtl w).goRelease) else some (s.goPost w))
    else some (s.setRcCtl w)
  | _ => none

/-- The writable bits of an `RWIN`. -/
def rwinMask : W128 := BitVec.ofNat 128 (2 ^ 47 - 1 + (2 ^ 21 - 1) * 2 ^ 64 + 15 * 2 ^ 88 + 2 ^ 95)

def writePart (s : State) (p : Fin 16) (o : Nat) (v : W64) : Option State :=
  if o = 8 then some (s.updPart p fun x => { x with yttctx := low32 v })
  else if 0x90 ≤ o ∧ o < 0x190 ∧ o % 8 = 0 then
    let i := (o - 0x90) / 0x10
    let put (r : W128) : W128 := setPiece r (o % 0x10 / 8) v &&& rwinMask
    some (s.updPart p fun x => { x with rwin := x.rwin.setIfInBounds i (put (x.rwin.toList.getD i 0)) })
  else none

/-- `LANEHND` as a write leaves it: a value that breaks the rule of R320 for its bits, for which no consequence is
stated, leaves an undefined one (R5). -/
def State.handlerAddr (s : State) (v : W64) : W64 × State :=
  if v.extractLsb' 0 3 = 0 ∧ v.extractLsb' 52 12 = 0 then (v, s) else s.undef 64

def writeCtx (s : State) (n : W32) (o : Nat) (v : W64) : Option State :=
  match o with
  | 0x00 => some ((s.handlerAddr v).2.updCtx n fun x => { x with lanehnd := (s.handlerAddr v).1 })
  | 0x08 => some (s.updCtx n fun x => { x with frecbase := v })
  | 0x10 => some (s.updCtx n fun x => { x with savebase := v })
  | 0x18 => some (s.updCtx n fun x => { x with saveslots := low32 v })
  | 0x1C =>
    let n32 := (low32 v).toNat
    if 16 ≤ n32 ∧ n32 ≤ 4096 then some (s.updCtx n fun x => { x with lringsize := low32 v }) else some s
  | 0x20 => some (s.updCtx n fun x => { x with lringbase := v })
  | _ => none

/-- `YPREFIX` and `YDEVID` are writable while every scale-out port is down (R363). -/
def State.whileDown (s : State) (f : Ytt → Ytt) : Option State :=
  if s.ytt.ports.toList.any id then none else some { s with ytt := f s.ytt }

def writeMisc (s : State) (off : Nat) (v : W64) : Option State :=
  let w := low32 v
  match off with
  | 0x2000 => some { s with shmode := v.extractLsb' 0 2 }
  | 0x2004 => some { s with swapdly := w }
  | 0x7000 => s.whileDown fun y => { y with pfx := setPiece y.pfx 0 (v &&& ~~~ 0x1FFFFF) }
  | 0x7008 => s.whileDown fun y => { y with pfx := setPiece y.pfx 1 v }
  | 0x7010 => s.whileDown fun y => { y with devid := w &&& 0x1FFFFF }
  | 0x7014 => some { s with ytt := { s.ytt with rto := w } }
  | 0x7018 => if 1 ≤ w.toNat ∧ w.toNat ≤ 255 then some { s with ytt := { s.ytt with retry := w } } else some s
  | 0x7110 => some { s with host := { s.host with hpaddr := setPiece s.host.hpaddr 0 v } }
  | 0x7118 => some { s with host := { s.host with hpaddr := setPiece s.host.hpaddr 1 v } }
  | 0xA000 => some { s with pwr := { s.pwr with cap := BitVec.ofNat 32 (Nat.min 1800 (Nat.max 600 w.toNat)) } }
  | _ => none

/-- REG_WRITE: none where the register is read-only, reserved or absent. -/
def State.regWrite (s : State) (off : Nat) (v : W64) : Option State :=
  if off < 0x2000 then writeQueue s (Fin.ofNat 64 (off / 0x80)) (off % 0x80) v
  else if 0x3000 ≤ off ∧ off < 0x3200 then writeRecall s (off - 0x3000) v
  else if 0x8000 ≤ off ∧ off < 0xA000 then writePart s (Fin.ofNat 16 ((off - 0x8000) / 0x200)) (off % 0x200) v
  else if 0xC000 ≤ off ∧ off < 0x10000 then
    if (s.ctx? (blockCtx off)).isSome then writeCtx s (blockCtx off) (off % 0x40) v else none
  else writeMisc s off v

end Sys2Proof.Machine
end

