-- ==== Sys2Proof/Machine/HostPort.lean ====
section
/-! DEFINITION. The host port and its transport (R350 to R360): messages, sessions, replies, events, WRITE and READ, and
the kick. -/

namespace Sys2Proof

namespace YhtMsg

/-- The message is a response (R352 FLAGS). -/
def resp (m : YhtMsg) : Bool := m.fl.getLsbD 0

/-- LENGTH and ARG that a TYPE allows in a request (R352, R353). -/
def shapeOk (m : YhtMsg) : Bool :=
  let n := m.payload.length
  match m.typ.toNat with
  | 1 | 5 | 6 => decide (n ≤ 8192)
  | 2 => n == 0 && decide (1 ≤ m.arg.toNat) && decide (m.arg.toNat ≤ 8192)
  | 3 => n == 4 && m.addr.extractLsb' 6 58 == 0
  | _ => false

/-- A malformed request of the host (R352). -/
def badRequest (m : YhtMsg) (recovery : Bool) : Bool :=
  m.version != 1 || m.fl != 0 || m.status != 0 || m.length.toNat != m.payload.length || !m.shapeOk ||
    (m.typ == 6 && !recovery)

/-- An ACK or an EVENT response that may be used; every other response is dropped. -/
def goodAck (m : YhtMsg) : Bool :=
  m.version == 1 && m.length.toNat == m.payload.length && m.payload.isEmpty && m.fl.extractLsb' 1 15 == 0 &&
    ((m.typ == 7 && !m.resp && m.psn == 0) || (m.typ == 4 && m.resp))

end YhtMsg

end Sys2Proof

namespace Sys2Proof.Machine

open Sys2Proof

/-! ### Sessions (R354) -/

def State.session? (s : State) (n : W32) : Option Session := s.host.sessions.find? fun (x : Session) => x.num == n

def State.setHost (s : State) (h : HostPort) : State := { s with host := h }

def State.updSession (s : State) (n : W32) (f : Session → Session) : State :=
  s.setHost { s.host with sessions := s.host.sessions.map fun (x : Session) => if x.num = n then f x else x }

/-- The PSN after `p`: modulo 2^32 with 0 skipped. -/
def nextPsn (p : W32) : W32 := if p = BitVec.allOnes 32 then 1 else p + 1

/-- The PSN before `p`. -/
def prevPsn (p : W32) : W32 := if p = 1 then BitVec.allOnes 32 else p - 1

/-- How far `p` lies ahead of `next` in the numbers 1 to 2^32 - 1. -/
def psnAhead (p next : W32) : Nat := ((p.toNat : Int) - next.toNat).emod (2 ^ 32 - 1) |>.toNat

/-- The highest PSN received in order: every PSN before `next`, and those held in a row from it; 0 as long as nothing
has been received in order. -/
def Session.inOrder (x : Session) : W32 :=
  let go := (List.range 65).foldl (fun (acc : W32 × W32) _ =>
    if x.heldReq.any fun m => m.psn == acc.2 then (acc.2, nextPsn acc.2) else acc)
    (if x.next = 1 ∧ x.kept.isEmpty then 0 else prevPsn x.next, x.next)
  go.1

def State.wire (s : State) (m : YhtMsg) : State := s.setHost { s.host with sent := s.host.sent ++ [.yht m] }

/-- A response to a request (R353). Its ADDR and ARG are open (log entry 9). -/
def State.reply (s : State) (m : YhtMsg) (st : Nat) (body : List Byte) : YhtMsg × State :=
  let a := s.undef 64
  let g := a.2.undef 32
  let ack := match s.session? m.session with
    | some x => x.inOrder
    | none => 0
  ({ version := 1, typ := m.typ, fl := 1, session := m.session, psn := m.psn, ackpsn := ack, addr := a.1,
     length := BitVec.ofNat 16 body.length, status := BitVec.ofNat 16 st, arg := g.1, payload := body,
     srcAddr := m.srcAddr, srcPort := m.srcPort }, g.2)

/-- Send the response of a session's request and keep it (the last 256). -/
def State.answer (s : State) (m : YhtMsg) (st : Nat) (body : List Byte) : State :=
  let r := s.reply m st body
  (r.2.wire r.1).updSession m.session fun x => { x with kept := ((m.psn, r.1) :: x.kept).take 256 }

/-- Send and keep the response of a request on session 0. -/
def State.answer0 (s : State) (m : YhtMsg) (st : Nat) (body : List Byte) : State :=
  let r := s.reply m st body
  let s := r.2.wire r.1
  s.setHost { s.host with kept0 := (((m.srcAddr, m.srcPort, m.psn), r.1) :: s.host.kept0).take 256 }

/-! ### Statuses (R357) -/

def stNotMapped : Nat := 1
def stMemoryError : Nat := 4
def stBadMessage : Nat := 8
def stDenied : Nat := 9
def stNoContext : Nat := 11

/-- The status of a failed translation. -/
def walkStatus (f : WalkFail) : Nat :=
  if f.cause = failPermission then 2 else if f.cause = failCarveout then 3 else stNotMapped

/-! ### WRITE and READ (R355) -/

/-- The context of a session; an operator session has none. -/
def State.sessionCtx (s : State) (n : W32) : Option W32 := (s.session? n).bind Session.ctx

/-- A host access that is refused at the carve-out is a violation of requester 4 (R293). -/
def State.hostRefused (s : State) (ctx : W32) (need : Need) (f : WalkFail) : State := s.refusedAt ctx 4 255 need f

/-- The physical pieces of a host access, or its status. -/
def State.hostPieces (s : State) (ctx : Option W32) (need : Need) (a n : Nat) : Except (Nat × State) (List (Phys × Nat)) :=
  match ctx with
  | none => .error (stNotMapped, s)
  | some x =>
    if 2 ^ 52 ≤ a ∨ 2 ^ 52 < a + n then .error (stNotMapped, s)
    else
      match s.xlateRange x need a n with
      | .ok ps => .ok ps
      | .error f => .error (walkStatus f, s.hostRefused x need f)

/-- The outcome of an operation: its status, its reply body (sent with status OK only) and the state; or it replies
later; or only some of its bytes have been accessed, and it stays the next request of its session. -/
inductive Reply where
  | now (st : Nat) (body : List Byte) (s : State)
  | later (s : State)
  | part (got : List (Option Byte)) (s : State)

/-- WRITE: the bytes are performed, then it is answered. -/
def doWrite (x : Session) (m : YhtMsg) (s : State) : Reply :=
  match s.hostPieces x.ctx .write m.addr.toNat m.payload.length with
  | .error e => .now e.1 [] e.2
  | .ok ps =>
    let ctx := x.ctx.getD 0
    let (n, s) := s.choice
    if n = 0 ∧ x.part = [] then .now 0 [] (s.writePieces 256 ctx false ps m.payload)
    else
      let r := s.writeOn ctx ps m.payload n x.part
      if r.1.all Option.isSome then .now 0 [] r.2 else .part r.1 r.2

/-- READ. -/
def doRead (x : Session) (m : YhtMsg) (s : State) : Reply :=
  match s.hostPieces x.ctx .read m.addr.toNat m.arg.toNat with
  | .error e => .now e.1 [] e.2
  | .ok ps =>
    if ps.any fun p => s.dev.poisoned p.1.pa p.2 then .now stMemoryError [] s
    else
      let (n, s) := s.choice
      if n = 0 ∧ x.part = [] then .now 0 (s.dev.readPieces ps) s
      else
        let r := s.readOn ps n x.part
        if r.1.all Option.isSome then .now 0 (r.1.map fun b => b.getD 0) r.2 else .part r.1 r.2

/-- Bytes read for the host; none where a status says so. -/
def hostBytes (ctx : Option W32) (a n : Nat) (s : State) : Except (Nat × State) (List Byte) :=
  match s.hostPieces ctx .read a n with
  | .error e => .error e
  | .ok ps =>
    if ps.any fun p => s.dev.poisoned p.1.pa p.2 then .error (stMemoryError, s)
    else .ok (s.dev.readPieces ps)

/-! ### The kick (R358) -/

/-- The Shepherd's read of a record for a kick: its bytes, or the status of what fails (R357, R358); a violation is the
Shepherd's (R293). -/
def kickRead (ctx : W32) (a n : Nat) (s : State) : Except (Nat × State) (List Byte) :=
  if 2 ^ 52 < a + n then .error (stNotMapped, s)
  else
    match s.xlateRange ctx .read a n with
    | .error f => .error (walkStatus f, s.shepRefused ctx .read f)
    | .ok ps =>
      if ps.any fun p => s.dev.poisoned p.1.pa p.2 then .error (stMemoryError, s)
      else .ok (s.dev.readPieces ps)

/-- The bytes of the `n` records before the new tail, in ring order. -/
def kickBytes (x : Queue) (new : W32) (n : Nat) (s : State) : Except (Nat × State) (List Byte) :=
  (List.range n).foldl (fun acc i =>
    match acc with
    | .error e => .error e
    | .ok bs =>
      let k := (new - BitVec.ofNat 32 n + BitVec.ofNat 32 i).toNat
      match kickRead x.ctx (x.base.toNat + 128 * (k % x.size.toNat)) 128 s with
      | .error e => .error e
      | .ok more => .ok (bs ++ more)) (.ok [])

/-- The checks that a kick makes once, for its `n` records: the status of the first that fails. -/
def kickRefused (k : KickWait) (n : Nat) (s : State) : Option Nat :=
  let x := s.queue k.q
  if s.sessionCtx k.msg.session ≠ some x.ctx then some 5
  else if x.size.toNat < n + x.records then some 6
  else none

/-- One attempt: its status, or none where the records do not match the CRC. -/
def kickTry (k : KickWait) (n : Nat) (s : State) : Option (Nat × State) :=
  match kickBytes (s.queue k.q) k.msg.arg n s with
  | .error e => some e
  | .ok bs =>
    if (crc32c bs).toNat = ofBytes k.msg.payload then
      some (0, s.updQueue k.q fun x => { x with tail := k.msg.arg })
    else none

/-- 2 µs in cycles. -/
def kickGap : Nat := 3400

/-- What an attempt of the kick at the head of a queue leads to: the request decided with its status, or another
attempt. -/
inductive KickEnd where
  | decided (m : YhtMsg) (st : Nat) (s : State)
  | open_ (s : State)

def kickHead (q : Fin 64) (due : Bool) (s : State) : KickEnd :=
  match s.host.kicks.find? fun k => k.q == q with
  | none => .open_ s
  | some k =>
    if (due && decide (s.now < k.atCyc + kickGap)) || (!due && k.attempt != 0) then .open_ s
    else
      let rest (s : State) : State := s.setHost { s.host with kicks := s.host.kicks.erase k }
      let n := if k.attempt = 0 then (k.msg.arg - (s.queue q).tail).toNat else k.n
      match if k.attempt = 0 then kickRefused k n s else none with
      | some st => .decided k.msg st (rest s)
      | none =>
        match kickTry k n s with
        | some (st, s) => .decided k.msg st (rest s)
        | none =>
          if 8 < k.attempt + 1 then .decided k.msg 7 (rest s)
          else
            .open_ (s.setHost { s.host with kicks := s.host.kicks.map fun (y : KickWait) =>
              if y = k then { y with n := n, attempt := y.attempt + 1, atCyc := s.now } else y })

/-! ### Events (R359, R360) -/

/-- The 64-byte event record. -/
def Event.toBytes (e : Event) : List Byte :=
  leBytes 8 0 ++ leBytes 4 e.queue.toNat ++ leBytes 4 e.count.toNat ++ leBytes 4 e.nodeid.toNat ++ leBytes 4 0 ++
    leBytes 8 e.time.toNat ++ e.body

/-- An EVENTS_LOST event, once there is space for it. -/
def lostEvent (s : State) (n : Nat) : Event :=
  { code := 10, queue := BitVec.allOnes 32, count := BitVec.ofNat 32 n, nodeid := 0, time := BitVec.ofNat 64 s.ticks,
    body := List.replicate 32 0 }

def Session.reportLost (x : Session) (s : State) : Session :=
  if x.lost ≠ 0 ∧ x.evq.length + x.events.length < 1024 then { x with evq := x.evq ++ [lostEvent s x.lost], lost := 0 }
  else x

/-- EVENTs up to `p` are acknowledged. -/
def Session.ackEvents (x : Session) (p : W32) (s : State) : Session :=
  if p = 0 then x
  else
    ({ x with events := x.events.filter fun e => decide (2 ^ 31 ≤ psnAhead p e.1.psn) } : Session).reportLost s

/-- One EVENT is answered. -/
def Session.answered (x : Session) (p : W32) (s : State) : Session :=
  ({ x with events := x.events.filter fun e => e.1.psn != p } : Session).reportLost s

/-- EVENT: the device sends the next event of a session. Its ARG counts the session's events, as the PSN does. -/
def execEvent (n : W32) (s : State) : Out :=
  match s.session? n with
  | none => .next s
  | some x =>
    match x.evq with
    | [] => .next s
    | e :: rest =>
      let bs := e.toBytes
      let m : YhtMsg :=
        { version := 1, typ := 4, fl := 0, session := n, psn := x.evNext, ackpsn := x.inOrder,
          addr := BitVec.ofNat 64 e.code, length := 64, status := 0, arg := x.evNext, payload := bs, srcAddr := x.peer,
          srcPort := x.peerPort }
      .next ((s.wire m).updSession n fun x =>
        { x with evq := rest, events := x.events ++ [(m, 1, s.now)], evNext := nextPsn x.evNext })

/-- Close a session; what it had queued is gone, and no context's events go to it any more. -/
def State.closeSession (s : State) (n : W32) : State :=
  State.setHost
    { s with ctxs := s.ctxs.map fun (x : Ctx) => if x.route = some n then { x with route := none } else x }
    { s.host with
      sessions := s.host.sessions.filter fun (x : Session) => x.num != n
      kicks := s.host.kicks.filter fun k => k.msg.session != n }

/-- EVENT_RESEND: after 50 µs (85,000 cycles) the oldest unacknowledged EVENT is sent again; after 32 sends the session is
closed and reported. -/
def execEventResend (n : W32) (s : State) : Out :=
  match s.session? n with
  | none => .next s
  | some x =>
    match x.events.find? fun e => decide (e.2.2 + 85000 ≤ s.now) with
    | none => .next s
    | some e =>
      if 32 ≤ e.2.1 then .next ((s.closeSession n).toMgmt (.sessionLost n))
      else
        .next ((s.wire e.1).updSession n fun x =>
          { x with events := x.events.map fun (y : YhtMsg × Nat × Nat) => if y = e then (y.1, y.2.1 + 1, s.now) else y })

end Sys2Proof.Machine
end

