-- ==== Sys2Proof/Machine/Auto.lean ====
section
/-! DEFINITION. The model's automatic order of turns, taken where its agenda lists none (log entry 7). A turn whose
step is not due changes nothing, so the lists may name more than can happen. -/

namespace Sys2Proof.Machine

open Sys2Proof

/-- A core may have a turn: it runs or gets a task, or holds work on its way. -/
def Core.active (k : Core) : Bool :=
  k.task.isSome || k.placing.isSome || !k.stores.isEmpty || !k.kstores.isEmpty || !k.port.isEmpty || !k.ped.isEmpty

/-- Results and events of the threads of a core. -/
def threadTurns (c : CoreNo) (x : Nat × Nat × Thread) : List Instr :=
  (List.range x.2.2.pend.length).map (.longLatencyResult c x.1 x.2.1) ++
    match x.2.2.wait with
    | .barrier _ _ _ => [.barrierWaitRelease c (some (x.1, x.2.1))]
    | .coll _ => [.collectiveCompletion c x.1 x.2.1]
    | .none | .debug | .faulted => []

def opTurns (c : CoreNo) (o : Op) : List Instr :=
  [.pedigreeScan c o.id, .opCompletion c o.id, .watchdog c o.id] ++
    (List.range 4).map fun g => .fairnessTimerExpiry c g o.id

/-- The next piece of a running command. -/
def cmdTurns (c : CoreNo) (m : Cmd) : List Instr :=
  match m.pieces.find? fun p => !m.hasLanded p with
  | some p => if m.st = .running then [.retrieverLanding c m.id p] else []
  | none => []

/-- Steps that a core's hardware may take. -/
def coreTurns (c : CoreNo) (k : Core) : List Instr :=
  let fixed : List Instr :=
    [.taskStart c, .taskResume c, .taskRetire c, .launchAccept c, .swapOut c, .checkpointSave c, .saveImageWritten c,
     .engineOpStart c false, .engineOpStart c true, .teamAdmission c, .faultDelivery c, .bindUpdateArrival c,
     .pedigreeRequestAtHome c, .barrierWaitRelease c none, .clockGate c]
  let wakes : List Instr := if k.health.gated then [1, 2, 3, 4].map (.coreWake c) else []
  let starts : List Instr := (List.range 4).map fun q => .retrieverCommandStart c (BitVec.ofNat 2 q)
  let results : List Instr := (List.range k.seq.pend.length).map fun i => .sequencerResult c i
  let stores : List Instr := (List.range (k.stores.length + k.kstores.length)).map fun i => .storePerformed c i
  let folds : List Instr := (List.range k.port.length).map fun i => .foldPerformed c i
  let walks : List Instr := k.walks.map fun w => .pageWalkComplete c w.va
  List.flatten [wakes, fixed, starts, results, stores, folds, walks, k.ops.flatMap (opTurns c),
    k.cmds.flatMap (cmdTurns c), k.threads.flatMap (threadTurns c)]

/-- Turns of a core: its sequencer, its groups, its steps. -/
def turnsOfCore (s : State) (c : CoreNo) : List Turn :=
  let k := s.core c
  if k.active then
    .seq c :: (if k.teams.isEmpty then [] else (List.finRange 4).map (.lanes c)) ++ (coreTurns c k).map .event
  else []

/-- Steps of a queue that is enabled. -/
def queueTurns (s : State) (q : Fin 64) : List Instr :=
  if (s.queue q).en then
    [.nodeRecordRead q, .condEvaluation q, .joinNodeRelease q, .replenishment q, .overrun q, .nodeCompletion q,
     .qleadExpiry q]
  else []

/-- The steps that a close in progress may take. -/
def closeTurns (x : Close) : List Instr :=
  .closeCopy x.ctx x.idx ::
    ((List.range 64).filter fun i => !x.drained.contains i).map fun i => .closeDrain x.ctx x.idx i

/-- Steps of the rest of the device. -/
def deviceTurns (s : State) : List Instr :=
  let choices : List Instr :=
    ((List.finRange 16).filter fun p => (s.part p).clusters != 0).map fun p => .shepherdChoice p
  let grids : List Instr := s.grids.map fun g => .childGridCompletion g.id
  let partials : List Instr := s.dev.partials.map fun p => .partialForward p.slice p.ctx p.idx
  let invals : List Instr := (s.ctxs.filter Ctx.inval).map fun x => .invalidationDone x.num
  let calls : List Instr := ((List.finRange 8).filter fun j => (s.rc.posts[j.val]).isSome).map fun j => .lastCall j
  let kicks : List Instr := s.host.kicks.map fun k => .kickReread k.q
  let events : List Instr := s.host.sessions.flatMap fun x => [.event x.num, .eventResend x.num]
  let resends : List Instr := s.ytt.flows.flatMap fun f => f.out.map fun o => .yttRetransmit f.flow o.f.seq
  List.flatten [(List.finRange 64).flatMap (queueTurns s), choices, grids, partials, s.dev.closes.flatMap closeTurns,
    invals, calls, kicks, events, resends]

/-- Every turn that the automatic order goes round; the first lets time pass. -/
def autoTurns (s : State) : List Turn :=
  .seq s.sched.cur :: (List.finRange 256).flatMap (turnsOfCore s) ++ (deviceTurns s).map .event

/-- The turn that the automatic order takes, and the state after the cycle that a move of a core takes. -/
def autoTurn (s : State) : Turn × State :=
  let ts := autoTurns s
  let t := (ts[s.sched.auto % ts.length]?).getD (.seq s.sched.cur)
  let s := s.setSched { s.sched with auto := s.sched.auto + 1 }
  match t with
  | .event _ => (t, s)
  | .seq _ | .lanes _ _ => (t, s.pass 1)

end Sys2Proof.Machine
end

