-- ==== Sys2Proof/Machine/Boot.lean ====
section
/-! DEFINITION. Boot and recovery (R369, R370), the ports' links (R350, R363), and the debugger (R251). -/

namespace Sys2Proof.Machine

open Sys2Proof

/-! ### Boot (R370) -/

/-- The firmware image that the flash holds. -/
def Boot.image (b : Boot) : List Byte := if b.flash.isEmpty then Config.shippedFlash else b.flash

/-- The boot ROM checks the flash image: the firmware starts, every granule marked for scrubbing and the host port
served; or the host port serves recovery alone. -/
def State.bootUp (s : State) : State :=
  let im := s.boot.image
  if Config.firmwareGood im then
    { (s.setDev { s.dev with scrub := { all := true, differ := [] } }) with
      boot := { s.boot with st := .up },
      host := { s.host with up := true, hpaddr := Config.flashAddress im } }
  else { s with boot := { s.boot with st := .recovery }, host := { s.host with up := true } }

/-- POWER_UP. -/
def execPowerUp (s : State) : Out := if s.boot.st = .off then .next s.bootUp else .next s

/-- A good image has been written to flash: the device restarts with it. What was sent stays sent. -/
def State.restart (s : State) (flash : List Byte) : State :=
  ({ State.reset with
      boot := { State.reset.boot with flash := flash }, host := { State.reset.host with sent := s.host.sent },
      sched := s.sched } : State).bootUp

/-! ### RECOVERY (R370) -/

/-- The bytes of an image of `total` bytes from its chunks, where every byte has arrived; a later chunk stands over an
earlier one. -/
def assemble (total : Nat) (chunks : List (Nat × List Byte)) : Option (List Byte) :=
  (List.range total).mapM fun i =>
    (chunks.find? fun c => decide (c.1 ≤ i) && decide (i < c.1 + c.2.length)).bind fun c => c.2[i - c.1]?

/-- A chunk arrives; with the last one the image is checked. -/
def recoveryChunk (m : YhtMsg) (s : State) : State :=
  let chunks := (m.addr.toNat, m.payload) :: s.boot.chunks
  let s := { s with boot := { s.boot with total := m.arg.toNat, chunks := chunks } }
  match assemble m.arg.toNat chunks with
  | none => s.answer0 m 0 []
  | some im =>
    if Config.firmwareGood im then (s.answer0 m 0 []).restart im
    else ({ s with boot := { s.boot with chunks := [] } }).answer0 m 10 []

/-! ### The rest -/

/-- RUNTIME_WATCHDOG: the Management Runtime is reset; no state of a tenant is touched (R369). -/
def execRuntimeWatchdog (s : State) : Out :=
  .next { s with boot := { s.boot with runtimeResets := s.boot.runtimeResets + 1 } }

/-- The debugger attaches to the context on a core, or leaves it (R251; log entry 73). -/
def State.flipDebug (s : State) (c : CoreNo) : State :=
  s.updCtx (s.core c).ctx fun x => { x with debug := !x.debug }

/-- DEBUG_REQUEST: a thread that `BRK` parked under debug goes on at `BRK` + 8; a gated core wakes with cause 5. A
request that finds no such thread attaches the debugger to the core's context, or detaches it. -/
def execDebugRequest (c : CoreNo) (lane slot : Nat) (s : State) : Out :=
  let s := s.wake c 5
  match (s.thread c lane slot).map Thread.wait with
  | some .debug => .next (s.updThread c lane slot fun th => { th with wait := .none, pc := th.pc + 8 })
  | none | some .none | some (.barrier _ _ _) | some (.coll _) | some .faulted => .next (s.flipDebug c)

/-- UNACCEPTED_FRAME: dropped and counted; port 8 is the host port. -/
def execUnacceptedFrame (port : Fin 9) (_why : FrameFault) (s : State) : Out :=
  if h : port.val < 8 then
    let d := s.ytt.dropped
    .next { s with ytt := { s.ytt with dropped := d.set port.val (d[port.val] + 1) } }
  else .next (s.setHost { s.host with dropped := s.host.dropped + 1 })

/-- PORT_LINK_CHANGE: a port goes down or comes up; port 8 is the host port, the only one that recovery brings up. -/
def execPortLinkChange (port : Fin 9) (up : Bool) (s : State) : Out :=
  if h : port.val < 8 then
    .next { s with ytt := { s.ytt with ports := s.ytt.ports.set port.val (up && s.boot.st == .up) } }
  else .next (s.setHost { s.host with up := up && s.boot.st != .off })

end Sys2Proof.Machine
end

