-- ==== Sys2Proof/Machine/Codec.lean ====
section
/-! DEFINITION. Plain data as bytes and back. It shows that a migration image can hold what R347 says it holds
(`MigCodec`); the layout of the image itself is left open (log entry 21). -/

namespace Sys2Proof.Machine

open Sys2Proof

/-- A way to write data as bytes that can be read back, whatever bytes follow. -/
structure Code (α : Type) where
  enc : α → List Byte
  dec : List Byte → Option (α × List Byte)
  law : ∀ a r, dec (enc a ++ r) = some (a, r)

/-! ### Numbers -/

theorem leBytes_length : ∀ n v, (leBytes n v).length = n
  | 0, _ => rfl
  | n + 1, v => congrArg (· + 1) (leBytes_length n (v / 256))

theorem ofBytes_leBytes : ∀ n v, v < 256 ^ n → ofBytes (leBytes n v) = v
  | 0, v, h => by simp [leBytes, ofBytes] at *; omega
  | n + 1, v, h => by
    have : v / 256 < 256 ^ n := Nat.div_lt_of_lt_mul (by rw [Nat.pow_succ] at h; omega)
    simp only [leBytes, ofBytes, ofBytes_leBytes n _ this, BitVec.toNat_ofNat]
    omega

/-- The leading ones of a list of bytes, and what follows the byte that ends them. -/
def leadingOnes : List Byte → Nat × List Byte
  | [] => (0, [])
  | b :: bs => if b = 1 then ((leadingOnes bs).1 + 1, (leadingOnes bs).2) else (0, bs)

theorem leadingOnes_replicate (r : List Byte) :
    ∀ n, leadingOnes (List.replicate n 1#8 ++ 0#8 :: r) = (n, r)
  | 0 => by simp [leadingOnes]
  | n + 1 => by
    rw [List.replicate_succ, List.cons_append, leadingOnes, leadingOnes_replicate r n]; rfl

/-- How many bytes a number takes. -/
def byteCount (n : Nat) : Nat := n.log2 / 8 + 1

theorem lt_byteCount (n : Nat) : n < 256 ^ byteCount n :=
  calc n < 2 ^ (n.log2 + 1) := Nat.lt_log2_self
    _ ≤ 2 ^ (8 * byteCount n) := Nat.pow_le_pow_right (by decide) (by unfold byteCount; omega)
    _ = 256 ^ byteCount n := by rw [Nat.pow_mul]

/-- A number: its length as ones, a zero, its bytes. -/
def Code.nat : Code Nat where
  enc n := List.replicate (byteCount n) 1#8 ++ 0#8 :: leBytes (byteCount n) n
  dec b := some (ofBytes ((leadingOnes b).2.take (leadingOnes b).1), (leadingOnes b).2.drop (leadingOnes b).1)
  law n r := by
    simp [leadingOnes_replicate (leBytes (byteCount n) n ++ r), ofBytes_leBytes _ _ (lt_byteCount n),
      List.take_left' (leBytes_length (byteCount n) n), List.drop_left' (leBytes_length (byteCount n) n)]

/-! ### Codes from codes -/

def Code.unit : Code Unit := ⟨fun _ => [], fun b => some ((), b), fun _ _ => rfl⟩

/-- Data that another type can hold. -/
def Code.iso {α β : Type} (c : Code β) (f : α → β) (g : β → α) (h : ∀ a, g (f a) = a) : Code α where
  enc a := c.enc (f a)
  dec b := (c.dec b).map fun x => (g x.1, x.2)
  law a r := by simp [c.law, h]

def Code.prod {α β : Type} (c : Code α) (d : Code β) : Code (α × β) where
  enc x := c.enc x.1 ++ d.enc x.2
  dec b := (c.dec b).bind fun x => (d.dec x.2).map fun y => ((x.1, y.1), y.2)
  law x r := by simp [c.law, d.law]

def Code.sum {α β : Type} (c : Code α) (d : Code β) : Code (α ⊕ β) where
  enc
    | .inl x => 0 :: c.enc x
    | .inr y => 1 :: d.enc y
  dec
    | [] => none
    | t :: b => if t = 0 then (c.dec b).map fun x => (.inl x.1, x.2) else (d.dec b).map fun x => (.inr x.1, x.2)
  law x r := by cases x <;> simp [c.law, d.law]

def Code.option {α : Type} (c : Code α) : Code (Option α) :=
  (Code.sum .unit c).iso (fun x => match x with | none => .inl () | some a => .inr a)
    (fun x => match x with | .inl _ => none | .inr a => some a) (fun x => by cases x <;> rfl)

/-- `n` items, one after another. -/
def Code.items {α : Type} (c : Code α) : Nat → List Byte → Option (List α × List Byte)
  | 0, b => some ([], b)
  | n + 1, b => (c.dec b).bind fun x => (c.items n x.2).map fun y => (x.1 :: y.1, y.2)

theorem Code.items_law {α : Type} (c : Code α) (r : List Byte) :
    ∀ l : List α, c.items l.length (l.flatMap c.enc ++ r) = some (l, r)
  | [] => rfl
  | a :: l => by simp [Code.items, c.law, Code.items_law c r l]

def Code.list {α : Type} (c : Code α) : Code (List α) where
  enc l := Code.nat.enc l.length ++ l.flatMap c.enc
  dec b := (Code.nat.dec b).bind fun x => c.items x.1 x.2
  law l r := by simp [Code.nat.law, c.items_law]

/-- Data whose value the code of another type may lack: it stands where the other type's value is one of its own. -/
def Code.part {α β : Type} (c : Code β) (f : α → β) (g : β → Option α) (h : ∀ a, g (f a) = some a) : Code α where
  enc a := c.enc (f a)
  dec b := (c.dec b).bind fun x => (g x.1).map fun a => (a, x.2)
  law a r := by simp [c.law, h]

def Code.vector {α : Type} (n : Nat) (c : Code α) : Code (Vector α n) :=
  c.list.part Vector.toList (fun l => if h : l.length = n then some ⟨l.toArray, by simpa using h⟩ else none)
    (fun v => by simp [Vector.toList])

def Code.bits (n : Nat) : Code (BitVec n) := Code.nat.iso BitVec.toNat (BitVec.ofNat n) (fun _ => by simp)

def Code.fin (n : Nat) : Code (Fin n) :=
  Code.nat.part Fin.val (fun k => if h : k < n then some ⟨k, h⟩ else none) (fun a => by simp)

def Code.bool : Code Bool := Code.nat.iso Bool.toNat (fun n => n == 1) (fun b => by cases b <;> rfl)

/-- A type that is a list of names. -/
def Code.enum {α : Type} [DecidableEq α] (l : List α) (h : ∀ a, a ∈ l) : Code α :=
  Code.nat.part (fun a => l.idxOf a) (fun n => l[n]?) (fun a => List.getElem?_idxOf (h a))

/-! ### The state that a context takes with it -/

def Code.bindEntry : Code BindEntry :=
  Code.iso (.prod (.bits 64) (.prod (.bits 64) (.prod (.bits 64) (.bits 64))))
    (fun x => (x.w0, x.w1, x.w2, x.w3))
    (fun x => ⟨x.1, x.2.1, x.2.2.1, x.2.2.2⟩) (fun _ => rfl)

def Code.image : Code Image :=
  Code.iso (.prod (.bits 64) (.prod (.list (.bits 8)) (.prod (.list (.bits 64)) (.prod (.list (.bits 64))
    (.bits 64)))))
    (fun x => (x.addr, x.ident, x.tile, x.const, x.lane))
    (fun x => ⟨x.1, x.2.1, x.2.2.1, x.2.2.2.1, x.2.2.2.2⟩) (fun _ => rfl)

def Code.launchRec : Code LaunchRec :=
  Code.iso (.prod (.bits 32) (.prod (.bits 8) (.prod (.bits 4) (.prod .nat (.prod .bool (.prod .bool (
    .prod (.bits 64) (.prod (.bits 64) (.prod (.vector 4 (.bits 32)) (.prod (.bits 64) (.prod (.bits 64) (
    .prod (.fin 64) (.prod (.bits 32) .nat)))))))))))))
    (fun x => (x.nodeid, x.order, x.serp, x.ndim, x.restartable, x.cooperative, x.image, x.entry, x.bound, x.arg,
      x.join, x.queue, x.ctx, x.no))
    (fun x => ⟨x.1, x.2.1, x.2.2.1, x.2.2.2.1, x.2.2.2.2.1, x.2.2.2.2.2.1, x.2.2.2.2.2.2.1, x.2.2.2.2.2.2.2.1,
      x.2.2.2.2.2.2.2.2.1, x.2.2.2.2.2.2.2.2.2.1, x.2.2.2.2.2.2.2.2.2.2.1, x.2.2.2.2.2.2.2.2.2.2.2.1,
      x.2.2.2.2.2.2.2.2.2.2.2.2.1, x.2.2.2.2.2.2.2.2.2.2.2.2.2⟩) (fun _ => rfl)

def Code.event : Code Event :=
  Code.iso (.prod .nat (.prod (.bits 32) (.prod (.bits 32) (.prod (.bits 32) (.prod (.bits 64) (.list (.bits 8)))))))
    (fun x => (x.code, x.queue, x.count, x.nodeid, x.time, x.body))
    (fun x => ⟨x.1, x.2.1, x.2.2.1, x.2.2.2.1, x.2.2.2.2.1, x.2.2.2.2.2⟩) (fun _ => rfl)

def Code.ctx : Code Ctx :=
  Code.iso (.prod (.bits 32) (.prod (.bits 64) (.prod (.bits 64) (.prod (.bits 64) (.prod (.bits 32) (
    .prod (.bits 32) (.prod (.bits 64) (.prod (.bits 32) (.prod (.bits 64) (.prod (.bits 64) (
    .prod (.vector 256 Code.bindEntry) (.prod (.list Code.image) (.prod .nat (
    .prod (.list (.prod .nat Code.launchRec)) (.prod (.list .nat) (.prod (.list Code.event) (
    .prod (.option (.bits 32)) (.prod .nat (.prod .bool .bool)))))))))))))))))))
    (fun x => (x.num, x.lanehnd, x.frecbase, x.savebase, x.saveslots, x.lringsize, x.lringbase, x.cpedlimit,
      x.cpedbase, x.cptroot, x.table, x.images, x.nextLane, x.ring, x.savesUsed, x.store, x.route, x.lost, x.debug,
      x.inval))
    (fun x => ⟨x.1, x.2.1, x.2.2.1, x.2.2.2.1, x.2.2.2.2.1, x.2.2.2.2.2.1, x.2.2.2.2.2.2.1, x.2.2.2.2.2.2.2.1,
      x.2.2.2.2.2.2.2.2.1, x.2.2.2.2.2.2.2.2.2.1, x.2.2.2.2.2.2.2.2.2.2.1, x.2.2.2.2.2.2.2.2.2.2.2.1,
      x.2.2.2.2.2.2.2.2.2.2.2.2.1, x.2.2.2.2.2.2.2.2.2.2.2.2.2.1, x.2.2.2.2.2.2.2.2.2.2.2.2.2.2.1,
      x.2.2.2.2.2.2.2.2.2.2.2.2.2.2.2.1, x.2.2.2.2.2.2.2.2.2.2.2.2.2.2.2.2.1, x.2.2.2.2.2.2.2.2.2.2.2.2.2.2.2.2.2.1,
      x.2.2.2.2.2.2.2.2.2.2.2.2.2.2.2.2.2.2.1, x.2.2.2.2.2.2.2.2.2.2.2.2.2.2.2.2.2.2.2⟩) (fun _ => rfl)

def Code.qParams : Code QParams :=
  Code.iso (.prod (.bits 2) (.prod (.bits 32) (.prod (.bits 32) (.prod (.bits 32) (.bits 32)))))
    (fun x => (x.cls, x.period, x.budget, x.reldl, x.lead))
    (fun x => ⟨x.1, x.2.1, x.2.2.1, x.2.2.2.1, x.2.2.2.2⟩) (fun _ => rfl)

def Code.qState : Code QState :=
  Code.enum [.disabled, .empty, .ready, .running, .waiting, .insufficient, .error] (by intro a; cases a <;> decide)

def Code.nodeBody : Code NodeBody :=
  Code.iso (.sum (.prod .bool (.list .nat)) (
    .sum (.prod (.bits 64) (.prod (.bits 64) (.prod .nat (.prod .nat (.prod .nat .nat))))) (
    .sum (.prod (.bits 64) (.bits 32)) (.list (.bits 8)))))
    (fun x => match x with
      | .loop a b => .inl (a, b)
      | .cond a b c d e f => .inr (.inl (a, b, c, d, e, f))
      | .join a b => .inr (.inr (.inl (a, b)))
      | .hostevent a => .inr (.inr (.inr a)))
    (fun x => match x with
      | .inl (a, b) => .loop a b
      | .inr (.inl (a, b, c, d, e, f)) => .cond a b c d e f
      | .inr (.inr (.inl (a, b))) => .join a b
      | .inr (.inr (.inr a)) => .hostevent a)
    (fun x => by cases x <;> rfl)

def Code.node : Code Node :=
  Code.iso (.prod Code.launchRec (.prod Code.nodeBody (.prod .nat (.prod (.list .nat) (.prod .nat (
    .prod (.option (.list .nat)) (.option .nat)))))))
    (fun x => (x.rcd, x.body, x.next, x.again, x.done, x.closing, x.skip))
    (fun x => ⟨x.1, x.2.1, x.2.2.1, x.2.2.2.1, x.2.2.2.2.1, x.2.2.2.2.2.1, x.2.2.2.2.2.2⟩) (fun _ => rfl)

def Code.queue : Code Queue :=
  Code.iso (.prod (.bits 64) (.prod (.bits 32) (.prod (.bits 4) (.prod (.bits 2) (.prod .bool (.prod (.bits 32) (
    .prod (.bits 32) (.prod (.bits 32) (.prod (.bits 32) (.prod (.bits 32) (.prod (.bits 32) (.prod Code.qParams (
    .prod (.bits 64) (.prod (.bits 32) (.prod (.bits 8) (.prod .bool (.prod Code.qState (.prod (.bits 64) (
    .prod (.bits 32) (.prod (.option Code.node) (.prod (.option .nat) (.prod .nat (.prod (.option .nat)
    .bool)))))))))))))))))))))))
    (fun x => (x.base, x.size, x.part, x.cls, x.en, x.head, x.tail, x.period, x.budget, x.reldl, x.lead, x.eff,
      x.absdl, x.remain, x.err, x.demoted, x.st, x.repl, x.ctx, x.node, x.nitavg, x.charged, x.since, x.starved))
    (fun x => ⟨x.1, x.2.1, x.2.2.1, x.2.2.2.1, x.2.2.2.2.1, x.2.2.2.2.2.1, x.2.2.2.2.2.2.1, x.2.2.2.2.2.2.2.1,
      x.2.2.2.2.2.2.2.2.1, x.2.2.2.2.2.2.2.2.2.1, x.2.2.2.2.2.2.2.2.2.2.1, x.2.2.2.2.2.2.2.2.2.2.2.1,
      x.2.2.2.2.2.2.2.2.2.2.2.2.1, x.2.2.2.2.2.2.2.2.2.2.2.2.2.1, x.2.2.2.2.2.2.2.2.2.2.2.2.2.2.1,
      x.2.2.2.2.2.2.2.2.2.2.2.2.2.2.2.1, x.2.2.2.2.2.2.2.2.2.2.2.2.2.2.2.2.1, x.2.2.2.2.2.2.2.2.2.2.2.2.2.2.2.2.2.1,
      x.2.2.2.2.2.2.2.2.2.2.2.2.2.2.2.2.2.2.1, x.2.2.2.2.2.2.2.2.2.2.2.2.2.2.2.2.2.2.2.1,
      x.2.2.2.2.2.2.2.2.2.2.2.2.2.2.2.2.2.2.2.2.1, x.2.2.2.2.2.2.2.2.2.2.2.2.2.2.2.2.2.2.2.2.2.1,
      x.2.2.2.2.2.2.2.2.2.2.2.2.2.2.2.2.2.2.2.2.2.2.1,
      x.2.2.2.2.2.2.2.2.2.2.2.2.2.2.2.2.2.2.2.2.2.2.2⟩) (fun _ => rfl)

def Code.grid : Code Grid :=
  Code.iso (.prod .nat (.prod (.bits 32) (.prod (.fin 64) (.prod Code.launchRec (.prod .nat (.prod (.list .nat) (
    .prod .nat .bool)))))))
    (fun x => (x.id, x.ctx, x.queue, x.rcd, x.next, x.again, x.done, x.checked))
    (fun x => ⟨x.1, x.2.1, x.2.2.1, x.2.2.2.1, x.2.2.2.2.1, x.2.2.2.2.2.1, x.2.2.2.2.2.2.1,
      x.2.2.2.2.2.2.2⟩) (fun _ => rfl)

def Code.saveKind : Code SaveKind :=
  Code.enum [.checkpoint, .freeze, .swap] (by intro a; cases a <;> decide)

def Code.ctxRegs : Code CtxRegs :=
  Code.iso (.prod (.bits 64) (.prod (.bits 64) (.prod (.bits 32) (.prod (.bits 32) (.bits 64)))))
    (fun x => (x.frecbase, x.savebase, x.saveslots, x.lringsize, x.lringbase))
    (fun x => ⟨x.1, x.2.1, x.2.2.1, x.2.2.2.1, x.2.2.2.2⟩) (fun _ => rfl)

def Code.task : Code Task :=
  Code.iso (.prod (.bits 32) (.prod (.fin 64) (.prod (.option .nat) (.prod Code.launchRec (.prod .nat (.prod .nat (
    .prod .bool Code.ctxRegs)))))))
    (fun x => (x.ctx, x.queue, x.grid, x.rcd, x.n, x.startTick, x.replay, x.regs))
    (fun x => ⟨x.1, x.2.1, x.2.2.1, x.2.2.2.1, x.2.2.2.2.1, x.2.2.2.2.2.1, x.2.2.2.2.2.2.1,
      x.2.2.2.2.2.2.2⟩) (fun _ => rfl)

def Code.seqMode : Code SeqMode :=
  Code.enum [.idle, .run, .ended, .stopped, .freezing, .unhandled, .discarding] (by intro a; cases a <;> decide)

def Code.drain : Code Drain :=
  Code.enum [.checkpoint, .swap] (by intro a; cases a <;> decide)

def Code.restart : Code Restart :=
  Code.iso (.prod .nat (.prod .bool (.prod (.bits 64) (.prod (.bits 64) (.prod .bool .nat)))))
    (fun x => (x.id, x.isCmd, x.pc, x.resume, x.final, x.next))
    (fun x => ⟨x.1, x.2.1, x.2.2.1, x.2.2.2.1, x.2.2.2.2.1, x.2.2.2.2.2⟩) (fun _ => rfl)

def Code.sK : Code SK :=
  Code.iso (.sum (.fin 64) (.fin 256))
    (fun x => match x with
      | .s a => .inl a
      | .c a => .inr a)
    (fun x => match x with
      | .inl a => .s a
      | .inr a => .c a)
    (fun x => by cases x <;> rfl)

def Code.atomOp : Code AtomOp :=
  Code.enum [.add, .and, .or, .xor, .min, .max, .minu, .maxu, .xchg, .cas] (by intro a; cases a <;> decide)

def Code.scope : Code Scope :=
  Code.enum [.core, .cluster, .device, .system] (by intro a; cases a <;> decide)

def Code.rmw : Code Rmw :=
  Code.iso (.prod Code.atomOp (.prod .nat (.prod .nat (.prod Code.scope (.prod .nat (.prod .bool (.option .nat)))))))
    (fun x => (x.op, x.x, x.cmp, x.scope, x.pidx, x.replay, x.team))
    (fun x => ⟨x.1, x.2.1, x.2.2.1, x.2.2.2.1, x.2.2.2.2.1, x.2.2.2.2.2.1, x.2.2.2.2.2.2⟩) (fun _ => rfl)

def Code.lateLoad : Code LateLoad :=
  Code.iso (.prod .bool (.prod .nat (.prod (.bits 64) (.prod .nat (.prod .bool (.option Code.rmw))))))
    (fun x => (x.dev, x.pa, x.va, x.n, x.sx, x.rmw))
    (fun x => ⟨x.1, x.2.1, x.2.2.1, x.2.2.2.1, x.2.2.2.2.1, x.2.2.2.2.2⟩) (fun _ => rfl)

def Code.sPend : Code SPend :=
  Code.iso (.prod Code.sK (.prod (.option (.bits 64)) (.prod (.bits 6) (.option Code.lateLoad))))
    (fun x => (x.d, x.v, x.fl, x.load))
    (fun x => ⟨x.1, x.2.1, x.2.2.1, x.2.2.2⟩) (fun _ => rfl)

def Code.fbKey : Code FbKey :=
  Code.iso (.prod (.bits 32) (.prod .nat (.prod (.bits 8) (.bits 8))))
    (fun x => (x.ctx, x.page, x.cause, x.access))
    (fun x => ⟨x.1, x.2.1, x.2.2.1, x.2.2.2⟩) (fun _ => rfl)

def Code.cause : Code Cause :=
  Code.enum [.none, .illegalTile, .unbound, .rescale, .rangeLock, .launchOverflow, .software, .lsfloor, .badDesc,
    .illegalOperand, .align, .kennelRange, .badAddr, .translation, .carveout, .memoryError, .badPerm, .noStats,
    .matrixCheck, .badBinding, .badBarrier, .badLaunch, .dqFull, .remoteFault, .remoteUnreachable, .mcastPeer,
    .watchdog, .budget, .emptyRead, .lookaheadRead, .divZero, .badTarget, .nestDepth, .nestContain,
    .collectiveExited, .collectiveMismatch, .formatDivergence, .badRep, .privateRange, .constRange, .badStream,
    .streamFull, .badParam, .illegalLane, .breakpoint] (by intro a; cases a <;> decide)

def Code.park : Code Park :=
  Code.iso (.sum .unit (.sum .unit (.sum .unit (.sum (.prod Code.fbKey (.bits 64)) Code.cause))))
    (fun x => match x with
      | .none => .inl ()
      | .retry => .inr (.inl ())
      | .walking => .inr (.inr (.inl ()))
      | .waiting a b => .inr (.inr (.inr (.inl (a, b))))
      | .failed a => .inr (.inr (.inr (.inr a))))
    (fun x => match x with
      | .inl _ => .none
      | .inr (.inl _) => .retry
      | .inr (.inr (.inl _)) => .walking
      | .inr (.inr (.inr (.inl (a, b)))) => .waiting a b
      | .inr (.inr (.inr (.inr a))) => .failed a)
    (fun x => by cases x <;> rfl)

def Code.remote : Code Remote :=
  Code.iso (.sum .unit (.sum (.bits 32) (.sum (.bits 64) .unit)))
    (fun x => match x with
      | .none => .inl ()
      | .flight a => .inr (.inl a)
      | .value a => .inr (.inr (.inl a))
      | .failed => .inr (.inr (.inr ())))
    (fun x => match x with
      | .inl _ => .none
      | .inr (.inl a) => .flight a
      | .inr (.inr (.inl a)) => .value a
      | .inr (.inr (.inr _)) => .failed)
    (fun x => by cases x <;> rfl)

def Code.locFloor : Code LocFloor :=
  Code.iso (.prod .nat (.prod .nat .nat))
    (fun x => (x.pa, x.stamp, x.id))
    (fun x => ⟨x.1, x.2.1, x.2.2⟩) (fun _ => rfl)

def Code.floor : Code Floor :=
  Code.iso (.prod .nat (.prod .nat (.list Code.locFloor)))
    (fun x => (x.acq, x.core, x.locs))
    (fun x => ⟨x.1, x.2.1, x.2.2⟩) (fun _ => rfl)

def Code.seq : Code Seq :=
  Code.iso (.prod Code.seqMode (.prod (.bits 64) (.prod (.vector 64 (.bits 64)) (.prod (.bits 8) (
    .prod (.vector 64 (.bits 128)) (.prod (.vector 256 (.bits 64)) (.prod (.list (.bits 64)) (.prod (.bits 64) (
    .prod (.bits 64) (.prod (.bits 64) (.prod (.bits 64) (.prod .bool (.prod .nat (.prod (.bits 4) (
    .prod (.vector 4 (.bits 32)) (.prod (.bits 64) (.prod (.bits 64) (.prod (.bits 8) (.prod .nat (.prod (.bits 16) (
    .prod (.option (.prod (.bits 64) (.bits 64))) (.prod .bool (.prod (.option Code.drain) (.prod (.option .nat) (
    .prod (.option Code.restart) (.prod (.list Code.sPend) (.prod Code.park (.prod Code.remote
    Code.floor))))))))))))))))))))))))))))
    (fun x => (x.mode, x.pc, x.s, x.p, x.t, x.c, x.code, x.trapvec, x.epc, x.trapcause, x.tflags, x.trapen,
      x.faircyc, x.partid, x.iter, x.itern, x.nodearg, x.wake, x.start, x.dtag, x.safe, x.afterSafe, x.drain,
      x.standSince, x.restart, x.pend, x.park, x.remote, x.floor))
    (fun x => ⟨x.1, x.2.1, x.2.2.1, x.2.2.2.1, x.2.2.2.2.1, x.2.2.2.2.2.1, x.2.2.2.2.2.2.1, x.2.2.2.2.2.2.2.1,
      x.2.2.2.2.2.2.2.2.1, x.2.2.2.2.2.2.2.2.2.1, x.2.2.2.2.2.2.2.2.2.2.1, x.2.2.2.2.2.2.2.2.2.2.2.1,
      x.2.2.2.2.2.2.2.2.2.2.2.2.1, x.2.2.2.2.2.2.2.2.2.2.2.2.2.1, x.2.2.2.2.2.2.2.2.2.2.2.2.2.2.1,
      x.2.2.2.2.2.2.2.2.2.2.2.2.2.2.2.1, x.2.2.2.2.2.2.2.2.2.2.2.2.2.2.2.2.1, x.2.2.2.2.2.2.2.2.2.2.2.2.2.2.2.2.2.1,
      x.2.2.2.2.2.2.2.2.2.2.2.2.2.2.2.2.2.2.1, x.2.2.2.2.2.2.2.2.2.2.2.2.2.2.2.2.2.2.2.1,
      x.2.2.2.2.2.2.2.2.2.2.2.2.2.2.2.2.2.2.2.2.1, x.2.2.2.2.2.2.2.2.2.2.2.2.2.2.2.2.2.2.2.2.2.1,
      x.2.2.2.2.2.2.2.2.2.2.2.2.2.2.2.2.2.2.2.2.2.2.1, x.2.2.2.2.2.2.2.2.2.2.2.2.2.2.2.2.2.2.2.2.2.2.2.1,
      x.2.2.2.2.2.2.2.2.2.2.2.2.2.2.2.2.2.2.2.2.2.2.2.2.1, x.2.2.2.2.2.2.2.2.2.2.2.2.2.2.2.2.2.2.2.2.2.2.2.2.2.1,
      x.2.2.2.2.2.2.2.2.2.2.2.2.2.2.2.2.2.2.2.2.2.2.2.2.2.2.1,
      x.2.2.2.2.2.2.2.2.2.2.2.2.2.2.2.2.2.2.2.2.2.2.2.2.2.2.2.1,
      x.2.2.2.2.2.2.2.2.2.2.2.2.2.2.2.2.2.2.2.2.2.2.2.2.2.2.2.2⟩) (fun _ => rfl)

def Code.dqState : Code DqState :=
  Code.enum [.free, .pending, .attached] (by intro a; cases a <;> decide)

def Code.dqRec : Code DqRec :=
  Code.iso (.prod (.vector 6 (.bits 32)) (.prod (.bits 16) (.prod Code.dqState (.prod .nat .nat))))
    (fun x => (x.payload, x.dtag, x.st, x.remain, x.order))
    (fun x => ⟨x.1, x.2.1, x.2.2.1, x.2.2.2.1, x.2.2.2.2⟩) (fun _ => rfl)

def Code.anyOpd : Code AnyOpd :=
  Code.iso (.sum (.fin 64) (.sum (.fin 64) (.sum (.fin 256) (.bits 8))))
    (fun x => match x with
      | .s a => .inl a
      | .t a => .inr (.inl a)
      | .c a => .inr (.inr (.inl a))
      | .l a => .inr (.inr (.inr a)))
    (fun x => match x with
      | .inl a => .s a
      | .inr (.inl a) => .t a
      | .inr (.inr (.inl a)) => .c a
      | .inr (.inr (.inr a)) => .l a)
    (fun x => by cases x <;> rfl)

def Code.boundWord : Code BoundWord :=
  Code.iso (.prod (.bits 8) (.prod Code.anyOpd (.prod Code.anyOpd (.prod Code.anyOpd (.prod Code.anyOpd
    (.bits 14))))))
    (fun x => (x.idx, x.d, x.a, x.b, x.c, x.md))
    (fun x => ⟨x.1, x.2.1, x.2.2.1, x.2.2.2.1, x.2.2.2.2.1, x.2.2.2.2.2⟩) (fun _ => rfl)

def Code.opVal : Code OpVal :=
  Code.iso (.sum .unit (.sum (.bits 128) (.bits 64)))
    (fun x => match x with
      | .none => .inl ()
      | .tile a => .inr (.inl a)
      | .val a => .inr (.inr a))
    (fun x => match x with
      | .inl _ => .none
      | .inr (.inl a) => .tile a
      | .inr (.inr a) => .val a)
    (fun x => by cases x <;> rfl)

def Code.issueRec : Code IssueRec :=
  Code.iso (.prod (.bits 64) (.prod Code.boundWord (.prod Code.opVal (.prod Code.opVal (.prod Code.opVal (
    .prod Code.opVal (.option (.fin 64))))))))
    (fun x => (x.pc, x.word, x.d, x.a, x.b, x.c, x.dreg))
    (fun x => ⟨x.1, x.2.1, x.2.2.1, x.2.2.2.1, x.2.2.2.2.1, x.2.2.2.2.2.1, x.2.2.2.2.2.2⟩) (fun _ => rfl)

def Code.opQueue : Code OpQueue :=
  Code.enum [.matrix, .conv, .lane] (by intro a; cases a <;> decide)

def Code.laneWhere : Code LaneWhere :=
  Code.iso (.prod .nat (.prod .nat (.prod (.bits 64) (.prod (.bits 64) (.option .nat)))))
    (fun x => (x.lane, x.slot, x.pc, x.word, x.rep))
    (fun x => ⟨x.1, x.2.1, x.2.2.1, x.2.2.2.1, x.2.2.2.2⟩) (fun _ => rfl)

def Code.opStatus : Code OpStatus :=
  Code.iso (.prod (.bits 6) (.prod Code.cause (.prod (.bits 64) (.prod (.bits 64) (.prod (.option Code.laneWhere)
    (.option (.bits 8)))))))
    (fun x => (x.flags, x.cause, x.addr, x.detail, x.lane, x.nested))
    (fun x => ⟨x.1, x.2.1, x.2.2.1, x.2.2.2.1, x.2.2.2.2.1, x.2.2.2.2.2⟩) (fun _ => rfl)

def Code.opState : Code OpState :=
  Code.iso (.sum .unit (.sum .unit (.sum (.prod Code.opStatus (.option (.bits 32))) .unit)))
    (fun x => match x with
      | .queued => .inl ()
      | .running => .inr (.inl ())
      | .executed a b => .inr (.inr (.inl (a, b)))
      | .delivered => .inr (.inr (.inr ())))
    (fun x => match x with
      | .inl _ => .queued
      | .inr (.inl _) => .running
      | .inr (.inr (.inl (a, b))) => .executed a b
      | .inr (.inr (.inr _)) => .delivered)
    (fun x => by cases x <;> rfl)

def Code.seenByte : Code SeenByte :=
  Code.iso (.prod (.fin 256) (.prod .bool (.prod .nat (.bits 8))))
    (fun x => (x.core, x.acc, x.addr, x.val))
    (fun x => ⟨x.1, x.2.1, x.2.2.1, x.2.2.2⟩) (fun _ => rfl)

def Code.todoByte : Code TodoByte :=
  Code.iso (.prod .bool (.prod .nat (.bits 8)))
    (fun x => (x.acc, x.addr, x.val))
    (fun x => ⟨x.1, x.2.1, x.2.2⟩) (fun _ => rfl)

def Code.op : Code Op :=
  Code.iso (.prod .nat (.prod Code.issueRec (.prod Code.bindEntry (.prod (.bits 16) (.prod Code.opQueue (
    .prod Code.opState (.prod (.option .nat) (.prod .nat (.prod (.list .nat) (.prod .bool (.prod .bool (
    .prod Code.floor (.prod (.list Code.seenByte) (.prod (.option (.prod Code.opStatus (.option (.bits 32))))
    (.list Code.todoByte)))))))))))))))
    (fun x => (x.id, x.rcd, x.entry, x.dtag, x.q, x.st, x.parent, x.block, x.folded, x.replay, x.held, x.floor,
      x.seen, x.result, x.todo))
    (fun x => ⟨x.1, x.2.1, x.2.2.1, x.2.2.2.1, x.2.2.2.2.1, x.2.2.2.2.2.1, x.2.2.2.2.2.2.1, x.2.2.2.2.2.2.2.1,
      x.2.2.2.2.2.2.2.2.1, x.2.2.2.2.2.2.2.2.2.1, x.2.2.2.2.2.2.2.2.2.2.1, x.2.2.2.2.2.2.2.2.2.2.2.1,
      x.2.2.2.2.2.2.2.2.2.2.2.2.1, x.2.2.2.2.2.2.2.2.2.2.2.2.2.1, x.2.2.2.2.2.2.2.2.2.2.2.2.2.2⟩) (fun _ => rfl)

def Code.cmdKind : Code CmdKind :=
  Code.enum [.cpyIn, .cpyOut, .cpyKk, .gth, .sct, .pft, .pull, .push, .mcast] (by intro a; cases a <;> decide)

def Code.cmdState : Code CmdState :=
  Code.iso (.sum .unit (.sum .unit (.sum Code.opStatus .unit)))
    (fun x => match x with
      | .queued => .inl ()
      | .running => .inr (.inl ())
      | .failed a => .inr (.inr (.inl a))
      | .delivered => .inr (.inr (.inr ())))
    (fun x => match x with
      | .inl _ => .queued
      | .inr (.inl _) => .running
      | .inr (.inr (.inl a)) => .failed a
      | .inr (.inr (.inr _)) => .delivered)
    (fun x => by cases x <;> rfl)

def Code.landing : Code Landing :=
  Code.iso (.prod .nat (.prod (.list (.option (.bits 8))) (.list .nat)))
    (fun x => (x.piece, x.got, x.left))
    (fun x => ⟨x.1, x.2.1, x.2.2⟩) (fun _ => rfl)

def Code.cmd : Code Cmd :=
  Code.iso (.prod .nat (.prod (.bits 64) (.prod (.bits 2) (.prod Code.cmdKind (.prod .bool (.prod (.bits 128) (
    .prod (.bits 128) (.prod (.bits 64) (.prod .nat (.prod (.list (.bits 32)) (.prod .nat (.prod .nat (.prod .nat (
    .prod .nat (.prod (.bits 64) (.prod Code.cmdState (.prod (.list .nat) (.prod .nat (.prod .nat (.prod Code.park (
    .prod .bool (.prod Code.floor (.prod .bool (.prod (.list .nat) (.list Code.landing)))))))))))))))))))))))))
    (fun x => (x.id, x.pc, x.q, x.kind, x.dev, x.dst, x.src, x.addr, x.pitch, x.idx, x.count, x.mask, x.rdev,
      x.rpart, x.bar, x.st, x.landed, x.sub, x.frames, x.park, x.peerBad, x.floor, x.replay, x.folded, x.part))
    (fun x => ⟨x.1, x.2.1, x.2.2.1, x.2.2.2.1, x.2.2.2.2.1, x.2.2.2.2.2.1, x.2.2.2.2.2.2.1, x.2.2.2.2.2.2.2.1,
      x.2.2.2.2.2.2.2.2.1, x.2.2.2.2.2.2.2.2.2.1, x.2.2.2.2.2.2.2.2.2.2.1, x.2.2.2.2.2.2.2.2.2.2.2.1,
      x.2.2.2.2.2.2.2.2.2.2.2.2.1, x.2.2.2.2.2.2.2.2.2.2.2.2.2.1, x.2.2.2.2.2.2.2.2.2.2.2.2.2.2.1,
      x.2.2.2.2.2.2.2.2.2.2.2.2.2.2.2.1, x.2.2.2.2.2.2.2.2.2.2.2.2.2.2.2.2.1, x.2.2.2.2.2.2.2.2.2.2.2.2.2.2.2.2.2.1,
      x.2.2.2.2.2.2.2.2.2.2.2.2.2.2.2.2.2.2.1, x.2.2.2.2.2.2.2.2.2.2.2.2.2.2.2.2.2.2.2.1,
      x.2.2.2.2.2.2.2.2.2.2.2.2.2.2.2.2.2.2.2.2.1, x.2.2.2.2.2.2.2.2.2.2.2.2.2.2.2.2.2.2.2.2.2.1,
      x.2.2.2.2.2.2.2.2.2.2.2.2.2.2.2.2.2.2.2.2.2.2.1, x.2.2.2.2.2.2.2.2.2.2.2.2.2.2.2.2.2.2.2.2.2.2.2.1,
      x.2.2.2.2.2.2.2.2.2.2.2.2.2.2.2.2.2.2.2.2.2.2.2.2⟩) (fun _ => rfl)

def Code.arb : Code Arb :=
  Code.iso (.prod (.option .nat) (.prod .nat .nat))
    (fun x => (x.low, x.timer, x.period))
    (fun x => ⟨x.1, x.2.1, x.2.2⟩) (fun _ => rfl)

def Code.team : Code Team :=
  Code.iso (.prod .nat (.prod Code.issueRec (.prod Code.bindEntry (.prod (.bits 16) (.prod (.list .nat) (.prod .nat (
    .prod .nat (.prod (.vector 4 Code.arb) (.prod (.bits 6) (.prod (.option Code.opStatus) (.prod .bool
    (.option (.list (.bits 128))))))))))))))
    (fun x => (x.op, x.rcd, x.entry, x.dtag, x.groups, x.admitted, x.exempt, x.arb, x.flags, x.fault, x.aborting,
      x.scan))
    (fun x => ⟨x.1, x.2.1, x.2.2.1, x.2.2.2.1, x.2.2.2.2.1, x.2.2.2.2.2.1, x.2.2.2.2.2.2.1, x.2.2.2.2.2.2.2.1,
      x.2.2.2.2.2.2.2.2.1, x.2.2.2.2.2.2.2.2.2.1, x.2.2.2.2.2.2.2.2.2.2.1, x.2.2.2.2.2.2.2.2.2.2.2⟩) (fun _ => rfl)

def Code.rep : Code Rep :=
  Code.iso (.prod .nat (.prod .nat (.prod .nat (.bits 4))))
    (fun x => (x.n, x.j, x.stride, x.fields))
    (fun x => ⟨x.1, x.2.1, x.2.2.1, x.2.2.2⟩) (fun _ => rfl)

def Code.lRes : Code LRes :=
  Code.iso (.sum (.list (.bits 32)) (.sum .nat (
    .sum (.prod (.bits 32) (.prod .bool (.prod (.bits 64) Code.laneWhere))) Code.lateLoad)))
    (fun x => match x with
      | .vals a => .inl a
      | .nested a => .inr (.inl a)
      | .remote a b c d => .inr (.inr (.inl (a, b, c, d)))
      | .load a => .inr (.inr (.inr a)))
    (fun x => match x with
      | .inl a => .vals a
      | .inr (.inl a) => .nested a
      | .inr (.inr (.inl (a, b, c, d))) => .remote a b c d
      | .inr (.inr (.inr a)) => .load a)
    (fun x => by cases x <;> rfl)

def Code.lPend : Code LPend :=
  Code.iso (.prod (.fin 64) (.prod .nat (.prod Code.lRes (.prod (.bits 6) (.prod .nat (.prod .bool
    (.list (.fin 64))))))))
    (fun x => (x.dst, x.n, x.res, x.fl, x.win, x.arrived, x.release))
    (fun x => ⟨x.1, x.2.1, x.2.2.1, x.2.2.2.1, x.2.2.2.2.1, x.2.2.2.2.2.1, x.2.2.2.2.2.2⟩) (fun _ => rfl)

def Code.lHead : Code LHead :=
  Code.iso (.prod (.bits 4) (.prod (.fin 8) .bool))
    (fun x => (x.la, x.g, x.neg))
    (fun x => ⟨x.1, x.2.1, x.2.2⟩) (fun _ => rfl)

def Code.lSrc : Code LSrc :=
  Code.iso (.prod (.fin 64) .bool)
    (fun x => (x.r, x.lu))
    (fun x => ⟨x.1, x.2⟩) (fun _ => rfl)

def Code.lXchg : Code LXchg :=
  Code.iso (.prod Code.lHead (.prod (.fin 64) (.prod Code.lSrc (.prod (.option Code.lSrc) (.prod .bool (.prod .bool
    (.bits 5)))))))
    (fun x => (x.h, x.vd, x.a, x.m, x.z, x.ring, x.k))
    (fun x => ⟨x.1, x.2.1, x.2.2.1, x.2.2.2.1, x.2.2.2.2.1, x.2.2.2.2.2.1, x.2.2.2.2.2.2⟩) (fun _ => rfl)

def Code.lXpick : Code LXpick :=
  Code.iso (.prod Code.lHead (.prod (.fin 64) (.prod Code.lSrc (.prod Code.lSrc (.prod (.option Code.lSrc) .bool)))))
    (fun x => (x.h, x.vd, x.a, x.b, x.m, x.z))
    (fun x => ⟨x.1, x.2.1, x.2.2.1, x.2.2.2.1, x.2.2.2.2.1, x.2.2.2.2.2⟩) (fun _ => rfl)

def Code.lPoll : Code LPoll :=
  Code.iso (.prod Code.lHead (.prod (.bits 2) (.prod (.fin 64) (.prod (.fin 8) (.option Code.lSrc)))))
    (fun x => (x.h, x.mode, x.vd, x.pa, x.m))
    (fun x => ⟨x.1, x.2.1, x.2.2.1, x.2.2.2.1, x.2.2.2.2⟩) (fun _ => rfl)

def Code.redOp : Code RedOp :=
  Code.enum [.add, .min, .max, .minu, .maxu, .and, .or, .xor, .fadd, .fmin, .fmax] (by intro a; cases a <;> decide)

def Code.lRed : Code LRed :=
  Code.iso (.prod Code.lHead (.prod (.fin 64) (.prod Code.lSrc (.prod Code.redOp (.option Code.lSrc)))))
    (fun x => (x.h, x.vd, x.a, x.op, x.m))
    (fun x => ⟨x.1, x.2.1, x.2.2.1, x.2.2.2.1, x.2.2.2.2⟩) (fun _ => rfl)

def Code.lQpush : Code LQpush :=
  Code.iso (.prod Code.lHead (.prod (.bits 2) (.prod Code.lSrc (.prod Code.lSrc (.option Code.lSrc)))))
    (fun x => (x.h, x.sz, x.a, x.b, x.m))
    (fun x => ⟨x.1, x.2.1, x.2.2.1, x.2.2.2.1, x.2.2.2.2⟩) (fun _ => rfl)

def Code.lQpop : Code LQpop :=
  Code.iso (.prod Code.lHead (.prod (.bits 2) (.prod (.fin 64) (.prod Code.lSrc (.prod (.fin 8)
    (.option Code.lSrc))))))
    (fun x => (x.h, x.sz, x.vd, x.a, x.pb, x.m))
    (fun x => ⟨x.1, x.2.1, x.2.2.1, x.2.2.2.1, x.2.2.2.2.1, x.2.2.2.2.2⟩) (fun _ => rfl)

def Code.lLmma : Code LLmma :=
  Code.iso (.prod Code.lHead (.prod (.fin 64) (.prod Code.lSrc (.prod Code.lSrc (.option Code.lSrc)))))
    (fun x => (x.h, x.vd, x.a, x.b, x.m))
    (fun x => ⟨x.1, x.2.1, x.2.2.1, x.2.2.2.1, x.2.2.2.2⟩) (fun _ => rfl)

def Code.collIns : Code CollIns :=
  Code.iso (.sum Code.lXchg (.sum Code.lXpick (.sum Code.lXchg (.sum Code.lXchg (.sum Code.lXchg (.sum Code.lPoll (
    .sum Code.lRed (.sum Code.lQpush (.sum Code.lQpop Code.lLmma)))))))))
    (fun x => match x with
      | .xpair a => .inl a
      | .xpick a => .inr (.inl a)
      | .xback a => .inr (.inr (.inl a))
      | .xfwd a => .inr (.inr (.inr (.inl a)))
      | .xone a => .inr (.inr (.inr (.inr (.inl a))))
      | .poll a => .inr (.inr (.inr (.inr (.inr (.inl a)))))
      | .red a => .inr (.inr (.inr (.inr (.inr (.inr (.inl a))))))
      | .qpush a => .inr (.inr (.inr (.inr (.inr (.inr (.inr (.inl a)))))))
      | .qpop a => .inr (.inr (.inr (.inr (.inr (.inr (.inr (.inr (.inl a))))))))
      | .lmma a => .inr (.inr (.inr (.inr (.inr (.inr (.inr (.inr (.inr a)))))))))
    (fun x => match x with
      | .inl a => .xpair a
      | .inr (.inl a) => .xpick a
      | .inr (.inr (.inl a)) => .xback a
      | .inr (.inr (.inr (.inl a))) => .xfwd a
      | .inr (.inr (.inr (.inr (.inl a)))) => .xone a
      | .inr (.inr (.inr (.inr (.inr (.inl a))))) => .poll a
      | .inr (.inr (.inr (.inr (.inr (.inr (.inl a)))))) => .red a
      | .inr (.inr (.inr (.inr (.inr (.inr (.inr (.inl a))))))) => .qpush a
      | .inr (.inr (.inr (.inr (.inr (.inr (.inr (.inr (.inl a)))))))) => .qpop a
      | .inr (.inr (.inr (.inr (.inr (.inr (.inr (.inr (.inr a)))))))) => .lmma a)
    (fun x => by cases x <;> rfl)

def Code.arrival : Code Arrival :=
  Code.iso (.prod Code.collIns (.prod (.bits 32) (.prod .bool (.prod (.bits 32) (.prod (.bits 32) (
    .prod (.list (.bits 32)) (.bits 64)))))))
    (fun x => (x.op, x.mask, x.contrib, x.a, x.b, x.vals, x.pc))
    (fun x => ⟨x.1, x.2.1, x.2.2.1, x.2.2.2.1, x.2.2.2.2.1, x.2.2.2.2.2.1, x.2.2.2.2.2.2⟩) (fun _ => rfl)

def Code.wait : Code Wait :=
  Code.iso (.sum .unit (.sum (.prod (.bits 64) (.prod .bool (.bits 32))) (.sum Code.arrival (.sum .unit .unit))))
    (fun x => match x with
      | .none => .inl ()
      | .barrier a b c => .inr (.inl (a, b, c))
      | .coll a => .inr (.inr (.inl a))
      | .debug => .inr (.inr (.inr (.inl ())))
      | .faulted => .inr (.inr (.inr (.inr ()))))
    (fun x => match x with
      | .inl _ => .none
      | .inr (.inl (a, b, c)) => .barrier a b c
      | .inr (.inr (.inl a)) => .coll a
      | .inr (.inr (.inr (.inl _))) => .debug
      | .inr (.inr (.inr (.inr _))) => .faulted)
    (fun x => by cases x <;> rfl)

def Code.thread : Code Thread :=
  Code.iso (.prod .nat (.prod .nat (.prod (.bits 64) (.prod (.vector 64 (.bits 32)) (.prod (.bits 64) (
    .prod (.bits 8) (.prod (.bits 6) (.prod (.option Code.rep) (.prod (.list Code.lPend) (.prod .nat (.prod .nat (
    .prod Code.wait (.prod Code.park (.prod Code.floor (.prod (.bits 64) (.bits 32))))))))))))))))
    (fun x => (x.team, x.rank, x.pc, x.v, x.full, x.p, x.flags, x.rep, x.pend, x.cursor, x.lastDq, x.wait, x.park,
      x.floor, x.status, x.poison))
    (fun x => ⟨x.1, x.2.1, x.2.2.1, x.2.2.2.1, x.2.2.2.2.1, x.2.2.2.2.2.1, x.2.2.2.2.2.2.1, x.2.2.2.2.2.2.2.1,
      x.2.2.2.2.2.2.2.2.1, x.2.2.2.2.2.2.2.2.2.1, x.2.2.2.2.2.2.2.2.2.2.1, x.2.2.2.2.2.2.2.2.2.2.2.1,
      x.2.2.2.2.2.2.2.2.2.2.2.2.1, x.2.2.2.2.2.2.2.2.2.2.2.2.2.1, x.2.2.2.2.2.2.2.2.2.2.2.2.2.2.1,
      x.2.2.2.2.2.2.2.2.2.2.2.2.2.2.2⟩) (fun _ => rfl)

def Code.save : Code Save :=
  Code.iso (.prod (.bits 32) (.prod .nat (.prod Code.saveKind (.prod .bool (.prod Code.task (.prod Code.seq (
    .prod (.list .nat) (.prod (.list (.bits 8)) (.prod (.vector 16 Code.dqRec) (.prod (.list Code.op) (
    .prod (.list Code.cmd) (.prod (.list Code.team) (.prod (.list (.prod .nat Code.thread)) (.prod .nat (
    .prod (.list (.prod .nat Code.laneWhere)) (.prod .nat (.prod .nat
    (.option (.prod (.bits 64) (.bits 32))))))))))))))))))))
    (fun x => (x.ctx, x.slot, x.kind, x.unhandled, x.task, x.seq, x.blocks, x.data, x.dq, x.ops, x.cmds, x.teams,
      x.threads, x.rpend, x.rfaults, x.partcores, x.coop, x.wait))
    (fun x => ⟨x.1, x.2.1, x.2.2.1, x.2.2.2.1, x.2.2.2.2.1, x.2.2.2.2.2.1, x.2.2.2.2.2.2.1, x.2.2.2.2.2.2.2.1,
      x.2.2.2.2.2.2.2.2.1, x.2.2.2.2.2.2.2.2.2.1, x.2.2.2.2.2.2.2.2.2.2.1, x.2.2.2.2.2.2.2.2.2.2.2.1,
      x.2.2.2.2.2.2.2.2.2.2.2.2.1, x.2.2.2.2.2.2.2.2.2.2.2.2.2.1, x.2.2.2.2.2.2.2.2.2.2.2.2.2.2.1,
      x.2.2.2.2.2.2.2.2.2.2.2.2.2.2.2.1, x.2.2.2.2.2.2.2.2.2.2.2.2.2.2.2.2.1,
      x.2.2.2.2.2.2.2.2.2.2.2.2.2.2.2.2.2⟩) (fun _ => rfl)

end Sys2Proof.Machine
end

