-- ==== Sys2Proof/Machine/Mgmt.lean ====
section
/-! DEFINITION. The management operations (R361): what each does, with its status and reply body. -/

namespace Sys2Proof.Machine

open Sys2Proof

def opSessionOpen : Nat := 1
def opMigrateIn : Nat := 14

/-- The request body's length by operation; none for an operation that the table does not list. -/
def bodyLength (op : Nat) : Option Nat :=
  match op with
  | 1 | 2 | 3 | 9 | 13 => some 0
  | 4 | 5 | 11 | 14 => some 8
  | 6 => some 4
  | 7 | 10 => some 32
  | 8 => some 64
  | 12 => some 136
  | _ => none

def isOperator (x : Session) : Bool := x.ctx.isNone

/-- The session may name the context. -/
def mayName (x : Session) (n : W32) : Bool := isOperator x || x.ctx == some n

/-! ### Sessions, registers, images, routes -/

/-- The counter from which the next session number is taken: neither 0 nor the number of an open session (R354). -/
def HostPort.nextFree (h : HostPort) : Nat :=
  (((List.range (h.sessions.length + 2)).map (· + h.nextSession)).find? fun n =>
    let w : W32 := BitVec.ofNat 32 n
    w != 0 && !h.sessions.any fun (x : Session) => x.num == w).getD h.nextSession

/-- SESSION_OPEN, by a session or, with none, on session 0. -/
def sessionOpen (by_ : Option Session) (m : YhtMsg) (s : State) : Reply :=
  let op := m.arg == BitVec.allOnes 32
  if op && m.srcAddr != Config.operatorAddress then .now stDenied [] s
  else if !op && (s.ctx? m.arg).isNone then .now stNoContext [] s
  else if (match by_ with | some x => !op && !mayName x m.arg | none => false) then .now stDenied [] s
  else
    let k := s.host.nextFree
    let n : W32 := BitVec.ofNat 32 k
    let x : Session := { num := n, ctx := if op then none else some m.arg, next := 1, kept := [], heldReq := [], evq := [],
                         events := [], evNext := 1, lost := 0, busy := false, peer := m.srcAddr, peerPort := m.srcPort }
    .now 0 (leBytes 4 n.toNat)
      (s.setHost { s.host with sessions := s.host.sessions ++ [x], nextSession := k + 1 })

/-- SESSION_CLOSE. Session 0 is open and bound to no context (R354). -/
def sessionClose (x : Session) (m : YhtMsg) (s : State) : Reply :=
  match s.session? m.arg with
  | none => .now (if m.arg = 0 then stDenied else stNoContext) [] s
  | some y => if isOperator x || y.ctx == x.ctx then .now 0 [] (s.closeSession m.arg) else .now stDenied [] s

/-- The register belongs to a context: its block's, or its queue's. -/
def regContext (s : State) (off : Nat) : Option W32 :=
  if off < 0x2000 then some (s.queue (Fin.ofNat 64 (off / 0x80))).ctx
  else if 0xC000 ≤ off ∧ off < 0x10000 then some (blockCtx off) else none

def regDenied (x : Session) (s : State) (off : Nat) : Bool :=
  match regContext s off with
  | some n => !mayName x n
  | none => false

/-- The place of `QCTX` among a queue's registers (R303). -/
def qctxOffset : Nat := 0x40

/-- A write of `QCTX` names a context too: the one that it writes. -/
def writeDenied (x : Session) (s : State) (off : Nat) (v : W64) : Bool :=
  regDenied x s off || (decide (off < 0x2000) && off % 0x80 == qctxOffset && !mayName x (v.extractLsb' 0 32))

def regReadOp (x : Session) (m : YhtMsg) (s : State) : Reply :=
  if regDenied x s m.arg.toNat then .now stDenied [] s else .now 0 (leBytes 8 (s.regRead m.arg.toNat).toNat) s

def regWriteOp (x : Session) (m : YhtMsg) (s : State) : Reply :=
  if writeDenied x s m.arg.toNat (BitVec.ofNat 64 (ofBytes m.payload)) then .now stDenied [] s
  else
    match s.regWrite m.arg.toNat (BitVec.ofNat 64 (ofBytes m.payload)) with
    | some t => .now 0 [] t
    | none => .now stDenied [] s

/-- Run `f` on a context that exists and that the session may name. -/
def withContext (x : Session) (n : W32) (s : State) (f : Ctx → Reply) : Reply :=
  match s.ctx? n with
  | none => .now stNoContext [] s
  | some c => if mayName x n then f c else .now stDenied [] s

/-- IMAGE_LOAD: the header is read and checked, then the container that it gives the length of (R96). -/
def imageLoadOp (x : Session) (m : YhtMsg) (s : State) : Reply :=
  withContext x m.arg s fun c =>
    let a := ofBytes m.payload
    match hostBytes (some c.num) a 64 s with
    | .error e => .now e.1 [] e.2
    | .ok h =>
      if headerOk h = false then .now 0 (leBytes 4 1) s
      else
        match hostBytes (some c.num) a (wordOf h 8 8) s with
        | .error e => .now e.1 [] e.2
        | .ok bs =>
          let st := loadStatus bs
          .now 0 (leBytes 4 st) (if st = 0 then s.loadImage c (BitVec.ofNat 64 a) bs else s)

/-- Stored events pass to the session in order; what does not fit is lost and counted, with what the store lost. -/
def Session.takeEvents (x : Session) (es : List Event) : Session :=
  es.foldl (fun (x : Session) e =>
    if x.evq.length + x.events.length < 1024 then { x with evq := x.evq ++ [e] } else { x with lost := x.lost + 1 }) x

/-- EVENT_ROUTE. Session 0 is bound to no context (R354, R361). -/
def eventRouteOp (x : Session) (m : YhtMsg) (s : State) : Reply :=
  withContext x m.arg s fun c =>
    let n : W32 := BitVec.ofNat 32 (ofBytes m.payload)
    match s.session? n with
    | none => .now (if n = 0 then stDenied else stNoContext) [] s
    | some y =>
      if !(isOperator y || y.ctx == some c.num) then .now stDenied [] s
      else
        let s := s.updCtx c.num fun c => { c with route := some n, store := [], lost := 0 }
        .now 0 [] (s.updSession n fun y =>
          let y := y.takeEvents c.store
          ({ y with lost := y.lost + c.lost } : Session).reportLost s)

/-! ### FAULT_ANSWER (R290) -/

/-- How an access stands after its entry has been answered. -/
def answered (p : Park) (key : FbKey) (fail thread : Bool) : Park :=
  match p with
  | .waiting k _ =>
    if k = key then (if fail then .failed (failCause key.cause) else if thread && key.access != 3 then .retry else .none)
    else p
  | .none | .retry | .walking | .failed _ => p

/-- Answer an entry of a core's fault buffer: every access that waits on it, then the entry is freed. -/
def Core.answerFault (k : Core) (key : FbKey) (fail : Bool) : Core :=
  { k with fb := k.fb.filter fun e => e.key != key,
           seq := { k.seq with park := answered k.seq.park key fail false },
           slots := k.slots.map fun t => t.map fun th => { th with park := answered th.park key fail true },
           cmds := k.cmds.map fun c => { c with park := answered c.park key fail false } }

def faultAnswerOp (x : Session) (m : YhtMsg) (s : State) : Reply :=
  let w (off n : Nat) : Nat := wordOf m.payload off n
  let ctx : W32 := BitVec.ofNat 32 (w 0x14 4)
  withContext x ctx s fun _ =>
    if 1 < m.arg.toNat then .now stBadMessage [] s
    else
      let key : FbKey := { ctx := ctx, page := w 0 8 / 65536, cause := BitVec.ofNat 8 (w 0xA 1),
                           access := BitVec.ofNat 8 (w 0xC 1) }
      let c : CoreNo := Fin.ofNat 256 (w 0x18 1)
      if (s.core c).fb.any fun e => e.key == key then
        .now 0 [] (s.updCore c fun k => k.answerFault key (m.arg == 1))
      else .now 0 [] s

/-! ### Contexts (R320, R362, R324) -/

/-- The context of a block as CONTEXT_CREATE carries it, with its `LANEHND`. -/
def ctxOfBlock (n : W32) (bs : List Byte) (hnd : W64) : Ctx :=
  let w (off len : Nat) : Nat := wordOf bs off len
  let ring := w 0x1C 4
  { num := n, lanehnd := hnd, frecbase := BitVec.ofNat 64 (w 8 8),
    savebase := BitVec.ofNat 64 (w 0x10 8), saveslots := BitVec.ofNat 32 (w 0x18 4),
    lringsize := if 16 ≤ ring ∧ ring ≤ 4096 then BitVec.ofNat 32 ring else 128,
    lringbase := BitVec.ofNat 64 (w 0x20 8), cpedlimit := BitVec.ofNat 32 (w 0x2C 4),
    cpedbase := BitVec.ofNat 64 (w 0x30 8), cptroot := BitVec.ofNat 64 (w 0x38 8), table := defaultTable }

/-- The lowest free context number of a partition. -/
def State.freeContext (s : State) (p : Nat) : Option W32 :=
  ((List.range 16).map fun i => (BitVec.ofNat 32 (2 ^ 28 * p + i) : W32)).find? fun n => (s.ctx? n).isNone

def stContextLimit : Nat := 12

def contextCreateOp (m : YhtMsg) (s : State) : Reply :=
  match s.freeContext (m.arg.toNat % 16) with
  | none => .now stContextLimit [] s
  | some n =>
    let h := s.handlerAddr (BitVec.ofNat 64 (wordOf m.payload 0 8))
    .now 0 (leBytes 4 n.toNat) { h.2 with ctxs := h.2.ctxs ++ [ctxOfBlock n m.payload h.1] }

def contextDestroyOp (m : YhtMsg) (s : State) : Reply :=
  if (s.ctx? m.arg).isNone then .now stNoContext [] s else .now 0 [] (s.destroyContext m.arg)

/-! ### Partitions (R361, R369) -/

def stBadPartition : Nat := 13

/-- The eight ranges of a PARTITION_SET body, in the order of the `PCARVE` registers; an unused one is (0, 0). -/
def rangesOf (bs : List Byte) : Vector (Nat × Nat) 8 :=
  Vector.ofFn fun i =>
    if wordOf bs (16 + 16 * i.val) 8 = 0 then (0, 0) else (wordOf bs (8 + 16 * i.val) 8, wordOf bs (16 + 16 * i.val) 8)

def carvesMeet (x y : Nat × Nat) : Bool := decide (x.1 < y.1 + y.2) && decide (y.1 < x.1 + x.2)

def carvesApart : List (Nat × Nat) → Bool
  | [] => true
  | r :: rs => (rs.all fun x => !carvesMeet r x) && carvesApart rs

/-- Every range of a partition, those being removed included. -/
def Partition.ranges (p : Partition) : List (Nat × Nat) := p.carve.toList.filter (fun r => r.2 != 0) ++ p.removing

/-- The request can be applied. -/
def State.partitionOk (s : State) (p : Fin 16) (mask : W64) (rs : List (Nat × Nat)) : Bool :=
  let others := (List.finRange 16).filter fun x => x != p
  (others.all fun x => (s.part x).clusters &&& mask == 0) &&
    (rs.all fun r => r.1 % 2 ^ 25 == 0 && r.2 % 2 ^ 25 == 0 && decide (r.1 + r.2 ≤ hbmSize)) && carvesApart rs &&
    others.all fun x => (s.part x).ranges.all fun r => rs.all fun y => !carvesMeet r y

/-- The 64 KiB granules of some ranges that others do not hold. -/
def granulesLeft (old new : List (Nat × Nat)) : List Nat :=
  (old.flatMap fun r => (List.range (r.2 / 65536)).map (· + r.1 / 65536)).filter fun g =>
    !new.any fun r => decide (r.1 ≤ 65536 * g) && decide (65536 * g < r.1 + r.2)

/-- The contexts of a partition. -/
def State.contextsOf (s : State) (p : Fin 16) : List W32 := (s.ctxs.map Ctx.num).filter fun n => ctxPart n == p

/-- The removed ranges of a partition are gone: their granules are marked for scrubbing. -/
def State.endRemoval (s : State) (p : Fin 16) : State :=
  let x := s.part p
  let gs := granulesLeft x.removing (x.carve.toList.filter fun r => r.2 != 0)
  (s.setDev (gs.foldl (fun d g => d.mark (65536 * g) 65536) s.dev)).updPart p fun x => { x with removing := [] }

def partitionSetOp (m : YhtMsg) (s : State) : Reply :=
  let p : Fin 16 := Fin.ofNat 16 m.arg.toNat
  let mask : W64 := BitVec.ofNat 64 (wordOf m.payload 0 8)
  let carve := rangesOf m.payload
  let rs := carve.toList.filter fun r => r.2 != 0
  if s.partitionOk p mask rs = false then .now stBadPartition [] s
  else
    let old := (s.part p).carve.toList.filter fun r => r.2 != 0
    let s := s.updPart p fun x =>
      { x with clusters := x.clusters ||| mask, carve := carve,
               removing := x.removing ++ old.filter fun r => !rs.contains r }
    let s := s.reconsider p
    if (granulesLeft (s.part p).removing rs).isEmpty then .now 0 [] (s.endRemoval p)
    else
      let cs := s.contextsOf p
      if cs.isEmpty then .now 0 [] (s.endRemoval p)
      else
        let s := cs.foldl (fun s n => s.invalidate n true) s
        .later (s.setHost { s.host with partWaits := s.host.partWaits ++ [⟨m, p⟩] })

/-! ### Keys and attestation (R346, R369) -/

/-- The partition block as R368 lays it out. -/
def partBlock (s : State) (p : Fin 16) : List Byte :=
  (List.range 64).flatMap fun i => leBytes 8 (readPart s p (8 * i)).toNat

/-- The report without its signature; an operator session has no partition, and what the report says of one is open. -/
def reportBody (x : Session) (nonce : List Byte) (s : State) : List Byte × State :=
  let head := leBytes 4 0x54525441 ++ leBytes 2 1 ++ leBytes 2 0 ++ nonce ++ compatKey ++ sha256 Config.monitorImage ++
    sha256 Config.runtimeImage
  let tail := leBytes 3 0 ++ leBytes 8 s.ticks
  let dev := leBytes 4 s.ytt.devid.toNat
  match x.ctx with
  | some n =>
    let p := ctxPart n
    (head ++ sha256 (partBlock s p) ++ dev ++ [BitVec.ofNat 8 p.val] ++ tail, s)
  | none =>
    let h := s.undef 256
    let b := h.2.undef 8
    (head ++ leBytes 32 h.1.toNat ++ dev ++ [b.1] ++ tail, b.2)

/-- A signature as r then s, each big-endian. -/
def signBytes (msg : List Byte) : List Byte := (leBytes 64 (Config.sign msg).toNat).reverse

def attestOp (x : Session) (m : YhtMsg) (s : State) : Reply :=
  let r := reportBody x m.payload s
  .now 0 (r.1 ++ signBytes r.1) r.2

end Sys2Proof.Machine
end

