-- ==== Sys2Proof/Machine/Migrate.lean ====
section
/-! DEFINITION. Migration (R347): what a migration image holds, export and import. How the bytes of an
image hold it is left open, but that they do is not (log entry 21). -/

namespace Sys2Proof.Machine

open Sys2Proof

/-- The contents of a migration image: the key of the exporting device, the context block and the binding table, the
queues with their registers and rings, the child grids, and the save images with their tasks. -/
structure MigImage where
  key : List Byte
  ctx : Ctx
  queues : List (Fin 64 × Queue × List Byte)
  grids : List Grid
  saves : List (Save × List Byte)
  deriving DecidableEq, Repr, Inhabited

/-- How the bytes of an image, its signature left out, hold its contents: they are read back as what was packed. The
first 64 bytes give the length of the whole image, signature included, where it is below 2^511. -/
structure MigCodec where
  pack : MigImage → List Byte
  size : List Byte → Nat
  unpack : List Byte → Option MigImage
  unpack_pack : ∀ i, unpack (pack i) = some i
  size_pack : ∀ i sig, (pack i).length < 2 ^ 511 → size ((pack i ++ sig).take 64) = (pack i).length + 64

def Code.migImage : Code MigImage :=
  Code.iso (.prod (.list (.bits 8)) (.prod Code.ctx (.prod (.list (.prod (.fin 64) (.prod Code.queue (.list (.bits 8)))))
    (.prod (.list Code.grid) (.list (.prod Code.save (.list (.bits 8))))))))
    (fun x => (x.key, x.ctx, x.queues, x.grids, x.saves))
    (fun x => ⟨x.1, x.2.1, x.2.2.1, x.2.2.2.1, x.2.2.2.2⟩) (fun _ => rfl)

/-- One such codec. The device's own is not this one: nothing says what it is. -/
def MigCodec.plain : MigCodec where
  pack i := leBytes 64 ((Code.migImage.enc i).length + 128) ++ Code.migImage.enc i
  size h := ofBytes h
  unpack b := (Code.migImage.dec (b.drop 64)).map Prod.fst
  unpack_pack i := by
    have h := Code.migImage.law i []
    rw [List.append_nil] at h
    rw [List.drop_left' (leBytes_length _ _), h]; rfl
  size_pack i sig h := by
    simp only [List.length_append, leBytes_length] at h ⊢
    rw [List.append_assoc, List.take_left' (leBytes_length _ _)]
    rw [ofBytes_leBytes _ _ (by omega)]; omega

end Sys2Proof.Machine

namespace Sys2Proof.Config

open Sys2Proof.Machine

/-- The layout of a migration image, of which R347 says only that it is opaque (log entry 21). -/
opaque migCodec [Inhabited MigCodec] : MigCodec

/-- The bytes of the contents of a migration image; its signature stands behind them. -/
def migPack (m : MigImage) : List (BitVec 8) := (@migCodec ⟨MigCodec.plain⟩).pack m

/-- The size that the first 64 bytes of a migration image give. -/
def migSize (head : List (BitVec 8)) : Nat := (@migCodec ⟨MigCodec.plain⟩).size head

/-- The contents that the bytes before the signature are read as; none for bytes that hold none. -/
def migUnpack (bytes : List (BitVec 8)) : Option MigImage := (@migCodec ⟨MigCodec.plain⟩).unpack bytes

/-- An image holds its contents. -/
theorem migUnpack_migPack (m : MigImage) : migUnpack (migPack m) = some m := MigCodec.unpack_pack _ m

theorem migSize_migPack (m : MigImage) (sig : List (BitVec 8)) (h : (migPack m).length < 2 ^ 511) :
    migSize ((migPack m ++ sig).take 64) = (migPack m).length + 64 := MigCodec.size_pack _ m sig h

end Sys2Proof.Config

namespace Sys2Proof.Machine

open Sys2Proof

/-! ### Export -/

/-- Every task of the context is a saved image or at a node boundary. -/
def State.atRest (s : State) (n : W32) : Bool := s.cores.toList.all fun k => k.task.isNone || k.ctx != n

/-- The bytes of a context's memory, for the Secure Monitor; zeros where nothing is mapped. A refused page is a
violation (R293). -/
def State.copyOf (s : State) (n : W32) (a len : Nat) : List Byte × State :=
  match s.readVa n a len with
  | .ok bs => (bs, s)
  | .error f => (List.replicate len 0, s.shepRefused n .read f)

/-- Each of `xs` with the bytes of its range of memory. -/
def State.copyAll {α : Type} (s : State) (n : W32) (xs : List α) (range : α → Nat × Nat) : List (α × List Byte) × State :=
  xs.foldl (fun acc x =>
    let r := acc.2.copyOf n (range x).1 (range x).2
    (acc.1 ++ [(x, r.1)], r.2)) ([], s)

/-- The length of a save image: its fixed part, and what is appended (R340). -/
def Save.imageLength (v : Save) : Nat :=
  16384 + v.data.length + 320 * v.threads.length + ((v.cmds.filter Cmd.active).map Cmd.listBytes).sum +
    128 * (v.ops.filter fun o => o.held && o.st == .queued && o.q != .lane).length

/-- Records of the context that still wait in the pending-launch queues of cores. -/
def State.waitingLaunches (s : State) (n : W32) : List (Nat × LaunchRec) :=
  (List.finRange 256).flatMap fun c => ((s.core c).launchQ.filter fun r => r.ctx == n).map fun r => (c.val, r)

/-- What an export holds; launches that have not been accepted follow those of the overflow ring. -/
def State.migImage (s : State) (x : Ctx) : MigImage × State :=
  let qs := (List.finRange 64).filter fun q => (s.queue q).ctx == x.num && (s.queue q).st != .disabled
  let rings := s.copyAll x.num qs fun q => ((s.queue q).base.toNat, 128 * (s.queue q).size.toNat)
  let saves := rings.2.copyAll x.num (s.saves.filter fun v => v.ctx == x.num) fun v =>
    (v.task.slotBase v.slot, v.imageLength)
  ({ key := compatKey, ctx := { x with ring := x.ring ++ s.waitingLaunches x.num },
     queues := rings.1.map fun r => (r.1, s.queue r.1, r.2),
     grids := s.grids.filter fun g => g.ctx == x.num, saves := saves.1 }, saves.2)

/-- A migration image: its contents, signed by the device (R347). -/
def migBody (m : MigImage) : List Byte := Config.migPack m ++ signBytes (Config.migPack m)

/-- MIGRATE_OUT: the image is written where the request says; the slots of the exported images are free (R338). -/
def migrateOutOp (x : Session) (m : YhtMsg) (s : State) : Reply :=
  withContext x m.arg s fun c =>
    if s.atRest c.num = false then .now stDenied [] s
    else
      let i := s.migImage c
      let s := i.2
      let bytes := migBody i.1
      match s.hostPieces (some c.num) .write (ofBytes m.payload) bytes.length with
      | .error e => .now e.1 [] e.2
      | .ok ps =>
        let s := s.writePieces 256 c.num false ps bytes
        .now 0 [] (({ s with saves := s.saves.filter fun v => v.ctx != c.num }).updCtx c.num fun c =>
          { c with savesUsed := [] })

/-! ### Import -/

def LaunchRec.inCtx (r : LaunchRec) (n : W32) : LaunchRec := { r with ctx := n }

/-- A task of an imported context; grid numbers go on from `base`. -/
def Task.inCtx (t : Task) (n : W32) (base : Nat) : Task :=
  { t with ctx := n, rcd := t.rcd.inCtx n, grid := t.grid.map (· + base) }


/-- A queue of an imported context, in its new partition. -/
def Queue.inCtx (x : Queue) (n : W32) : Queue :=
  { x with ctx := n, part := n.extractLsb' 28 4, node := x.node.map fun y => { y with rcd := y.rcd.inCtx n } }

/-- Write bytes at virtual addresses of a context, or the first failure. -/
def writeAll (n : W32) (xs : List (Nat × List Byte)) (s : State) : Except WalkFail State :=
  xs.foldlM (fun s x => s.writeVa n x.1 x.2) s

/-- The imported context as number `n`; where it cannot be set up, nothing but the violation, if it was one. -/
def State.importAs (s : State) (i : MigImage) (n : W32) : Except State State :=
  if i.queues.any fun q => (s.queue q.1).st != .disabled then .error s
  else
    let x := { i.ctx with num := n, ring := i.ctx.ring.map fun r => (r.1, r.2.inCtx n), route := none, store := [], inval := false,
                          savesUsed := (i.saves.map fun v => v.1.slot).foldl (fun l a => setInsert a l) [] }
    let base := s.nextGrid
    let top := i.saves.foldl (fun m v => Nat.max m v.1.coop) (i.grids.foldl (fun m g => Nat.max m g.id) 0)
    let t := { s with
      ctxs := s.ctxs ++ [x], nextGrid := base + top + 1,
      grids := s.grids ++ i.grids.map fun g => { g with id := g.id + base, ctx := n, rcd := g.rcd.inCtx n },
      saves := s.saves ++ i.saves.map fun v =>
        { v.1 with ctx := n, task := v.1.task.inCtx n base, coop := if v.1.coop = 0 then 0 else v.1.coop + base } }
    let t := i.queues.foldl (fun t q => t.updQueue q.1 fun _ => q.2.1.inCtx n) t
    match writeAll n (i.queues.map (fun q => (q.2.1.base.toNat, q.2.2)) ++
        i.saves.map fun v => (v.1.task.slotBase v.1.slot, v.2)) t with
    | .ok t => .ok t
    | .error f => .error (s.shepRefused n .write f)

/-- Bytes of physical memory for an operator session: the request is checked against the carve-out of the partition that
it names (R293). -/
def physBytes (p : Fin 16) (a n : Nat) (s : State) : Except (Nat × State) (List Byte) :=
  if (s.part p).holds a n = false then .error (3, s.violation none p.val a 4 255 0)
  else if s.dev.poisoned a n then .error (stMemoryError, s)
  else .ok (s.dev.bytes a n)

/-- The bytes of the image: through the session's context, or, for an operator session, from physical memory. -/
def migBytes (x : Session) (p : Fin 16) (a : Nat) (s : State) : Except (Nat × State) (List Byte) :=
  let read (n : Nat) : Except (Nat × State) (List Byte) :=
    match x.ctx with
    | some c => hostBytes (some c) a n s
    | none => physBytes p a n s
  match read 64 with
  | .error e => .error e
  | .ok h => read (Config.migSize h)

/-- What an image holds that this device may import: contents that pack into the signed bytes, with the device's key and
a good signature, its own or that of another device (R347). -/
def importable (bs : List Byte) : Option MigImage :=
  let body := bs.take (bs.length - 64)
  let sig := bs.drop (bs.length - 64)
  match Config.migUnpack body with
  | none => none
  | some i =>
    if Config.migPack i = body ∧ i.key = compatKey ∧ (sig = signBytes body ∨ Config.verify body sig = true) then some i
    else none

/-- MIGRATE_IN: a different key or a failed signature refuses the import, with nothing changed. -/
def migrateInOp (x : Session) (m : YhtMsg) (s : State) : Reply :=
  match s.freeContext (m.arg.toNat % 16) with
  | none => .now stContextLimit [] s
  | some n =>
    match migBytes x (Fin.ofNat 16 m.arg.toNat) (ofBytes m.payload) s with
    | .error e => .now e.1 [] e.2
    | .ok bs =>
      match importable bs with
      | none => .now stDenied [] s
      | some i =>
        match s.importAs i n with
        | .ok t => .now 0 (leBytes 4 n.toNat) t
        | .error t => .now stDenied [] t

/-! ### The operations by their codes (R361) -/

/-- A MGMT request of a session. -/
def mgmt (x : Session) (m : YhtMsg) (s : State) : Reply :=
  let op := m.addr.toNat
  if bodyLength op ≠ some m.payload.length then .now stBadMessage [] s
  else if (op = 8 ∨ op = 12 ∨ op = 13) ∧ isOperator x = false then .now stDenied [] s
  else
    match op with
    | 1 => sessionOpen (some x) m s
    | 2 => sessionClose x m s
    | 3 => regReadOp x m s
    | 4 => regWriteOp x m s
    | 5 => imageLoadOp x m s
    | 6 => eventRouteOp x m s
    | 7 => faultAnswerOp x m s
    | 8 => contextCreateOp m s
    | 9 => .now 0 compatKey s
    | 10 => attestOp x m s
    | 11 => migrateOutOp x m s
    | 12 => partitionSetOp m s
    | 13 => contextDestroyOp m s
    | _ => migrateInOp x m s

end Sys2Proof.Machine
end

