-- ==== Sys2Proof/Machine/Host.lean ====
section
/-! DEFINITION. The steps of the host port (R350 to R362): a message is received, requests of a session are executed in
PSN order, and each is answered. -/

namespace Sys2Proof.Machine

open Sys2Proof

/-! ### Executing a request -/

/-- A request of a session, well formed or not. A KICK and a PARTITION_SET that must wait reply later. -/
def perform (x : Session) (m : YhtMsg) (s : State) : Reply :=
  if m.badRequest (s.boot.st == .recovery) then .now stBadMessage [] s
  else
    match m.typ.toNat with
    | 1 => doWrite x m s
    | 2 => doRead x m s
    | 3 =>
      let k : KickWait := { msg := m, q := m.addr.extractLsb' 0 6 |>.toFin, n := 0, attempt := 0, atCyc := s.now }
      .later (s.setHost { s.host with kicks := s.host.kicks ++ [k] })
    | 5 => mgmt x m s
    | _ => .now stDenied [] s

/-- What is to be done next at the host port. -/
inductive HostWork where
  | pump (n : W32)
  | kick (q : Fin 64) (due : Bool)
  | done (m : YhtMsg) (st : Nat) (body : List Byte)

/-- One piece of work, and what it leads to. -/
def hostWork (w : HostWork) (s : State) : List HostWork × State :=
  match w with
  | .pump n =>
    match s.session? n with
    | none => ([], s)
    | some x =>
      if x.busy then ([], s)
      else
        match x.heldReq.find? fun m => m.psn == x.next with
        | none => ([], s)
        | some m =>
          let s := s.updSession n fun x =>
            { x with heldReq := x.heldReq.filter fun y => y.psn != m.psn, next := nextPsn x.next, busy := true }
          match perform x m s with
          | .now st body t => ([.done m st body], t)
          | .later t => (if m.typ = 3 then [.kick (m.addr.extractLsb' 0 6).toFin false] else [], t)
          | .part got t =>
            ([], t.updSession n fun y =>
              { y with heldReq := m :: y.heldReq, next := x.next, busy := false, part := got })
  | .kick q due =>
    match kickHead q due s with
    | .decided m st t => ([.done m st [], .kick q false], t)
    | .open_ t => ([], t)
  | .done m st body =>
    ([.pump m.session], (s.updSession m.session fun x => { x with busy := false, part := [] }).answer m st (if st = 0 then body else []))

def hostRun : Nat → List HostWork → State → State
  | 0, _, s => s
  | _, [], s => s
  | fuel + 1, w :: ws, s =>
    let r := hostWork w s
    hostRun fuel (r.1 ++ ws) r.2

/-- Enough for every held request and every kick. -/
def hostFuel (s : State) : Nat := 4 * ((s.host.sessions.map fun x => x.heldReq.length).sum + s.host.kicks.length) + 16

def runHost (ws : List HostWork) (s : State) : State := hostRun (hostFuel s) ws s

/-- PARTITION_SETs whose invalidations are done: the removal takes effect, and the reply is sent (R361). -/
def settleParts (s : State) : State :=
  s.host.partWaits.foldl (fun s w =>
    let busy := (s.contextsOf w.part).any fun n => match s.ctx? n with | some x => x.inval | none => false
    if busy then s
    else
      let s := (s.endRemoval w.part).setHost { s.host with partWaits := s.host.partWaits.erase w }
      runHost [.done w.msg 0 []] s) s

/-! ### Receiving (R354) -/

/-- A request on session 0: executed on arrival; a repeated one gets the kept reply. -/
def receive0 (m : YhtMsg) (s : State) : State :=
  if m.psn = 0 then s
  else
    match s.host.kept0.find? fun k => k.1 == (m.srcAddr, m.srcPort, m.psn) with
    | some k => s.wire k.2
    | none =>
      if m.badRequest (s.boot.st == .recovery) then s.answer0 m stBadMessage []
      else if s.boot.st = .recovery then (if m.typ = 6 then recoveryChunk m s else s.answer0 m stDenied [])
      else if m.typ = 5 ∧ m.addr = 1 then
        if m.payload ≠ [] then s.answer0 m stBadMessage []
        else
          match sessionOpen none m s with
          | .now st body t => t.answer0 m st (if st = 0 then body else [])
          | .later t | .part _ t => t
      else s.answer0 m stDenied []

/-- A request on an open session: an earlier PSN gets its kept response again, the next ones are held and executed in
order, and one beyond 64 ahead is dropped. The first of those held goes on where some of its bytes are left (R257). -/
def receiveIn (x : Session) (m : YhtMsg) (s : State) : State :=
  let d := psnAhead m.psn x.next
  if m.psn = 0 then s
  else if 2 ^ 31 ≤ d then
    match x.kept.find? fun k => k.1 == m.psn with
    | some k => s.wire k.2
    | none => s
  else if 64 < d then s
  else if x.heldReq.any fun y => y.psn == m.psn then settleParts (runHost [.pump x.num] s)
  else settleParts (runHost [.pump x.num] (s.updSession x.num fun x =>
    { x with heldReq := x.heldReq ++ [m], peer := m.srcAddr, peerPort := m.srcPort }))

/-- A message arrives at the host port. -/
def receive (m : YhtMsg) (s : State) : State :=
  if s.host.up = false then s
  else if m.resp || m.typ == 7 then
    if m.goodAck = false then s
    else
      s.updSession m.session fun x =>
        let x := x.ackEvents m.ackpsn s
        if m.typ = 4 then x.answered m.psn s else x
  else if m.session = 0 then receive0 m s
  else
    match s.session? m.session with
    | none => s
    | some x =>
      let s := s.updSession m.session fun x => x.ackEvents m.ackpsn s
      receiveIn x m s

/-- The message is a request of the TYPE. -/
def isType (t : Nat) (m : YhtMsg) : Bool := m.typ.toNat == t && !m.resp

/-- The message is a request for the management operation. -/
def isOp (op : Nat) (m : YhtMsg) : Bool := isType 5 m && m.addr.toNat == op

/-- A message of its own row; any other message is not that row's step. -/
def arrive (mine : Bool) (m : YhtMsg) (s : State) : Out := if mine then .next (receive m s) else .next s

/-- WRITE. A request of no TYPE of the host's, which is answered BAD_MESSAGE, arrives here too. -/
def execWrite (m : YhtMsg) (s : State) : Out :=
  arrive (isType 1 m || ((m.typ == 0 || m.typ == 4 || decide (7 < m.typ.toNat)) && !m.resp)) m s

def execRead (m : YhtMsg) (s : State) : Out := arrive (isType 2 m) m s
def execKick (m : YhtMsg) (s : State) : Out := arrive (isType 3 m) m s
def execRecovery (m : YhtMsg) (s : State) : Out := arrive (isType 6 m) m s

/-- ACK: an ACK, or a response, which is good only for an EVENT. -/
def execAck (m : YhtMsg) (s : State) : Out := arrive (m.typ == 7 || m.resp) m s

def execSessionOpen (m : YhtMsg) (s : State) : Out := arrive (isOp 1 m) m s
def execSessionClose (m : YhtMsg) (s : State) : Out := arrive (isOp 2 m) m s

/-- REG_READ. A MGMT request of no listed operation, which is answered BAD_MESSAGE, arrives here too. -/
def execRegRead (m : YhtMsg) (s : State) : Out :=
  arrive (isOp 3 m || (isType 5 m && (bodyLength m.addr.toNat).isNone)) m s

def execRegWrite (m : YhtMsg) (s : State) : Out := arrive (isOp 4 m) m s
def execImageLoad (m : YhtMsg) (s : State) : Out := arrive (isOp 5 m) m s
def execEventRoute (m : YhtMsg) (s : State) : Out := arrive (isOp 6 m) m s
def execFaultAnswer (m : YhtMsg) (s : State) : Out := arrive (isOp 7 m) m s
def execContextCreate (m : YhtMsg) (s : State) : Out := arrive (isOp 8 m) m s
def execKeyRead (m : YhtMsg) (s : State) : Out := arrive (isOp 9 m) m s
def execAttest (m : YhtMsg) (s : State) : Out := arrive (isOp 10 m) m s
def execMigrateOut (m : YhtMsg) (s : State) : Out := arrive (isOp 11 m) m s
def execPartitionSet (m : YhtMsg) (s : State) : Out := arrive (isOp 12 m) m s
def execContextDestroy (m : YhtMsg) (s : State) : Out := arrive (isOp 13 m) m s
def execMigrateIn (m : YhtMsg) (s : State) : Out := arrive (isOp 14 m) m s

/-- KICK_REREAD: 2 µs after a reading that did not match, the kick at the head of a queue reads again. -/
def execKickReread (q : Fin 64) (s : State) : Out := .next (settleParts (runHost [.kick q true] s))

/-- INVALIDATION_DONE: the conditions of R271 hold. -/
def execInvalidationDone (n : W32) (s : State) : Out :=
  match s.ctx? n with
  | none => .next s
  | some x =>
    if x.inval && s.invalidated n then
      .next (settleParts ((s.flushHeld fun h => ctxPart h.ctx == ctxPart n).endInvalidation n))
    else .next s

/-! ### ICMPv6 (R351) -/

/-- The link-local address of the host port: the modified EUI-64 of its MAC address under fe80::/64. -/
def linkLocal : BitVec 128 :=
  let m := Config.hmac
  let eui : BitVec 64 := (m.extractLsb' 24 24 ++ (0xFFFE : BitVec 16) ++ m.extractLsb' 0 24 : BitVec 64) ^^^ (1 <<< 57)
  ((0xFE80000000000000 : BitVec 64) ++ eui : BitVec 128)

/-- The host port takes IPv6 traffic for the address; in recovery mode for its link-local address only. -/
def State.hostAddress (s : State) (a : BitVec 128) : Bool :=
  s.host.up && (a == linkLocal || (s.boot.st == .up && s.host.hpaddr != 0 && a == s.host.hpaddr))

def State.emit (s : State) (x : Sent) : State := s.setHost { s.host with sent := s.host.sent ++ [x] }

def execNeighbourSolicitation (src target : BitVec 128) (s : State) : Out :=
  if s.hostAddress target then .next (s.emit (.neighbour src target Config.hmac)) else .next s

def execEchoRequest (src dst : BitVec 128) (data : List Byte) (s : State) : Out :=
  if s.hostAddress dst then .next (s.emit (.echo src dst data)) else .next s

end Sys2Proof.Machine
end

