-- ==== Sys2Proof/Machine/Ytt.lean ====
section
/-! DEFINITION. Frames that arrive over the scale-out fabric, and the resending of our own (R363 to R368). -/

namespace Sys2Proof.Machine

open Sys2Proof

/-! ### Reception (R365, R366) -/

def refuseTranslation : Nat := 1
def refusePermission : Nat := 2
def refuseCarveout : Nat := 3
def refuseNoContext : Nat := 4
def refuseMemory : Nat := 5

/-- Bits of SRC and DST that must be zero. -/
def yttEndOk (e : W32) : Bool := e.extractLsb' 21 3 == 0 && e.extractLsb' 28 4 == 0

/-- The payload that the types of R366 state; an unassigned type has none. -/
def yttPayload (m : YttFrame) : Option Nat :=
  match m.typ.toNat with
  | 1 | 3 => some (m.rows.toNat * m.rlen.toNat)
  | 2 | 7 => some 0
  | 4 => some 16
  | 5 => some 8
  | 6 => some 32
  | _ => none

/-- A frame that is not malformed (R365; log entry 47 on the lengths of the types without rows and on OP). -/
def yttGood (m : YttFrame) : Bool :=
  m.version == 1 && m.fl.extractLsb' 1 15 == 0 && yttEndOk m.src && yttEndOk m.dst &&
    (m.typ == 7 || m.status == 0) && m.length.toNat == m.payload.length && yttPayload m == some m.payload.length &&
    (m.typ != 4 || (m.arg.extractLsb' 7 25 == 0 && (AtomOp.ofCode (m.arg.extractLsb' 0 4)).isSome))

/-- A frame arrives: it acts when a port is up, it is well formed, its target is this device and its type is `typ`. -/
def yttReceive (typ : Byte) (m : YttFrame) (act : State → State) (s : State) : Out :=
  let y := s.ytt
  match y.portFor m.dst m.flow with
  | none => .next s
  | some p =>
    if yttGood m = false then
      .next { s with ytt := { y with dropped := y.dropped.setIfInBounds p (y.dropped.toList.getD p 0 + 1) } }
    else if m.typ ≠ typ ∨ m.dst.extractLsb' 0 21 ≠ y.devid.extractLsb' 0 21 then .next s
    else .next (act s)

/-! ### Acknowledgement (R364, R366) -/

/-- Base of an ACK: the first SEQ that has not been accepted. -/
def YttFlow.base (f : YttFlow) : W32 :=
  BitVec.ofNat 32
    (((List.range (f.accepted.length + 1)).find? fun i => !f.accepted.contains (BitVec.ofNat 32 i)).getD 0)

/-- The bitmap of an ACK: bit `i` is SEQ base + `i`. -/
def YttFlow.bitmap (f : YttFlow) : Nat :=
  ((List.range 256).map fun i => if f.accepted.contains (f.base + BitVec.ofNat 32 i) then 2 ^ i else 0).sum

/-- Send an ACK of the flow; it is not kept. -/
def State.yttSendAck (s : State) (m : YttFrame) (f : YttFlow) : State :=
  s.yttEmit { yttFrame 6 m.dst m.src 0 f.base (leBytes 32 f.bitmap) with flow := f.flow }

/-- Accept a frame on its flow and acknowledge it. -/
def State.yttAccept (s : State) (m : YttFrame) (ours : Bool) : State :=
  match s.ytt.flow? m.flow ours m.src with
  | none => s
  | some f =>
    let g := { f with accepted := f.accepted ++ [m.seq] }
    ({ s with ytt := s.ytt.setFlow g } : State).yttSendAck m g

/-- The flow that another device opened, or a new one for its first frame. -/
def State.theirFlow (s : State) (m : YttFrame) : YttFlow :=
  (s.ytt.flow? m.flow false m.src).getD
    { flow := m.flow, peer := m.src, ours := false, job := none, seq := 0, out := [], accepted := [], kept := [],
      rows := 0 }

/-- A frame on a flow that another device opened: a duplicate is only acknowledged again. -/
def onTheirFlow (m : YttFrame) (again : YttFlow → State → State) (act : State → State) (s : State) : State :=
  let f := s.theirFlow m
  let s := { s with ytt := s.ytt.setFlow f }
  if f.accepted.contains m.seq then again f (s.yttSendAck m f) else act s

/-- Send a frame in our direction of a flow that another device opened. -/
def State.yttAnswer (s : State) (m f : YttFrame) : State :=
  match s.ytt.flow? m.flow false m.src with
  | some fl => s.yttSend fl f
  | none => s

/-- Answer a frame by REFUSE; one that still waits for its acknowledgement is not sent beside it. -/
def State.yttRefuse (s : State) (m : YttFrame) (status : Nat) : State :=
  if (s.theirFlow m).out.any fun o => o.f.typ == 7 && o.f.arg == m.seq then s
  else s.yttAnswer m { yttFrame 7 m.dst m.src 0 m.seq [] with status := BitVec.ofNat 16 status, cmd := m.cmd }

/-! ### Access for another device (R367) -/

/-- STATUS of a REFUSE for a walk that fails. -/
def refuseOf (f : WalkFail) : Nat :=
  if f.cause = failCarveout then refuseCarveout else if f.cause = failPermission then refusePermission else refuseTranslation

/-- The pieces of ranges of the context that serves a frame, or the refusal. -/
def State.yttPieces (s : State) (m : YttFrame) (need : Need) (rs : List (Nat × Nat)) :
    Except (Nat × State) (W32 × List (List (Phys × Nat))) :=
  let ctx := (s.part (m.dst.extractLsb' 24 4).toFin).yttctx
  if (s.ctx? ctx).isNone then .error (refuseNoContext, s)
  else if rs.any fun r => decide (2 ^ 52 < r.1 + r.2) then .error (refuseTranslation, s)
  else
    match rs.mapM fun r => s.xlateRange ctx need r.1 r.2 with
    | .ok ps => .ok (ctx, ps)
    | .error f => .error (refuseOf f, s.refusedAt ctx 5 255 need f)

/-- The rows that a frame names. -/
def yttRows (m : YttFrame) : List (Nat × Nat) :=
  (List.range m.rows.toNat).map fun i => (m.addr.toNat + i * m.pitch.toNat, m.rlen.toNat)

def piecesPoisoned (s : State) (ps : List (Phys × Nat)) : Bool :=
  ps.any fun p => s.dev.poisoned p.1.pa p.2

/-- The bytes that an access of a flow has taken while others are left (R257). -/
def YttFlow.partOf (f : YttFlow) (seq : W32) : List (Option Byte) :=
  ((f.part.find? fun x => x.1 == seq).map Prod.snd).getD []

def YttFlow.setPart (f : YttFlow) (seq : W32) (part : List (Option Byte)) : YttFlow :=
  { f with part := (f.part.filter fun x => x.1 != seq) ++ if part.all Option.isSome then [] else [(seq, part)] }

def State.setPart (s : State) (m : YttFrame) (part : List (Option Byte)) : State :=
  { s with ytt := s.ytt.setFlow ((s.theirFlow m).setPart m.seq part) }

/-- PUT: the rows are performed, then the frame is acknowledged; a PUT that is refused is not accepted, nor is one that
has bytes left: it comes again. -/
def takePut (m : YttFrame) (s : State) : State :=
  match s.yttPieces m .write (yttRows m) with
  | .error e => e.2.yttRefuse m e.1
  | .ok (ctx, ps) =>
    let (n, s) := s.choice
    let part := (s.theirFlow m).partOf m.seq
    if n = 0 ∧ part = [] then
      (ps.zipIdx.foldl (fun s x =>
        s.writePieces 256 ctx false x.1 ((m.payload.drop (x.2 * m.rlen.toNat)).take m.rlen.toNat)) s).yttAccept m false
    else
      let r := s.writeOn ctx ps.flatten m.payload n part
      let s := r.2.setPart m r.1
      if r.1.all Option.isSome then s.yttAccept m false else s

def execPut (m : YttFrame) (s : State) : Out := yttReceive 1 m (onTheirFlow m (fun _ s => s) (takePut m)) s

/-- The rows that a GET has read are sent in DATA frames, the last with LAST (R366). -/
def sendRows (m : YttFrame) (bs : List Byte) (s : State) : State :=
  (frameRows m.rows.toNat m.rlen.toNat).foldl (fun s r =>
    let bytes := (bs.drop (r.1 * m.rlen.toNat)).take (r.2 * m.rlen.toNat)
    let f := yttFrame 3 m.dst m.src (BitVec.ofNat 64 (m.addr.toNat + r.1 * m.pitch.toNat)) m.seq bytes
    s.yttAnswer m { f with fl := if r.1 + r.2 = m.rows.toNat then 1 else 0, rows := BitVec.ofNat 16 r.2,
                           rlen := m.rlen, pitch := m.pitch, cmd := m.cmd }) s

/-- GET: accepted, then answered by its rows. One that has read some of its bytes only is not accepted yet, and comes
again. -/
def takeGet (m : YttFrame) (s : State) : State :=
  match s.yttPieces m .read (yttRows m) with
  | .error e => (e.2.yttAccept m false).yttRefuse m e.1
  | .ok (_, ps) =>
    if ps.any (piecesPoisoned s) then (s.yttAccept m false).yttRefuse m refuseMemory
    else
      let (n, s) := s.choice
      let part := (s.theirFlow m).partOf m.seq
      if n = 0 ∧ part = [] then sendRows m (ps.flatMap s.dev.readPieces) (s.yttAccept m false)
      else
        let r := s.readOn ps.flatten n part
        let s := r.2.setPart m r.1
        if r.1.all Option.isSome then sendRows m (r.1.map fun b => b.getD 0) (s.yttAccept m false) else s

def execGet (m : YttFrame) (s : State) : Out := yttReceive 2 m (onTheirFlow m (fun _ s => s) (takeGet m)) s

/-- Keep the response of an ATOMIC: the last 256 of the flow. -/
def YttFlow.keep (f : YttFlow) (seq : W32) : YttFlow :=
  match f.out.getLast? with
  | some o =>
    let kept := f.kept ++ [(seq, o.f)]
    { f with kept := kept.drop (kept.length - 256) }
  | none => f

/-- The write of an atomic: single-copy atomic where it lies in one piece (R257). -/
def State.writeAtomic (s : State) (ctx : W32) (ps : List (Phys × Nat)) (bs : List Byte) : State :=
  match ps with
  | [x] => s.homeWrite 256 .atom ctx x.1.pidx false x.1.pa bs
  | _ => s.writePieces 256 ctx false ps bs

/-- The read and the write of an ATOMIC of `n` bytes: the old value and the new state. Plain stores that share part of its
bytes are performed byte by byte around it, as the model's list of choices says (R257). -/
def remoteRmw (m : YttFrame) (n : Nat) (ctx : W32) (ps : List (Phys × Nat)) (s : State) : Nat × State :=
  let op := (AtomOp.ofCode (m.arg.extractLsb' 0 4)).getD .add
  let act (s : State) : Nat × State :=
    let old := ofBytes (s.dev.readPieces ps)
    let new := atomNew op n old (ofBytes (m.payload.take 8) % 2 ^ (8 * n)) (ofBytes (m.payload.drop 8) % 2 ^ (8 * n))
    (old, s.writeAtomic ctx ps (leBytes n new))
  match ps with
  | [x] =>
    let picks := drawEach (s.partlyAt x.1.pa n) s
    picks.2.storeAround act (picks.1.filter fun y => y.2 % 2 ^ y.1.2.bytes.length != 0)
  | _ => act s

/-- ATOMIC: executed once at this device's fabric port (R273), after the stores that are performed at DEVICE. -/
def takeAtomic (m : YttFrame) (s : State) : State :=
  let n := if m.arg.getLsbD 4 then 8 else 4
  let s := s.yttAccept m false
  match s.yttPieces m .atomic [(m.addr.toNat, n)] with
  | .error e => e.2.yttRefuse m e.1
  | .ok (ctx, ps) =>
    if ps.any (piecesPoisoned s) then s.yttRefuse m refuseMemory
    else
      let r := remoteRmw m n ctx ps.flatten s
      let s := r.2.yttAnswer m { yttFrame 5 m.dst m.src 0 m.seq (leBytes 8 r.1) with cmd := m.cmd, fl := 1 }
      { s with ytt := s.ytt.setFlow ((s.theirFlow m).keep m.seq) }

/-- A resent ATOMIC is answered with the response kept. -/
def answerAgain (m : YttFrame) (f : YttFlow) (s : State) : State :=
  match f.kept.find? fun x => x.1 == m.seq with
  | some x => s.yttEmit x.2
  | none => s

def execAtomic (m : YttFrame) (s : State) : Out := yttReceive 4 m (onTheirFlow m (answerAgain m) (takeAtomic m)) s

/-! ### Answers to our own commands (R366, R368) -/

/-- What an answer says: the old value of an atomic, or the cause that ends the job. -/
inductive YttAnswer where
  | value (v : W64)
  | failed (cause : Cause)
  deriving DecidableEq, Repr, Inhabited

def YttAnswer.value? : YttAnswer → Option W64
  | .value v => some v
  | .failed _ => none

/-- The answer of a thread's atomic: its registers, with the acquire of `.ACQ`, or the fault TRANSLATION (R368). -/
def answerThread (c : CoreNo) (lane slot : Nat) (flow : W32) (a : YttAnswer) (s : State) : State :=
  match s.thread c lane slot with
  | none => s
  | some th =>
    let hit (x : LPend × Nat) : Option (Nat × LPend × Bool × W64 × LaneWhere) :=
      match x.1.res with
      | .remote f acq addr pl => if f = flow then some (x.2, x.1, acq, addr, pl) else none
      | .vals _ | .nested _ | .load _ => none
    match (th.pend.zipIdx.filterMap hit).head? with
    | none => s
    | some (k, p, acq, addr, pl) =>
      match a with
      | .value v =>
        let ws := if p.n = 2 then [v.extractLsb' 0 32, v.extractLsb' 32 32] else [v.extractLsb' 0 32]
        let s := s.updThread c lane slot fun th => th.arrive k ws
        if acq then s.acquire c (.thread lane slot) .system else s
      | .failed _ =>
        let s := s.updThread c lane slot fun th =>
          { th with pend := th.pend.eraseIdx k, wait := .faulted, park := .none }
        s.updCore c fun k => k.abortTeam th.team { cause := .translation, addr := addr, lane := some pl }

/-- A job of ours has its answer, or ends. A core whose clock is stopped takes none: the frame comes again. -/
def State.jobAnswer (s : State) (f : YttFlow) (a : YttAnswer) : Option State :=
  match f.job with
  | none => some s
  | some (.saved ctx slot lane thr) => some (s.remoteToImage ctx slot lane thr f.flow a.value?)
  | some (.cmd c id) =>
    match (s.core c).cmd? id, a with
    | some m, .failed cause =>
      if (s.core c).moving && m.st == .running then some (failCmd c m cause 0 s) else none
    | _, _ => some s
  | some (.seqAtomic c) =>
    if (s.core c).health.clockStop then none
    else if (s.core c).seq.remote ≠ .flight f.flow then some s
    else some (s.updSeq c fun q => { q with remote := match a with | .value v => .value v | .failed _ => .failed })
  | some (.laneAtomic c lane slot) =>
    if (s.core c).health.clockStop then none else some (answerThread c lane slot f.flow a s)

/-- The job of a flow is over: nothing of it is resent. -/
def State.endJob (s : State) (f : YttFlow) : State :=
  let flows := s.ytt.flows.map fun (x : YttFlow) =>
    if x.flow = f.flow ∧ x.ours = f.ours ∧ x.peer = f.peer then { x with job := none, out := [] } else x
  { s with ytt := { s.ytt with flows := flows } }

/-- A frame on a flow of ours: a duplicate is acknowledged again, a frame of no flow of ours is dropped, and one that
`act` does not take now is not acknowledged and comes again. -/
def onOurFlow (m : YttFrame) (act : YttFlow → State → Option State) (s : State) : State :=
  match s.ytt.flow? m.flow true m.src with
  | none => s
  | some f =>
    if f.accepted.contains m.seq then s.yttSendAck m f
    else
      match act f s with
      | none => s
      | some t => t.yttAccept m true

/-- ATOMIC_RESP: the old value. A command has no atomic, so its flow takes none. -/
def takeResp (m : YttFrame) (f : YttFlow) (s : State) : Option State :=
  match f.job with
  | some (.cmd _ _) => some s
  | _ => (s.jobAnswer f (.value (BitVec.ofNat 64 (ofBytes m.payload)))).map fun t => t.endJob f

def execAtomicResp (m : YttFrame) (s : State) : Out := yttReceive 5 m (onOurFlow m (takeResp m)) s

/-- REFUSE: REMOTE_FAULT for a command, TRANSLATION for an atomic. -/
def takeRefuse (f : YttFlow) (s : State) : Option State :=
  (s.jobAnswer f (.failed .remoteFault)).map fun t => t.endJob f

def execRefuse (m : YttFrame) (s : State) : Out := yttReceive 7 m (onOurFlow m takeRefuse) s

/-! ### DATA (R164, R366) -/

/-- The rows of the command that a DATA frame carries: the first and how many; none when they are not rows of it. -/
def dataRows (d : Desc) (x : Cmd) (m : YttFrame) : Option (Nat × Nat) :=
  let off := m.addr.toNat - x.addr.toNat
  let first := off / x.pitch
  if m.addr.toNat < x.addr.toNat ∨ off % x.pitch ≠ 0 ∨ m.rlen.toNat ≠ d.rbytes ∨ d.rows < first + m.rows.toNat then none
  else some (first, m.rows.toNat)

/-- Write the rows of a frame into the tile. -/
def landRows (c : CoreNo) (d : Desc) (first n : Nat) (bs : List Byte) (s : State) : State :=
  (List.range n).foldl (fun s i =>
    s.kwrite c (d.base + (first + i) * d.pitch) ((bs.drop (i * d.rbytes)).take d.rbytes)) s

/-- The rows of a frame are on their way into the tile, to be written byte by byte (R257). -/
def Cmd.arriving (m : Cmd) (d : Desc) (first : Nat) (ps : List Nat) (bs : List Byte) : Cmd :=
  { m with part := m.part ++ (ps.filter fun i => !(m.part.any fun p => p.piece == i)).map fun i =>
      { piece := i, got := ((bs.drop ((i - first) * d.rbytes)).take d.rbytes).map some, left := List.range d.rbytes } }

/-- DATA: the rows land, as one landing; or, where the model's list of choices asks for it, they go on their way. -/
def takeData (m : YttFrame) (f : YttFlow) (s : State) : Option State :=
  match f.job with
  | some (.cmd c id) =>
    match (s.core c).cmd? id with
    | none => some s
    | some x =>
      let d := Desc.of x.dst
      if (s.core c).moving = false then none
      else if x.kind ≠ .pull ∨ x.st ≠ .running then some s
      else
        match dataRows d x m with
        | none => some s
        | some (first, n) =>
          let ps := ((List.range n).map (first + ·)).filter fun i => !x.landed.contains i
          match cmdBarrier c x s with
          | .wait _ => none
          | .fail cause a => some (failCmd c x cause a s)
          | .at pl =>
            let (later, s) := s.choice
            if later = 0 ∧ x.part = [] then
              some (subtractLanding c x pl ps (ps.length * d.rbytes) (landRows c d first n m.payload s))
            else some (s.updCore c fun k => k.updCmd id fun x => x.arriving d first ps m.payload)
  | _ => some s

/-- The walk that a DATA frame's barrier needs begins when the frame arrives. -/
def dataWalk (m : YttFrame) (s : State) : State :=
  match s.ytt.flow? m.flow true m.src with
  | some f =>
    match f.job with
    | some (.cmd c id) =>
      match (s.core c).cmd? id with
      | some x =>
        if (s.core c).moving && x.st == .running then
          match cmdBarrier c x s with
          | .wait t => t
          | .fail _ _ | .at _ => s
        else s
      | none => s
    | _ => s
  | none => s

def execData (m : YttFrame) (s : State) : Out :=
  yttReceive 3 m (fun s => onOurFlow m (takeData m) (dataWalk m s)) s

/-! ### ACK (R364, R366) -/

/-- SEQs that an ACK acknowledges. -/
def ackCovers (m : YttFrame) (seq : W32) : Bool :=
  let i := (seq - m.arg).toNat
  decide (seq.toNat < m.arg.toNat) || (decide (i < 256) && (ofBytes m.payload).testBit i)

/-- Drop an acknowledged frame of a flow. -/
def State.yttAcked (s : State) (f : YttFlow) (seq : W32) : State :=
  match s.ytt.flow? f.flow f.ours f.peer with
  | none => s
  | some g => { s with ytt := s.ytt.setFlow { g with out := g.out.filter fun o => o.f.seq != seq } }

/-- A frame of a flow is acknowledged; the rows of a PUT have landed (R168). A landing that must wait for a
translation leaves the frame: the next ACK takes it. -/
def ackFrame (f : YttFlow) (o : YttOut) (s : State) : State :=
  match f.job, o.f.typ == 1 with
  | some (.cmd c id), true =>
    match (s.core c).cmd? id with
    | none => s.yttAcked f o.f.seq
    | some x =>
      if (s.core c).moving = false then s
      else if x.st ≠ .running then s.yttAcked f o.f.seq
      else
        let d := Desc.of x.src
        match cmdBarrier c x s with
        | .wait t => t
        | .fail cause a => failCmd c x cause a s
        | .at pl =>
          let ps := match dataRows d x o.f with
            | some (first, n) => (List.range n).map (first + ·)
            | none => []
          subtractLanding c x pl ps (ps.length * d.rbytes) (s.yttAcked f o.f.seq)
  | _, _ => s.yttAcked f o.f.seq

/-- YTT_ACK: on a flow of ours first, else on the peer's (log entry 47). -/
def takeAck (m : YttFrame) (s : State) : State :=
  let f? := match s.ytt.flow? m.flow true m.src with
    | some f => some f
    | none => s.ytt.flow? m.flow false m.src
  match f? with
  | none => s
  | some f => (f.out.filter fun o => ackCovers m o.f.seq).foldl (fun s o => ackFrame f o s) s

def execYttAck (m : YttFrame) (s : State) : Out := yttReceive 6 m (takeAck m) s

/-! ### YTT_RETRANSMIT (R364) -/

/-- The frames of these numbers that have been unacknowledged for `YRTO` ticks, each with its flow; two devices may number
flows alike (log entry 47). -/
def Ytt.overdue (y : Ytt) (flow seq : W32) (now : Nat) : List (YttFlow × YttOut) :=
  (y.flows.filter fun f => f.flow == flow).flatMap fun f =>
    (f.out.filter fun o => o.f.seq == seq && decide (y.rto.toNat ≤ now - o.last)).map fun o => (f, o)

/-- Give up on a frame: the command ends with REMOTE_UNREACHABLE, an atomic takes TRANSLATION. -/
def giveUp (f : YttFlow) (o : YttOut) (s : State) : State :=
  if f.ours then
    match s.jobAnswer f (.failed .remoteUnreachable) with
    | some t => t.endJob f
    | none => s
  else s.yttAcked f o.f.seq

/-- Send a frame again, or give it up after `YRETRY` sends. -/
def resend (x : YttFlow × YttOut) (s : State) : State :=
  if s.ytt.retry.toNat ≤ x.2.sends then giveUp x.1 x.2 s
  else
    let out := x.1.out.map fun o => if o.f.seq = x.2.f.seq then { o with sends := o.sends + 1, last := s.ticks } else o
    ({ s with ytt := s.ytt.setFlow { x.1 with out := out } } : State).yttEmit x.2.f

/-- YTT_RETRANSMIT: a frame of these numbers is overdue; of several, the one that the model's list of choices names. -/
def execYttRetransmit (flow seq : W32) (s : State) : Out :=
  match s.ytt.overdue flow seq s.ticks with
  | [] => .next s
  | [x] => .next (resend x s)
  | x :: xs =>
    let (n, s) := s.choice
    .next (resend ((x :: xs).getD (n % (xs.length + 1)) x) s)

end Sys2Proof.Machine
end

