-- ==== Sys2Proof/Machine/Dispatch.lean ====
section
/-! DEFINITION. One arm per instruction and step: each is one call of its meaning. -/

namespace Sys2Proof.Machine

open Sys2Proof

def exec (i : Instr) (s : State) : Host.Outcome State Fault Refusal :=
  match i with
  | .add x => Sys2Proof.Machine.execAdd x s
  | .sub x => Sys2Proof.Machine.execSub x s
  | .mul x => Sys2Proof.Machine.execMul x s
  | .mulh x => Sys2Proof.Machine.execMulh x s
  | .madd x => Sys2Proof.Machine.execMadd x s
  | .div x => Sys2Proof.Machine.execDiv x s
  | .divu x => Sys2Proof.Machine.execDivu x s
  | .rem x => Sys2Proof.Machine.execRem x s
  | .remu x => Sys2Proof.Machine.execRemu x s
  | .tileAnd x => Sys2Proof.Machine.execTileAnd x s
  | .tileOr x => Sys2Proof.Machine.execTileOr x s
  | .tileXor x => Sys2Proof.Machine.execTileXor x s
  | .tileAndn x => Sys2Proof.Machine.execTileAndn x s
  | .tileShl x => Sys2Proof.Machine.execTileShl x s
  | .tileShr x => Sys2Proof.Machine.execTileShr x s
  | .tileSar x => Sys2Proof.Machine.execTileSar x s
  | .min x => Sys2Proof.Machine.execMin x s
  | .max x => Sys2Proof.Machine.execMax x s
  | .minu x => Sys2Proof.Machine.execMinu x s
  | .maxu x => Sys2Proof.Machine.execMaxu x s
  | .tileClz x => Sys2Proof.Machine.execTileClz x s
  | .tilePopc x => Sys2Proof.Machine.execTilePopc x s
  | .tileMov x => Sys2Proof.Machine.execTileMov x s
  | .tileSel x => Sys2Proof.Machine.execTileSel x s
  | .cmp x => Sys2Proof.Machine.execCmp x s
  | .pand x => Sys2Proof.Machine.execPand x s
  | .por x => Sys2Proof.Machine.execPor x s
  | .pxor x => Sys2Proof.Machine.execPxor x s
  | .pnot x => Sys2Proof.Machine.execPnot x s
  | .lds x => Sys2Proof.Machine.execLds x s
  | .sts x => Sys2Proof.Machine.execSts x s
  | .tileLdk x => Sys2Proof.Machine.execTileLdk x s
  | .tileStk x => Sys2Proof.Machine.execTileStk x s
  | .atoms x => Sys2Proof.Machine.execAtoms x s
  | .tileFence x => Sys2Proof.Machine.execTileFence x s
  | .br x => Sys2Proof.Machine.execBr x s
  | .jmp a => Sys2Proof.Machine.execJmp a s
  | .tileCall x => Sys2Proof.Machine.execTileCall x s
  | .tileRet a => Sys2Proof.Machine.execTileRet a s
  | .loop x => Sys2Proof.Machine.execLoop x s
  | .srd x => Sys2Proof.Machine.execSrd x s
  | .swr x => Sys2Proof.Machine.execSwr x s
  | .tileTrap a => Sys2Proof.Machine.execTileTrap a s
  | .eret => Sys2Proof.Machine.execEret s
  | .tileNop => Sys2Proof.Machine.execTileNop s
  | .safept a => Sys2Proof.Machine.execSafept a s
  | .taskEnd => Sys2Proof.Machine.execTaskEnd s
  | .lit x => Sys2Proof.Machine.execLit x s
  | .tdescl x => Sys2Proof.Machine.execTdescl x s
  | .mma x => Sys2Proof.Machine.execMma x s
  | .accld x => Sys2Proof.Machine.execAccld x s
  | .accst x => Sys2Proof.Machine.execAccst x s
  | .accz x => Sys2Proof.Machine.execAccz x s
  | .tcvt x => Sys2Proof.Machine.execTcvt x s
  | .qnt x => Sys2Proof.Machine.execQnt x s
  | .dqnt x => Sys2Proof.Machine.execDqnt x s
  | .had x => Sys2Proof.Machine.execHad x s
  | .perm x => Sys2Proof.Machine.execPerm x s
  | .routineDispatch x => Sys2Proof.Machine.execRoutineDispatch x s
  | .cpyIn x => Sys2Proof.Machine.execCpyIn x s
  | .cpyOut x => Sys2Proof.Machine.execCpyOut x s
  | .cpyKk x => Sys2Proof.Machine.execCpyKk x s
  | .gth x => Sys2Proof.Machine.execGth x s
  | .sct x => Sys2Proof.Machine.execSct x s
  | .pft x => Sys2Proof.Machine.execPft x s
  | .rcpyPull x => Sys2Proof.Machine.execRcpyPull x s
  | .rcpyPush x => Sys2Proof.Machine.execRcpyPush x s
  | .mcast x => Sys2Proof.Machine.execMcast x s
  | .binit x => Sys2Proof.Machine.execBinit x s
  | .tileBarv x => Sys2Proof.Machine.execTileBarv x s
  | .bexp x => Sys2Proof.Machine.execBexp x s
  | .tileBwait x => Sys2Proof.Machine.execTileBwait x s
  | .tileBtry x => Sys2Proof.Machine.execTileBtry x s
  | .pclose a => Sys2Proof.Machine.execPclose a s
  | .ppeek x => Sys2Proof.Machine.execPpeek x s
  | .pread x => Sys2Proof.Machine.execPread x s
  | .preadHdr x => Sys2Proof.Machine.execPreadHdr x s
  | .preset a => Sys2Proof.Machine.execPreset a s
  | .psett x => Sys2Proof.Machine.execPsett x s
  | .lsupd x => Sys2Proof.Machine.execLsupd x s
  | .launch a => Sys2Proof.Machine.execLaunch a s
  | .dqpush x => Sys2Proof.Machine.execDqpush x s
  | .tdesc x => Sys2Proof.Machine.execTdesc x s
  | .tget x => Sys2Proof.Machine.execTget x s
  | .bind x => Sys2Proof.Machine.execBind x s
  | .bindrd x => Sys2Proof.Machine.execBindrd x s
  | .qsinit x => Sys2Proof.Machine.execQsinit x s
  | .iadd x => Sys2Proof.Machine.execIadd x s
  | .isub x => Sys2Proof.Machine.execIsub x s
  | .imul x => Sys2Proof.Machine.execImul x s
  | .imulh x => Sys2Proof.Machine.execImulh x s
  | .imad x => Sys2Proof.Machine.execImad x s
  | .iadd64 x => Sys2Proof.Machine.execIadd64 x s
  | .idiv x => Sys2Proof.Machine.execIdiv x s
  | .idivu x => Sys2Proof.Machine.execIdivu x s
  | .irem x => Sys2Proof.Machine.execIrem x s
  | .iremu x => Sys2Proof.Machine.execIremu x s
  | .imin x => Sys2Proof.Machine.execImin x s
  | .imax x => Sys2Proof.Machine.execImax x s
  | .iminu x => Sys2Proof.Machine.execIminu x s
  | .imaxu x => Sys2Proof.Machine.execImaxu x s
  | .iabs x => Sys2Proof.Machine.execIabs x s
  | .ineg x => Sys2Proof.Machine.execIneg x s
  | .laneAnd x => Sys2Proof.Machine.execLaneAnd x s
  | .laneOr x => Sys2Proof.Machine.execLaneOr x s
  | .laneXor x => Sys2Proof.Machine.execLaneXor x s
  | .laneAndn x => Sys2Proof.Machine.execLaneAndn x s
  | .bitfn x => Sys2Proof.Machine.execBitfn x s
  | .laneShl x => Sys2Proof.Machine.execLaneShl x s
  | .laneShr x => Sys2Proof.Machine.execLaneShr x s
  | .laneSar x => Sys2Proof.Machine.execLaneSar x s
  | .rotr x => Sys2Proof.Machine.execRotr x s
  | .lanePopc x => Sys2Proof.Machine.execLanePopc x s
  | .laneClz x => Sys2Proof.Machine.execLaneClz x s
  | .brev x => Sys2Proof.Machine.execBrev x s
  | .bfe x => Sys2Proof.Machine.execBfe x s
  | .bfi x => Sys2Proof.Machine.execBfi x s
  | .permb x => Sys2Proof.Machine.execPermb x s
  | .laneSel x => Sys2Proof.Machine.execLaneSel x s
  | .icmp x => Sys2Proof.Machine.execIcmp x s
  | .fcmp x => Sys2Proof.Machine.execFcmp x s
  | .predfn x => Sys2Proof.Machine.execPredfn x s
  | .pmovToRegister x => Sys2Proof.Machine.execPmovToRegister x s
  | .pmovToPredicates x => Sys2Proof.Machine.execPmovToPredicates x s
  | .fadd x => Sys2Proof.Machine.execFadd x s
  | .fsub x => Sys2Proof.Machine.execFsub x s
  | .fmul x => Sys2Proof.Machine.execFmul x s
  | .ffma x => Sys2Proof.Machine.execFfma x s
  | .fmin x => Sys2Proof.Machine.execFmin x s
  | .fmax x => Sys2Proof.Machine.execFmax x s
  | .fdiv x => Sys2Proof.Machine.execFdiv x s
  | .fsqrt x => Sys2Proof.Machine.execFsqrt x s
  | .frcp x => Sys2Proof.Machine.execFrcp x s
  | .frsq x => Sys2Proof.Machine.execFrsq x s
  | .fexp2 x => Sys2Proof.Machine.execFexp2 x s
  | .flog2 x => Sys2Proof.Machine.execFlog2 x s
  | .ftanh x => Sys2Proof.Machine.execFtanh x s
  | .pkadd x => Sys2Proof.Machine.execPkadd x s
  | .pkmul x => Sys2Proof.Machine.execPkmul x s
  | .pkfma x => Sys2Proof.Machine.execPkfma x s
  | .pkmin x => Sys2Proof.Machine.execPkmin x s
  | .pkmax x => Sys2Proof.Machine.execPkmax x s
  | .cvt x => Sys2Proof.Machine.execCvt x s
  | .cvtpk x => Sys2Proof.Machine.execCvtpk x s
  | .cvtunpk x => Sys2Proof.Machine.execCvtunpk x s
  | .pwenc x => Sys2Proof.Machine.execPwenc x s
  | .pwdec x => Sys2Proof.Machine.execPwdec x s
  | .idp4 x => Sys2Proof.Machine.execIdp4 x s
  | .fdp2 x => Sys2Proof.Machine.execFdp2 x s
  | .laneMov x => Sys2Proof.Machine.execLaneMov x s
  | .movi x => Sys2Proof.Machine.execMovi x s
  | .movhi x => Sys2Proof.Machine.execMovhi x s
  | .sread x => Sys2Proof.Machine.execSread x s
  | .xpair x => Sys2Proof.Machine.execXpair x s
  | .xpick x => Sys2Proof.Machine.execXpick x s
  | .xback x => Sys2Proof.Machine.execXback x s
  | .xfwd x => Sys2Proof.Machine.execXfwd x s
  | .xone x => Sys2Proof.Machine.execXone x s
  | .poll x => Sys2Proof.Machine.execPoll x s
  | .red x => Sys2Proof.Machine.execRed x s
  | .bra x => Sys2Proof.Machine.execBra x s
  | .brx x => Sys2Proof.Machine.execBrx x s
  | .laneCall x => Sys2Proof.Machine.execLaneCall x s
  | .laneRet x => Sys2Proof.Machine.execLaneRet x s
  | .retTr x => Sys2Proof.Machine.execRetTr x s
  | .exit x => Sys2Proof.Machine.execExit x s
  | .yield x => Sys2Proof.Machine.execYield x s
  | .laneNop x => Sys2Proof.Machine.execLaneNop x s
  | .rep x => Sys2Proof.Machine.execRep x s
  | .ld x => Sys2Proof.Machine.execLd x s
  | .st x => Sys2Proof.Machine.execSt x s
  | .laneLdk x => Sys2Proof.Machine.execLaneLdk x s
  | .laneStk x => Sys2Proof.Machine.execLaneStk x s
  | .ldp x => Sys2Proof.Machine.execLdp x s
  | .stp x => Sys2Proof.Machine.execStp x s
  | .ldc x => Sys2Proof.Machine.execLdc x s
  | .atom x => Sys2Proof.Machine.execAtom x s
  | .atomcas x => Sys2Proof.Machine.execAtomcas x s
  | .laneFence x => Sys2Proof.Machine.execLaneFence x s
  | .laneBarv x => Sys2Proof.Machine.execLaneBarv x s
  | .laneBwait x => Sys2Proof.Machine.execLaneBwait x s
  | .laneBtry x => Sys2Proof.Machine.execLaneBtry x s
  | .qpush x => Sys2Proof.Machine.execQpush x s
  | .qpop x => Sys2Proof.Machine.execQpop x s
  | .qcnt x => Sys2Proof.Machine.execQcnt x s
  | .qend x => Sys2Proof.Machine.execQend x s
  | .ltop x => Sys2Proof.Machine.execLtop x s
  | .lmma x => Sys2Proof.Machine.execLmma x s
  | .dqpop x => Sys2Proof.Machine.execDqpop x s
  | .rng x => Sys2Proof.Machine.execRng x s
  | .ctradd x => Sys2Proof.Machine.execCtradd x s
  | .mstep x => Sys2Proof.Machine.execMstep x s
  | .laneTrap x => Sys2Proof.Machine.execLaneTrap x s
  | .brk x => Sys2Proof.Machine.execBrk x s
  | .longLatencyResult core lane slot k => Sys2Proof.Machine.execLongLatencyResult core lane slot k s
  | .sequencerResult core k => Sys2Proof.Machine.execSequencerResult core k s
  | .engineOpStart core conv => Sys2Proof.Machine.execEngineOpStart core conv s
  | .teamAdmission core => Sys2Proof.Machine.execTeamAdmission core s
  | .pedigreeScan core op => Sys2Proof.Machine.execPedigreeScan core op s
  | .opCompletion core op => Sys2Proof.Machine.execOpCompletion core op s
  | .watchdog core op => Sys2Proof.Machine.execWatchdog core op s
  | .faultDelivery core => Sys2Proof.Machine.execFaultDelivery core s
  | .retrieverCommandStart core q => Sys2Proof.Machine.execRetrieverCommandStart core q s
  | .retrieverLanding core cmd piece => Sys2Proof.Machine.execRetrieverLanding core cmd piece s
  | .barrierWaitRelease core who => Sys2Proof.Machine.execBarrierWaitRelease core who s
  | .collectiveCompletion core lane slot => Sys2Proof.Machine.execCollectiveCompletion core lane slot s
  | .fairnessTimerExpiry core group op => Sys2Proof.Machine.execFairnessTimerExpiry core group op s
  | .bindUpdateArrival core => Sys2Proof.Machine.execBindUpdateArrival core s
  | .foldPerformed core k => Sys2Proof.Machine.execFoldPerformed core k s
  | .partialForward slice ctx idx => Sys2Proof.Machine.execPartialForward slice ctx idx s
  | .closeDrain ctx idx slice => Sys2Proof.Machine.execCloseDrain ctx idx slice s
  | .closeCopy ctx idx => Sys2Proof.Machine.execCloseCopy ctx idx s
  | .pedigreeRequestAtHome core => Sys2Proof.Machine.execPedigreeRequestAtHome core s
  | .storePerformed core k => Sys2Proof.Machine.execStorePerformed core k s
  | .pageWalkComplete core va => Sys2Proof.Machine.execPageWalkComplete core va s
  | .invalidationDone ctx => Sys2Proof.Machine.execInvalidationDone ctx s
  | .scrubGranule g => Sys2Proof.Machine.execScrubGranule g s
  | .clockGate core => Sys2Proof.Machine.execClockGate core s
  | .nodeRecordRead q => Sys2Proof.Machine.execNodeRecordRead q s
  | .condEvaluation q => Sys2Proof.Machine.execCondEvaluation q s
  | .joinNodeRelease q => Sys2Proof.Machine.execJoinNodeRelease q s
  | .replenishment q => Sys2Proof.Machine.execReplenishment q s
  | .overrun q => Sys2Proof.Machine.execOverrun q s
  | .shepherdChoice part => Sys2Proof.Machine.execShepherdChoice part s
  | .taskStart core => Sys2Proof.Machine.execTaskStart core s
  | .taskRetire core => Sys2Proof.Machine.execTaskRetire core s
  | .nodeCompletion q => Sys2Proof.Machine.execNodeCompletion q s
  | .qleadExpiry q => Sys2Proof.Machine.execQleadExpiry q s
  | .launchAccept core => Sys2Proof.Machine.execLaunchAccept core s
  | .childGridCompletion grid => Sys2Proof.Machine.execChildGridCompletion grid s
  | .swapOut core => Sys2Proof.Machine.execSwapOut core s
  | .taskResume core => Sys2Proof.Machine.execTaskResume core s
  | .checkpointSave core => Sys2Proof.Machine.execCheckpointSave core s
  | .lastCall slot => Sys2Proof.Machine.execLastCall slot s
  | .saveImageWritten core => Sys2Proof.Machine.execSaveImageWritten core s
  | .kickReread q => Sys2Proof.Machine.execKickReread q s
  | .event session => Sys2Proof.Machine.execEvent session s
  | .eventResend session => Sys2Proof.Machine.execEventResend session s
  | .yttRetransmit flow seq => Sys2Proof.Machine.execYttRetransmit flow seq s
  | .translationInvalidation ctx g => Sys2Proof.Machine.execTranslationInvalidation ctx g s
  | .eccError place hard syndrome => Sys2Proof.Machine.execEccError place hard syndrome s
  | .coreWake core cause => Sys2Proof.Machine.execCoreWake core cause s
  | .queueEnable q v => Sys2Proof.Machine.execQueueEnable q v s
  | .queueDisable q => Sys2Proof.Machine.execQueueDisable q s
  | .temperatureSample core celsius => Sys2Proof.Machine.execTemperatureSample core celsius s
  | .droopEvent core => Sys2Proof.Machine.execDroopEvent core s
  | .recallPost v => Sys2Proof.Machine.execRecallPost v s
  | .recallRelease v => Sys2Proof.Machine.execRecallRelease v s
  | .recallShrink v => Sys2Proof.Machine.execRecallShrink v s
  | .remoteAtomicToImage ctx slot lane thr result => Sys2Proof.Machine.execRemoteAtomicToImage ctx slot lane thr result s
  | .powerWindow watts mhz lowered => Sys2Proof.Machine.execPowerWindow watts mhz lowered s
  | .thermalStop core => Sys2Proof.Machine.execThermalStop core s
  | .thermalResume core => Sys2Proof.Machine.execThermalResume core s
  | .write m => Sys2Proof.Machine.execWrite m s
  | .read m => Sys2Proof.Machine.execRead m s
  | .kick m => Sys2Proof.Machine.execKick m s
  | .ack m => Sys2Proof.Machine.execAck m s
  | .recovery m => Sys2Proof.Machine.execRecovery m s
  | .sessionOpen m => Sys2Proof.Machine.execSessionOpen m s
  | .sessionClose m => Sys2Proof.Machine.execSessionClose m s
  | .regRead m => Sys2Proof.Machine.execRegRead m s
  | .regWrite m => Sys2Proof.Machine.execRegWrite m s
  | .imageLoad m => Sys2Proof.Machine.execImageLoad m s
  | .eventRoute m => Sys2Proof.Machine.execEventRoute m s
  | .faultAnswer m => Sys2Proof.Machine.execFaultAnswer m s
  | .contextCreate m => Sys2Proof.Machine.execContextCreate m s
  | .keyRead m => Sys2Proof.Machine.execKeyRead m s
  | .attest m => Sys2Proof.Machine.execAttest m s
  | .migrateOut m => Sys2Proof.Machine.execMigrateOut m s
  | .partitionSet m => Sys2Proof.Machine.execPartitionSet m s
  | .contextDestroy m => Sys2Proof.Machine.execContextDestroy m s
  | .migrateIn m => Sys2Proof.Machine.execMigrateIn m s
  | .neighbourSolicitation src target => Sys2Proof.Machine.execNeighbourSolicitation src target s
  | .echoRequest src dst data => Sys2Proof.Machine.execEchoRequest src dst data s
  | .put m => Sys2Proof.Machine.execPut m s
  | .get m => Sys2Proof.Machine.execGet m s
  | .data m => Sys2Proof.Machine.execData m s
  | .atomic m => Sys2Proof.Machine.execAtomic m s
  | .atomicResp m => Sys2Proof.Machine.execAtomicResp m s
  | .yttAck m => Sys2Proof.Machine.execYttAck m s
  | .refuse m => Sys2Proof.Machine.execRefuse m s
  | .powerUp => Sys2Proof.Machine.execPowerUp s
  | .runtimeWatchdog => Sys2Proof.Machine.execRuntimeWatchdog s
  | .debugRequest core lane slot => Sys2Proof.Machine.execDebugRequest core lane slot s
  | .unacceptedFrame port why => Sys2Proof.Machine.execUnacceptedFrame port why s
  | .portLinkChange port up => Sys2Proof.Machine.execPortLinkChange port up s

end Sys2Proof.Machine
end

