-- ==== Sys2Proof/Machine/Step.lean ====
section
/-! DEFINITION. One step of the machine: the next turn, the instruction that it runs, and the arbiter afterwards. -/

namespace Sys2Proof.Machine

open Sys2Proof

/-- The next turn: the first of the agenda, or the automatic order's. -/
def nextTurn (s : State) : Turn × State :=
  match s.sched.agenda with
  | e :: rest => (e.turn, (s.setSched { s.sched with agenda := rest }).pass e.dt)
  | [] => autoTurn s

/-- Run what a turn has fetched. -/
def runMove (m : Move) : Host.Outcome State Fault Refusal :=
  match m with
  | .done t => .next t
  | .run i t => exec i t
  | .lanes i n t =>
    match exec i t with
    | .next u => .next (afterIssue n u)
    | .fault f => .fault f
    | .refused r => .refused r

def step (s : State) : Host.Outcome State Fault Refusal :=
  capped (nextTurn s).2 (runMove (turnMove (nextTurn s).1 (nextTurn s).2))

/-- A task that holds a code for `withFetchWord`. -/
def fetchTask : Task := { ctx := 0, queue := 0, grid := none, rcd := {}, n := 0, startTick := 0, replay := false }

/-- Core 0 runs a task whose tile code is the two words of `w`; its next turn fetches the first. -/
def State.withTileWord (s : State) (v : Nat) : State :=
  let s := s.updCore 0 fun k =>
    { k with task := some fetchTask, health := { k.health with gated := false, clockStop := false },
             seq := { k.seq with mode := .run, pc := 0, code := [BitVec.ofNat 64 v, BitVec.ofNat 64 (v / 2 ^ 64)] } }
  s.setSched { s.sched with agenda := ⟨0, .seq 0⟩ :: s.sched.agenda }

/-- Core 0 runs a task with one team, whose one live thread on lane 0 stands at a lane word. -/
def State.withLaneWord (s : State) (v : Nat) : State :=
  let entry : BindEntry := { w0 := BitVec.ofNat 64 (2 ^ 63 + 64 * 2 ^ 39 + 47 * 2 ^ 33), w1 := 0x1000 }
  let rcd : IssueRec := { pc := 0, word := { idx := 0x40, d := .l 0, a := .l 0, b := .l 0, c := .l 0, md := 0 },
                          d := .val 0, a := .val 0, b := .val 0, c := .val 0, dreg := none }
  let op : Op := { id := 0, rcd := rcd, entry := entry, dtag := 0, q := .lane, st := .running, parent := none, block := 0,
                   folded := [], replay := false, held := false, floor := {} }
  let team : Team := { op := 0, rcd := rcd, entry := entry, dtag := 0, groups := [0], admitted := s.now, exempt := 0,
                       arb := Vector.replicate 4 {}, flags := 0, fault := none, aborting := false, scan := none }
  let s := s.updCore 0 fun k =>
    let k := { k with task := some fetchTask, health := { k.health with gated := false, clockStop := false },
                      seq := { k.seq with mode := .run }, ops := [op], teams := [team], nextId := 1,
                      mem := { k.mem with icache := [(0x1000, BitVec.ofNat 64 v)] } }
    k.setThread 0 0 (some { team := 0, rank := 0, pc := 0x1000 })
  s.setSched { s.sched with agenda := ⟨0, .lanes 0 0⟩ :: s.sched.agenda }

/-- The state in which the next step fetches and runs an instruction whose bits are `w` (log entry 7). -/
def State.withFetchWord (s : State) (nbits w : Nat) : State :=
  let v := w % 2 ^ nbits
  match decodeTile (BitVec.ofNat 64 v) (some (BitVec.ofNat 64 (v / 2 ^ 64))) with
  | .ok _ => s.withTileWord v
  | .error _ => s.withLaneWord v

end Sys2Proof.Machine
end

