-- ==== Sys2Proof/Safety.lean ====
section
/-! DEFINITION. What statements say of whole states and of runs: the memories that a state holds, what a step leaves
alone, when a lane instruction issues in a thread, and safe runs. -/

namespace Sys2Proof

open Machine

/-! ### Memories -/

/-- Every memory that one core holds has its canonical form. -/
def CoreMem.wf (m : CoreMem) : Bool := Memory.wf m.kennel && Memory.wf m.acc && Memory.wf m.priv

/-- Every memory of the device has its canonical form. -/
def memoriesWf (s : State) : Bool :=
  Memory.wf s.dev.hbm && s.cores.toList.all fun k => CoreMem.wf k.mem

/-- Every byte of HBM, of every Kennel, accumulator memory and private SRAM reads the same. -/
def SameMemory (s t : State) : Prop :=
  (∀ pa, t.dev.byte pa = s.dev.byte pa) ∧
    ∀ c a, (t.core c).kread a 1 = (s.core c).kread a 1 ∧ (t.core c).mem.aread a 1 = (s.core c).mem.aread a 1 ∧
      (t.core c).mem.pread a 1 = (s.core c).mem.pread a 1

/-- Nothing but the sequencer of core `c` differs. -/
def OnlySeq (c : CoreNo) (s t : State) : Prop :=
  ∃ q : Seq, t = s.updSeq c fun _ => q

/-- Nothing but core `c` differs. -/
def OnlyCore (c : CoreNo) (s t : State) : Prop :=
  ∃ k : Core, t = s.setCore c k

/-- What the lane instructions of a subset may leave changed: cores, and the model's own fields. -/
def OnlyCores (s t : State) : Prop :=
  t = { s with cores := t.cores, sched := t.sched }

/-! ### Sequencer instructions -/

/-- The operands of a two-operand form are written and its destination is free (R16, R98). -/
def Ready2 (x : TAlu2) (s : State) : Prop :=
  s.curCore.seq.pendingSKL x.a = false ∧ s.curCore.seq.pendingSKL x.b = false ∧ s.curCore.destHeld x.d = false

/-- The same for a one-operand form. -/
def Ready1 (x : TAlu1) (s : State) : Prop :=
  s.curCore.seq.pendingSKL x.a = false ∧ s.curCore.destHeld x.d = false

/-- D takes a value and the PC goes to the next word; nothing else changes. -/
def tileResult (d : SK) (v : W64) (s : State) : State :=
  s.updSeq s.cur fun q => { SK.put v q d with pc := q.pc + 8, afterSafe := false }

/-- A value for D, and flags for `TFLAGS`, are on their way; the PC goes to the next word; nothing else changes. -/
def tileLate (d : SK) (v : W64) (fl : Flags6) (s : State) : State :=
  s.updSeq s.cur fun q => { q with pend := q.pend ++ [{ d := d, v := some v, fl := fl }], pc := q.pc + 8, afterSafe := false }

/-- The PC goes to the next word; nothing else changes. -/
def tileNext (s : State) : State := s.updSeq s.cur fun q => { q with pc := q.pc + 8, afterSafe := false }

/-- The PC goes to a target; nothing else changes. -/
def tileGo (target : W64) (s : State) : State := s.updSeq s.cur fun q => { q with pc := target, afterSafe := false }

/-- A target passes R72. -/
def InCode (q : Seq) (target : W64) : Prop := target.toNat % 8 = 0 ∧ target.toNat < 8 * q.code.length

/-- An access of the current sequencer passes checks 1 to 4 of R105. -/
def SeqCan (kennel : Bool) (addr : W64) (n : Nat) (write : Bool) (s : State) : Prop :=
  addr.toNat % n = 0 ∧ (if kennel then addr.toNat + n ≤ 0x100000 else addr.toNat < 2 ^ 52) ∧
    s.curCore.locked (!kennel) addr.toNat n write = false

/-- The current sequencer's access is translated by the TLB. -/
def SeqAt (addr : W64) (need : Need) (p : Phys) (s : State) : Prop :=
  (s.curCore.seq.park = .none ∨ s.curCore.seq.park = .retry) ∧ s.curCore.tlbFind s.curCore.ctx addr need = some p

/-- The checks of R163 pass for a captured command and its operands. -/
def CmdCan (m : Cmd) (o : CmdOperands) (s : State) : Prop :=
  (∀ t ∈ o.tiles, (Desc.of t).ok (s.pedlimit s.cur) false = true ∧ (Desc.of t).space = spaceKennel) ∧
    o.shapeOk = true ∧
    (∀ a, o.klist = some a → a.1.toNat % a.2.1 = 0 ∧ a.1.toNat + a.2.2 ≤ 0x100000 ∧
      s.curCore.locked false a.1.toNat a.2.2 false = false ∧ s.curCore.kpoisoned a.1.toNat a.2.2 = false) ∧
    m.bar.toNat % 16 = 0 ∧ (if m.dev then m.bar.toNat < 2 ^ 52 else m.bar.toNat + 16 ≤ 0x100000) ∧
    ∀ a ∈ o.devs, a.toNat < 2 ^ 52

/-- The first check of R163 that fails gives the trap. -/
def CmdTraps (i : Instr) (m : Cmd) (o : CmdOperands) (s : State) : Prop :=
  let k := s.curCore
  let gives (cause : Cause) (a : W64) : Prop := exec i s = .next (tileFault s.cur cause a s)
  let tilesOk : Prop := ∀ t ∈ o.tiles, (Desc.of t).ok (s.pedlimit s.cur) false = true
  let shaped : Prop := tilesOk ∧ (∀ t ∈ o.tiles, (Desc.of t).space = spaceKennel) ∧ o.shapeOk = true
  let aligned : Prop := shaped ∧ (∀ a, o.klist = some a → a.1.toNat % a.2.1 = 0) ∧
    (m.dev = false → m.bar.toNat % 16 = 0)
  let inside : Prop := aligned ∧ (∀ a, o.klist = some a → a.1.toNat + a.2.2 ≤ 0x100000) ∧
    (m.dev = false → m.bar.toNat + 16 ≤ 0x100000)
  let reached : Prop := inside ∧ (∀ a ∈ o.devs, a.toNat < 2 ^ 52) ∧ (m.dev = true → m.bar.toNat < 2 ^ 52)
  (¬ tilesOk → gives .badDesc 0) ∧ (tilesOk → ¬ shaped → gives .illegalOperand 0) ∧
  (∀ a, shaped → o.klist = some a → a.1.toNat % a.2.1 ≠ 0 → gives .align a.1) ∧
  (shaped → (∀ a, o.klist = some a → a.1.toNat % a.2.1 = 0) → m.dev = false → m.bar.toNat % 16 ≠ 0 →
    gives .align m.bar) ∧
  (∀ a, aligned → o.klist = some a → 0x100000 < a.1.toNat + a.2.2 → gives .kennelRange a.1) ∧
  (aligned → (∀ a, o.klist = some a → a.1.toNat + a.2.2 ≤ 0x100000) → m.dev = false →
    0x100000 < m.bar.toNat + 16 → gives .kennelRange m.bar) ∧
  (∀ a, inside → o.devs = [a] → 2 ^ 52 ≤ a.toNat → gives .badAddr a) ∧
  (inside → (∀ a ∈ o.devs, a.toNat < 2 ^ 52) → m.dev = true → 2 ^ 52 ≤ m.bar.toNat → gives .badAddr m.bar) ∧
  (reached → m.dev = true → m.bar.toNat % 16 ≠ 0 → gives .badBarrier m.bar) ∧
  ∀ a, reached → m.bar.toNat % 16 = 0 → o.klist = some a →
    (k.locked false a.1.toNat a.2.2 false = true → exec i s = .next (lockTrap s.cur a.1 s)) ∧
    (k.locked false a.1.toNat a.2.2 false = false → k.kpoisoned a.1.toNat a.2.2 = true → gives .memoryError a.1)

/-- A command with operands `o` issues: nothing it names is still to be written and its queue has room. Where the checks
pass, the sequencer has released at CORE scope, the command is captured as `m`, numbered, queued and its ranges locked,
and the PC goes to the next word. Where one fails, it gives the trap. -/
def Captures (i : Instr) (waits : Bool) (regs : List RegNo) (m : Cmd) (o : CmdOperands) (s : State) : Prop :=
  waits = false → (∀ r ∈ regs, s.curCore.tilePending r = false) → s.curCore.retCount m.q < 24 →
    CmdTraps i m o s ∧
    (CmdCan m o s →
      let u := s.release s.cur .seq .core
      let n : Cmd := { m with id := s.curCore.nextId, pc := s.curCore.seq.pc, floor := u.curCore.issueFloor .seq,
                              replay := s.curCore.replaying }
      exec i s = .next (u.updCore s.cur fun k => { k with
        cmds := k.cmds ++ [n], nextId := k.nextId + 1, locks := k.locks ++ cmdLocks n,
        retq := k.retq.set m.q.toNat ((k.retq[m.q.toNat]'m.q.isLt) ++ [.cmd n.id]) m.q.isLt,
        seq := { k.seq with pc := k.seq.pc + 8, afterSafe := false } }))

/-- A barrier object at `a` passes the checks of R173 for the current sequencer, and lies at `pl`. -/
def BarCan (dev : Bool) (a : W64) (write : Bool) (pl : BarPlace) (s : State) : Prop :=
  a.toNat % 16 = 0 ∧
    (dev = false → a.toNat + 16 ≤ 0x100000 ∧ s.curCore.locked false a.toNat 16 write = false ∧
      pl = .kennel s.cur a.toNat) ∧
    (dev = true → a.toNat < 2 ^ 52 ∧ ∃ p, SeqAt a .atomic p s ∧ pl = .device p)

/-- A Kennel operand of the current sequencer passes ALIGN, KENNEL_RANGE and the range locks, and is not poisoned where
it is read. -/
def KennelCan (a : W64) (align n : Nat) (write : Bool) (s : State) : Prop :=
  a.toNat % align = 0 ∧ a.toNat + n ≤ 0x100000 ∧ s.curCore.locked false a.toNat n write = false ∧
    (write = false → s.curCore.kpoisoned a.toNat n = false)

/-- A two-operand form with ready operands writes `f a b` into D and goes on. -/
def TileGives (i : TAlu2 → Instr) (f : W64 → W64 → W64) : Prop :=
  ∀ x s, Ready2 x s →
    exec (i x) s = .next (tileResult x.d (f (x.a.val s.curCore.seq) (x.b.val s.curCore.seq)) s)

/-- A two-operand form with ready operands sends `f a b` and the flags `fl a b` on their way and goes on. -/
def TileGivesLate (i : TAlu2 → Instr) (f : W64 → W64 → W64) (fl : W64 → W64 → Flags6) : Prop :=
  ∀ x s, Ready2 x s →
    exec (i x) s = .next (tileLate x.d (f (x.a.val s.curCore.seq) (x.b.val s.curCore.seq))
      (fl (x.a.val s.curCore.seq) (x.b.val s.curCore.seq)) s)

/-- The sequencer's registers that a scalar form may change: the PC, scalar registers and the constant bank, values on
their way. Everything else stands. -/
def OnlyScalars (q r : Seq) : Prop :=
  r = { q with pc := r.pc, s := r.s, c := r.c, pend := r.pend, afterSafe := r.afterSafe }

/-! ### Lane instructions -/

/-- The registers that a lane instruction reads. -/
def Instr.sources (i : Instr) : List Nat := i.use.srcs.flatMap Fld.regs

/-- The operands of a lane instruction in a thread, in the order A, B, C, and the state that has read them. -/
def laneIn (i : Instr) (t : TRef) (th : Thread) (team : Team) (s : State) : LaneIn × State :=
  let a := readFld th i.use.a (s.readStatus t th i.sources)
  let b := readFld th i.use.b a.2
  let c := readFld th i.use.c b.2
  (⟨t, th, team, a.1, b.1, c.1⟩, c.2)

/-- The instruction issues in the thread with a true guard, waits for nothing, breaks no check of R87 and reads no poisoned
register. -/
structure LaneReady (i : Instr) (t : TRef) (th : Thread) (team : Team) (s : State) : Prop where
  hasThread : s.threadOf t = some th
  hasTeam : (s.core t.c).team? th.team = some team
  budget : (i.use.named.all fun r => decide (r < team.entry.budget)) = true
  guard : ∀ h, i.laneHead = some h → h.holds th.p = true
  waits : th.awaits i = []
  checks : team.entry.check = true → th.checkFault i = none
  poison : th.readsPoison i.sources = false

/-- A lane instruction issues in the threads of the subset, in all of them or in none (R213, R214), by `act`. -/
def LaneActs (i : Instr) (act : TRef → State → Issued) : Prop := ∀ s, exec i s = .next (subsetIssue act s)

/-- In every ready thread whose operands meet `pre`, the instruction has the effect `out`, then retires. -/
def LaneDoes (i : Instr) (pre : LaneIn → State → Prop) (out : LaneIn → State → State × LaneRes) : Prop :=
  ∃ act, LaneActs i act ∧ ∀ t th team s, LaneReady i t th team s →
    pre (laneIn i t th team s).1 (laneIn i t th team s).2 →
      act t s = (false, (out (laneIn i t th team s).1 (laneIn i t th team s).2).1.onThread t fun u =>
        u.retire i (out (laneIn i t th team s).1 (laneIn i t th team s).2).2)

/-- The effect is a result alone. -/
def LaneGives (i : Instr) (f : LaneIn → LaneRes) : Prop := LaneDoes i (fun _ _ => True) fun x u => (u, f x)

/-- A lane access passes steps 1 to 3 of R224 in its space. -/
def LaneCan (sp : LSpace) (i : LaneIn) (addr : W64) (n : Nat) (write : Bool) (s : State) : Prop :=
  addr.toNat % n = 0 ∧
    match sp with
    | .device => addr.toNat < 2 ^ 52 ∧ (s.core i.t.c).locked true addr.toNat n write = false
    | .kennel => addr.toNat + n ≤ 0x100000 ∧ (s.core i.t.c).locked false addr.toNat n write = false
    | .priv | .const => addr.toNat + n ≤ 0x800

/-- A lane access is translated by the TLB. -/
def LaneAt (i : LaneIn) (addr : W64) (need : Need) (p : Phys) (s : State) : Prop :=
  (i.th.park = .none ∨ i.th.park = .retry) ∧ (s.core i.t.c).tlbFind (s.core i.t.c).ctx addr need = some p

/-- In every ready thread whose operands meet `pre`, the instruction takes the precise lane fault `what`: a cause, an
address and a detail. -/
def LaneFaults (i : Instr) (pre : LaneIn → State → Prop) (what : LaneIn → Cause × W64 × W64) : Prop :=
  ∃ act, LaneActs i act ∧ ∀ t th team s, LaneReady i t th team s →
    pre (laneIn i t th team s).1 (laneIn i t th team s).2 →
      act t s = (false, laneFault t (what (laneIn i t th team s).1).1 (what (laneIn i t th team s).1).2.1
        (what (laneIn i t th team s).1).2.2 (laneIn i t th team s).2)

/-- In every ready thread whose operands meet `pre`, the instruction breaks a range lock at an address (R225). -/
def LaneLocks (i : Instr) (pre : LaneIn → State → Prop) (addr : LaneIn → W64) : Prop :=
  ∃ act, LaneActs i act ∧ ∀ t th team s, LaneReady i t th team s →
    pre (laneIn i t th team s).1 (laneIn i t th team s).2 →
      act t s = laneLock t (addr (laneIn i t th team s).1) (laneIn i t th team s).2

/-- In every ready thread whose operands meet `pre`, the instruction holds its subset back (R214). -/
def LaneHolds (i : Instr) (pre : LaneIn → State → Prop) : Prop :=
  ∃ act, LaneActs i act ∧ ∀ t th team s, LaneReady i t th team s →
    pre (laneIn i t th team s).1 (laneIn i t th team s).2 → (act t s).1 = true

/-- A load of `l`, or an atomic that is no acquire: the thread's earlier accesses to the bytes act first, then it acts, or,
where the list of choices says so, it is left to come. -/
def laneLoads (vd : RegNo) (i : LaneIn) (l : LateLoad) (s : State) : State × LaneRes :=
  let u := (s.beforeLate i.t.c i.t.agent l).choice
  if u.1 = 0 then
    ((u.2.readLate i.t.c i.t.agent l).2, lateRes vd l.n (.vals (l.words (u.2.readLate i.t.c i.t.agent l).1)))
  else (u.2, lateRes vd l.n (.load l))

/-- The result of a floating-point lane instruction. -/
def fpOut (d : RegNo) (r : FRes) : LaneRes := out1 d (BitVec.ofNat 32 r.bits) r.flags

/-- The same where the result comes late. -/
def fpLate (d : RegNo) (r : FRes) : LaneRes := outLate d [BitVec.ofNat 32 r.bits] r.flags

/-- The lane instructions of arithmetic, logic, comparison, conversion and moves: they touch registers alone. -/
def Instr.registerOnly : Instr → Bool
  | .iadd _ | .isub _ | .imul _ | .imulh _ | .imad _ | .iadd64 _ | .idiv _ | .idivu _ | .irem _ | .iremu _
  | .imin _ | .imax _ | .iminu _ | .imaxu _ | .iabs _ | .ineg _ | .laneAnd _ | .laneOr _ | .laneXor _
  | .laneAndn _ | .bitfn _ | .laneShl _ | .laneShr _ | .laneSar _ | .rotr _ | .lanePopc _ | .laneClz _
  | .brev _ | .bfe _ | .bfi _ | .permb _ | .laneSel _ | .icmp _ | .fcmp _ | .predfn _ | .pmovToRegister _
  | .pmovToPredicates _ | .fadd _ | .fsub _ | .fmul _ | .ffma _ | .fmin _ | .fmax _ | .fdiv _ | .fsqrt _
  | .frcp _ | .frsq _ | .fexp2 _ | .flog2 _ | .ftanh _ | .pkadd _ | .pkmul _ | .pkfma _ | .pkmin _ | .pkmax _
  | .cvt _ | .cvtpk _ | .cvtunpk _ | .pwenc _ | .pwdec _ | .idp4 _ | .fdp2 _ | .laneMov _ | .movi _ | .movhi _
  | .sread _ | .rng _ | .ctradd _ => true
  | _ => false

/-- Those of them that write predicates. -/
def Instr.setsPreds : Instr → Bool
  | .icmp _ | .fcmp _ | .predfn _ | .pmovToPredicates _ => true
  | _ => false

/-- No two partitions share a cluster or a byte of carve-out, ranges being removed included. -/
def PartitionsApart (s : State) : Prop :=
  ∀ p q : Fin 16, p ≠ q → (s.part p).clusters &&& (s.part q).clusters = 0 ∧
    ∀ r ∈ (s.part p).ranges, ∀ w ∈ (s.part q).ranges, carvesMeet r w = false

/-! ### Messages and frames -/

/-- A request of an open, idle session arrives in order: it is the next PSN. -/
structure HostIn (m : YhtMsg) (x : Session) (s : State) : Prop where
  up : s.host.up = true
  request : m.resp = false ∧ m.typ ≠ 7
  opened : m.session ≠ 0 ∧ s.session? m.session = some x
  idle : x.busy = false
  inTurn : m.psn ≠ 0 ∧ m.psn = x.next

/-- The session has taken the request: EVENTs it acknowledges are gone, the sender is the peer, the next PSN is awaited,
and the session is busy. -/
def hostTaken (m : YhtMsg) (s : State) : State :=
  ((s.updSession m.session fun x => x.ackEvents m.ackpsn s).updSession m.session fun x =>
      { x with heldReq := x.heldReq ++ [m], peer := m.srcAddr, peerPort := m.srcPort }).updSession m.session fun x =>
    { x with heldReq := x.heldReq.filter fun y => y.psn != m.psn, next := nextPsn x.next, busy := true }

/-- The session is idle again, and its request is answered. -/
def hostAnswered (m : YhtMsg) (st : Nat) (body : List Byte) (s : State) : State :=
  (s.updSession m.session fun x => { x with busy := false, part := [] }).answer m st (if st = 0 then body else [])

/-- What an open session with request `m` does with an operation that answers at once. -/
def HostDoes (x : Session) (m : YhtMsg) (s : State) (st : Nat) (body : List Byte) (t : State) : Prop :=
  m.badRequest (s.boot.st == .recovery) = false → perform x m s = .now st body t

/-- A management request of an operation, with a body of its length, that the session may ask for. -/
def MgmtIn (op : Nat) (x : Session) (m : YhtMsg) : Prop :=
  m.typ = 5 ∧ m.addr.toNat = op ∧ bodyLength op = some m.payload.length ∧
    (op = 8 ∨ op = 12 ∨ op = 13 → isOperator x = true)

/-- A frame of a type arrives for this device, well formed, over a port that is up. -/
structure FrameIn (typ : Byte) (m : YttFrame) (s : State) : Prop where
  port : ∃ p, s.ytt.portFor m.dst m.flow = some p
  good : yttGood m = true
  ofType : m.typ = typ
  ours : m.dst.extractLsb' 0 21 = s.ytt.devid.extractLsb' 0 21

/-! ### Runs -/

/-- `n` steps, while each answers a next state. -/
def runSteps : Nat → State → Option State
  | 0, s => some s
  | n + 1, s =>
    match step s with
    | .next t => runSteps n t
    | .fault _ | .refused _ => none

/-- A run of `n` steps is safe when no step of it stops. -/
def SafeRun (n : Nat) (s : State) : Prop := (runSteps n s).isSome = true

end Sys2Proof
end

