-- ==== Sys2Proof/Certificates/Slice0/Obligations.lean ====
section
/-! DEFINITION. The statements for the provers: what spec/ says that the instructions and steps of the machine do. -/

open Sys2Proof Sys2Proof.Machine

/-- R69 to R71 and R80 to R84: no bit of a tile encoding is dropped. That bits are read in the right places is
DecodedWords. -/
def Obligations.TileWordsDecodeBack : Prop :=
  ∀ (i : Instr) f, tileFields i = some f → i.wellFormed = true →
    ∃ w ws, encode i = w :: ws ∧ ws.length + 1 = i.tileWords ∧
      ∀ following : Option W64, decodeTile w (if ws = [] then following else ws.head?) = .ok i

/-- R74 to R76, R85 and R86 and the tables of the lane chapters. -/
def Obligations.LaneWordsDecodeBack : Prop :=
  ∀ (i : Instr) f, laneFields i = some f → i.wellFormed = true → ∃ w, encode i = [w] ∧ decodeLane w = .ok i

/-- R84 and R86: a word with a reserved bit set or an operand out of its rule is refused. -/
def Obligations.DecodedWordsEncodeBack : Prop :=
  (∀ (w : W64) (w2 : Option W64) i, decodeTile w w2 = .ok i →
    i.wellFormed = true ∧ (tileFields i).isSome = true ∧ isStep i = false ∧
    (i.tileWords = 1 → encode i = [w]) ∧ (i.tileWords = 2 → ∃ v, w2 = some v ∧ encode i = [w, v])) ∧
  ∀ (w : W64) i, decodeLane w = .ok i →
    i.wellFormed = true ∧ (laneFields i).isSome = true ∧ isStep i = false ∧ encode i = [w]

/-- Words of the examples of spec/; 0 carries an unassigned opcode at both levels (R80, R85). -/
def Obligations.DecodedWords : Prop :=
  decodeTile 0x00403007FE000000 none = .ok (.add ⟨.s 3, .s 1, .l 0xFE⟩) ∧
  decodeTile 0x12C00C0000000000 none = .ok (.safept (.l 0)) ∧ decodeTile 0x1300000000000000 none = .ok .taskEnd ∧
  decodeLane 0x0401C08100020003 = .ok (.iadd ⟨⟨0, 7, false⟩, 1, ⟨0, true⟩, .imm 3⟩) ∧
  decodeLane 0x2CE1C00000003204 = .ok (.rep ⟨⟨0, 7, false⟩, .imm 4, 3, 2⟩) ∧
  decodeLane 0x2441C28600020001 = .ok (.xback ⟨⟨0, 7, false⟩, 5, ⟨3, false⟩, none, false, false, 1⟩) ∧
  decodeLane 0x2461C28600028001 = .ok (.xfwd ⟨⟨0, 7, false⟩, 5, ⟨3, false⟩, none, false, true, 1⟩) ∧
  decodeLane 0x3001C20400020040 = .ok (.ld ⟨⟨0, 7, false⟩, 4, ⟨2, false⟩, 2, false, 0x40⟩) ∧
  decodeLane 0x2C81C00000000000 = .ok (.exit ⟨⟨0, 7, false⟩⟩) ∧
  decodeTile 0 none = .error .unassignedOpcode ∧ decodeLane 0 = .error .unassignedOpcode

/-- R69, R72, R84 for the sequencer, R213 and R214 for the lanes. The order of turns, the cycles of a turn and the
rotation are the model's (log entries 7, 8 and 34); `capped` is R333 (log entry 22); that the cluster units let go
before a step is R261's as the model has it (log entry 12). -/
def Obligations.StepRunsTheDecodedInstruction : Prop :=
  (∀ (s : State) (dt : Nat) (turn : Turn) (rest : List AgendaEntry), s.sched.agenda = ⟨dt, turn⟩ :: rest →
    let u := (s.setSched { s.sched with agenda := rest }).pass dt
    (∀ c, turn = .seq c → (u.core c).health.clockStop = false → (u.core c).health.gated = false →
      (u.core c).seq.mode = .run → (u.core c).faulted = [] →
      let q := (u.core c).seq
      (∀ i, q.pc.toNat % 8 = 0 → q.pc.toNat < 8 * q.code.length →
        decodeTile (q.code.getD (q.pc.toNat / 8) 0) q.code[q.pc.toNat / 8 + 1]? = .ok i →
        let poison := ∃ j < i.tileWords, (u.core c).mem.codePoisoned (q.pc.toNat / 8 + j) = true
        (¬ poison → step s = capped u (exec i (u.setSched { u.sched with cur := c }))) ∧
        (poison → step s = capped u (.next (tileFault c .memoryError q.pc u)))) ∧
      (¬ (q.pc.toNat % 8 = 0 ∧ q.pc.toNat < 8 * q.code.length) → step s = capped u (.next (illegalTile c u))) ∧
      ∀ e, q.pc.toNat % 8 = 0 → q.pc.toNat < 8 * q.code.length →
        decodeTile (q.code.getD (q.pc.toNat / 8) 0) q.code[q.pc.toNat / 8 + 1]? = .error e →
        (u.core c).mem.codePoisoned (q.pc.toNat / 8) = false → step s = capped u (.next (illegalTile c u))) ∧
    (∀ c g i n v, turn = .lanes c g → laneMove c g u = .lanes i n v →
      (∃ w, decodeLane w = .ok i) ∧
      ∀ t, exec i v = .next t → step s = capped u (.next (afterIssue n t))) ∧
    ∀ i, turn = .event i → isStep i = true → step s = capped u (exec i (u.flushHeld fun _ => true))) ∧
  ∀ (c : CoreNo) (g : Fin 4) (s : State) team low sub x th w, (s.core c).health.gated = false →
    (s.core c).moving = true → ((s.core c).nextTeam g.val).bind (s.core c).team? = some team →
    (s.core c).expires team g.val = false → (s.core c).currentSubset team g.val = some (low, sub) →
    sub.find? (fun y => y.1 == low) = some x →
    let u := s.setCore c ((s.core c).takeTurn team.op g.val low)
    u.threadOf ⟨c, x.1, x.2⟩ = some th →
    ∀ u', ((u.laneWord c th.pc = some w ∧ th.pc.toNat / 8 ∉ (u.core c).mem.lanePoison ∧ u' = u) ∨
      ((u.laneWord c th.pc = none ∧ (th.park = .none ∨ th.park = .retry)) ∧ ∃ p,
        (u.core c).tlbFind (u.core c).ctx th.pc .fetch = some p ∧ u.dev.poisoned p.pa 8 = false ∧
        w = BitVec.ofNat 64 (u.dev.word p.pa 8) ∧ u' = u.cacheWord c th.pc w)) →
    let v := u'.choice.2.setSched { u'.choice.2.sched with cur := c, issue := rotate u'.choice.1 sub }
    (∀ i, decodeLane w = .ok i → laneMove c g s = .lanes i ⟨c, g.val, team.op, low, sub.map Prod.fst⟩ v) ∧
    (∀ e, decodeLane w = .error e → laneMove c g s = .done (laneIllegal v)) ∧
    v.sched.issue.Perm sub

/-- R99, R100: the integer forms that complete at once. The shifts take the whole of b as the count. -/
def Obligations.SequencerIntegerResults : Prop :=
  TileGives .add (fun a b => a + b) ∧ TileGives .sub (fun a b => a - b) ∧
  TileGives .tileAnd (fun a b => a &&& b) ∧ TileGives .tileOr (fun a b => a ||| b) ∧
  TileGives .tileXor (fun a b => a ^^^ b) ∧ TileGives .tileAndn (fun a b => a &&& ~~~b) ∧
  TileGives .tileShl (fun a b => a <<< b.toNat) ∧ TileGives .tileShr (fun a b => a >>> b.toNat) ∧
  TileGives .tileSar (fun a b => BitVec.ofInt 64 (a.toInt / 2 ^ Nat.min b.toNat 63)) ∧
  TileGives .min (fun a b => if a.toInt ≤ b.toInt then a else b) ∧
  TileGives .max (fun a b => if a.toInt ≥ b.toInt then a else b) ∧
  TileGives .minu (fun a b => if a.toNat ≤ b.toNat then a else b) ∧
  TileGives .maxu (fun a b => if a.toNat ≥ b.toNat then a else b) ∧
  (∀ x s, Ready1 x s → ∃ n, exec (.tileClz x) s = .next (tileResult x.d (BitVec.ofNat 64 n) s) ∧ n ≤ 64 ∧
    (∀ k, 64 - n ≤ k → (x.a.val s.curCore.seq).getLsbD k = false) ∧
    (n < 64 → (x.a.val s.curCore.seq).getLsbD (63 - n) = true)) ∧
  ∀ x s, Ready1 x s → exec (.tilePopc x) s =
    .next (tileResult x.d (BitVec.ofNat 64 ((List.range 64).countP (x.a.val s.curCore.seq).getLsbD)) s)

/-- R98 to R100: a multiply, divide or load has yet to write its value when the next instruction issues. The step
that writes it is in SequencerResultArrives. -/
def Obligations.SequencerLateResults : Prop :=
  TileGivesLate .mul (fun a b => a * b) (fun _ _ => 0) ∧
  (∀ d a b s, Ready2 ⟨d, a, b⟩ s → ∀ u, exec (.mulh ⟨d, a, b, u⟩) s = .next (tileLate d
    (if u then BitVec.ofNat 64 ((a.val s.curCore.seq).toNat * (b.val s.curCore.seq).toNat / 2 ^ 64)
     else BitVec.ofInt 64 ((a.val s.curCore.seq).toInt * (b.val s.curCore.seq).toInt / 2 ^ 64)) 0 s)) ∧
  (∀ (x : TAlu3) s, Ready2 ⟨x.d, x.a, x.b⟩ s → s.curCore.seq.pendingSKL x.c = false →
    exec (.madd x) s = .next (tileLate x.d
      (x.a.val s.curCore.seq * x.b.val s.curCore.seq + x.c.val s.curCore.seq) 0 s)) ∧
  TileGivesLate .div (fun a b => if b = 0 then BitVec.allOnes 64 else a.sdiv b)
    (fun _ b => if b = 0 then fDivZero else 0) ∧
  TileGivesLate .divu (fun a b => if b = 0 then BitVec.allOnes 64 else a / b)
    (fun _ b => if b = 0 then fDivZero else 0) ∧
  TileGivesLate .rem (fun a b => if b = 0 then a else a.srem b) (fun _ b => if b = 0 then fDivZero else 0) ∧
  TileGivesLate .remu (fun a b => if b = 0 then a else a % b) (fun _ b => if b = 0 then fDivZero else 0)

/-- R101 to R103, R111, R117, R121, R190, the registers of R26, and the wait of R98 for an earlier division's
DIVZERO. A predicate write goes through `predSet`, which PredicateSevenIsTrue states. -/
def Obligations.SequencerMovesAndPredicates : Prop :=
  (∀ x s, Ready1 x s → exec (.tileMov x) s = .next (tileResult x.d (x.a.val s.curCore.seq) s)) ∧
  (∀ (x : TSel) s, Ready2 ⟨x.d, x.a, x.b⟩ s → exec (.tileSel x) s = .next (tileResult x.d
    (if s.curCore.seq.pred x.p then x.a.val s.curCore.seq else x.b.val s.curCore.seq) s)) ∧
  (∀ (x : TCmp) s, s.curCore.seq.pendingSKL x.a = false → s.curCore.seq.pendingSKL x.b = false →
    exec (.cmp x) s = .next (s.updSeq s.cur fun q => { q with
      p := predSet q.p x.p (condHolds x.cond (x.a.val q) (x.b.val q)), pc := q.pc + 8, afterSafe := false })) ∧
  (∀ (x : TPred2) s, exec (.pand x) s = .next (s.updSeq s.cur fun q => { q with
      p := predSet q.p x.d (q.pred x.a && q.pred x.b), pc := q.pc + 8, afterSafe := false }) ∧
    exec (.por x) s = .next (s.updSeq s.cur fun q => { q with
      p := predSet q.p x.d (q.pred x.a || q.pred x.b), pc := q.pc + 8, afterSafe := false }) ∧
    exec (.pxor x) s = .next (s.updSeq s.cur fun q => { q with
      p := predSet q.p x.d (q.pred x.a != q.pred x.b), pc := q.pc + 8, afterSafe := false })) ∧
  (∀ (x : TPred1) s, exec (.pnot x) s = .next (s.updSeq s.cur fun q => { q with
      p := predSet q.p x.d (!q.pred x.a), pc := q.pc + 8, afterSafe := false })) ∧
  (∀ (x : TLit) s, s.curCore.destHeld x.d = false → exec (.lit x) s =
    .next (s.updSeq s.cur fun q => { SK.put x.v q x.d with pc := q.pc + 16, afterSafe := false })) ∧
  (∀ (x : TDescl) s, s.curCore.seq.pendingSKL x.a = false → s.curCore.tilePending x.t = false →
    exec (.tdescl x) s = .next (s.updSeq s.cur fun q => { q with
      t := q.t.set x.t.val (x.a.val s.curCore.seq ++ x.v), pc := q.pc + 16, afterSafe := false })) ∧
  (∀ (x : TTdesc) s, s.curCore.seq.pendingSKL x.a = false → s.curCore.seq.pendingSKL x.b = false →
    s.curCore.tilePending x.t = false → exec (.tdesc x) s = .next (s.updSeq s.cur fun q => { q with
      t := q.t.set x.t.val (tdescVal x.f q.t[x.t.val] (x.a.val q) (x.b.val q)), pc := q.pc + 8,
      afterSafe := false })) ∧
  (∀ (x : TTget) s, s.curCore.tilePending x.t = false → s.curCore.destHeld x.d = false →
    exec (.tget x) s = .next (tileResult x.d
      (s.curCore.seq.t[x.t.val].extractLsb' (if x.hi then 64 else 0) 64) s)) ∧
  (∀ (x : TSrd) s, s.curCore.destHeld x.d = false → (x.n = 0x0F → ∀ r ∈ s.curCore.seq.pend, r.fl = 0) →
    exec (.srd x) s = .next (tileResult x.d (tileSpecial s s.cur x.n.toNat) s)) ∧
  (∀ (d : SK) (a : SKL) (s : State), (∃ r ∈ s.curCore.seq.pend, r.fl ≠ 0) →
    exec (.srd { d := d, n := 0x0F }) s = .next s ∧ exec (.swr { n := 0x0F, a := a }) s = .next s) ∧
  (∀ s c, let q := (s.core c).seq
    let r (n : Nat) : W64 := tileSpecial s c n
    r 0x00 = BitVec.ofNat 64 c.val ∧ r 0x01 = q.partid.zeroExtend 64 ∧ r 0x02 = q.iter[0].zeroExtend 64 ∧
    r 0x03 = q.iter[1].zeroExtend 64 ∧ r 0x04 = q.iter[2].zeroExtend 64 ∧ r 0x05 = q.iter[3].zeroExtend 64 ∧
    r 0x06 = q.itern ∧ r 0x07 = q.itern.ushiftRight 32 ∧ r 0x08 = q.nodearg ∧ r 0x09 = q.nodearg.ushiftRight 32 ∧
    r 0x0A = q.wake.zeroExtend 64 ∧
    (∀ t, (s.core c).task = some t → r 0x0B = t.regs.frecbase + 64 * BitVec.ofNat 64 c.val) ∧ r 0x0C = q.trapvec ∧
    r 0x0D = q.epc ∧ r 0x0E = q.trapcause ∧ r 0x0F = q.tflags ∧ r 0x10 = (if q.trapen then 1 else 0) ∧
    r 0x11 = BitVec.ofNat 64 q.faircyc ∧ r 0x12 = BitVec.ofNat 64 (s.now / 17) ∧
    r 0x13 = (BitVec.ofNat 64 (s.now / 17)).ushiftRight 32 ∧ r 0x14 = BitVec.ofNat 64 (s.now - q.start) ∧
    r 0x15 = (BitVec.ofNat 64 (s.now - q.start)).ushiftRight 32 ∧
    ∀ x, s.ctx? (s.core c).ctx = some x → r 0x16 = x.cpedlimit.zeroExtend 64 ∧ r 0x17 = x.cpedbase) ∧
  (∀ (a : SKL) s, s.curCore.seq.pendingSKL a = false →
    exec (.swr ⟨0x0C, a⟩) s = .next (s.updSeq s.cur fun q => { q with
      trapvec := a.val q, pc := q.pc + 8, afterSafe := false }) ∧
    exec (.swr ⟨0x0D, a⟩) s = .next (s.updSeq s.cur fun q => { q with
      epc := a.val q, pc := q.pc + 8, afterSafe := false }) ∧
    ((∀ r ∈ s.curCore.seq.pend, r.fl = 0) → exec (.swr ⟨0x0F, a⟩) s = .next (s.updSeq s.cur fun q => { q with
      tflags := a.val q &&& 0x73F, pc := q.pc + 8, afterSafe := false })) ∧
    exec (.swr ⟨0x10, a⟩) s = .next (s.updSeq s.cur fun q => { q with
      trapen := (a.val q).getLsbD 0, pc := q.pc + 8, afterSafe := false }) ∧
    exec (.swr ⟨0x11, a⟩) s = .next (s.updSeq s.cur fun q => { q with
      faircyc := if (a.val q).toNat < 32 then 32 else if 1024 < (a.val q).toNat then 1024 else (a.val q).toNat,
      pc := q.pc + 8, afterSafe := false })) ∧
  ∀ s, exec .tileNop s = .next (tileNext s)

/-- R190, with the field places of R18: only the named fields change. -/
def Obligations.DescriptorFieldWrites : Prop :=
  ∀ (t : W128) (a b : W64),
    (tdescVal 0 t a b = a ++ b) ∧
    (∀ k < 128, (tdescVal 1 t a b).getLsbD k = if 44 ≤ k ∧ k < 64 then a.getLsbD (k - 44) else t.getLsbD k) ∧
    (∀ k < 128, (tdescVal 2 t a b).getLsbD k =
      if 29 ≤ k ∧ k < 36 then a.getLsbD (k - 29) else if 10 ≤ k ∧ k < 20 then b.getLsbD (k - 10) else t.getLsbD k) ∧
    (∀ k < 128, (tdescVal 3 t a b).getLsbD k = if 72 ≤ k ∧ k < 104 then a.getLsbD (k - 72) else t.getLsbD k) ∧
    ∀ k < 128, (tdescVal 4 t a b).getLsbD k = if 104 ≤ k then a.getLsbD (k - 104) else t.getLsbD k

/-- The frames of R99 to R103, R111, R117, R121 and R190: `OnlyScalars` keeps every field of the sequencer but the
PC, the scalar registers, the constant bank and the values on their way. TFLAGS changes when a division's result
arrives (R65). -/
def Obligations.SequencerFrames : Prop :=
  (∀ (i : Instr) (d : SK) (s t : State),
    (∃ x : TAlu2, x.d = d ∧ i ∈ ([.add x, .sub x, .mul x, .div x, .divu x, .rem x, .remu x, .tileAnd x, .tileOr x,
      .tileXor x, .tileAndn x, .tileShl x, .tileShr x, .tileSar x, .min x, .max x, .minu x, .maxu x] : List Instr)) ∨
    (∃ x : TAlu1, x.d = d ∧ i ∈ ([.tileClz x, .tilePopc x, .tileMov x] : List Instr)) ∨
    (∃ x : TSel, x.d = d ∧ i = .tileSel x) ∨ (∃ x : TMulh, x.d = d ∧ i = .mulh x) ∨
    (∃ x : TAlu3, x.d = d ∧ i = .madd x) ∨ (∃ x : TLit, x.d = d ∧ i = .lit x) ∨
    (∃ x : TTget, x.d = d ∧ i = .tget x) ∨ (∃ x : TSrd, x.d = d ∧ i = .srd x) →
    exec i s = .next t →
    (∃ r, t = s.updSeq s.cur (fun _ => r) ∧ OnlyScalars s.curCore.seq r ∧
      ∀ o : SK, o ≠ d → o.val r = o.val s.curCore.seq) ∧ SameMemory s t) ∧
  (∀ (i : Instr) (d : PredNo) (s t : State),
    (∃ x : TCmp, x.p = d ∧ i = .cmp x) ∨ (∃ x : TPred2, x.d = d ∧ i ∈ ([.pand x, .por x, .pxor x] : List Instr)) ∨
      (∃ x : TPred1, x.d = d ∧ i = .pnot x) → exec i s = .next t → SameMemory s t ∧
    ∃ r, t = s.updSeq s.cur (fun _ => r) ∧
      r = { s.curCore.seq with p := r.p, pc := r.pc, afterSafe := r.afterSafe } ∧
      ∀ k : PredNo, k ≠ d → r.pred k = s.curCore.seq.pred k) ∧
  (∀ (i : Instr) (d : RegNo) (s t : State),
    (∃ x : TTdesc, x.t = d ∧ i = .tdesc x) ∨ (∃ x : TDescl, x.t = d ∧ i = .tdescl x) → exec i s = .next t →
    SameMemory s t ∧ ∃ r, t = s.updSeq s.cur (fun _ => r) ∧
      r = { s.curCore.seq with t := r.t, pc := r.pc, afterSafe := r.afterSafe } ∧
      ∀ k : RegNo, k ≠ d → r.t[k.val] = s.curCore.seq.t[k.val]) ∧
  (∀ (x : TSwr) (s t : State), exec (.swr x) s = .next t → SameMemory s t ∧
    ∃ r, t = s.updSeq s.cur (fun _ => r) ∧
      r = { s.curCore.seq with trapvec := r.trapvec, epc := r.epc, tflags := r.tflags, trapen := r.trapen,
                               faircyc := r.faircyc, pc := r.pc, afterSafe := r.afterSafe } ∧
      (x.n ≠ 0x0C → r.trapvec = s.curCore.seq.trapvec) ∧ (x.n ≠ 0x0D → r.epc = s.curCore.seq.epc) ∧
      (x.n ≠ 0x0F → r.tflags = s.curCore.seq.tflags) ∧ (x.n ≠ 0x10 → r.trapen = s.curCore.seq.trapen) ∧
      (x.n ≠ 0x11 → r.faircyc = s.curCore.seq.faircyc)) ∧
  ∀ (s t : State), exec .tileNop s = .next t → SameMemory s t ∧ t = tileNext s

/-- R110 with the displacement of R71 and the check of R72. -/
def Obligations.SequencerTransfers : Prop :=
  (∀ (x : TBr) s, let q := s.curCore.seq
    ((q.pred x.p ^^ x.sense) = false → exec (.br x) s = .next (tileNext s)) ∧
    ((q.pred x.p ^^ x.sense) = true → InCode q (q.pc + 8 * x.disp.signExtend 64) →
      exec (.br x) s = .next (tileGo (q.pc + 8 * x.disp.signExtend 64) s))) ∧
  (∀ (a : SK) s, let q := s.curCore.seq
    q.pendingSK a = false → InCode q (a.val q) →
      exec (.jmp a) s = .next (tileGo (a.val q) s) ∧ exec (.tileRet a) s = .next (tileGo (a.val q) s)) ∧
  (∀ (x : TLink) s, let q := s.curCore.seq
    q.pendingSK (.s x.d) = false →
    (InCode q (q.pc + 8 * x.disp.signExtend 64) → exec (.tileCall x) s = .next (s.updSeq s.cur fun q => { q with
      s := q.s.set x.d.val (q.pc + 8), pc := q.pc + 8 * x.disp.signExtend 64, afterSafe := false })) ∧
    (q.s[x.d.val] ≠ 1 → InCode q (q.pc + 8 * x.disp.signExtend 64) →
      exec (.loop x) s = .next (s.updSeq s.cur fun q => { q with
        s := q.s.set x.d.val (q.s[x.d.val] - 1), pc := q.pc + 8 * x.disp.signExtend 64, afterSafe := false })) ∧
    (q.s[x.d.val] = 1 → exec (.loop x) s = .next (s.updSeq s.cur fun q => { q with
        s := q.s.set x.d.val 0, pc := q.pc + 8, afterSafe := false })))

/-- R72 and R113. What the trap entry itself does is in TileTrapEntry. -/
def Obligations.BadTargetsTrap : Prop :=
  (∀ (x : TBr) s, let q := s.curCore.seq
    (q.pred x.p ^^ x.sense) = true → ¬ InCode q (q.pc + 8 * x.disp.signExtend 64) →
      exec (.br x) s = .next (takeTrap s.cur { kind := .illegalTile, cause := .illegalTile, epc := q.pc, resume := q.pc } s)) ∧
  (∀ (a : SK) s, let q := s.curCore.seq
    q.pendingSK a = false → ¬ InCode q (a.val q) →
      exec (.jmp a) s = .next (takeTrap s.cur { kind := .illegalTile, cause := .illegalTile, epc := q.pc, resume := q.pc } s) ∧
      exec (.tileRet a) s =
        .next (takeTrap s.cur { kind := .illegalTile, cause := .illegalTile, epc := q.pc, resume := q.pc } s)) ∧
  (∀ (x : TLink) s, let q := s.curCore.seq
    q.pendingSK (.s x.d) = false → ¬ InCode q (q.pc + 8 * x.disp.signExtend 64) →
      exec (.tileCall x) s =
        .next (takeTrap s.cur { kind := .illegalTile, cause := .illegalTile, epc := q.pc, resume := q.pc } s) ∧
      (q.s[x.d.val] ≠ 1 → exec (.loop x) s =
        .next (takeTrap s.cur { kind := .illegalTile, cause := .illegalTile, epc := q.pc, resume := q.pc } s))) ∧
  ∀ s, let q := s.curCore.seq
    q.restart = none → ¬ InCode q q.epc → exec .eret s =
      .next (takeTrap s.cur { kind := .illegalTile, cause := .illegalTile, epc := q.epc, resume := q.epc } s)

/-- R112, R113, R322 and R323: what the entry writes and what it leaves. The unhandled case is R324's. The layout of
a record is stated for every trap; `LaneWhere` holds what a lane fault adds. Floors are the model's (log entry 12).
-/
def Obligations.TileTrapEntry : Prop :=
  (∀ (c : CoreNo) (x : Trap) (s : State), let q := (s.core c).seq
    let t := takeTrap c x s
    let k := t.core c
    let handled := q.trapvec ≠ 0 ∧ InCode q q.trapvec
    k.seq.epc = x.epc ∧ k.seq.trapcause.extractLsb' 0 8 = x.kind.code ∧ k.seq.trapcause.extractLsb' 8 24 = 0 ∧
    k.seq.trapcause.extractLsb' 32 32 = x.code ∧ k.seq.s = q.s ∧ k.seq.p = q.p ∧ k.seq.t = q.t ∧ k.seq.c = q.c ∧
    k.seq.tflags = q.tflags ∧ k.seq.trapvec = q.trapvec ∧ k.seq.trapen = q.trapen ∧
    (handled → k.seq.pc = q.trapvec ∧ k.seq.mode = .run ∧
      k.ops.map (fun o => { o with floor := {} }) = (s.core c).ops.map (fun o => { o with floor := {} }) ∧
      k.teams = (s.core c).teams ∧ k.launchQ = (s.core c).launchQ ∧
      k.cmds.map (fun m => { m with floor := {} }) = (s.core c).cmds.map fun m => { m with floor := {} }) ∧
    (¬ handled → k.seq.pc = q.pc ∧ k.seq.mode = .unhandled) ∧
    (∀ p u, (u = true ↔ ¬ handled) → s.xlate (s.core c).ctx (s.faultrec c) .write = .ok p →
      ∃ l : List PStore, k.stores = ((s.atL1 c .seq p.pa 64).core c).stores ++ l ∧ (∀ y ∈ l, y.agent = .seq) ∧
        l.map PStore.pa = (List.range 8).map (fun i => p.pa + 8 * i) ∧
        l.map PStore.bytes = (List.range 8).map fun i => ((x.record u (q.wordAt x.epc)).drop (8 * i)).take 8) ∧
    (∀ f, s.xlate (s.core c).ctx (s.faultrec c) .write = .error f →
      k.stores = (s.core c).stores ∧ ∃ r, .machineCheck r ∈ t.mgmt ∧ r.head? = some 4) ∧
    ∀ c', c' ≠ c → ∃ f, (t.core c').seq = { (s.core c').seq with floor := f }) ∧
  ∀ (x : Trap) (u : Bool) (w : W64), let r := x.record u w
    let field (a n : Nat) : Nat := ofBytes ((r.drop a).take n)
    r.length = 64 ∧ r.getD 0 0 = x.kind.code ∧ r.getD 1 0 = x.cause.code ∧ r.getD 2 0 = x.index ∧
    r.getD 3 0 = x.pindex ∧ r.getD 5 0 = x.level ∧ field 0x06 2 = x.who.toNat ∧ field 0x08 8 = x.epc.toNat ∧
    field 0x10 8 = x.resume.toNat ∧ field 0x20 8 = x.addr.toNat ∧ field 0x30 8 = x.detail.toNat ∧
    field 0x3C 2 = x.dtag.toNat ∧ field 0x3E 2 = 0 ∧
    (r.getD 4 0).getLsbD 0 = x.lane.isSome ∧ (r.getD 4 0).getLsbD 1 = x.nested ∧ (r.getD 4 0).getLsbD 2 = x.final ∧
    (r.getD 4 0).getLsbD 4 = u ∧ (r.getD 4 0).extractLsb' 5 3 = 0 ∧
    (x.lane = none → field 0x18 8 = 0 ∧ field 0x28 8 = w.toNat ∧ field 0x38 4 = 0 ∧ (r.getD 4 0).getLsbD 3 = false) ∧
    ∀ l, x.lane = some l → field 0x18 8 = l.pc.toNat ∧ field 0x28 8 = l.word.toNat ∧
      (r.getD 4 0).getLsbD 3 = l.rep.isSome ∧ (l.rep.getD 0 < 2 ^ 32 → field 0x38 4 = l.rep.getD 0)

/-- R114, R115, R118, R120, R137, R138 and R170. Floors, which a release and an acquire raise, are the model's (log
entry 12). -/
def Obligations.TrapReturnAndSafePoints : Prop :=
  (∀ (a : SKL) s, let q := s.curCore.seq
    q.pendingSKL a = false → exec (.tileTrap a) s = .next (takeTrap s.cur
      { kind := .software, cause := .software, epc := q.pc + 8, resume := q.pc + 8,
        code := (a.val q).extractLsb' 0 32 } s)) ∧
  (∀ s, let q := s.curCore.seq
    (q.restart = none → InCode q q.epc → exec .eret s = .next (tileGo q.epc s)) ∧
    (∀ r, q.restart = some r → q.epc ≠ r.pc → InCode q q.epc → exec .eret s =
      .next ((abandon s.cur r s).updSeq s.cur fun q => { q with pc := q.epc, afterSafe := false })) ∧
    (∀ r, q.restart = some r → q.epc = r.pc → r.final = true → exec .eret s =
      .next ((abandon s.cur r s).updSeq s.cur fun q => { q with pc := r.resume, afterSafe := false })) ∧
    (∀ r o, q.restart = some r → q.epc = r.pc → r.final = false → r.isCmd = false → s.curCore.op? r.id = some o →
      let e := s.curCore.table[o.rcd.word.idx.toNat]'o.rcd.word.idx.isLt
      e.kind ≠ .unbound → e.kind ≠ .reserved → step4Ok e o.rcd.word = true →
      let waits := 8 ≤ s.curCore.queued (queueOf e) ∨ (e.kind = .routine ∧ q.bankPending = true) ∨
        ∃ x ∈ s.curCore.ops, (x.id < o.id ∨ r.next ≤ x.id) ∧ x.parent = none ∧ ¬ (x.q = queueOf e ∧ x.q ≠ .lane) ∧
          (opTouch (s.pedlimit s.cur) x.entry x.rcd).conflicts (opTouch (s.pedlimit s.cur) e o.rcd) = true
      (¬ waits → exec .eret s = .next (reissueOp s.cur r o e s)) ∧ (waits → exec .eret s = .next s)) ∧
    ∀ r m, q.restart = some r → q.epc = r.pc → r.final = false → r.isCmd = true → s.curCore.cmd? r.id = some m →
      (s.curCore.retCount m.q < 24 → exec .eret s = .next (reissueCmd s.cur r m s)) ∧
      (24 ≤ s.curCore.retCount m.q → exec .eret s = .next s)) ∧
  (∀ c r (s : State), let k := s.core c
    let u := (abandon c r s).core c
    (∀ o, r.isCmd = false → k.op? r.id = some o →
      u.ops = (k.ops.filter fun x => x.id != o.id && !x.held) ++
        ((k.ops.filter fun x => x.id != o.id && x.held).map fun x => { x with held := false }) ∧
      u.cmds = k.cmds ∧ u.dq = dqDrop k.dq o.dtag) ∧
    (r.isCmd = true → u.cmds = k.cmds.filter (fun m => m.id != r.id) ∧ u.dq = k.dq ∧
      u.ops = (k.ops.filter fun x => !x.held) ++ ((k.ops.filter Op.held).map fun x => { x with held := false })) ∧
    u.seq = { k.seq with restart := none, floor := u.seq.floor }) ∧
  (∀ c r o e (s : State),
    let k := ((o.folded.foldl (fun v i => v.markReplay (s.core c).ctx i) s).release c .seq .core).core c
    let t := reissueOp c r o e s
    (t.core c).ops = (k.ops.filter fun x => x.id != o.id && !x.held) ++
        { o with entry := e, q := queueOf e, st := .queued, folded := [], replay := true, held := false,
                 floor := k.issueFloor .seq } ::
          ((k.ops.filter fun x => x.id != o.id && x.held).map fun x => { x with held := false }) ∧
      (t.core c).seq.pc = r.resume ∧ (t.core c).seq.restart = none ∧ (t.core c).seq.dtag = k.seq.dtag ∧
      (t.core c).dq = dqIssue k.dq o.dtag e.team ∧
      (t.core c).cmds = k.cmds ∧ ∀ i ∈ o.folded, (t.dev.rcd k.ctx i).replay = true) ∧
  (∀ c r m (s : State),
    let k := ((m.folded.foldl (fun v i => v.markReplay (s.core c).ctx i) s).release c .seq .core).core c
    let t := reissueCmd c r m s
    (t.core c).cmds = k.cmds.map (fun x => if x.id = m.id then { x with
        st := .queued, landed := [], sub := 0, frames := 0, park := .none, peerBad := false, part := [], folded := [],
        replay := true, floor := k.issueFloor .seq } else x) ∧
      (t.core c).locks = k.locks ++ cmdLocks m ∧
      (∀ h : m.q.toNat < 4, (t.core c).retq[m.q.toNat] = k.retq[m.q.toNat] ++ [.cmd m.id]) ∧
      (t.core c).seq.pc = r.resume ∧ (t.core c).seq.restart = none ∧
      ∀ i ∈ m.folded, (t.dev.rcd k.ctx i).replay = true) ∧
  (∀ (a : SKL) s, let q := s.curCore.seq
    q.pendingSKL a = false → ∃ t, exec (.safept a) s = .next t ∧
      t = s.updCore s.cur (fun k => { k with seq := t.curCore.seq, health := t.curCore.health }) ∧
      t.curCore.seq = { q with
        pc := q.pc + 8, safe := some (q.pc, a.val q), afterSafe := true,
        mode := if s.curCore.checkpointAsked && q.restart.isNone then .stopped else q.mode,
        drain := if s.curCore.checkpointAsked && q.restart.isNone then some .checkpoint else q.drain } ∧
      t.curCore.health.spLast = some s.ticks) ∧
  ∀ s, exec .taskEnd s = .next (s.updSeq s.cur fun q => { q with mode := .ended, afterSafe := false })

/-- R104 to R106, R258. When a load reads is R262's freedom, as log entries 8 and 35 have it; SequencerResultArrives
says what comes of it, StoresReachMemoryAndReadBack what a device read gives. -/
def Obligations.SequencerLoadsAndStores : Prop :=
  (∀ (x : TLoad) s, let q := s.curCore.seq
    let addr := x.a.val q + x.b.val q
    let n := 2 ^ x.w.toNat
    let trap : Out := .next (takeTrap s.cur
      { kind := .tileOpFault, cause := .memoryError, epc := q.pc, resume := q.pc, addr := addr } s)
    q.pendingSK x.a = false → q.pendingSKL x.b = false → s.curCore.destHeld x.d = false →
    (SeqCan true addr n false s →
      (s.curCore.kpoisoned addr.toNat n = true → exec (.tileLdk x) s = trap) ∧
      (s.curCore.kpoisoned addr.toNat n = false →
        exec (.tileLdk x) s = .next (seqLoad s.cur x.d ⟨false, addr.toNat, addr, n, x.sx, none⟩ s) ∧
        (s.sched.choices = [] → (∀ r ∈ q.pend, r.load = none) → (∀ p ∈ s.curCore.kstores, p.agent ≠ .seq) →
          exec (.tileLdk x) s =
            .next (tileLate x.d (extendTo 64 n x.sx (ofBytes (s.curCore.kread addr.toNat n))) 0 s)))) ∧
    ∀ p, SeqCan false addr n false s → SeqAt addr .read p s → let r := s.readPoison s.cur p.pa n
      (r.1 = true → exec (.lds x) s = .next (takeTrap s.cur
        { kind := .tileOpFault, cause := .memoryError, epc := q.pc, resume := q.pc, addr := addr } r.2)) ∧
      (r.1 = false → exec (.lds x) s = .next (seqLoad s.cur x.d ⟨true, p.pa, addr, n, x.sx, none⟩ r.2))) ∧
  (∀ c pa n (s : State), (s.dev.poisoned pa n = true → s.readPoison c pa n = (true, s)) ∧
    (s.dev.poisoned pa n = false → poisonHit 8 (s.core c).mem.l1Poison pa n = false →
      s.readPoison c pa n = (false, s))) ∧
  (∀ (x : TStore) s, let q := s.curCore.seq
    let addr := x.a.val q + x.b.val q
    let n := 2 ^ x.w.toNat
    let bs := leBytes n (x.c.val q).toNat
    let on (t : State) : State := t.updSeq s.cur fun q => { q with pc := q.pc + 8, afterSafe := false }
    q.pendingSK x.a = false → q.pendingSKL x.b = false → q.pendingSKL x.c = false →
    (SeqCan true addr n true s →
      exec (.tileStk x) s = .next (on (s.kstore s.cur .seq addr.toNat bs)) ∧
      (s.sched.choices = [] → (∀ r ∈ q.pend, r.load = none) → (∀ p ∈ s.curCore.kstores, p.agent ≠ .seq) →
        exec (.tileStk x) s = .next (on (s.kwrite s.cur addr.toNat bs)))) ∧
    ∀ p, SeqCan false addr n true s → SeqAt addr .write p s →
      exec (.sts x) s = .next (on (s.dstore s.cur .seq p.pidx s.curCore.replaying p.pa bs))) ∧
  (∀ c d (l : LateLoad) (s : State), let u := (s.beforeLate c .seq l).choice
    let v := u.2.readLate c .seq l
    (u.1 = 0 → seqLoad c d l s = v.2.updSeq c fun q => { q with
      pend := q.pend ++ [⟨d, some (extendTo 64 l.n l.sx v.1), 0, none⟩], pc := q.pc + 8, afterSafe := false }) ∧
    (u.1 ≠ 0 → seqLoad c d l s = u.2.updSeq c fun q => { q with
      pend := q.pend ++ [⟨d, none, 0, some l⟩], pc := q.pc + 8, afterSafe := false })) ∧
  (∀ c a addr bs (s : State), let u := (s.inOrder c a false addr bs.length).choice
    (u.1 = 0 → s.kstore c a addr bs = (u.2.atBank c a addr bs.length).kwrite c addr bs) ∧
    (u.1 ≠ 0 → s.kstore c a addr bs =
      u.2.updCore c fun k => { k with kstores := k.kstores ++ [{ agent := a, addr := addr, bytes := bs }] })) ∧
  (∀ c a pidx replay pa bs (s : State), let u := (s.inOrder c a true pa bs.length).choice
    let st (k : Core) (id : Nat) : PStore :=
      { id := id, agent := a, ctx := k.ctx, pa := pa, bytes := bs, pidx := pidx, replay := replay }
    (u.1 ≠ 0 → s.dstore c a pidx replay pa bs = u.2.updCore c fun k => { k with lstores := k.lstores ++ [st k 0] }) ∧
    (u.1 = 0 → s.dstore c a pidx replay pa bs = (u.2.atL1 c a pa bs.length).updCore c fun k => { k with
      nextStore := k.nextStore + 1, stores := k.stores ++ [st k k.nextStore],
      mem := { k.mem with l1Poison := poisonClear 8 k.mem.l1Poison pa bs.length } })) ∧
  ∀ (n : Nat) (sx : Bool) (bs : List Byte), bs.length = n → 1 ≤ n → n ≤ 8 →
    extendTo 64 n sx (ofBytes bs) =
      if sx && (bs.getD (n - 1) 0).getLsbD 7 then BitVec.ofNat 64 (ofBytes bs + (2 ^ 64 - 2 ^ (8 * n)))
      else BitVec.ofNat 64 (ofBytes bs)

/-- R105 steps 1 to 4, in their order. That reads of a source range go on is log entry 17's. The entry itself is in
TileTrapEntry. -/
def Obligations.SequencerAccessChecks : Prop :=
  (∀ (x : TLoad) s, let q := s.curCore.seq
    let addr := x.a.val q + x.b.val q
    let n := 2 ^ x.w.toNat
    let trap (k : TrapKind) (c : Cause) : Out :=
      .next (takeTrap s.cur { kind := k, cause := c, epc := q.pc, resume := q.pc, addr := addr } s)
    q.pendingSK x.a = false → q.pendingSKL x.b = false → s.curCore.destHeld x.d = false →
    (addr.toNat % n ≠ 0 → exec (.tileLdk x) s = trap .tileOpFault .align ∧ exec (.lds x) s = trap .tileOpFault .align) ∧
    (addr.toNat % n = 0 → 0x100000 < addr.toNat + n → exec (.tileLdk x) s = trap .tileOpFault .kennelRange) ∧
    (addr.toNat % n = 0 → 2 ^ 52 ≤ addr.toNat → exec (.lds x) s = trap .tileOpFault .badAddr) ∧
    (addr.toNat % n = 0 → addr.toNat + n ≤ 0x100000 → s.curCore.locked false addr.toNat n false = true →
      exec (.tileLdk x) s = trap .rangeLock .rangeLock) ∧
    (addr.toNat % n = 0 → addr.toNat < 2 ^ 52 → s.curCore.locked true addr.toNat n false = true →
      exec (.lds x) s = trap .rangeLock .rangeLock)) ∧
  (∀ (x : TStore) s, let q := s.curCore.seq
    let addr := x.a.val q + x.b.val q
    let n := 2 ^ x.w.toNat
    let trap (k : TrapKind) (c : Cause) : Out :=
      .next (takeTrap s.cur { kind := k, cause := c, epc := q.pc, resume := q.pc, addr := addr } s)
    q.pendingSK x.a = false → q.pendingSKL x.b = false → q.pendingSKL x.c = false →
    (addr.toNat % n ≠ 0 → exec (.tileStk x) s = trap .tileOpFault .align ∧ exec (.sts x) s = trap .tileOpFault .align) ∧
    (addr.toNat % n = 0 → 0x100000 < addr.toNat + n → exec (.tileStk x) s = trap .tileOpFault .kennelRange) ∧
    (addr.toNat % n = 0 → 2 ^ 52 ≤ addr.toNat → exec (.sts x) s = trap .tileOpFault .badAddr) ∧
    (addr.toNat % n = 0 → addr.toNat + n ≤ 0x100000 → s.curCore.locked false addr.toNat n true = true →
      exec (.tileStk x) s = trap .rangeLock .rangeLock) ∧
    (addr.toNat % n = 0 → addr.toNat < 2 ^ 52 → s.curCore.locked true addr.toNat n true = true →
      exec (.sts x) s = trap .rangeLock .rangeLock)) ∧
  ∀ (x : TAtom) s, let q := s.curCore.seq
    let n := if x.w64 then 8 else 4
    let addr := x.a.val q
    let trap (k : TrapKind) (c : Cause) : Out :=
      .next (takeTrap s.cur { kind := k, cause := c, epc := q.pc, resume := q.pc, addr := addr } s)
    q.pendingSK x.a = false → q.pendingSKL x.b = false → (∀ o, x.c = some o → q.pendingSKL o = false) →
    s.curCore.destHeld x.d = false →
    (addr.toNat % n ≠ 0 → exec (.atoms x) s = trap .tileOpFault .align) ∧
    (addr.toNat % n = 0 → x.scope = .core → 0x100000 < addr.toNat + n →
      exec (.atoms x) s = trap .tileOpFault .kennelRange) ∧
    (addr.toNat % n = 0 → x.scope ≠ .core → 2 ^ 52 ≤ addr.toNat → exec (.atoms x) s = trap .tileOpFault .badAddr) ∧
    (addr.toNat % n = 0 → x.scope = .core → addr.toNat + n ≤ 0x100000 →
      s.curCore.locked false addr.toNat n true = true → exec (.atoms x) s = trap .rangeLock .rangeLock) ∧
    (addr.toNat % n = 0 → x.scope ≠ .core → addr.toNat < 2 ^ 52 →
      s.curCore.locked true addr.toNat n true = true → exec (.atoms x) s = trap .rangeLock .rangeLock) ∧
    (SeqCan true addr n true s → x.scope = .core → s.curCore.kpoisoned addr.toNat n = true →
      exec (.atoms x) s = trap .tileOpFault .memoryError) ∧
    (x.scope = .system → addr.getLsbD 51 = true → SeqCan false addr n true s → q.remote = .none →
      ((s.part (ctxPart s.curCore.ctx)).window addr).v = false → exec (.atoms x) s = trap .tileOpFault .translation) ∧
    ∀ p, x.scope ≠ .core → ¬ (x.scope = .system ∧ addr.getLsbD 51 = true) → SeqCan false addr n true s →
      SeqAt addr .atomic p s → s.dev.poisoned p.pa n = true → exec (.atoms x) s = trap .tileOpFault .memoryError

/-- R104, R222: what a store leaves. The address is the one the meaning stores to; LaneLoadsAndStores states that
the lane stores make these writes. Stores on their way are log entry 35, held writes log entry 12. -/
def Obligations.SequencerStoreFrame : Prop :=
  (∀ (x : TStore) (s t : State), memoriesWf s = true → let q := s.curCore.seq
    let addr := x.a.val q + x.b.val q
    let n := 2 ^ x.w.toNat
    let bs := leBytes n (x.c.val q).toNat
    q.pendingSK x.a = false → q.pendingSKL x.b = false → q.pendingSKL x.c = false →
    (SeqCan true addr n true s → (∀ p ∈ s.curCore.kstores, p.addr + p.bytes.length ≤ 0x100000) →
      exec (.tileStk x) s = .next t → let u := s.inOrder s.cur .seq false addr.toNat n
      ((∀ r ∈ q.pend, ∀ l, r.load = some l → l.overlaps false addr.toNat n = false) → u = s) ∧
      (∀ a, (a < addr.toNat ∨ addr.toNat + n ≤ a) → t.curCore.kreadBy .seq a 1 = u.curCore.kreadBy .seq a 1) ∧
      (∀ i < n, t.curCore.kreadBy .seq (addr.toNat + i) 1 = [bs.getD i 0]) ∧
      (∀ c a, (t.core c).kread a 1 ≠ (u.core c).kread a 1 → c = s.cur ∧
        ((addr.toNat ≤ a ∧ a < addr.toNat + n) ∨ ∃ p ∈ s.curCore.kstores, p.agent = .seq ∧ p.overlaps a 1 = true)) ∧
      (∀ c a, (t.core c).mem.aread a 1 = (s.core c).mem.aread a 1 ∧
        (t.core c).mem.pread a 1 = (s.core c).mem.pread a 1) ∧
      t.dev = s.dev ∧ t.curCore.seq = { q with pend := t.curCore.seq.pend, pc := q.pc + 8, afterSafe := false } ∧
      ((∀ r ∈ q.pend, r.load = none) → t.curCore.seq.pend = q.pend)) ∧
    ∀ p, SeqCan false addr n true s → SeqAt addr .write p s → exec (.sts x) s = .next t →
      let u := s.inOrder s.cur .seq true p.pa n
      ((∀ r ∈ q.pend, ∀ l, r.load = some l → l.overlaps true p.pa n = false) → u = s) ∧ SameMemory u t ∧
      (∀ c a, (t.core c).kread a 1 = (s.core c).kread a 1 ∧ (t.core c).mem.aread a 1 = (s.core c).mem.aread a 1 ∧
        (t.core c).mem.pread a 1 = (s.core c).mem.pread a 1) ∧
      t.curCore.seq = { q with
        pend := t.curCore.seq.pend, floor := t.curCore.seq.floor, pc := q.pc + 8, afterSafe := false } ∧
      ∃ st : PStore, st.agent = .seq ∧ st.pa = p.pa ∧ st.bytes = bs ∧
        ((t.curCore.stores = u.curCore.stores ∧ t.curCore.lstores = u.curCore.lstores ++ [st]) ∨
          ∃ l, t.curCore.stores = u.curCore.stores ++ l ++ [st] ∧ (∀ y ∈ l, y.agent = .seq) ∧
            ∀ y ∈ t.curCore.lstores, y ∈ u.curCore.lstores ∧ ¬ (y.agent = .seq ∧ y.overlaps p.pa n = true))) ∧
  (∀ (s : State) (c : CoreNo) (addr : Nat) (bs : List Byte), memoriesWf s = true → addr + bs.length ≤ 0x100000 →
    let t := s.kwrite c addr bs
    (∀ d a, (d = c → a < addr ∨ addr + bs.length ≤ a) → (t.core d).kread a 1 = (s.core d).kread a 1) ∧
    (∀ i < bs.length, (t.core c).kread (addr + i) 1 = [bs.getD i 0]) ∧
    (∀ d a, (t.core d).mem.aread a 1 = (s.core d).mem.aread a 1 ∧
      (t.core d).mem.pread a 1 = (s.core d).mem.pread a 1) ∧ t.dev = s.dev ∧ memoriesWf t = true) ∧
  (∀ (s : State) (c : CoreNo) (lane addr : Nat) (bs : List Byte), memoriesWf s = true → lane < 128 →
    addr + bs.length ≤ 0x800 →
    let t := s.updCore c fun k => k.pwrite lane addr bs
    (∀ d a, (d = c → a < 2048 * lane + addr ∨ 2048 * lane + addr + bs.length ≤ a) →
      (t.core d).mem.pread a 1 = (s.core d).mem.pread a 1) ∧
    (∀ i < bs.length, (t.core c).mem.pread (2048 * lane + addr + i) 1 = [bs.getD i 0]) ∧
    (∀ d a, a < 0x100000 → (t.core d).kread a 1 = (s.core d).kread a 1) ∧
    (∀ d a, a < 0x40000 → (t.core d).mem.aread a 1 = (s.core d).mem.aread a 1) ∧ t.dev = s.dev ∧
    memoriesWf t = true) ∧
  ∀ (s : State) (c : CoreNo) (a : Agent) (pidx : Nat) (replay : Bool) (pa : Nat) (bs : List Byte),
    SameMemory s (s.devStore c a pidx replay pa bs)

/-- R107, R108, R263 to R265, R368. Floors and the places where loads and stores wait are the model's (log entries
8, 12 and 35); `atomNew` is R107's function, which BitAndAtomicFunctions states. -/
def Obligations.SequencerAtomics : Prop :=
  (∀ (x : TFence) s, let c := s.cur
    let u := s.settleAgent c .seq
    exec (.tileFence x) s = .next ((match x.kind with
      | .rel => u.release c .seq x.scope
      | .acq => u.acquire c .seq x.scope
      | .acqrel => (u.release c .seq x.scope).acquire c .seq x.scope).updSeq c fun q =>
        { q with pc := q.pc + 8, afterSafe := false })) ∧
  (∀ (x : TAtom) s, let q := s.curCore.seq
    let c := s.cur
    let n := if x.w64 then 8 else 4
    let addr := x.a.val q
    let v := (x.b.val q).toNat % 2 ^ (8 * n)
    let cmp := (match x.c with | some o => (o.val q).toNat | none => 0) % 2 ^ (8 * n)
    let u := if x.rel then s.release c .seq x.scope else s
    let late (dev : Bool) (pa pidx : Nat) : LateLoad :=
      { dev := dev, pa := pa, va := addr, n := n, sx := false,
        rmw := some { op := x.op, x := v, cmp := cmp, scope := x.scope, pidx := pidx, replay := s.curCore.replaying,
                      team := none } }
    let answer (l : LateLoad) : Out :=
      if x.acq then
        let r := (u.beforeLate c .seq l).readLate c .seq l
        .next ((r.2.acquire c .seq x.scope).updSeq s.cur fun q => { q with
          pend := q.pend ++ [{ d := x.d, v := some (BitVec.ofNat 64 r.1) }], pc := q.pc + 8, afterSafe := false })
      else .next (seqLoad c x.d l u)
    q.pendingSK x.a = false → q.pendingSKL x.b = false → (∀ o, x.c = some o → q.pendingSKL o = false) →
    s.curCore.destHeld x.d = false →
    (x.scope = .core → SeqCan true addr n true s → s.curCore.kpoisoned addr.toNat n = false →
      exec (.atoms x) s = answer (late false addr.toNat 0)) ∧
    (∀ p, x.scope ≠ .core → ¬ (x.scope = .system ∧ addr.getLsbD 51 = true) → SeqCan false addr n true s →
      SeqAt addr .atomic p s → s.dev.poisoned p.pa n = false →
      exec (.atoms x) s = answer (late true p.pa p.pidx)) ∧
    (x.scope = .system → addr.getLsbD 51 = true → SeqCan false addr n true s →
      let w := (s.part (ctxPart s.curCore.ctx)).window addr
      (q.remote = .none → w.v = true →
        let r := u.sendAtomic (.seqAtomic c) (ctxPart s.curCore.ctx) w addr x.op x.w64 x.acq x.rel (BitVec.ofNat 64 v)
          (BitVec.ofNat 64 cmp)
        exec (.atoms x) s = .next (r.2.updSeq c fun q => { q with remote := .flight r.1 })) ∧
      ∀ old : W64, q.remote = .value old →
        let s' := s.updSeq c fun q => { q with remote := .none }
        exec (.atoms x) s = .next ((if x.acq then s'.acquire c .seq .system else s').updSeq s.cur fun q =>
          { q with pend := q.pend ++ [{ d := x.d, v := some old }], pc := q.pc + 8, afterSafe := false }))) ∧
  (∀ (c : CoreNo) (a : Agent) (l : LateLoad) (r : Rmw) (s : State), l.rmw = some r →
    (l.dev = false → s.readLate c a l = kennelRmw c r l.pa l.n s ∧ s.beforeLate c a l = s.atBank c a l.pa l.n) ∧
    (l.dev = true → r.team = none → s.readLate c a l = deviceRmw c a r l.pa l.n s) ∧
    (l.dev = true → s.beforeLate c a l = s.atL1 c a l.pa l.n)) ∧
  (∀ (c : CoreNo) (r : Rmw) (addr n : Nat) (s : State), n = 4 ∨ n = 8 → addr + n ≤ 0x100000 → memoriesWf s = true →
    (∀ p ∈ (s.core c).kstores, p.addr + p.bytes.length ≤ 0x100000) → let t := kennelRmw c r addr n s
    ((∀ p ∈ (s.core c).kstores, p.overlaps addr n = false) ∨ s.sched.choices = [] →
      t.1 = ofBytes ((s.core c).kread addr n) ∧ (t.2.core c).kread addr n = leBytes n (atomNew r.op n t.1 r.x r.cmp)) ∧
    ∀ d b, (d = c → (b < addr ∨ addr + n ≤ b) ∧ ∀ p ∈ (s.core c).kstores, p.overlaps addr n = true → p.overlaps b 1 = false) →
      (t.2.core d).kread b 1 = (s.core d).kread b 1) ∧
  (∀ (c : CoreNo) (a : Agent) (r : Rmw) (pa n : Nat) (s : State), n = 4 ∨ n = 8 → memoriesWf s = true →
    let t := deviceRmw c a r pa n s
    (s.sched.choices = [] →
      ((∀ st ∈ (s.core c).stores, st.overlaps pa n = false) → (∀ h ∈ s.dev.held, h.overlaps pa n = false) →
        t.1 = s.dev.word pa n) ∧
      (r.scope ≠ .cluster → t.2.dev.bytes pa n = leBytes n (atomNew r.op n t.1 r.x r.cmp)) ∧
      (r.scope = .cluster → t.2.dev.word pa n = t.1)) ∧
    (r.scope = .cluster → s.sched.choices = [] → ∃ h ∈ t.2.dev.held, h.core = c ∧ h.agent = a ∧ h.pa = pa ∧
      h.bytes = leBytes n (atomNew r.op n t.1 r.x r.cmp)) ∧
    (∀ st ∈ (t.2.core c).stores, st.agent = a → st.overlaps pa n = false) ∧
    ∀ b, (b < pa ∨ pa + n ≤ b) → (∀ d, ∀ st ∈ (s.core d).stores, st.overlaps b 1 = false) →
      (∀ h ∈ s.dev.held, h.overlaps b 1 = false) → t.2.dev.byte b = s.dev.byte b) ∧
  (∀ (c : CoreNo) (a : Agent) (sc : Scope) (s : State), let t := s.release c a sc
    (∀ p ∈ (t.core c).kstores, p.agent ≠ a) ∧ (∀ p ∈ (t.core c).lstores, p.agent ≠ a) ∧
    (a = .seq → ∀ r ∈ (t.core c).seq.pend, r.load = none) ∧
    (sc ≠ .core → ∀ p ∈ (t.core c).stores, p.agent ≠ a) ∧
    (sc = .device ∨ sc = .system → (t.core c).port = [] ∧ ∀ h ∈ t.dev.held, ¬ (h.core = c ∧ h.agent = a))) ∧
  ∀ (c : CoreNo) (a : Agent) (sc : Scope) (s : State),
    (a = .seq ∨ ∃ l i, a = .thread l i ∧ ((s.core c).thread l i).isSome = true) →
    let t := s.acquire c a sc
    let f := (t.core c).floorOf a
    f.core = (s.core c).nextStore - 1 ∧ (sc = .device ∨ sc = .system → f.acq = t.dev.stamp) ∧
    (∀ o ∈ t.dev.old, (sc = .core ∧ o.src = c.val) ∨ (sc = .cluster ∧ o.src / 4 = c.val / 4) →
      o.till ≤ f.stampOf o.pa) ∧
    ∀ pa, (s.core c).relCore.stampOf pa ≤ f.stampOf pa

/-- R184: e, cnt, emin, emax and gi are the fields of d, `lsUpdate` is its pseudocode. -/
def Obligations.LossScaleUpdate : Prop :=
  ∀ (x : TLsupd) s, let q := s.curCore.seq
    let d := q.s[x.d.val]
    let e := (d.extractLsb' 56 8).toInt
    let cnt := (d.extractLsb' 32 24).toNat
    let emin := (d.extractLsb' 24 8).toInt
    let emax := (d.extractLsb' 16 8).toInt
    let gi := (d.extractLsb' 0 16).toNat
    let done (e' : Int) (cnt' : Nat) (fl : W64) : State := s.updSeq s.cur fun q => { q with
      s := q.s.set x.d.val (BitVec.ofInt 8 e' ++ BitVec.ofNat 24 cnt' ++ d.extractLsb' 0 32), tflags := q.tflags ||| fl,
      pc := q.pc + 8, afterSafe := false }
    let n := Nat.min (cnt + 1) (2 ^ 24 - 1)
    q.pendingSK (.s x.d) = false →
    (emax < emin → exec (.lsupd x) s = .next (takeTrap s.cur
      { kind := .tileOpFault, cause := .illegalOperand, epc := q.pc, resume := q.pc } s)) ∧
    (emin ≤ emax → q.pred x.p = true → emin < e → exec (.lsupd x) s = .next (done (e - 1) 0 0)) ∧
    (emin ≤ emax → q.pred x.p = true → e ≤ emin → q.trapen = false →
      exec (.lsupd x) s = .next (done emin 0 0x100)) ∧
    (emin ≤ emax → q.pred x.p = true → e ≤ emin → q.trapen = true → exec (.lsupd x) s = .next (takeTrap s.cur
      { kind := .lsfloor, cause := .lsfloor, epc := q.pc + 8, resume := q.pc + 8 } (done emin 0 0x100))) ∧
    (emin ≤ emax → q.pred x.p = false → (gi = 0 ∨ n < gi) → exec (.lsupd x) s = .next (done e n 0)) ∧
    (emin ≤ emax → q.pred x.p = false → gi ≠ 0 → gi ≤ n → e < emax →
      exec (.lsupd x) s = .next (done (e + 1) 0 0)) ∧
    (emin ≤ emax → q.pred x.p = false → gi ≠ 0 → gi ≤ n → emax ≤ e → exec (.lsupd x) s = .next (done emax 0 0x200))

/-- R122's steps; the wait for the constant bank is R16's and R99's. `captureRec` is the issue record, `queueOf` the
queue of R124, `Core.conflicts` the scoreboard of R125; `Core.issueFloor` and the release are R106's, as the model
keeps them (log entry 12); the operand that DETAIL names is log entry 29's. -/
def Obligations.BoundOpsIssue : Prop :=
  (∀ (i : Instr) (w : BoundWord) s,
    i ∈ ([.mma w, .accld w, .accst w, .accz w, .tcvt w, .qnt w, .dqnt w, .had w, .perm w, .routineDispatch w] :
      List Instr) →
    let k := s.curCore
    let e := k.table[w.idx.toNat]'w.idx.isLt
    let u := usesOf e w
    let waits : Prop := anyWaits k w.d = true ∨ (u.2.1 = true ∧ anyWaits k w.a = true) ∨
      (u.2.2.1 = true ∧ anyWaits k w.b = true) ∨ (u.2.2.2 = true ∧ anyWaits k w.c = true) ∨
      (e.kind = .routine ∧ ∃ r ∈ k.seq.pend, ∃ n, r.d = SK.c n) ∨ 8 ≤ k.queued (queueOf e) ∨
      k.conflicts (s.pedlimit s.cur) e (queueOf e) (captureRec k e w) = true
    (e.kind = .unbound ∨ e.kind = .reserved → exec i s = .next (takeTrap s.cur
      { kind := .unbound, cause := .unbound, epc := k.seq.pc, resume := k.seq.pc, index := w.idx, pindex := w.idx } s)) ∧
    (e.kind = .engine ∨ e.kind = .routine → step4Ok e w = false → exec i s = .next (takeTrap s.cur
      { kind := .illegalTile, cause := .illegalTile, epc := k.seq.pc, resume := k.seq.pc } s)) ∧
    (e.kind = .engine ∨ e.kind = .routine → step4Ok e w = true → waits → exec i s = .next s) ∧
    (e.kind = .engine ∨ e.kind = .routine → step4Ok e w = true → ¬ waits →
      let team := if e.kind = BindKind.routine then some (32 * 2 ^ e.gang) else none
      let u := (s.release s.cur .seq .core).attachWake s.cur k.seq.dtag team
      ∃ o : Op, o.id = k.nextId ∧ o.rcd = captureRec k e w ∧ o.entry = e ∧ o.dtag = k.seq.dtag ∧ o.q = queueOf e ∧
        o.st = .queued ∧ o.parent = none ∧ o.folded = [] ∧ o.replay = k.replaying ∧ o.held = false ∧
        o.floor = u.curCore.issueFloor .seq ∧
        exec i s = .next (u.updCore s.cur fun k =>
          let j := ({ k with ops := k.ops ++ [o], nextId := k.nextId + 1 }).issueDq k.seq.dtag team
          { j with seq := { j.seq with dtag := j.seq.dtag + 1, pc := j.seq.pc + 8, afterSafe := false } }))) ∧
  (∀ (k : Core) (tag : BitVec 16) (team : Option Nat), let j := k.issueDq tag team
    (∀ n : Fin 16, j.dq[n] = if k.dq[n].st = .pending ∧ k.dq[n].dtag = tag then
        (match team with
          | some m => { k.dq[n] with st := .attached, remain := m }
          | none => { k.dq[n] with st := .free })
      else k.dq[n]) ∧ j = { k with dq := j.dq }) ∧
  ∀ (s : State) (c : CoreNo) (tag : BitVec 16) (team : Option Nat),
    let attach := team.isSome = true ∧ ∃ n : Fin 16, (s.core c).dq[n].st = .pending ∧ (s.core c).dq[n].dtag = tag
    (¬ attach → s.attachWake c tag team = s) ∧ (attach → s.attachWake c tag team = s.wake c 2)

/-- R163: capture and checks at issue. `Captures` says what joins the core and `CmdTraps` what the checks give; the
operands named here are those of R165 to R169. Where the spec leaves the order of the checks open the model's is log
entry 15's; the release is the model's as in log entry 12. -/
def Obligations.RetrieverCommandsIssue : Prop :=
  (∀ (x : TCpyIn) s, let q := s.curCore.seq
    Captures (.cpyIn x) (q.pendingSK x.a || q.pendingSK x.b || q.pendingSKL x.c) [x.t]
      { newCmd .cpyIn x.q x.dev (x.b.val q) with
        dst := q.t[x.t], addr := x.a.val q,
        pitch := if x.c.val q = 0 then (Desc.of q.t[x.t]).rbytes else (x.c.val q).toNat }
      { tiles := [q.t[x.t]], devs := [x.a.val q], shapeOk := cpyPitchOk (x.c.val q) (Desc.of q.t[x.t]) } s) ∧
  (∀ (x : TCpyOut) s, let q := s.curCore.seq
    Captures (.cpyOut x) (q.pendingSK x.d || q.pendingSK x.b || q.pendingSKL x.c) [x.t]
      { newCmd .cpyOut x.q x.dev (x.b.val q) with
        src := q.t[x.t], addr := x.d.val q,
        pitch := if x.c.val q = 0 then (Desc.of q.t[x.t]).rbytes else (x.c.val q).toNat }
      { tiles := [q.t[x.t]], devs := [x.d.val q], shapeOk := cpyPitchOk (x.c.val q) (Desc.of q.t[x.t]) } s) ∧
  (∀ (x : TCpyKk) s, let q := s.curCore.seq
    let d := Desc.of q.t[x.t]
    let a := Desc.of q.t[x.a]
    Captures (.cpyKk x) (q.pendingSK x.b) [x.t, x.a]
      { newCmd .cpyKk x.q x.dev (x.b.val q) with dst := q.t[x.t], src := q.t[x.a] }
      { tiles := [q.t[x.t], q.t[x.a]],
        shapeOk := d.rows == a.rows && d.rbytes == a.rbytes && !rangesMeet d.rowsList a.rowsList } s) ∧
  (∀ (x : TGth) s, let k := s.curCore
    let q := k.seq
    let n := (Desc.of q.t[x.t]).rows
    Captures (.gth x) (q.pendingSK x.a || q.pendingSK x.b || q.pendingSK x.c) [x.t]
      { newCmd .gth x.q x.dev (x.b.val q) with
        dst := q.t[x.t], addr := x.a.val q, idx := readIndices k (x.c.val q).toNat n }
      { tiles := [q.t[x.t]], klist := some (x.c.val q, 4, 4 * n), devs := [x.a.val q] } s) ∧
  (∀ (x : TSct) s, let k := s.curCore
    let q := k.seq
    let n := (Desc.of q.t[x.t]).rows
    Captures (.sct x) (q.pendingSK x.d || q.pendingSK x.b || q.pendingSK x.c) [x.t]
      { newCmd .sct x.q x.dev (x.b.val q) with
        src := q.t[x.t], addr := x.d.val q, idx := readIndices k (x.c.val q).toNat n }
      { tiles := [q.t[x.t]], klist := some (x.c.val q, 4, 4 * n), devs := [x.d.val q] } s) ∧
  (∀ (x : TPft) s, let q := s.curCore.seq
    let n := (x.c.val q).toNat
    Captures (.pft x) (q.pendingSK x.a || q.pendingSK x.b || q.pendingSKL x.c) []
      { newCmd .pft x.q x.dev (x.b.val q) with addr := x.a.val q, count := n }
      { tiles := [], devs := [x.a.val q], shapeOk := decide (1 ≤ n) && decide (n ≤ 2 ^ 24) } s) ∧
  (∀ (i : Instr) (kind : CmdKind) (x : TRcpy) s,
    (i = .rcpyPull x ∧ kind = .pull) ∨ (i = .rcpyPush x ∧ kind = .push) →
    let k := s.curCore
    let q := k.seq
    let a := x.a.val q
    let d := Desc.of q.t[x.t]
    let word (b : Nat) : W64 := BitVec.ofNat 64 (ofBytes (k.kreadBy .seq b 8))
    let r := RemoteRef.of (word a.toNat) (word (a.toNat + 8))
    Captures i (q.pendingSK x.a || q.pendingSK x.b) [x.t]
      { newCmd kind x.q x.dev (x.b.val q) with
        dst := q.t[x.t], src := q.t[x.t], addr := r.rva, pitch := if r.pitch = 0 then d.rbytes else r.pitch,
        rdev := r.rdev, rpart := r.rpart }
      { tiles := [q.t[x.t]], klist := some (a, 16, 16),
        shapeOk := !(decide (a.toNat % 16 = 0) && decide (a.toNat + 16 ≤ 0x100000)) ||
          (!r.reserved && (r.pitch == 0 || decide (d.rbytes ≤ r.pitch))) } s) ∧
  ∀ (x : TMcast) s, let q := s.curCore.seq
    let mask := x.d.val q
    let others := mask &&& ~~~ (1 <<< (s.cur.val % 4) : W64)
    Captures (.mcast x) (q.pendingSKL x.d || q.pendingSK x.b) [x.t]
      { newCmd .mcast x.q false (x.b.val q) with src := q.t[x.t], mask := others.toNat }
      { tiles := [q.t[x.t]], shapeOk := others != 0 && decide (mask.toNat < 16) } s

/-- R173 to R175. `Bar.update` is the atomic update of R35, which BarrierObjectRules states; `State.barSettle`
brings the sequencer's own earlier accesses to the object first, as the model orders them (log entries 12 and 35),
and a write of a re-executing task is marked (R278). -/
def Obligations.SequencerBarriers : Prop :=
  (∀ (x : TBinit) pl s, let q := s.curCore.seq
    let n := (x.b.val q).toNat
    q.pendingSK x.a = false → q.pendingSKL x.b = false → q.pendingSKL x.c = false → 1 ≤ n → n ≤ 65535 →
    BarCan x.dev (x.a.val q) true pl s →
    exec (.binit x) s = .next (tileNext ((s.barSettle s.cur .seq pl).setBar s.cur.val s.curCore.ctx s.curCore.replaying
      { phase := (x.c.val q).extractLsb' 0 32, remaining := n, expected := n, bytes := 0, y := x.y, ok := true } pl))) ∧
  (∀ (i : Instr) (dev : Bool) (d a : SK) (add : Int) pl s, let q := s.curCore.seq
    (i = .tileBarv ⟨dev, d, a⟩ ∧ add = 0) ∨
      (∃ b, i = .bexp ⟨dev, d, a, b⟩ ∧ add = (b.val q).toInt ∧ q.pendingSKL b = false ∧ -2 ^ 31 ≤ add ∧ add < 2 ^ 31) →
    q.pendingSK a = false → s.curCore.destHeld d = false → BarCan dev (a.val q) true pl s → s.barPoisoned pl = false →
    let u := (s.release s.cur .seq (barScope dev)).barSettle s.cur .seq pl
    (∀ b, (u.bar pl).update 1 add = some b → exec i s = .next (tileLate d ((u.bar pl).phase.zeroExtend 64) 0
      (u.setBar s.cur.val s.curCore.ctx s.curCore.replaying b pl))) ∧
    ((u.bar pl).update 1 add = none → exec i s = .next (takeTrap s.cur
      { kind := .tileOpFault, cause := .badBarrier, epc := q.pc, resume := q.pc, addr := a.val q } u))) ∧
  (∀ (i : Instr) (dev : Bool) (a : SK) (write : Bool) s, let q := s.curCore.seq
    let addr := a.val q
    let trap (k : TrapKind) (c : Cause) : Out :=
      .next (takeTrap s.cur { kind := k, cause := c, epc := q.pc, resume := q.pc, addr := addr } s)
    (∃ x : TBinit, i = .binit x ∧ x.dev = dev ∧ x.a = a ∧ write = true ∧ q.pendingSKL x.b = false ∧
      q.pendingSKL x.c = false ∧ 1 ≤ (x.b.val q).toNat ∧ (x.b.val q).toNat ≤ 65535) ∨
    (∃ x : TBarv, i = .tileBarv x ∧ x.dev = dev ∧ x.a = a ∧ write = true ∧ s.curCore.destHeld x.d = false) ∨
    (∃ x : TBexp, i = .bexp x ∧ x.dev = dev ∧ x.a = a ∧ write = true ∧ s.curCore.destHeld x.d = false ∧
      q.pendingSKL x.b = false ∧ -2 ^ 31 ≤ (x.b.val q).toInt ∧ (x.b.val q).toInt < 2 ^ 31) ∨
    (∃ x : TBwait, i = .tileBwait x ∧ x.dev = dev ∧ x.a = a ∧ write = false ∧ q.pendingSKL x.b = false) ∨
    (∃ x : TBtry, i = .tileBtry x ∧ x.dev = dev ∧ x.a = a ∧ write = false ∧ q.pendingSKL x.b = false) →
    q.pendingSK a = false →
    (addr.toNat % 16 ≠ 0 → exec i s = trap .tileOpFault .badBarrier) ∧
    (addr.toNat % 16 = 0 → dev = false → 0x100000 < addr.toNat + 16 → exec i s = trap .tileOpFault .kennelRange) ∧
    (addr.toNat % 16 = 0 → dev = false → addr.toNat + 16 ≤ 0x100000 →
      s.curCore.locked false addr.toNat 16 write = true → exec i s = trap .rangeLock .rangeLock) ∧
    (addr.toNat % 16 = 0 → dev = true → 2 ^ 52 ≤ addr.toNat → exec i s = trap .tileOpFault .badAddr) ∧
    ∀ pl, BarCan dev addr write pl s → s.barPoisoned pl = true → (∀ x, i ≠ .binit x) →
      exec i s = trap .tileOpFault .memoryError) ∧
  (∀ (x : TBinit) s, let q := s.curCore.seq
    q.pendingSK x.a = false → q.pendingSKL x.b = false → q.pendingSKL x.c = false →
    ¬ (1 ≤ (x.b.val q).toNat ∧ (x.b.val q).toNat ≤ 65535) →
    exec (.binit x) s = .next (tileFault s.cur .illegalOperand 0 s)) ∧
  ∀ (x : TBexp) s, let q := s.curCore.seq
    q.pendingSK x.a = false → q.pendingSKL x.b = false → s.curCore.destHeld x.d = false →
    ¬ (-2 ^ 31 ≤ (x.b.val q).toInt ∧ (x.b.val q).toInt < 2 ^ 31) →
    exec (.bexp x) s = .next (tileFault s.cur .illegalOperand 0 s)

/-- R35's atomic update, and the layout of R34. -/
def Obligations.BarrierObjectRules : Prop :=
  (∀ (b : Bar) (n : Nat) (add : Int),
    (b.update n add = none ↔ b.ok = false ∨ b.remaining < n ∨ b.bytes + add < -2 ^ 31 ∨ 2 ^ 31 ≤ b.bytes + add) ∧
    ∀ u, b.update n add = some u → u.expected = b.expected ∧ u.y = b.y ∧ u.ok = b.ok ∧
      (b.remaining = n ∧ b.bytes + add = 0 → u.phase = b.phase + 1 ∧ u.remaining = b.expected ∧ u.bytes = 0) ∧
      (¬ (b.remaining = n ∧ b.bytes + add = 0) →
        u.phase = b.phase ∧ u.remaining = b.remaining - n ∧ u.bytes = b.bytes + add)) ∧
  ∀ b : Bar, b.ok = true → b.remaining < 65536 → b.expected < 65536 → -2 ^ 31 ≤ b.bytes → b.bytes < 2 ^ 31 →
    Bar.ofBytes b.toBytes = b

/-- R36. `laneBarrier` is the lane form of the checks of R173. -/
def Obligations.BarrierWaitsAndTests : Prop :=
  (∀ phase n : W32, phasePassed phase n = true ↔
    1 ≤ ((phase.toNat : Int) - n.toNat) % 2 ^ 32 ∧ ((phase.toNat : Int) - n.toNat) % 2 ^ 32 ≤ 2 ^ 31 - 1) ∧
  (∀ (dev y : Bool) (p : PredNo) (a : SK) (b : SKL) pl s, let q := s.curCore.seq
    q.pendingSK a = false → q.pendingSKL b = false → BarCan dev (a.val q) false pl s → s.barPoisoned pl = false →
    let u := s.barSettle s.cur .seq pl
    let n := (b.val q).extractLsb' 0 32
    (u.bar pl).ok = true →
    (phasePassed (u.bar pl).phase n = true →
      (exec (.tileBwait ⟨dev, y, a, b⟩) s = .next ((u.acquire s.cur .seq (barScope dev)).updSeq s.cur fun q => { q with
        pc := q.pc + 8, afterSafe := false, standSince := none })) ∧
      exec (.tileBtry ⟨dev, p, a, b⟩) s = .next ((u.acquire s.cur .seq (barScope dev)).updSeq s.cur fun q => { q with
        p := predSet q.p p true, pc := q.pc + 8, afterSafe := false })) ∧
    (phasePassed (u.bar pl).phase n = false →
      (∃ t, exec (.tileBwait ⟨dev, y, a, b⟩) s = .next t ∧ t.curCore.seq.pc = q.pc) ∧
      exec (.tileBtry ⟨dev, p, a, b⟩) s = .next (u.updSeq s.cur fun q => { q with
        p := predSet q.p p false, pc := q.pc + 8, afterSafe := false }))) ∧
  (∀ (x : LBwait), LaneDoes (.laneBwait x)
    (fun i s => ∃ a pl, laneBarrier x.dev i false s = .ok (a, pl) ∧ ((s.barSettle i.t.c i.t.agent pl).bar pl).ok = true ∧
      phasePassed ((s.barSettle i.t.c i.t.agent pl).bar pl).phase i.b0 = true)
    (fun i s => match laneBarrier x.dev i false s with
      | .ok (_, pl) => ((s.barSettle i.t.c i.t.agent pl).acquire i.t.c i.t.agent (barScope x.dev), {})
      | .error _ => (s, {}))) ∧
  ∀ (x : LBtry), LaneDoes (.laneBtry x)
    (fun i s => ∃ a pl, laneBarrier x.dev i false s = .ok (a, pl) ∧ ((s.barSettle i.t.c i.t.agent pl).bar pl).ok = true)
    (fun i s => match laneBarrier x.dev i false s with
      | .ok (_, pl) =>
        let u := s.barSettle i.t.c i.t.agent pl
        if phasePassed (u.bar pl).phase i.b0 then
          (u.acquire i.t.c i.t.agent (barScope x.dev), { preds := [(x.pd, true)] })
        else (u, { preds := [(x.pd, false)] })
      | .error _ => (s, {}))

/-- R178 to R183. The answer of HOME is in PedigreeRequestsAtHome; the release is the model's as in log entry 12. -/
def Obligations.PedigreeRequestsIssue : Prop :=
  (∀ (a : SKL) s, let q := s.curCore.seq
    let i := a.val q
    q.pendingSKL a = false →
    (i = 0 ∨ s.pedlimit s.cur ≤ i.toNat →
      exec (.pclose a) s = .next (tileFault s.cur .illegalOperand 0 s) ∧
      exec (.preset a) s = .next (tileFault s.cur .illegalOperand 0 s)) ∧
    (i ≠ 0 → i.toNat < s.pedlimit s.cur → i.toNat ∉ s.openCloses s.cur → (s.openCloses s.cur).length < 16 →
      let u := (s.release s.cur .seq .device).performAll s.cur fun p => p.pidx == i.toNat
      exec (.pclose a) s = .next (u.updCore s.cur fun k => { k with
        ped := k.ped ++ [.close i.toNat], seq := { k.seq with pc := k.seq.pc + 8, afterSafe := false } }) ∧
      exec (.preset a) s = .next (u.updCore s.cur fun k => { k with
        ped := k.ped ++ [.reset i.toNat], seq := { k.seq with pc := k.seq.pc + 8, afterSafe := false } })) ∧
    (i ≠ 0 → i.toNat < s.pedlimit s.cur → i.toNat ∈ s.openCloses s.cur ∨ 16 ≤ (s.openCloses s.cur).length →
      exec (.pclose a) s = .next s ∧ exec (.preset a) s = .next s)) ∧
  (∀ (n : Instr) (x : TAlu2) (fieldOk : W64 → Bool) (r : PedReq) s, let q := s.curCore.seq
    let i := x.a.val q
    let b := x.b.val q
    (n = .ppeek x ∧ fieldOk = bankField ∧ r = .peek i.toNat b.toNat x.d) ∨
      (n = .pread x ∧ fieldOk = bankField ∧ r = .read i.toNat b.toNat x.d) ∨
      (n = .preadHdr x ∧ fieldOk = headerField ∧ r = .readHdr i.toNat b.toNat x.d) →
    Ready2 x s →
    (i = 0 ∨ s.pedlimit s.cur ≤ i.toNat ∨ fieldOk b = false →
      exec n s = .next (tileFault s.cur .illegalOperand 0 s)) ∧
    (i ≠ 0 → i.toNat < s.pedlimit s.cur → fieldOk b = true → i.toNat ∉ s.openCloses s.cur →
      exec n s = .next (s.updCore s.cur fun k => { k with
        ped := k.ped ++ [r],
        seq := { k.seq with pend := k.seq.pend ++ [⟨x.d, none, 0, none⟩], pc := k.seq.pc + 8, afterSafe := false } }))) ∧
  ∀ (x : TPsett) s, let q := s.curCore.seq
    let i := x.a.val q
    let b := x.b.val q
    q.pendingSKL x.a = false → q.pendingSKL x.b = false →
    (i = 0 ∨ s.pedlimit s.cur ≤ i.toNat ∨ (x.f = 2 ∧ (b.extractLsb' 0 4).toNat > 9) →
      exec (.psett x) s = .next (tileFault s.cur .illegalOperand 0 s)) ∧
    (i ≠ 0 → i.toNat < s.pedlimit s.cur → (x.f = 2 → (b.extractLsb' 0 4).toNat ≤ 9) →
      (i.toNat ∈ s.openCloses s.cur → exec (.psett x) s = .next s) ∧
      (i.toNat ∉ s.openCloses s.cur → exec (.psett x) s = .next (s.updCore s.cur fun k => { k with
        ped := k.ped ++ [.sett i.toNat x.f b], seq := { k.seq with pc := k.seq.pc + 8, afterSafe := false } })))

/-- R187, R189, R191, R140 and R141. The numbers of the ring are those of the task at its placement (R320). When
each core takes its update is the model's (log entry 16); floors and releases are the model's (log entry 12), and
that the overflow ring has no bytes in memory is log entry 31's. -/
def Obligations.LaunchDecisionStreamBind : Prop :=
  (∀ (a : SK) s, let k := s.curCore
    let addr := a.val k.seq
    let bs := k.kreadBy .seq addr.toNat 64
    let ring := s.ringUsed s.cur
    k.seq.pendingSK a = false → KennelCan addr 64 64 false s →
    (launchOk bs = false → exec (.launch a) s = .next (tileFault s.cur .badLaunch addr s)) ∧
    (launchOk bs = true → k.launchQ.length < 4 ∨ ring.1 < ring.2 →
      exec (.launch a) s = .next (tileNext
        (launchInto s.cur (s.launchedBy s.cur (launchRecOf bs)) (s.release s.cur .seq .device)))) ∧
    (launchOk bs = true → 4 ≤ k.launchQ.length → ring.2 ≤ ring.1 →
      exec (.launch a) s = .next (takeTrap s.cur
        { kind := .launchOverflow, cause := .launchOverflow, epc := k.seq.pc, resume := k.seq.pc, addr := addr } s))) ∧
  (∀ (c : CoreNo) (r : LaunchRec) (s : State), let k := s.core c
    let r' := { r with no := s.launchNo c }
    (∀ x ∈ s.launches c, x.no < r'.no) ∧
    (k.launchQ.length < 4 → launchInto c r s = s.updCore c fun k => { k with launchQ := k.launchQ ++ [r'] }) ∧
    (4 ≤ k.launchQ.length → ∀ t, k.task = some t → let x := s.throughRing r.ctx t.regs .write r'
      launchInto c r s = (x.2.updCtx k.ctx fun y => { y with ring := y.ring ++ [(c.val, x.1)] }).updCore c fun k =>
        { k with seq := { k.seq with tflags := k.seq.tflags ||| 0x400 } })) ∧
  (∀ (ctx : W32) (regs : CtxRegs) (need : Need) (r : LaunchRec) (s : State),
    let ring := s.xlateRange ctx need regs.lringbase.toNat (64 * regs.lringsize.toNat)
    (regs.lringbase.toNat % 64 = 0 → ring.isOk = true → s.throughRing ctx regs need r = (r, s)) ∧
    (regs.lringbase.toNat % 64 ≠ 0 ∨ ring.isOk = false → ∃ (v : BitVec 512) (t : State),
      s.throughRing ctx regs need r =
        ({ launchRecOf (leBytes 64 v.toNat) with queue := r.queue, ctx := r.ctx, no := r.no }, t) ∧
      t.cores = s.cores ∧ t.ctxs = s.ctxs)) ∧
  (∀ (c : CoreNo) (r : LaunchRec) (s : State),
    (∀ t, (s.core c).task = some t → s.launchedBy c r = { r with queue := t.queue, ctx := t.ctx }) ∧
    (∀ t x, (s.core c).task = some t → s.ctx? (s.core c).ctx = some x →
      s.ringUsed c = (x.ring.length, t.regs.lringsize.toNat))) ∧
  (∀ (x : TDqpush) s, let k := s.curCore
    let n := (x.a.val k.seq).toNat
    let b := x.b.val k.seq
    k.seq.pendingSKL x.a = false → k.seq.pendingSK x.b = false →
    (255 < n → exec (.dqpush x) s = .next (tileFault s.cur .illegalOperand 0 s)) ∧
    (n ≤ 255 → KennelCan b 8 24 false s →
      (∀ i : Fin 16, k.dq[i].st = .free → (∀ j < i, k.dq[j].st ≠ .free) →
        ∃ r : DqRec, exec (.dqpush x) s = .next (tileNext (s.updCore s.cur fun k => { k with dq := k.dq.set i.val r })) ∧
          r.st = .pending ∧ r.dtag = k.seq.dtag + BitVec.ofNat 16 n ∧
          (∀ j : Fin 6, r.payload[j] = BitVec.ofNat 32 (ofBytes (k.kreadBy .seq (b.toNat + 4 * j.val) 4))) ∧
          ∀ j : Fin 16, k.dq[j].order < r.order) ∧
      ((∀ i : Fin 16, k.dq[i].st ≠ .free) →
        exec (.dqpush x) s = .next (if ∃ i : Fin 16, k.dq[i].st = .attached then s else tileFault s.cur .dqFull b s)))) ∧
  (∀ (x : TQsinit) s, let q := s.curCore.seq
    let a := x.a.val q
    let cap := (x.b.val q).toNat
    let size := (x.c.val q).toNat
    q.pendingSK x.a = false → q.pendingSKL x.b = false → q.pendingSKL x.c = false → a.toNat % 32 = 0 →
    let good : Prop := 1 ≤ cap ∧ cap ≤ 4096 ∧ (size = 4 ∨ size = 8 ∨ size = 16 ∨ size = 32)
    (¬ good → exec (.qsinit x) s = .next (tileFault s.cur .illegalOperand 0 s)) ∧
    (good → 0x100000 < a.toNat + 32 + cap * size → exec (.qsinit x) s = .next (tileFault s.cur .kennelRange a s)) ∧
    (good → a.toNat + 32 + cap * size ≤ 0x100000 → s.curCore.locked false a.toNat 32 true = false →
      exec (.qsinit x) s = .next (tileNext ((s.atBank s.cur .seq a.toNat 32).kwrite s.cur a.toNat
        (leBytes 8 0 ++ leBytes 2 cap ++ leBytes 2 size ++ [0, 0, 0, 0x5C] ++ List.replicate 16 0))))) ∧
  (∀ (x : TBind) s, let k := s.curCore
    let i := x.a.val k.seq
    let b := x.b.val k.seq
    let n : Byte := i.extractLsb' 0 8
    let e := entryOfBytes (k.kreadBy .seq b.toNat 32)
    k.seq.pendingSKL x.a = false → k.seq.pendingSKL x.b = false →
    (255 < i.toNat → exec (.bind x) s = .next (tileFault s.cur .illegalOperand 0 s) ∧
      exec (.bindrd x) s = .next (tileFault s.cur .illegalOperand 0 s)) ∧
    (i.toNat ≤ 255 → KennelCan b 8 32 false s →
      (e.ok = false → exec (.bind x) s = .next (tileFault s.cur .badBinding b s)) ∧
      (e.ok = true → exec (.bind x) s = .next (tileNext (broadcastBind s.cur k.ctx n e
        ((s.release s.cur .seq .device).updCore s.cur fun k => { k with table := k.table.set n.toNat e n.isLt }))))) ∧
    (i.toNat ≤ 255 → KennelCan b 8 32 true s →
      exec (.bindrd x) s = .next (tileNext ((s.atBank s.cur .seq b.toNat 32).kwrite s.cur b.toNat
        (k.table[n.toNat]'n.isLt).toBytes)))) ∧
  ∀ (c d : CoreNo) (ctx : W32) (n : Byte) (e : BindEntry) s, let t := broadcastBind c ctx n e s
    (∀ x, s.ctx? ctx = some x → t.ctx? ctx = some { x with table := x.table.set n.toNat e n.isLt }) ∧
    ((s.core d).task.isSome = true → (s.core d).ctx = ctx →
      t.core d = { s.core d with updates := (s.core d).updates ++ [(n.toNat, e, d == c)] }) ∧
    ((s.core d).task = none ∨ (s.core d).ctx ≠ ctx → t.core d = s.core d)

/-- R194 to R197. `LB.sx` and `LB.zx` give operand B: the register, or the immediate sign- or zero-extended. -/
def Obligations.LaneIntegerAndLogic : Prop :=
  (∀ x, LaneGives (.iadd x) fun i => out1 x.vd (i.a0 + x.b.sx i.b0)) ∧
  (∀ x, LaneGives (.isub x) fun i => out1 x.vd (i.a0 - x.b.sx i.b0)) ∧
  (∀ x, LaneGives (.imul x) fun i => out1 x.vd (i.a0 * x.b.sx i.b0)) ∧
  (∀ x, LaneGives (.imulh x) fun i => out1 x.vd (if x.u then
      BitVec.ofNat 32 (i.a0.toNat * (x.b.sx i.b0).toNat / 2 ^ 32)
    else BitVec.ofInt 32 (i.a0.toInt * (x.b.sx i.b0).toInt / 2 ^ 32))) ∧
  (∀ x, LaneGives (.imad x) fun i => out1 x.vd (i.a0 * x.b.sx i.b0 + i.c0)) ∧
  (∀ x, LaneGives (.iadd64 x) fun i =>
    let b : W64 := match x.b with
      | .reg _ => i.b.getD 1 0 ++ i.b.getD 0 0
      | .imm v => v.signExtend 64
    let d := (i.a.getD 1 0 ++ i.a.getD 0 0 : W64) + b
    { regs := [(x.vd, [d.extractLsb' 0 32, d.extractLsb' 32 32])] }) ∧
  (∀ x, LaneGives (.imin x) fun i => out1 x.vd (if i.a0.toInt ≤ (x.b.sx i.b0).toInt then i.a0 else x.b.sx i.b0)) ∧
  (∀ x, LaneGives (.imax x) fun i => out1 x.vd (if i.a0.toInt ≥ (x.b.sx i.b0).toInt then i.a0 else x.b.sx i.b0)) ∧
  (∀ x, LaneGives (.iminu x) fun i => out1 x.vd (if i.a0.toNat ≤ (x.b.sx i.b0).toNat then i.a0 else x.b.sx i.b0)) ∧
  (∀ x, LaneGives (.imaxu x) fun i => out1 x.vd (if i.a0.toNat ≥ (x.b.sx i.b0).toNat then i.a0 else x.b.sx i.b0)) ∧
  (∀ x, LaneGives (.iabs x) fun i => out1 x.vd (if i.a0.toInt < 0 then 0 - i.a0 else i.a0)) ∧
  (∀ x, LaneGives (.ineg x) fun i => out1 x.vd (0 - i.a0)) ∧
  (∀ x, LaneGives (.laneAnd x) fun i => out1 x.vd (i.a0 &&& x.b.zx i.b0)) ∧
  (∀ x, LaneGives (.laneOr x) fun i => out1 x.vd (i.a0 ||| x.b.zx i.b0)) ∧
  (∀ x, LaneGives (.laneXor x) fun i => out1 x.vd (i.a0 ^^^ x.b.zx i.b0)) ∧
  (∀ x, LaneGives (.laneAndn x) fun i => out1 x.vd (i.a0 &&& ~~~(x.b.zx i.b0))) ∧
  (∀ x, LaneGives (.bitfn x) fun i => out1 x.vd (bitfnOf x.lut i.a0 i.b0 i.c0)) ∧
  (∀ x, LaneGives (.laneShl x) fun i => out1 x.vd (i.a0 <<< (x.b.zx i.b0).toNat)) ∧
  (∀ x, LaneGives (.laneShr x) fun i => out1 x.vd (i.a0 >>> (x.b.zx i.b0).toNat)) ∧
  (∀ x, LaneGives (.laneSar x) fun i =>
    out1 x.vd (BitVec.ofInt 32 (i.a0.toInt / 2 ^ Nat.min (x.b.zx i.b0).toNat 31))) ∧
  (∀ x, LaneGives (.rotr x) fun i => out1 x.vd (i.a0.rotateRight ((x.b.zx i.b0).toNat % 32))) ∧
  (∀ x, LaneGives (.lanePopc x) fun i => out1 x.vd (BitVec.ofNat 32 ((List.range 32).countP i.a0.getLsbD))) ∧
  (∀ x, LaneGives (.laneClz x) fun i =>
    out1 x.vd (if i.a0 = 0 then 32 else BitVec.ofNat 32 (31 - Nat.log2 i.a0.toNat))) ∧
  (∀ x, LaneGives (.brev x) fun i => out1 x.vd (brevOf i.a0)) ∧
  (∀ x, LaneGives (.bfe x) fun i => out1 x.vd (bfeOf i.a0 (x.b.zx i.b0))) ∧
  (∀ x, LaneGives (.bfi x) fun i => out1 x.vd (bfiOf i.a0 (x.b.zx i.b0) i.c0)) ∧
  (∀ x, LaneGives (.permb x) fun i => out1 x.vd (permbOf x.mode i.a i.b0)) ∧
  ∀ x, LaneGives (.laneSel x) fun i => out1 x.vd (if i.th.pred x.p then i.a0 else x.b.zx i.b0)

/-- R66, at both widths and both levels. -/
def Obligations.IntegerDivision : Prop :=
  (∀ w, w = 32 ∨ w = 64 → ∀ a b : BitVec w,
    (b = 0 → divS w a b = BitVec.allOnes w ∧ divU w a b = BitVec.allOnes w ∧ remS w a b = a ∧ remU w a b = a) ∧
    (b ≠ 0 → a.toNat = (divU w a b).toNat * b.toNat + (remU w a b).toNat ∧ (remU w a b).toNat < b.toNat ∧
      (¬ (a = BitVec.intMin w ∧ b = BitVec.allOnes w) →
        a.toInt = (divS w a b).toInt * b.toInt + (remS w a b).toInt) ∧
      (remS w a b).toInt.natAbs < b.toInt.natAbs ∧ (0 ≤ a.toInt → 0 ≤ (remS w a b).toInt) ∧
      (a.toInt ≤ 0 → (remS w a b).toInt ≤ 0)) ∧
    divS w (BitVec.intMin w) (BitVec.allOnes w) = BitVec.intMin w ∧
    remS w (BitVec.intMin w) (BitVec.allOnes w) = 0 ∧ (divFlag b.toNat = if b = 0 then fDivZero else 0)) ∧
  (∀ (x : LRI) (i : Instr) (f : W32 → W32 → W32), (i = .idiv x ∧ f = divS 32) ∨ (i = .idivu x ∧ f = divU 32) ∨
      (i = .irem x ∧ f = remS 32) ∨ (i = .iremu x ∧ f = remU 32) →
    LaneDoes i (fun l _ => x.b.sx l.b0 ≠ 0 ∨ l.team.entry.dztrap = false)
      (fun l s => (s, outLate x.vd [f l.a0 (x.b.sx l.b0)] (divFlag (x.b.sx l.b0).toNat))) ∧
    LaneFaults i (fun l _ => x.b.sx l.b0 = 0 ∧ l.team.entry.dztrap = true)
      (fun l => (.divZero, 0, l.a0.zeroExtend 64))) ∧
  TileGivesLate .div (divS 64) (fun _ b => divFlag b.toNat) ∧ TileGivesLate .divu (divU 64) (fun _ b => divFlag b.toNat) ∧
  TileGivesLate .rem (remS 64) (fun _ b => divFlag b.toNat) ∧ TileGivesLate .remu (remU 64) (fun _ b => divFlag b.toNat)

/-- R198 to R201, R209 and R210; R26 and R30 for `laneSpecial`, number by number; R67 for `philox`. `condHolds` is
R102's condition; `fcmpOf` is stated for numbers in LaneFloatingPoint's order. -/
def Obligations.LanePredicatesAndMoves : Prop :=
  (∀ x, LaneGives (.icmp x) fun i =>
    let b : W32 := match x.b with
      | .reg _ => i.b0
      | .imm v => v.signExtend 32
    { preds := [(x.pd, condHolds x.cond i.a0 b && (i.th.pred x.p ^^ x.pneg))] }) ∧
  (∀ x, LaneGives (.fcmp x) fun i =>
    let r := fcmpOf x.cond (f32 x.ftz i.a0) (f32 x.ftz i.b0)
    { preds := [(x.pd, r.1 && (i.th.pred x.p ^^ x.pneg))], flags := if r.2 then fInvalid else 0 }) ∧
  (∀ x, LaneGives (.predfn x) fun i =>
    { preds := [(x.pd,
        x.lut.getLsbD ((i.th.pred x.pa).toNat + 2 * (i.th.pred x.pb).toNat + 4 * (i.th.pred x.pc).toNat))] }) ∧
  (∀ x, LaneGives (.pmovToRegister x) fun i => out1 x.vd ((i.th.p ||| 0x80).zeroExtend 32)) ∧
  (∀ x, LaneGives (.pmovToPredicates x) fun i =>
    { preds := (List.finRange 7).filterMap fun k =>
        if x.mask.getLsbD k.val then some (Fin.ofNat 8 k.val, i.a0.getLsbD k.val) else none }) ∧
  (∀ x, LaneGives (.laneMov x) fun i => out1 x.vd i.a0) ∧
  (∀ x, LaneGives (.movi x) fun _ => out1 x.vd (x.i.signExtend 32)) ∧
  (∀ x, LaneGives (.movhi x) fun i => out1 x.vd (x.i ++ i.a0.extractLsb' 0 16)) ∧
  (∀ x, LaneDoes (.sread x) (fun _ _ => True) fun i s => (s, out1 x.vd (laneSpecial s i.t i.th i.team x.n.toNat))) ∧
  (∀ (s : State) (t : TRef) (th : Thread) (team : Team), let q := (s.core t.c).seq
    let r (n : Nat) : W32 := laneSpecial s t th team n
    let opd (v : OpVal) (j : Fin 4) : W32 := match v with
      | .none => 0
      | .tile d => d.extractLsb' (32 * j.val) 32
      | .val d => if j = 0 then d.extractLsb' 0 32 else if j = 1 then d.extractLsb' 32 32 else 0
    r 0x00 = BitVec.ofNat 32 t.c.val ∧ r 0x01 = q.partid.zeroExtend 32 ∧ r 0x02 = q.iter[0] ∧ r 0x03 = q.iter[1] ∧
    r 0x04 = q.iter[2] ∧ r 0x05 = q.iter[3] ∧ r 0x06 = q.itern.extractLsb' 0 32 ∧ r 0x07 = q.itern.extractLsb' 32 32 ∧
    r 0x08 = q.nodearg.extractLsb' 0 32 ∧ r 0x09 = q.nodearg.extractLsb' 32 32 ∧
    r 0x12 = BitVec.ofNat 32 (s.now / 17) ∧ r 0x13 = BitVec.ofNat 32 (s.now / 17 / 2 ^ 32) ∧
    r 0x14 = BitVec.ofNat 32 (s.now - q.start) ∧ r 0x15 = BitVec.ofNat 32 ((s.now - q.start) / 2 ^ 32) ∧
    r 0x20 = BitVec.ofNat 32 t.lane ∧ r 0x21 = BitVec.ofNat 32 (t.lane / 32) ∧ r 0x22 = BitVec.ofNat 32 t.slot ∧
    r 0x23 = BitVec.ofNat 32 th.rank ∧ r 0x24 = BitVec.ofNat 32 (32 * 2 ^ team.entry.gang) ∧
    r 0x25 = team.rcd.word.idx.zeroExtend 32 ∧ r 0x26 = th.flags.zeroExtend 32 ∧
    r 0x27 = BitVec.ofNat 32 team.entry.budget ∧ r 0x28 = team.dtag.zeroExtend 32 ∧
    ∀ j : Fin 4, r (0x40 + j.val) = opd team.rcd.d j ∧ r (0x44 + j.val) = opd team.rcd.a j ∧
      r (0x48 + j.val) = opd team.rcd.b j ∧ r (0x4C + j.val) = opd team.rcd.c j) ∧
  (∀ c0 c1 c2 c3 k0 k1 : W32, ∃ x0 x1 x2 x3 a b : Nat → W32,
    (x0 0, x1 0, x2 0, x3 0, a 0, b 0) = (c0, c1, c2, c3, k0, k1) ∧
    (∀ j, let p : W64 := 0xD2511F53 * (x0 j).zeroExtend 64
      let q : W64 := 0xCD9E8D57 * (x2 j).zeroExtend 64
      x0 (j + 1) = q.extractLsb' 32 32 ^^^ x1 j ^^^ a j ∧ x1 (j + 1) = q.extractLsb' 0 32 ∧
      x2 (j + 1) = p.extractLsb' 32 32 ^^^ x3 j ^^^ b j ∧ x3 (j + 1) = p.extractLsb' 0 32 ∧
      a (j + 1) = a j + 0x9E3779B9 ∧ b (j + 1) = b j + 0xBB67AE85) ∧
    philox c0 c1 c2 c3 k0 k1 = (x0 10, x1 10, x2 10, x3 10)) ∧
  philox 0 0 0 0 0 0 = (0x6627E8D5, 0xE169C58D, 0xBC57AC4C, 0x9B00DBD8) ∧
  (∀ x, LaneGives (.rng x) fun i =>
    let r := philox (i.a.getD 0 0) (i.a.getD 1 0) (i.a.getD 2 0) (i.a.getD 3 0) (i.b.getD 0 0) (i.b.getD 1 0)
    outLate x.vd [r.1, r.2.1, r.2.2.1, r.2.2.2]) ∧
  ∀ x, LaneGives (.ctradd x) fun i =>
    let inc : W128 := match x.b with
      | .reg _ w64 => if w64 then (i.b.getD 1 0 ++ i.b.getD 0 0).zeroExtend 128 else i.b0.zeroExtend 128
      | .imm v => v.zeroExtend 128
    let d : W128 := (i.a.getD 3 0 ++ i.a.getD 2 0 ++ (i.a.getD 1 0 ++ i.a.getD 0 0) : W128) + inc
    { regs := [(x.vd, [d.extractLsb' 0 32, d.extractLsb' 32 32, d.extractLsb' 64 32, d.extractLsb' 96 32])] }

/-- R202 to R204 and R208; R48 for `minMax`. `FFmt.finish` is the one rounding, which RoundingRules state. Of FEXP2,
FLOG2 and FTANH the statement gives the operands of R203's table and the exact cases; their other values are
computed by enclosure. -/
def Obligations.LaneFloatingPoint : Prop :=
  (∀ x, LaneGives (.fadd x) fun i => fpOut x.vd (fp32F.add x.rm x.ftz (f32 x.ftz i.a0) (f32 x.ftz i.b0))) ∧
  (∀ x, LaneGives (.fsub x) fun i => fpOut x.vd (fp32F.add x.rm x.ftz (f32 x.ftz i.a0) (f32 x.ftz i.b0).neg)) ∧
  (∀ x, LaneGives (.fmul x) fun i => fpOut x.vd (fp32F.mul x.rm x.ftz (f32 x.ftz i.a0) (f32 x.ftz i.b0))) ∧
  (∀ x, LaneGives (.ffma x) fun i =>
    fpOut x.vd (fp32F.fma x.rm x.ftz (f32 x.ftz i.a0) (f32 x.ftz i.b0) (f32 x.ftz i.c0))) ∧
  (∀ x, LaneGives (.fmin x) fun i => fpOut x.vd (fp32F.minMax x.ftz false i.a0.toNat i.b0.toNat)) ∧
  (∀ x, LaneGives (.fmax x) fun i => fpOut x.vd (fp32F.minMax x.ftz true i.a0.toNat i.b0.toNat)) ∧
  (∀ x, LaneGives (.fdiv x) fun i => fpLate x.vd (fp32F.div x.rm x.ftz (f32 x.ftz i.a0) (f32 x.ftz i.b0))) ∧
  (∀ x, LaneGives (.fsqrt x) fun i => fpLate x.vd (fp32F.sqrt x.rm x.ftz (f32 x.ftz i.a0))) ∧
  (∀ x, LaneGives (.frcp x) fun i => fpLate x.vd (fp32F.rcp x.rm x.ftz (f32 x.ftz i.a0))) ∧
  (∀ x, LaneGives (.frsq x) fun i => fpLate x.vd (fp32F.rsq x.rm x.ftz (f32 x.ftz i.a0))) ∧
  (∀ x, LaneGives (.fexp2 x) fun i => fpLate x.vd (fp32F.exp2 x.rm x.ftz (f32 x.ftz i.a0))) ∧
  (∀ x, LaneGives (.flog2 x) fun i => fpLate x.vd (fp32F.log2 x.rm x.ftz (f32 x.ftz i.a0))) ∧
  (∀ x, LaneGives (.ftanh x) fun i => fpLate x.vd (fp32F.tanh x.rm x.ftz (f32 x.ftz i.a0))) ∧
  (∀ x, LaneGives (.pkadd x) fun i =>
    let g := fmt16 x.fh
    let v (w : W32) (k : Nat) : FVal := (g.decode (half w k)).flush g x.ftz
    fpOut x.vd (packRes (g.add x.rm x.ftz (v i.a0 0) (v i.b0 0)) (g.add x.rm x.ftz (v i.a0 1) (v i.b0 1)))) ∧
  (∀ x, LaneGives (.pkmul x) fun i =>
    let g := fmt16 x.fh
    let v (w : W32) (k : Nat) : FVal := (g.decode (half w k)).flush g x.ftz
    fpOut x.vd (packRes (g.mul x.rm x.ftz (v i.a0 0) (v i.b0 0)) (g.mul x.rm x.ftz (v i.a0 1) (v i.b0 1)))) ∧
  (∀ x, LaneGives (.pkfma x) fun i =>
    let g := fmt16 x.fh
    let v (w : W32) (k : Nat) : FVal := (g.decode (half w k)).flush g x.ftz
    fpOut x.vd (packRes (g.fma x.rm x.ftz (v i.a0 0) (v i.b0 0) (v i.c0 0))
      (g.fma x.rm x.ftz (v i.a0 1) (v i.b0 1) (v i.c0 1)))) ∧
  (∀ x, LaneGives (.pkmin x) fun i => fpOut x.vd (packRes
    ((fmt16 x.fh).minMax x.ftz false (half i.a0 0) (half i.b0 0))
    ((fmt16 x.fh).minMax x.ftz false (half i.a0 1) (half i.b0 1)))) ∧
  (∀ x, LaneGives (.pkmax x) fun i => fpOut x.vd (packRes
    ((fmt16 x.fh).minMax x.ftz true (half i.a0 0) (half i.b0 0))
    ((fmt16 x.fh).minMax x.ftz true (half i.a0 1) (half i.b0 1)))) ∧
  (∀ x, LaneGives (.idp4 x) fun i =>
    let ex (u : Bool) (w : W32) (k : Nat) : Int :=
      if u then ((w.extractLsb' (8 * k) 8).toNat : Int) else (w.extractLsb' (8 * k) 8).toInt
    let sum : Int := i.c0.toInt + ex x.ua i.a0 0 * ex x.ub i.b0 0 + ex x.ua i.a0 1 * ex x.ub i.b0 1 +
      ex x.ua i.a0 2 * ex x.ub i.b0 2 + ex x.ua i.a0 3 * ex x.ub i.b0 3
    if x.sat = true ∧ sum < -2147483648 then out1 x.vd 0x80000000 fSat
    else if x.sat = true ∧ 2147483647 < sum then out1 x.vd 0x7FFFFFFF fSat
    else out1 x.vd (BitVec.ofInt 32 sum)) ∧
  (∀ x, LaneGives (.fdp2 x) fun i =>
    let g := fmt16 x.fh
    let v (w : W32) (k : Nat) : FVal := (g.decode (half w k)).flush g x.ftz
    fpOut x.vd (match (v i.a0 0).mul (v i.b0 0), (v i.a0 1).mul (v i.b0 1) with
      | some p, some q => fp32F.sumRes x.rm x.ftz true [p, q, f32 x.ftz i.c0]
      | _, _ => fp32F.nanRes true)) ∧
  (∀ (f : FFmt) (rm : RMode) (ftz : Bool) (na nb : Bool) (ma mb : Nat) (ea eb : Int),
    let a : FVal := .fin na ma ea
    let b : FVal := .fin nb mb eb
    (∀ e ≤ ea, e ≤ eb → let sum : Int := (if na then -1 else 1) * (ma * 2 ^ (ea - e).toNat : Int) +
        (if nb then -1 else 1) * (mb * 2 ^ (eb - e).toNat : Int)
      (sum ≠ 0 → f.add rm ftz a b = f.finish rm ftz (decide (sum < 0)) sum.natAbs e false) ∧
      (sum = 0 → f.add rm ftz a b = f.zeroRes (if ma = 0 ∧ mb = 0 ∧ na = nb then na else rm == .rd))) ∧
    a.mul b = some (.fin (na != nb) (ma * mb) (ea + eb)) ∧
    (ma * mb = 0 → f.mul rm ftz a b = f.zeroRes (na != nb)) ∧
    (ma * mb ≠ 0 → f.mul rm ftz a b = f.finish rm ftz (na != nb) (ma * mb) (ea + eb) false) ∧
    (ma ≠ 0 → mb ≠ 0 → ∃ (q : Nat) (x : Int) (st : Bool) (k : Nat),
      f.div rm ftz a b = f.finish rm ftz (na != nb) q x st ∧ 2 ^ 63 ≤ q ∧ x = ea - eb - k ∧
      q * mb ≤ ma * 2 ^ k ∧ ma * 2 ^ k < (q + 1) * mb ∧ (st = true ↔ q * mb ≠ ma * 2 ^ k)) ∧
    (ma ≠ 0 → mb = 0 → f.div rm ftz a b = f.infRes (na != nb) fDivZero) ∧
    (ma = 0 → mb ≠ 0 → f.div rm ftz a b = f.zeroRes (na != nb)) ∧
    (ma = 0 → mb = 0 → f.div rm ftz a b = f.nanRes true) ∧
    (ma ≠ 0 → na = false → ∃ (r : Nat) (x : Int) (st : Bool) (k : Nat),
      f.sqrt rm ftz a = f.finish rm ftz false r x st ∧ 2 ^ 63 ≤ r ∧ (k : Int) = ea - 2 * x ∧
      r * r ≤ ma * 2 ^ k ∧ ma * 2 ^ k < (r + 1) * (r + 1) ∧ (st = true ↔ r * r ≠ ma * 2 ^ k)) ∧
    (ma ≠ 0 → na = false → ∃ (r : Nat) (x : Int) (st : Bool) (k : Nat),
      f.rsq rm ftz a = f.finish rm ftz false r x st ∧ 2 ^ 63 ≤ r ∧ (k : Int) = -(2 * x + ea) ∧
      r * r * ma ≤ 2 ^ k ∧ 2 ^ k < (r + 1) * (r + 1) * ma ∧ (st = true ↔ r * r * ma ≠ 2 ^ k)) ∧
    (ma ≠ 0 → na = true → f.sqrt rm ftz a = f.nanRes true ∧ f.rsq rm ftz a = f.nanRes true ∧
      f.log2 rm ftz a = f.nanRes true) ∧
    (ma = 0 → f.sqrt rm ftz a = f.zeroRes na ∧ f.rsq rm ftz a = f.infRes na fDivZero ∧
      f.log2 rm ftz a = f.infRes true fDivZero ∧ f.exp2 rm ftz a = f.finish rm ftz false 1 0 false ∧
      f.tanh rm ftz a = f.zeroRes na) ∧
    (∀ k : Nat, ma ≠ 0 → k < 256 → ma * 2 ^ ea.toNat = k * 2 ^ (-ea).toNat →
      f.exp2 rm ftz a = f.finish rm ftz false 1 (if na then -(k : Int) else k) false) ∧
    (∀ l : Nat, ma = 2 ^ l → na = false → f.log2 rm ftz a = if l + ea = 0 then f.zeroRes false
      else f.finish rm ftz (decide (l + ea < 0)) (l + ea).natAbs 0 false)) ∧
  (∀ (f : FFmt) (rm : RMode) (ftz : Bool) (a b c : FVal) (n k : Bool) (m : Nat) (e : Int),
    (a.isNan = true ∨ b.isNan = true → f.add rm ftz a b = f.nanRes (a.isSig || b.isSig) ∧
      f.mul rm ftz a b = f.nanRes (a.isSig || b.isSig) ∧ f.div rm ftz a b = f.nanRes (a.isSig || b.isSig)) ∧
    f.add rm ftz (.inf n) (.inf k) = (if n = k then f.infRes n 0 else f.nanRes true) ∧
    f.add rm ftz (.inf n) (.fin k m e) = f.infRes n 0 ∧ f.add rm ftz (.fin k m e) (.inf n) = f.infRes n 0 ∧
    f.mul rm ftz (.inf n) (.inf k) = f.infRes (n != k) 0 ∧
    f.mul rm ftz (.inf n) (.fin k m e) = (if m = 0 then f.nanRes true else f.infRes (n != k) 0) ∧
    f.mul rm ftz (.fin k m e) (.inf n) = (if m = 0 then f.nanRes true else f.infRes (n != k) 0) ∧
    f.div rm ftz (.inf n) (.inf k) = f.nanRes true ∧ f.div rm ftz (.inf n) (.fin k m e) = f.infRes (n != k) 0 ∧
    f.div rm ftz (.fin k m e) (.inf n) = f.zeroRes (n != k) ∧
    (a.mul b = none → f.fma rm ftz a b c = f.nanRes true) ∧
    (∀ p, a.mul b = some p → f.fma rm ftz a b c = f.add rm ftz p c) ∧
    f.rcp rm ftz a = f.div rm ftz (.fin false 1 0) a ∧
    (∀ g ∈ [f.sqrt rm ftz, f.rsq rm ftz, f.exp2 rm ftz, f.log2 rm ftz, f.tanh rm ftz], g (.nan n) = f.nanRes n) ∧
    f.sqrt rm ftz (.inf n) = (if n then f.nanRes true else f.infRes false 0) ∧
    f.rsq rm ftz (.inf n) = (if n then f.nanRes true else f.zeroRes false) ∧
    f.exp2 rm ftz (.inf n) = (if n then f.zeroRes false else f.infRes false 0) ∧
    f.log2 rm ftz (.inf n) = (if n then f.nanRes true else f.infRes false 0) ∧
    f.tanh rm ftz (.inf n) = f.finish rm ftz n 1 0 false) ∧
  (∀ (f : FFmt) (ftz isMax : Bool) (x y : Nat), f ∈ [fp32F, bf16F, fp16F] → x < 2 ^ f.width → y < 2 ^ f.width →
    let a := (f.decode x).flush f ftz
    let b := (f.decode y).flush f ftz
    let r := f.minMax ftz isMax x y
    r.flags = (if a.isSig = true ∨ b.isSig = true then fInvalid else 0) ∧
    (a.isNan = true → b.isNan = true → r.bits = f.nanBits) ∧ (a.isNan = true → b.isNan = false → f.decode r.bits = b) ∧
    (a.isNan = false → b.isNan = true → f.decode r.bits = a) ∧
    (a.isNan = false → b.isNan = false →
      f.decode r.bits = if isMax then (if a.before b then b else a) else (if b.before a then b else a))) ∧
  ∀ (n k : Bool) (m l : Nat) (e g : Int), FVal.before (.inf n) (.inf k) = (n && !k) ∧
    FVal.before (.inf n) (.fin k m e) = n ∧ FVal.before (.fin k m e) (.inf n) = !n ∧
    ∀ x ≤ e, x ≤ g → let a : Int := (if n then -1 else 1) * (m * 2 ^ (e - x).toNat : Int)
      let b : Int := (if k then -1 else 1) * (l * 2 ^ (g - x).toNat : Int)
      FVal.before (.fin n m e) (.fin k l g) = (decide (a < b) || (decide (m = 0) && decide (l = 0) && n && !k))

/-- R205 to R207, with `cvtElem` as R49 to R55 and R206 have it. That the clamp of R50 holds also between INT8 and
UINT8 is the model's (log entry 58); the sign of a zero of PWDEC is log entry 42's. -/
def Obligations.LaneConversions : Prop :=
  (∀ x, LaneGives (.cvt x) fun i =>
    fpOut x.vd (cvtElem x.dst x.src x.rm x.ftz x.nsat (elemOf x.src i.a0 x.elem.toNat))) ∧
  (∀ x, LaneGives (.cvtpk x) fun i =>
    let r0 := cvtElem x.dst x.src x.rm x.ftz x.nsat (elemOf x.src i.a0 0)
    let r1 := cvtElem x.dst x.src x.rm x.ftz x.nsat (elemOf x.src i.b0 0)
    let two : BitVec 16 := BitVec.ofNat 8 r1.bits ++ BitVec.ofNat 8 r0.bits
    out1 x.vd
      (if x.dst.size = 2 then BitVec.ofNat 16 r1.bits ++ BitVec.ofNat 16 r0.bits
       else if x.pair then two ++ i.c0.extractLsb' 0 16 else i.c0.extractLsb' 16 16 ++ two) (r0.flags ||| r1.flags)) ∧
  (∀ x, LaneGives (.cvtunpk x) fun i =>
    let k := if x.src.size = 1 ∧ x.pair then 2 else 0
    let r0 := cvtElem x.dst x.src x.rm x.ftz x.nsat (elemOf x.src i.a0 k)
    let r1 := cvtElem x.dst x.src x.rm x.ftz x.nsat (elemOf x.src i.a0 (k + 1))
    { regs := [(x.vd, [BitVec.ofNat 32 r0.bits, BitVec.ofNat 32 r1.bits])], flags := r0.flags ||| r1.flags }) ∧
  (∀ x, LaneGives (.pwenc x) fun i =>
    let r := pw8Encode (((f32 false i.a0).mul (f32 false i.b0)).getD (.nan false))
    out1 x.vd (putByte i.c0 x.byte.toNat (BitVec.ofNat 8 r.bits)) r.flags) ∧
  (∀ x, LaneGives (.pwdec x) fun i => fpOut x.vd (fp32F.mul x.rm x.ftz
    (.ofInt (pw8Decode (i.a0.extractLsb' (8 * x.byte.toNat) 8).toNat)) (f32 x.ftz i.b0))) ∧
  (∀ (dst src : Fmt) (rm : RMode) (ftz nsat : Bool) (x : Nat),
    (dst = src → dst ≠ .pw8 → cvtElem dst src rm ftz nsat x =
      if (src.value x).isSig then ((src.ffmt.map fun f => f.nanRes true).getD ⟨0, 0⟩) else ⟨x % 2 ^ (8 * src.size), 0⟩) ∧
    (dst ≠ src ∨ dst = .pw8 → let v := match src.ffmt with
        | some f => (src.value x).flush f ftz
        | none => src.value x
      (dst = .int8 → cvtElem dst src rm ftz nsat x = cvtInt 8 (-128) 127 rm v) ∧
      (dst = .uint8 → cvtElem dst src rm ftz nsat x = cvtInt 8 0 255 rm v) ∧
      (dst = .int32 → cvtElem dst src rm ftz nsat x = cvtInt 32 (-2 ^ 31) (2 ^ 31 - 1) rm v) ∧
      (dst = .pw8 → cvtElem dst src rm ftz nsat x = pw8Encode v) ∧
      (∀ f, dst.ffmt = some f → dst = .e4m3 ∨ dst = .e5m2 → cvtElem dst src rm ftz nsat x = cvtFp8 f rm ftz nsat v) ∧
      ∀ f, dst.ffmt = some f → dst = .bf16 ∨ dst = .fp16 ∨ dst = .fp32 →
        cvtElem dst src rm ftz nsat x = match v with
          | .nan g => f.nanRes g
          | .inf n => f.infRes n 0
          | .fin n m e => if m = 0 then f.zeroRes n else f.finish rm ftz n m e false)) ∧
  (∀ x < 256, Fmt.value .int8 x = .ofInt (if x < 128 then (x : Int) else x - 256) ∧ Fmt.value .uint8 x = .ofInt x ∧
    Fmt.value .pw8 x = .ofInt (pw8Decode x) ∧
    pw8Decode x = (if x / 16 % 8 = 0 then 0 else (if x / 128 = 1 then -1 else 1) * 2 ^ (x / 16 % 8 - 1)) +
      (if x % 8 = 0 then 0 else (if x / 8 % 2 = 1 then -1 else 1) * 2 ^ (x % 8 - 1))) ∧
  (∀ (w : Nat) (lo hi : Int) (rm : RMode) (n : Bool) (m : Nat) (e : Int), lo ≤ hi →
    let r := roundAt rm n m e false 0
    let z : Int := if n then -(r.1 : Int) else r.1
    let code (v : Int) : Nat := (v % 2 ^ w).toNat
    (∀ g, cvtInt w lo hi rm (.nan g) = ⟨0, fInvalid⟩) ∧ cvtInt w lo hi rm (.inf n) = ⟨code (if n then lo else hi), fSat⟩ ∧
    (lo ≤ z → z ≤ hi → cvtInt w lo hi rm (.fin n m e) = ⟨code z, if r.2 then fInexact else 0⟩) ∧
    (z < lo → cvtInt w lo hi rm (.fin n m e) = ⟨code lo, fSat ||| fInexact⟩) ∧
    (hi < z → cvtInt w lo hi rm (.fin n m e) = ⟨code hi, fSat ||| fInexact⟩)) ∧
  (∀ (f : FFmt) (big : Nat) (rm : RMode) (ftz nsat n g : Bool) (m : Nat) (e : Int),
    (f = e4m3F ∧ big = 448 * 2 ^ 9) ∨ (f = e5m2F ∧ big = 57344 * 2 ^ 16) →
    let top : FRes := ⟨f.signBit n + f.maxBits, fSat⟩
    cvtFp8 f rm ftz nsat (.nan g) = f.nanRes g ∧
    cvtFp8 f rm ftz nsat (.inf n) = (if nsat = false then top else if f = e4m3F then f.nanRes true else f.infRes n 0) ∧
    cvtFp8 f rm ftz nsat (.fin n 0 e) = f.zeroRes n ∧
    (m ≠ 0 → let low : Int := f.emin - f.fbits
      let q := max ((Nat.log2 m : Int) + e - f.fbits) low
      let t := (roundAt rm n m e false q).1 * 2 ^ (q - low).toNat
      (t ≤ big → cvtFp8 f rm ftz nsat (.fin n m e) = f.finish rm ftz n m e false) ∧
      (big < t → cvtFp8 f rm ftz nsat (.fin n m e) = if nsat = false then ⟨top.bits, fSat ||| fInexact⟩
        else if f = e4m3F then ⟨f.nanBits, fOverflow ||| fInexact⟩ else f.infRes n (fOverflow ||| fInexact)))) ∧
  (∀ g n, pw8Encode (.nan g) = ⟨0, fInvalid⟩ ∧ pw8Encode (.inf n) = ⟨if n then 0xFF else 0x77, fSat⟩) ∧
  (∀ (n : Bool) (m : Nat) (e : Int),
    let num := m * 2 ^ e.toNat
    let den := 2 ^ (-e).toNat
    let y : Int := if n then -(num : Int) else num
    let r := pw8Encode (.fin n m e)
    (128 * den < num → r = ⟨if n then 0xFF else 0x77, fSat ||| fInexact⟩) ∧
    (num ≤ 128 * den → r.bits < 256 ∧ r.flags = (if pw8Decode r.bits * den = y then 0 else fInexact) ∧
      (pw8Decode r.bits = 0 → r.bits = 0) ∧
      ∀ x < 256, (pw8Decode r.bits * den - y).natAbs ≤ (pw8Decode x * den - y).natAbs ∧
        ((pw8Decode r.bits * den - y).natAbs = (pw8Decode x * den - y).natAbs →
          (pw8Decode r.bits).natAbs ≤ (pw8Decode x).natAbs))) ∧
  ∀ p ∈ [(3, 0x21), (7, 0x49), (12, 0x43), (14, 0x5A), (15, 0x59), (28, 0x6B), (31, 0x69), (48, 0x65), (56, 0x7C),
      (60, 0x7B), (63, 0x79), (64, 0x70), (128, 0x77)], pw8Encode (.ofInt p.1) = ⟨p.2, 0⟩

/-- R222 to R227. A lane's private SRAM stands at 2048 times its number; the constant bank is c[n] at byte 8n. When
a load reads and when a Kennel store acts is R262's freedom as log entries 8 and 35 have it; what a device read
gives is StoresReachMemoryAndReadBack's, the store operations are SequencerLoadsAndStores'. -/
def Obligations.LaneLoadsAndStores : Prop :=
  (∀ x, LaneDoes (.laneLdk x)
    (fun i s => LaneCan .kennel i (laneAddr false i.a x.off) (2 ^ x.w.toNat) false s ∧
      (s.core i.t.c).kpoisoned (laneAddr false i.a x.off).toNat (2 ^ x.w.toNat) = false)
    (fun i => let addr := laneAddr false i.a x.off
      laneLoads x.vd i ⟨false, addr.toNat, addr, 2 ^ x.w.toNat, x.sx, none⟩)) ∧
  (∀ x p, LaneDoes (.ld x)
    (fun i s => LaneCan .device i (laneAddr true i.a x.off) (2 ^ x.w.toNat) false s ∧
      LaneAt i (laneAddr true i.a x.off) .read p s ∧ (s.readPoison i.t.c p.pa (2 ^ x.w.toNat)).1 = false)
    (fun i s => laneLoads x.vd i ⟨true, p.pa, laneAddr true i.a x.off, 2 ^ x.w.toNat, x.sx, none⟩
      (s.readPoison i.t.c p.pa (2 ^ x.w.toNat)).2)) ∧
  (∀ x, LaneDoes (.ldp x)
    (fun i s => LaneCan .priv i (laneAddr false i.a x.off) (2 ^ x.w.toNat) false s ∧
      (s.core i.t.c).ppoisoned i.t.lane (laneAddr false i.a x.off).toNat (2 ^ x.w.toNat) = false)
    (fun i s => (s, loadRes x (ofBytes
      ((s.core i.t.c).mem.pread (2048 * i.t.lane + (laneAddr false i.a x.off).toNat) (2 ^ x.w.toNat)))))) ∧
  (∀ x, LaneDoes (.ldc x)
    (fun i s => LaneCan .const i (laneAddr false i.a x.off) (2 ^ x.w.toNat) false s)
    (fun i s => (s, loadRes x (constBytes (s.core i.t.c).seq (laneAddr false i.a x.off).toNat (2 ^ x.w.toNat))))) ∧
  (∀ x, LaneDoes (.laneStk x)
    (fun i s => LaneCan .kennel i (laneAddr false i.a x.off) (2 ^ x.w.toNat) true s)
    (fun i s => (s.kstore i.t.c i.t.agent (laneAddr false i.a x.off).toNat (storeBytes x.w i.b), {}))) ∧
  (∀ x, LaneDoes (.stp x)
    (fun i s => LaneCan .priv i (laneAddr false i.a x.off) (2 ^ x.w.toNat) true s)
    (fun i s => (s.updCore i.t.c fun k =>
      k.pwrite i.t.lane (laneAddr false i.a x.off).toNat (storeBytes x.w i.b), {}))) ∧
  (∀ x p, LaneDoes (.st x)
    (fun i s => LaneCan .device i (laneAddr true i.a x.off) (2 ^ x.w.toNat) true s ∧
      LaneAt i (laneAddr true i.a x.off) .write p s)
    (fun i s => ((s.dstore i.t.c i.t.agent p.pidx (laneReplay i s) p.pa (storeBytes x.w i.b)).noteFold i.t.c
      i.team.op p.pidx, {}))) ∧
  (∀ (x : LLoad), LaneFaults (.laneLdk x)
      (fun i s => LaneCan .kennel i (laneAddr false i.a x.off) (2 ^ x.w.toNat) false s ∧
        (s.core i.t.c).kpoisoned (laneAddr false i.a x.off).toNat (2 ^ x.w.toNat) = true)
      (fun i => (.memoryError, laneAddr false i.a x.off, 0)) ∧
    (∀ p, LaneFaults (.ld x)
      (fun i s => LaneCan .device i (laneAddr true i.a x.off) (2 ^ x.w.toNat) false s ∧
        LaneAt i (laneAddr true i.a x.off) .read p s ∧ s.dev.poisoned p.pa (2 ^ x.w.toNat) = true)
      (fun i => (.memoryError, laneAddr true i.a x.off, 0))) ∧
    LaneFaults (.ldp x)
      (fun i s => LaneCan .priv i (laneAddr false i.a x.off) (2 ^ x.w.toNat) false s ∧
        (s.core i.t.c).ppoisoned i.t.lane (laneAddr false i.a x.off).toNat (2 ^ x.w.toNat) = true)
      (fun i => (.memoryError, laneAddr false i.a x.off, 0))) ∧
  (∀ (c : CoreNo) (a : Agent) (l : LateLoad) (s : State), l.dev = false → l.rmw = none →
    s.readLate c a l = (ofBytes ((s.core c).kreadBy a l.pa l.n), s) ∧
    ((∀ p ∈ (s.core c).kstores, p.agent = a → p.overlaps l.pa l.n = false) →
      (s.core c).kreadBy a l.pa l.n = (s.core c).kread l.pa l.n)) ∧
  (∀ (l : LateLoad) (v : Nat), (l.n = 8 → l.words v = [BitVec.ofNat 32 v, BitVec.ofNat 32 (v / 2 ^ 32)]) ∧
    ∀ n ∈ [1, 2, 4], l.n = n → v < 2 ^ (8 * n) → l.words v =
      [if l.sx && v.testBit (8 * n - 1) then BitVec.ofNat 32 (v + (2 ^ 32 - 2 ^ (8 * n))) else BitVec.ofNat 32 v]) ∧
  ∀ (q : Seq) (n : Fin 256) (j k : Nat), j + k ≤ 8 →
    constBytes q (8 * n.val + j) k = q.c[n].toNat / 256 ^ j % 256 ^ k

/-- R224 steps 1 to 3, R229, R212, R241, R248 and the target check of R87; the fault carries the address. What the
RANGE_LOCK path does is in LaneTrapsAndHandler; which reads it stops is log entry 17's. -/
def Obligations.LaneAccessFaults : Prop :=
  (∀ (x : LLoad) (i : Instr) (sp : LSpace) (lim : Nat) (cause : Cause), let n := 2 ^ x.w.toNat
    (i = .ld x ∧ sp = .device ∧ lim = 2 ^ 52 ∧ cause = .badAddr) ∨
      (i = .laneLdk x ∧ sp = .kennel ∧ lim + n = 0x100000 + 1 ∧ cause = .kennelRange) ∨
      (i = .ldp x ∧ sp = .priv ∧ lim + n = 0x800 + 1 ∧ cause = .privateRange) ∨
      (i = .ldc x ∧ sp = .const ∧ lim + n = 0x800 + 1 ∧ cause = .constRange) →
    let addr (l : LaneIn) : W64 := laneAddr (sp == .device) l.a x.off
    LaneFaults i (fun l _ => (addr l).toNat % n ≠ 0) (fun l => (.align, addr l, 0)) ∧
    LaneFaults i (fun l _ => (addr l).toNat % n = 0 ∧ lim ≤ (addr l).toNat) (fun l => (cause, addr l, 0)) ∧
    (sp = .device ∨ sp = .kennel → LaneLocks i (fun l s => (addr l).toNat % n = 0 ∧ (addr l).toNat < lim ∧
      (s.core l.t.c).locked (sp == .device) (addr l).toNat n false = true) addr)) ∧
  (∀ (x : LStore) (i : Instr) (sp : LSpace) (lim : Nat) (cause : Cause), let n := 2 ^ x.w.toNat
    (i = .st x ∧ sp = .device ∧ lim = 2 ^ 52 ∧ cause = .badAddr) ∨
      (i = .laneStk x ∧ sp = .kennel ∧ lim + n = 0x100000 + 1 ∧ cause = .kennelRange) ∨
      (i = .stp x ∧ sp = .priv ∧ lim + n = 0x800 + 1 ∧ cause = .privateRange) →
    let addr (l : LaneIn) : W64 := laneAddr (sp == .device) l.a x.off
    LaneFaults i (fun l _ => (addr l).toNat % n ≠ 0) (fun l => (.align, addr l, 0)) ∧
    LaneFaults i (fun l _ => (addr l).toNat % n = 0 ∧ lim ≤ (addr l).toNat) (fun l => (cause, addr l, 0)) ∧
    (sp = .device ∨ sp = .kennel → LaneLocks i (fun l s => (addr l).toNat % n = 0 ∧ (addr l).toNat < lim ∧
      (s.core l.t.c).locked (sp == .device) (addr l).toNat n true = true) addr)) ∧
  (∀ (i : Instr) (sc : Scope) (w64 : Bool), let n := if w64 then 8 else 4
    (∃ x : LAtom, i = .atom x ∧ sc = x.scope ∧ w64 = x.w64) ∨ (∃ x : LCas, i = .atomcas x ∧ sc = x.scope ∧ w64 = x.w64) →
    let sp : LSpace := if sc = .core then .kennel else .device
    let lim := if sc = .core then 0x100000 + 1 - n else 2 ^ 52
    let addr (l : LaneIn) : W64 := if sc = .core then l.a0.zeroExtend 64 else l.a.getD 1 0 ++ l.a.getD 0 0
    LaneFaults i (fun l _ => (addr l).toNat % n ≠ 0) (fun l => (.align, addr l, 0)) ∧
    LaneFaults i (fun l _ => (addr l).toNat % n = 0 ∧ lim ≤ (addr l).toNat)
      (fun l => (if sc = .core then .kennelRange else .badAddr, addr l, 0)) ∧
    LaneLocks i (fun l s => (addr l).toNat % n = 0 ∧ (addr l).toNat < lim ∧
      (s.core l.t.c).locked (sc != .core) (addr l).toNat n true = true) addr ∧
    (sc = .core → LaneFaults i (fun l s => LaneCan sp l (addr l) n true s ∧
      (s.core l.t.c).kpoisoned (addr l).toNat n = true) (fun l => (.memoryError, addr l, 0))) ∧
    (sc = .system → LaneFaults i (fun l s => LaneCan sp l (addr l) n true s ∧ (addr l).getLsbD 51 = true ∧
      ((s.part (ctxPart (s.core l.t.c).ctx)).window (addr l)).v = false) (fun l => (.translation, addr l, 0))) ∧
    ∀ p, sc ≠ .core → LaneFaults i (fun l s => LaneCan sp l (addr l) n true s ∧
      ¬ (sc = .system ∧ (addr l).getLsbD 51 = true) ∧ LaneAt l (addr l) .atomic p s ∧ s.dev.poisoned p.pa n = true)
      (fun l => (.memoryError, addr l, 0))) ∧
  (∀ (x : LMstep) (j : Nat), j < 4 →
    let n (j : Nat) := if j = 1 ∧ x.gf ≠ 0 then 2 else 4
    let addr (j : Nat) (l : LaneIn) : W64 := (l.a.getD j 0).zeroExtend 64
    let before (l : LaneIn) (s : State) : Prop := ∀ k < j, LaneCan .kennel l (addr k l) (n k) (k != 1) s
    LaneFaults (.mstep x) (fun l s => before l s ∧ (addr j l).toNat % n j ≠ 0) (fun l => (.align, addr j l, 0)) ∧
    LaneFaults (.mstep x) (fun l s => before l s ∧ (addr j l).toNat % n j = 0 ∧ 0x100000 < (addr j l).toNat + n j)
      (fun l => (.kennelRange, addr j l, 0)) ∧
    LaneLocks (.mstep x) (fun l s => before l s ∧ (addr j l).toNat % n j = 0 ∧ (addr j l).toNat + n j ≤ 0x100000 ∧
      (s.core l.t.c).locked false (addr j l).toNat (n j) (j != 1) = true) (addr j)) ∧
  (∀ x : LR1, let a (l : LaneIn) : Nat := l.a0.toNat
    LaneFaults (.ltop x) (fun l _ => a l % 16 ≠ 0) (fun l => (.align, l.a0.zeroExtend 64, 0)) ∧
    LaneFaults (.ltop x) (fun l _ => a l % 16 = 0 ∧ 0x100000 < a l + 80) (fun l => (.kennelRange, l.a0.zeroExtend 64, 0)) ∧
    LaneLocks (.ltop x) (fun l s => a l % 16 = 0 ∧ a l + 80 ≤ 0x100000 ∧
      (s.core l.t.c).locked false (a l) 80 false = true) (fun l => l.a0.zeroExtend 64) ∧
    LaneHolds (.ltop x) (fun l s => ∃ e r, nestedCheck s l.t l.team (l.a0.zeroExtend 64) none = .ok e r ∧
      8 ≤ (s.core l.t.c).queued (queueOf e))) ∧
  (∀ (i : Instr), (∃ x, i = .qcnt x) ∨ (∃ x, i = .qend x) → let a (l : LaneIn) : Nat := l.a0.toNat
    let seen (l : LaneIn) (s : State) : Core := (s.atBank l.t.c l.t.agent (a l) 32).core l.t.c
    LaneFaults i (fun l _ => a l % 32 ≠ 0) (fun l => (.align, l.a0.zeroExtend 64, 0)) ∧
    LaneFaults i (fun l _ => a l % 32 = 0 ∧ 0x100000 < a l + 32) (fun l => (.kennelRange, l.a0.zeroExtend 64, 0)) ∧
    LaneHolds i (fun l s => a l % 32 = 0 ∧ a l + 32 ≤ 0x100000 ∧ (seen l s).locked false (a l) 32 true = true) ∧
    LaneFaults i (fun l s => a l % 32 = 0 ∧ a l + 32 ≤ 0x100000 ∧ (seen l s).locked false (a l) 32 true = false ∧
      (seen l s).kpoisoned (a l) 32 = false ∧ ((seen l s).streamAt (a l)).ok = false)
      (fun l => (.badStream, l.a0.zeroExtend 64, 0))) ∧
  ∀ (i : Instr) (target : LaneIn → W64),
    (∃ x : LBra, i = .bra x ∧ target = fun l => l.th.pc + 8 * x.disp.signExtend 64) ∨
      (∃ x : LCall, i = .laneCall x ∧ target = fun l => l.th.pc + 8 * x.disp.signExtend 64) ∨
      (∃ x : LBrx, (i = .brx x ∨ i = .laneRet x) ∧ target = fun l => l.a.getD 1 0 ++ l.a.getD 0 0) →
    LaneFaults i (fun l _ => (target l).toNat % 8 ≠ 0 ∨ 2 ^ 52 ≤ (target l).toNat) (fun l => (.badTarget, target l, 0))

/-- R228 to R230 and R211, R212. What the atomic operations and releases do is in SequencerAtomics; log entries 12
and 35 say where the model keeps what is not yet performed. `adamStep` has the eight factors lr, β1, β2, ε, λ, k1,
k2, γ at 0 to 7; its last clause is the worked example of R212. -/
def Obligations.LaneAtomicsFenceStep : Prop :=
  (∀ (i : Instr) (op : AtomOp) (vd : RegNo) (sc : Scope) (w64 acq rel : Bool) (cmp : LaneIn → List W32),
      (∃ x : LAtom, i = .atom x ∧ op = x.op ∧ vd = x.vd ∧ sc = x.scope ∧ w64 = x.w64 ∧ acq = x.acq ∧ rel = x.rel ∧
        cmp = fun _ => []) ∨
      (∃ x : LCas, i = .atomcas x ∧ op = .cas ∧ vd = x.vd ∧ sc = x.scope ∧ w64 = x.w64 ∧ acq = x.acq ∧ rel = x.rel ∧
        cmp = LaneIn.c) →
    let n := if w64 then 8 else 4
    let val (ws : List W32) : Nat := (ws.getD 1 0 ++ ws.getD 0 0 : W64).toNat % 2 ^ (8 * n)
    let old (x : Nat) : LaneRes := outLate vd (if w64 then [BitVec.ofNat 32 x, BitVec.ofNat 32 (x / 2 ^ 32)]
      else [BitVec.ofNat 32 x])
    let does (l : LaneIn) (dev : Bool) (addr : W64) (pa pidx : Nat) (s : State) : State × LaneRes :=
      let x : LateLoad :=
        { dev := dev, pa := pa, va := addr, n := n, sx := false,
          rmw := some { op := op, x := val l.b, cmp := val (cmp l), scope := sc, pidx := pidx, replay := laneReplay l s,
                        team := some l.team.op } }
      let u := if rel then s.release l.t.c l.t.agent sc else s
      let r := (u.beforeLate l.t.c l.t.agent x).readLate l.t.c l.t.agent x
      if acq then (r.2.acquire l.t.c l.t.agent sc, old r.1) else laneLoads vd l x u
    (sc = .core → LaneDoes i
      (fun l s => LaneCan .kennel l (l.a0.zeroExtend 64) n true s ∧
        (s.core l.t.c).kpoisoned (l.a0.zeroExtend 64 : W64).toNat n = false)
      (fun l => does l false (l.a0.zeroExtend 64) (l.a0.zeroExtend 64 : W64).toNat 0)) ∧
    (sc ≠ .core → ∀ p, LaneDoes i
      (fun l s => let addr : W64 := l.a.getD 1 0 ++ l.a.getD 0 0
        LaneCan .device l addr n true s ∧ ¬ (sc = .system ∧ addr.getLsbD 51 = true) ∧ LaneAt l addr .atomic p s ∧
          s.dev.poisoned p.pa n = false)
      (fun l => does l true (l.a.getD 1 0 ++ l.a.getD 0 0) p.pa p.pidx)) ∧
    (sc = .system → LaneDoes i
      (fun l s => let addr : W64 := l.a.getD 1 0 ++ l.a.getD 0 0
        LaneCan .device l addr n true s ∧ addr.getLsbD 51 = true ∧
          ((s.part (ctxPart (s.core l.t.c).ctx)).window addr).v = true)
      (fun l s => let addr : W64 := l.a.getD 1 0 ++ l.a.getD 0 0
        let part := ctxPart (s.core l.t.c).ctx
        let r := (if rel then s.release l.t.c l.t.agent sc else s).sendAtomic (.laneAtomic l.t.c l.t.lane l.t.slot) part
          ((s.part part).window addr) addr op w64 acq rel (BitVec.ofNat 64 (val l.b)) (BitVec.ofNat 64 (val (cmp l)))
        (r.2, { late := some (vd, if w64 then 2 else 1, .remote r.1 acq addr (s.laneWhere l.t l.th)) })))) ∧
  (∀ (c : CoreNo) (a : Agent) (l : LateLoad) (r : Rmw) (op : Nat) (s : State), l.rmw = some r → r.team = some op →
    l.dev = true → s.readLate c a l =
      ((deviceRmw c a r l.pa l.n s).1, (deviceRmw c a r l.pa l.n s).2.noteFold c op r.pidx)) ∧
  (∀ x, LaneDoes (.laneFence x) (fun i _ => i.th.loading = false) (fun i s =>
    let u := s.performOwn i.t.c i.t.agent x.scope
    (match x.kind with
      | .rel => u.release i.t.c i.t.agent x.scope
      | .acq => u.acquire i.t.c i.t.agent x.scope
      | .acqrel => (u.release i.t.c i.t.agent x.scope).acquire i.t.c i.t.agent x.scope, {}))) ∧
  (∀ x, LaneHolds (.laneFence x) (fun i _ => i.th.loading = true)) ∧
  (∀ (s : State) (c : CoreNo) (a : Agent) (sc : Scope), let u := s.performOwn c a sc
    (∀ p ∈ (u.core c).kstores, p.agent ≠ a) ∧ (∀ p ∈ (u.core c).lstores, p.agent ≠ a) ∧
    (sc ≠ .core → ∀ p ∈ (u.core c).stores, p.agent ≠ a) ∧
    (sc = .device ∨ sc = .system → ∀ h ∈ u.dev.held, ¬ (h.core = c ∧ h.agent = a))) ∧
  (∀ x : LMstep,
    let size (j : Nat) : Nat := if j = 1 ∧ x.gf ≠ 0 then 2 else 4
    let can (i : LaneIn) (s : State) : Prop := ∀ j < 4,
      LaneCan .kennel i ((i.a.getD j 0).zeroExtend 64) (size j) (j != 1) s ∧
        (s.core i.t.c).kpoisoned (i.a.getD j 0).toNat (size j) = false
    let word (i : LaneIn) (s : State) (j : Nat) : Nat :=
      ofBytes ((s.core i.t.c).kreadBy i.t.agent (i.a.getD j 0).toNat (size j))
    let g (i : LaneIn) (s : State) : FVal := (gradFmt x.gf).decode (word i s 1)
    LaneDoes (.mstep x) (fun i s => can i s ∧ ((g i s).isNan = true ∨ (g i s).isInf = true))
      (fun _ s => (s, { preds := [(x.pd, true)], flags := fInvalid })) ∧
    LaneDoes (.mstep x) (fun i s => can i s ∧ (g i s).isNan = false ∧ (g i s).isInf = false)
      (fun i s =>
        let h (j : Nat) : FVal := fp32F.decode (((s.core i.t.c).seq.c.toList.getD (x.n.toNat + j) 0).toNat % 2 ^ 32)
        let r := adamStep h (fp32F.decode (word i s 0)) (g i s) (fp32F.decode (word i s 2)) (fp32F.decode (word i s 3))
        let u := (List.range 4).foldl (fun s j => s.atBank i.t.c i.t.agent (i.a.getD j 0).toNat (size j)) s
        (((u.kwrite i.t.c (i.a.getD 0 0).toNat (leBytes 4 r.w)).kwrite i.t.c (i.a.getD 2 0).toNat (leBytes 4 r.m)).kwrite
          i.t.c (i.a.getD 3 0).toNat (leBytes 4 r.v), { preds := [(x.pd, false)], flags := r.flags }))) ∧
  (∀ (h : Nat → FVal) (w g m v : FVal),
    let rn (x : FVal) : FRes := cvtFloat fp32F .rn false x
    let val (r : FRes) : FVal := fp32F.decode r.bits
    let one : FVal := .fin false 1 0
    let gs := rn (g.times (h 7))
    let m' := rn (((h 1).times m).plus ((one.plus (h 1).neg).times (val gs)))
    let v' := rn (((h 2).times v).plus (((one.plus (h 2).neg).times (val gs)).times (val gs)))
    let mh := rn ((val m').times (h 5))
    let vh := rn ((val v').times (h 6))
    let q := sqrtPlus (val vh) (h 3)
    let u := divPlus (val mh) (val q) ((h 4).times w)
    let w' := rn (w.plus ((h 0).times (val u)).neg)
    adamStep h w g m v = ⟨w'.bits, m'.bits, v'.bits,
      gs.flags ||| m'.flags ||| v'.flags ||| mh.flags ||| vh.flags ||| q.flags ||| u.flags ||| w'.flags⟩) ∧
  (∀ (na nb : Bool) (ma mb : Nat) (ea eb e : Int), e ≤ ea → e ≤ eb →
    let a : FVal := .fin na ma ea
    let b : FVal := .fin nb mb eb
    let sum : Int := (if na then -1 else 1) * (ma * 2 ^ (ea - e).toNat : Int) +
      (if nb then -1 else 1) * (mb * 2 ^ (eb - e).toNat : Int)
    a.times b = .fin (na != nb) (ma * mb) (ea + eb) ∧
    (sum = 0 → a.plus b = .fin (na && nb) 0 0) ∧
    (sum ≠ 0 → ∃ m' e', a.plus b = .fin (decide (sum < 0)) m' e' ∧ e ≤ e' ∧ m' * 2 ^ (e' - e).toNat = sum.natAbs)) ∧
  (∀ (m n : Nat) (e g : Int), m ≠ 0 → -400 ≤ e → -200 ≤ g → ∃ r : Nat,
    r * r ≤ m * 2 ^ (400 + e).toNat ∧ m * 2 ^ (400 + e).toNat < (r + 1) * (r + 1) ∧
    (0 < r + n → sqrtPlus (.fin false m e) (.fin false n g) = fp32F.finish .rn false false (r + n * 2 ^ (g + 200).toNat)
      (-200) (decide (r * r ≠ m * 2 ^ (400 + e).toNat)))) ∧
  (∀ (na nq np : Bool) (ma mq mp : Nat) (ea eq ep : Int), ma ≠ 0 → mq ≠ 0 →
    let a : FVal := .fin na ma ea
    let q : FVal := .fin nq mq eq
    let p : FVal := .fin np mp ep
    (a.plus (p.times q)).isZero = false → divPlus a q p = fp32F.div .rn false (a.plus (p.times q)) q) ∧
  adamStep (fun j => fp32F.decode ([0x3E800000, 0x3F000000, 0x3F400000, 0x35800000, 0x3F000000, 0x40000000, 0x40800000,
      0x3F000000].getD j 0)) (fp32F.decode 0x3F800000) (fp32F.decode 0x40000000) (fp32F.decode 0) (fp32F.decode 0) =
    ⟨0x3F200004, 0x3F000000, 0x3E800000, fInexact⟩

/-- R195 to R197, bit by bit; `fieldPos` and `fieldLen` are b[7:0] and min(b[14:8], 32). R107's pseudocode; R229
uses the same operations for lanes. -/
def Obligations.BitAndAtomicFunctions : Prop :=
  (∀ n, n = 4 ∨ n = 8 → ∀ old x cmp, old < 2 ^ (8 * n) → x < 2 ^ (8 * n) → cmp < 2 ^ (8 * n) →
     atomNew .add n old x cmp = (old + x) % 2 ^ (8 * n) ∧ atomNew .and n old x cmp = old &&& x ∧
     atomNew .or n old x cmp = old ||| x ∧ atomNew .xor n old x cmp = old ^^^ x ∧
     atomNew .minu n old x cmp = Nat.min old x ∧ atomNew .maxu n old x cmp = Nat.max old x ∧
     atomNew .min n old x cmp = (if toSigned (8 * n) old ≤ toSigned (8 * n) x then old else x) ∧
     atomNew .max n old x cmp = (if toSigned (8 * n) old ≥ toSigned (8 * n) x then old else x) ∧
     atomNew .xchg n old x cmp = x ∧ atomNew .cas n old x cmp = if old = cmp then x else old) ∧
  (∀ lut (a b c : W32), ∀ k < 32, (bitfnOf lut a b c).getLsbD k =
    lut.getLsbD ((a.getLsbD k).toNat + 2 * (b.getLsbD k).toNat + 4 * (c.getLsbD k).toNat)) ∧
  (∀ a : W32, ∀ k < 32, (brevOf a).getLsbD k = a.getLsbD (31 - k)) ∧
  (∀ (a b : W32), ∀ k < 32, let l := Nat.min (b.extractLsb' 8 7).toNat 32
    let p := (b.extractLsb' 0 8).toNat
    let bit (n : Nat) : Bool := if n < 32 then a.getLsbD n else b.getLsbD 15 && a.getLsbD 31
    (bfeOf a b).getLsbD k = if k < l then bit (p + k) else decide (0 < l) && b.getLsbD 15 && bit (p + l - 1)) ∧
  (∀ (a b c : W32), ∀ k < 32, let l := Nat.min (b.extractLsb' 8 7).toNat 32
    let p := (b.extractLsb' 0 8).toNat
    (bfiOf a b c).getLsbD k = if p ≤ k ∧ k < p + l then a.getLsbD (k - p) else c.getLsbD k) ∧
  ∀ (mode : BitVec 2) (t : List W32) (b : W32), ∀ k < 4,
    let x := b.extractLsb' (8 * k) 8
    let n := if mode = 1 then (x.extractLsb' 4 4).toNat else (x.extractLsb' 0 4).toNat
    (permbOf mode t b).extractLsb' (8 * k) 8 =
      if mode = 2 ∧ x.getLsbD 7 = true then 0 else (t.getD (n / 4) 0).extractLsb' (8 * (n % 4)) 8

/-- R44 to R46, R53; R57 to R61, R151, R152, R158 for the engines. The second part ties `FFmt.decode` to
`FFmt.finish`; the third says what `FFmt.finish` does, `big` being the largest finite value in units of the
subnormal quantum. That the flags of the roundings of r and d are dropped (log entry 68), and the sign of a zero
product of ACCST and DQNT (log entries 69, 70), are the model's. -/
def Obligations.RoundingRules : Prop :=
  (∀ (rm : RMode) (neg : Bool) (m : Nat) (e q : Int), e ≤ q →
     let u := 2 ^ (q - e).toNat
     let r := roundAt rm neg m e false q
     r.2 = decide (m % u ≠ 0) ∧ (m % u = 0 → r.1 * u = m) ∧ r.1 * u < m + u ∧ m < r.1 * u + u ∧
     (rm = .rn → 2 * (r.1 * u) ≤ 2 * m + u ∧ 2 * m ≤ 2 * (r.1 * u) + u ∧ (2 * (m % u) = u → r.1 % 2 = 0)) ∧
     (rm = .rz → r.1 * u ≤ m) ∧ (rm = .ru → if neg then r.1 * u ≤ m else m ≤ r.1 * u) ∧
     (rm = .rd → if neg then m ≤ r.1 * u else r.1 * u ≤ m)) ∧
  (∀ (rm : RMode) (neg : Bool) (m : Nat) (e q : Int), q ≤ e →
    roundAt rm neg m e false q = (m * 2 ^ (e - q).toNat, false)) ∧
  (∀ (f : FFmt) (rm : RMode) (bits : Nat), f ∈ [fp32F, bf16F, fp16F, e5m2F, e4m3F] → bits < 2 ^ f.width →
    ∀ neg m e, f.decode bits = .fin neg m e → m ≠ 0 → f.finish rm false neg m e false = ⟨bits, 0⟩) ∧
  (∀ (f : FFmt) (big : Nat) (rm : RMode) (neg : Bool) (m : Nat) (e : Int),
    (f, big) ∈ [(fp32F, (2 ^ 24 - 1) * 2 ^ 253), (bf16F, (2 ^ 8 - 1) * 2 ^ 253), (fp16F, (2 ^ 11 - 1) * 2 ^ 29),
      (e5m2F, 7 * 2 ^ 29)] → m ≠ 0 →
    let low : Int := f.emin - f.fbits
    let free : Int := (Nat.log2 m : Int) + e - f.fbits
    let q := max free low
    let r := roundAt rm neg m e false q
    let t := r.1 * 2 ^ (q - low).toNat
    let tiny : Bool := decide ((Nat.log2 (roundAt rm neg m e false free).1 : Int) + free < f.emin)
    let w := f.finish rm false neg m e false
    (t ≤ big → (∃ m' e', f.decode w.bits = .fin neg m' e' ∧ low ≤ e' ∧ m' * 2 ^ (e' - low).toNat = t) ∧
      w.flags = ((if r.2 then fInexact else 0) ||| (if r.2 = true ∧ tiny = true then fUnderflow else 0))) ∧
    (big < t → w = ⟨f.signBit neg + (if rm = .rn ∨ (rm = .ru ∧ neg = false) ∨ (rm = .rd ∧ neg = true) then f.infBits
      else f.maxBits), fOverflow ||| fInexact⟩ ∧ f.decode f.infBits = .inf false ∧
      ∃ m' e', f.decode f.maxBits = .fin false m' e' ∧ low ≤ e' ∧ m' * 2 ^ (e' - low).toNat = big) ∧
    (t ≤ big → r.1 ≠ 0 → r.1 < 2 ^ f.fbits → f.finish rm true neg m e false = ⟨f.signBit neg, fUnderflow ||| fInexact⟩) ∧
    (big < t ∨ r.1 = 0 ∨ 2 ^ f.fbits ≤ r.1 → f.finish rm true neg m e false = w)) ∧
  (∀ (f : FFmt) (rm : RMode) (ftz neg : Bool) (m k : Nat) (e : Int), m ≠ 0 →
    f.finish rm ftz neg (m * 2 ^ k) (e - k) false = f.finish rm ftz neg m e false ∧
    (2 ^ (f.fbits + 1) ≤ m → f.finish rm ftz neg m e true = f.finish rm ftz neg (2 * m + 1) (e - 1) false)) ∧
  (∀ (f : FFmt) (inv neg : Bool) (fl : Flags6), f.nanRes inv = ⟨f.nanBits, if inv then fInvalid else 0⟩ ∧
    f.zeroRes neg = ⟨f.signBit neg, 0⟩ ∧ f.infRes neg fl = ⟨f.signBit neg + f.infBits, fl⟩ ∧
    (fp32F.nanBits, bf16F.nanBits, fp16F.nanBits, e5m2F.nanBits, e4m3F.nanBits) =
      (0x7FC00000, 0x7FC0, 0x7E00, 0x7E, 0x7F)) ∧
  (∀ (f : FFmt) (rm : RMode) (ftz g : Bool) (vs : List FVal),
    ((∃ v ∈ vs, v.isNan = true) →
      f.sumRes rm ftz g vs = f.nanRes (g || vs.any FVal.isSig)) ∧
    ((∀ v ∈ vs, v.isNan = false) → .inf false ∈ vs → .inf true ∈ vs → f.sumRes rm ftz g vs = f.nanRes true) ∧
    (∀ n, (∀ v ∈ vs, v.isNan = false) → .inf n ∈ vs → .inf (!n) ∉ vs → f.sumRes rm ftz g vs = f.infRes n 0) ∧
    ∀ e : Int, (∀ v ∈ vs, ∃ n m x, v = .fin n m x ∧ e ≤ x) →
      let sum : Int := (vs.map fun v => v.sm * 2 ^ (v.ex - e).toNat).sum
      (sum ≠ 0 → f.sumRes rm ftz g vs = f.finish rm ftz (decide (sum < 0)) sum.natAbs e false) ∧
      (sum = 0 → vs ≠ [] → f.sumRes rm ftz g vs = f.zeroRes (
        if ∀ v ∈ vs, v.isZero = true ∧ v.isNeg = true then true
        else if ∀ v ∈ vs, v.isZero = true ∧ v.isNeg = false then false else rm == .rd))) ∧
  (∀ (old : Option Nat) (ts : List FVal) (rest : List (List FVal)) (acc : Fmt),
    (let all := (old.map acc.value).toList ++ ts
     let sum : Int := (all.map FVal.sm).sum
     (acc = .int32 → mmaStep acc (old.map acc.value) ts =
       if sum < -2 ^ 31 then ⟨0x80000000, fSat⟩ else if 2 ^ 31 - 1 < sum then ⟨0x7FFFFFFF, fSat⟩
       else ⟨(sum % 2 ^ 32).toNat, 0⟩) ∧
     (acc = .fp32 → mmaStep acc (old.map acc.value) ts = fp32F.sumRes .rn false true all)) ∧
    mmaElem acc old [] = ⟨old.getD 0, 0⟩ ∧
    let x := mmaStep acc (old.map acc.value) ts
    let y := mmaElem acc (some x.bits) rest
    mmaElem acc old (ts :: rest) = ⟨y.bits, x.flags ||| y.flags⟩) ∧
  (∀ x, accldElem .fp32 .fp32 x = ⟨x, 0⟩ ∧ accldElem .int32 .int32 x = ⟨x, 0⟩ ∧
    (x < 256 → accldElem .int8 .int32 x = ⟨if x < 128 then x else 2 ^ 32 - 256 + x, 0⟩) ∧
    (x < 2 ^ 16 → (bf16F.decode x).isNan = false → accldElem .bf16 .fp32 x = ⟨x * 2 ^ 16, 0⟩) ∧
    (∀ n m e, x < 2 ^ 16 → fp16F.decode x = .fin n m e → (accldElem .fp16 .fp32 x).flags = 0 ∧
      ∃ m' e', fp32F.decode (accldElem .fp16 .fp32 x).bits = .fin n m' e' ∧
        m' * 2 ^ (e' + 149).toNat = m * 2 ^ (e + 149).toNat ∧ -149 ≤ e') ∧
    (∀ n, fp16F.decode x = .inf n → accldElem .fp16 .fp32 x = fp32F.infRes n 0) ∧
    (∀ g, bf16F.decode x = .nan g → accldElem .bf16 .fp32 x = fp32F.nanRes g) ∧
    ∀ g, fp16F.decode x = .nan g → accldElem .fp16 .fp32 x = fp32F.nanRes g) ∧
  (∀ (src dst : Fmt) (h : Nat) (nsat : Bool) (dx dw : FVal) (x : Nat),
    let v := src.value x
    (∀ n m e n1 m1 e1 n2 m2 e2, v = .fin n m e → dx = .fin n1 m1 e1 → dw = .fin n2 m2 e2 →
      accstElem src dst h nsat dx dw x =
        cvtValue dst .rn false nsat (.fin ((n != n1) != n2) (m * m1 * m2) (e + e1 + e2 - h))) ∧
    ((v.isNan = true ∨ dx.isNan = true ∨ dw.isNan = true) ∨
      ((v.isInf = true ∨ dx.isInf = true ∨ dw.isInf = true) ∧
        (v.isZero = true ∨ dx.isZero = true ∨ dw.isZero = true)) →
      accstElem src dst h nsat dx dw x = cvtValue dst .rn false nsat (.nan true)) ∧
    (factorOf .none = .fin false 1 0 ∧ ∀ t, factorOf (.tile t) = fp32F.decode (Desc.of t).scale.toNat) ∧
    ∀ f n m e n1 m1 e1, dst.ffmt = some f → v = .fin n m e → dx = .fin n1 m1 e1 → dqntElem src dst dx x =
      if m * m1 = 0 then f.zeroRes (n != n1) else f.finish .rn false (n != n1) (m * m1) (e + e1) false) ∧
  (∀ (f : FFmt) (n i j : Nat) (row : List FVal), i < 32 → j < 32 →
    (hadNeg 8 i j = true ↔ ((List.range 5).filter fun b => i.testBit b && j.testBit b).length % 2 = 1) ∧
    (∀ b, i < n → b * n + n ≤ row.length → hadElem f n row (b * n + i) = f.sumRes .rn false false
      ((List.range n).map fun j => if hadNeg 8 i j then (row.getD (b * n + j) (.nan false)).neg
        else row.getD (b * n + j) (.nan false)))) ∧
  (∀ (dst : Fmt) (amax : W32) (h m : Nat) (e : Int) (n : Bool), fp32F.decode amax.toNat = .fin n m e →
    (m = 0 → qntFactors dst amax h = (0x3F800000, 0x3F800000)) ∧
    (m ≠ 0 → n = false → 0 < h →
      let a := fp32F.decode (fp32F.finish .rz false false (m * h) e false).bits
      let r := (fp32F.div .rn false (.fin false dst.qmax 0) a).bits
      qntFactors dst amax h = (if r = 0x7F800000 then 0x7F7FFFFF else r,
        (fp32F.div .rn false a (.fin false dst.qmax 0)).bits))) ∧
  (Fmt.qmax .int8 = 127 ∧ Fmt.qmax .e4m3 = 448 ∧ Fmt.qmax .e5m2 = 57344 ∧ Fmt.qmax .pw8 = 128) ∧
  (∀ (dst : Fmt) (r : Nat) (x : FRes),
    let p := fp32F.mul .rn false (fp32F.decode x.bits) (fp32F.decode r)
    let q := cvtElem dst .fp32 .rn false false p.bits
    qntElem dst r x = ⟨q.bits, x.flags ||| p.flags ||| q.flags⟩) ∧
  qntFactors .int8 0x40400000 1 = (0x42295555, 0x3CC18306) ∧ (qntElem .int8 0x42295555 ⟨0x3FC00000, 0⟩).bits = 64 ∧
  (qntElem .int8 0x42295555 ⟨0xC0600000, 0⟩) = ⟨0x80, fSat ||| fInexact⟩

/-- R217 to R219, R231, R244, R246, R248, R254. `Core.streamCheck` has the checks of R241 and `nestedCheck` those of
R248. Releases and settling are the model's (log entries 12 and 35); the containment ranges of nested ops are log
entry 33's. A poisoned frame faults RET.TR as any poisoned read (R285). -/
def Obligations.LaneControlStreamsNested : Prop :=
  (∀ (i : Instr) (target : LaneIn → W64) (link : LaneIn → List (RegNo × List W32)),
    (∃ x : LBra, i = .bra x ∧ target = (fun l => l.th.pc + 8 * x.disp.signExtend 64) ∧ link = fun _ => []) ∨
      (∃ x : LCall, i = .laneCall x ∧ target = (fun l => l.th.pc + 8 * x.disp.signExtend 64) ∧
        link = fun l => [(x.vd, [(l.th.pc + 8).extractLsb' 0 32, (l.th.pc + 8).extractLsb' 32 32])]) ∨
      (∃ x : LBrx, (i = .brx x ∨ i = .laneRet x) ∧ target = (fun l => l.a.getD 1 0 ++ l.a.getD 0 0) ∧
        link = fun _ => []) →
    LaneDoes i (fun l _ => (target l).toNat % 8 = 0 ∧ (target l).toNat < 2 ^ 52)
      (fun l s => (s, { regs := link l, goto := some (target l) }))) ∧
  (∀ x, LaneDoes (.retTr x)
    (fun i s => let r := ofBytes ((s.core i.t.c).mem.pread (2048 * i.t.lane + 0x700 + 64 * i.t.slot) 8)
      (s.core i.t.c).framePoisoned i.t.lane i.t.slot = false ∧ r % 8 = 0 ∧ r < 2 ^ 52)
    (fun i s =>
      let f (a n : Nat) : Nat := ofBytes ((s.core i.t.c).mem.pread (2048 * i.t.lane + 0x700 + 64 * i.t.slot + a) n)
      (s.onThread i.t fun th => (List.range 4).foldl (fun th r =>
        if f 0x25 1 / 2 ^ r % 2 = 1 then th.put r (BitVec.ofNat 32 (f (0x28 + 4 * r) 4)) else th.drop r) th,
        { goto := some (BitVec.ofNat 64 (f 0 8)) }))) ∧
  (∀ x r, LaneFaults (.retTr x)
    (fun i s => (s.core i.t.c).framePoisoned i.t.lane i.t.slot = false ∧
      r = ofBytes ((s.core i.t.c).mem.pread (2048 * i.t.lane + 0x700 + 64 * i.t.slot) 8) ∧ (r % 8 ≠ 0 ∨ 2 ^ 52 ≤ r))
    (fun _ => (.badTarget, BitVec.ofNat 64 r, 0))) ∧
  (∀ x, LaneFaults (.retTr x) (fun i s => (s.core i.t.c).framePoisoned i.t.lane i.t.slot = true)
    (fun i => (.memoryError, BitVec.ofNat 64 (0x700 + 64 * i.t.slot), 0))) ∧
  (∀ x, LaneDoes (.exit x) (fun _ _ => True) fun i s => ((s.release i.t.c i.t.agent .core).updCore i.t.c fun k =>
    (k.updTeam i.team.op fun t => { t with flags := t.flags ||| i.th.flags }).setThread i.t.lane i.t.slot none, {})) ∧
  (∀ x, LaneDoes (.yield x) (fun _ _ => True) fun i s =>
    let lanes := (s.sched.issue.map Prod.fst).filter fun l => l / 32 == i.t.lane / 32
    (s.updCore i.t.c fun k => k.moveArb i.team.op (i.t.lane / 32) (lanes.foldl Nat.min i.t.lane) lanes, {})) ∧
  (∀ x, LaneGives (.laneNop x) fun _ => {}) ∧
  (∀ x a pl, LaneDoes (.laneBarv x)
    (fun i s => laneBarrier x.dev i true s = .ok (a, pl) ∧
      ((((s.release i.t.c i.t.agent (barScope x.dev)).barSettle i.t.c i.t.agent pl).bar pl).update 1 0).isSome = true)
    (fun i s =>
      let u := (s.release i.t.c i.t.agent (barScope x.dev)).barSettle i.t.c i.t.agent pl
      (u.setBar i.t.c.val (s.core i.t.c).ctx (laneReplay i s) (((u.bar pl).update 1 0).getD (u.bar pl)) pl,
        out1 x.vd (u.bar pl).phase))) ∧
  (∀ x a pl, LaneFaults (.laneBarv x)
    (fun i s => laneBarrier x.dev i true s = .ok (a, pl) ∧
      (((s.release i.t.c i.t.agent (barScope x.dev)).barSettle i.t.c i.t.agent pl).bar pl).update 1 0 = none)
    (fun _ => (.badBarrier, a, 0))) ∧
  (∀ (dev write : Bool) (i : LaneIn) (s : State),
    let a : W64 := if dev then i.a.getD 1 0 ++ i.a.getD 0 0 else i.a0.zeroExtend 64
    (a.toNat % 16 ≠ 0 → laneBarrier dev i write s = .error (.fault s .badBarrier a 0)) ∧
    (a.toNat % 16 = 0 → dev = false → 0x100000 < a.toNat + 16 →
      laneBarrier dev i write s = .error (.fault s .kennelRange a 0)) ∧
    (a.toNat % 16 = 0 → dev = false → a.toNat + 16 ≤ 0x100000 → (s.core i.t.c).locked false a.toNat 16 write = true →
      laneBarrier dev i write s = .error (.lock s a)) ∧
    (a.toNat % 16 = 0 → dev = true → 2 ^ 52 ≤ a.toNat → laneBarrier dev i write s = .error (.fault s .badAddr a 0)) ∧
    ∀ pl, a.toNat % 16 = 0 → (dev = false → a.toNat + 16 ≤ 0x100000 ∧
        (s.core i.t.c).locked false a.toNat 16 write = false ∧ pl = .kennel i.t.c a.toNat) →
      (dev = true → a.toNat < 2 ^ 52 ∧ ∃ p, LaneAt i a .atomic p s ∧ pl = .device p) →
      laneBarrier dev i write s =
        if s.barPoisoned pl = true then .error (.fault s .memoryError a 0) else .ok (a, pl)) ∧
  (∀ x st, LaneDoes (.qcnt x)
    (fun i s => ((s.atBank i.t.c i.t.agent i.a0.toNat 32).core i.t.c).streamCheck i.a0.toNat none = .ok st)
    (fun i s => (s.atBank i.t.c i.t.agent i.a0.toNat 32,
      out1 x.vd (BitVec.ofNat 32 ((if st.done then 2 ^ 31 else 0) + (st.tail + 2 ^ 32 - st.head) % 2 ^ 31))))) ∧
  (∀ x st, LaneDoes (.qend x)
    (fun i s => ((s.atBank i.t.c i.t.agent i.a0.toNat 32).core i.t.c).streamCheck i.a0.toNat none = .ok st)
    (fun i s => ((s.atBank i.t.c i.t.agent i.a0.toNat 32).kwrite i.t.c (i.a0.toNat + 12) [1, 0, 0, 0x5C], {}))) ∧
  (∀ x, LaneDoes (.dqpop x) (fun i s => nextDq (s.core i.t.c).dq i.team.dtag i.th.lastDq = none)
    (fun _ s => (s, { preds := [(x.pb, false)] }))) ∧
  (∀ x n, LaneDoes (.dqpop x) (fun i s => nextDq (s.core i.t.c).dq i.team.dtag i.th.lastDq = some n)
    (fun i s =>
      let r := (s.core i.t.c).dq[n]
      let r' : DqRec := if r.remain ≤ 1 then { r with st := .free, remain := 0 } else { r with remain := r.remain - 1 }
      ((s.updCore i.t.c fun k => { k with dq := k.dq.set n.val r' }).onThread i.t fun th =>
        { th with cursor := th.cursor + 1, lastDq := r.order },
        { regs := [(x.vd, r.payload.toList)], preds := [(x.pb, true)] }))) ∧
  (∀ x e r, LaneDoes (.ltop x)
    (fun i s => nestedCheck s i.t i.team (i.a0.zeroExtend 64) none = .ok e r ∧
      (s.core i.t.c).queued (queueOf e) < 8)
    (fun i s => ((issueNested i.t i.team e r i.a0.toNat s).2,
      { late := some (x.vd, 1, .nested (s.core i.t.c).nextId) }))) ∧
  (∀ (x : LR1) (cause : Cause) (a : W64), LaneFaults (.ltop x)
    (fun i s => nestedCheck s i.t i.team (i.a0.zeroExtend 64) none = .fault cause a) (fun _ => (cause, a, 0))) ∧
  ∀ (t : TRef) (team : Team) (e : BindEntry) (r : IssueRec) (block : Nat) (s : State),
    let u := s.release t.c t.agent .core
    ∃ n : Op, n.id = (s.core t.c).nextId ∧ n.rcd = r ∧ n.entry = e ∧ n.dtag = team.dtag ∧ n.q = queueOf e ∧
      n.st = .queued ∧ n.parent = some team.op ∧ n.block = block ∧ n.held = false ∧
      n.floor = (u.core t.c).issueFloor t.agent ∧
      issueNested t team e r block s = (n.id, u.updCore t.c fun k => { k with
        ops := k.ops ++ [n], nextId := k.nextId + 1 })

/-- R220 and R221. `repOk` says that a word may be repeated and `repWord` forms it, as the clauses say. That the
next word is fetched before REP's own BUDGET and EMPTY_READ checks is the model's (log entry 60). -/
def Obligations.RepeatPrefix : Prop :=
  (∀ x : LRep, ∃ act, LaneActs (.rep x) act ∧
    (∀ t th team s w v, s.threadOf t = some th → th.rep = none → x.h.holds th.p = true →
      laneFetch t (th.pc + 8) s = .word w v → LaneReady (.rep x) t th team v →
      let l := (laneIn (.rep x) t th team v).1
      let u := (laneIn (.rep x) t th team v).2
      let n := match x.cnt with
        | .reg _ => l.a0.toNat
        | .imm c => c.toNat
      (repOk w x = false → act t s = (false, laneFault t .badRep 0 0 u)) ∧
      (repOk w x = true → n = 0 →
        act t s = (false, u.onThread t fun h => h.retire (.rep x) { goto := some (th.pc + 16) })) ∧
      (repOk w x = true → n ≠ 0 → act t s = (false, u.onThread t fun h => { h.release { a := (Instr.rep x).use.a } with
        pend := [], park := .none, rep := some { n := n, j := 0, stride := x.stride.toNat, fields := x.fields } }))) ∧
    (∀ t th team s, s.threadOf t = some th → (s.core t.c).team? th.team = some team → th.rep = none →
      (∀ r ∈ (Instr.rep x).use.named, r < team.entry.budget) → x.h.holds th.p = false → th.settled = true →
      act t s = (false, s.onThread t fun h => h.pass (.rep x))) ∧
    (∀ t th s, s.threadOf t = some th → th.rep.isSome = true ∨ x.h.holds th.p = true →
      (∀ u, laneFetch t (th.pc + 8) s = .wait u → act t s = (true, u)) ∧
      ∀ cause, laneFetch t (th.pc + 8) s = .fail cause → act t s = (false, laneFault t cause (th.pc + 8) 0 s)) ∧
    ∀ t th s v w r base, s.threadOf t = some th → th.rep = some r → laneFetch t (th.pc + 8) s = .word w v →
      decodeLane w = .ok base →
      (repWord w base.use r = none → act t s = (false, laneFault t .budget 0 0 v)) ∧
      ∀ w' i, repWord w base.use r = some w' → decodeLane w' = .ok i → (laneFnOf i).isSome = true →
        ∃ once, LaneActs i once ∧ act t s = once t v) ∧
  (∀ (t : TRef) (pc w : W64) (s : State), s.laneWord t.c pc = some w →
    laneFetch t pc s = if pc.toNat / 8 ∈ (s.core t.c).mem.lanePoison then .fail .memoryError else .word w s) ∧
  (∀ (w : W64) (u : RegUse) (r : Rep), (∀ k : Fin 4, r.fields.getLsbD k.val = true → ([u.d, u.a, u.b, u.c][k.val]).isSome = true) →
    let add (k : Fin 4) (at_ : Nat) : W64 := if r.fields.getLsbD k.val then BitVec.ofNat 64 (r.j * r.stride) <<< at_ else 0
    let past (k : Fin 4) : Prop := r.fields.getLsbD k.val = true ∧ ∃ f, [u.d, u.a, u.b, u.c][k.val] = some f ∧
      63 < f.r.val + r.j * r.stride
    ((∃ k, past k) → repWord w u r = none) ∧
    ((∀ k, ¬ past k) → repWord w u r = some (w + add 0 39 + add 1 33 + add 2 26 + add 3 19))) ∧
  (∀ (w : W64) (x : LRep), repOk w x = true ↔ ∃ i, decodeLane w = .ok i ∧ (laneFnOf i).isSome = true ∧
    ∀ k : Fin 4, x.fields.getLsbD k.val = true → ∃ f, [i.use.d, i.use.a, i.use.b, i.use.c][k.val] = some f ∧
      x.stride.toNat % f.n = 0) ∧
  ∀ (th v : Thread) (i : Instr) (res : LaneRes) (r : Rep), th.rep = some r → v = th.retire i res ∨ v = th.pass i →
    (r.j + 1 < r.n → v.rep = some { r with j := r.j + 1 } ∧ v.pc = th.pc) ∧
    (r.n ≤ r.j + 1 → v.rep = none ∧ v.pc = th.pc + 16)

/-- R251 to R254, R225 and R86. That entry closes the thread's open windows is the model's (log entry 59). -/
def Obligations.LaneTrapsAndHandler : Prop :=
  (∀ x : LTrap, ∃ act, LaneActs (.laneTrap x) act ∧ ∀ t th team s, LaneReady (.laneTrap x) t th team s →
    act t s = laneTrapTo t .software x.code s) ∧
  (∀ x : LNone, ∃ act, LaneActs (.brk x) act ∧ ∀ t th team s, LaneReady (.brk x) t th team s →
    (s.debugged t.c = true → act t s = (false,
      (s.onThread t fun h => { h with wait := .debug, pend := [] }).toMgmt (.debug t.c t.lane t.slot))) ∧
    (s.debugged t.c = false → act t s = laneTrapTo t .breakpoint 0 s)) ∧
  (∀ s, laneIllegal s = subsetIssue (fun t u => laneTrapTo t .illegalLane 0 u) s) ∧
  ∀ (t : TRef) (h : HandlerCause) (addr : W64) (code : BitVec 16) s th, s.threadOf t = some th → t.lane < 128 → t.slot < 4 →
    let lock := h = .rangeLock
    let r : Issued := if lock then laneLock t addr s else laneTrapTo t h code s
    let at_ : W64 := if lock then addr else 0
    (s.laneHandler t.c = 0 → r = if lock then (true, s) else (false, laneFault t h.cause 0 0 s)) ∧
    (lock → th.rep.isSome = true → r = (true, s)) ∧
    (s.laneHandler t.c ≠ 0 → (lock → th.rep = none) → th.settled = false →
      r = if (s.core t.c).orphaned th th.owing then
        (false, s.onThread t fun h => { h with wait := .faulted, park := .none }) else (true, s)) ∧
    (s.laneHandler t.c ≠ 0 → (lock → th.rep = none) → th.settled = true → th.readsPoison [0, 1, 2, 3] = true →
      r = (false, laneFault t .memoryError 0 0 s)) ∧
    (memoriesWf s = true → s.laneHandler t.c ≠ 0 → (lock → th.rep = none) → th.settled = true →
      th.readsPoison [0, 1, 2, 3] = false → let u := r.2
      let f (a n : Nat) : Nat := ofBytes ((u.core t.c).mem.pread (2048 * t.lane + 0x700 + 64 * t.slot + a) n)
      r.1 = false ∧ f 0 8 = (if lock then th.pc else th.pc + 8).toNat ∧ f 8 8 = th.pc.toNat ∧
      f 0x10 8 = (s.wordAt t th).toNat ∧ f 0x18 8 = at_.toNat ∧ f 0x20 4 = (if h = .software then code.toNat else 0) ∧
      f 0x24 1 = (match h with
        | .illegalLane => 1 | .rangeLock => 2 | .software => 3 | .breakpoint => 4) ∧
      f 0x25 1 = (th.full.extractLsb' 0 4).toNat ∧ f 0x26 2 = 0 ∧ f 0x38 8 = 0 ∧
      (∀ r < 4, f (0x28 + 4 * r) 4 = if th.isFull r then (th.reg r).toNat else 0) ∧
      (∀ w, s.laneWord t.c th.pc = some w → s.wordAt t th = w) ∧
      (∀ a, (a < 2048 * t.lane + 0x700 + 64 * t.slot ∨ 2048 * t.lane + 0x700 + 64 * t.slot + 64 ≤ a) →
        (u.core t.c).mem.pread a 1 = (s.core t.c).mem.pread a 1) ∧
      ∃ v, u.threadOf t = some v ∧ v.pc = s.laneHandler t.c ∧ v.reg 0 = BitVec.ofNat 32 (0x700 + 64 * t.slot) ∧
        v.isFull 0 = true ∧ v.p = th.p ∧ v.flags = th.flags ∧ v.wait = .none ∧
        (∀ r, 0 < r → v.reg r = th.reg r ∧ v.isFull r = th.isFull r) ∧
        ∀ t', t'.c = t.c → t'.lane < 128 → t'.slot < 4 → t' ≠ t → u.threadOf t' = s.threadOf t')

/-- R232, R234. `Instr.collMask` is the mask operand of the ten collectives, none for .ALL; `arrivalValues` is what
a contributing member brings: its a (for POLL its predicate as 0 or 1) and its b block. -/
def Obligations.CollectivesArrive : Prop :=
  (∀ (k : CollIns) (m : Option LSrc), let i := k.ins
    (∃ x, (i = .xpair x ∨ i = .xback x ∨ i = .xfwd x ∨ i = .xone x) ∧ m = x.m) ∨ (∃ x, i = .xpick x ∧ m = x.m) ∨
      (∃ x, i = .poll x ∧ m = x.m) ∨ (∃ x, i = .red x ∧ m = x.m) ∨ (∃ x, i = .qpush x ∧ m = x.m) ∨
      (∃ x, i = .qpop x ∧ m = x.m) ∨ (∃ x, i = .lmma x ∧ m = x.m) →
    ∃ act, LaneActs i act ∧ ∀ t th team s, s.threadOf t = some th → (s.core t.c).team? th.team = some team →
      (∀ r ∈ i.use.named, r < team.entry.budget) → th.awaits i = [] →
      let mask : W32 := match m with
        | some x => th.reg x.r.val
        | none => 0xFFFFFFFF
      let guard := match i.laneHead with
        | some h => h.holds th.p
        | none => true
      (guard = true → team.entry.check = true → (∃ x, m = some x ∧ th.isFull x.r.val = false) →
        act t s = (false, laneFault t .emptyRead 0 0 s)) ∧
      ((∀ x, m = some x → th.isFull x.r.val = true) → (∃ x, m = some x ∧ th.readsPoison [x.r.val] = true) →
        act t s = (false, laneFault t .memoryError 0 0 s)) ∧
      ((∀ x, m = some x → th.isFull x.r.val = true ∧ th.readsPoison [x.r.val] = false) →
        mask.getLsbD (t.lane % 32) = false →
        act t s = (false, s.onThread t fun h => (if guard then h.release { c := i.use.c } else h).pass i)) ∧
      ((∀ x, m = some x → th.isFull x.r.val = true ∧ th.readsPoison [x.r.val] = false) →
        mask.getLsbD (t.lane % 32) = true →
        (∀ cause, guard = true → team.entry.check = true → th.checkFault i = some cause →
          act t s = (false, laneFault t cause 0 0 s)) ∧
        (guard = true → (team.entry.check = true → th.checkFault i = none) → th.readsPoison i.sources = true →
          act t s = (false, laneFault t .memoryError 0 0 s)) ∧
        ((guard = true → (team.entry.check = true → th.checkFault i = none) ∧ th.readsPoison i.sources = false) →
          let v := if guard then arrivalValues i th (s.readStatus t th i.sources) else ((0, []), s)
          act t s = (false, (v.2.release t.c t.agent .core).onThread t fun h => { h with
            pend := [],
            wait := .coll { op := k, mask := mask, contrib := guard, a := v.1.1, b := v.1.2.headD 0, vals := v.1.2,
                            pc := th.pc } })))) ∧
  ∀ (i : Instr) (th : Thread) (s : State), let b := readFld th i.use.b s
    (∀ x, i = .poll x → arrivalValues i th s = ((if th.pred x.pa then 1 else 0, []), s)) ∧
    ((∀ x, i ≠ .poll x) → arrivalValues i th s =
      (((readFld th i.use.a b.2).1.headD 0, b.1), (readFld th i.use.a b.2).2))

/-- R232 to R243 and R249. `exchangeValue`, `pollRes`, `redOf`, `pushStep` and `popRes` are the results, which
CollectiveValues states; `nestedCheck` and `issueNested` are LTOP's. Floors and releases are the model's (log entry
12); the RANGE_LOCK of LMMA is log entry 38's, and stream instructions under a lock log entry 33's. -/
def Obligations.CollectivesComplete : Prop :=
  (∀ (c : CoreNo) (lane slot : Nat) (s : State) th a team, s.thread c lane slot = some th → th.wait = .coll a →
    (s.core c).team? th.team = some team →
    let here := s.arrived c th.team (lane / 32)
    let mem := here.filter fun m => m.arr.matches a
    let other := here.filter fun m =>
      !m.arr.matches a && (a.mask.getLsbD m.lane || mem.any fun x => m.arr.mask.getLsbD x.lane)
    let stands (l : Nat) : Prop := ∃ x ∈ (s.core c).teamThreads th.team, x.1 = 32 * (lane / 32) + l
    (other ≠ [] → exec (.collectiveCompletion c lane slot) s = .next
      (faultAll (here.filter fun m => m.arr.matches a || other.any fun o => m.arr.matches o.arr) .collectiveMismatch 0 0 s)) ∧
    (other = [] → (∃ l < 32, a.mask.getLsbD l = true ∧ ¬ stands l) →
      exec (.collectiveCompletion c lane slot) s = .next (faultAll mem .collectiveExited 0 0 s)) ∧
    (other = [] → (∀ l < 32, a.mask.getLsbD l = true → stands l ∧ ∃ m ∈ here, m.lane = l) →
      exec (.collectiveCompletion c lane slot) s = .next (completeColl c team a mem s)) ∧
    (other = [] → (∀ l < 32, a.mask.getLsbD l = true → stands l) →
      (∃ l < 32, a.mask.getLsbD l = true ∧ ∀ m ∈ here, m.lane ≠ l) →
      exec (.collectiveCompletion c lane slot) s = .next s)) ∧
  (∀ (m : Member) (mem : List Member) (res : Member → LaneRes) (s : State), let u := s.acquire m.t.c m.t.agent .core
    finishAll [] res s = s ∧ finishAll (m :: mem) res s = finishAll mem res (u.onThread m.t fun th =>
      if m.arr.contrib then ({ th with wait := .none } : Thread).retire m.arr.ins (res m)
      else ({ th with wait := .none } : Thread).pass m.arr.ins)) ∧
  (∀ (mem : List Member) (m : Member) (cause : Cause) (a d : W64) (s : State), faultAll [] cause a d s = s ∧
    faultAll (m :: mem) cause a d s = faultAll mem cause a d (laneFault m.t cause a d s)) ∧
  ∀ (c : CoreNo) team (a : Arrival) (mem : List Member) (s : State),
    (∀ m ∈ mem, m.arr.ins.collShape = a.ins.collShape) →
    let cons := mem.filter fun m => m.arr.contrib
    let k := s.core c
    (∀ x, a.ins = .xpair x ∨ a.ins = .xback x ∨ a.ins = .xfwd x ∨ a.ins = .xone x →
      completeColl c team a mem s = finishAll mem (fun m =>
        outLate ((m.arr.ins.use.d.map Fld.r).getD 0) [exchangeValue cons m]) s) ∧
    (∀ x, a.ins = .xpick x → completeColl c team a mem s = finishAll mem (fun m =>
        outLate ((m.arr.ins.use.d.map Fld.r).getD 0) [exchangeValue cons m]) s) ∧
    (∀ x, a.ins = .poll x → completeColl c team a mem s = finishAll mem (fun m => match m.arr.ins with
      | .poll y => pollRes cons y
      | _ => {}) s) ∧
    (∀ x, a.ins = .red x → completeColl c team a mem s = finishAll mem (fun m =>
        out1 ((m.arr.ins.use.d.map Fld.r).getD 0) (BitVec.ofNat 32 (redOf x.op (cons.map fun m => m.arr.a)).bits)
          (redOf x.op (cons.map fun m => m.arr.a)).flags) s) ∧
    ((∃ x, a.ins = .qpush x) ∨ (∃ x, a.ins = .qpop x) ∨ (∃ x, a.ins = .lmma x) → cons = [] →
      completeColl c team a mem s = finishAll mem (fun _ => {}) s) ∧
    (∀ (sz : BitVec 2) (m0 : Member) (ms : List Member), cons = m0 :: ms →
      (∃ x, a.ins = .qpush x ∧ sz = x.sz) ∨ (∃ x, a.ins = .qpop x ∧ sz = x.sz) →
      let at_ := m0.arr.a.toNat
      let check := k.streamCheck at_ (some (4 * 2 ^ sz.toNat))
      ((∃ m ∈ cons, m.arr.a ≠ m0.arr.a) → completeColl c team a mem s = faultAll cons .collectiveMismatch 0 0 s) ∧
      ((∀ m ∈ cons, m.arr.a = m0.arr.a) →
        (∀ cause, check = .fault cause → completeColl c team a mem s = faultAll cons cause (m0.arr.a.zeroExtend 64) 0 s) ∧
        (check = .wait → completeColl c team a mem s = s) ∧
        (∀ x st, a.ins = .qpush x → check = .ok st → completeColl c team a mem s = match pushStep c at_ st cons s with
          | .ok u => finishAll mem (fun _ => {}) u
          | .error cause => faultAll cons cause (m0.arr.a.zeroExtend 64) 0 s) ∧
        ∀ x st, a.ins = .qpop x → check = .ok st → let n := Nat.min cons.length st.count
          (∀ r < n, k.kpoisoned (st.slot at_ (st.head + r)) st.rsize = false) →
          completeColl c team a mem s = finishAll mem (fun m => match m.arr.ins with
            | .qpop y => popRes k at_ st y (cons.idxOf m)
            | _ => {}) (s.kwrite c (at_ + 4) (leBytes 4 (st.head + n))))) ∧
    ∀ x (m0 : Member) (ms : List Member), a.ins = .lmma x → cons = m0 :: ms →
      let check := nestedCheck s m0.t team (m0.arr.b.zeroExtend 64) (some m0.arr.a)
      (∀ m, cons.find? (fun y => y.arr.a != m0.arr.a) = some m →
        completeColl c team a mem s = faultAll cons .formatDivergence 0 (m.arr.a ++ m0.arr.a) s) ∧
      ((∀ m ∈ cons, m.arr.a = m0.arr.a) →
        (∀ cause b, check = .fault cause b → completeColl c team a mem s = laneFault m0.t cause b 0 s) ∧
        (∀ b, check = .lock b → completeColl c team a mem s =
          if s.laneHandler c = 0 then s else (enterHandler m0.t .rangeLock b 0 s).2) ∧
        ∀ e r, check = .ok e r →
          (8 ≤ k.queued (queueOf e) → completeColl c team a mem s = s) ∧
          (k.queued (queueOf e) < 8 → completeColl c team a mem s = finishAll mem (fun m =>
            { late := some ((m.arr.ins.use.d.map Fld.r).getD 0, 1, .nested (s.core m0.t.c).nextId) })
            (issueNested m0.t team e r m0.arr.b.toNat s).2))

/-- R235 to R239, R242, R243. Members are listed in lane order. -/
def Obligations.CollectiveValues : Prop :=
  (∀ (cons : List Member) (m : Member) (src : Option Nat), m.lane < 32 →
    ((∃ x : LXchg, m.arr.ins = .xpair x ∧ src = some (m.lane ^^^ x.k.toNat)) ∨
      (∃ x : LXpick, m.arr.ins = .xpick x ∧ src = some (m.arr.b.extractLsb' 0 5).toNat) ∨
      (∃ x : LXchg, m.arr.ins = .xback x ∧ src =
        if x.ring then some ((m.lane + (32 - x.k.toNat)) % 32)
        else if m.lane < x.k.toNat then none else some (m.lane - x.k.toNat)) ∨
      (∃ x : LXchg, m.arr.ins = .xfwd x ∧ src =
        if x.ring then some ((m.lane + x.k.toNat) % 32)
        else if 31 < m.lane + x.k.toNat then none else some (m.lane + x.k.toNat)) ∨
      ∃ x : LXchg, m.arr.ins = .xone x ∧ src = some x.k.toNat) →
    (∀ l n, src = some l → cons.find? (fun x => x.lane == l) = some n → exchangeValue cons m = n.arr.a) ∧
    ((∀ l, src = some l → ∀ n ∈ cons, n.lane ≠ l) →
      exchangeValue cons m = if fillZ m.arr.ins then 0 else m.arr.a)) ∧
  (∀ (cons : List Member) (x : LPoll), (cons.map Member.lane).Nodup →
    (x.mode = 0 → ∃ w, pollRes cons x = out1 x.vd w ∧
      ∀ l < 32, w.getLsbD l = cons.any fun m => m.lane == l && m.arr.a != 0) ∧
    (x.mode = 1 → pollRes cons x = { preds := [(Fin.ofNat 8 x.vd.val, cons.any fun m => m.arr.a != 0)] }) ∧
    (x.mode = 2 → pollRes cons x = { preds := [(Fin.ofNat 8 x.vd.val, cons.all fun m => m.arr.a != 0)] }) ∧
    (x.mode = 3 → pollRes cons x = out1 x.vd (BitVec.ofNat 32 (cons.countP fun m => m.arr.a != 0)))) ∧
  (∀ (v : W32) (vs : List W32),
    (redOf .add (v :: vs)).bits = (v.toNat + (vs.map BitVec.toNat).sum) % 2 ^ 32 ∧
    (redOf .minu (v :: vs)).bits = (vs.map BitVec.toNat).foldl Nat.min v.toNat ∧
    (redOf .maxu (v :: vs)).bits = (vs.map BitVec.toNat).foldl Nat.max v.toNat ∧
    (∃ w ∈ v :: vs, (redOf .min (v :: vs)).bits = w.toNat ∧ ∀ u ∈ v :: vs, w.toInt ≤ u.toInt) ∧
    (∃ w ∈ v :: vs, (redOf .max (v :: vs)).bits = w.toNat ∧ ∀ u ∈ v :: vs, u.toInt ≤ w.toInt) ∧
    (∀ k < 32, (redOf .and (v :: vs)).bits.testBit k = (v :: vs).all fun w => w.getLsbD k) ∧
    (∀ k < 32, (redOf .or (v :: vs)).bits.testBit k = (v :: vs).any fun w => w.getLsbD k) ∧
    (∀ k < 32, (redOf .xor (v :: vs)).bits.testBit k = decide ((v :: vs).countP (fun w => w.getLsbD k) % 2 = 1))) ∧
  (∀ (op : RedOp) (v w : W32) (vs : List W32) (most : Bool), (op = .fmin ∧ most = false) ∨ (op = .fmax ∧ most = true) →
    redOf op [v] = fp32F.minMax false most v.toNat v.toNat ∧
    let r := redOf op (v :: vs)
    let y := fp32F.minMax false most r.bits w.toNat
    redOf op (v :: vs ++ [w]) = ⟨y.bits, r.flags ||| y.flags⟩) ∧
  (∀ vs : List W32, let xs := vs.map fun v => fp32F.decode v.toNat
    ((∃ x ∈ xs, x.isNan = true) → redOf .fadd vs = fp32F.nanRes true) ∧
    ((∀ x ∈ xs, x.isNan = false) → (.inf false) ∈ xs → (.inf true) ∈ xs → redOf .fadd vs = fp32F.nanRes true) ∧
    (∀ n, (∀ x ∈ xs, x.isNan = false) → (.inf n) ∈ xs → (.inf !n) ∉ xs → redOf .fadd vs = fp32F.infRes n 0) ∧
    ((∀ x ∈ xs, x.isNan = false ∧ x.isInf = false) →
      let sum : Int := (xs.map fun x => x.sm * 2 ^ (x.ex + 149).toNat).sum
      (sum ≠ 0 → redOf .fadd vs = fp32F.finish .rn false (decide (sum < 0)) sum.natAbs (-149) false) ∧
      (sum = 0 → redOf .fadd vs = fp32F.zeroRes (decide (vs ≠ []) && vs.all fun v => v == 0x80000000)))) ∧
  (∀ (c : CoreNo) (a : Nat) (x : Stream) (cons : List Member) (s : State),
    let count := (x.tail + 2 ^ 32 - x.head) % 2 ^ 32
    (x.done = true → pushStep c a x cons s = .error .badStream) ∧
    (x.done = false → x.cap < count + cons.length → pushStep c a x cons s = .error .streamFull) ∧
    (memoriesWf s = true → x.done = false → count + cons.length ≤ x.cap → a + 32 + x.cap * x.rsize ≤ 0x100000 →
      (∀ m ∈ cons, 4 * m.arr.vals.length = x.rsize) → ∃ u, pushStep c a x cons s = .ok u ∧
      (u.core c).kword a 4 = (x.tail + cons.length) % 2 ^ 32 ∧
      (∀ r (h : r < cons.length), (u.core c).kread (a + 32 + (x.tail + r) % x.cap * x.rsize) x.rsize =
        cons[r].arr.vals.flatMap fun w => leBytes 4 w.toNat) ∧
      ∀ b, ¬ (a ≤ b ∧ b < a + 4) → (∀ r < cons.length, ¬ (a + 32 + (x.tail + r) % x.cap * x.rsize ≤ b ∧
          b < a + 32 + (x.tail + r) % x.cap * x.rsize + x.rsize)) →
        (u.core c).kread b 1 = (s.core c).kread b 1)) ∧
  ∀ (k : Core) (a : Nat) (x : Stream) (q : LQpop) (r : Nat), let count := (x.tail + 2 ^ 32 - x.head) % 2 ^ 32
    let slot := a + 32 + (x.head + r) % x.cap * x.rsize
    (r < count → popRes k a x q r = { regs := [(q.vd, (List.range (2 ^ q.sz.toNat)).map fun j =>
      BitVec.ofNat 32 (k.kword (slot + 4 * j) 4))], preds := [(q.pb, true)] }) ∧
    (count ≤ r → popRes k a x q r = { preds := [(q.pb, false)] })

/-- R75, with the count of R77 and the check of BUDGET before the guard (R87). -/
def Obligations.FalseGuardHasNoEffect : Prop :=
  ∀ (i : Instr) (h : LHead), i.laneHead = some h → i.collMask = none → (∀ x, i ≠ .rep x) →
    ∃ act, LaneActs i act ∧ ∀ t th team s, s.threadOf t = some th → (s.core t.c).team? th.team = some team →
      ((∃ r ∈ i.use.named, team.entry.budget ≤ r) → act t s = (false, laneFault t .budget 0 0 s)) ∧
      ((∀ r ∈ i.use.named, r < team.entry.budget) → h.holds th.p = false →
        (i.closes = true → th.settled = false → act t s =
          if (s.core t.c).orphaned th th.owing then (false, s.onThread t Thread.stop) else (true, s)) ∧
        ((i.closes = true → th.settled = true) →
          ∃ v, act t s = (false, s.onThread t (fun _ => v)) ∧ v.v = th.v ∧ v.full = th.full ∧ v.p = th.p ∧
            v.flags = th.flags ∧ v.wait = th.wait ∧ (i.closes = true → v.pend = []) ∧
            (∀ p ∈ v.pend, ∃ q ∈ th.pend, p = { q with win := q.win - 1 }) ∧
            (th.rep = none → v.pc = th.pc + 8 ∧ v.rep = none)))

/-- R24 and R29 for `Thread.retire`, the end of every lane instruction; R220 for the repeat. -/
def Obligations.LaneResultsAreWritten : Prop :=
  (∀ (th : Thread) (i : Instr) (d : RegNo) (x : W32) (fl : Flags6),
    let v := th.retire i (out1 d x fl)
    let freed (r : Nat) : Prop := ∃ f ∈ i.use.srcs, f.lu = true ∧ r ∈ f.regs ∧ (i.closes = true ∨ th.owed r = none)
    v.reg d.val = x ∧ v.isFull d.val = true ∧ (∀ r < 64, r ≠ d.val → v.reg r = th.reg r) ∧
    (∀ r < 64, r ≠ d.val → freed r → v.isFull r = false) ∧
    (∀ r < 64, r ≠ d.val → ¬ freed r → v.isFull r = th.isFull r) ∧
    v.p = th.p ∧ v.flags = th.flags ||| fl ∧ v.wait = th.wait ∧ v.park = .none ∧
    (th.rep = none → v.pc = th.pc + 8 ∧ v.rep = none) ∧
    ∀ r, th.rep = some r → (v.rep, v.pc) =
      if r.j + 1 < r.n then (some { r with j := r.j + 1 }, th.pc) else (none, th.pc + 16)) ∧
  (∀ (th : Thread) (i : Instr) (d : PredNo) (b : Bool) (goto : Option W64), th.rep = none →
    let v := th.retire i { preds := [(d, b)], goto := goto }
    (d ≠ 7 → v.pred d = b) ∧ (∀ k : PredNo, k ≠ d → v.pred k = th.pred k) ∧ v.v = th.v ∧ v.flags = th.flags ∧
      v.pc = goto.getD (th.pc + 8)) ∧
  ∀ (th : Thread) (i : Instr) (d : RegNo) (ws : List W32) (fl : Flags6), i.closes = false →
    let v := th.retire i (outLate d ws fl)
    let la := match i.laneHead with
      | some h => h.la.toNat
      | none => 0
    v.v = th.v ∧ v.p = th.p ∧ v.flags = th.flags ∧
      v.pend.getLast? = some { dst := d, n := ws.length, res := .vals ws, fl := fl, win := la, arrived := false, release := [] }

/-- R15 at both levels. -/
def Obligations.PredicateSevenIsTrue : Prop :=
  (∀ q : Seq, q.pred 7 = true) ∧ (∀ th : Thread, th.pred 7 = true) ∧ (∀ ps b, predSet ps 7 b = ps) ∧
  (∀ (ps : BitVec 8) (d k : PredNo) (b : Bool), d ≠ 7 →
    (predSet ps d b).getLsbD k.val = if k = d then b else ps.getLsbD k.val) ∧
  (∀ s a b, exec (.pand ⟨7, a, b⟩) s = .next (tileNext s) ∧ exec (.por ⟨7, a, b⟩) s = .next (tileNext s) ∧
    exec (.pxor ⟨7, a, b⟩) s = .next (tileNext s) ∧ exec (.pnot ⟨7, a⟩) s = .next (tileNext s)) ∧
  (∀ s a b cond, s.curCore.seq.pendingSKL a = false → s.curCore.seq.pendingSKL b = false →
    exec (.cmp ⟨7, a, b, cond⟩) s = .next (tileNext s)) ∧
  ∀ (th : Thread) (i : Instr) (r : LaneRes), (∀ x ∈ r.preds, x.1 = 7) → (th.retire i r).p = th.p

/-- R24 and R77. `State.undef` gives the undefined values of R2; the choice inside a window is the next of
`Sched.choices`, a field of the model (log entry 8). -/
def Obligations.OperandReads : Prop :=
  ∀ (th : Thread) (r : Nat) (s : State),
    (th.owed r = none → th.isFull r = true → readReg th r s = (th.reg r, s)) ∧
    (th.owed r = none → th.isFull r = false → readReg th r s =
      (Config.undef 32 s.sched.fresh, s.setSched { s.sched with fresh := s.sched.fresh + 1 })) ∧
    (∀ p w, th.owed r = some p → p.future r = some w → th.isFull r = true →
      ((readReg th r s).1 = th.reg r ∨ (readReg th r s).1 = w) ∧
        ∃ cs, (readReg th r s).2 = s.setSched { s.sched with choices := cs })

/-- R77, R98, R32, R176, R214, R111. When a load reads its memory is the model's choice (log entry 35). The barrier
of a thread here lies in the Kennel and no range lock covers it. -/
def Obligations.SequencerResultArrives : Prop :=
  (∀ c lane slot n s th p ws, s.thread c lane slot = some th → th.pend[n]? = some p → p.arrived = false →
    p.res = .vals ws →
    exec (.longLatencyResult c lane slot n) s = .next (s.updThread c lane slot fun th => th.arrive n ws) ∧
    (th.arrive n ws).flags = th.flags ||| p.fl ∧ (th.arrive n ws).pc = th.pc ∧ (th.arrive n ws).p = th.p) ∧
  (∀ c lane slot n s th p l, s.thread c lane slot = some th → th.pend[n]? = some p → p.arrived = false →
    p.res = .load l →
    let r := s.readLate c (.thread lane slot) l
    exec (.longLatencyResult c lane slot n) s = .next (r.2.updThread c lane slot fun th =>
      ({ th with pend := th.pend.modify n fun p => { p with res := .vals (l.words r.1) } } : Thread).arrive n
        (l.words r.1))) ∧
  (∀ c n s d v fl, (s.core c).seq.pend[n]? = some ⟨d, some v, fl, none⟩ →
    exec (.sequencerResult c n) s = .next (s.updSeq c fun q =>
      (SK.put v { q with pend := q.pend.eraseIdx n } d).orFlags fl)) ∧
  (∀ c n s d v fl l, (s.core c).seq.pend[n]? = some ⟨d, v, fl, some l⟩ →
    let r := s.readLate c .seq l
    exec (.sequencerResult c n) s = .next (r.2.updSeq c fun q =>
      (SK.put (extendTo 64 l.n l.sx r.1) { q with pend := q.pend.eraseIdx n } d).orFlags fl)) ∧
  (∀ c s i e own rest, (s.core c).updates = (i, e, own) :: rest →
    ((rest.any fun u => u.1 == i && u.2.2) = false → exec (.bindUpdateArrival c) s =
      .next (s.updCore c fun k => { k with updates := rest, table := k.table.setIfInBounds i e })) ∧
    ((rest.any fun u => u.1 == i && u.2.2) = true → exec (.bindUpdateArrival c) s =
      .next (s.updCore c fun k => { k with updates := rest }))) ∧
  (∀ c s x, (s.core c).health.gated = false → (s.core c).seq.mode = .run →
    decodeTile ((s.core c).seq.wordAt (s.core c).seq.pc) none = .ok (.tileBwait x) →
    exec (.barrierWaitRelease c none) s = exec (.tileBwait x) (s.setSched { s.sched with cur := c })) ∧
  (∀ c lane slot s th team a n i, (s.core c).health.gated = false → s.thread c lane slot = some th →
    th.wait = .barrier a false n → (s.core c).team? th.team = some team → team.aborting = false →
    (s.core c).locked false a.toNat 16 false = false →
    let s' := s.barSettle c (.thread lane slot) (.kennel c a.toNat)
    (s'.bar (.kennel c a.toNat)).ok = true → s.barPoisoned (.kennel c a.toNat) = false →
    phasePassed (s'.bar (.kennel c a.toNat)).phase n = true →
    decodeLane (s.wordAt ⟨c, lane, slot⟩ th) = .ok i →
    exec (.barrierWaitRelease c (some (lane, slot))) s = .next ((s'.acquire c (.thread lane slot) .core).updThread c
      lane slot fun th => ({ th with wait := .none } : Thread).retire i {})) ∧
  ∀ c g op s team low sub, (s.core c).team? op = some team → team.entry.nofair = false →
    (team.arb.toList.getD g {}).period ≤ (team.arb.toList.getD g {}).timer →
    (s.core c).currentSubset team g = some (low, sub) → (s.core c).otherHeads op g (sub.map Prod.fst) ≠ [] →
    exec (.fairnessTimerExpiry c g op) s = .next (s.updCore c fun k => k.updTeam op fun t => { t with
      arb := t.arb.setIfInBounds g
        { low := some ((nextHead ((s.core c).otherHeads op g (sub.map Prod.fst)) low).getD low),
          timer := 0, period := (s.core c).seq.faircyc } })

/-- R56, R57, R124 to R136, R143 to R160, R250, R375. `startable`, `groupsFor`, `teamDone`, `nextFault` are the
conditions of those rules; the element functions are RoundingRules'. When an op starts and whether checksums agree
are the model's choices (log entries 8, 37); the order of the checks within check 2 is log entry 15's, the place of
the Hadamard block multiple log entry 71's, waits on range locks log entry 33's, nested faults log entry 39's, scans
without a format log entry 41's, and which threads of an aborted team go on log entry 40's. -/
def Obligations.OpsStartAndComplete : Prop :=
  (∀ c conv s o, (s.core c).enginesRun = true →
    (s.core c).startable (if conv then .conv else .matrix) = some o →
    (o.entry.engfn = 5 → o.st = .queued → ∀ d, tileOf c o.rcd.d = some d → d.d.pidx ∉ s.openCloses c) →
    (s.core c).opLocked (engineTouch s c o) = false →
    exec (.engineOpStart c conv) s = .next (engineStep c o s.choice.1 s.choice.2) ∧
    (o.result = none → o.seen = [] → s.sched.choices = [] → exec (.engineOpStart c conv) s = .next (startOp c o s))) ∧
  (∀ c s (o : Op),
    let md := o.rcd.word.md.toNat
    let a := tileOf c o.rcd.a
    let b := tileOf c o.rcd.b
    let executed (st : OpStatus) (scale : Option W32) (folded : List Nat) (u : State) : State :=
      u.updCore c fun k => k.updOp o.id fun x => { x with st := .executed st scale, folded := folded }
    (∀ f, engineFault s c o.entry.engfn md o.rcd = some f → startOp c o s = executed f none [] s) ∧
    ∀ d, engineFault s c o.entry.engfn md o.rcd = none → tileOf c o.rcd.d = some d →
      (∀ t, (tilesRead o.entry.engfn md d a b).find? s.tilePoisoned = some t →
        startOp c o s = executed { cause := .memoryError, addr := BitVec.ofNat 64 t.d.base } none [] s) ∧
      ((tilesRead o.entry.engfn md d a b).find? s.tilePoisoned = none →
        let cols := (a.map fun x => x.d.cols).getD d.d.cols
        let table := ((tableAddr o.entry.engfn md o.rcd).map fun x => readTable (s.core c) x.toNat cols).getD
          (List.range cols)
        let r := runEngine c o o.entry.engfn md d a b table s
        startOp c o s = executed r.st r.scale r.folded r.s)) ∧
  (∀ c s (o : Op) (take : Nat → Bool), let t := readSome c o take s
    (∀ x, (s.core c).op? o.id = some x → ∃ new : List SeenByte,
      (t.core c).op? o.id = some { x with st := .running, seen := x.seen ++ new } ∧
      ∀ b ∈ new, (b.core, b.acc, b.addr) ∈ readPlacesOf s c o ∧ b.val = (s.core b.core).mem.byteIn b.acc b.addr) ∧
    SameMemory s t ∧ (((s.core c).op? o.id).isSome = true → SameMemory s (computeOp c o s))) ∧
  (∀ c s (o : Op) (take : Nat → Bool) st scale, o.result = some (st, scale) → memoriesWf s = true →
    (o.entry.engfn = 0 → (s.core c).mem.workPoison = []) →
    (∀ b ∈ o.todo, b.addr < if b.acc then 0x40000 else 0x100000) →
    let t := writeSome c o take s
    let now (acc : Bool) (x : Nat) : Prop := ∃ (i : Nat) (b : TodoByte), o.todo[i]? = some b ∧ take i = true ∧ b.acc = acc ∧ b.addr = x
    (∀ x < 0x100000, ¬ now false x → (t.core c).kread x 1 = (s.core c).kread x 1) ∧
    (∀ x, ¬ now true x → (t.core c).mem.aread x 1 = (s.core c).mem.aread x 1) ∧
    (∀ (i : Nat) b, o.todo[i]? = some b → take i = true →
      (∀ (j : Nat) b', o.todo[j]? = some b' → (b'.acc, b'.addr) = (b.acc, b.addr) → b' = b) →
      (t.core c).mem.byteIn b.acc b.addr = b.val) ∧
    ((∀ i < o.todo.length, take i = true) → ∀ x, (s.core c).op? o.id = some x → (t.core c).op? o.id =
      some { x with st := .executed st scale, seen := [], result := none, todo := [] })) ∧
  (∀ c s fn md (r : IssueRec) t0, r.d = .tile t0 →
    let bad (v : OpVal) : Prop := ∃ t, v = .tile t ∧ (Desc.of t).ok (s.pedlimit c) true = false
    let vs : List OpVal := [r.d, r.a, r.b, r.c]
    let d : Desc := Desc.of t0
    let da := (tileOf c r.a).map Tile.d
    let rules := ruleFault fn md d da ((tileOf c r.b).map Tile.d)
    let cols := (da.map Desc.cols).getD d.cols
    (∀ n v, vs[n]? = some v → bad v → (∀ m < n, ∀ w, vs[m]? = some w → ¬ bad w) →
      engineFault s c fn md r = some { cause := .badDesc, detail := BitVec.ofNat 64 n }) ∧
    ((∀ v ∈ vs, ¬ bad v) →
      (∀ f, rules = some f → engineFault s c fn md r = some f) ∧
      (rules = none → ∀ x, tableAddr fn md r = some x →
        (x.toNat % 2 ≠ 0 → engineFault s c fn md r = some { cause := .align, addr := x }) ∧
        (x.toNat % 2 = 0 → 0x100000 < x.toNat + 2 * cols →
          engineFault s c fn md r = some { cause := .kennelRange, addr := x }) ∧
        (x.toNat % 2 = 0 → x.toNat + 2 * cols ≤ 0x100000 → (s.core c).kpoisoned x.toNat (2 * cols) = true →
          engineFault s c fn md r = some { cause := .memoryError, addr := x }) ∧
        (x.toNat % 2 = 0 → x.toNat + 2 * cols ≤ 0x100000 → (s.core c).kpoisoned x.toNat (2 * cols) = false →
          (∃ i < cols, cols ≤ (s.core c).kword (x.toNat + 2 * i) 2) →
          engineFault s c fn md r = some { cause := .badPerm, addr := x })) ∧
      (rules = none → (∀ x, tableAddr fn md r = some x → tableFault (s.core c) x cols = none) →
        (fn = 5 → d.pidx = 0 → engineFault s c fn md r = some { cause := .noStats }) ∧
        (fn ≠ 5 → d.space = 0 → d.pidx ≠ 0 → (s.dev.rcd (s.core c).ctx d.pidx).fmt ≠ d.fmt →
          engineFault s c fn md r = some { cause := .illegalOperand }) ∧
        (fn = 5 → d.pidx ≠ 0 → engineFault s c fn md r = none) ∧
        (fn ≠ 5 → d.space ≠ 0 ∨ d.pidx = 0 ∨ (s.dev.rcd (s.core c).ctx d.pidx).fmt = d.fmt →
          engineFault s c fn md r = none)))) ∧
  (∀ fn md (d a b : Desc),
    let kr (x : Desc) : Prop := x.space = 0 ∨ x.space = 2
    let shape : Prop := a.rows = d.rows ∧ a.cols = d.cols
    let wide (f : Fmt) : Prop := f = .fp32 ∨ f = .bf16 ∨ f = .fp16
    let small (f : Fmt) : Prop := f = .int8 ∨ f = .e4m3 ∨ f = .e5m2 ∨ f = .pw8
    let two (f g h : Fmt) : Prop := f = g ∨ f = h
    (ruleFault 0 md d (some a) (some b) = none ↔ d.space = 1 ∧ kr a ∧ a.rows = d.rows ∧ kr b ∧ b.rows = d.rbytes / 4 ∧
      a.cols = b.cols ∧
      ((two a.fmtOr .int8 .uint8 ∧ two b.fmtOr .int8 .uint8 ∧ a.cols % 48 = 0 ∧ d.fmtOr = .int32) ∨
       (a.fmtOr = .pw8 ∧ b.fmtOr = .int8 ∧ a.cols % 48 = 0 ∧ d.fmtOr = .int32) ∨
       (two a.fmtOr .e4m3 .e5m2 ∧ two b.fmtOr .e4m3 .e5m2 ∧ a.cols % 48 = 0 ∧ d.fmtOr = .fp32) ∨
       (two a.fmtOr .bf16 .fp16 ∧ b.fmtOr = a.fmtOr ∧ a.cols % 24 = 0 ∧ d.fmtOr = .fp32))) ∧
    (ruleFault 1 md d (some a) none = none ↔ d.space = 1 ∧ a.space = 0 ∧ shape ∧
      ((d.fmtOr = .fp32 ∧ wide a.fmtOr) ∨ (d.fmtOr = .int32 ∧ two a.fmtOr .int32 .int8))) ∧
    (∀ x, ruleFault 2 md d (some a) x = none ↔ d.space = 0 ∧ a.space = 1 ∧ shape ∧
      d.fmtOr ≠ .none ∧ d.fmtOr ≠ .uint8 ∧ d.fmtOr ≠ .pw8) ∧
    (ruleFault 3 md d none none = none ↔ d.space = 1) ∧
    (ruleFault 4 md d (some a) none = none ↔ d.space = 0 ∧ kr a ∧ shape) ∧
    (ruleFault 5 md d (some a) none = none ↔ d.space = 0 ∧ kr a ∧ shape ∧ small d.fmtOr ∧ wide a.fmtOr ∧
      (md = 0 ∨ d.role = if md = 3 then 2 else 1) ∧ (md = 1 → a.cols % 16 = 0) ∧ (md = 2 → a.cols % 32 = 0)) ∧
    (ruleFault 6 md d (some a) none = none ↔ d.space = 0 ∧ kr a ∧ shape ∧ wide d.fmtOr ∧ small a.fmtOr) ∧
    (ruleFault 7 md d (some a) none = none ↔ d.space = 0 ∧ kr a ∧ shape ∧ wide d.fmtOr ∧ wide a.fmtOr ∧ d.role = 1 ∧
      (md = 1 → a.cols % 16 = 0) ∧ (md = 2 → a.cols % 32 = 0)) ∧
    (ruleFault 8 md d (some a) none = none ↔ d.space = 0 ∧ kr a ∧ shape ∧ d.role = 2 ∧ a.fmtOr = d.fmtOr) ∧
    ∀ f, ruleFault fn md d (some a) (some b) = some f → f.cause = .illegalOperand ∨
      ((fn = 5 ∨ fn = 7) ∧ a.cols % (if md = 1 then 16 else 32) ≠ 0 ∧ f.cause = .badDesc)) ∧
  (∀ c o md (d a : Tile) (b : Option Tile) table s,
    let put (f : Nat → Nat → FRes) : EngineRes := commit c o d.d (cellsOf d.d f) s
    let row (i : Nat) : List FVal := (List.range a.d.cols).map fun j => s.val a i j
    runEngine c o 1 md d (some a) b table s = put (fun i k => accldElem a.d.fmtOr d.d.fmtOr (s.elem a i k)) ∧
    (runEngine c o 2 md d (some a) b table s = put fun i k =>
      accstElem a.d.fmtOr d.d.fmtOr (if md % 4 = 1 then 4 else if md % 4 = 2 then 5 else 0) (md / 4 == 1)
        (factorOf o.rcd.b) (factorOf o.rcd.c) (s.elem a i k)) ∧
    runEngine c o 3 md d none b table s = put (fun _ _ => ⟨0, 0⟩) ∧
    runEngine c o 4 md d (some a) b table s = put (fun i k =>
      cvtElem d.d.fmtOr a.d.fmtOr .rn false (md == 4) (s.elem a i k)) ∧
    runEngine c o 6 md d (some a) b table s = put (fun i k =>
      dqntElem a.d.fmtOr d.d.fmtOr (fp32F.decode a.d.scale.toNat) (s.elem a i k)) ∧
    (∀ f, d.d.fmtOr.ffmt = some f → runEngine c o 7 md d (some a) b table s = put fun i k =>
      hadElem f (if md = 1 then 16 else 32) (row i) k) ∧
    runEngine c o 8 md d (some a) b table s = put (fun i k => ⟨s.elem a i (table.getD k 0), 0⟩) ∧
    (let r := runEngine c o 5 md d (some a) b table s
     let rcd := s.dev.rcd (s.core c).ctx d.d.pidx
     let f := qntFactors d.d.fmtOr rcd.closed.amax (if md = 1 then 4 else if md = 2 then 8 else 1)
     let q (i k : Nat) : FRes := qntElem d.d.fmtOr f.1 (if md = 1 then hadElem fp32F 16 (row i) k
       else if md = 2 then hadElem fp32F 32 (row i) k
       else cvtElem .fp32 a.d.fmtOr .rn false false (s.elem a i (table.getD k 0)))
     let sat := ((List.range d.d.rows).map fun i => ((List.range d.d.cols).filter fun k =>
       d.d.valid i k && (q i k).flags &&& fSat != 0).length).sum
     r.s = writeCells c d.d (cellsOf d.d q) s ∧ r.scale = some (BitVec.ofNat 32 f.2) ∧ r.folded = [] ∧
     r.st = { cause := if rcd.thresh ≠ 0 ∧ rcd.thresh.toNat ≤ sat then .rescale else .none,
              flags := cellFlags d.d (cellsOf d.d q) }) ∧
    ∀ b : Tile, let cs := mmaCells s md d a b table
      let w := (s.setWork c d.d cs).choice
      let r := runEngine c o 0 md d (some a) (some b) table s
      (w.1 ≤ 1 → r = commit c o d.d cs (w.2.setDev { w.2.dev with corrected := w.2.dev.corrected + w.1 })) ∧
      (1 < w.1 → r.st.cause = .matrixCheck ∧ r.st.flags = cellFlags d.d cs ∧ r.scale = none ∧
        ∃ e, r.s = (commit c o d.d cs w.2).s.machineCheck 1 (some (s.core c).ctx) c.val 255 e 0)) ∧
  (∀ (s : State) md (d a b : Tile) table st acc i j, mmaPair a.d.fmtOr b.d.fmtOr = some (st, acc) → 0 < st →
    a.d.cols % st = 0 → table.length = a.d.cols → i < a.d.rows → j < b.d.rows →
    ((mmaCells s md d a b table)[i]?.bind fun x => x[j]?) = some (mmaElem acc
      (if md % 2 = 1 then some (s.elem d i j) else none)
      ((List.range (a.d.cols / st)).map fun n => (List.range st).map fun k =>
        ((s.val a i (table.getD (n * st + k) 0)).mul (s.val b j (n * st + k))).getD (.nan true)))) ∧
  (∀ c o d f s,
    let r := commit c o d (cellsOf d f) s
    let folds := (List.range d.rows).flatMap fun i => (List.range d.cols).filterMap fun k =>
      if d.valid i k then some ({ ctx := (s.core c).ctx, idx := d.pidx, bits := (f i k).bits, replay := o.replay } : Fold)
      else none
    r.st = { flags := cellFlags d (cellsOf d f) } ∧ r.scale = none ∧
    r.s = (writeCells c d (cellsOf d f) s).updCore c (fun k =>
      { k with port := k.port ++ if d.space = 0 ∧ d.pidx ≠ 0 then folds else [] }) ∧
    r.folded = (if d.space = 0 ∧ d.pidx ≠ 0 ∧ folds ≠ [] then [d.pidx] else []) ∧
    (∀ n < 6, (cellFlags d (cellsOf d f)).getLsbD n = true ↔
      ∃ i < d.rows, ∃ k < d.cols, d.valid i k = true ∧ (f i k).flags.getLsbD n = true) ∧
    ∀ pl, d.ok pl true = true → d.space ≠ 2 → memoriesWf s = true → (∀ i k, (f i k).bits < 256 ^ d.esize) →
      let u := writeCells c d (cellsOf d f) s
      (∀ i < d.rows, ∀ k < d.cols, u.elem ⟨d, c⟩ i k = (f i k).bits) ∧
      ∀ x, let out : Prop := ∀ y ∈ d.rowsList, x < y.1 ∨ y.1 + y.2 ≤ x
        (out ∨ d.space ≠ 0 → x < 0x100000 → (u.core c).mem.kread x 1 = (s.core c).mem.kread x 1) ∧
        (out ∨ d.space ≠ 1 → x < 0x40000 → (u.core c).mem.aread x 1 = (s.core c).mem.aread x 1)) ∧
  (∀ c s o gs, (s.core c).laneHead = some o → (s.core c).groupsFor o.entry.gang = some gs → (s.core c).moving = true →
    exec (.teamAdmission c) s = .next (s.updCore c fun k => k.startTeam s.now o gs) ∧
    gs.length = (if o.entry.gang = 0 then 1 else if o.entry.gang = 1 then 2 else 4) ∧
    ∀ j g, gs[j]? = some g → ∀ l < 32, ∃ n < 4, (s.core c).thread (32 * g + l) n = none ∧
      ((s.core c).startTeam s.now o gs).thread (32 * g + l) n =
        some { team := o.id, rank := 32 * j + l, pc := o.entry.w1, floor := o.floor }) ∧
  (∀ c op s team o, (s.core c).team? op = some team → (s.core c).op? op = some o → team.aborting = false →
    (s.core c).teamDone op = true → (s.core c).enginesRun = true →
    (team.scan.getD (team.scanTiles (s.pedlimit c)) = [] → exec (.pedigreeScan c op) s =
      .next (s.updCore c fun k => k.updTeam op fun t => { t with scan := some [] })) ∧
    ∀ x rest, team.scan.getD (team.scanTiles (s.pedlimit c)) = x :: rest →
      (scanPoison s c x = true → exec (.pedigreeScan c op) s =
        .next (s.updCore c fun k => k.updTeam op fun t => { t with
          scan := some [], aborting := true,
          fault := some { cause := .memoryError, addr := BitVec.ofNat 64 (Desc.of x).base } })) ∧
      (scanPoison s c x = false → ∃ t, exec (.pedigreeScan c op) s = .next t ∧
        t = s.updCore c (fun k => { k with
          port := k.port ++ scanFolds s c o.replay x, ops := (t.core c).ops,
          teams := (k.updTeam op fun t => { t with scan := some rest }).teams }))) ∧
  (∀ c op s o, (s.core c).op? op = some o →
    (∀ st scale, o.st = .executed st scale → o.parent = none → st.cause = .none →
      exec (.opCompletion c op) s = .next ((s.updCore c fun k =>
        { k.retireOp o scale with seq := (k.retireOp o scale).seq.orFlags st.flags }).acquire c .seq .core)) ∧
    (∀ st scale p, o.st = .executed st scale → o.parent = some p →
      (scale.isSome = true → (s.core c).locked false (o.block + 0x19) 4 true = false) →
      let drop (k : Core) : Core := { k with ops := k.ops.filter fun x => x.id != o.id }
      let folds (x : Op) : Op := { x with folded := x.folded ++ o.folded }
      (st.cause ≠ .none → st.cause ≠ .rescale → exec (.opCompletion c op) s = .next (s.updCore c fun k =>
        (((drop k).abortTeam p { st with nested := some o.rcd.word.idx }).updTeam p fun t =>
          { t with flags := t.flags ||| st.flags }).updOp p folds)) ∧
      (st.cause = .none ∨ st.cause = .rescale →
        let s1 := (scale.map fun d => s.kwrite c (o.block + 0x19) (leBytes 4 d.toNat)).getD s
        exec (.opCompletion c op) s = .next (((s1.updCore c drop).nestedArrive c p o.id
          (st.flags.zeroExtend 32 ||| if st.cause = .rescale then 0x40 else 0)).updCore c fun k =>
            (k.updTeam p fun t => { t with flags := t.flags ||| st.flags }).updOp p folds))) ∧
    (∀ team, o.st = .running → (s.core c).team? op = some team →
      (team.aborting = false → (s.core c).teamDone o.id = true → team.scan = some [] →
        exec (.opCompletion c op) s = .next ((s.updCore c fun k =>
          let k := { k with teams := k.teams.filter fun t => t.op != o.id }
          { k.retireOp o none with seq := (k.retireOp o none).seq.orFlags team.flags }).acquire c .seq .core)) ∧
      (team.aborting = true → (s.core c).teamStopped o.id = true →
        let k' := (s.core c).cancelNested o.id
        (k'.ops.any fun x => x.parent == some o.id) = false →
        exec (.opCompletion c op) s =
          .next (((s.setCore c k').settleTeam c o.id).updCore c fun k => k.finishAbort team)))) ∧
  (∀ (s : State) c op n w lane slot th, s.thread c lane slot = some th → lane < 128 → slot < 4 →
    let u := s.nestedArrive c op n w
    (∀ i, th.team = op → th.awaitsOp n = some i → u.thread c lane slot = some (th.arriveStatus i w) ∧
      ∃ m : BitVec 64, th.arriveStatus i w = { th.arrive i [w] with status := m } ∧
        ∀ p, th.pend[i]? = some p → (th.arrive i [w]).isFull p.dst.val = true → m.getLsbD p.dst.val = true) ∧
    (th.team ≠ op ∨ th.awaitsOp n = none → u.thread c lane slot = some th)) ∧
  (∀ (s : State) (t : TRef) (th : Thread) (regs : List Nat),
    ((∀ r ∈ regs, th.status.getLsbD r = false) → s.readStatus t th regs = s) ∧
    ((∃ r ∈ regs, th.status.getLsbD r = true) → s.readStatus t th regs = s.acquire t.c t.agent .core)) ∧
  (∀ (k : Core) (team : Team) (o : Op), k.op? team.op = some o →
    let u := k.finishAbort team
    u.team? team.op = none ∧ (∀ lane slot th, u.thread lane slot = some th → th.team ≠ team.op) ∧
    (∀ lane slot th, k.thread lane slot = some th → th.team ≠ team.op → u.thread lane slot = some th) ∧
    u.op? team.op = some { o with
      st := .executed { (team.fault.getD {}) with flags := team.flags ||| k.liveFlags team.op } none }) ∧
  (∀ c op s team x, (s.core c).team? op = some team → (s.core c).lowestRank op = some x →
    2 ^ team.entry.wdog ≤ team.counted s.now → (team.aborting = true → (s.core c).teamStopped op = false) →
    let u := s.settleThreads c op
    ((∀ y ∈ (s.core c).teamThreads op, (∀ p ∈ y.2.2.pend, ∀ l, p.res ≠ .load l) ∧
        (∀ p ∈ (s.core c).kstores, p.agent ≠ .thread y.1 y.2.1) ∧
        ∀ p ∈ (s.core c).lstores, p.agent ≠ .thread y.1 y.2.1) → u = s) ∧
    ∃ t st, exec (.watchdog c op) s = .next t ∧ t = u.setCore c (t.core c) ∧ st.cause = .watchdog ∧
      st.detail = BitVec.ofNat 64 (2 ^ team.entry.wdog) ∧ st.lane = some (s.laneWhere ⟨c, x.1, x.2.1⟩ x.2.2) ∧
      (t.core c).teams = ((u.core c).updTeam op fun y =>
        { y with fault := some (y.fault.getD st), aborting := true }).teams ∧
      (∀ lane slot th, lane < 128 → slot < 4 → u.thread c lane slot = some th → th.team = op →
        t.thread c lane slot = some { th with wait := .faulted, park := .none, pend := [] }) ∧
      ∀ lane slot th, lane < 128 → slot < 4 → u.thread c lane slot = some th → th.team ≠ op →
        t.thread c lane slot = some th) ∧
  (∀ (s : State) c team, (∀ d, (((s.core d).teams.map Team.op).Nodup)) →
    let u := s.overdue.foldl (fun s x => s.watchdog x.1 x.2) s
    team ∈ (u.core c).teams → (u.core c).teamThreads team.op ≠ [] → (u.core c).overdue u.now team = false) ∧
  ∀ c s f, (s.core c).nextFault = some f → (s.core c).seq.takesDelivery = true → (s.core c).health.clockStop = false →
    exec (.faultDelivery c) s = .next (deliver c f s)

/-- R274 to R277, R179 to R183, R41. `pedReady` are the requests with no earlier one of the same record and no close
of it in progress. Which ready request is performed is the model's choice (log entry 8); an AMAX that FP32 does not
hold, and an element of a record without a format, are open (log entry 18). -/
def Obligations.PedigreeRequestsAtHome : Prop :=
  (∀ c n s f, (s.core c).port[n]? = some f → exec (.foldPerformed c n) s =
    .next ((s.setDev { s.dev with partials := partialAdd s.dev.partials (portSlice c) f }).updCore c fun k =>
      { k with port := k.port.eraseIdx n })) ∧
  (∀ slice ctx i s, (∀ x, s.dev.closeOf ctx i = some x → slice ∉ x.drained) →
    exec (.partialForward slice ctx i) s = .next (s.forwardPartial slice ctx i)) ∧
  (∀ ctx i slice s x, s.dev.closeOf ctx i = some x → slice ∉ x.drained → slice < 64 →
    let u := s.forwardPartial slice ctx i
    exec (.closeDrain ctx i slice) s = .next (u.setDev { u.dev with
      closes := u.dev.closes.map fun x =>
        if x.ctx = ctx ∧ x.idx = i then { x with drained := x.drained ++ [slice] } else x })) ∧
  (∀ ctx i s x, s.dev.closeOf ctx i = some x → 64 ≤ x.drained.length →
    let u := s.updRcd ctx i (fun r => { r with
      gen := r.gen + 1, opn := {}, closed := if x.reset then {} else r.opn,
      replay := if x.reset then false else r.replay }) true
    exec (.closeCopy ctx i) s = .next (u.setDev { u.dev with
      closes := u.dev.closes.filter fun y => !(y.ctx == ctx && y.idx == i) })) ∧
  (∀ c s i r, s.sched.choices = [] → (s.pedReady c).head? = some i → (s.core c).ped[i]? = some r →
    let ctx := (s.core c).ctx
    let rcd := s.dev.rcd ctx r.index
    let gone (u : State) : Out := .next (u.updCore c fun k => { k with ped := k.ped.eraseIdx i })
    (∀ n, r = .close n → exec (.pedigreeRequestAtHome c) s = gone (s.setDev { s.dev with
      closes := s.dev.closes ++ [{ ctx := ctx, idx := n, reset := false, who := .core c, drained := [] }] })) ∧
    (∀ n, r = .reset n → exec (.pedigreeRequestAtHome c) s = gone (s.setDev { s.dev with
      closes := s.dev.closes ++ [{ ctx := ctx, idx := n, reset := true, who := .core c, drained := [] }] })) ∧
    (∀ n f d, r = .peek n f d →
      exec (.pedigreeRequestAtHome c) s = gone (s.updSeq c fun q => q.answer d (rcd.opn.field f))) ∧
    (∀ n f d, r = .read n f d →
      exec (.pedigreeRequestAtHome c) s = gone (s.updSeq c fun q => q.answer d (rcd.closed.field f))) ∧
    (∀ n f d, r = .readHdr n f d → exec (.pedigreeRequestAtHome c) s =
      gone (s.updSeq c fun q => q.answer d (rcd.hdrField (s.recordHome ctx n) f))) ∧
    ∀ n f v, r = .sett n f v →
      exec (.pedigreeRequestAtHome c) s = gone (s.updRcd ctx n (fun x => x.sett f v) false)) ∧
  (∀ (b : Bank) (fmt rf : BitVec 4) (eo : Byte) (bits : Nat),
    let one {w : Nat} (x : BitVec w) : BitVec w := if x = BitVec.allOnes w then x else x + 1
    let u : Bank := { b with count := one b.count }
    (∀ g, foldValue fmt bits = .nan g → b.fold fmt rf eo bits = { u with nans := one b.nans }) ∧
    (∀ n, foldValue fmt bits = .inf n → b.fold fmt rf eo bits = { u with infs := one b.infs }) ∧
    ∀ n m e, foldValue fmt bits = .fin n m e →
      (m = 0 → b.fold fmt rf eo bits = { u with zeros := one b.zeros }) ∧
      (m ≠ 0 → let x := (Nat.log2 m : Int) + e - eo.toInt
        let i := if x < 0 then 0 else if 31 < x then 31 else x.toNat
        let mx := ((Fmt.ofCode rf).map Fmt.qmax).getD 0
        ∃ a, b.fold fmt rf eo bits = { u with
            amax := if b.amax.toNat < a.toNat then a else b.amax,
            ovf := if mx ≠ 0 ∧ mx * 2 ^ (-e).toNat ≤ m * 2 ^ e.toNat then one b.ovf else b.ovf,
            hist := b.hist.setIfInBounds i (one (b.hist.toList.getD i 0)) } ∧
          ((fp32F.finish .rn false false m e false).flags &&& (fInexact ||| fOverflow) = 0 →
            a = BitVec.ofNat 32 (fp32F.finish .rn false false m e false).bits))) ∧
  (∀ (s : State) (f : Fold), let r := s.dev.rcd f.ctx f.idx
    (f.replay = false → s.foldHome f = s.setDev (s.dev.setRcd { r with
      opn := r.opn.fold (if f.fmt = 0 then r.fmt else f.fmt) r.fmt r.eo f.bits })) ∧
    (f.replay = true → ((s.foldHome f).dev.rcd f.ctx f.idx).replay = true)) ∧
  ∀ (s : State) slice ctx i, let mine (p : Partial) : Bool := p.slice == slice && p.ctx == ctx && p.idx == i
    s.forwardPartial slice ctx i = ((s.dev.partials.filter mine).flatMap Partial.elems).foldl State.foldHome
      (s.setDev { s.dev with partials := s.dev.partials.filter fun p => !mine p })

/-- R162, R164 to R172. The time and order of landings, and the frames of a PUSH, are the model's choices (log
entries 8, 30), as is a landing byte by byte (log entry 8); the DEVICE barrier of a PFT that does not translate is
log entry 57's, an add-back to a poisoned barrier log entry 76's. `yttOpen` and `yttSend` are
PortsAndFabricComplete's. -/
def Obligations.RetrieverPiecesLand : Prop :=
  (∀ c q s id rest m, (s.core c).moving = true → (s.core c).retq.toList.getD q.toNat [] = .cmd id :: rest →
    let u := s.updCore c fun k =>
      ({ k with retq := if h : q.toNat < 4 then k.retq.set q.toNat rest else k.retq }).updCmd id fun m =>
        { m with st := .running }
    (u.core c).cmd? id = some m →
    let f := u.yttOpen (.cmd c m.id) (yttEnd m.rdev m.rpart)
    let d := Desc.of m.dst
    (m.kind = .pull → exec (.retrieverCommandStart c q) s = .next (f.2.yttSend f.1 { yttFrame 2
        (yttEnd u.ytt.devid.toNat ((u.core c).ctx.extractLsb' 28 4).toNat) (yttEnd m.rdev m.rpart) m.addr 0 [] with
      fl := 1, rows := BitVec.ofNat 16 d.rows, rlen := BitVec.ofNat 16 d.rbytes, pitch := BitVec.ofNat 32 m.pitch })) ∧
    (m.kind = .push → exec (.retrieverCommandStart c q) s = .next f.2) ∧
    (m.kind ≠ .pull → m.kind ≠ .push → exec (.retrieverCommandStart c q) s = .next u)) ∧
  (∀ c q s ctx g rest, (s.core c).moving = true → (s.core c).retq.toList.getD q.toNat [] = .marker ctx g :: rest →
    ((s.core c).cmds.any fun m => m.q == q && m.st == .running) = false →
    exec (.retrieverCommandStart c q) s = .next (s.updCore c fun k =>
      { k with retq := if h : q.toNat < 4 then k.retq.set q.toNat rest else k.retq })) ∧
  (∀ c id i s m n v, s.choice = (n, v) → (s.core c).cmd? id = some m → m.st = .running → (s.core c).moving = true →
    i ∈ m.pieces → m.hasLanded i = false →
    let rows : Prop := m.kind ∈ ([.cpyIn, .cpyOut, .cpyKk, .gth, .sct] : List CmdKind)
    let row : Prop := rows ∧ v.rowBlocked c m i = false
    let src := (m.sides i).1
    let dst := (m.sides i).2
    let from_ := sideXlate c m .read src v
    let to_ := sideXlate c m .write dst v
    (rows → v.rowBlocked c m i = true → exec (.retrieverLanding c id i) s = .next v) ∧
    (∀ sp dp pl, row → from_ = .ok sp → to_ = .ok dp → cmdBarrier c m v = .at pl →
      (m.whole i n = true →
        (∀ bs u, readSide c m src sp v = some (bs, u) → exec (.retrieverLanding c id i) s =
          .next (subtractLanding c m pl [i] bs.length (writeSide c m dst dp bs u))) ∧
        (readSide c m src sp v = none → exec (.retrieverLanding c id i) s =
          .next (failCmd c m .memoryError src.addr v))) ∧
      (m.whole i n = false → exec (.retrieverLanding c id i) s =
        .next (landPartly c c m i n src dst sp dp (subtractLanding c m pl [i] src.len) v))) ∧
    (row → (∀ t, from_ = .wait t → exec (.retrieverLanding c id i) s = .next t) ∧
      (∀ x a, from_ = .fail x a → exec (.retrieverLanding c id i) s = .next (failCmd c m x a v)) ∧
      ∀ sp, from_ = .ok sp → (∀ t, to_ = .wait t → exec (.retrieverLanding c id i) s = .next t) ∧
        (∀ x a, to_ = .fail x a → exec (.retrieverLanding c id i) s = .next (failCmd c m x a v)) ∧
        ∀ dp, to_ = .ok dp → (∀ t, cmdBarrier c m v = .wait t → exec (.retrieverLanding c id i) s = .next t) ∧
          ∀ x a, cmdBarrier c m v = .fail x a → exec (.retrieverLanding c id i) s = .next (failCmd c m x a v)) ∧
    (∀ r fl, m.kind = .push →
      let d := Desc.of m.src
      let per := 8192 / d.rbytes
      let rows := (List.range r).map fun j => d.base + (per * m.frames + j) * d.pitch
      let size := r * d.rbytes
      let fetch (x : Nat) (u : State) : Byte × State := (((u.core c).kread
        (d.base + (per * m.frames + x / d.rbytes) * d.pitch + x % d.rbytes) 1).headD 0, u)
      let part := landSome c m (256 + m.frames) size n fetch (fun _ _ u => u) v
      let send (bs : List Byte) (u : State) : State := (u.yttSend fl { yttFrame 1
          (yttEnd u.ytt.devid.toNat ((v.core c).ctx.extractLsb' 28 4).toNat) (yttEnd m.rdev m.rpart)
          (BitVec.ofNat 64 (m.addr.toNat + per * m.frames * m.pitch)) 0 bs with
        fl := if per * m.frames + r = d.rows then 1 else 0, rows := BitVec.ofNat 16 r,
        rlen := BitVec.ofNat 16 d.rbytes, pitch := BitVec.ofNat 32 m.pitch }).updCore c fun k =>
          k.updCmd m.id fun m => { m with frames := m.frames + 1 }
      per * m.frames < d.rows → r = Nat.min per (d.rows - per * m.frames) →
      (v.ytt.flows.find? fun f => f.job == some (.cmd c m.id)) = some fl →
      ((∃ a ∈ rows, (s.core c).kpoisoned a d.rbytes = true) → m.whole (256 + m.frames) n = true →
        exec (.retrieverLanding c id i) s = .next (failCmd c m .memoryError (BitVec.ofNat 64 d.base) v)) ∧
      ((∀ a ∈ rows, (s.core c).kpoisoned a d.rbytes = false) →
        (m.whole (256 + m.frames) n = true → exec (.retrieverLanding c id i) s =
          .next (send (rows.flatMap fun a => (s.core c).kread a d.rbytes) v)) ∧
        (m.whole (256 + m.frames) n = false →
          (part.1 = none → exec (.retrieverLanding c id i) s = .next part.2) ∧
          ∀ bs, part.1 = some bs → exec (.retrieverLanding c id i) s = .next (send bs part.2)))) ∧
    (m.kind = .pull → let row := (Desc.of m.dst).row i
      ((m.part.any fun p => p.piece == i) = false → exec (.retrieverLanding c id i) s = .next v) ∧
      ∀ pl, (m.part.any fun p => p.piece == i) = true → cmdBarrier c m v = .at pl →
        exec (.retrieverLanding c id i) s =
          .next (landPartly c c m i n row row [] [] (subtractLanding c m pl [i] row.len) v)) ∧
    (∀ u, m.kind = .pft → let size := Nat.min 512 (m.count - 512 * i)
      let page := pftXlate c m .read (m.addr.toNat + 512 * i) size v
      let drop (need : Need) (f : WalkFail) (x : State) : State :=
        (x.refusedAt (x.core c).ctx 2 c.val need f).updCore c fun k => { k with drops := k.drops + 1 }
      ((∃ ps, page = .ok ps ∧ u = v) ∨ ∃ f, page = .error f ∧ u = drop .read f v) →
      let bar := pftXlate c m .atomic m.bar.toNat 16 u
      (m.dev = false → exec (.retrieverLanding c id i) s =
        .next (subtractLanding c m (.kennel c m.bar.toNat) [i] size u)) ∧
      (∀ p ps, m.dev = true → bar = .ok (p :: ps) → exec (.retrieverLanding c id i) s =
        .next (subtractLanding c m (.device p.1) [i] size u)) ∧
      ∀ f, m.dev = true → bar = .error f → exec (.retrieverLanding c id i) s =
        .next (settleCmd c m.id [i] 0 false (drop .atomic f u))) ∧
    (m.kind = .mcast →
      let d := Desc.of m.src
      let a := d.base + i / 4 * d.pitch
      let peer := clusterCore c (i % 4)
      let runs : Bool := (s.core peer).seq.mode != .idle && (s.core peer).ctx == (s.core c).ctx
      (runs = false → exec (.retrieverLanding c id i) s = .next (settleCmd c m.id [256 + i] 0 true v)) ∧
      (runs = true → m.whole i n = true → (s.core c).kpoisoned a d.rbytes = true →
        exec (.retrieverLanding c id i) s = .next (failCmd c m .memoryError (BitVec.ofNat 64 a) v)) ∧
      (runs = true → m.whole i n = true → (s.core c).kpoisoned a d.rbytes = false →
        let u := v.kwrite peer a ((s.core c).kread a d.rbytes)
        let bar := u.barUpdate c.val (s.core c).ctx m.replay (.kennel peer m.bar.toNat) 0 (-(d.rbytes : Int))
        let bad := (u.core peer).kpoisoned m.bar.toNat 16
        (bad = true → exec (.retrieverLanding c id i) s = .next (failCmd c m .memoryError m.bar u)) ∧
        (∀ r, bad = false → bar = some r →
          exec (.retrieverLanding c id i) s = .next (settleCmd c m.id [i] d.rbytes false r.2)) ∧
        (bad = false → bar = none → exec (.retrieverLanding c id i) s = .next (failCmd c m .badBarrier m.bar u))) ∧
      (runs = true → m.whole i n = false → exec (.retrieverLanding c id i) s = .next (landPartly c peer m i n
        (.kennel a d.rbytes) (.kennel a d.rbytes) [] [] (landedMcast c peer m i) v)))) ∧
  (∀ c (m : Cmd) i n a b len landed s, let p := m.landingOf i len
    memoriesWf s = true → p.got.length = len → (∀ j ∈ p.left, j < len) →
    let k := s.core c
    let t := landPartly c c m i n (.kennel a len) (.kennel b len) [] [] landed s
    let open_ := p.got.any Option.isNone
    let reading : Bool := n != 0 && n % 2 == 0 && open_
    let taken (j : Nat) : Bool := n == 0 || (n / 2).testBit j
    (open_ = true → k.kpoisoned a len = true → t = failCmd c m .memoryError (BitVec.ofNat 64 a) s) ∧
    (¬ (open_ = true ∧ k.kpoisoned a len = true) →
      (reading = true → p.left ≠ [] → ∀ x, (t.core c).kread x 1 = k.kread x 1) ∧
      (reading = false → (∃ j ∈ p.left, taken j = false) → ∀ x,
        (∀ j ∈ p.left, taken j = true → x = b + j →
          (t.core c).kread x 1 = [(p.got.getD j none).getD ((k.kread (a + j) 1).headD 0)]) ∧
        ((∀ j ∈ p.left, taken j = true → x ≠ b + j) → (t.core c).kread x 1 = k.kread x 1)))) ∧
  (∀ c m pl ps (size : Nat) s, let bar := s.barUpdate c.val (s.core c).ctx m.replay pl 0 (-(size : Int))
    (s.barPoisoned pl = true → subtractLanding c m pl ps size s = failCmd c m .memoryError m.bar s) ∧
    (∀ r, s.barPoisoned pl = false → bar = some r → subtractLanding c m pl ps size s = settleCmd c m.id ps size false r.2) ∧
    (s.barPoisoned pl = false → bar = none → subtractLanding c m pl ps size s = failCmd c m .badBarrier m.bar s)) ∧
  (∀ c id ps size bad s m, (s.core c).cmd? id = some m →
    let m' : Cmd := { m with
      landed := m.landed ++ ps, sub := m.sub + size, peerBad := m.peerBad || bad, park := .none }
    let u := s.updCore c fun k => k.updCmd id fun m =>
      { m with landed := m.landed ++ ps, sub := m.sub + size, peerBad := m.peerBad || bad, park := .none }
    let t := settleCmd c id ps size bad s
    ((∃ i ∈ m'.pieces, m'.hasLanded i = false) → t = u) ∧
    ((∀ i ∈ m'.pieces, m'.hasLanded i = true) → m'.peerBad = true → t = failCmd c m' .mcastPeer 0 u) ∧
    ((∀ i ∈ m'.pieces, m'.hasLanded i = true) → m'.peerBad = false → (t.core c).cmd? id = none ∧
      (t.core c).locks = (s.core c).locks.filter (fun l => l.cmd != id) ∧ t.dev = s.dev ∧
      ∀ f ∈ t.ytt.flows, f.job ≠ some (.cmd c id))) ∧
  ∀ c (m : Cmd) cause addr s, m.kind ≠ .mcast → m.dev = false → m.park = .none → m.sub ≠ 0 →
    let bar := s.barUpdate c.val (s.core c).ctx m.replay (.kennel c m.bar.toNat) 0 m.sub
    let lost : Bool := (s.core c).kpoisoned m.bar.toNat 16 || bar.isNone
    let failed (st : OpStatus) (u : State) : State := (u.updCore c fun k =>
      ({ k with locks := k.locks.filter fun l => l.cmd != m.id }).updCmd m.id fun x =>
        { x with st := .failed st, park := .none }).dropFlow c m.id
    (∀ r, lost = false → bar = some r → failCmd c m cause addr s = failed { cause := cause, addr := addr } r.2) ∧
    (lost = true → failCmd c m cause addr s =
      failed { cause := .badBarrier, addr := m.bar, detail := cause.code.zeroExtend 64 } s)

/-- R288 to R291, R271, R294, R285, R319, R28. `invalidated` waits for every load and store of the partition (log
entry 43); what a full TLB drops, and that a full fault buffer lets the access try again, are the model's (log
entries 8, 27, 13); the WAKEREASON of causes that do not last is recorded in their own steps (log entry 56); the
words and bytes that one error strikes are log entry 77's. -/
def Obligations.TranslationAndMemoryEvents : Prop :=
  (∀ c va s w, ((s.core c).walks.filter fun w => w.va == va) = [w] →
    (∀ e, s.walkEnd c w = .ok e → exec (.pageWalkComplete c va) s = .next ((s.tlbFill c e).updCore c fun k =>
      Core.setPark { k with walks := k.walks.filter fun x => x.who != w.who } w.who
        (if w.replay then .retry else .none))) ∧
    ∀ f, s.walkEnd c w = .error f →
      let key : FbKey := { ctx := (s.core c).ctx, page := w.va.toNat / 65536, cause := f.cause, access := w.need }
      let ended (k : Core) : Core := { k with walks := k.walks.filter fun x => x.who != w.who }
      let parked (k : Core) : Core := (ended k).setPark w.who (.waiting key w.va)
      let known := (s.core c).fb.any fun e => e.key == key
      ((s.core c).abortedWalker w.who = true → exec (.pageWalkComplete c va) s =
        .next ((walkViolation c w f s).updCore c fun k => (ended k).stopWalker w.who)) ∧
      ((s.core c).abortedWalker w.who = false →
        (known = true → exec (.pageWalkComplete c va) s =
          .next ((walkViolation c w f s).updCore c fun k => parked { k with
            fb := k.fb.map fun e => if e.key = key then { e with count := Nat.min (e.count + 1) 0xFFFF } else e })) ∧
        (known = false → 64 ≤ (s.core c).fb.length → exec (.pageWalkComplete c va) s =
          .next (s.updCore c fun k => (ended k).setPark w.who (if w.replay then .retry else .none))) ∧
        (known = false → (s.core c).fb.length < 64 →
          let e : FbEntry :=
            { key := key, va := w.va, level := f.level, agent := (w.who.agentWho (s.core c)).1,
              who := (w.who.agentWho (s.core c)).2, count := 1 }
          let u := ((walkViolation c w f s).updCore c fun k => parked { k with fb := k.fb ++ [e] }).toMgmt
            (.faultBuffer (e.toBytes c))
          exec (.pageWalkComplete c va) s =
            .next (u.hostEvent (s.core c).ctx (u.mkEvent 5 (BitVec.allOnes 32) 0 (e.toBytes c)))))) ∧
  (∀ (e : FbEntry) (c : CoreNo), let f (a n : Nat) : Nat := ofBytes (((e.toBytes c).drop a).take n)
    (e.toBytes c).length = 32 ∧ f 0 8 = e.va.toNat ∧ f 8 2 = 0 ∧ f 0x0A 1 = e.key.cause.toNat ∧ f 0x0B 1 = e.level % 256 ∧
    f 0x0C 1 = e.key.access.toNat ∧ f 0x0D 1 = e.agent.toNat ∧ f 0x0E 2 = e.who.toNat ∧ f 0x10 2 = e.count % 65536 ∧
    f 0x12 2 = 0 ∧ f 0x14 4 = e.key.ctx.toNat ∧ f 0x18 1 = c.val ∧ f 0x19 7 = 0) ∧
  (∀ (k : Core), (Walker.agentWho k .seq = (0, 0)) ∧ (∀ l n, Walker.agentWho k (.fetch l n) = (2, 0)) ∧
    (∀ l n, l < 128 → n < 4 → Walker.agentWho k (.thread l n) = (1, BitVec.ofNat 16 (l + 128 * n))) ∧
    ∀ id m, k.cmd? id = some m → Walker.agentWho k (.cmd id) = (3, m.q.zeroExtend 16)) ∧
  (∀ (s : State) c e, let u := s.tlbFill c e
    (e ∈ (u.core c).tlb ∨ e ∈ (u.core c).oldTlb) ∧ (∀ x ∈ (u.core c).tlb, x = e ∨ x ∈ (s.core c).tlb) ∧
    ((s.core c).tlb.length ≤ 64 → (u.core c).tlb.length ≤ 64) ∧
    ((s.core c).tlb.length < 64 → ∀ x ∈ (s.core c).tlb, x ∈ (u.core c).tlb) ∧
    (∀ x ∈ u.l2 c, x = e ∨ x ∈ s.l2 c) ∧ ((s.l2 c).length ≤ 2048 → (u.l2 c).length ≤ 2048) ∧ u.dev = s.dev) ∧
  (∀ ctx g s, (s.ctx? ctx).isSome = true → exec (.translationInvalidation ctx g) s =
    .next { (s.updCtx ctx fun x => { x with inval := true }) with
      cores := Vector.ofFn fun c => { s.core c with
        tlb := (s.core c).tlb.filter fun e => !e.dropped ctx g,
        oldTlb := (s.core c).oldTlb ++ ((s.core c).tlb.filter fun e => e.dropped ctx g) ++
          (s.l2 c).filter fun e => e.dropped ctx g,
        retq := (s.core c).retq.map fun q => q ++ [.marker ctx g] },
      l2tlb := s.l2tlb.map fun t => t.filter fun e => !e.dropped ctx g }) ∧
  (∀ (s : State) ctx, s.invalidated ctx = true ↔
    ∀ c, (∀ q ∈ (s.core c).retq.toList, ∀ g, .marker ctx g ∉ q) ∧
      (∀ p ∈ (s.core c).stores ++ (s.core c).lstores, p.ctx.extractLsb' 28 4 ≠ ctx.extractLsb' 28 4) ∧
      ((s.core c).ctx.extractLsb' 28 4 = ctx.extractLsb' 28 4 → ∀ l ∈ (s.core c).lateLoads, l.dev = false)) ∧
  (∀ n s x, s.ctx? n = some x → x.inval = true → s.invalidated n = true →
    exec (.invalidationDone n) s =
      .next (settleParts ((s.flushHeld fun h => ctxPart h.ctx == ctxPart n).endInvalidation n))) ∧
  (∀ g s, Memory.wf s.dev.hbm = true → ∃ t, exec (.scrubGranule g) s = .next t ∧ t.dev.scrub.marked g = false ∧
    (∀ a, t.dev.byte a = s.dev.byte a) ∧
    (s.dev.scrub.marked g = true →
      (∀ u ∈ t.dev.poison, u / 2048 ≠ g) ∧ ∀ u ∈ t.dev.l2Poison, u / 8192 ≠ g) ∧
    t = s.setDev { s.dev with
      hbm := t.dev.hbm, scrub := t.dev.scrub, poison := t.dev.poison, l2Poison := t.dev.l2Poison }) ∧
  (∀ pl syn s, exec (.eccError pl false syn) s =
    .next (s.setDev { s.dev with corrected := s.dev.corrected + 1 })) ∧
  (∀ pa syn s, exec (.eccError (.hbm pa) true syn) s =
    .next ((s.setDev { s.dev with
      uncorrected := s.dev.uncorrected + 1, poison := setInsert (pa / 32) s.dev.poison }).machineCheck 2 none 255
        (sliceOf pa) syn (BitVec.ofNat 64 pa))) ∧
  (∀ c a syn s, exec (.eccError (.kennel c a) true syn) s =
    .next (((s.setDev { s.dev with uncorrected := s.dev.uncorrected + 1 }).updCore c fun k => { k with
      mem := { k.mem with poison := setInsert (a / 8) k.mem.poison } }).machineCheck 2 ((s.core c).task.map Task.ctx)
        c.val 255 syn 0)) ∧
  (∀ c a syn s, let u := s.setDev { s.dev with uncorrected := s.dev.uncorrected + 1 }
    let check (x : State) : Out := .next (x.machineCheck 2 ((s.core c).task.map Task.ctx) c.val 255 syn 0)
    (exec (.eccError (.acc c a) true syn) s = check (u.updCore c fun k => { k with
      mem := { k.mem with accPoison := setInsert (a / 8) k.mem.accPoison } })) ∧
    (∀ lane, exec (.eccError (.priv c lane a) true syn) s = check (u.updCore c fun k => { k with
      mem := { k.mem with privPoison := setInsert ((2048 * lane + a) / 8) k.mem.privPoison } })) ∧
    (exec (.eccError (.work c a) true syn) s = check (u.updCore c fun k => { k with
      mem := { k.mem with workPoison := setInsert (a / 8) k.mem.workPoison } })) ∧
    (∀ lane slot r, exec (.eccError (.pool c lane slot r) true syn) s = check (u.updThread c lane slot fun th =>
      { th with poison := th.poison ||| 1#32 <<< (r.toNat / 2) })) ∧
    (∀ pc, exec (.eccError (.laneCode c pc) true syn) s = check (u.updCore c fun k => { k with
      mem := { k.mem with lanePoison := setInsert (pc.toNat / 8) k.mem.lanePoison } })) ∧
    (∀ v, (s.core c).mem.overlays.getLast? = some v → exec (.eccError (.tileCode c a) true syn) s =
      check (u.updCore c fun k => { k with
        mem := { k.mem with codePoison := (v.ident, a / 8) :: k.mem.codePoison } })) ∧
    exec (.eccError (.l1 c a) true syn) s = .next ((u.updCore c fun k => { k with
        mem := { k.mem with l1Poison := setInsert (a / 8) k.mem.l1Poison } }).machineCheck 2
      ((s.core c).task.map Task.ctx) c.val 255 syn (BitVec.ofNat 64 a)) ∧
    exec (.eccError (.l2 a) true syn) s = .next ((s.setDev { s.dev with
        uncorrected := s.dev.uncorrected + 1, l2Poison := setInsert (a / 8) s.dev.l2Poison }).machineCheck 2 none 255
      (sliceOf a) syn (BitVec.ofNat 64 a))) ∧
  (∀ (th : Thread) (r : RegNo), (th.poison ||| 1#32 <<< (r.toNat / 2)).getLsbD (r.toNat / 2) = true ∧
    ∀ n, n ≠ r.toNat / 2 → (th.poison ||| 1#32 <<< (r.toNat / 2)).getLsbD n = th.poison.getLsbD n) ∧
  (∀ c s, ((s.core c).task = none ∧ (s.core c).placing = none ∧ (s.core c).enginesEmpty = true) ∨
      ((s.core c).task.isSome = true ∧ (s.core c).placing = none ∧ s.seqWaits c = true ∧ s.standDue c = false ∧
        (s.core c).asleep = true) →
    exec (.clockGate c) s = .next (s.updCore c fun k => { k with health := { k.health with gated := true } })) ∧
  (∀ c n (s : State), s.wakeCause c n = true ↔ (n = 1 ∧ (s.core c).task.isSome = true ∧ (s.core c).placing = none ∧
      (s.core c).seq.mode = .run ∧ (s.seqWaits c = false ∨ ∃ x ∈ (s.core c).threads, s.threadReleased c x.2.2 = true)) ∨
    (n = 3 ∧ (s.core c).placing.isSome = true)) ∧
  ∀ c n m (s : State), s.wakeCause c n = true → m ≤ n → s.wakeCause c m = true →
    (∀ l < m, s.wakeCause c l = false) → let k := s.core c
    (k.health.gated = true → exec (.coreWake c n) s = .next (s.updCore c fun k => { k with
      health := { k.health with gated := false, woke := k.placing.isSome || m == 3, wokeAt := some s.now },
      seq := { k.seq with wake := BitVec.ofNat 8 m } })) ∧
    (k.health.gated = false → k.health.wokeAt = some s.now → m < k.seq.wake.toNat →
      exec (.coreWake c n) s = .next (s.updCore c fun k => { k with
        health := { k.health with woke := k.health.woke || m == 3 }, seq := { k.seq with wake := BitVec.ofNat 8 m } })) ∧
    (k.health.gated = false → k.health.wokeAt ≠ some s.now ∨ k.seq.wake.toNat ≤ m → exec (.coreWake c n) s = .next s)

/-- R258 with the zero fill of R294, R257 and R259. The conditions on superseded values and on the order of stores
rule out states that no run reaches. The choice of the latest value is the model's (log entries 8, 12, 35), and that
a core's stores to one byte arrive in order log entry 43's. -/
def Obligations.StoresReachMemoryAndReadBack : Prop :=
  (∀ (c : CoreNo) (n : Nat) (s : State) (p : PStore), Memory.wf s.dev.hbm = true → (s.core c).stores[n]? = some p →
     (((s.core c).stores.take n).any fun x => x.overlaps p.pa p.bytes.length) = false →
     (∀ h ∈ s.dev.held, h.overlaps p.pa p.bytes.length = false) →
     ∃ t, exec (.storePerformed c n) s = .next t ∧
       (∀ i, i < p.bytes.length → t.dev.byte (p.pa + i) = p.bytes.getD i 0) ∧
       (∀ a, a < p.pa ∨ p.pa + p.bytes.length ≤ a → t.dev.byte a = s.dev.byte a) ∧ Memory.wf t.dev.hbm = true ∧
       (∀ d, d ≠ c → t.core d = s.core d) ∧ (t.core c).mem = (s.core c).mem) ∧
  (∀ (c : CoreNo) (n : Nat) (s : State) (p : KStore), (s.core c).kstores[n]? = some p →
    (((s.core c).kstores.take n).any fun x => x.agent == p.agent && x.overlaps p.addr p.bytes.length) = false →
    exec (.storePerformed c ((s.core c).stores.length + n)) s =
      .next (s.updCore c fun k => ({ k with kstores := k.kstores.eraseIdx n }).kwrite p.addr p.bytes)) ∧
  (∀ (c : CoreNo) (n : Nat) (s : State) (p : PStore), (s.core c).lstores[n]? = some p →
    (((s.core c).lstores.take n).any fun x => x.agent == p.agent && x.overlaps p.pa p.bytes.length) = false →
    exec (.storePerformed c ((s.core c).stores.length + (s.core c).kstores.length + n)) s =
      .next (s.updCore c fun k => { k with
        lstores := k.lstores.eraseIdx n, stores := k.stores ++ [{ p with id := k.nextStore }],
        nextStore := k.nextStore + 1,
        mem := { k.mem with l1Poison := poisonClear 8 k.mem.l1Poison p.pa p.bytes.length } })) ∧
  (∀ (s : State) c a pa n, s.sched.choices = [] → (∀ o ∈ s.dev.old, o.till ≤ s.dev.stamp) →
    (s.core c).stores.Pairwise (fun p q => p.id < q.id) → (∀ h ∈ s.dev.held, h.overlaps pa n = false) →
    (s.devRead c a pa n).1 = (List.range n).map fun i =>
      match ((s.core c).lstores.filter fun p => p.agent == a && p.covers (pa + i)).getLast?,
        ((s.core c).stores.filter fun p => p.covers (pa + i)).getLast? with
      | some p, _ | none, some p => p.bytes.getD (pa + i - p.pa) 0
      | none, none => s.dev.byte (pa + i)) ∧
  (∀ (s : State) c a pa n, (∀ o ∈ s.dev.old, o.till ≤ s.dev.stamp) →
    (s.core c).stores.Pairwise (fun p q => p.id < q.id) → (∀ h ∈ s.dev.held, h.overlaps pa n = false) →
    ∃ rs : List ReadAt, rs.length = n ∧ (s.devRead c a pa n).1 = s.takeBytes c pa rs ∧
      (∀ i r, rs[i]? = some r → r ∈ s.places c (some a) ((s.core c).floorOf a) (pa + i)) ∧
      (∀ o ∈ s.dev.old, ∀ p ∈ s.dev.old, o.whole pa n = true → p.whole pa n = true → o.grp = p.grp →
        ∀ x y, rs[o.pa - pa]? = some x → rs[p.pa - pa]? = some y → x.seesOld o = y.seesOld p) ∧
      ∀ p ∈ (s.core c).stores, ∀ (i j : Nat) x y, p.covers (pa + i) = true → p.covers (pa + j) = true →
        rs[i]? = some x → rs[j]? = some y → x.seesStore p = y.seesStore p) ∧
  (∀ (s : State) c a fl pa (r : ReadAt), r ∈ s.places c a fl pa → (s.core c).ownAt a pa = none →
    (∀ p ∈ (s.core c).stores, p.covers pa = true → some p.agent = a ∨ p.id ≤ fl.idOf pa → p.id ≠ 0 →
      ∃ id, r = .pend id ∧ p.id ≤ id) ∧
    ∀ t, r = .mem t → t = s.dev.stamp ∨ ∃ o ∈ s.dev.old, o.pa = pa ∧ t < o.till ∧ fl.stampOf pa < o.till) ∧
  (∀ (d : DevMem) src kind pa bs, (∀ o ∈ d.old, o.till ≤ d.stamp) →
    ∀ o ∈ (d.put src kind pa bs).old, o.till ≤ (d.put src kind pa bs).stamp) ∧
  ∀ o ∈ State.reset.dev.old, o.till ≤ State.reset.dev.stamp

/-- R296 to R306 and R315. `launchRecOf` reads the fields of R298; `doneWith` moves the head and leaves EMPTY or
DISABLED; `eff` are the fields of R297 as the last choice latched them. When a step is made is the model's order
(log entry 7); the fields at EN are log entry 62's, NODEID 0 of a malformed record log entry 63's. Poisoned data is
read as it stands (log entry 74). -/
def Obligations.QueueStepsComplete : Prop :=
  (∀ q s, (s.queue q).st = .empty → (s.queue q).head ≠ (s.queue q).tail →
    let x := s.queue q
    let a := x.base.toNat + 128 * (x.head.toNat % x.size.toNat)
    let limit := ((s.ctx? x.ctx).map fun y => y.cpedlimit.toNat).getD 0
    (∀ f, s.readVa x.ctx a 128 = .error f →
      exec (.nodeRecordRead q) s = .next ((s.shepRefused x.ctx .read f).queueFail q 3 0)) ∧
    ∀ bs, s.readVa x.ctx a 128 = .ok bs →
      let r : LaunchRec := { launchRecOf bs with queue := q, ctx := x.ctx }
      let node (b : NodeBody) : Node :=
        { rcd := r, body := b, next := 0, again := [], done := 0, closing := none, skip := none }
      (nodeBody bs limit = none → exec (.nodeRecordRead q) s = .next (s.queueFail q 1 0)) ∧
      ∀ b, nodeBody bs limit = some b →
        (wordOf bs 3 1 = 1 → s.imageOk x.ctx r = false →
          exec (.nodeRecordRead q) s = .next (s.queueFail q 2 r.nodeid)) ∧
        (∀ auto closes, b = .loop auto closes → s.imageOk x.ctx r = true →
          exec (.nodeRecordRead q) s = .next (s.updQueue q fun y => { y with
            node := some (node b), starved := false,
            absdl := if y.eff.period = 0 then deadlineFrom s.ticks y.eff.reldl else y.absdl,
            st := if s.tooWide y r then .insufficient else .ready })) ∧
        (∀ ad v cc w t f, b = .cond ad v cc w t f → wordOf bs 3 1 ≠ 1 → exec (.nodeRecordRead q) s =
          .next (s.updQueue q fun y => { y with node := some (node b), st := .waiting })) ∧
        (∀ ad ph, b = .join ad ph → wordOf bs 3 1 ≠ 1 → exec (.nodeRecordRead q) s =
          .next (s.updQueue q fun y => { y with node := some (node b), st := .waiting })) ∧
        ∀ body, b = .hostevent body → wordOf bs 3 1 ≠ 1 → exec (.nodeRecordRead q) s =
          .next ((s.hostEvent x.ctx (s.mkEvent 1 (BitVec.ofNat 32 q.val) r.nodeid body)).updQueue q fun y =>
            y.doneWith 1)) ∧
  (∀ q s n ad v cc w t f p, (s.queue q).st = .waiting → (s.queue q).node = some n → n.body = .cond ad v cc w t f →
    n.skip = none → s.xlate (s.queue q).ctx ad .read = .ok p →
    let skip := if condCode cc (2 ^ w) (s.dev.word p.pa (2 ^ w)) v.toNat then t else f
    (skip ≤ (s.queue q).records → exec (.condEvaluation q) s = .next (s.updQueue q fun y => y.doneWith skip)) ∧
    ((s.queue q).records < skip → exec (.condEvaluation q) s = .next (s.updQueue q fun y =>
      { y with node := y.node.map fun z => { z with skip := some skip } }))) ∧
  (∀ q s n ad v cc w t f, (s.queue q).st = .waiting → (s.queue q).node = some n → n.body = .cond ad v cc w t f →
    (∀ skip, n.skip = some skip → skip ≤ (s.queue q).records →
      exec (.condEvaluation q) s = .next (s.updQueue q fun y => y.doneWith skip)) ∧
    ∀ e, n.skip = none → s.xlate (s.queue q).ctx ad .read = .error e → exec (.condEvaluation q) s =
      .next ((s.shepRefused (s.queue q).ctx .read e).queueFail q 4 n.rcd.nodeid)) ∧
  (∀ q s n ad ph, (s.queue q).st = .waiting → (s.queue q).node = some n → n.body = .join ad ph →
    (∀ e, s.xlate (s.queue q).ctx ad .atomic = .error e → exec (.joinNodeRelease q) s =
      .next ((s.shepRefused (s.queue q).ctx .atomic e).queueFail q 5 n.rcd.nodeid)) ∧
    ∀ p, s.xlate (s.queue q).ctx ad .atomic = .ok p → ad.toNat % 16 ≠ 0 ∨ (s.bar (.device p)).ok = false →
      exec (.joinNodeRelease q) s = .next (s.queueFail q 5 n.rcd.nodeid)) ∧
  (∀ q s n ad ph p, (s.queue q).st = .waiting → (s.queue q).node = some n → n.body = .join ad ph →
    s.xlate (s.queue q).ctx ad .atomic = .ok p → ad.toNat % 16 = 0 → (s.bar (.device p)).ok = true →
    phasePassed (s.bar (.device p)).phase ph = true →
    exec (.joinNodeRelease q) s = .next (s.updQueue q fun y => y.doneWith 1)) ∧
  (∀ q s, (s.queue q).st ≠ .disabled → (s.queue q).eff.period ≠ 0 → (s.queue q).repl.toNat ≤ s.ticks →
    exec (.replenishment q) s = .next ((s.charge q).updQueue q fun y => { y with
      remain := y.eff.budget, absdl := deadlineFrom y.repl.toNat y.eff.reldl, demoted := false, charged := y.repl.toNat,
      repl := y.repl + y.eff.period.zeroExtend 64 })) ∧
  (∀ (n : Nat) (d : W32), deadlineFrom n d = if d = 0 then BitVec.allOnes 64 else BitVec.ofNat 64 (n + d.toNat)) ∧
  (∀ (y : Queue) (n t : Nat), y.eff.period ≠ 0 → y.charged ≤ t → t ≤ y.repl.toNat →
    y.charge n t = { y with remain := BitVec.ofNat 32 (y.remain.toNat - n * (t - y.charged)), charged := t }) ∧
  (∀ q s, let u := s.charge q
    (u.queue q).st ≠ .disabled → (u.queue q).eff.period ≠ 0 → (u.queue q).demoted = false → (u.queue q).remain = 0 →
    s.ticks < (u.queue q).repl.toNat →
    exec (.overrun q) s = .next (((u.updQueue q fun y => { y with demoted := true }).toMgmt (.overrun q)).hostEvent
      (u.queue q).ctx (u.mkEvent 3 (BitVec.ofNat 32 q.val) 0 []))) ∧
  (∀ q v s, (s.queue q).en = false → s.enableOk (s.queue q) (v ||| 1) = true →
    exec (.queueEnable q v) s = .next (s.updQueue q fun y => y.enable (v ||| 1) s.ticks)) ∧
  (∀ (y : Queue) (v : W32) (t : Nat), let u := y.enable v t
    let cls := if v.extractLsb' 26 2 = 3 then y.cls else v.extractLsb' 26 2
    u.en = true ∧ u.part = v.extractLsb' 28 4 ∧ u.cls = cls ∧
    u.eff = { cls := cls, period := y.period, budget := y.budget, reldl := y.reldl, lead := y.lead } ∧
    u.nitavg = none ∧ u.demoted = false ∧ u.st = (if y.st = .disabled then .empty else y.st) ∧ u.node = y.node ∧
    (u.base, u.size, u.head, u.tail, u.ctx) = (y.base, y.size, y.head, y.tail, y.ctx) ∧
    (y.period = 0 → u.repl = BitVec.ofNat 64 t ∧ u.remain = 0 ∧ u.absdl = BitVec.allOnes 64) ∧
    (y.period ≠ 0 → u.repl = BitVec.ofNat 64 t + y.period.zeroExtend 64 ∧ u.remain = y.budget ∧
      u.absdl = deadlineFrom (t % 2 ^ 64) y.reldl)) ∧
  (∀ q s, (s.queue q).st ∈ ([.empty, .ready, .waiting, .insufficient] : List QState) →
    exec (.queueDisable q) s = .next { (s.updQueue q fun y => { y with
      en := false, st := .disabled, node := none }) with
      cores := s.cores.map fun k => if k.heldFor = some (q, none) then { k with heldFor := none } else k }) ∧
  (∀ q s, (s.queue q).st = .running →
    exec (.queueDisable q) s = .next (s.updQueue q fun y => { y with en := false })) ∧
  (∀ (s : State) ctx (a : W64), (a = 0 → s.joinArrive ctx a = (true, s)) ∧
    (a.toNat % 16 ≠ 0 → s.joinArrive ctx a = (false, s)) ∧
    (a ≠ 0 → a.toNat % 16 = 0 → (∀ e, s.xlate ctx a .atomic = .error e →
        s.joinArrive ctx a = (false, s.shepRefused ctx .atomic e)) ∧
      ∀ p, s.xlate ctx a .atomic = .ok p → let b := s.barUpdate 256 ctx false (.device p) 1 0
        (∀ r, b = some r → s.joinArrive ctx a = (true, r.2)) ∧ (b = none → s.joinArrive ctx a = (false, s)))) ∧
  ∀ q s n auto closes, (s.queue q).st = .running → (s.queue q).node = some n → n.body = .loop auto closes →
    n.finished = true → s.closing q = false →
    (n.closing.getD (if auto then closes else []) = [] →
      let r := s.joinArrive (s.queue q).ctx n.rcd.join
      let u := r.2.updQueue q fun y => y.doneWith 1
      exec (.nodeCompletion q) s = .next (if r.1 then u else u.queueFail q 5 n.rcd.nodeid)) ∧
    ∀ i rest, n.closing.getD (if auto then closes else []) = i :: rest → s.dev.closeOf (s.queue q).ctx i = none →
      exec (.nodeCompletion q) s = .next ((s.updQueue q fun y =>
        { y with node := some { n with closing := some rest } }).setDev { s.dev with
          closes := s.dev.closes ++
            [{ ctx := (s.queue q).ctx, idx := i, reset := false, who := .queue q, drained := [] }] })

/-- R307 to R316, R120, R187, R188, R13. `candidates` is the order of R307, `targets` that of R308. When a choice is
made is the model's order (log entry 7), and in which states of a queue its child grids and saved tasks are offered
is log entry 50's; what a task waits for when it ends is log entry 48's, a swapped-out task of a COOPERATIVE grid
log entry 80's, a ring that is not mapped log entry 31's, and why its core leaves gating log entry 56's. -/
def Obligations.TaskStepsComplete : Prop :=
  (∀ p s, let r := s.reconsider p
    let free := r.freeCores p
    let u := (if free.isEmpty then r else r.latchQueues p).lapse p free
    (u.holder p = none →
      (∀ t, (u.candidates p free).findSome? (u.serve free) = some t → exec (.shepherdChoice p) s = .next t) ∧
      ((u.candidates p free).findSome? (u.serve free) = none → exec (.shepherdChoice p) s = .next u)) ∧
    ∀ q g c, u.holder p = some (q, g) → u.pickCore (free.filter (u.mayUse q)) = some c →
      exec (.shepherdChoice p) s = .next (u.hold q g c)) ∧
  (∀ (s : State) (free : List CoreNo) q c, let mine := free.filter (s.mayUse q)
    s.pickCore mine = some c →
    (∀ v, s.saveFor q mine = some v → s.savedAlone v = true →
      s.serve free q = some (s.place c v.task (.resume v.ctx v.slot))) ∧
    (∀ v, s.saveFor q mine = some v → s.savedAlone v = false → s.serve free q =
      some (((s.gridSaves v).zip (s.gridCores mine (s.gridSaves v).length)).foldl
        (fun s x => s.place x.2 x.1.task (.resume x.1.ctx x.1.slot)) s)) ∧
    (s.saveFor q mine = none →
      (∀ n, s.openGrids q = [] → s.nodeOpen q = true → s.nest q none = some n →
        s.serve free q = some (if n.rcd.cooperative then s.hold q none c else s.placeNext q none c)) ∧
      ∀ g rest x, s.openGrids q = g :: rest → s.grid? g = some x →
        let u := s.updGrid x.id fun y => { y with checked := true }
        s.serve free q = some (if x.checked = false ∧ s.imageOk x.ctx x.rcd = false then s.launchError x
          else if x.rcd.cooperative then u.hold q (some g) c else u.placeNext q (some g) c))) ∧
  (∀ (s : State) (cs : List CoreNo) c, s.pickCore cs = some c →
    (s.shmode = 0 → cs.head? = some c) ∧
    (s.shmode ≠ 0 → (∃ d ∈ cs, (s.core d).health.hot = false) →
      cs.find? (fun d => !(s.core d).health.hot) = some c) ∧
    (s.shmode ≠ 0 → (∀ d ∈ cs, (s.core d).health.hot = true) →
      c ∈ cs ∧ ∀ d ∈ cs, (s.core c).health.temp ≤ (s.core d).health.temp)) ∧
  (∀ (s : State) q g c x, s.nest q g = some x →
    let task (n : Nat) (re : Bool) : Task :=
      { ctx := x.rcd.ctx, queue := q, grid := g, rcd := x.rcd, n := n, startTick := s.ticks, replay := re }
    (∀ n rest, x.again = n :: rest →
      s.placeNext q g c = (s.setNest q g { x with again := rest }).place c (task n true) .start) ∧
    (x.again = [] → x.next < x.rcd.total →
      s.placeNext q g c = (s.setNest q g { x with next := x.next + 1 }).place c (task x.next false) .start) ∧
    (x.again = [] → x.rcd.total ≤ x.next → s.placeNext q g c = s)) ∧
  (∀ (s : State) c (t : Task) p, let u := s.place c t p
    (u.core c).task = some { t with startTick := s.ticks, regs := s.ctxRegs t.ctx } ∧ (u.core c).placing = some p ∧
    (u.core c).heldFor = none ∧ (u.core c).given = none ∧ (u.core c).mem = (s.core c).mem ∧
    (∀ d, d ≠ c → u.core d = s.core d) ∧
    (u.queue t.queue).since = some s.ticks ∧
    (u.queue t.queue).st = (if t.grid = none ∧ (s.queue t.queue).st = .ready then .running else (s.queue t.queue).st) ∧
    (∀ q, q ≠ t.queue → u.queue q = s.queue q) ∧ (u.part (s.queue t.queue).part.toFin).cursor = c.val) ∧
  (∀ (s : State) q g c n, let u := s.updCore c fun k => { k with heldFor := some (q, g) }
    u.nest q g = some n →
    ((u.heldCores q g).length < n.count → s.hold q g c = u) ∧
    (n.count ≤ (u.heldCores q g).length → s.hold q g c =
      (u.heldCores q g).foldl (fun s c => s.placeNext q g c) (u.setNest q g { n with again := sortBy id n.again }))) ∧
  (∀ c s t im x, (s.core c).placing = some .start → (s.core c).task = some t → s.taskImage t = some im →
    s.ctx? t.ctx = some x → (∀ h ∈ s.dev.held, h.core.val / 4 ≠ c.val / 4) →
    ∃ u, exec (.taskStart c) s = .next u ∧ u = s.setCore c (u.core c) ∧
      (u.core c).seq.mode = .run ∧ (u.core c).seq.pc = t.rcd.entry ∧ (u.core c).seq.code = im.tile ∧
      (u.core c).seq.iter = t.rcd.indices t.n ∧ (u.core c).seq.itern = BitVec.ofNat 64 t.n ∧
      (u.core c).seq.nodearg = t.rcd.arg ∧ (u.core c).seq.partid = t.ctx.extractLsb' 28 4 ∧
      (u.core c).seq.s = Vector.replicate 64 0 ∧ (u.core c).seq.t = Vector.replicate 64 0 ∧
      (u.core c).seq.c = Vector.ofFn (fun i => im.const.getD i.val 0) ∧ (u.core c).seq.trapen = false ∧
      (u.core c).seq.tflags = 0 ∧
      (u.core c).table = x.table ∧ (u.core c).placing = none ∧ (u.core c).lastCtx = some t.ctx ∧
      (u.core c).task = some t ∧ (u.core c).health.gated = false ∧ (u.core c).mem.dirty = [] ∧
      ((s.core c).lastCtx ≠ some t.ctx → (u.core c).mem.kennel = [] ∧ (u.core c).mem.acc = [] ∧
        (u.core c).mem.priv = [] ∧ (u.core c).mem.holes = []) ∧
      ((s.core c).lastCtx = some t.ctx → (u.core c).mem.kennel = (s.core c).mem.kennel)) ∧
  (∀ c s t, (s.core c).task = some t → (s.core c).retirable = true →
    let u := ((s.releaseTask c).freeCore c).countDone t
    let w := u.updQueue t.queue fun q => { q with nitavg := expAverage q.nitavg (u.ticks - t.startTick) }
    ((s.core c).claim.isSome = true → exec (.taskRetire c) s = .next (w.vacate c)) ∧
    ((s.core c).claim = none → t.rcd.cooperative = true → exec (.taskRetire c) s = .next w) ∧
    ((s.core c).claim = none → t.rcd.cooperative = false →
      exec (.taskRetire c) s = .next (w.placeNext t.queue t.grid c))) ∧
  (∀ (s : State) c, let u := s.releaseTask c
    (u.core c).stores = [] ∧ (u.core c).kstores = [] ∧ (u.core c).lstores = [] ∧ (u.core c).port = [] ∧
    ∀ h ∈ u.dev.held, h.core ≠ c) ∧
  (∀ (s : State) v, s.savedAlone v = true ↔ v.coop = 0 ∨ ∀ w ∈ s.gridSaves v, w.kind = .swap) ∧
  (∀ (s : State) free n, (s.shmode = 0 ∨ ∃ c ∈ s.wholeFree free, (s.core c).health.hot = false) →
    s.gridCores free n = s.wholeFree free) ∧
  (∀ (s : State) free n, s.shmode ≠ 0 → (∀ c ∈ s.wholeFree free, (s.core c).health.hot = true) →
    (∀ c ∈ s.gridCores free n, c ∈ s.wholeFree free) ∧
    (s.gridCores free n).length = Nat.min n (s.wholeFree free).length ∧
    ∀ c ∈ s.gridCores free n, ∀ d ∈ s.wholeFree free, d ∉ s.gridCores free n →
      (s.core c).health.temp ≤ (s.core d).health.temp) ∧
  (∀ (s : State) q, let x := s.queue q
    let work := s.hasWork q (s.freeCores x.part.toFin)
    x.eff.cls = 0 → x.eff.lead ≠ 0 →
      (work = false → s.noteWaits.queue q = { x with since := none }) ∧
      (work = true → x.since.isSome = true ∨ s.livePosted q = true → s.noteWaits.queue q = x) ∧
      (work = true → x.since = none → s.livePosted q = false →
        s.noteWaits.queue q = { x with since := some s.ticks })) ∧
  (∀ q s since, let x := s.queue q
    let p := x.part.toFin
    x.since = some since → x.eff.cls = 0 → x.eff.lead ≠ 0 → since + x.eff.lead.toNat ≤ s.ticks →
    s.hasWork q (s.freeCores p) = true → exec (.qleadExpiry q) s =
      .next (s.livePost q 5 ((s.targets p).take (Nat.min (s.coresWanted q) (coresOf (s.part p)).length))
        (BitVec.ofNat 64 (s.ticks + x.eff.lead.toNat)))) ∧
  (∀ q n (cs : List CoreNo) dl s, cs ≠ [] → let r := s.post cs dl false (some q)
    (r.1 = 0 → State.livePost q (n + 1) cs dl s =
      r.2.updQueue q fun x => { x with since := none, starved := false }) ∧
    (r.1 = 1 → State.livePost q (n + 1) cs dl s = State.livePost q n cs r.2.rc.mindl r.2) ∧
    (r.1 = 2 → let rest := cs.filter fun c => !s.claimedCores.contains c
      State.livePost q (n + 1) cs dl s = if rest.length < cs.length then State.livePost q n rest dl r.2 else r.2) ∧
    (r.1 = 3 → let rest := s.fitSlots cs
      State.livePost q (n + 1) cs dl s = if rest = [] then r.2.starve q
        else if rest.length < cs.length then State.livePost q n rest dl r.2 else r.2) ∧
    (4 ≤ r.1 → State.livePost q (n + 1) cs dl s = r.2)) ∧
  (∀ c s r, r ∈ s.launches c → (∀ x ∈ s.launches c, x ≠ r → r.no < x.no) →
    let accept (r : LaunchRec) (u : State) : Out := .next { u with
      grids := u.grids ++ [{ id := u.nextGrid, ctx := r.ctx, queue := r.queue, rcd := r, next := 0, again := [], done := 0,
                             checked := false }],
      nextGrid := u.nextGrid + 1 }
    let regs := match (s.core c).task with
      | some t => if t.ctx = r.ctx then t.regs else s.ctxRegs r.ctx
      | none => s.ctxRegs r.ctx
    let read := ({ s with ctxs := s.ctxs.map fun x => { x with ring := x.ring.erase (c.val, r) } } : State).throughRing
      r.ctx regs .read r
    (r ∈ (s.core c).launchQ →
      exec (.launchAccept c) s = accept r (s.updCore c fun k => { k with launchQ := k.launchQ.erase r })) ∧
    (r ∉ (s.core c).launchQ → exec (.launchAccept c) s = accept read.1 read.2)) ∧
  ∀ g s x, s.grid? g = some x → x.rcd.total ≤ x.done →
    let u : State := { s with grids := s.grids.filter fun y => y.id != x.id }
    let r := u.joinArrive x.ctx x.rcd.join
    exec (.childGridCompletion g) s = .next (if r.1 then r.2 else r.2.machineCheck 3 (some x.ctx) 255 255 0 0)

/-- R326 to R345, R313, R317, R371, R372, R251, R369, R370. `eFreeze`, `eComplete`, `eCheckpoint` are the estimates
of R330, `frozen` steps 1 to 5 of R341. When a stop, a save or a window ends is the model's order (log entries 7,
54); CDIRTY and the cap are log entry 22's, the cores that leave in a shrink log entry 45's; the layout of an
image's open areas is log entry 20's, the last-call points of other posts log entry 44's, a sequencer's remote
atomic in RPEND log entry 46's, a stop due at vacancy log entry 72's, what a resume reads again log entry 49's, what
a torn-down context leaves log entry 53's, how a context comes under debug log entry 73's, which cores count while a
partition shrinks log entry 79's, the swap-out of a COOPERATIVE task log entry 80's; `firmwareGood` and the flash
are of the configuration (log entries 11, 23). -/
def Obligations.RecallAndPowerStepsComplete : Prop :=
  (∀ (i : Instr) v s shrink,
    (i = .recallPost v ∧ shrink = false) ∨ (i = .recallShrink v ∧ shrink = true) →
    v.getLsbD 0 = true → v.getLsbD 1 = shrink → v.getLsbD 2 = false →
    let u := s.setRcCtl v
    let cs := u.widen s.rc.cores
    let st := u.postStatus s.rc.cores cs s.rc.dl shrink
    (∀ j, st.1 = 0 → u.rc.freeSlot = some j → ∃ t, exec i s = .next t ∧ t.rc.result = BitVec.ofNat 32 (256 * j.val) ∧
      t.rc.pdl[j] = s.rc.dl ∧ t.rc.pefreeze[j] = BitVec.ofNat 32 st.2 ∧ t.rc.cores = s.rc.cores ∧ t.rc.dl = s.rc.dl ∧
      t.rc.plast[j] = (if s.rc.dl = BitVec.allOnes 64 then BitVec.allOnes 64
        else BitVec.ofNat 64 (s.rc.dl.toNat - st.2)) ∧
      ((∃ c ∈ cs, (s.core c).task.isSome = true) → ∃ p, t.rc.posts[j] = some p ∧ p.cores = cs ∧ p.named = s.rc.cores ∧
        p.last = s.rc.dl.toNat - st.2 ∧ p.shrink = shrink ∧ p.live = none ∧
        ∀ c ∈ cs, ∃ cl, (t.core c).claim = some cl ∧ cl.slot = j ∧ cl.vacant = (s.core c).task.isNone)) ∧
    (st.1 ≠ 0 → exec i s = .next (u.setRc { u.rc with
      result := BitVec.ofNat 32 st.1,
      mindl := if st.1 = 1 then BitVec.ofNat 64 (s.ticks + st.2) else u.rc.mindl }))) ∧
  (∀ (s : State) named cs dl shrink, let ef := s.eFreeze ((s.claimedCores ++ cs).eraseDups)
    let st := s.postStatus named cs dl shrink
    let bad : Prop := s.badSet cs = true ∨ (dl = BitVec.allOnes 64 ∧ shrink = false) ∨
      (shrink = true ∧ wholeClusters named = false)
    let busy : Prop := 8 ≤ s.rc.activePosts.length ∨ (∃ c ∈ cs, c ∈ s.claimedCores) ∨
      ∃ p ∈ s.rc.activePosts, ∃ d, p.2.dl = some d ∧ d < s.ticks + ef
    st.2 = ef ∧ (bad → st.1 = 4) ∧ (¬ bad → busy → st.1 = 2) ∧ (¬ bad → ¬ busy → s.noSaveSpace cs = true → st.1 = 3) ∧
    (¬ bad → ¬ busy → s.noSaveSpace cs = false → st.1 = if dl.toNat < s.ticks + ef then 1 else 0)) ∧
  (∀ (s : State) (g : List CoreNo) (dl : Nat), let left := dl - s.ticks
    let within (e : Option Nat) : Bool := (e.map fun x => decide (x ≤ left - left / 8)).getD false
    let again := g.all fun c => (((s.core c).task).map fun t => t.rcd.restartable).getD false
    s.decision g dl = if within (s.eComplete g) = true then .complete
      else if within (s.eCheckpoint g) = true ∧ ∀ c ∈ g, (s.core c).seq.restart = none then .checkpoint
      else if again = true ∧ 1000 ≤ left - left / 8 then .discard else .freeze) ∧
  (∀ v s, v.getLsbD 0 = true → v.getLsbD 2 = true →
    ∃ t, exec (.recallRelease v) s = .next t ∧ t = { s.setRcCtl v with cores := t.cores } ∧
      ∀ c, t.core c = match (s.core c).claim with
        | some cl =>
          if cl.vacant = true ∧ c ∉ s.claimedCores ∧ c ∈ s.rc.cores then { s.core c with claim := none } else s.core c
        | none => s.core c) ∧
  (∀ (j : Fin 8) s p, s.rc.posts[j] = some p → p.called = false → p.last ≤ s.ticks →
    exec (.lastCall j) s = .next (p.cores.foldl State.escalate
      (s.setRc { s.rc with posts := s.rc.posts.set j.val (some { p with called := true }) }))) ∧
  (∀ (s : State) c t cl, (s.core c).task = some t → (s.core c).claim = some cl →
    let u := s.updCore c Core.restartClock
    let q := (s.core c).seq.mode
    let w (d : RcDecision) : State := (u.abandonSave c).updCore c fun k => { k with claim := some { cl with dec := d } }
    (cl.vacant = true → s.escalate c = s) ∧
    (cl.vacant = false → q = .unhandled ∨ q = .discarding ∨ (q = .freezing ∧ t.rcd.restartable = false) →
      s.escalate c = u) ∧
    (cl.vacant = false → q ≠ .unhandled → q ≠ .discarding →
      (t.rcd.restartable = true → let x := (w .discard).beginFreeze c .discarding
        s.escalate c = (((x.core c).teams.map Team.op).foldl (fun x op => x.settleThreads c op) x).updCore c fun k =>
          k.dropTeams.landAll) ∧
      (t.rcd.restartable = false → q ≠ .freezing → s.escalate c = (w .freeze).beginFreeze c .freezing))) ∧
  (∀ c s n p, s.swapSince c = some n → s.partOf c = some p →
    (∀ d ∈ coresOf (s.part p), ∀ m, s.swapSince d = some m → n ≤ m) →
    exec (.swapOut c) s = .next (s.updSeq c fun q => { q with mode := .stopped, drain := some .swap })) ∧
  (∀ c s t d, (s.core c).task = some t → (s.core c).seq.drain = some d → (s.core c).seq.mode = .stopped →
    (s.core c).drained = true → (s.core c).saving = none → (s.core c).health.clockStop = false →
    (d = .checkpoint → s.gridStopped t = true) →
    (s.slotFor c = none → exec (.checkpointSave c) s =
      .next (s.updSeq c fun q => { q with mode := .run, drain := none, standSince := none })) ∧
    ∀ slot w, s.slotFor c = some slot →
      (s.gridNumber t).2.writeImage c ((s.gridNumber t).2.mkSave c t (if d = .swap then .swap else .checkpoint) slot
        (s.gridNumber t).1) = .ok w →
      exec (.checkpointSave c) s = .next ((w.takeSlot t.ctx slot).updCore c fun k => { k with saving := some slot })) ∧
  (∀ c s t d slot f, (s.core c).task = some t → (s.core c).seq.drain = some d → (s.core c).seq.mode = .stopped →
    (s.core c).drained = true → (s.core c).saving = none → (s.core c).health.clockStop = false →
    (d = .checkpoint → s.gridStopped t = true) → s.slotFor c = some slot →
    let g := s.gridNumber t
    g.2.writeImage c (g.2.mkSave c t (if d = .swap then .swap else .checkpoint) slot g.1) = .error f →
    exec (.checkpointSave c) s = .next (g.2.saveFailed c t f)) ∧
  (∀ (s : State) c v, (∃ b ∈ v.blocks, (s.core c).mem.blockPoisoned b = true) →
    ∃ f, s.writeImage c v = .error f) ∧
  (∀ (s : State) c v lane slot th, v.kind = .freeze → s.thread c lane slot = some th → lane < 128 → slot < 4 →
    th.readsPoison (List.range 64) = true → ∃ f, s.writeImage c v = .error f) ∧
  (∀ (s : State) c t f, s.saveFailed c t f =
    let u := (s.shepRefused t.ctx .write f).machineCheck 5 (some t.ctx) c.val 255 0 0
    let v := ((u.freeCore c).queueError t.queue t.rcd.nodeid).vacate c
    if v.choice.1 = 0 then v.choice.2.destroyContext t.ctx else v.choice.2) ∧
  (∀ (s : State) n, let u := s.destroyContext n
    u.ctx? n = none ∧ (∀ v ∈ u.saves, v.ctx ≠ n) ∧ (∀ g ∈ u.grids, g.ctx ≠ n) ∧ (∀ r ∈ u.dev.recs, r.ctx ≠ n) ∧
    (∀ x ∈ u.dev.closes, x.ctx ≠ n) ∧ (∀ p ∈ u.dev.partials, p.ctx ≠ n) ∧
    (∀ c, (∀ e ∈ (u.core c).tlb, e.ctx ≠ n) ∧ (∀ t, (u.core c).task = some t → t.ctx ≠ n) ∧ (u.core c).lastCtx ≠ some n) ∧
    (∀ c, ∀ p ∈ (u.core c).stores, p.ctx ≠ n) ∧ (∀ h ∈ u.dev.held, h.ctx ≠ n) ∧
    (∀ q, (s.queue q).ctx = n → (u.queue q).st = .disabled ∧ (u.queue q).head = (s.queue q).head) ∧
    ∀ m, m ≠ n → s.ctx? m = none → u.ctx? m = none) ∧
  (∀ c s t, (s.core c).task = some t →
    (∀ slot, (s.core c).saving = some slot → exec (.saveImageWritten c) s =
      .next (((s.updCore c fun k => k.useSlot slot).freeCore c).vacate c)) ∧
    ((s.core c).saving = none → (s.core c).seq.mode = .freezing ∨ (s.core c).seq.mode = .unhandled →
      (s.core c).frozen = true →
      let event (u : State) (saved : Bool) : State :=
        if (s.core c).seq.mode = .unhandled then u.unhandledEvent t (s.core c).trapRec saved else u
      (s.slotFor c = none → exec (.saveImageWritten c) s = .next (((event s false).freeCore c).vacate c)) ∧
      ∀ slot, s.slotFor c = some slot →
        let g := s.gridNumber t
        let img := g.2.writeImage c (g.2.mkSave c t .freeze slot g.1)
        (∀ f, img = .error f → exec (.saveImageWritten c) s = .next ((event g.2 false).saveFailed c t f)) ∧
        ∀ w, img = .ok w → exec (.saveImageWritten c) s =
          .next (((event (w.takeSlot t.ctx slot) true).flowsToSave c t.ctx slot).leave c slot)) ∧
    ((s.core c).saving = none → (s.core c).seq.mode = .discarding → (s.core c).discarded = true →
      exec (.saveImageWritten c) s = .next (((s.giveBack t).freeCore c).vacate c))) ∧
  (∀ c s ctx slot v, (s.core c).placing = some (.resume ctx slot) → s.save? ctx slot = some v →
    let w := (v.reread s).1
    let fl := ({} : Floor).acquire s.dev c.val (s.core c).nextStore .device
    ∃ t, exec (.taskResume c) s = .next t ∧ t.save? ctx slot = none ∧ (t.core c).placing = none ∧
      (t.core c).task = some ((s.core c).task.getD v.task) ∧ (t.core c).lastCtx = some v.ctx ∧
      (t.core c).health.gated = false ∧ (t.core c).seq.mode = .run ∧
      (t.core c).seq.pc = (if v.unhandled then w.seq.trapvec else w.seq.pc) ∧ (t.core c).seq.s = w.seq.s ∧
      (t.core c).seq.t = w.seq.t ∧ (t.core c).dq = v.dq ∧
      (t.core c).ops = v.ops.map (fun o => { o with floor := fl }) ∧
      (t.core c).cmds = v.cmds.map fun m => { m with floor := fl }) ∧
  (∀ ctx slot lane thr flow res s v, s.save? ctx slot = some v → v.answer lane thr flow res ≠ v →
    let dst := if res.isSome then ((v.threads.find? fun x => x.1 == 4 * lane + thr).bind fun x => x.2.remoteOn flow).map
      fun p => (p.dst.val, p.n) else none
    exec (.remoteAtomicToImage ctx slot lane thr ⟨flow, res⟩) s = .next (({ s with
      saves := s.saves.map fun x => if x.ctx = ctx ∧ x.slot = slot then v.answer lane thr flow res else x } :
      State).rewriteThread (v.answer lane thr flow res) lane thr dst)) ∧
  (∀ (v : Save) lane thr flow acq a (w : W64) ix th p place, lane ≠ 128 → ix = 4 * lane + thr →
    v.threads.find? (fun x => x.1 == ix) = some (ix, th) → th.remoteOn flow = some p → p.res = .remote flow acq a place →
    let u := v.answer lane thr flow none
    let x := v.answer lane thr flow (some w)
    u.rpend = v.rpend - 1 ∧ u.rfaults = v.rfaults ++ [(ix, place)] ∧ x.rpend = v.rpend - 1 ∧ x.rfaults = v.rfaults ∧
    ∃ t, x.threads.find? (fun y => y.1 == ix) = some (ix, t) ∧ (∀ q ∈ t.pend, q ≠ p) ∧
      (p.dst.val ≤ 62 → t.isFull p.dst.val = true ∧ t.reg p.dst.val = w.extractLsb' 0 32)) ∧
  (∀ (s : State) ctx c, c ∈ s.partCores ctx ↔
    (s.part (ctx.extractLsb' 28 4).toFin).clusters.getLsbD (c.val / 4) = true) ∧
  (∀ (k : Core) lane slot th, lane < 128 → slot < 4 → th.rank < 2 ^ 48 → let bs := threadRecord k lane slot th
    let at_ := ofBytes ((bs.drop 0x30).take 8)
    bs.length = 320 ∧ at_ % 256 = lane ∧ at_ / 256 % 4 = slot ∧ at_ / 2 ^ 14 = th.rank ∧
    ofBytes (bs.take 8) = th.pc.toNat ∧ ofBytes ((bs.drop 8).take 8) = th.full.toNat) ∧
  (∀ (s : State) j evict dec c t, (s.core c).task = some t → (s.core c).health.clockStop = true →
    ((s.claimCore j evict dec c).core c).health.clockStop = false ∧
    ((s.claimCore j evict dec c).core c).health.stopDue = true) ∧
  (∀ w m lowered s, exec (.powerWindow w m lowered) s = .next { s with pwr := { s.pwr with
    watts := BitVec.ofNat 32 w, clk := BitVec.ofNat 32 m,
    throt := if lowered then satInc s.pwr.throt else s.pwr.throt } }) ∧
  (∀ c s, 105 ≤ (s.core c).health.temp → (s.core c).health.clockStop = false →
    (s.pressed c = true → exec (.thermalStop c) s =
      .next ((s.updCore c fun k => { k with health := { k.health with stopDue := true } }).escalate c)) ∧
    (s.pressed c = false → exec (.thermalStop c) s = .next ((s.updCore c fun k => { k with
      health := { k.health with clockStop := true } }).machineCheck 6 ((s.core c).task.map Task.ctx) c.val 255 0 0))) ∧
  (∀ c s, (s.core c).health.temp ≤ 95 → exec (.thermalResume c) s =
    .next (s.updCore c fun k => { k with health := { k.health with clockStop := false } })) ∧
  (∀ c n s, ∃ hot, exec (.temperatureSample c n) s =
      .next (s.updCore c fun k => { k with health := { k.health with temp := n, hot := hot } }) ∧
    (95 ≤ n → hot = true) ∧ (88 < n → n < 95 → hot = (s.core c).health.hot) ∧
    (n ≤ 88 → (s.core c).health.droops = [] → hot = false)) ∧
  (∀ c s, ∃ t, exec (.droopEvent c) s = .next t ∧ t = s.setCore c (t.core c) ∧
    (t.core c).health.droops = ((s.core c).health.droops.filter fun d => decide (s.now < d + 17000000)) ++ [s.now] ∧
    ((t.core c).health.hot = true ↔ (s.core c).health.hot = true ∨
      3 ≤ ((t.core c).health.droops.filter fun d => decide (s.now ≤ d + 1700000)).length)) ∧
  (∀ (s : State) c cl, (s.core c).claim = some cl → (s.core c).health.stopDue = true →
    (∀ p, s.rc.posts[cl.slot] = some p → c ∉ p.cores) →
    (95 < (s.core c).health.temp → ((s.vacate c).core c).health.clockStop = true) ∧
    ((s.core c).health.temp ≤ 95 → ((s.vacate c).core c).health.clockStop = (s.core c).health.clockStop) ∧
    ((s.vacate c).core c).health.stopDue = false ∧ ((s.vacate c).core c).claim = some { cl with vacant := true }) ∧
  (∀ c lane slot s th, s.thread c lane slot = some th → th.wait = .debug → exec (.debugRequest c lane slot) s =
    .next ((s.wake c 5).updThread c lane slot fun th =>
      { th with wait := .none, pc := th.pc + 8 })) ∧
  (∀ c lane slot s, (∀ th, s.thread c lane slot = some th → th.wait ≠ .debug) →
    exec (.debugRequest c lane slot) s =
      .next ((s.wake c 5).updCtx (s.core c).ctx fun x => { x with debug := !x.debug })) ∧
  (∀ s, exec .runtimeWatchdog s =
    .next { s with boot := { s.boot with runtimeResets := s.boot.runtimeResets + 1 } }) ∧
  ∀ s, s.boot.st = .off →
    (Config.firmwareGood s.boot.image = true → exec .powerUp s =
      .next { (s.setDev { s.dev with scrub := { all := true, differ := [] } }) with
        boot := { s.boot with st := .up },
        host := { s.host with up := true, hpaddr := Config.flashAddress s.boot.image } }) ∧
    (Config.firmwareGood s.boot.image = false → exec .powerUp s =
      .next { s with boot := { s.boot with st := .recovery }, host := { s.host with up := true } })

/-- R350 to R361. `hostTaken` and `hostAnswered` bracket `perform`; `hostRun` goes on with requests that the session
holds. The model's choices in it: log entries 9 (ADDR and ARG of a response), 21 (the bytes of a migration image),
24 (where a LANE section is placed), 51 (which registers a session may read and write), 52 (what closing a session
discards), 53 (what a destroyed context leaves), 65 (what makes LENGTH wrong) and 67 (a reload at the same address).
-/
def Obligations.HostRequestsComplete : Prop :=
  (∀ (i : Instr) m x s, HostIn m x s →
    (∀ y ∈ x.heldReq, y.psn ≠ m.psn) →
    ((i = .write m ∧ m.typ = 1) ∨ (i = .read m ∧ m.typ = 2) ∨ (i = .kick m ∧ m.typ = 3) ∨
      (m.typ = 5 ∧ ((i = .sessionOpen m ∧ m.addr = 1) ∨ (i = .sessionClose m ∧ m.addr = 2) ∨
        (i = .regRead m ∧ m.addr = 3) ∨ (i = .regWrite m ∧ m.addr = 4) ∨ (i = .imageLoad m ∧ m.addr = 5) ∨
        (i = .eventRoute m ∧ m.addr = 6) ∨ (i = .faultAnswer m ∧ m.addr = 7) ∨ (i = .contextCreate m ∧ m.addr = 8) ∨
        (i = .keyRead m ∧ m.addr = 9) ∨ (i = .attest m ∧ m.addr = 10) ∨ (i = .migrateOut m ∧ m.addr = 11) ∨
        (i = .partitionSet m ∧ m.addr = 12) ∨ (i = .contextDestroy m ∧ m.addr = 13) ∨
        (i = .migrateIn m ∧ m.addr = 14)))) →
    let u := hostTaken m s
    let y : Session := { x.ackEvents m.ackpsn s with
      heldReq := x.heldReq ++ [m], peer := m.srcAddr, peerPort := m.srcPort }
    (∀ st body t, perform y m u = .now st body t → ∃ n, 14 ≤ n ∧
      exec i s = .next (settleParts (hostRun n [.pump m.session] (hostAnswered m st body t)))) ∧
    (∀ t, perform y m u = .later t → ∃ n, 14 ≤ n ∧ exec i s = .next (settleParts (hostRun n
      (if m.typ = 3 then [.kick (m.addr.extractLsb' 0 6).toFin false] else []) t))) ∧
    ∀ got t, perform y m u = .part got t → exec i s = .next (settleParts (t.updSession m.session fun z =>
      { z with heldReq := m :: z.heldReq, next := x.next, busy := false, part := got }))) ∧
  (∀ (s : State) n k, (∀ x, s.session? k = some x → ∀ m ∈ x.heldReq, m.psn ≠ x.next) →
    hostRun (n + 1) [.pump k] s = s) ∧
  (∀ s, s.host.partWaits = [] → settleParts s = s) ∧
  (∀ x m s c ps n v, m.typ = 1 → x.ctx = some c → s.choice = (n, v) →
    s.hostPieces (some c) .write m.addr.toNat m.payload.length = .ok ps →
    (n = 0 → x.part = [] → HostDoes x m s 0 [] (v.writePieces 256 c false ps m.payload)) ∧
    (n ≠ 0 ∨ x.part ≠ [] → let r := v.writeOn c ps m.payload n x.part
      ((∀ b ∈ r.1, b ≠ none) → HostDoes x m s 0 [] r.2) ∧
      ((∃ b ∈ r.1, b = none) → m.badRequest (s.boot.st == .recovery) = false → perform x m s = .part r.1 r.2))) ∧
  (∀ (s : State) c ps bs n part, let left := bytesLeft part bs.length
    let r := s.writeOn c ps bs n part
    r.1.length = left.length ∧ ∀ i, (∀ b, left[i]? = some (some b) → r.1[i]? = some (some b)) ∧
      (left[i]? = some none → r.1[i]? = some (if n = 0 ∨ n.testBit i = true then some (bs.getD i 0) else none))) ∧
  (∀ (s : State) c need a n, (2 ^ 52 ≤ a → s.hostPieces (some c) need a n = .error (1, s)) ∧
    (a + n ≤ 2 ^ 52 → a < 2 ^ 52 →
      (∀ ps, s.xlateRange c need a n = .ok ps → s.hostPieces (some c) need a n = .ok ps) ∧
      ∀ f, s.xlateRange c need a n = .error f → s.hostPieces (some c) need a n =
        .error (walkStatus f, s.refusedAt c 4 255 need f))) ∧
  (∀ x m s bs n v, m.typ = 2 → s.choice = (n, v) → hostBytes x.ctx m.addr.toNat m.arg.toNat s = .ok bs →
    (n = 0 → x.part = [] → HostDoes x m s 0 bs v) ∧
    (∀ ps, n ≠ 0 ∨ x.part ≠ [] → s.hostPieces x.ctx .read m.addr.toNat m.arg.toNat = .ok ps →
      let r := v.readOn ps n x.part
      r.2 = v ∧ ((∀ b ∈ r.1, b ≠ none) → HostDoes x m s 0 (r.1.map fun b => b.getD 0) v) ∧
      ((∃ b ∈ r.1, b = none) → m.badRequest (s.boot.st == .recovery) = false → perform x m s = .part r.1 v))) ∧
  (∀ x m s, m.typ = 3 → m.badRequest (s.boot.st == .recovery) = false →
    perform x m s = .later (s.setHost { s.host with
      kicks := s.host.kicks ++
        [{ msg := m, q := (m.addr.extractLsb' 0 6).toFin, n := 0, attempt := 0, atCyc := s.now }] })) ∧
  (∀ (k : KickWait) s, s.host.kicks.find? (fun y => y.q == k.q) = some k →
    let n := if k.attempt = 0 then (k.msg.arg - (s.queue k.q).tail).toNat else k.n
    let rest (u : State) : State := u.setHost { u.host with kicks := u.host.kicks.erase k }
    let due := decide (k.attempt ≠ 0)
    (k.attempt = 0 ∨ k.atCyc + 3400 ≤ s.now) →
    (∀ st, k.attempt = 0 → kickRefused k n s = some st →
      hostWork (.kick k.q due) s = ([.done k.msg st [], .kick k.q false], rest s)) ∧
    ((k.attempt = 0 → kickRefused k n s = none) →
      (∀ st t, kickTry k n s = some (st, t) →
        hostWork (.kick k.q due) s = ([.done k.msg st [], .kick k.q false], rest t)) ∧
      (kickTry k n s = none → hostWork (.kick k.q due) s =
        if k.attempt = 8 ∨ 8 < k.attempt then ([.done k.msg 7 [], .kick k.q false], rest s)
        else ([], s.setHost { s.host with kicks := s.host.kicks.map fun y =>
          if y = k then { y with n := n, attempt := y.attempt + 1, atCyc := s.now } else y })))) ∧
  (∀ (k : KickWait) n s, let x := s.queue k.q
    (s.sessionCtx k.msg.session ≠ some x.ctx → kickRefused k n s = some 5) ∧
    (s.sessionCtx k.msg.session = some x.ctx → (x.size.toNat < n + x.records → kickRefused k n s = some 6) ∧
      (n + x.records ≤ x.size.toNat → kickRefused k n s = none))) ∧
  (∀ (k : KickWait) n s, (∀ bs, kickBytes (s.queue k.q) k.msg.arg n s = .ok bs → kickTry k n s =
      if (crc32c bs).toNat = ofBytes k.msg.payload then
        some (0, s.updQueue k.q fun y => { y with tail := k.msg.arg }) else none) ∧
    ∀ e, kickBytes (s.queue k.q) k.msg.arg n s = .error e → kickTry k n s = some e) ∧
  (∀ x new n s bs, kickBytes x new n s = .ok bs → bs.length = 128 * n ∧ ∀ i < n,
    kickRead x.ctx (x.base.toNat +
        128 * (((new.toNat : Int) - n + i).emod (2 ^ 32) |>.toNat |> (· % x.size.toNat))) 128 s =
      .ok ((bs.drop (128 * i)).take 128)) ∧
  (∀ c a n (s : State), (2 ^ 52 < a + n → kickRead c a n s = .error (1, s)) ∧ (a + n ≤ 2 ^ 52 →
    (∀ f, s.xlateRange c .read a n = .error f → kickRead c a n s = .error (walkStatus f, s.refusedAt c 6 255 .read f)) ∧
    ∀ ps, s.xlateRange c .read a n = .ok ps → kickRead c a n s =
      if ∃ p ∈ ps, s.dev.poisoned p.1.pa p.2 = true then .error (4, s) else .ok (s.dev.readPieces ps))) ∧
  (∀ x m s, MgmtIn 1 x m → m.arg ≠ BitVec.allOnes 32 → (s.ctx? m.arg).isSome = true → mayName x m.arg = true →
    let n : W32 := BitVec.ofNat 32 s.host.nextFree
    HostDoes x m s 0 (leBytes 4 n.toNat) (s.setHost { s.host with
      nextSession := s.host.nextFree + 1,
      sessions := s.host.sessions ++
        [{ num := n, ctx := some m.arg, next := 1, kept := [], heldReq := [], evq := [], events := [], evNext := 1,
           lost := 0, busy := false, peer := m.srcAddr, peerPort := m.srcPort }] })) ∧
  (∀ h : HostPort, h.sessions.length + 1 < 2 ^ 32 → let n : W32 := BitVec.ofNat 32 h.nextFree
    n ≠ 0 ∧ ∀ x ∈ h.sessions, x.num ≠ n) ∧
  (∀ (s : State) n, (s.closeSession n).session? n = none ∧
    (∀ k ≠ n, (s.closeSession n).session? k = s.session? k) ∧
    (∀ c ∈ (s.closeSession n).ctxs, c.route ≠ some n) ∧
    ∀ c ∈ s.ctxs, c.route ≠ some n → c ∈ (s.closeSession n).ctxs) ∧
  (∀ x m s, MgmtIn 2 x m → s.session? m.arg = none →
    HostDoes x m s (if m.arg = 0 then 9 else 11) [] s) ∧
  (∀ x m s y, MgmtIn 2 x m → s.session? m.arg = some y → isOperator x = true ∨ y.ctx = x.ctx →
    HostDoes x m s 0 [] (s.closeSession m.arg)) ∧
  (∀ x m s, MgmtIn 3 x m → regDenied x s m.arg.toNat = false →
    HostDoes x m s 0 (leBytes 8 (s.regRead m.arg.toNat).toNat) s) ∧
  (∀ x m s, MgmtIn 4 x m → writeDenied x s m.arg.toNat (BitVec.ofNat 64 (ofBytes m.payload)) = true →
    HostDoes x m s 9 [] s) ∧
  (∀ x s off v, writeDenied x s off v = true ↔ regDenied x s off = true ∨
    (off < 0x2000 ∧ off % 0x80 = 0x40 ∧ mayName x (v.extractLsb' 0 32) = false)) ∧
  (∀ x m s t, MgmtIn 4 x m → writeDenied x s m.arg.toNat (BitVec.ofNat 64 (ofBytes m.payload)) = false →
    s.regWrite m.arg.toNat (BitVec.ofNat 64 (ofBytes m.payload)) = some t → HostDoes x m s 0 [] t) ∧
  (∀ x m s c h, MgmtIn 5 x m → s.ctx? m.arg = some c → mayName x m.arg = true →
    let a := ofBytes m.payload
    hostBytes (some c.num) a 64 s = .ok h →
    (headerOk h = false → HostDoes x m s 0 (leBytes 4 1) s) ∧
    ∀ bs, headerOk h = true → hostBytes (some c.num) a (wordOf h 8 8) s = .ok bs →
      HostDoes x m s 0 (leBytes 4 (loadStatus bs))
        (if loadStatus bs = 0 then s.loadImage c (BitVec.ofNat 64 a) bs else s)) ∧
  (∀ x m s c y, MgmtIn 6 x m → s.ctx? m.arg = some c → mayName x m.arg = true →
    s.session? (BitVec.ofNat 32 (ofBytes m.payload)) = some y → isOperator y = true ∨ y.ctx = some c.num →
    let u := s.updCtx c.num fun c =>
      { c with route := some (BitVec.ofNat 32 (ofBytes m.payload)), store := [], lost := 0 }
    HostDoes x m s 0 [] (u.updSession (BitVec.ofNat 32 (ofBytes m.payload)) fun y =>
      let w := y.takeEvents c.store
      ({ w with lost := w.lost + c.lost } : Session).reportLost u)) ∧
  (∀ x m s c, MgmtIn 6 x m → s.ctx? m.arg = some c → mayName x m.arg = true → ofBytes m.payload = 0 →
    s.session? 0 = none → HostDoes x m s 9 [] s) ∧
  (∀ (y : Session) es, let free := 1024 - (y.evq.length + y.events.length)
    y.takeEvents es = { y with evq := y.evq ++ es.take free, lost := y.lost + (es.length - free) }) ∧
  (∀ x m s c, MgmtIn 7 x m → m.arg.toNat ≤ 1 →
    s.ctx? (BitVec.ofNat 32 (wordOf m.payload 0x14 4)) = some c →
    mayName x (BitVec.ofNat 32 (wordOf m.payload 0x14 4)) = true →
    let key : FbKey :=
      { ctx := BitVec.ofNat 32 (wordOf m.payload 0x14 4), page := wordOf m.payload 0 8 / 65536,
        cause := BitVec.ofNat 8 (wordOf m.payload 0xA 1), access := BitVec.ofNat 8 (wordOf m.payload 0xC 1) }
    let core : CoreNo := Fin.ofNat 256 (wordOf m.payload 0x18 1)
    ((s.core core).fb.any fun e => e.key == key) = true →
    HostDoes x m s 0 [] (s.updCore core fun k => k.answerFault key (m.arg == 1))) ∧
  (∀ x m s n, MgmtIn 8 x m → s.freeContext (m.arg.toNat % 16) = some n →
    let h := s.handlerAddr (BitVec.ofNat 64 (wordOf m.payload 0 8))
    HostDoes x m s 0 (leBytes 4 n.toNat) { h.2 with ctxs := h.2.ctxs ++ [ctxOfBlock n m.payload h.1] }) ∧
  (∀ x m s, MgmtIn 9 x m → HostDoes x m s 0 compatKey s) ∧
  (∀ x m s n, MgmtIn 10 x m → x.ctx = some n → (reportBody x m.payload s).2 = s ∧
    HostDoes x m s 0 ((reportBody x m.payload s).1 ++ signBytes (reportBody x m.payload s).1) s) ∧
  (∀ x m s c ps, MgmtIn 11 x m → s.ctx? m.arg = some c → mayName x m.arg = true → s.atRest c.num = true →
    let image := s.migImage c
    let bytes := migBody image.1
    image.2.hostPieces (some c.num) .write (ofBytes m.payload) bytes.length = .ok ps →
    let u := image.2.writePieces 256 c.num false ps bytes
    HostDoes x m s 0 [] (({ u with saves := u.saves.filter fun v => v.ctx != c.num } : State).updCtx c.num fun c =>
      { c with savesUsed := [] })) ∧
  (∀ x m s, MgmtIn 12 x m →
    let p : Fin 16 := Fin.ofNat 16 m.arg.toNat
    let rs := (rangesOf m.payload).toList.filter fun r => r.2 != 0
    let old := (s.part p).carve.toList.filter fun r => r.2 != 0
    let u := (s.updPart p fun y => { y with
      clusters := y.clusters ||| BitVec.ofNat 64 (wordOf m.payload 0 8),
      carve := rangesOf m.payload,
      removing := y.removing ++ old.filter fun r => !rs.contains r }).reconsider p
    (s.partitionOk p (BitVec.ofNat 64 (wordOf m.payload 0 8)) rs = false → HostDoes x m s 13 [] s) ∧
    (s.partitionOk p (BitVec.ofNat 64 (wordOf m.payload 0 8)) rs = true →
      granulesLeft (u.part p).removing rs = [] ∨ u.contextsOf p = [] → HostDoes x m s 0 [] (u.endRemoval p))) ∧
  (∀ x m s, MgmtIn 13 x m → (s.ctx? m.arg).isSome = true → HostDoes x m s 0 [] (s.destroyContext m.arg)) ∧
  (∀ x m s n bs im t, MgmtIn 14 x m → s.freeContext (m.arg.toNat % 16) = some n →
    migBytes x (Fin.ofNat 16 m.arg.toNat) (ofBytes m.payload) s = .ok bs → importable bs = some im →
    (s.importAs im n = .ok t → HostDoes x m s 0 (leBytes 4 n.toNat) t) ∧
    (s.importAs im n = .error t → HostDoes x m s 9 [] t)) ∧
  (∀ x m s n bs, MgmtIn 14 x m → s.freeContext (m.arg.toNat % 16) = some n →
    migBytes x (Fin.ofNat 16 m.arg.toNat) (ofBytes m.payload) s = .ok bs → importable bs = none →
    HostDoes x m s 9 [] s) ∧
  (∀ im : MigImage, im.key = compatKey → importable (migBody im) = some im) ∧
  (∀ im : MigImage, (Config.migPack im).length < 2 ^ 511 →
    Config.migSize ((migBody im).take 64) = (migBody im).length) ∧
  (∀ bs im, importable bs = some im → im.key = compatKey ∧
    (bs.drop (bs.length - 64) = signBytes (bs.take (bs.length - 64)) ∨
      Config.verify (bs.take (bs.length - 64)) (bs.drop (bs.length - 64)) = true)) ∧
  (∀ m s, s.host.up = true → m.typ = 6 → m.resp = false → m.session = 0 → m.psn ≠ 0 → s.boot.st = .recovery →
    s.host.kept0.find? (fun k => k.1 == (m.srcAddr, m.srcPort, m.psn)) = none → m.badRequest true = false →
    exec (.recovery m) s = .next (recoveryChunk m s)) ∧
  ∀ m s, s.host.up = true → m.typ = 7 → m.goodAck = true →
    exec (.ack m) s = .next (s.updSession m.session fun x => x.ackEvents m.ackpsn s)

/-- R350, R351, R358, R359 and R363 to R368. `FrameIn` says that the frame is well formed and for this device. The
model's choices in it: log entries 6 (what brings links up), 8 (which overdue frame of several, and accesses byte by
byte), 9 (open fields of messages), 14 (the port of a flow), 28 (ARG of an EVENT) and 47 (lengths, and whose flow an
ACK means). -/
def Obligations.PortsAndFabricComplete : Prop :=
  (∀ n s x e rest, s.session? n = some x → x.evq = e :: rest →
    let m : YhtMsg :=
      { version := 1, typ := 4, fl := 0, session := n, psn := x.evNext, ackpsn := x.inOrder,
        addr := BitVec.ofNat 64 e.code, length := 64, status := 0, arg := x.evNext, payload := e.toBytes,
        srcAddr := x.peer, srcPort := x.peerPort }
    exec (.event n) s = .next ((s.wire m).updSession n fun y =>
      { y with evq := rest, events := y.events ++ [(m, 1, s.now)], evNext := nextPsn y.evNext })) ∧
  (∀ n s x e, s.session? n = some x → x.events.find? (fun e => decide (e.2.2 + 85000 ≤ s.now)) = some e →
    (32 ≤ e.2.1 → exec (.eventResend n) s = .next ((s.closeSession n).toMgmt (.sessionLost n))) ∧
    (e.2.1 < 32 → exec (.eventResend n) s = .next ((s.wire e.1).updSession n fun y =>
      { y with events := y.events.map fun z => if z = e then (z.1, z.2.1 + 1, s.now) else z }))) ∧
  (∀ q s (k : KickWait), s.host.kicks.find? (fun y => y.q == q) = some k → k.atCyc + 3400 ≤ s.now →
    1 ≤ k.attempt → k.attempt < 8 →
    kickTry k k.n s = none → s.host.partWaits = [] → exec (.kickReread q) s = .next (s.setHost { s.host with
      kicks := s.host.kicks.map fun y => if y = k then { y with attempt := y.attempt + 1, atCyc := s.now } else y })) ∧
  linkLocal.extractLsb' 64 64 = (0xFE80000000000000 : BitVec 64) ∧
  (linkLocal.extractLsb' 0 24 = Config.hmac.extractLsb' 0 24 ∧ linkLocal.extractLsb' 24 16 = (0xFFFE : BitVec 16) ∧
    linkLocal.extractLsb' 40 24 = Config.hmac.extractLsb' 24 24 ^^^ (0x020000 : BitVec 24)) ∧
  Config.hmac.extractLsb' 40 2 = (0 : BitVec 2) ∧
  (∀ src target s, s.hostAddress target = true → exec (.neighbourSolicitation src target) s =
    .next (s.emit (.neighbour src target Config.hmac))) ∧
  (∀ src dst data s, s.hostAddress dst = true →
    exec (.echoRequest src dst data) s = .next (s.emit (.echo src dst data))) ∧
  (∀ (p : Fin 9) up s, (∀ h : p.val < 8, exec (.portLinkChange p up) s =
      .next { s with ytt := { s.ytt with ports := s.ytt.ports.set p.val (up && s.boot.st == .up) } }) ∧
    (p = 8 → exec (.portLinkChange p up) s =
      .next (s.setHost { s.host with up := up && s.boot.st != .off }))) ∧
  (∀ (p : Fin 9) why s, (∀ h : p.val < 8, exec (.unacceptedFrame p why) s =
      .next { s with ytt := { s.ytt with dropped := s.ytt.dropped.set p.val (s.ytt.dropped[p.val] + 1) } }) ∧
    (p = 8 → exec (.unacceptedFrame p why) s = .next (s.setHost { s.host with dropped := s.host.dropped + 1 }))) ∧
  (∀ m s n v, FrameIn 1 m s → m.seq ∉ (s.theirFlow m).accepted →
    let u : State := { s with ytt := s.ytt.setFlow (s.theirFlow m) }
    let part := (s.theirFlow m).partOf m.seq
    u.choice = (n, v) →
    (∀ ctx ps, u.yttPieces m .write (yttRows m) = .ok (ctx, ps) →
      (n = 0 → part = [] → exec (.put m) s =
        .next ((ps.zipIdx.foldl (fun u x =>
          u.writePieces 256 ctx false x.1 ((m.payload.drop (x.2 * m.rlen.toNat)).take m.rlen.toNat)) v).yttAccept m
            false)) ∧
      (n ≠ 0 ∨ part ≠ [] → let r := v.writeOn ctx ps.flatten m.payload n part
        ((∀ b ∈ r.1, b ≠ none) → exec (.put m) s = .next ((r.2.setPart m r.1).yttAccept m false)) ∧
        ((∃ b ∈ r.1, b = none) → exec (.put m) s = .next (r.2.setPart m r.1)))) ∧
    ∀ e, u.yttPieces m .write (yttRows m) = .error e → exec (.put m) s = .next (e.2.yttRefuse m e.1)) ∧
  (∀ m s n v, FrameIn 2 m s → m.seq ∉ (s.theirFlow m).accepted →
    let u : State := { s with ytt := s.ytt.setFlow (s.theirFlow m) }
    let part := (s.theirFlow m).partOf m.seq
    let send (bs : List Byte) (w : State) : Out := .next ((frameRows m.rows.toNat m.rlen.toNat).foldl (fun w r =>
      let bytes := (bs.drop (r.1 * m.rlen.toNat)).take (r.2 * m.rlen.toNat)
      let f := yttFrame 3 m.dst m.src (BitVec.ofNat 64 (m.addr.toNat + r.1 * m.pitch.toNat)) m.seq bytes
      w.yttAnswer m { f with
        fl := if r.1 + r.2 = m.rows.toNat then 1 else 0, rows := BitVec.ofNat 16 r.2, rlen := m.rlen,
        pitch := m.pitch, cmd := m.cmd }) (w.yttAccept m false))
    u.choice = (n, v) →
    (∀ ctx ps, u.yttPieces m .read (yttRows m) = .ok (ctx, ps) →
      ((ps.any (piecesPoisoned u)) = true → exec (.get m) s = .next ((u.yttAccept m false).yttRefuse m 5)) ∧
      ((ps.any (piecesPoisoned u)) = false →
        (n = 0 → part = [] → exec (.get m) s = send (ps.flatMap v.dev.readPieces) v) ∧
        (n ≠ 0 ∨ part ≠ [] → let r := v.readOn ps.flatten n part
          ((∀ b ∈ r.1, b ≠ none) → exec (.get m) s = send (r.1.map fun b => b.getD 0) (v.setPart m r.1)) ∧
          ((∃ b ∈ r.1, b = none) → exec (.get m) s = .next (v.setPart m r.1))))) ∧
    ∀ e, u.yttPieces m .read (yttRows m) = .error e →
      exec (.get m) s = .next ((e.2.yttAccept m false).yttRefuse m e.1)) ∧
  (∀ m s, FrameIn 4 m s → m.seq ∉ (s.theirFlow m).accepted →
    let u := ({ s with ytt := s.ytt.setFlow (s.theirFlow m) } : State).yttAccept m false
    let n := if m.arg.getLsbD 4 then 8 else 4
    let pieces := u.yttPieces m .atomic [(m.addr.toNat, n)]
    (∀ ctx ps, pieces = .ok (ctx, ps) →
      ((ps.any (piecesPoisoned u)) = true → exec (.atomic m) s = .next (u.yttRefuse m 5)) ∧
      ((ps.any (piecesPoisoned u)) = false →
        let r := remoteRmw m n ctx ps.flatten u
        let w := r.2.yttAnswer m { yttFrame 5 m.dst m.src 0 m.seq (leBytes 8 r.1) with cmd := m.cmd, fl := 1 }
        exec (.atomic m) s = .next { w with ytt := w.ytt.setFlow ((w.theirFlow m).keep m.seq) })) ∧
    ∀ e, pieces = .error e → exec (.atomic m) s = .next (e.2.yttRefuse m e.1)) ∧
  (∀ m n ctx ps (u : State), u.sched.choices = [] → let old := ofBytes (u.dev.readPieces ps)
    remoteRmw m n ctx ps u = (old, u.writeAtomic ctx ps (leBytes n
      (atomNew ((AtomOp.ofCode (m.arg.extractLsb' 0 4)).getD .add) n old
        (ofBytes (m.payload.take 8) % 2 ^ (8 * n)) (ofBytes (m.payload.drop 8) % 2 ^ (8 * n)))))) ∧
  (∀ m s f c id x pl first rows n v, FrameIn 3 m s → s.ytt.flow? m.flow true m.src = some f → m.seq ∉ f.accepted →
    f.job = some (.cmd c id) → (s.core c).cmd? id = some x → (s.core c).moving = true → x.kind = .pull →
    x.st = .running → dataRows (Desc.of x.dst) x m = some (first, rows) → cmdBarrier c x s = .at pl → s.choice = (n, v) →
    let d := Desc.of x.dst
    let ps := ((List.range rows).map (first + ·)).filter fun i => !x.landed.contains i
    (n = 0 → x.part = [] → exec (.data m) s = .next
      ((subtractLanding c x pl ps (ps.length * d.rbytes) (landRows c d first rows m.payload v)).yttAccept m true)) ∧
    (n ≠ 0 ∨ x.part ≠ [] → exec (.data m) s = .next ((v.updCore c fun k => k.updCmd id fun y =>
      { y with part := y.part ++ (ps.filter fun i => !(y.part.any fun p => p.piece == i)).map fun i =>
        { piece := i, got := ((m.payload.drop ((i - first) * d.rbytes)).take d.rbytes).map some,
          left := List.range d.rbytes } }).yttAccept m true))) ∧
  (∀ (s : State) f ctx slot lane thr a, f.job = some (.saved ctx slot lane thr) →
    s.jobAnswer f (.value a) = some (s.remoteToImage ctx slot lane thr f.flow (some a)) ∧
    ∀ cause, s.jobAnswer f (.failed cause) = some (s.remoteToImage ctx slot lane thr f.flow none)) ∧
  (∀ m s f c, FrameIn 5 m s → s.ytt.flow? m.flow true m.src = some f → m.seq ∉ f.accepted →
    f.job = some (.seqAtomic c) → (s.core c).health.clockStop = false → (s.core c).seq.remote = .flight f.flow →
    exec (.atomicResp m) s = .next (((s.updSeq c fun q =>
      { q with remote := .value (BitVec.ofNat 64 (ofBytes m.payload)) }).endJob f).yttAccept m true)) ∧
  (∀ m s f c lane slot, FrameIn 5 m s → s.ytt.flow? m.flow true m.src = some f → m.seq ∉ f.accepted →
    f.job = some (.laneAtomic c lane slot) → (s.core c).health.clockStop = false →
    exec (.atomicResp m) s = .next (((answerThread c lane slot f.flow
      (.value (BitVec.ofNat 64 (ofBytes m.payload))) s).endJob f).yttAccept m true)) ∧
  (∀ m s f t, FrameIn 7 m s → s.ytt.flow? m.flow true m.src = some f → m.seq ∉ f.accepted →
    s.jobAnswer f (.failed .remoteFault) = some t → exec (.refuse m) s = .next ((t.endJob f).yttAccept m true)) ∧
  (∀ m s f, FrameIn 6 m s → s.ytt.flow? m.flow true m.src = some f ∨
      (s.ytt.flow? m.flow true m.src = none ∧ s.ytt.flow? m.flow false m.src = some f) → exec (.yttAck m) s =
    .next ((f.out.filter fun o => ackCovers m o.f.seq).foldl (fun u o => ackFrame f o u) s)) ∧
  (∀ f o s, (∀ c id, f.job ≠ some (.cmd c id)) ∨ o.f.typ ≠ 1 → ackFrame f o s = s.yttAcked f o.f.seq) ∧
  (∀ f o s c id x pl, f.job = some (.cmd c id) → o.f.typ = 1 → (s.core c).cmd? id = some x →
    (s.core c).moving = true → x.st = .running → cmdBarrier c x s = .at pl →
    let d := Desc.of x.src
    let ps := match dataRows d x o.f with
      | some (first, n) => (List.range n).map (first + ·)
      | none => []
    ackFrame f o s = subtractLanding c x pl ps (ps.length * d.rbytes) (s.yttAcked f o.f.seq)) ∧
  (∀ (s : State) f seq g, s.ytt.flow? f.flow f.ours f.peer = some g →
    s.yttAcked f seq = { s with ytt := s.ytt.setFlow { g with out := g.out.filter fun o => o.f.seq != seq } }) ∧
  (∀ (y : Ytt) flow seq now f o, (f, o) ∈ y.overdue flow seq now ↔
    f ∈ y.flows ∧ f.flow = flow ∧ o ∈ f.out ∧ o.f.seq = seq ∧ y.rto.toNat ≤ now - o.last) ∧
  (∀ flow seq s f o, s.ytt.overdue flow seq s.ticks = [(f, o)] →
    exec (.yttRetransmit flow seq) s = .next (resend (f, o) s)) ∧
  (∀ flow seq (s : State) x, x ∈ s.ytt.overdue flow seq s.ticks → 1 < (s.ytt.overdue flow seq s.ticks).length →
    ∃ n, ∀ ns (u : State), u = s.setSched { s.sched with choices := n :: ns } →
      exec (.yttRetransmit flow seq) u = .next (resend x u.choice.2)) ∧
  (∀ f o s, (s.ytt.retry.toNat ≤ o.sends → resend (f, o) s = giveUp f o s) ∧
    (o.sends < s.ytt.retry.toNat → resend (f, o) s = ({ s with ytt := s.ytt.setFlow { f with
      out := f.out.map fun x =>
        if x.f.seq = o.f.seq then { x with sends := x.sends + 1, last := s.ticks } else x } } : State).yttEmit o.f)) ∧
  (∀ f o s, (f.ours = false → giveUp f o s = s.yttAcked f o.f.seq) ∧ (f.ours = true →
    (∀ t, s.jobAnswer f (.failed .remoteUnreachable) = some t → giveUp f o s = t.endJob f) ∧
    (s.jobAnswer f (.failed .remoteUnreachable) = none → giveUp f o s = s))) ∧
  (∀ (s : State) f c id m cause, f.job = some (.cmd c id) → (s.core c).cmd? id = some m →
    (s.core c).moving = true → m.st = .running → s.jobAnswer f (.failed cause) = some (failCmd c m cause 0 s)) ∧
  (∀ (s : State) f c cause, f.job = some (.seqAtomic c) → (s.core c).health.clockStop = false →
    (s.core c).seq.remote = .flight f.flow →
    s.jobAnswer f (.failed cause) = some (s.updSeq c fun q => { q with remote := .failed })) ∧
  (∀ (s : State) f c lane slot a, f.job = some (.laneAtomic c lane slot) → (s.core c).health.clockStop = false →
    s.jobAnswer f a = some (answerThread c lane slot f.flow a s)) ∧
  (∀ c lane slot flow s th k p acq addr pl, s.thread c lane slot = some th →
    th.pend[k]? = some p → p.res = .remote flow acq addr pl →
    (∀ j < k, ∀ y, th.pend[j]? = some y → ∀ a b d, y.res ≠ .remote flow a b d) →
    (∀ v : W64,
      let ws : List W32 := if p.n = 2 then [v.extractLsb' 0 32, v.extractLsb' 32 32] else [v.extractLsb' 0 32]
      let u := s.updThread c lane slot fun th => th.arrive k ws
      answerThread c lane slot flow (.value v) s =
        if acq then u.acquire c (.thread lane slot) .system else u) ∧
    ∀ cause, answerThread c lane slot flow (.failed cause) s =
      (s.updThread c lane slot fun th =>
        { th with pend := th.pend.eraseIdx k, wait := .faulted, park := .none }).updCore c fun k =>
          k.abortTeam th.team { cause := .translation, addr := addr, lane := some pl }) ∧
  (∀ (s : State) f x, x ∈ (s.endJob f).ytt.flows →
    (x.flow = f.flow ∧ x.ours = f.ours ∧ x.peer = f.peer → x.job = none ∧ x.out = []) ∧
    (¬ (x.flow = f.flow ∧ x.ours = f.ours ∧ x.peer = f.peer) → x ∈ s.ytt.flows)) ∧
  (∀ (s : State) job peer, let fl : YttFlow :=
      { flow := BitVec.ofNat 32 s.ytt.nextFlow, peer := peer, ours := true, job := some job, seq := 0, out := [],
        accepted := [], kept := [], rows := 0 }
    s.yttOpen job peer = (fl, { s with ytt := { (s.ytt.setFlow fl) with nextFlow := s.ytt.nextFlow + 1 } })) ∧
  (∀ (s : State) fl f, let g : YttFrame := { f with flow := fl.flow, seq := fl.seq }
    s.yttSend fl f = ({ s with ytt := s.ytt.setFlow { fl with
      seq := fl.seq + 1, out := fl.out ++ [{ f := g, sends := 1, last := s.ticks }] } } : State).yttEmit g) ∧
  (∀ (s : State) f p, s.ytt.portFor f.dst f.flow = some p →
    s.yttEmit f = { s with host := { s.host with sent := s.host.sent ++ [.ytt p f] } }) ∧
  (∀ (s : State) m fl f, s.ytt.flow? m.flow false m.src = some fl → s.yttAnswer m f = s.yttSend fl f) ∧
  (∀ (s : State) m st, ((∀ o ∈ (s.theirFlow m).out, ¬ (o.f.typ = 7 ∧ o.f.arg = m.seq)) → s.yttRefuse m st =
      s.yttAnswer m { yttFrame 7 m.dst m.src 0 m.seq [] with status := BitVec.ofNat 16 st, cmd := m.cmd }) ∧
    ((∃ o ∈ (s.theirFlow m).out, o.f.typ = 7 ∧ o.f.arg = m.seq) → s.yttRefuse m st = s)) ∧
  (∀ (s : State) m ours f, s.ytt.flow? m.flow ours m.src = some f →
    let g : YttFlow := { f with accepted := f.accepted ++ [m.seq] }
    s.yttAccept m ours = ({ s with ytt := s.ytt.setFlow g } : State).yttEmit
      { yttFrame 6 m.dst m.src 0 g.base (leBytes 32 g.bitmap) with flow := g.flow }) ∧
  ∀ m s, FrameIn m.typ m s → m.seq ∈ (s.theirFlow m).accepted →
    let f := s.theirFlow m
    let u := ({ s with ytt := s.ytt.setFlow f } : State).yttSendAck m f
    (m.typ = 1 → exec (.put m) s = .next u) ∧ (m.typ = 2 → exec (.get m) s = .next u) ∧
    (m.typ = 4 → exec (.atomic m) s = .next (answerAgain m f u))

/-- The frame of R191 to R211 without memory: also for threads that fault or wait. That a subset issues in one step,
in the lane order of R213, is log entry 34; which threads of an aborted team stop is log entry 40. -/
def Obligations.LaneArithmeticFrame : Prop :=
  ∀ i s t, Instr.registerOnly i = true → exec i s = .next t →
    OnlyCores s t ∧ SameMemory s t ∧ (∀ c, c ≠ s.cur → t.core c = s.core c) ∧
    (t.core s.cur).seq = (s.core s.cur).seq ∧ (t.core s.cur).stores = (s.core s.cur).stores ∧
    ∀ lane slot th, s.thread s.cur lane slot = some th → ∃ u, t.thread s.cur lane slot = some u ∧
      u.team = th.team ∧ u.rank = th.rank ∧ u.floor = th.floor ∧
      (∀ r < 64, r ∉ i.use.dsts → u.reg r = th.reg r) ∧ (Instr.setsPreds i = false → u.p = th.p)

/-- The reset columns of R26, R296, R318, R326, R363, R368 and R372. The model's choices: the sequencer's registers
before a task (log entry 1), the power state and links (log entry 6), zero memory (log entries 4 and 10). -/
def Obligations.ResetState : Prop :=
  (∀ c, let k := State.reset.core c
    k.seq.faircyc = 256 ∧ k.seq.wake = 0 ∧ k.seq.trapvec = 0 ∧ k.seq.epc = 0 ∧ k.seq.trapcause = 0 ∧
    k.seq.tflags = 0 ∧ k.seq.trapen = false ∧ k.seq.p.getLsbD 7 = true ∧ k.seq.pc = 0 ∧ k.task = none ∧ k.ops = [] ∧
    k.cmds = [] ∧ k.threads = [] ∧ k.locks = [] ∧ k.fb = [] ∧ k.launchQ = [] ∧ k.claim = none ∧ k.stores = [] ∧
    k.kstores = [] ∧ k.tlb = [] ∧ ∀ a, k.kread a 1 = [0] ∧ k.mem.aread a 1 = [0] ∧ k.mem.pread a 1 = [0]) ∧
  (∀ q, let x := State.reset.queue q
    x.st = .disabled ∧ x.en = false ∧ x.base = 0 ∧ x.size = 0 ∧ x.head = 0 ∧ x.tail = 0 ∧ x.period = 0 ∧ x.budget = 0 ∧
    x.reldl = 0 ∧ x.lead = 0 ∧ x.absdl = BitVec.allOnes 64 ∧ x.remain = 0 ∧ x.repl = 0 ∧ x.ctx = 0 ∧ x.node = none) ∧
  (∀ p, (State.reset.part p).clusters = 0 ∧ (State.reset.part p).yttctx = BitVec.allOnes 32 ∧
    (State.reset.part p).ranges = [] ∧ (State.reset.part p).rwin = Vector.replicate 16 0) ∧
  State.reset.shmode = 1 ∧ State.reset.swapdly = 100 ∧ State.reset.rc.activePosts = [] ∧
  State.reset.ytt.pfx = 0 ∧ State.reset.ytt.devid = 0 ∧ State.reset.ytt.rto = 2000 ∧ State.reset.ytt.retry = 16 ∧
  State.reset.pwr.cap = 1800 ∧ State.reset.pwr.watts = 0 ∧ State.reset.pwr.clk = 1700 ∧ State.reset.pwr.throt = 0 ∧
  State.reset.ticks = 0 ∧ State.reset.ctxs = [] ∧ State.reset.boot.st = .off ∧
  (∀ a, State.reset.dev.byte a = 0) ∧ memoriesWf State.reset = true ∧ PartitionsApart State.reset

/-- R361 refuses a PARTITION_SET that would overlap, and R369 lets no other agent change a partition.
`PartitionsApart` and `memoriesWf` hold at reset (ResetState). That an unlisted byte reads 0 is log entry 10. -/
def Obligations.PartitionsStayApart : Prop :=
  (∀ s t, PartitionsApart s → step s = .next t → PartitionsApart t) ∧
  ∀ s t, memoriesWf s = true → step s = .next t → memoriesWf t = true
end

