-- ==== Sys2Proof/Laws/Encoding.lean ====
section
/-! SUPPORT. Fields and words: reading the fields of a word gives back the fields it was made from, and the other way
round; a decoded word is the encoding of what it decodes to. -/

namespace Sys2Proof

/-! ### Fields of a word -/

theorem bits_append_low {n m : Nat} (a : BitVec n) (b : BitVec m) : (a ++ b).extractLsb' 0 m = b := by
  ext i hi
  simp [BitVec.getLsbD_append, hi]

/-- A field above the last one of a word is a field of the rest of the word. -/
theorem bits_append_above {n m : Nat} (a : BitVec n) (b : BitVec m) (k l : Nat) :
    (a ++ b).extractLsb' (m + k) l = a.extractLsb' k l := by
  ext i hi
  simp [BitVec.getLsbD_append, Nat.add_assoc]

theorem bits_all {n : Nat} (a : BitVec n) : a.extractLsb' 0 n = a := by
  ext i hi
  simp

@[simp] theorem TileFields.ofWord_word (f : TileFields) : TileFields.ofWord f.word = f := by
  obtain ⟨cls, opc, d, a, b, c, md⟩ := f
  simp only [TileFields.ofWord, TileFields.word, TileFields.mk.injEq]
  refine ⟨?_, ?_, ?_, ?_, ?_, ?_, ?_⟩
  · exact (bits_append_above _ md 48 2).trans ((bits_append_above _ c 38 2).trans ((bits_append_above _ b 28 2).trans
      ((bits_append_above _ a 18 2).trans ((bits_append_above _ d 8 2).trans ((bits_append_above _ opc 0 2).trans
      (bits_all cls))))))
  · exact (bits_append_above _ md 40 8).trans ((bits_append_above _ c 30 8).trans ((bits_append_above _ b 20 8).trans
      ((bits_append_above _ a 10 8).trans ((bits_append_above _ d 0 8).trans (bits_append_low cls opc)))))
  · exact (bits_append_above _ md 30 10).trans ((bits_append_above _ c 20 10).trans ((bits_append_above _ b 10 10).trans
      ((bits_append_above _ a 0 10).trans (bits_append_low _ d))))
  · exact (bits_append_above _ md 20 10).trans ((bits_append_above _ c 10 10).trans ((bits_append_above _ b 0 10).trans
      (bits_append_low _ a)))
  · exact (bits_append_above _ md 10 10).trans ((bits_append_above _ c 0 10).trans (bits_append_low _ b))
  · exact (bits_append_above _ md 0 10).trans (bits_append_low _ c)
  · exact bits_append_low _ md

theorem append_bit1 {n : Nat} (x : BitVec n) (b : Bool) : (x ++ bit1 b).getLsbD 0 = b := by
  rw [BitVec.getLsbD_append]
  cases b <;> simp [bit1]

theorem regOf_bits (r : RegNo) : regOf (BitVec.ofFin r : BitVec 6) = r := rfl

@[simp] theorem LSrc.ofBits_bits (x : LSrc) : LSrc.ofBits x.bits = x := by
  obtain ⟨r, lu⟩ := x
  simp only [LSrc.ofBits, LSrc.bits, LSrc.mk.injEq]
  refine ⟨?_, ?_⟩
  · rw [show ((BitVec.ofFin r : BitVec 6) ++ bit1 lu).extractLsb' 1 6 = (BitVec.ofFin r : BitVec 6) from
      (bits_append_above _ (bit1 lu) 0 6).trans (bits_all _)]
    rfl
  · exact append_bit1 _ lu

@[simp] theorem LHead.ofBits_bits (h : LHead) : LHead.ofBits h.bits = h := by
  obtain ⟨la, g, neg⟩ := h
  simp only [LHead.ofBits, LHead.bits, LHead.mk.injEq]
  refine ⟨?_, ?_, ?_⟩
  · exact (bits_append_above _ (bit1 neg) 3 4).trans ((bits_append_above la _ 0 4).trans (bits_all la))
  · rw [show (la ++ (BitVec.ofFin g : BitVec 3) ++ bit1 neg).extractLsb' 1 3 = (BitVec.ofFin g : BitVec 3) from
      (bits_append_above _ (bit1 neg) 0 3).trans (bits_append_low la _)]
    rfl
  · exact append_bit1 _ neg

@[simp] theorem LaneFields.ofWord_word (f : LaneFields) : LaneFields.ofWord f.word = f := by
  obtain ⟨maj, min, h, vd, a, b, c, imm⟩ := f
  simp only [LaneFields.ofWord, LaneFields.word, LaneFields.mk.injEq]
  refine ⟨?_, ?_, ?_, ?_, ?_, ?_, ?_, ?_⟩
  · exact (bits_append_above _ imm 40 6).trans ((bits_append_above _ c.bits 33 6).trans
      ((bits_append_above _ b.bits 26 6).trans ((bits_append_above _ a.bits 19 6).trans
      ((bits_append_above _ (BitVec.ofFin vd : BitVec 6) 13 6).trans ((bits_append_above _ h.bits 5 6).trans
      ((bits_append_above maj min 0 6).trans (bits_all maj)))))))
  · exact (bits_append_above _ imm 35 5).trans ((bits_append_above _ c.bits 28 5).trans
      ((bits_append_above _ b.bits 21 5).trans ((bits_append_above _ a.bits 14 5).trans
      ((bits_append_above _ (BitVec.ofFin vd : BitVec 6) 8 5).trans ((bits_append_above _ h.bits 0 5).trans
      (bits_append_low maj min))))))
  · exact (congrArg LHead.ofBits ((bits_append_above _ imm 27 8).trans ((bits_append_above _ c.bits 20 8).trans
      ((bits_append_above _ b.bits 13 8).trans ((bits_append_above _ a.bits 6 8).trans
      ((bits_append_above _ (BitVec.ofFin vd : BitVec 6) 0 8).trans (bits_append_low _ h.bits))))))).trans
      (LHead.ofBits_bits h)
  · exact congrArg regOf ((bits_append_above _ imm 21 6).trans ((bits_append_above _ c.bits 14 6).trans
      ((bits_append_above _ b.bits 7 6).trans ((bits_append_above _ a.bits 0 6).trans
      (bits_append_low _ (BitVec.ofFin vd : BitVec 6))))))
  · exact (congrArg LSrc.ofBits ((bits_append_above _ imm 14 7).trans ((bits_append_above _ c.bits 7 7).trans
      ((bits_append_above _ b.bits 0 7).trans (bits_append_low _ a.bits))))).trans (LSrc.ofBits_bits a)
  · exact (congrArg LSrc.ofBits ((bits_append_above _ imm 7 7).trans ((bits_append_above _ c.bits 0 7).trans
      (bits_append_low _ b.bits)))).trans (LSrc.ofBits_bits b)
  · exact (congrArg LSrc.ofBits ((bits_append_above _ imm 0 7).trans (bits_append_low _ c.bits))).trans
      (LSrc.ofBits_bits c)
  · exact bits_append_low _ imm

/-! ### Operands of tile words (R70) -/

@[simp] theorem rawS_encS (r : RegNo) : rawS (encS r) = some r := by revert r; decide +kernel
@[simp] theorem rawT_encT (r : RegNo) : rawT (encT r) = some r := by revert r; decide +kernel
@[simp] theorem rawP_encP (p : PredNo) : rawP (encP p) = some p := by revert p; decide +kernel

@[simp] theorem SK.raw_enc (x : SK) : SK.raw x.enc = some x := by
  cases x with
  | s r => revert r; decide +kernel
  | c n => revert n; decide +kernel

@[simp] theorem SKL.raw_enc (x : SKL) : SKL.raw x.enc = some x := by
  cases x with
  | s r => revert r; decide +kernel
  | c n => revert n; decide +kernel
  | l v =>
    suffices h : ∀ n : Fin 256, SKL.raw (SKL.enc (.l (BitVec.ofFin n))) = some (.l (BitVec.ofFin n)) from h v.toFin
    decide +kernel

@[simp] theorem AnyOpd.raw_enc (x : AnyOpd) : AnyOpd.raw x.enc = x := by
  cases x with
  | s r => revert r; decide +kernel
  | t r => revert r; decide +kernel
  | c n => revert n; decide +kernel
  | l v =>
    suffices h : ∀ n : Fin 256, AnyOpd.raw (AnyOpd.enc (.l (BitVec.ofFin n))) = .l (BitVec.ofFin n) from h v.toFin
    decide +kernel

end Sys2Proof
end

