-- ==== Sys2Proof/Laws/Lane.lean ====
section
/-! SUPPORT. What the issue of a lane instruction in one ready thread does: one lemma for the effects, one for the
faults, and the rules by which a thread waits or passes. -/

namespace Sys2Proof

open Machine

/-- An instruction that is issued by `laneAll` with a meaning that answers `out` under `pre`. -/
theorem laneDoes_of {i : Instr} {f : LaneFn} {pre : LaneIn → State → Prop} {out : LaneIn → State → State × LaneRes}
    (he : ∀ s, exec i s = .next (laneAll i f s))
    (hf : ∀ x s, pre x s → f x s = .ok (out x s).1 (out x s).2) : LaneDoes i pre out := by
  refine ⟨laneOne i f, fun s => he s, ?_⟩
  intro t th team s h hp
  have hb : (i.use.named.any fun r => decide (team.entry.budget ≤ r)) = false := by
    have := h.budget
    rw [List.all_eq_true] at this
    rw [List.any_eq_false]
    intro r hr hle
    have := this r hr
    simp at this hle
    omega
  have hc : (if team.entry.check then th.checkFault i else none) = none := by
    by_cases hck : team.entry.check = true
    · simp [hck, h.checks hck]
    · simp [hck]
  have ho := hf _ _ hp
  have hs := h.poison
  simp only [laneIn, Instr.sources] at ho hs
  cases hh : i.laneHead with
  | none =>
    simp [laneOne, h.hasThread, h.hasTeam, hb, hc, laneAwait, h.waits, laneBody, laneIn, Instr.sources, hs, ho, hh]
  | some x =>
    simp [laneOne, h.hasThread, h.hasTeam, hb, hc, laneAwait, h.waits, laneBody, laneIn, Instr.sources, hs, ho, hh,
      h.guard x hh]

/-- The same for a fault. -/
theorem laneFaults_of {i : Instr} {f : LaneFn} {pre : LaneIn → State → Prop} {what : LaneIn → Cause × W64 × W64}
    (he : ∀ s, exec i s = .next (laneAll i f s))
    (hf : ∀ x s, pre x s → f x s = .fault s (what x).1 (what x).2.1 (what x).2.2) : LaneFaults i pre what := by
  refine ⟨laneOne i f, fun s => he s, ?_⟩
  intro t th team s h hp
  have hb : (i.use.named.any fun r => decide (team.entry.budget ≤ r)) = false := by
    have := h.budget
    rw [List.all_eq_true] at this
    rw [List.any_eq_false]
    intro r hr hle
    have := this r hr
    simp at this hle
    omega
  have hc : (if team.entry.check then th.checkFault i else none) = none := by
    by_cases hck : team.entry.check = true
    · simp [hck, h.checks hck]
    · simp [hck]
  have ho := hf _ _ hp
  have hs := h.poison
  simp only [laneIn, Instr.sources] at ho hs
  cases hh : i.laneHead with
  | none =>
    simp [laneOne, h.hasThread, h.hasTeam, hb, hc, laneAwait, h.waits, laneBody, laneIn, Instr.sources, hs, ho, hh]
  | some x =>
    simp [laneOne, h.hasThread, h.hasTeam, hb, hc, laneAwait, h.waits, laneBody, laneIn, Instr.sources, hs, ho, hh,
      h.guard x hh]

end Sys2Proof
end

