-- ==== Sys2Proof/Laws/Memory.lean ====
section
/-! SUPPORT. Laws of memories: a read after a write, and that every memory operation keeps the canonical form. -/

namespace Sys2Proof.Machine

open Sys2Proof

/-! ### Reads after writes -/

theorem memAbove_read {k : Nat} {m : Memory} {a : Nat} (h : memAbove k m = true) (ha : a ≤ k) : memRead m a = 0 := by
  induction m with
  | nil => rfl
  | cons x m ih =>
    obtain ⟨b, v⟩ := x
    simp only [memAbove, Bool.and_eq_true, decide_eq_true_eq] at h
    rw [memRead, if_neg (by omega)]
    exact ih h.2

theorem memAbove_mono {j k : Nat} {m : Memory} (h : memAbove k m = true) (hjk : j ≤ k) : memAbove j m = true := by
  induction m with
  | nil => rfl
  | cons x m ih =>
    simp only [memAbove, Bool.and_eq_true, decide_eq_true_eq] at h ⊢
    exact ⟨by omega, ih h.2⟩

/-- Reading the address just written gives the value written; every other address reads as before. -/
theorem memRead_memPut {m : Memory} (h : m.wf = true) (k a : Nat) (v : Byte) :
    memRead (memPut m k v) a = if a = k then v else memRead m a := by
  induction m with
  | nil =>
    unfold memPut
    split <;> split <;> simp_all [memRead]
    omega
  | cons x m ih =>
    obtain ⟨b, w⟩ := x
    simp only [Memory.wf, Bool.and_eq_true] at h
    have hb := h.1.2
    unfold memPut
    by_cases hak : a = k
    · subst hak
      simp only [↓reduceIte]
      split
      · split
        · subst v
          rw [memRead, if_neg (by omega)]
          exact memAbove_read hb (by omega)
        · simp [memRead]
      · split
        · rename_i hab
          subst hab
          split
          · subst v
            exact memAbove_read hb (Nat.le_refl _)
          · simp [memRead]
        · rw [memRead, if_neg (by omega), ih h.2, if_pos rfl]
    · simp only [hak, ↓reduceIte]
      split
      · split
        · rfl
        · rw [memRead, if_neg (by omega)]
      · split
        · rename_i hab
          subst hab
          have hka : k ≠ a := by omega
          split <;> simp [memRead, hka]
        · simp only [memRead, ih h.2, hak, ↓reduceIte]

/-! ### The canonical form is kept -/

theorem memPut_above {m : Memory} {j k : Nat} {v : Byte} (h : memAbove j m = true) (hjk : j < k) :
    memAbove j (memPut m k v) = true := by
  induction m with
  | nil =>
    unfold memPut
    split <;> simp [memAbove, hjk]
  | cons x m ih =>
    obtain ⟨b, w⟩ := x
    simp only [memAbove, Bool.and_eq_true, decide_eq_true_eq] at h
    unfold memPut
    split
    · split <;> simp [memAbove, h.1, h.2, hjk]
    · split
      · split
        · exact h.2
        · simp [memAbove, h.1, h.2]
      · simp [memAbove, h.1, ih h.2]

/-- Writing one byte keeps the canonical form. -/
theorem memPut_wf {m : Memory} (h : m.wf = true) (k : Nat) (v : Byte) : (memPut m k v).wf = true := by
  induction m with
  | nil =>
    unfold memPut
    split
    · rfl
    · simp_all [Memory.wf, memAbove]
  | cons x m ih =>
    obtain ⟨b, w⟩ := x
    have h' := h
    simp only [Memory.wf, Bool.and_eq_true] at h
    unfold memPut
    split
    · split
      · exact h'
      · rename_i hkb hv
        simp only [Memory.wf, memAbove, Bool.and_eq_true, decide_eq_true_eq, bne_iff_ne, ne_eq]
        exact ⟨⟨hv, hkb, memAbove_mono h.1.2 (by omega)⟩, ⟨by simpa using h.1.1, h.1.2⟩, h.2⟩
    · split
      · split
        · exact h.2
        · rename_i hv
          simp only [Memory.wf, Bool.and_eq_true, bne_iff_ne, ne_eq]
          exact ⟨⟨hv, h.1.2⟩, h.2⟩
      · simp only [Memory.wf, Bool.and_eq_true]
        exact ⟨⟨h.1.1, memPut_above h.1.2 (by omega)⟩, ih h.2⟩

theorem memPutN_wf {m : Memory} (h : m.wf = true) (a : Nat) (bs : List Byte) : (memPutN m a bs).wf = true := by
  induction bs generalizing m a with
  | nil => exact h
  | cons b bs ih => exact ih (memPut_wf h a b) (a + 1)

/-- A write of several bytes: the last write of an address is what it reads. -/
theorem memRead_memPutN {m : Memory} (h : m.wf = true) (a : Nat) (bs : List Byte) (k : Nat) :
    memRead (memPutN m a bs) k = if a ≤ k ∧ k < a + bs.length then bs.getD (k - a) 0 else memRead m k := by
  induction bs generalizing m a with
  | nil => simp [memPutN]
  | cons b bs ih =>
    rw [memPutN, ih (memPut_wf h a b), memRead_memPut h]
    by_cases hk : k = a
    · subst hk; simp
    · by_cases hlt : a ≤ k ∧ k < a + (bs.length + 1)
      · have h1 : a + 1 ≤ k ∧ k < a + 1 + bs.length := by omega
        have h2 : k - a = (k - (a + 1)) + 1 := by omega
        simp [hlt, h1, h2]
      · have h1 : ¬ (a + 1 ≤ k ∧ k < a + 1 + bs.length) := by omega
        rw [if_neg h1, if_neg hk, if_neg (by simpa using hlt)]

theorem filter_above {m : Memory} {k : Nat} (f : Host.Cell → Bool) (h : memAbove k m = true) :
    memAbove k (m.filter f) = true := by
  induction m with
  | nil => rfl
  | cons x m ih =>
    simp only [memAbove, Bool.and_eq_true, decide_eq_true_eq] at h
    rw [List.filter_cons]
    split
    · simp [memAbove, h.1, ih h.2]
    · exact ih h.2

/-- Dropping entries keeps the canonical form. -/
theorem filter_wf {m : Memory} (f : Host.Cell → Bool) (h : m.wf = true) : Memory.wf (m.filter f) = true := by
  induction m with
  | nil => rfl
  | cons x m ih =>
    simp only [Memory.wf, Bool.and_eq_true] at h
    rw [List.filter_cons]
    split
    · simp only [Memory.wf, Bool.and_eq_true]
      exact ⟨⟨h.1.1, filter_above f h.1.2⟩, ih h.2⟩
    · exact ih h.2

theorem memClear_wf {m : Memory} (h : m.wf = true) (lo hi : Nat) : (memClear m lo hi).wf = true := filter_wf _ h

theorem memKeep_wf {m : Memory} (h : m.wf = true) (keep : Nat → Bool) : (memKeep m keep).wf = true := filter_wf _ h

/-! ### Device memory -/

theorem unmark_wf {d : DevMem} (h : d.hbm.wf = true) (g : Nat) : (d.unmark g).hbm.wf = true := by
  unfold DevMem.unmark
  split
  · exact memClear_wf h _ _
  · exact h

theorem unmarkAll_wf {d : DevMem} (h : d.hbm.wf = true) (gs : List Nat) :
    (gs.foldl DevMem.unmark d).hbm.wf = true := by
  induction gs generalizing d with
  | nil => exact h
  | cons g gs ih => exact ih (unmark_wf h g)

/-- A write performed at DEVICE keeps the canonical form of HBM. -/
theorem put_wf {d : DevMem} (h : d.hbm.wf = true) (src : Nat) (kind : WKind) (pa : Nat) (bs : List Byte) :
    (d.put src kind pa bs).hbm.wf = true :=
  memPutN_wf (unmarkAll_wf h _) _ _

/-- Every memory of the machine after reset has its canonical form. -/
theorem reset_memoriesWf : memoriesWf State.reset = true := by decide +kernel

end Sys2Proof.Machine
end

