-- ==== Sys2Proof/Laws/State.lean ====
section
/-! SUPPORT. What each update of the state leaves in each field: one lemma for each field of each update. -/

namespace Sys2Proof.Machine

open Sys2Proof

/-! ### Updates of the state -/

@[simp] theorem State.setCore_now (s : State) (c : CoreNo) (k : Core) : (s.setCore c k).now = s.now := rfl
@[simp] theorem State.setCore_cores (s : State) (c : CoreNo) (k : Core) :
    (s.setCore c k).cores = s.cores.set c.val k := rfl
@[simp] theorem State.setCore_l2tlb (s : State) (c : CoreNo) (k : Core) : (s.setCore c k).l2tlb = s.l2tlb := rfl
@[simp] theorem State.setCore_dev (s : State) (c : CoreNo) (k : Core) : (s.setCore c k).dev = s.dev := rfl
@[simp] theorem State.setCore_ctxs (s : State) (c : CoreNo) (k : Core) : (s.setCore c k).ctxs = s.ctxs := rfl
@[simp] theorem State.setCore_grids (s : State) (c : CoreNo) (k : Core) : (s.setCore c k).grids = s.grids := rfl
@[simp] theorem State.setCore_nextGrid (s : State) (c : CoreNo) (k : Core) :
    (s.setCore c k).nextGrid = s.nextGrid := rfl
@[simp] theorem State.setCore_saves (s : State) (c : CoreNo) (k : Core) : (s.setCore c k).saves = s.saves := rfl
@[simp] theorem State.setCore_queues (s : State) (c : CoreNo) (k : Core) : (s.setCore c k).queues = s.queues := rfl
@[simp] theorem State.setCore_parts (s : State) (c : CoreNo) (k : Core) : (s.setCore c k).parts = s.parts := rfl
@[simp] theorem State.setCore_shmode (s : State) (c : CoreNo) (k : Core) : (s.setCore c k).shmode = s.shmode := rfl
@[simp] theorem State.setCore_swapdly (s : State) (c : CoreNo) (k : Core) : (s.setCore c k).swapdly = s.swapdly := rfl
@[simp] theorem State.setCore_rc (s : State) (c : CoreNo) (k : Core) : (s.setCore c k).rc = s.rc := rfl
@[simp] theorem State.setCore_host (s : State) (c : CoreNo) (k : Core) : (s.setCore c k).host = s.host := rfl
@[simp] theorem State.setCore_ytt (s : State) (c : CoreNo) (k : Core) : (s.setCore c k).ytt = s.ytt := rfl
@[simp] theorem State.setCore_pwr (s : State) (c : CoreNo) (k : Core) : (s.setCore c k).pwr = s.pwr := rfl
@[simp] theorem State.setCore_boot (s : State) (c : CoreNo) (k : Core) : (s.setCore c k).boot = s.boot := rfl
@[simp] theorem State.setCore_mgmt (s : State) (c : CoreNo) (k : Core) : (s.setCore c k).mgmt = s.mgmt := rfl
@[simp] theorem State.setCore_sched (s : State) (c : CoreNo) (k : Core) : (s.setCore c k).sched = s.sched := rfl

@[simp] theorem State.updCore_now (s : State) (c : CoreNo) (f : Core → Core) : (s.updCore c f).now = s.now := rfl
@[simp] theorem State.updCore_cores (s : State) (c : CoreNo) (f : Core → Core) :
    (s.updCore c f).cores = s.cores.set c.val (f (s.core c)) := rfl
@[simp] theorem State.updCore_l2tlb (s : State) (c : CoreNo) (f : Core → Core) :
    (s.updCore c f).l2tlb = s.l2tlb := rfl
@[simp] theorem State.updCore_dev (s : State) (c : CoreNo) (f : Core → Core) : (s.updCore c f).dev = s.dev := rfl
@[simp] theorem State.updCore_ctxs (s : State) (c : CoreNo) (f : Core → Core) : (s.updCore c f).ctxs = s.ctxs := rfl
@[simp] theorem State.updCore_grids (s : State) (c : CoreNo) (f : Core → Core) :
    (s.updCore c f).grids = s.grids := rfl
@[simp] theorem State.updCore_nextGrid (s : State) (c : CoreNo) (f : Core → Core) :
    (s.updCore c f).nextGrid = s.nextGrid := rfl
@[simp] theorem State.updCore_saves (s : State) (c : CoreNo) (f : Core → Core) :
    (s.updCore c f).saves = s.saves := rfl
@[simp] theorem State.updCore_queues (s : State) (c : CoreNo) (f : Core → Core) :
    (s.updCore c f).queues = s.queues := rfl
@[simp] theorem State.updCore_parts (s : State) (c : CoreNo) (f : Core → Core) :
    (s.updCore c f).parts = s.parts := rfl
@[simp] theorem State.updCore_shmode (s : State) (c : CoreNo) (f : Core → Core) :
    (s.updCore c f).shmode = s.shmode := rfl
@[simp] theorem State.updCore_swapdly (s : State) (c : CoreNo) (f : Core → Core) :
    (s.updCore c f).swapdly = s.swapdly := rfl
@[simp] theorem State.updCore_rc (s : State) (c : CoreNo) (f : Core → Core) : (s.updCore c f).rc = s.rc := rfl
@[simp] theorem State.updCore_host (s : State) (c : CoreNo) (f : Core → Core) : (s.updCore c f).host = s.host := rfl
@[simp] theorem State.updCore_ytt (s : State) (c : CoreNo) (f : Core → Core) : (s.updCore c f).ytt = s.ytt := rfl
@[simp] theorem State.updCore_pwr (s : State) (c : CoreNo) (f : Core → Core) : (s.updCore c f).pwr = s.pwr := rfl
@[simp] theorem State.updCore_boot (s : State) (c : CoreNo) (f : Core → Core) : (s.updCore c f).boot = s.boot := rfl
@[simp] theorem State.updCore_mgmt (s : State) (c : CoreNo) (f : Core → Core) : (s.updCore c f).mgmt = s.mgmt := rfl
@[simp] theorem State.updCore_sched (s : State) (c : CoreNo) (f : Core → Core) :
    (s.updCore c f).sched = s.sched := rfl

@[simp] theorem State.updSeq_now (s : State) (c : CoreNo) (f : Seq → Seq) : (s.updSeq c f).now = s.now := rfl
@[simp] theorem State.updSeq_l2tlb (s : State) (c : CoreNo) (f : Seq → Seq) : (s.updSeq c f).l2tlb = s.l2tlb := rfl
@[simp] theorem State.updSeq_dev (s : State) (c : CoreNo) (f : Seq → Seq) : (s.updSeq c f).dev = s.dev := rfl
@[simp] theorem State.updSeq_ctxs (s : State) (c : CoreNo) (f : Seq → Seq) : (s.updSeq c f).ctxs = s.ctxs := rfl
@[simp] theorem State.updSeq_grids (s : State) (c : CoreNo) (f : Seq → Seq) : (s.updSeq c f).grids = s.grids := rfl
@[simp] theorem State.updSeq_nextGrid (s : State) (c : CoreNo) (f : Seq → Seq) :
    (s.updSeq c f).nextGrid = s.nextGrid := rfl
@[simp] theorem State.updSeq_saves (s : State) (c : CoreNo) (f : Seq → Seq) : (s.updSeq c f).saves = s.saves := rfl
@[simp] theorem State.updSeq_queues (s : State) (c : CoreNo) (f : Seq → Seq) : (s.updSeq c f).queues = s.queues := rfl
@[simp] theorem State.updSeq_parts (s : State) (c : CoreNo) (f : Seq → Seq) : (s.updSeq c f).parts = s.parts := rfl
@[simp] theorem State.updSeq_shmode (s : State) (c : CoreNo) (f : Seq → Seq) : (s.updSeq c f).shmode = s.shmode := rfl
@[simp] theorem State.updSeq_swapdly (s : State) (c : CoreNo) (f : Seq → Seq) :
    (s.updSeq c f).swapdly = s.swapdly := rfl
@[simp] theorem State.updSeq_rc (s : State) (c : CoreNo) (f : Seq → Seq) : (s.updSeq c f).rc = s.rc := rfl
@[simp] theorem State.updSeq_host (s : State) (c : CoreNo) (f : Seq → Seq) : (s.updSeq c f).host = s.host := rfl
@[simp] theorem State.updSeq_ytt (s : State) (c : CoreNo) (f : Seq → Seq) : (s.updSeq c f).ytt = s.ytt := rfl
@[simp] theorem State.updSeq_pwr (s : State) (c : CoreNo) (f : Seq → Seq) : (s.updSeq c f).pwr = s.pwr := rfl
@[simp] theorem State.updSeq_boot (s : State) (c : CoreNo) (f : Seq → Seq) : (s.updSeq c f).boot = s.boot := rfl
@[simp] theorem State.updSeq_mgmt (s : State) (c : CoreNo) (f : Seq → Seq) : (s.updSeq c f).mgmt = s.mgmt := rfl
@[simp] theorem State.updSeq_sched (s : State) (c : CoreNo) (f : Seq → Seq) : (s.updSeq c f).sched = s.sched := rfl

@[simp] theorem State.setSched_now (s : State) (x : Sched) : (s.setSched x).now = s.now := rfl
@[simp] theorem State.setSched_cores (s : State) (x : Sched) : (s.setSched x).cores = s.cores := rfl
@[simp] theorem State.setSched_l2tlb (s : State) (x : Sched) : (s.setSched x).l2tlb = s.l2tlb := rfl
@[simp] theorem State.setSched_dev (s : State) (x : Sched) : (s.setSched x).dev = s.dev := rfl
@[simp] theorem State.setSched_ctxs (s : State) (x : Sched) : (s.setSched x).ctxs = s.ctxs := rfl
@[simp] theorem State.setSched_grids (s : State) (x : Sched) : (s.setSched x).grids = s.grids := rfl
@[simp] theorem State.setSched_nextGrid (s : State) (x : Sched) : (s.setSched x).nextGrid = s.nextGrid := rfl
@[simp] theorem State.setSched_saves (s : State) (x : Sched) : (s.setSched x).saves = s.saves := rfl
@[simp] theorem State.setSched_queues (s : State) (x : Sched) : (s.setSched x).queues = s.queues := rfl
@[simp] theorem State.setSched_parts (s : State) (x : Sched) : (s.setSched x).parts = s.parts := rfl
@[simp] theorem State.setSched_shmode (s : State) (x : Sched) : (s.setSched x).shmode = s.shmode := rfl
@[simp] theorem State.setSched_swapdly (s : State) (x : Sched) : (s.setSched x).swapdly = s.swapdly := rfl
@[simp] theorem State.setSched_rc (s : State) (x : Sched) : (s.setSched x).rc = s.rc := rfl
@[simp] theorem State.setSched_host (s : State) (x : Sched) : (s.setSched x).host = s.host := rfl
@[simp] theorem State.setSched_ytt (s : State) (x : Sched) : (s.setSched x).ytt = s.ytt := rfl
@[simp] theorem State.setSched_pwr (s : State) (x : Sched) : (s.setSched x).pwr = s.pwr := rfl
@[simp] theorem State.setSched_boot (s : State) (x : Sched) : (s.setSched x).boot = s.boot := rfl
@[simp] theorem State.setSched_mgmt (s : State) (x : Sched) : (s.setSched x).mgmt = s.mgmt := rfl
@[simp] theorem State.setSched_sched (s : State) (x : Sched) : (s.setSched x).sched = x := rfl

@[simp] theorem State.setDev_now (s : State) (d : DevMem) : (s.setDev d).now = s.now := rfl
@[simp] theorem State.setDev_cores (s : State) (d : DevMem) : (s.setDev d).cores = s.cores := rfl
@[simp] theorem State.setDev_l2tlb (s : State) (d : DevMem) : (s.setDev d).l2tlb = s.l2tlb := rfl
@[simp] theorem State.setDev_dev (s : State) (d : DevMem) : (s.setDev d).dev = d := rfl
@[simp] theorem State.setDev_ctxs (s : State) (d : DevMem) : (s.setDev d).ctxs = s.ctxs := rfl
@[simp] theorem State.setDev_grids (s : State) (d : DevMem) : (s.setDev d).grids = s.grids := rfl
@[simp] theorem State.setDev_nextGrid (s : State) (d : DevMem) : (s.setDev d).nextGrid = s.nextGrid := rfl
@[simp] theorem State.setDev_saves (s : State) (d : DevMem) : (s.setDev d).saves = s.saves := rfl
@[simp] theorem State.setDev_queues (s : State) (d : DevMem) : (s.setDev d).queues = s.queues := rfl
@[simp] theorem State.setDev_parts (s : State) (d : DevMem) : (s.setDev d).parts = s.parts := rfl
@[simp] theorem State.setDev_shmode (s : State) (d : DevMem) : (s.setDev d).shmode = s.shmode := rfl
@[simp] theorem State.setDev_swapdly (s : State) (d : DevMem) : (s.setDev d).swapdly = s.swapdly := rfl
@[simp] theorem State.setDev_rc (s : State) (d : DevMem) : (s.setDev d).rc = s.rc := rfl
@[simp] theorem State.setDev_host (s : State) (d : DevMem) : (s.setDev d).host = s.host := rfl
@[simp] theorem State.setDev_ytt (s : State) (d : DevMem) : (s.setDev d).ytt = s.ytt := rfl
@[simp] theorem State.setDev_pwr (s : State) (d : DevMem) : (s.setDev d).pwr = s.pwr := rfl
@[simp] theorem State.setDev_boot (s : State) (d : DevMem) : (s.setDev d).boot = s.boot := rfl
@[simp] theorem State.setDev_mgmt (s : State) (d : DevMem) : (s.setDev d).mgmt = s.mgmt := rfl
@[simp] theorem State.setDev_sched (s : State) (d : DevMem) : (s.setDev d).sched = s.sched := rfl

@[simp] theorem State.updCtx_now (s : State) (n : W32) (f : Ctx → Ctx) : (s.updCtx n f).now = s.now := rfl
@[simp] theorem State.updCtx_cores (s : State) (n : W32) (f : Ctx → Ctx) : (s.updCtx n f).cores = s.cores := rfl
@[simp] theorem State.updCtx_l2tlb (s : State) (n : W32) (f : Ctx → Ctx) : (s.updCtx n f).l2tlb = s.l2tlb := rfl
@[simp] theorem State.updCtx_dev (s : State) (n : W32) (f : Ctx → Ctx) : (s.updCtx n f).dev = s.dev := rfl
@[simp] theorem State.updCtx_grids (s : State) (n : W32) (f : Ctx → Ctx) : (s.updCtx n f).grids = s.grids := rfl
@[simp] theorem State.updCtx_nextGrid (s : State) (n : W32) (f : Ctx → Ctx) :
    (s.updCtx n f).nextGrid = s.nextGrid := rfl
@[simp] theorem State.updCtx_saves (s : State) (n : W32) (f : Ctx → Ctx) : (s.updCtx n f).saves = s.saves := rfl
@[simp] theorem State.updCtx_queues (s : State) (n : W32) (f : Ctx → Ctx) : (s.updCtx n f).queues = s.queues := rfl
@[simp] theorem State.updCtx_parts (s : State) (n : W32) (f : Ctx → Ctx) : (s.updCtx n f).parts = s.parts := rfl
@[simp] theorem State.updCtx_shmode (s : State) (n : W32) (f : Ctx → Ctx) : (s.updCtx n f).shmode = s.shmode := rfl
@[simp] theorem State.updCtx_swapdly (s : State) (n : W32) (f : Ctx → Ctx) : (s.updCtx n f).swapdly = s.swapdly := rfl
@[simp] theorem State.updCtx_rc (s : State) (n : W32) (f : Ctx → Ctx) : (s.updCtx n f).rc = s.rc := rfl
@[simp] theorem State.updCtx_host (s : State) (n : W32) (f : Ctx → Ctx) : (s.updCtx n f).host = s.host := rfl
@[simp] theorem State.updCtx_ytt (s : State) (n : W32) (f : Ctx → Ctx) : (s.updCtx n f).ytt = s.ytt := rfl
@[simp] theorem State.updCtx_pwr (s : State) (n : W32) (f : Ctx → Ctx) : (s.updCtx n f).pwr = s.pwr := rfl
@[simp] theorem State.updCtx_boot (s : State) (n : W32) (f : Ctx → Ctx) : (s.updCtx n f).boot = s.boot := rfl
@[simp] theorem State.updCtx_mgmt (s : State) (n : W32) (f : Ctx → Ctx) : (s.updCtx n f).mgmt = s.mgmt := rfl
@[simp] theorem State.updCtx_sched (s : State) (n : W32) (f : Ctx → Ctx) : (s.updCtx n f).sched = s.sched := rfl

@[simp] theorem State.updPart_now (s : State) (p : Fin 16) (f : Partition → Partition) :
    (s.updPart p f).now = s.now := rfl
@[simp] theorem State.updPart_cores (s : State) (p : Fin 16) (f : Partition → Partition) :
    (s.updPart p f).cores = s.cores := rfl
@[simp] theorem State.updPart_l2tlb (s : State) (p : Fin 16) (f : Partition → Partition) :
    (s.updPart p f).l2tlb = s.l2tlb := rfl
@[simp] theorem State.updPart_dev (s : State) (p : Fin 16) (f : Partition → Partition) :
    (s.updPart p f).dev = s.dev := rfl
@[simp] theorem State.updPart_ctxs (s : State) (p : Fin 16) (f : Partition → Partition) :
    (s.updPart p f).ctxs = s.ctxs := rfl
@[simp] theorem State.updPart_grids (s : State) (p : Fin 16) (f : Partition → Partition) :
    (s.updPart p f).grids = s.grids := rfl
@[simp] theorem State.updPart_nextGrid (s : State) (p : Fin 16) (f : Partition → Partition) :
    (s.updPart p f).nextGrid = s.nextGrid := rfl
@[simp] theorem State.updPart_saves (s : State) (p : Fin 16) (f : Partition → Partition) :
    (s.updPart p f).saves = s.saves := rfl
@[simp] theorem State.updPart_queues (s : State) (p : Fin 16) (f : Partition → Partition) :
    (s.updPart p f).queues = s.queues := rfl
@[simp] theorem State.updPart_parts (s : State) (p : Fin 16) (f : Partition → Partition) :
    (s.updPart p f).parts = s.parts.set p.val (f s.parts[p.val]) := rfl
@[simp] theorem State.updPart_shmode (s : State) (p : Fin 16) (f : Partition → Partition) :
    (s.updPart p f).shmode = s.shmode := rfl
@[simp] theorem State.updPart_swapdly (s : State) (p : Fin 16) (f : Partition → Partition) :
    (s.updPart p f).swapdly = s.swapdly := rfl
@[simp] theorem State.updPart_rc (s : State) (p : Fin 16) (f : Partition → Partition) :
    (s.updPart p f).rc = s.rc := rfl
@[simp] theorem State.updPart_host (s : State) (p : Fin 16) (f : Partition → Partition) :
    (s.updPart p f).host = s.host := rfl
@[simp] theorem State.updPart_ytt (s : State) (p : Fin 16) (f : Partition → Partition) :
    (s.updPart p f).ytt = s.ytt := rfl
@[simp] theorem State.updPart_pwr (s : State) (p : Fin 16) (f : Partition → Partition) :
    (s.updPart p f).pwr = s.pwr := rfl
@[simp] theorem State.updPart_boot (s : State) (p : Fin 16) (f : Partition → Partition) :
    (s.updPart p f).boot = s.boot := rfl
@[simp] theorem State.updPart_mgmt (s : State) (p : Fin 16) (f : Partition → Partition) :
    (s.updPart p f).mgmt = s.mgmt := rfl
@[simp] theorem State.updPart_sched (s : State) (p : Fin 16) (f : Partition → Partition) :
    (s.updPart p f).sched = s.sched := rfl

@[simp] theorem State.updQueue_now (s : State) (q : Fin 64) (f : Queue → Queue) : (s.updQueue q f).now = s.now := rfl
@[simp] theorem State.updQueue_cores (s : State) (q : Fin 64) (f : Queue → Queue) :
    (s.updQueue q f).cores = s.cores := rfl
@[simp] theorem State.updQueue_l2tlb (s : State) (q : Fin 64) (f : Queue → Queue) :
    (s.updQueue q f).l2tlb = s.l2tlb := rfl
@[simp] theorem State.updQueue_dev (s : State) (q : Fin 64) (f : Queue → Queue) : (s.updQueue q f).dev = s.dev := rfl
@[simp] theorem State.updQueue_ctxs (s : State) (q : Fin 64) (f : Queue → Queue) :
    (s.updQueue q f).ctxs = s.ctxs := rfl
@[simp] theorem State.updQueue_grids (s : State) (q : Fin 64) (f : Queue → Queue) :
    (s.updQueue q f).grids = s.grids := rfl
@[simp] theorem State.updQueue_nextGrid (s : State) (q : Fin 64) (f : Queue → Queue) :
    (s.updQueue q f).nextGrid = s.nextGrid := rfl
@[simp] theorem State.updQueue_saves (s : State) (q : Fin 64) (f : Queue → Queue) :
    (s.updQueue q f).saves = s.saves := rfl
@[simp] theorem State.updQueue_queues (s : State) (q : Fin 64) (f : Queue → Queue) :
    (s.updQueue q f).queues = s.queues.set q.val (f s.queues[q.val]) := rfl
@[simp] theorem State.updQueue_parts (s : State) (q : Fin 64) (f : Queue → Queue) :
    (s.updQueue q f).parts = s.parts := rfl
@[simp] theorem State.updQueue_shmode (s : State) (q : Fin 64) (f : Queue → Queue) :
    (s.updQueue q f).shmode = s.shmode := rfl
@[simp] theorem State.updQueue_swapdly (s : State) (q : Fin 64) (f : Queue → Queue) :
    (s.updQueue q f).swapdly = s.swapdly := rfl
@[simp] theorem State.updQueue_rc (s : State) (q : Fin 64) (f : Queue → Queue) : (s.updQueue q f).rc = s.rc := rfl
@[simp] theorem State.updQueue_host (s : State) (q : Fin 64) (f : Queue → Queue) :
    (s.updQueue q f).host = s.host := rfl
@[simp] theorem State.updQueue_ytt (s : State) (q : Fin 64) (f : Queue → Queue) : (s.updQueue q f).ytt = s.ytt := rfl
@[simp] theorem State.updQueue_pwr (s : State) (q : Fin 64) (f : Queue → Queue) : (s.updQueue q f).pwr = s.pwr := rfl
@[simp] theorem State.updQueue_boot (s : State) (q : Fin 64) (f : Queue → Queue) :
    (s.updQueue q f).boot = s.boot := rfl
@[simp] theorem State.updQueue_mgmt (s : State) (q : Fin 64) (f : Queue → Queue) :
    (s.updQueue q f).mgmt = s.mgmt := rfl
@[simp] theorem State.updQueue_sched (s : State) (q : Fin 64) (f : Queue → Queue) :
    (s.updQueue q f).sched = s.sched := rfl

@[simp] theorem State.kwrite_now (s : State) (c : CoreNo) (a : Nat) (bs : List Byte) :
    (s.kwrite c a bs).now = s.now := rfl
@[simp] theorem State.kwrite_l2tlb (s : State) (c : CoreNo) (a : Nat) (bs : List Byte) :
    (s.kwrite c a bs).l2tlb = s.l2tlb := rfl
@[simp] theorem State.kwrite_dev (s : State) (c : CoreNo) (a : Nat) (bs : List Byte) :
    (s.kwrite c a bs).dev = s.dev := rfl
@[simp] theorem State.kwrite_ctxs (s : State) (c : CoreNo) (a : Nat) (bs : List Byte) :
    (s.kwrite c a bs).ctxs = s.ctxs := rfl
@[simp] theorem State.kwrite_grids (s : State) (c : CoreNo) (a : Nat) (bs : List Byte) :
    (s.kwrite c a bs).grids = s.grids := rfl
@[simp] theorem State.kwrite_nextGrid (s : State) (c : CoreNo) (a : Nat) (bs : List Byte) :
    (s.kwrite c a bs).nextGrid = s.nextGrid := rfl
@[simp] theorem State.kwrite_saves (s : State) (c : CoreNo) (a : Nat) (bs : List Byte) :
    (s.kwrite c a bs).saves = s.saves := rfl
@[simp] theorem State.kwrite_queues (s : State) (c : CoreNo) (a : Nat) (bs : List Byte) :
    (s.kwrite c a bs).queues = s.queues := rfl
@[simp] theorem State.kwrite_parts (s : State) (c : CoreNo) (a : Nat) (bs : List Byte) :
    (s.kwrite c a bs).parts = s.parts := rfl
@[simp] theorem State.kwrite_shmode (s : State) (c : CoreNo) (a : Nat) (bs : List Byte) :
    (s.kwrite c a bs).shmode = s.shmode := rfl
@[simp] theorem State.kwrite_swapdly (s : State) (c : CoreNo) (a : Nat) (bs : List Byte) :
    (s.kwrite c a bs).swapdly = s.swapdly := rfl
@[simp] theorem State.kwrite_rc (s : State) (c : CoreNo) (a : Nat) (bs : List Byte) :
    (s.kwrite c a bs).rc = s.rc := rfl
@[simp] theorem State.kwrite_host (s : State) (c : CoreNo) (a : Nat) (bs : List Byte) :
    (s.kwrite c a bs).host = s.host := rfl
@[simp] theorem State.kwrite_ytt (s : State) (c : CoreNo) (a : Nat) (bs : List Byte) :
    (s.kwrite c a bs).ytt = s.ytt := rfl
@[simp] theorem State.kwrite_pwr (s : State) (c : CoreNo) (a : Nat) (bs : List Byte) :
    (s.kwrite c a bs).pwr = s.pwr := rfl
@[simp] theorem State.kwrite_boot (s : State) (c : CoreNo) (a : Nat) (bs : List Byte) :
    (s.kwrite c a bs).boot = s.boot := rfl
@[simp] theorem State.kwrite_mgmt (s : State) (c : CoreNo) (a : Nat) (bs : List Byte) :
    (s.kwrite c a bs).mgmt = s.mgmt := rfl
@[simp] theorem State.kwrite_sched (s : State) (c : CoreNo) (a : Nat) (bs : List Byte) :
    (s.kwrite c a bs).sched = s.sched := rfl

@[simp] theorem State.updThread_now (s : State) (c : CoreNo) (lane : Nat) (slot : Nat) (f : Thread → Thread) :
    (s.updThread c lane slot f).now = s.now := rfl
@[simp] theorem State.updThread_l2tlb (s : State) (c : CoreNo) (lane : Nat) (slot : Nat) (f : Thread → Thread) :
    (s.updThread c lane slot f).l2tlb = s.l2tlb := rfl
@[simp] theorem State.updThread_dev (s : State) (c : CoreNo) (lane : Nat) (slot : Nat) (f : Thread → Thread) :
    (s.updThread c lane slot f).dev = s.dev := rfl
@[simp] theorem State.updThread_ctxs (s : State) (c : CoreNo) (lane : Nat) (slot : Nat) (f : Thread → Thread) :
    (s.updThread c lane slot f).ctxs = s.ctxs := rfl
@[simp] theorem State.updThread_grids (s : State) (c : CoreNo) (lane : Nat) (slot : Nat) (f : Thread → Thread) :
    (s.updThread c lane slot f).grids = s.grids := rfl
@[simp] theorem State.updThread_nextGrid (s : State) (c : CoreNo) (lane : Nat) (slot : Nat) (f : Thread → Thread) :
    (s.updThread c lane slot f).nextGrid = s.nextGrid := rfl
@[simp] theorem State.updThread_saves (s : State) (c : CoreNo) (lane : Nat) (slot : Nat) (f : Thread → Thread) :
    (s.updThread c lane slot f).saves = s.saves := rfl
@[simp] theorem State.updThread_queues (s : State) (c : CoreNo) (lane : Nat) (slot : Nat) (f : Thread → Thread) :
    (s.updThread c lane slot f).queues = s.queues := rfl
@[simp] theorem State.updThread_parts (s : State) (c : CoreNo) (lane : Nat) (slot : Nat) (f : Thread → Thread) :
    (s.updThread c lane slot f).parts = s.parts := rfl
@[simp] theorem State.updThread_shmode (s : State) (c : CoreNo) (lane : Nat) (slot : Nat) (f : Thread → Thread) :
    (s.updThread c lane slot f).shmode = s.shmode := rfl
@[simp] theorem State.updThread_swapdly (s : State) (c : CoreNo) (lane : Nat) (slot : Nat) (f : Thread → Thread) :
    (s.updThread c lane slot f).swapdly = s.swapdly := rfl
@[simp] theorem State.updThread_rc (s : State) (c : CoreNo) (lane : Nat) (slot : Nat) (f : Thread → Thread) :
    (s.updThread c lane slot f).rc = s.rc := rfl
@[simp] theorem State.updThread_host (s : State) (c : CoreNo) (lane : Nat) (slot : Nat) (f : Thread → Thread) :
    (s.updThread c lane slot f).host = s.host := rfl
@[simp] theorem State.updThread_ytt (s : State) (c : CoreNo) (lane : Nat) (slot : Nat) (f : Thread → Thread) :
    (s.updThread c lane slot f).ytt = s.ytt := rfl
@[simp] theorem State.updThread_pwr (s : State) (c : CoreNo) (lane : Nat) (slot : Nat) (f : Thread → Thread) :
    (s.updThread c lane slot f).pwr = s.pwr := rfl
@[simp] theorem State.updThread_boot (s : State) (c : CoreNo) (lane : Nat) (slot : Nat) (f : Thread → Thread) :
    (s.updThread c lane slot f).boot = s.boot := rfl
@[simp] theorem State.updThread_mgmt (s : State) (c : CoreNo) (lane : Nat) (slot : Nat) (f : Thread → Thread) :
    (s.updThread c lane slot f).mgmt = s.mgmt := rfl
@[simp] theorem State.updThread_sched (s : State) (c : CoreNo) (lane : Nat) (slot : Nat) (f : Thread → Thread) :
    (s.updThread c lane slot f).sched = s.sched := rfl

@[simp] theorem State.onThread_now (s : State) (t : TRef) (f : Thread → Thread) : (s.onThread t f).now = s.now := rfl
@[simp] theorem State.onThread_l2tlb (s : State) (t : TRef) (f : Thread → Thread) :
    (s.onThread t f).l2tlb = s.l2tlb := rfl
@[simp] theorem State.onThread_dev (s : State) (t : TRef) (f : Thread → Thread) : (s.onThread t f).dev = s.dev := rfl
@[simp] theorem State.onThread_ctxs (s : State) (t : TRef) (f : Thread → Thread) :
    (s.onThread t f).ctxs = s.ctxs := rfl
@[simp] theorem State.onThread_grids (s : State) (t : TRef) (f : Thread → Thread) :
    (s.onThread t f).grids = s.grids := rfl
@[simp] theorem State.onThread_nextGrid (s : State) (t : TRef) (f : Thread → Thread) :
    (s.onThread t f).nextGrid = s.nextGrid := rfl
@[simp] theorem State.onThread_saves (s : State) (t : TRef) (f : Thread → Thread) :
    (s.onThread t f).saves = s.saves := rfl
@[simp] theorem State.onThread_queues (s : State) (t : TRef) (f : Thread → Thread) :
    (s.onThread t f).queues = s.queues := rfl
@[simp] theorem State.onThread_parts (s : State) (t : TRef) (f : Thread → Thread) :
    (s.onThread t f).parts = s.parts := rfl
@[simp] theorem State.onThread_shmode (s : State) (t : TRef) (f : Thread → Thread) :
    (s.onThread t f).shmode = s.shmode := rfl
@[simp] theorem State.onThread_swapdly (s : State) (t : TRef) (f : Thread → Thread) :
    (s.onThread t f).swapdly = s.swapdly := rfl
@[simp] theorem State.onThread_rc (s : State) (t : TRef) (f : Thread → Thread) : (s.onThread t f).rc = s.rc := rfl
@[simp] theorem State.onThread_host (s : State) (t : TRef) (f : Thread → Thread) :
    (s.onThread t f).host = s.host := rfl
@[simp] theorem State.onThread_ytt (s : State) (t : TRef) (f : Thread → Thread) : (s.onThread t f).ytt = s.ytt := rfl
@[simp] theorem State.onThread_pwr (s : State) (t : TRef) (f : Thread → Thread) : (s.onThread t f).pwr = s.pwr := rfl
@[simp] theorem State.onThread_boot (s : State) (t : TRef) (f : Thread → Thread) :
    (s.onThread t f).boot = s.boot := rfl
@[simp] theorem State.onThread_mgmt (s : State) (t : TRef) (f : Thread → Thread) :
    (s.onThread t f).mgmt = s.mgmt := rfl
@[simp] theorem State.onThread_sched (s : State) (t : TRef) (f : Thread → Thread) :
    (s.onThread t f).sched = s.sched := rfl

@[simp] theorem State.seqDone_now (s : State) (c : CoreNo) : (s.seqDone c).now = s.now := rfl
@[simp] theorem State.seqDone_l2tlb (s : State) (c : CoreNo) : (s.seqDone c).l2tlb = s.l2tlb := rfl
@[simp] theorem State.seqDone_dev (s : State) (c : CoreNo) : (s.seqDone c).dev = s.dev := rfl
@[simp] theorem State.seqDone_ctxs (s : State) (c : CoreNo) : (s.seqDone c).ctxs = s.ctxs := rfl
@[simp] theorem State.seqDone_grids (s : State) (c : CoreNo) : (s.seqDone c).grids = s.grids := rfl
@[simp] theorem State.seqDone_nextGrid (s : State) (c : CoreNo) : (s.seqDone c).nextGrid = s.nextGrid := rfl
@[simp] theorem State.seqDone_saves (s : State) (c : CoreNo) : (s.seqDone c).saves = s.saves := rfl
@[simp] theorem State.seqDone_queues (s : State) (c : CoreNo) : (s.seqDone c).queues = s.queues := rfl
@[simp] theorem State.seqDone_parts (s : State) (c : CoreNo) : (s.seqDone c).parts = s.parts := rfl
@[simp] theorem State.seqDone_shmode (s : State) (c : CoreNo) : (s.seqDone c).shmode = s.shmode := rfl
@[simp] theorem State.seqDone_swapdly (s : State) (c : CoreNo) : (s.seqDone c).swapdly = s.swapdly := rfl
@[simp] theorem State.seqDone_rc (s : State) (c : CoreNo) : (s.seqDone c).rc = s.rc := rfl
@[simp] theorem State.seqDone_host (s : State) (c : CoreNo) : (s.seqDone c).host = s.host := rfl
@[simp] theorem State.seqDone_ytt (s : State) (c : CoreNo) : (s.seqDone c).ytt = s.ytt := rfl
@[simp] theorem State.seqDone_pwr (s : State) (c : CoreNo) : (s.seqDone c).pwr = s.pwr := rfl
@[simp] theorem State.seqDone_boot (s : State) (c : CoreNo) : (s.seqDone c).boot = s.boot := rfl
@[simp] theorem State.seqDone_mgmt (s : State) (c : CoreNo) : (s.seqDone c).mgmt = s.mgmt := rfl
@[simp] theorem State.seqDone_sched (s : State) (c : CoreNo) : (s.seqDone c).sched = s.sched := rfl

@[simp] theorem State.toMgmt_now (s : State) (e : MgmtEvent) : (s.toMgmt e).now = s.now := rfl
@[simp] theorem State.toMgmt_cores (s : State) (e : MgmtEvent) : (s.toMgmt e).cores = s.cores := rfl
@[simp] theorem State.toMgmt_l2tlb (s : State) (e : MgmtEvent) : (s.toMgmt e).l2tlb = s.l2tlb := rfl
@[simp] theorem State.toMgmt_dev (s : State) (e : MgmtEvent) : (s.toMgmt e).dev = s.dev := rfl
@[simp] theorem State.toMgmt_ctxs (s : State) (e : MgmtEvent) : (s.toMgmt e).ctxs = s.ctxs := rfl
@[simp] theorem State.toMgmt_grids (s : State) (e : MgmtEvent) : (s.toMgmt e).grids = s.grids := rfl
@[simp] theorem State.toMgmt_nextGrid (s : State) (e : MgmtEvent) : (s.toMgmt e).nextGrid = s.nextGrid := rfl
@[simp] theorem State.toMgmt_saves (s : State) (e : MgmtEvent) : (s.toMgmt e).saves = s.saves := rfl
@[simp] theorem State.toMgmt_queues (s : State) (e : MgmtEvent) : (s.toMgmt e).queues = s.queues := rfl
@[simp] theorem State.toMgmt_parts (s : State) (e : MgmtEvent) : (s.toMgmt e).parts = s.parts := rfl
@[simp] theorem State.toMgmt_shmode (s : State) (e : MgmtEvent) : (s.toMgmt e).shmode = s.shmode := rfl
@[simp] theorem State.toMgmt_swapdly (s : State) (e : MgmtEvent) : (s.toMgmt e).swapdly = s.swapdly := rfl
@[simp] theorem State.toMgmt_rc (s : State) (e : MgmtEvent) : (s.toMgmt e).rc = s.rc := rfl
@[simp] theorem State.toMgmt_host (s : State) (e : MgmtEvent) : (s.toMgmt e).host = s.host := rfl
@[simp] theorem State.toMgmt_ytt (s : State) (e : MgmtEvent) : (s.toMgmt e).ytt = s.ytt := rfl
@[simp] theorem State.toMgmt_pwr (s : State) (e : MgmtEvent) : (s.toMgmt e).pwr = s.pwr := rfl
@[simp] theorem State.toMgmt_boot (s : State) (e : MgmtEvent) : (s.toMgmt e).boot = s.boot := rfl
@[simp] theorem State.toMgmt_mgmt (s : State) (e : MgmtEvent) : (s.toMgmt e).mgmt = s.mgmt ++ [e] := rfl
@[simp] theorem State.toMgmt_sched (s : State) (e : MgmtEvent) : (s.toMgmt e).sched = s.sched := rfl

@[simp] theorem State.setHost_now (s : State) (h : HostPort) : (s.setHost h).now = s.now := rfl
@[simp] theorem State.setHost_cores (s : State) (h : HostPort) : (s.setHost h).cores = s.cores := rfl
@[simp] theorem State.setHost_l2tlb (s : State) (h : HostPort) : (s.setHost h).l2tlb = s.l2tlb := rfl
@[simp] theorem State.setHost_dev (s : State) (h : HostPort) : (s.setHost h).dev = s.dev := rfl
@[simp] theorem State.setHost_ctxs (s : State) (h : HostPort) : (s.setHost h).ctxs = s.ctxs := rfl
@[simp] theorem State.setHost_grids (s : State) (h : HostPort) : (s.setHost h).grids = s.grids := rfl
@[simp] theorem State.setHost_nextGrid (s : State) (h : HostPort) : (s.setHost h).nextGrid = s.nextGrid := rfl
@[simp] theorem State.setHost_saves (s : State) (h : HostPort) : (s.setHost h).saves = s.saves := rfl
@[simp] theorem State.setHost_queues (s : State) (h : HostPort) : (s.setHost h).queues = s.queues := rfl
@[simp] theorem State.setHost_parts (s : State) (h : HostPort) : (s.setHost h).parts = s.parts := rfl
@[simp] theorem State.setHost_shmode (s : State) (h : HostPort) : (s.setHost h).shmode = s.shmode := rfl
@[simp] theorem State.setHost_swapdly (s : State) (h : HostPort) : (s.setHost h).swapdly = s.swapdly := rfl
@[simp] theorem State.setHost_rc (s : State) (h : HostPort) : (s.setHost h).rc = s.rc := rfl
@[simp] theorem State.setHost_host (s : State) (h : HostPort) : (s.setHost h).host = h := rfl
@[simp] theorem State.setHost_ytt (s : State) (h : HostPort) : (s.setHost h).ytt = s.ytt := rfl
@[simp] theorem State.setHost_pwr (s : State) (h : HostPort) : (s.setHost h).pwr = s.pwr := rfl
@[simp] theorem State.setHost_boot (s : State) (h : HostPort) : (s.setHost h).boot = s.boot := rfl
@[simp] theorem State.setHost_mgmt (s : State) (h : HostPort) : (s.setHost h).mgmt = s.mgmt := rfl
@[simp] theorem State.setHost_sched (s : State) (h : HostPort) : (s.setHost h).sched = s.sched := rfl

@[simp] theorem State.setRc_now (s : State) (r : Recall) : (s.setRc r).now = s.now := rfl
@[simp] theorem State.setRc_cores (s : State) (r : Recall) : (s.setRc r).cores = s.cores := rfl
@[simp] theorem State.setRc_l2tlb (s : State) (r : Recall) : (s.setRc r).l2tlb = s.l2tlb := rfl
@[simp] theorem State.setRc_dev (s : State) (r : Recall) : (s.setRc r).dev = s.dev := rfl
@[simp] theorem State.setRc_ctxs (s : State) (r : Recall) : (s.setRc r).ctxs = s.ctxs := rfl
@[simp] theorem State.setRc_grids (s : State) (r : Recall) : (s.setRc r).grids = s.grids := rfl
@[simp] theorem State.setRc_nextGrid (s : State) (r : Recall) : (s.setRc r).nextGrid = s.nextGrid := rfl
@[simp] theorem State.setRc_saves (s : State) (r : Recall) : (s.setRc r).saves = s.saves := rfl
@[simp] theorem State.setRc_queues (s : State) (r : Recall) : (s.setRc r).queues = s.queues := rfl
@[simp] theorem State.setRc_parts (s : State) (r : Recall) : (s.setRc r).parts = s.parts := rfl
@[simp] theorem State.setRc_shmode (s : State) (r : Recall) : (s.setRc r).shmode = s.shmode := rfl
@[simp] theorem State.setRc_swapdly (s : State) (r : Recall) : (s.setRc r).swapdly = s.swapdly := rfl
@[simp] theorem State.setRc_rc (s : State) (r : Recall) : (s.setRc r).rc = r := rfl
@[simp] theorem State.setRc_host (s : State) (r : Recall) : (s.setRc r).host = s.host := rfl
@[simp] theorem State.setRc_ytt (s : State) (r : Recall) : (s.setRc r).ytt = s.ytt := rfl
@[simp] theorem State.setRc_pwr (s : State) (r : Recall) : (s.setRc r).pwr = s.pwr := rfl
@[simp] theorem State.setRc_boot (s : State) (r : Recall) : (s.setRc r).boot = s.boot := rfl
@[simp] theorem State.setRc_mgmt (s : State) (r : Recall) : (s.setRc r).mgmt = s.mgmt := rfl
@[simp] theorem State.setRc_sched (s : State) (r : Recall) : (s.setRc r).sched = s.sched := rfl

@[simp] theorem State.homePut_now (s : State) (src : Nat) (kind : WKind) (ctx : W32) (pidx : Nat) (replay : Bool) (pa : Nat) (bs : List Byte) :
    (s.homePut src kind ctx pidx replay pa bs).now = s.now := rfl
@[simp] theorem State.homePut_cores (s : State) (src : Nat) (kind : WKind) (ctx : W32) (pidx : Nat) (replay : Bool) (pa : Nat) (bs : List Byte) :
    (s.homePut src kind ctx pidx replay pa bs).cores = s.cores := rfl
@[simp] theorem State.homePut_l2tlb (s : State) (src : Nat) (kind : WKind) (ctx : W32) (pidx : Nat) (replay : Bool) (pa : Nat) (bs : List Byte) :
    (s.homePut src kind ctx pidx replay pa bs).l2tlb = s.l2tlb := rfl
@[simp] theorem State.homePut_ctxs (s : State) (src : Nat) (kind : WKind) (ctx : W32) (pidx : Nat) (replay : Bool) (pa : Nat) (bs : List Byte) :
    (s.homePut src kind ctx pidx replay pa bs).ctxs = s.ctxs := rfl
@[simp] theorem State.homePut_grids (s : State) (src : Nat) (kind : WKind) (ctx : W32) (pidx : Nat) (replay : Bool) (pa : Nat) (bs : List Byte) :
    (s.homePut src kind ctx pidx replay pa bs).grids = s.grids := rfl
@[simp] theorem State.homePut_nextGrid (s : State) (src : Nat) (kind : WKind) (ctx : W32) (pidx : Nat) (replay : Bool) (pa : Nat) (bs : List Byte) :
    (s.homePut src kind ctx pidx replay pa bs).nextGrid = s.nextGrid := rfl
@[simp] theorem State.homePut_saves (s : State) (src : Nat) (kind : WKind) (ctx : W32) (pidx : Nat) (replay : Bool) (pa : Nat) (bs : List Byte) :
    (s.homePut src kind ctx pidx replay pa bs).saves = s.saves := rfl
@[simp] theorem State.homePut_queues (s : State) (src : Nat) (kind : WKind) (ctx : W32) (pidx : Nat) (replay : Bool) (pa : Nat) (bs : List Byte) :
    (s.homePut src kind ctx pidx replay pa bs).queues = s.queues := rfl
@[simp] theorem State.homePut_parts (s : State) (src : Nat) (kind : WKind) (ctx : W32) (pidx : Nat) (replay : Bool) (pa : Nat) (bs : List Byte) :
    (s.homePut src kind ctx pidx replay pa bs).parts = s.parts := rfl
@[simp] theorem State.homePut_shmode (s : State) (src : Nat) (kind : WKind) (ctx : W32) (pidx : Nat) (replay : Bool) (pa : Nat) (bs : List Byte) :
    (s.homePut src kind ctx pidx replay pa bs).shmode = s.shmode := rfl
@[simp] theorem State.homePut_swapdly (s : State) (src : Nat) (kind : WKind) (ctx : W32) (pidx : Nat) (replay : Bool) (pa : Nat) (bs : List Byte) :
    (s.homePut src kind ctx pidx replay pa bs).swapdly = s.swapdly := rfl
@[simp] theorem State.homePut_rc (s : State) (src : Nat) (kind : WKind) (ctx : W32) (pidx : Nat) (replay : Bool) (pa : Nat) (bs : List Byte) :
    (s.homePut src kind ctx pidx replay pa bs).rc = s.rc := rfl
@[simp] theorem State.homePut_host (s : State) (src : Nat) (kind : WKind) (ctx : W32) (pidx : Nat) (replay : Bool) (pa : Nat) (bs : List Byte) :
    (s.homePut src kind ctx pidx replay pa bs).host = s.host := rfl
@[simp] theorem State.homePut_ytt (s : State) (src : Nat) (kind : WKind) (ctx : W32) (pidx : Nat) (replay : Bool) (pa : Nat) (bs : List Byte) :
    (s.homePut src kind ctx pidx replay pa bs).ytt = s.ytt := rfl
@[simp] theorem State.homePut_pwr (s : State) (src : Nat) (kind : WKind) (ctx : W32) (pidx : Nat) (replay : Bool) (pa : Nat) (bs : List Byte) :
    (s.homePut src kind ctx pidx replay pa bs).pwr = s.pwr := rfl
@[simp] theorem State.homePut_boot (s : State) (src : Nat) (kind : WKind) (ctx : W32) (pidx : Nat) (replay : Bool) (pa : Nat) (bs : List Byte) :
    (s.homePut src kind ctx pidx replay pa bs).boot = s.boot := rfl
@[simp] theorem State.homePut_mgmt (s : State) (src : Nat) (kind : WKind) (ctx : W32) (pidx : Nat) (replay : Bool) (pa : Nat) (bs : List Byte) :
    (s.homePut src kind ctx pidx replay pa bs).mgmt = s.mgmt := rfl
@[simp] theorem State.homePut_sched (s : State) (src : Nat) (kind : WKind) (ctx : W32) (pidx : Nat) (replay : Bool) (pa : Nat) (bs : List Byte) :
    (s.homePut src kind ctx pidx replay pa bs).sched = s.sched := rfl

/-- What no step of a fold changes stands after it. -/
theorem foldl_keeps {σ α β : Type} (g : σ → β) (f : σ → α → σ) (h : ∀ s x, g (f s x) = g s) (s : σ) (xs : List α) :
    g (xs.foldl f s) = g s := by
  induction xs generalizing s with
  | nil => rfl
  | cons x xs ih => rw [List.foldl_cons, ih, h]

@[simp] theorem State.landHeld_now (s : State) (h : Held) : (s.landHeld h).now = s.now := rfl
@[simp] theorem State.landHeld_l2tlb (s : State) (h : Held) : (s.landHeld h).l2tlb = s.l2tlb := rfl
@[simp] theorem State.landHeld_ctxs (s : State) (h : Held) : (s.landHeld h).ctxs = s.ctxs := rfl
@[simp] theorem State.landHeld_grids (s : State) (h : Held) : (s.landHeld h).grids = s.grids := rfl
@[simp] theorem State.landHeld_nextGrid (s : State) (h : Held) : (s.landHeld h).nextGrid = s.nextGrid := rfl
@[simp] theorem State.landHeld_saves (s : State) (h : Held) : (s.landHeld h).saves = s.saves := rfl
@[simp] theorem State.landHeld_queues (s : State) (h : Held) : (s.landHeld h).queues = s.queues := rfl
@[simp] theorem State.landHeld_parts (s : State) (h : Held) : (s.landHeld h).parts = s.parts := rfl
@[simp] theorem State.landHeld_shmode (s : State) (h : Held) : (s.landHeld h).shmode = s.shmode := rfl
@[simp] theorem State.landHeld_swapdly (s : State) (h : Held) : (s.landHeld h).swapdly = s.swapdly := rfl
@[simp] theorem State.landHeld_rc (s : State) (h : Held) : (s.landHeld h).rc = s.rc := rfl
@[simp] theorem State.landHeld_host (s : State) (h : Held) : (s.landHeld h).host = s.host := rfl
@[simp] theorem State.landHeld_ytt (s : State) (h : Held) : (s.landHeld h).ytt = s.ytt := rfl
@[simp] theorem State.landHeld_pwr (s : State) (h : Held) : (s.landHeld h).pwr = s.pwr := rfl
@[simp] theorem State.landHeld_boot (s : State) (h : Held) : (s.landHeld h).boot = s.boot := rfl
@[simp] theorem State.landHeld_mgmt (s : State) (h : Held) : (s.landHeld h).mgmt = s.mgmt := rfl
@[simp] theorem State.landHeld_sched (s : State) (h : Held) : (s.landHeld h).sched = s.sched := rfl

@[simp] theorem State.flushHeld_now (s : State) (take : Held → Bool) :
    (s.flushHeld take).now = s.now := foldl_keeps State.now State.landHeld (fun _ _ => rfl) _ _
@[simp] theorem State.flushHeld_l2tlb (s : State) (take : Held → Bool) :
    (s.flushHeld take).l2tlb = s.l2tlb := foldl_keeps State.l2tlb State.landHeld (fun _ _ => rfl) _ _
@[simp] theorem State.flushHeld_ctxs (s : State) (take : Held → Bool) :
    (s.flushHeld take).ctxs = s.ctxs := foldl_keeps State.ctxs State.landHeld (fun _ _ => rfl) _ _
@[simp] theorem State.flushHeld_grids (s : State) (take : Held → Bool) :
    (s.flushHeld take).grids = s.grids := foldl_keeps State.grids State.landHeld (fun _ _ => rfl) _ _
@[simp] theorem State.flushHeld_nextGrid (s : State) (take : Held → Bool) :
    (s.flushHeld take).nextGrid = s.nextGrid := foldl_keeps State.nextGrid State.landHeld (fun _ _ => rfl) _ _
@[simp] theorem State.flushHeld_saves (s : State) (take : Held → Bool) :
    (s.flushHeld take).saves = s.saves := foldl_keeps State.saves State.landHeld (fun _ _ => rfl) _ _
@[simp] theorem State.flushHeld_queues (s : State) (take : Held → Bool) :
    (s.flushHeld take).queues = s.queues := foldl_keeps State.queues State.landHeld (fun _ _ => rfl) _ _
@[simp] theorem State.flushHeld_parts (s : State) (take : Held → Bool) :
    (s.flushHeld take).parts = s.parts := foldl_keeps State.parts State.landHeld (fun _ _ => rfl) _ _
@[simp] theorem State.flushHeld_shmode (s : State) (take : Held → Bool) :
    (s.flushHeld take).shmode = s.shmode := foldl_keeps State.shmode State.landHeld (fun _ _ => rfl) _ _
@[simp] theorem State.flushHeld_swapdly (s : State) (take : Held → Bool) :
    (s.flushHeld take).swapdly = s.swapdly := foldl_keeps State.swapdly State.landHeld (fun _ _ => rfl) _ _
@[simp] theorem State.flushHeld_rc (s : State) (take : Held → Bool) :
    (s.flushHeld take).rc = s.rc := foldl_keeps State.rc State.landHeld (fun _ _ => rfl) _ _
@[simp] theorem State.flushHeld_host (s : State) (take : Held → Bool) :
    (s.flushHeld take).host = s.host := foldl_keeps State.host State.landHeld (fun _ _ => rfl) _ _
@[simp] theorem State.flushHeld_ytt (s : State) (take : Held → Bool) :
    (s.flushHeld take).ytt = s.ytt := foldl_keeps State.ytt State.landHeld (fun _ _ => rfl) _ _
@[simp] theorem State.flushHeld_pwr (s : State) (take : Held → Bool) :
    (s.flushHeld take).pwr = s.pwr := foldl_keeps State.pwr State.landHeld (fun _ _ => rfl) _ _
@[simp] theorem State.flushHeld_boot (s : State) (take : Held → Bool) :
    (s.flushHeld take).boot = s.boot := foldl_keeps State.boot State.landHeld (fun _ _ => rfl) _ _
@[simp] theorem State.flushHeld_mgmt (s : State) (take : Held → Bool) :
    (s.flushHeld take).mgmt = s.mgmt := foldl_keeps State.mgmt State.landHeld (fun _ _ => rfl) _ _
@[simp] theorem State.flushHeld_sched (s : State) (take : Held → Bool) :
    (s.flushHeld take).sched = s.sched := foldl_keeps State.sched State.landHeld (fun _ _ => rfl) _ _

@[simp] theorem State.homeWrite_now (s : State) (src : Nat) (kind : WKind) (ctx : W32) (pidx : Nat) (replay : Bool) (pa : Nat) (bs : List Byte) :
    (s.homeWrite src kind ctx pidx replay pa bs).now = s.now := by simp [State.homeWrite]
@[simp] theorem State.homeWrite_l2tlb (s : State) (src : Nat) (kind : WKind) (ctx : W32) (pidx : Nat) (replay : Bool) (pa : Nat) (bs : List Byte) :
    (s.homeWrite src kind ctx pidx replay pa bs).l2tlb = s.l2tlb := by simp [State.homeWrite]
@[simp] theorem State.homeWrite_ctxs (s : State) (src : Nat) (kind : WKind) (ctx : W32) (pidx : Nat) (replay : Bool) (pa : Nat) (bs : List Byte) :
    (s.homeWrite src kind ctx pidx replay pa bs).ctxs = s.ctxs := by simp [State.homeWrite]
@[simp] theorem State.homeWrite_grids (s : State) (src : Nat) (kind : WKind) (ctx : W32) (pidx : Nat) (replay : Bool) (pa : Nat) (bs : List Byte) :
    (s.homeWrite src kind ctx pidx replay pa bs).grids = s.grids := by simp [State.homeWrite]
@[simp] theorem State.homeWrite_nextGrid (s : State) (src : Nat) (kind : WKind) (ctx : W32) (pidx : Nat) (replay : Bool) (pa : Nat) (bs : List Byte) :
    (s.homeWrite src kind ctx pidx replay pa bs).nextGrid = s.nextGrid := by simp [State.homeWrite]
@[simp] theorem State.homeWrite_saves (s : State) (src : Nat) (kind : WKind) (ctx : W32) (pidx : Nat) (replay : Bool) (pa : Nat) (bs : List Byte) :
    (s.homeWrite src kind ctx pidx replay pa bs).saves = s.saves := by simp [State.homeWrite]
@[simp] theorem State.homeWrite_queues (s : State) (src : Nat) (kind : WKind) (ctx : W32) (pidx : Nat) (replay : Bool) (pa : Nat) (bs : List Byte) :
    (s.homeWrite src kind ctx pidx replay pa bs).queues = s.queues := by simp [State.homeWrite]
@[simp] theorem State.homeWrite_parts (s : State) (src : Nat) (kind : WKind) (ctx : W32) (pidx : Nat) (replay : Bool) (pa : Nat) (bs : List Byte) :
    (s.homeWrite src kind ctx pidx replay pa bs).parts = s.parts := by simp [State.homeWrite]
@[simp] theorem State.homeWrite_shmode (s : State) (src : Nat) (kind : WKind) (ctx : W32) (pidx : Nat) (replay : Bool) (pa : Nat) (bs : List Byte) :
    (s.homeWrite src kind ctx pidx replay pa bs).shmode = s.shmode := by simp [State.homeWrite]
@[simp] theorem State.homeWrite_swapdly (s : State) (src : Nat) (kind : WKind) (ctx : W32) (pidx : Nat) (replay : Bool) (pa : Nat) (bs : List Byte) :
    (s.homeWrite src kind ctx pidx replay pa bs).swapdly = s.swapdly := by simp [State.homeWrite]
@[simp] theorem State.homeWrite_rc (s : State) (src : Nat) (kind : WKind) (ctx : W32) (pidx : Nat) (replay : Bool) (pa : Nat) (bs : List Byte) :
    (s.homeWrite src kind ctx pidx replay pa bs).rc = s.rc := by simp [State.homeWrite]
@[simp] theorem State.homeWrite_host (s : State) (src : Nat) (kind : WKind) (ctx : W32) (pidx : Nat) (replay : Bool) (pa : Nat) (bs : List Byte) :
    (s.homeWrite src kind ctx pidx replay pa bs).host = s.host := by simp [State.homeWrite]
@[simp] theorem State.homeWrite_ytt (s : State) (src : Nat) (kind : WKind) (ctx : W32) (pidx : Nat) (replay : Bool) (pa : Nat) (bs : List Byte) :
    (s.homeWrite src kind ctx pidx replay pa bs).ytt = s.ytt := by simp [State.homeWrite]
@[simp] theorem State.homeWrite_pwr (s : State) (src : Nat) (kind : WKind) (ctx : W32) (pidx : Nat) (replay : Bool) (pa : Nat) (bs : List Byte) :
    (s.homeWrite src kind ctx pidx replay pa bs).pwr = s.pwr := by simp [State.homeWrite]
@[simp] theorem State.homeWrite_boot (s : State) (src : Nat) (kind : WKind) (ctx : W32) (pidx : Nat) (replay : Bool) (pa : Nat) (bs : List Byte) :
    (s.homeWrite src kind ctx pidx replay pa bs).boot = s.boot := by simp [State.homeWrite]
@[simp] theorem State.homeWrite_mgmt (s : State) (src : Nat) (kind : WKind) (ctx : W32) (pidx : Nat) (replay : Bool) (pa : Nat) (bs : List Byte) :
    (s.homeWrite src kind ctx pidx replay pa bs).mgmt = s.mgmt := by simp [State.homeWrite]
@[simp] theorem State.homeWrite_sched (s : State) (src : Nat) (kind : WKind) (ctx : W32) (pidx : Nat) (replay : Bool) (pa : Nat) (bs : List Byte) :
    (s.homeWrite src kind ctx pidx replay pa bs).sched = s.sched := by simp [State.homeWrite]

@[simp] theorem State.perform_now (s : State) (c : CoreNo) (p : PStore) :
    (s.perform c p).now = s.now := by simp [State.perform]
@[simp] theorem State.perform_l2tlb (s : State) (c : CoreNo) (p : PStore) :
    (s.perform c p).l2tlb = s.l2tlb := by simp [State.perform]
@[simp] theorem State.perform_ctxs (s : State) (c : CoreNo) (p : PStore) :
    (s.perform c p).ctxs = s.ctxs := by simp [State.perform]
@[simp] theorem State.perform_grids (s : State) (c : CoreNo) (p : PStore) :
    (s.perform c p).grids = s.grids := by simp [State.perform]
@[simp] theorem State.perform_nextGrid (s : State) (c : CoreNo) (p : PStore) :
    (s.perform c p).nextGrid = s.nextGrid := by simp [State.perform]
@[simp] theorem State.perform_saves (s : State) (c : CoreNo) (p : PStore) :
    (s.perform c p).saves = s.saves := by simp [State.perform]
@[simp] theorem State.perform_queues (s : State) (c : CoreNo) (p : PStore) :
    (s.perform c p).queues = s.queues := by simp [State.perform]
@[simp] theorem State.perform_parts (s : State) (c : CoreNo) (p : PStore) :
    (s.perform c p).parts = s.parts := by simp [State.perform]
@[simp] theorem State.perform_shmode (s : State) (c : CoreNo) (p : PStore) :
    (s.perform c p).shmode = s.shmode := by simp [State.perform]
@[simp] theorem State.perform_swapdly (s : State) (c : CoreNo) (p : PStore) :
    (s.perform c p).swapdly = s.swapdly := by simp [State.perform]
@[simp] theorem State.perform_rc (s : State) (c : CoreNo) (p : PStore) :
    (s.perform c p).rc = s.rc := by simp [State.perform]
@[simp] theorem State.perform_host (s : State) (c : CoreNo) (p : PStore) :
    (s.perform c p).host = s.host := by simp [State.perform]
@[simp] theorem State.perform_ytt (s : State) (c : CoreNo) (p : PStore) :
    (s.perform c p).ytt = s.ytt := by simp [State.perform]
@[simp] theorem State.perform_pwr (s : State) (c : CoreNo) (p : PStore) :
    (s.perform c p).pwr = s.pwr := by simp [State.perform]
@[simp] theorem State.perform_boot (s : State) (c : CoreNo) (p : PStore) :
    (s.perform c p).boot = s.boot := by simp [State.perform]
@[simp] theorem State.perform_mgmt (s : State) (c : CoreNo) (p : PStore) :
    (s.perform c p).mgmt = s.mgmt := by simp [State.perform]
@[simp] theorem State.perform_sched (s : State) (c : CoreNo) (p : PStore) :
    (s.perform c p).sched = s.sched := by simp [State.perform]

@[simp] theorem State.performAll_now (s : State) (c : CoreNo) (need : PStore → Bool) :
    (s.performAll c need).now = s.now := foldl_keeps State.now (fun s p => s.perform c p) (fun _ _ => by simp) _ _
@[simp] theorem State.performAll_l2tlb (s : State) (c : CoreNo) (need : PStore → Bool) :
    (s.performAll c need).l2tlb = s.l2tlb := foldl_keeps State.l2tlb (fun s p => s.perform c p) (fun _ _ => by simp) _ _
@[simp] theorem State.performAll_ctxs (s : State) (c : CoreNo) (need : PStore → Bool) :
    (s.performAll c need).ctxs = s.ctxs := foldl_keeps State.ctxs (fun s p => s.perform c p) (fun _ _ => by simp) _ _
@[simp] theorem State.performAll_grids (s : State) (c : CoreNo) (need : PStore → Bool) :
    (s.performAll c need).grids = s.grids := foldl_keeps State.grids (fun s p => s.perform c p) (fun _ _ => by simp) _ _
@[simp] theorem State.performAll_nextGrid (s : State) (c : CoreNo) (need : PStore → Bool) :
    (s.performAll c need).nextGrid = s.nextGrid := foldl_keeps State.nextGrid (fun s p => s.perform c p) (fun _ _ => by simp) _ _
@[simp] theorem State.performAll_saves (s : State) (c : CoreNo) (need : PStore → Bool) :
    (s.performAll c need).saves = s.saves := foldl_keeps State.saves (fun s p => s.perform c p) (fun _ _ => by simp) _ _
@[simp] theorem State.performAll_queues (s : State) (c : CoreNo) (need : PStore → Bool) :
    (s.performAll c need).queues = s.queues := foldl_keeps State.queues (fun s p => s.perform c p) (fun _ _ => by simp) _ _
@[simp] theorem State.performAll_parts (s : State) (c : CoreNo) (need : PStore → Bool) :
    (s.performAll c need).parts = s.parts := foldl_keeps State.parts (fun s p => s.perform c p) (fun _ _ => by simp) _ _
@[simp] theorem State.performAll_shmode (s : State) (c : CoreNo) (need : PStore → Bool) :
    (s.performAll c need).shmode = s.shmode := foldl_keeps State.shmode (fun s p => s.perform c p) (fun _ _ => by simp) _ _
@[simp] theorem State.performAll_swapdly (s : State) (c : CoreNo) (need : PStore → Bool) :
    (s.performAll c need).swapdly = s.swapdly := foldl_keeps State.swapdly (fun s p => s.perform c p) (fun _ _ => by simp) _ _
@[simp] theorem State.performAll_rc (s : State) (c : CoreNo) (need : PStore → Bool) :
    (s.performAll c need).rc = s.rc := foldl_keeps State.rc (fun s p => s.perform c p) (fun _ _ => by simp) _ _
@[simp] theorem State.performAll_host (s : State) (c : CoreNo) (need : PStore → Bool) :
    (s.performAll c need).host = s.host := foldl_keeps State.host (fun s p => s.perform c p) (fun _ _ => by simp) _ _
@[simp] theorem State.performAll_ytt (s : State) (c : CoreNo) (need : PStore → Bool) :
    (s.performAll c need).ytt = s.ytt := foldl_keeps State.ytt (fun s p => s.perform c p) (fun _ _ => by simp) _ _
@[simp] theorem State.performAll_pwr (s : State) (c : CoreNo) (need : PStore → Bool) :
    (s.performAll c need).pwr = s.pwr := foldl_keeps State.pwr (fun s p => s.perform c p) (fun _ _ => by simp) _ _
@[simp] theorem State.performAll_boot (s : State) (c : CoreNo) (need : PStore → Bool) :
    (s.performAll c need).boot = s.boot := foldl_keeps State.boot (fun s p => s.perform c p) (fun _ _ => by simp) _ _
@[simp] theorem State.performAll_mgmt (s : State) (c : CoreNo) (need : PStore → Bool) :
    (s.performAll c need).mgmt = s.mgmt := foldl_keeps State.mgmt (fun s p => s.perform c p) (fun _ _ => by simp) _ _
@[simp] theorem State.performAll_sched (s : State) (c : CoreNo) (need : PStore → Bool) :
    (s.performAll c need).sched = s.sched := foldl_keeps State.sched (fun s p => s.perform c p) (fun _ _ => by simp) _ _

@[simp] theorem State.acquire_now (s : State) (c : CoreNo) (a : Agent) (sc : Scope) :
    (s.acquire c a sc).now = s.now := by simp [State.acquire]
@[simp] theorem State.acquire_l2tlb (s : State) (c : CoreNo) (a : Agent) (sc : Scope) :
    (s.acquire c a sc).l2tlb = s.l2tlb := by simp [State.acquire]
@[simp] theorem State.acquire_ctxs (s : State) (c : CoreNo) (a : Agent) (sc : Scope) :
    (s.acquire c a sc).ctxs = s.ctxs := by simp [State.acquire]
@[simp] theorem State.acquire_grids (s : State) (c : CoreNo) (a : Agent) (sc : Scope) :
    (s.acquire c a sc).grids = s.grids := by simp [State.acquire]
@[simp] theorem State.acquire_nextGrid (s : State) (c : CoreNo) (a : Agent) (sc : Scope) :
    (s.acquire c a sc).nextGrid = s.nextGrid := by simp [State.acquire]
@[simp] theorem State.acquire_saves (s : State) (c : CoreNo) (a : Agent) (sc : Scope) :
    (s.acquire c a sc).saves = s.saves := by simp [State.acquire]
@[simp] theorem State.acquire_queues (s : State) (c : CoreNo) (a : Agent) (sc : Scope) :
    (s.acquire c a sc).queues = s.queues := by simp [State.acquire]
@[simp] theorem State.acquire_parts (s : State) (c : CoreNo) (a : Agent) (sc : Scope) :
    (s.acquire c a sc).parts = s.parts := by simp [State.acquire]
@[simp] theorem State.acquire_shmode (s : State) (c : CoreNo) (a : Agent) (sc : Scope) :
    (s.acquire c a sc).shmode = s.shmode := by simp [State.acquire]
@[simp] theorem State.acquire_swapdly (s : State) (c : CoreNo) (a : Agent) (sc : Scope) :
    (s.acquire c a sc).swapdly = s.swapdly := by simp [State.acquire]
@[simp] theorem State.acquire_rc (s : State) (c : CoreNo) (a : Agent) (sc : Scope) :
    (s.acquire c a sc).rc = s.rc := by simp [State.acquire]
@[simp] theorem State.acquire_host (s : State) (c : CoreNo) (a : Agent) (sc : Scope) :
    (s.acquire c a sc).host = s.host := by simp [State.acquire]
@[simp] theorem State.acquire_ytt (s : State) (c : CoreNo) (a : Agent) (sc : Scope) :
    (s.acquire c a sc).ytt = s.ytt := by simp [State.acquire]
@[simp] theorem State.acquire_pwr (s : State) (c : CoreNo) (a : Agent) (sc : Scope) :
    (s.acquire c a sc).pwr = s.pwr := by simp [State.acquire]
@[simp] theorem State.acquire_boot (s : State) (c : CoreNo) (a : Agent) (sc : Scope) :
    (s.acquire c a sc).boot = s.boot := by simp [State.acquire]
@[simp] theorem State.acquire_mgmt (s : State) (c : CoreNo) (a : Agent) (sc : Scope) :
    (s.acquire c a sc).mgmt = s.mgmt := by simp [State.acquire]
@[simp] theorem State.acquire_sched (s : State) (c : CoreNo) (a : Agent) (sc : Scope) :
    (s.acquire c a sc).sched = s.sched := by simp [State.acquire]

/-! ### Reading a core after an update -/

@[simp] theorem State.core_setCore_same (s : State) (c : CoreNo) (k : Core) : (s.setCore c k).core c = k := by
  simp [State.core, State.setCore]

theorem State.core_setCore_other (s : State) (c d : CoreNo) (k : Core) (h : d ≠ c) :
    (s.setCore c k).core d = s.core d := by
  have hv : c.val ≠ d.val := fun e => h (Fin.ext e.symm)
  simp [State.core, State.setCore, hv]

@[simp] theorem State.core_updCore_same (s : State) (c : CoreNo) (f : Core → Core) :
    (s.updCore c f).core c = f (s.core c) := by simp [State.updCore]

theorem State.core_updCore_other (s : State) (c d : CoreNo) (f : Core → Core) (h : d ≠ c) :
    (s.updCore c f).core d = s.core d := State.core_setCore_other s c d _ h

@[simp] theorem State.core_updSeq_same (s : State) (c : CoreNo) (f : Seq → Seq) :
    (s.updSeq c f).core c = { s.core c with seq := f (s.core c).seq } := by simp [State.updSeq]

theorem State.core_updSeq_other (s : State) (c d : CoreNo) (f : Seq → Seq) (h : d ≠ c) :
    (s.updSeq c f).core d = s.core d := State.core_updCore_other s c d _ h

@[simp] theorem State.core_setSched (s : State) (x : Sched) (c : CoreNo) : (s.setSched x).core c = s.core c := rfl
@[simp] theorem State.core_setDev (s : State) (d : DevMem) (c : CoreNo) : (s.setDev d).core c = s.core c := rfl
@[simp] theorem State.core_updCtx (s : State) (n : W32) (f : Ctx → Ctx) (c : CoreNo) :
    (s.updCtx n f).core c = s.core c := rfl
@[simp] theorem State.core_updPart (s : State) (p : Fin 16) (f : Partition → Partition) (c : CoreNo) :
    (s.updPart p f).core c = s.core c := rfl
@[simp] theorem State.core_updQueue (s : State) (q : Fin 64) (f : Queue → Queue) (c : CoreNo) :
    (s.updQueue q f).core c = s.core c := rfl
@[simp] theorem State.core_toMgmt (s : State) (e : MgmtEvent) (c : CoreNo) : (s.toMgmt e).core c = s.core c := rfl
@[simp] theorem State.core_setHost (s : State) (h : HostPort) (c : CoreNo) : (s.setHost h).core c = s.core c := rfl
@[simp] theorem State.core_setRc (s : State) (r : Recall) (c : CoreNo) : (s.setRc r).core c = s.core c := rfl

/-! ### Updates of a core -/

@[simp] theorem Core.kwrite_seq (k : Core) (a : Nat) (bs : List Byte) : (k.kwrite a bs).seq = k.seq := rfl
@[simp] theorem Core.kwrite_task (k : Core) (a : Nat) (bs : List Byte) : (k.kwrite a bs).task = k.task := rfl
@[simp] theorem Core.kwrite_lastCtx (k : Core) (a : Nat) (bs : List Byte) : (k.kwrite a bs).lastCtx = k.lastCtx := rfl
@[simp] theorem Core.kwrite_mem (k : Core) (a : Nat) (bs : List Byte) : (k.kwrite a bs).mem = k.mem.kput a bs := rfl
@[simp] theorem Core.kwrite_table (k : Core) (a : Nat) (bs : List Byte) : (k.kwrite a bs).table = k.table := rfl
@[simp] theorem Core.kwrite_updates (k : Core) (a : Nat) (bs : List Byte) : (k.kwrite a bs).updates = k.updates := rfl
@[simp] theorem Core.kwrite_ops (k : Core) (a : Nat) (bs : List Byte) : (k.kwrite a bs).ops = k.ops := rfl
@[simp] theorem Core.kwrite_teams (k : Core) (a : Nat) (bs : List Byte) : (k.kwrite a bs).teams = k.teams := rfl
@[simp] theorem Core.kwrite_slots (k : Core) (a : Nat) (bs : List Byte) : (k.kwrite a bs).slots = k.slots := rfl
@[simp] theorem Core.kwrite_rr (k : Core) (a : Nat) (bs : List Byte) : (k.kwrite a bs).rr = k.rr := rfl
@[simp] theorem Core.kwrite_nextId (k : Core) (a : Nat) (bs : List Byte) : (k.kwrite a bs).nextId = k.nextId := rfl
@[simp] theorem Core.kwrite_cmds (k : Core) (a : Nat) (bs : List Byte) : (k.kwrite a bs).cmds = k.cmds := rfl
@[simp] theorem Core.kwrite_retq (k : Core) (a : Nat) (bs : List Byte) : (k.kwrite a bs).retq = k.retq := rfl
@[simp] theorem Core.kwrite_locks (k : Core) (a : Nat) (bs : List Byte) : (k.kwrite a bs).locks = k.locks := rfl
@[simp] theorem Core.kwrite_dq (k : Core) (a : Nat) (bs : List Byte) : (k.kwrite a bs).dq = k.dq := rfl
@[simp] theorem Core.kwrite_launchQ (k : Core) (a : Nat) (bs : List Byte) : (k.kwrite a bs).launchQ = k.launchQ := rfl
@[simp] theorem Core.kwrite_port (k : Core) (a : Nat) (bs : List Byte) : (k.kwrite a bs).port = k.port := rfl
@[simp] theorem Core.kwrite_ped (k : Core) (a : Nat) (bs : List Byte) : (k.kwrite a bs).ped = k.ped := rfl
@[simp] theorem Core.kwrite_stores (k : Core) (a : Nat) (bs : List Byte) : (k.kwrite a bs).stores = k.stores := rfl
@[simp] theorem Core.kwrite_nextStore (k : Core) (a : Nat) (bs : List Byte) :
    (k.kwrite a bs).nextStore = k.nextStore := rfl
@[simp] theorem Core.kwrite_lstores (k : Core) (a : Nat) (bs : List Byte) : (k.kwrite a bs).lstores = k.lstores := rfl
@[simp] theorem Core.kwrite_kstores (k : Core) (a : Nat) (bs : List Byte) : (k.kwrite a bs).kstores = k.kstores := rfl
@[simp] theorem Core.kwrite_relCore (k : Core) (a : Nat) (bs : List Byte) : (k.kwrite a bs).relCore = k.relCore := rfl
@[simp] theorem Core.kwrite_relOut (k : Core) (a : Nat) (bs : List Byte) : (k.kwrite a bs).relOut = k.relOut := rfl
@[simp] theorem Core.kwrite_tlb (k : Core) (a : Nat) (bs : List Byte) : (k.kwrite a bs).tlb = k.tlb := rfl
@[simp] theorem Core.kwrite_oldTlb (k : Core) (a : Nat) (bs : List Byte) : (k.kwrite a bs).oldTlb = k.oldTlb := rfl
@[simp] theorem Core.kwrite_walks (k : Core) (a : Nat) (bs : List Byte) : (k.kwrite a bs).walks = k.walks := rfl
@[simp] theorem Core.kwrite_fb (k : Core) (a : Nat) (bs : List Byte) : (k.kwrite a bs).fb = k.fb := rfl
@[simp] theorem Core.kwrite_drops (k : Core) (a : Nat) (bs : List Byte) : (k.kwrite a bs).drops = k.drops := rfl
@[simp] theorem Core.kwrite_health (k : Core) (a : Nat) (bs : List Byte) : (k.kwrite a bs).health = k.health := rfl
@[simp] theorem Core.kwrite_claim (k : Core) (a : Nat) (bs : List Byte) : (k.kwrite a bs).claim = k.claim := rfl
@[simp] theorem Core.kwrite_trapRec (k : Core) (a : Nat) (bs : List Byte) : (k.kwrite a bs).trapRec = k.trapRec := rfl
@[simp] theorem Core.kwrite_saving (k : Core) (a : Nat) (bs : List Byte) : (k.kwrite a bs).saving = k.saving := rfl
@[simp] theorem Core.kwrite_placing (k : Core) (a : Nat) (bs : List Byte) : (k.kwrite a bs).placing = k.placing := rfl
@[simp] theorem Core.kwrite_given (k : Core) (a : Nat) (bs : List Byte) : (k.kwrite a bs).given = k.given := rfl
@[simp] theorem Core.kwrite_heldFor (k : Core) (a : Nat) (bs : List Byte) : (k.kwrite a bs).heldFor = k.heldFor := rfl

@[simp] theorem Core.awrite_seq (k : Core) (a : Nat) (bs : List Byte) : (k.awrite a bs).seq = k.seq := rfl
@[simp] theorem Core.awrite_task (k : Core) (a : Nat) (bs : List Byte) : (k.awrite a bs).task = k.task := rfl
@[simp] theorem Core.awrite_lastCtx (k : Core) (a : Nat) (bs : List Byte) : (k.awrite a bs).lastCtx = k.lastCtx := rfl
@[simp] theorem Core.awrite_mem (k : Core) (a : Nat) (bs : List Byte) : (k.awrite a bs).mem = k.mem.aput a bs := rfl
@[simp] theorem Core.awrite_table (k : Core) (a : Nat) (bs : List Byte) : (k.awrite a bs).table = k.table := rfl
@[simp] theorem Core.awrite_updates (k : Core) (a : Nat) (bs : List Byte) : (k.awrite a bs).updates = k.updates := rfl
@[simp] theorem Core.awrite_ops (k : Core) (a : Nat) (bs : List Byte) : (k.awrite a bs).ops = k.ops := rfl
@[simp] theorem Core.awrite_teams (k : Core) (a : Nat) (bs : List Byte) : (k.awrite a bs).teams = k.teams := rfl
@[simp] theorem Core.awrite_slots (k : Core) (a : Nat) (bs : List Byte) : (k.awrite a bs).slots = k.slots := rfl
@[simp] theorem Core.awrite_rr (k : Core) (a : Nat) (bs : List Byte) : (k.awrite a bs).rr = k.rr := rfl
@[simp] theorem Core.awrite_nextId (k : Core) (a : Nat) (bs : List Byte) : (k.awrite a bs).nextId = k.nextId := rfl
@[simp] theorem Core.awrite_cmds (k : Core) (a : Nat) (bs : List Byte) : (k.awrite a bs).cmds = k.cmds := rfl
@[simp] theorem Core.awrite_retq (k : Core) (a : Nat) (bs : List Byte) : (k.awrite a bs).retq = k.retq := rfl
@[simp] theorem Core.awrite_locks (k : Core) (a : Nat) (bs : List Byte) : (k.awrite a bs).locks = k.locks := rfl
@[simp] theorem Core.awrite_dq (k : Core) (a : Nat) (bs : List Byte) : (k.awrite a bs).dq = k.dq := rfl
@[simp] theorem Core.awrite_launchQ (k : Core) (a : Nat) (bs : List Byte) : (k.awrite a bs).launchQ = k.launchQ := rfl
@[simp] theorem Core.awrite_port (k : Core) (a : Nat) (bs : List Byte) : (k.awrite a bs).port = k.port := rfl
@[simp] theorem Core.awrite_ped (k : Core) (a : Nat) (bs : List Byte) : (k.awrite a bs).ped = k.ped := rfl
@[simp] theorem Core.awrite_stores (k : Core) (a : Nat) (bs : List Byte) : (k.awrite a bs).stores = k.stores := rfl
@[simp] theorem Core.awrite_nextStore (k : Core) (a : Nat) (bs : List Byte) :
    (k.awrite a bs).nextStore = k.nextStore := rfl
@[simp] theorem Core.awrite_lstores (k : Core) (a : Nat) (bs : List Byte) : (k.awrite a bs).lstores = k.lstores := rfl
@[simp] theorem Core.awrite_kstores (k : Core) (a : Nat) (bs : List Byte) : (k.awrite a bs).kstores = k.kstores := rfl
@[simp] theorem Core.awrite_relCore (k : Core) (a : Nat) (bs : List Byte) : (k.awrite a bs).relCore = k.relCore := rfl
@[simp] theorem Core.awrite_relOut (k : Core) (a : Nat) (bs : List Byte) : (k.awrite a bs).relOut = k.relOut := rfl
@[simp] theorem Core.awrite_tlb (k : Core) (a : Nat) (bs : List Byte) : (k.awrite a bs).tlb = k.tlb := rfl
@[simp] theorem Core.awrite_oldTlb (k : Core) (a : Nat) (bs : List Byte) : (k.awrite a bs).oldTlb = k.oldTlb := rfl
@[simp] theorem Core.awrite_walks (k : Core) (a : Nat) (bs : List Byte) : (k.awrite a bs).walks = k.walks := rfl
@[simp] theorem Core.awrite_fb (k : Core) (a : Nat) (bs : List Byte) : (k.awrite a bs).fb = k.fb := rfl
@[simp] theorem Core.awrite_drops (k : Core) (a : Nat) (bs : List Byte) : (k.awrite a bs).drops = k.drops := rfl
@[simp] theorem Core.awrite_health (k : Core) (a : Nat) (bs : List Byte) : (k.awrite a bs).health = k.health := rfl
@[simp] theorem Core.awrite_claim (k : Core) (a : Nat) (bs : List Byte) : (k.awrite a bs).claim = k.claim := rfl
@[simp] theorem Core.awrite_trapRec (k : Core) (a : Nat) (bs : List Byte) : (k.awrite a bs).trapRec = k.trapRec := rfl
@[simp] theorem Core.awrite_saving (k : Core) (a : Nat) (bs : List Byte) : (k.awrite a bs).saving = k.saving := rfl
@[simp] theorem Core.awrite_placing (k : Core) (a : Nat) (bs : List Byte) : (k.awrite a bs).placing = k.placing := rfl
@[simp] theorem Core.awrite_given (k : Core) (a : Nat) (bs : List Byte) : (k.awrite a bs).given = k.given := rfl
@[simp] theorem Core.awrite_heldFor (k : Core) (a : Nat) (bs : List Byte) : (k.awrite a bs).heldFor = k.heldFor := rfl

@[simp] theorem Core.pwrite_seq (k : Core) (lane : Nat) (a : Nat) (bs : List Byte) :
    (k.pwrite lane a bs).seq = k.seq := rfl
@[simp] theorem Core.pwrite_task (k : Core) (lane : Nat) (a : Nat) (bs : List Byte) :
    (k.pwrite lane a bs).task = k.task := rfl
@[simp] theorem Core.pwrite_lastCtx (k : Core) (lane : Nat) (a : Nat) (bs : List Byte) :
    (k.pwrite lane a bs).lastCtx = k.lastCtx := rfl
@[simp] theorem Core.pwrite_mem (k : Core) (lane : Nat) (a : Nat) (bs : List Byte) :
    (k.pwrite lane a bs).mem = k.mem.pput lane a bs := rfl
@[simp] theorem Core.pwrite_table (k : Core) (lane : Nat) (a : Nat) (bs : List Byte) :
    (k.pwrite lane a bs).table = k.table := rfl
@[simp] theorem Core.pwrite_updates (k : Core) (lane : Nat) (a : Nat) (bs : List Byte) :
    (k.pwrite lane a bs).updates = k.updates := rfl
@[simp] theorem Core.pwrite_ops (k : Core) (lane : Nat) (a : Nat) (bs : List Byte) :
    (k.pwrite lane a bs).ops = k.ops := rfl
@[simp] theorem Core.pwrite_teams (k : Core) (lane : Nat) (a : Nat) (bs : List Byte) :
    (k.pwrite lane a bs).teams = k.teams := rfl
@[simp] theorem Core.pwrite_slots (k : Core) (lane : Nat) (a : Nat) (bs : List Byte) :
    (k.pwrite lane a bs).slots = k.slots := rfl
@[simp] theorem Core.pwrite_rr (k : Core) (lane : Nat) (a : Nat) (bs : List Byte) :
    (k.pwrite lane a bs).rr = k.rr := rfl
@[simp] theorem Core.pwrite_nextId (k : Core) (lane : Nat) (a : Nat) (bs : List Byte) :
    (k.pwrite lane a bs).nextId = k.nextId := rfl
@[simp] theorem Core.pwrite_cmds (k : Core) (lane : Nat) (a : Nat) (bs : List Byte) :
    (k.pwrite lane a bs).cmds = k.cmds := rfl
@[simp] theorem Core.pwrite_retq (k : Core) (lane : Nat) (a : Nat) (bs : List Byte) :
    (k.pwrite lane a bs).retq = k.retq := rfl
@[simp] theorem Core.pwrite_locks (k : Core) (lane : Nat) (a : Nat) (bs : List Byte) :
    (k.pwrite lane a bs).locks = k.locks := rfl
@[simp] theorem Core.pwrite_dq (k : Core) (lane : Nat) (a : Nat) (bs : List Byte) :
    (k.pwrite lane a bs).dq = k.dq := rfl
@[simp] theorem Core.pwrite_launchQ (k : Core) (lane : Nat) (a : Nat) (bs : List Byte) :
    (k.pwrite lane a bs).launchQ = k.launchQ := rfl
@[simp] theorem Core.pwrite_port (k : Core) (lane : Nat) (a : Nat) (bs : List Byte) :
    (k.pwrite lane a bs).port = k.port := rfl
@[simp] theorem Core.pwrite_ped (k : Core) (lane : Nat) (a : Nat) (bs : List Byte) :
    (k.pwrite lane a bs).ped = k.ped := rfl
@[simp] theorem Core.pwrite_stores (k : Core) (lane : Nat) (a : Nat) (bs : List Byte) :
    (k.pwrite lane a bs).stores = k.stores := rfl
@[simp] theorem Core.pwrite_nextStore (k : Core) (lane : Nat) (a : Nat) (bs : List Byte) :
    (k.pwrite lane a bs).nextStore = k.nextStore := rfl
@[simp] theorem Core.pwrite_lstores (k : Core) (lane : Nat) (a : Nat) (bs : List Byte) :
    (k.pwrite lane a bs).lstores = k.lstores := rfl
@[simp] theorem Core.pwrite_kstores (k : Core) (lane : Nat) (a : Nat) (bs : List Byte) :
    (k.pwrite lane a bs).kstores = k.kstores := rfl
@[simp] theorem Core.pwrite_relCore (k : Core) (lane : Nat) (a : Nat) (bs : List Byte) :
    (k.pwrite lane a bs).relCore = k.relCore := rfl
@[simp] theorem Core.pwrite_relOut (k : Core) (lane : Nat) (a : Nat) (bs : List Byte) :
    (k.pwrite lane a bs).relOut = k.relOut := rfl
@[simp] theorem Core.pwrite_tlb (k : Core) (lane : Nat) (a : Nat) (bs : List Byte) :
    (k.pwrite lane a bs).tlb = k.tlb := rfl
@[simp] theorem Core.pwrite_oldTlb (k : Core) (lane : Nat) (a : Nat) (bs : List Byte) :
    (k.pwrite lane a bs).oldTlb = k.oldTlb := rfl
@[simp] theorem Core.pwrite_walks (k : Core) (lane : Nat) (a : Nat) (bs : List Byte) :
    (k.pwrite lane a bs).walks = k.walks := rfl
@[simp] theorem Core.pwrite_fb (k : Core) (lane : Nat) (a : Nat) (bs : List Byte) :
    (k.pwrite lane a bs).fb = k.fb := rfl
@[simp] theorem Core.pwrite_drops (k : Core) (lane : Nat) (a : Nat) (bs : List Byte) :
    (k.pwrite lane a bs).drops = k.drops := rfl
@[simp] theorem Core.pwrite_health (k : Core) (lane : Nat) (a : Nat) (bs : List Byte) :
    (k.pwrite lane a bs).health = k.health := rfl
@[simp] theorem Core.pwrite_claim (k : Core) (lane : Nat) (a : Nat) (bs : List Byte) :
    (k.pwrite lane a bs).claim = k.claim := rfl
@[simp] theorem Core.pwrite_trapRec (k : Core) (lane : Nat) (a : Nat) (bs : List Byte) :
    (k.pwrite lane a bs).trapRec = k.trapRec := rfl
@[simp] theorem Core.pwrite_saving (k : Core) (lane : Nat) (a : Nat) (bs : List Byte) :
    (k.pwrite lane a bs).saving = k.saving := rfl
@[simp] theorem Core.pwrite_placing (k : Core) (lane : Nat) (a : Nat) (bs : List Byte) :
    (k.pwrite lane a bs).placing = k.placing := rfl
@[simp] theorem Core.pwrite_given (k : Core) (lane : Nat) (a : Nat) (bs : List Byte) :
    (k.pwrite lane a bs).given = k.given := rfl
@[simp] theorem Core.pwrite_heldFor (k : Core) (lane : Nat) (a : Nat) (bs : List Byte) :
    (k.pwrite lane a bs).heldFor = k.heldFor := rfl

@[simp] theorem Core.wakeUp_task (k : Core) (now : Nat) (cause : Byte) :
    (k.wakeUp now cause).task = k.task := by unfold Core.wakeUp; split <;> [rfl; (split <;> rfl)]
@[simp] theorem Core.wakeUp_lastCtx (k : Core) (now : Nat) (cause : Byte) :
    (k.wakeUp now cause).lastCtx = k.lastCtx := by unfold Core.wakeUp; split <;> [rfl; (split <;> rfl)]
@[simp] theorem Core.wakeUp_mem (k : Core) (now : Nat) (cause : Byte) :
    (k.wakeUp now cause).mem = k.mem := by unfold Core.wakeUp; split <;> [rfl; (split <;> rfl)]
@[simp] theorem Core.wakeUp_table (k : Core) (now : Nat) (cause : Byte) :
    (k.wakeUp now cause).table = k.table := by unfold Core.wakeUp; split <;> [rfl; (split <;> rfl)]
@[simp] theorem Core.wakeUp_updates (k : Core) (now : Nat) (cause : Byte) :
    (k.wakeUp now cause).updates = k.updates := by unfold Core.wakeUp; split <;> [rfl; (split <;> rfl)]
@[simp] theorem Core.wakeUp_ops (k : Core) (now : Nat) (cause : Byte) :
    (k.wakeUp now cause).ops = k.ops := by unfold Core.wakeUp; split <;> [rfl; (split <;> rfl)]
@[simp] theorem Core.wakeUp_teams (k : Core) (now : Nat) (cause : Byte) :
    (k.wakeUp now cause).teams = k.teams := by unfold Core.wakeUp; split <;> [rfl; (split <;> rfl)]
@[simp] theorem Core.wakeUp_slots (k : Core) (now : Nat) (cause : Byte) :
    (k.wakeUp now cause).slots = k.slots := by unfold Core.wakeUp; split <;> [rfl; (split <;> rfl)]
@[simp] theorem Core.wakeUp_rr (k : Core) (now : Nat) (cause : Byte) :
    (k.wakeUp now cause).rr = k.rr := by unfold Core.wakeUp; split <;> [rfl; (split <;> rfl)]
@[simp] theorem Core.wakeUp_nextId (k : Core) (now : Nat) (cause : Byte) :
    (k.wakeUp now cause).nextId = k.nextId := by unfold Core.wakeUp; split <;> [rfl; (split <;> rfl)]
@[simp] theorem Core.wakeUp_cmds (k : Core) (now : Nat) (cause : Byte) :
    (k.wakeUp now cause).cmds = k.cmds := by unfold Core.wakeUp; split <;> [rfl; (split <;> rfl)]
@[simp] theorem Core.wakeUp_retq (k : Core) (now : Nat) (cause : Byte) :
    (k.wakeUp now cause).retq = k.retq := by unfold Core.wakeUp; split <;> [rfl; (split <;> rfl)]
@[simp] theorem Core.wakeUp_locks (k : Core) (now : Nat) (cause : Byte) :
    (k.wakeUp now cause).locks = k.locks := by unfold Core.wakeUp; split <;> [rfl; (split <;> rfl)]
@[simp] theorem Core.wakeUp_dq (k : Core) (now : Nat) (cause : Byte) :
    (k.wakeUp now cause).dq = k.dq := by unfold Core.wakeUp; split <;> [rfl; (split <;> rfl)]
@[simp] theorem Core.wakeUp_launchQ (k : Core) (now : Nat) (cause : Byte) :
    (k.wakeUp now cause).launchQ = k.launchQ := by unfold Core.wakeUp; split <;> [rfl; (split <;> rfl)]
@[simp] theorem Core.wakeUp_port (k : Core) (now : Nat) (cause : Byte) :
    (k.wakeUp now cause).port = k.port := by unfold Core.wakeUp; split <;> [rfl; (split <;> rfl)]
@[simp] theorem Core.wakeUp_ped (k : Core) (now : Nat) (cause : Byte) :
    (k.wakeUp now cause).ped = k.ped := by unfold Core.wakeUp; split <;> [rfl; (split <;> rfl)]
@[simp] theorem Core.wakeUp_stores (k : Core) (now : Nat) (cause : Byte) :
    (k.wakeUp now cause).stores = k.stores := by unfold Core.wakeUp; split <;> [rfl; (split <;> rfl)]
@[simp] theorem Core.wakeUp_nextStore (k : Core) (now : Nat) (cause : Byte) :
    (k.wakeUp now cause).nextStore = k.nextStore := by unfold Core.wakeUp; split <;> [rfl; (split <;> rfl)]
@[simp] theorem Core.wakeUp_lstores (k : Core) (now : Nat) (cause : Byte) :
    (k.wakeUp now cause).lstores = k.lstores := by unfold Core.wakeUp; split <;> [rfl; (split <;> rfl)]
@[simp] theorem Core.wakeUp_kstores (k : Core) (now : Nat) (cause : Byte) :
    (k.wakeUp now cause).kstores = k.kstores := by unfold Core.wakeUp; split <;> [rfl; (split <;> rfl)]
@[simp] theorem Core.wakeUp_relCore (k : Core) (now : Nat) (cause : Byte) :
    (k.wakeUp now cause).relCore = k.relCore := by unfold Core.wakeUp; split <;> [rfl; (split <;> rfl)]
@[simp] theorem Core.wakeUp_relOut (k : Core) (now : Nat) (cause : Byte) :
    (k.wakeUp now cause).relOut = k.relOut := by unfold Core.wakeUp; split <;> [rfl; (split <;> rfl)]
@[simp] theorem Core.wakeUp_tlb (k : Core) (now : Nat) (cause : Byte) :
    (k.wakeUp now cause).tlb = k.tlb := by unfold Core.wakeUp; split <;> [rfl; (split <;> rfl)]
@[simp] theorem Core.wakeUp_oldTlb (k : Core) (now : Nat) (cause : Byte) :
    (k.wakeUp now cause).oldTlb = k.oldTlb := by unfold Core.wakeUp; split <;> [rfl; (split <;> rfl)]
@[simp] theorem Core.wakeUp_walks (k : Core) (now : Nat) (cause : Byte) :
    (k.wakeUp now cause).walks = k.walks := by unfold Core.wakeUp; split <;> [rfl; (split <;> rfl)]
@[simp] theorem Core.wakeUp_fb (k : Core) (now : Nat) (cause : Byte) :
    (k.wakeUp now cause).fb = k.fb := by unfold Core.wakeUp; split <;> [rfl; (split <;> rfl)]
@[simp] theorem Core.wakeUp_drops (k : Core) (now : Nat) (cause : Byte) :
    (k.wakeUp now cause).drops = k.drops := by unfold Core.wakeUp; split <;> [rfl; (split <;> rfl)]
@[simp] theorem Core.wakeUp_claim (k : Core) (now : Nat) (cause : Byte) :
    (k.wakeUp now cause).claim = k.claim := by unfold Core.wakeUp; split <;> [rfl; (split <;> rfl)]
@[simp] theorem Core.wakeUp_trapRec (k : Core) (now : Nat) (cause : Byte) :
    (k.wakeUp now cause).trapRec = k.trapRec := by unfold Core.wakeUp; split <;> [rfl; (split <;> rfl)]
@[simp] theorem Core.wakeUp_saving (k : Core) (now : Nat) (cause : Byte) :
    (k.wakeUp now cause).saving = k.saving := by unfold Core.wakeUp; split <;> [rfl; (split <;> rfl)]
@[simp] theorem Core.wakeUp_placing (k : Core) (now : Nat) (cause : Byte) :
    (k.wakeUp now cause).placing = k.placing := by unfold Core.wakeUp; split <;> [rfl; (split <;> rfl)]
@[simp] theorem Core.wakeUp_given (k : Core) (now : Nat) (cause : Byte) :
    (k.wakeUp now cause).given = k.given := by unfold Core.wakeUp; split <;> [rfl; (split <;> rfl)]
@[simp] theorem Core.wakeUp_heldFor (k : Core) (now : Nat) (cause : Byte) :
    (k.wakeUp now cause).heldFor = k.heldFor := by unfold Core.wakeUp; split <;> [rfl; (split <;> rfl)]

/-- Every store reaches its Kennel bank or the L1: what none of them changes stands. -/
theorem Core.landAll_keeps {β : Type} (g : Core → β) (hk : ∀ (k : Core) (p : KStore), g (k.kwrite p.addr p.bytes) = g k)
    (hl : ∀ k p, g (Core.toL1 k p) = g k) (h1 : ∀ k ps, g { k with kstores := ps } = g k)
    (h2 : ∀ k ps, g { k with lstores := ps } = g k) (k : Core) : g k.landAll = g k := by
  unfold Core.landAll
  dsimp only
  rw [foldl_keeps g Core.toL1 hl, h2, foldl_keeps g _ hk, h1]

@[simp] theorem Core.landAll_seq (k : Core)  :
    (k.landAll ).seq = k.seq := Core.landAll_keeps Core.seq (fun _ _ => rfl) (fun _ _ => rfl) (fun _ _ => rfl) (fun _ _ => rfl) k
@[simp] theorem Core.landAll_task (k : Core)  :
    (k.landAll ).task = k.task := Core.landAll_keeps Core.task (fun _ _ => rfl) (fun _ _ => rfl) (fun _ _ => rfl) (fun _ _ => rfl) k
@[simp] theorem Core.landAll_lastCtx (k : Core)  :
    (k.landAll ).lastCtx = k.lastCtx := Core.landAll_keeps Core.lastCtx (fun _ _ => rfl) (fun _ _ => rfl) (fun _ _ => rfl) (fun _ _ => rfl) k
@[simp] theorem Core.landAll_table (k : Core)  :
    (k.landAll ).table = k.table := Core.landAll_keeps Core.table (fun _ _ => rfl) (fun _ _ => rfl) (fun _ _ => rfl) (fun _ _ => rfl) k
@[simp] theorem Core.landAll_updates (k : Core)  :
    (k.landAll ).updates = k.updates := Core.landAll_keeps Core.updates (fun _ _ => rfl) (fun _ _ => rfl) (fun _ _ => rfl) (fun _ _ => rfl) k
@[simp] theorem Core.landAll_ops (k : Core)  :
    (k.landAll ).ops = k.ops := Core.landAll_keeps Core.ops (fun _ _ => rfl) (fun _ _ => rfl) (fun _ _ => rfl) (fun _ _ => rfl) k
@[simp] theorem Core.landAll_teams (k : Core)  :
    (k.landAll ).teams = k.teams := Core.landAll_keeps Core.teams (fun _ _ => rfl) (fun _ _ => rfl) (fun _ _ => rfl) (fun _ _ => rfl) k
@[simp] theorem Core.landAll_slots (k : Core)  :
    (k.landAll ).slots = k.slots := Core.landAll_keeps Core.slots (fun _ _ => rfl) (fun _ _ => rfl) (fun _ _ => rfl) (fun _ _ => rfl) k
@[simp] theorem Core.landAll_rr (k : Core)  :
    (k.landAll ).rr = k.rr := Core.landAll_keeps Core.rr (fun _ _ => rfl) (fun _ _ => rfl) (fun _ _ => rfl) (fun _ _ => rfl) k
@[simp] theorem Core.landAll_nextId (k : Core)  :
    (k.landAll ).nextId = k.nextId := Core.landAll_keeps Core.nextId (fun _ _ => rfl) (fun _ _ => rfl) (fun _ _ => rfl) (fun _ _ => rfl) k
@[simp] theorem Core.landAll_cmds (k : Core)  :
    (k.landAll ).cmds = k.cmds := Core.landAll_keeps Core.cmds (fun _ _ => rfl) (fun _ _ => rfl) (fun _ _ => rfl) (fun _ _ => rfl) k
@[simp] theorem Core.landAll_retq (k : Core)  :
    (k.landAll ).retq = k.retq := Core.landAll_keeps Core.retq (fun _ _ => rfl) (fun _ _ => rfl) (fun _ _ => rfl) (fun _ _ => rfl) k
@[simp] theorem Core.landAll_locks (k : Core)  :
    (k.landAll ).locks = k.locks := Core.landAll_keeps Core.locks (fun _ _ => rfl) (fun _ _ => rfl) (fun _ _ => rfl) (fun _ _ => rfl) k
@[simp] theorem Core.landAll_dq (k : Core)  :
    (k.landAll ).dq = k.dq := Core.landAll_keeps Core.dq (fun _ _ => rfl) (fun _ _ => rfl) (fun _ _ => rfl) (fun _ _ => rfl) k
@[simp] theorem Core.landAll_launchQ (k : Core)  :
    (k.landAll ).launchQ = k.launchQ := Core.landAll_keeps Core.launchQ (fun _ _ => rfl) (fun _ _ => rfl) (fun _ _ => rfl) (fun _ _ => rfl) k
@[simp] theorem Core.landAll_port (k : Core)  :
    (k.landAll ).port = k.port := Core.landAll_keeps Core.port (fun _ _ => rfl) (fun _ _ => rfl) (fun _ _ => rfl) (fun _ _ => rfl) k
@[simp] theorem Core.landAll_ped (k : Core)  :
    (k.landAll ).ped = k.ped := Core.landAll_keeps Core.ped (fun _ _ => rfl) (fun _ _ => rfl) (fun _ _ => rfl) (fun _ _ => rfl) k
@[simp] theorem Core.landAll_relCore (k : Core)  :
    (k.landAll ).relCore = k.relCore := Core.landAll_keeps Core.relCore (fun _ _ => rfl) (fun _ _ => rfl) (fun _ _ => rfl) (fun _ _ => rfl) k
@[simp] theorem Core.landAll_relOut (k : Core)  :
    (k.landAll ).relOut = k.relOut := Core.landAll_keeps Core.relOut (fun _ _ => rfl) (fun _ _ => rfl) (fun _ _ => rfl) (fun _ _ => rfl) k
@[simp] theorem Core.landAll_tlb (k : Core)  :
    (k.landAll ).tlb = k.tlb := Core.landAll_keeps Core.tlb (fun _ _ => rfl) (fun _ _ => rfl) (fun _ _ => rfl) (fun _ _ => rfl) k
@[simp] theorem Core.landAll_oldTlb (k : Core)  :
    (k.landAll ).oldTlb = k.oldTlb := Core.landAll_keeps Core.oldTlb (fun _ _ => rfl) (fun _ _ => rfl) (fun _ _ => rfl) (fun _ _ => rfl) k
@[simp] theorem Core.landAll_walks (k : Core)  :
    (k.landAll ).walks = k.walks := Core.landAll_keeps Core.walks (fun _ _ => rfl) (fun _ _ => rfl) (fun _ _ => rfl) (fun _ _ => rfl) k
@[simp] theorem Core.landAll_fb (k : Core)  :
    (k.landAll ).fb = k.fb := Core.landAll_keeps Core.fb (fun _ _ => rfl) (fun _ _ => rfl) (fun _ _ => rfl) (fun _ _ => rfl) k
@[simp] theorem Core.landAll_drops (k : Core)  :
    (k.landAll ).drops = k.drops := Core.landAll_keeps Core.drops (fun _ _ => rfl) (fun _ _ => rfl) (fun _ _ => rfl) (fun _ _ => rfl) k
@[simp] theorem Core.landAll_health (k : Core)  :
    (k.landAll ).health = k.health := Core.landAll_keeps Core.health (fun _ _ => rfl) (fun _ _ => rfl) (fun _ _ => rfl) (fun _ _ => rfl) k
@[simp] theorem Core.landAll_claim (k : Core)  :
    (k.landAll ).claim = k.claim := Core.landAll_keeps Core.claim (fun _ _ => rfl) (fun _ _ => rfl) (fun _ _ => rfl) (fun _ _ => rfl) k
@[simp] theorem Core.landAll_trapRec (k : Core)  :
    (k.landAll ).trapRec = k.trapRec := Core.landAll_keeps Core.trapRec (fun _ _ => rfl) (fun _ _ => rfl) (fun _ _ => rfl) (fun _ _ => rfl) k
@[simp] theorem Core.landAll_saving (k : Core)  :
    (k.landAll ).saving = k.saving := Core.landAll_keeps Core.saving (fun _ _ => rfl) (fun _ _ => rfl) (fun _ _ => rfl) (fun _ _ => rfl) k
@[simp] theorem Core.landAll_placing (k : Core)  :
    (k.landAll ).placing = k.placing := Core.landAll_keeps Core.placing (fun _ _ => rfl) (fun _ _ => rfl) (fun _ _ => rfl) (fun _ _ => rfl) k
@[simp] theorem Core.landAll_given (k : Core)  :
    (k.landAll ).given = k.given := Core.landAll_keeps Core.given (fun _ _ => rfl) (fun _ _ => rfl) (fun _ _ => rfl) (fun _ _ => rfl) k
@[simp] theorem Core.landAll_heldFor (k : Core)  :
    (k.landAll ).heldFor = k.heldFor := Core.landAll_keeps Core.heldFor (fun _ _ => rfl) (fun _ _ => rfl) (fun _ _ => rfl) (fun _ _ => rfl) k

@[simp] theorem Core.setThread_seq (k : Core) (lane : Nat) (slot : Nat) (t : Option Thread) :
    (k.setThread lane slot t).seq = k.seq := rfl
@[simp] theorem Core.setThread_task (k : Core) (lane : Nat) (slot : Nat) (t : Option Thread) :
    (k.setThread lane slot t).task = k.task := rfl
@[simp] theorem Core.setThread_lastCtx (k : Core) (lane : Nat) (slot : Nat) (t : Option Thread) :
    (k.setThread lane slot t).lastCtx = k.lastCtx := rfl
@[simp] theorem Core.setThread_mem (k : Core) (lane : Nat) (slot : Nat) (t : Option Thread) :
    (k.setThread lane slot t).mem = k.mem := rfl
@[simp] theorem Core.setThread_table (k : Core) (lane : Nat) (slot : Nat) (t : Option Thread) :
    (k.setThread lane slot t).table = k.table := rfl
@[simp] theorem Core.setThread_updates (k : Core) (lane : Nat) (slot : Nat) (t : Option Thread) :
    (k.setThread lane slot t).updates = k.updates := rfl
@[simp] theorem Core.setThread_ops (k : Core) (lane : Nat) (slot : Nat) (t : Option Thread) :
    (k.setThread lane slot t).ops = k.ops := rfl
@[simp] theorem Core.setThread_teams (k : Core) (lane : Nat) (slot : Nat) (t : Option Thread) :
    (k.setThread lane slot t).teams = k.teams := rfl
@[simp] theorem Core.setThread_slots (k : Core) (lane : Nat) (slot : Nat) (t : Option Thread) :
    (k.setThread lane slot t).slots = k.slots.setIfInBounds (slotIx lane slot) t := rfl
@[simp] theorem Core.setThread_rr (k : Core) (lane : Nat) (slot : Nat) (t : Option Thread) :
    (k.setThread lane slot t).rr = k.rr := rfl
@[simp] theorem Core.setThread_nextId (k : Core) (lane : Nat) (slot : Nat) (t : Option Thread) :
    (k.setThread lane slot t).nextId = k.nextId := rfl
@[simp] theorem Core.setThread_cmds (k : Core) (lane : Nat) (slot : Nat) (t : Option Thread) :
    (k.setThread lane slot t).cmds = k.cmds := rfl
@[simp] theorem Core.setThread_retq (k : Core) (lane : Nat) (slot : Nat) (t : Option Thread) :
    (k.setThread lane slot t).retq = k.retq := rfl
@[simp] theorem Core.setThread_locks (k : Core) (lane : Nat) (slot : Nat) (t : Option Thread) :
    (k.setThread lane slot t).locks = k.locks := rfl
@[simp] theorem Core.setThread_dq (k : Core) (lane : Nat) (slot : Nat) (t : Option Thread) :
    (k.setThread lane slot t).dq = k.dq := rfl
@[simp] theorem Core.setThread_launchQ (k : Core) (lane : Nat) (slot : Nat) (t : Option Thread) :
    (k.setThread lane slot t).launchQ = k.launchQ := rfl
@[simp] theorem Core.setThread_port (k : Core) (lane : Nat) (slot : Nat) (t : Option Thread) :
    (k.setThread lane slot t).port = k.port := rfl
@[simp] theorem Core.setThread_ped (k : Core) (lane : Nat) (slot : Nat) (t : Option Thread) :
    (k.setThread lane slot t).ped = k.ped := rfl
@[simp] theorem Core.setThread_stores (k : Core) (lane : Nat) (slot : Nat) (t : Option Thread) :
    (k.setThread lane slot t).stores = k.stores := rfl
@[simp] theorem Core.setThread_nextStore (k : Core) (lane : Nat) (slot : Nat) (t : Option Thread) :
    (k.setThread lane slot t).nextStore = k.nextStore := rfl
@[simp] theorem Core.setThread_lstores (k : Core) (lane : Nat) (slot : Nat) (t : Option Thread) :
    (k.setThread lane slot t).lstores = k.lstores := rfl
@[simp] theorem Core.setThread_kstores (k : Core) (lane : Nat) (slot : Nat) (t : Option Thread) :
    (k.setThread lane slot t).kstores = k.kstores := rfl
@[simp] theorem Core.setThread_relCore (k : Core) (lane : Nat) (slot : Nat) (t : Option Thread) :
    (k.setThread lane slot t).relCore = k.relCore := rfl
@[simp] theorem Core.setThread_relOut (k : Core) (lane : Nat) (slot : Nat) (t : Option Thread) :
    (k.setThread lane slot t).relOut = k.relOut := rfl
@[simp] theorem Core.setThread_tlb (k : Core) (lane : Nat) (slot : Nat) (t : Option Thread) :
    (k.setThread lane slot t).tlb = k.tlb := rfl
@[simp] theorem Core.setThread_oldTlb (k : Core) (lane : Nat) (slot : Nat) (t : Option Thread) :
    (k.setThread lane slot t).oldTlb = k.oldTlb := rfl
@[simp] theorem Core.setThread_walks (k : Core) (lane : Nat) (slot : Nat) (t : Option Thread) :
    (k.setThread lane slot t).walks = k.walks := rfl
@[simp] theorem Core.setThread_fb (k : Core) (lane : Nat) (slot : Nat) (t : Option Thread) :
    (k.setThread lane slot t).fb = k.fb := rfl
@[simp] theorem Core.setThread_drops (k : Core) (lane : Nat) (slot : Nat) (t : Option Thread) :
    (k.setThread lane slot t).drops = k.drops := rfl
@[simp] theorem Core.setThread_health (k : Core) (lane : Nat) (slot : Nat) (t : Option Thread) :
    (k.setThread lane slot t).health = k.health := rfl
@[simp] theorem Core.setThread_claim (k : Core) (lane : Nat) (slot : Nat) (t : Option Thread) :
    (k.setThread lane slot t).claim = k.claim := rfl
@[simp] theorem Core.setThread_trapRec (k : Core) (lane : Nat) (slot : Nat) (t : Option Thread) :
    (k.setThread lane slot t).trapRec = k.trapRec := rfl
@[simp] theorem Core.setThread_saving (k : Core) (lane : Nat) (slot : Nat) (t : Option Thread) :
    (k.setThread lane slot t).saving = k.saving := rfl
@[simp] theorem Core.setThread_placing (k : Core) (lane : Nat) (slot : Nat) (t : Option Thread) :
    (k.setThread lane slot t).placing = k.placing := rfl
@[simp] theorem Core.setThread_given (k : Core) (lane : Nat) (slot : Nat) (t : Option Thread) :
    (k.setThread lane slot t).given = k.given := rfl
@[simp] theorem Core.setThread_heldFor (k : Core) (lane : Nat) (slot : Nat) (t : Option Thread) :
    (k.setThread lane slot t).heldFor = k.heldFor := rfl

@[simp] theorem Core.updTeam_seq (k : Core) (op : Nat) (f : Team → Team) : (k.updTeam op f).seq = k.seq := rfl
@[simp] theorem Core.updTeam_task (k : Core) (op : Nat) (f : Team → Team) : (k.updTeam op f).task = k.task := rfl
@[simp] theorem Core.updTeam_lastCtx (k : Core) (op : Nat) (f : Team → Team) :
    (k.updTeam op f).lastCtx = k.lastCtx := rfl
@[simp] theorem Core.updTeam_mem (k : Core) (op : Nat) (f : Team → Team) : (k.updTeam op f).mem = k.mem := rfl
@[simp] theorem Core.updTeam_table (k : Core) (op : Nat) (f : Team → Team) : (k.updTeam op f).table = k.table := rfl
@[simp] theorem Core.updTeam_updates (k : Core) (op : Nat) (f : Team → Team) :
    (k.updTeam op f).updates = k.updates := rfl
@[simp] theorem Core.updTeam_ops (k : Core) (op : Nat) (f : Team → Team) : (k.updTeam op f).ops = k.ops := rfl
@[simp] theorem Core.updTeam_slots (k : Core) (op : Nat) (f : Team → Team) : (k.updTeam op f).slots = k.slots := rfl
@[simp] theorem Core.updTeam_rr (k : Core) (op : Nat) (f : Team → Team) : (k.updTeam op f).rr = k.rr := rfl
@[simp] theorem Core.updTeam_nextId (k : Core) (op : Nat) (f : Team → Team) :
    (k.updTeam op f).nextId = k.nextId := rfl
@[simp] theorem Core.updTeam_cmds (k : Core) (op : Nat) (f : Team → Team) : (k.updTeam op f).cmds = k.cmds := rfl
@[simp] theorem Core.updTeam_retq (k : Core) (op : Nat) (f : Team → Team) : (k.updTeam op f).retq = k.retq := rfl
@[simp] theorem Core.updTeam_locks (k : Core) (op : Nat) (f : Team → Team) : (k.updTeam op f).locks = k.locks := rfl
@[simp] theorem Core.updTeam_dq (k : Core) (op : Nat) (f : Team → Team) : (k.updTeam op f).dq = k.dq := rfl
@[simp] theorem Core.updTeam_launchQ (k : Core) (op : Nat) (f : Team → Team) :
    (k.updTeam op f).launchQ = k.launchQ := rfl
@[simp] theorem Core.updTeam_port (k : Core) (op : Nat) (f : Team → Team) : (k.updTeam op f).port = k.port := rfl
@[simp] theorem Core.updTeam_ped (k : Core) (op : Nat) (f : Team → Team) : (k.updTeam op f).ped = k.ped := rfl
@[simp] theorem Core.updTeam_stores (k : Core) (op : Nat) (f : Team → Team) :
    (k.updTeam op f).stores = k.stores := rfl
@[simp] theorem Core.updTeam_nextStore (k : Core) (op : Nat) (f : Team → Team) :
    (k.updTeam op f).nextStore = k.nextStore := rfl
@[simp] theorem Core.updTeam_lstores (k : Core) (op : Nat) (f : Team → Team) :
    (k.updTeam op f).lstores = k.lstores := rfl
@[simp] theorem Core.updTeam_kstores (k : Core) (op : Nat) (f : Team → Team) :
    (k.updTeam op f).kstores = k.kstores := rfl
@[simp] theorem Core.updTeam_relCore (k : Core) (op : Nat) (f : Team → Team) :
    (k.updTeam op f).relCore = k.relCore := rfl
@[simp] theorem Core.updTeam_relOut (k : Core) (op : Nat) (f : Team → Team) :
    (k.updTeam op f).relOut = k.relOut := rfl
@[simp] theorem Core.updTeam_tlb (k : Core) (op : Nat) (f : Team → Team) : (k.updTeam op f).tlb = k.tlb := rfl
@[simp] theorem Core.updTeam_oldTlb (k : Core) (op : Nat) (f : Team → Team) :
    (k.updTeam op f).oldTlb = k.oldTlb := rfl
@[simp] theorem Core.updTeam_walks (k : Core) (op : Nat) (f : Team → Team) : (k.updTeam op f).walks = k.walks := rfl
@[simp] theorem Core.updTeam_fb (k : Core) (op : Nat) (f : Team → Team) : (k.updTeam op f).fb = k.fb := rfl
@[simp] theorem Core.updTeam_drops (k : Core) (op : Nat) (f : Team → Team) : (k.updTeam op f).drops = k.drops := rfl
@[simp] theorem Core.updTeam_health (k : Core) (op : Nat) (f : Team → Team) :
    (k.updTeam op f).health = k.health := rfl
@[simp] theorem Core.updTeam_claim (k : Core) (op : Nat) (f : Team → Team) : (k.updTeam op f).claim = k.claim := rfl
@[simp] theorem Core.updTeam_trapRec (k : Core) (op : Nat) (f : Team → Team) :
    (k.updTeam op f).trapRec = k.trapRec := rfl
@[simp] theorem Core.updTeam_saving (k : Core) (op : Nat) (f : Team → Team) :
    (k.updTeam op f).saving = k.saving := rfl
@[simp] theorem Core.updTeam_placing (k : Core) (op : Nat) (f : Team → Team) :
    (k.updTeam op f).placing = k.placing := rfl
@[simp] theorem Core.updTeam_given (k : Core) (op : Nat) (f : Team → Team) : (k.updTeam op f).given = k.given := rfl
@[simp] theorem Core.updTeam_heldFor (k : Core) (op : Nat) (f : Team → Team) :
    (k.updTeam op f).heldFor = k.heldFor := rfl

@[simp] theorem Core.updOp_seq (k : Core) (id : Nat) (f : Op → Op) : (k.updOp id f).seq = k.seq := rfl
@[simp] theorem Core.updOp_task (k : Core) (id : Nat) (f : Op → Op) : (k.updOp id f).task = k.task := rfl
@[simp] theorem Core.updOp_lastCtx (k : Core) (id : Nat) (f : Op → Op) : (k.updOp id f).lastCtx = k.lastCtx := rfl
@[simp] theorem Core.updOp_mem (k : Core) (id : Nat) (f : Op → Op) : (k.updOp id f).mem = k.mem := rfl
@[simp] theorem Core.updOp_table (k : Core) (id : Nat) (f : Op → Op) : (k.updOp id f).table = k.table := rfl
@[simp] theorem Core.updOp_updates (k : Core) (id : Nat) (f : Op → Op) : (k.updOp id f).updates = k.updates := rfl
@[simp] theorem Core.updOp_teams (k : Core) (id : Nat) (f : Op → Op) : (k.updOp id f).teams = k.teams := rfl
@[simp] theorem Core.updOp_slots (k : Core) (id : Nat) (f : Op → Op) : (k.updOp id f).slots = k.slots := rfl
@[simp] theorem Core.updOp_rr (k : Core) (id : Nat) (f : Op → Op) : (k.updOp id f).rr = k.rr := rfl
@[simp] theorem Core.updOp_nextId (k : Core) (id : Nat) (f : Op → Op) : (k.updOp id f).nextId = k.nextId := rfl
@[simp] theorem Core.updOp_cmds (k : Core) (id : Nat) (f : Op → Op) : (k.updOp id f).cmds = k.cmds := rfl
@[simp] theorem Core.updOp_retq (k : Core) (id : Nat) (f : Op → Op) : (k.updOp id f).retq = k.retq := rfl
@[simp] theorem Core.updOp_locks (k : Core) (id : Nat) (f : Op → Op) : (k.updOp id f).locks = k.locks := rfl
@[simp] theorem Core.updOp_dq (k : Core) (id : Nat) (f : Op → Op) : (k.updOp id f).dq = k.dq := rfl
@[simp] theorem Core.updOp_launchQ (k : Core) (id : Nat) (f : Op → Op) : (k.updOp id f).launchQ = k.launchQ := rfl
@[simp] theorem Core.updOp_port (k : Core) (id : Nat) (f : Op → Op) : (k.updOp id f).port = k.port := rfl
@[simp] theorem Core.updOp_ped (k : Core) (id : Nat) (f : Op → Op) : (k.updOp id f).ped = k.ped := rfl
@[simp] theorem Core.updOp_stores (k : Core) (id : Nat) (f : Op → Op) : (k.updOp id f).stores = k.stores := rfl
@[simp] theorem Core.updOp_nextStore (k : Core) (id : Nat) (f : Op → Op) :
    (k.updOp id f).nextStore = k.nextStore := rfl
@[simp] theorem Core.updOp_lstores (k : Core) (id : Nat) (f : Op → Op) : (k.updOp id f).lstores = k.lstores := rfl
@[simp] theorem Core.updOp_kstores (k : Core) (id : Nat) (f : Op → Op) : (k.updOp id f).kstores = k.kstores := rfl
@[simp] theorem Core.updOp_relCore (k : Core) (id : Nat) (f : Op → Op) : (k.updOp id f).relCore = k.relCore := rfl
@[simp] theorem Core.updOp_relOut (k : Core) (id : Nat) (f : Op → Op) : (k.updOp id f).relOut = k.relOut := rfl
@[simp] theorem Core.updOp_tlb (k : Core) (id : Nat) (f : Op → Op) : (k.updOp id f).tlb = k.tlb := rfl
@[simp] theorem Core.updOp_oldTlb (k : Core) (id : Nat) (f : Op → Op) : (k.updOp id f).oldTlb = k.oldTlb := rfl
@[simp] theorem Core.updOp_walks (k : Core) (id : Nat) (f : Op → Op) : (k.updOp id f).walks = k.walks := rfl
@[simp] theorem Core.updOp_fb (k : Core) (id : Nat) (f : Op → Op) : (k.updOp id f).fb = k.fb := rfl
@[simp] theorem Core.updOp_drops (k : Core) (id : Nat) (f : Op → Op) : (k.updOp id f).drops = k.drops := rfl
@[simp] theorem Core.updOp_health (k : Core) (id : Nat) (f : Op → Op) : (k.updOp id f).health = k.health := rfl
@[simp] theorem Core.updOp_claim (k : Core) (id : Nat) (f : Op → Op) : (k.updOp id f).claim = k.claim := rfl
@[simp] theorem Core.updOp_trapRec (k : Core) (id : Nat) (f : Op → Op) : (k.updOp id f).trapRec = k.trapRec := rfl
@[simp] theorem Core.updOp_saving (k : Core) (id : Nat) (f : Op → Op) : (k.updOp id f).saving = k.saving := rfl
@[simp] theorem Core.updOp_placing (k : Core) (id : Nat) (f : Op → Op) : (k.updOp id f).placing = k.placing := rfl
@[simp] theorem Core.updOp_given (k : Core) (id : Nat) (f : Op → Op) : (k.updOp id f).given = k.given := rfl
@[simp] theorem Core.updOp_heldFor (k : Core) (id : Nat) (f : Op → Op) : (k.updOp id f).heldFor = k.heldFor := rfl

@[simp] theorem Core.updCmd_seq (k : Core) (id : Nat) (f : Cmd → Cmd) : (k.updCmd id f).seq = k.seq := rfl
@[simp] theorem Core.updCmd_task (k : Core) (id : Nat) (f : Cmd → Cmd) : (k.updCmd id f).task = k.task := rfl
@[simp] theorem Core.updCmd_lastCtx (k : Core) (id : Nat) (f : Cmd → Cmd) : (k.updCmd id f).lastCtx = k.lastCtx := rfl
@[simp] theorem Core.updCmd_mem (k : Core) (id : Nat) (f : Cmd → Cmd) : (k.updCmd id f).mem = k.mem := rfl
@[simp] theorem Core.updCmd_table (k : Core) (id : Nat) (f : Cmd → Cmd) : (k.updCmd id f).table = k.table := rfl
@[simp] theorem Core.updCmd_updates (k : Core) (id : Nat) (f : Cmd → Cmd) : (k.updCmd id f).updates = k.updates := rfl
@[simp] theorem Core.updCmd_ops (k : Core) (id : Nat) (f : Cmd → Cmd) : (k.updCmd id f).ops = k.ops := rfl
@[simp] theorem Core.updCmd_teams (k : Core) (id : Nat) (f : Cmd → Cmd) : (k.updCmd id f).teams = k.teams := rfl
@[simp] theorem Core.updCmd_slots (k : Core) (id : Nat) (f : Cmd → Cmd) : (k.updCmd id f).slots = k.slots := rfl
@[simp] theorem Core.updCmd_rr (k : Core) (id : Nat) (f : Cmd → Cmd) : (k.updCmd id f).rr = k.rr := rfl
@[simp] theorem Core.updCmd_nextId (k : Core) (id : Nat) (f : Cmd → Cmd) : (k.updCmd id f).nextId = k.nextId := rfl
@[simp] theorem Core.updCmd_retq (k : Core) (id : Nat) (f : Cmd → Cmd) : (k.updCmd id f).retq = k.retq := rfl
@[simp] theorem Core.updCmd_locks (k : Core) (id : Nat) (f : Cmd → Cmd) : (k.updCmd id f).locks = k.locks := rfl
@[simp] theorem Core.updCmd_dq (k : Core) (id : Nat) (f : Cmd → Cmd) : (k.updCmd id f).dq = k.dq := rfl
@[simp] theorem Core.updCmd_launchQ (k : Core) (id : Nat) (f : Cmd → Cmd) : (k.updCmd id f).launchQ = k.launchQ := rfl
@[simp] theorem Core.updCmd_port (k : Core) (id : Nat) (f : Cmd → Cmd) : (k.updCmd id f).port = k.port := rfl
@[simp] theorem Core.updCmd_ped (k : Core) (id : Nat) (f : Cmd → Cmd) : (k.updCmd id f).ped = k.ped := rfl
@[simp] theorem Core.updCmd_stores (k : Core) (id : Nat) (f : Cmd → Cmd) : (k.updCmd id f).stores = k.stores := rfl
@[simp] theorem Core.updCmd_nextStore (k : Core) (id : Nat) (f : Cmd → Cmd) :
    (k.updCmd id f).nextStore = k.nextStore := rfl
@[simp] theorem Core.updCmd_lstores (k : Core) (id : Nat) (f : Cmd → Cmd) : (k.updCmd id f).lstores = k.lstores := rfl
@[simp] theorem Core.updCmd_kstores (k : Core) (id : Nat) (f : Cmd → Cmd) : (k.updCmd id f).kstores = k.kstores := rfl
@[simp] theorem Core.updCmd_relCore (k : Core) (id : Nat) (f : Cmd → Cmd) : (k.updCmd id f).relCore = k.relCore := rfl
@[simp] theorem Core.updCmd_relOut (k : Core) (id : Nat) (f : Cmd → Cmd) : (k.updCmd id f).relOut = k.relOut := rfl
@[simp] theorem Core.updCmd_tlb (k : Core) (id : Nat) (f : Cmd → Cmd) : (k.updCmd id f).tlb = k.tlb := rfl
@[simp] theorem Core.updCmd_oldTlb (k : Core) (id : Nat) (f : Cmd → Cmd) : (k.updCmd id f).oldTlb = k.oldTlb := rfl
@[simp] theorem Core.updCmd_walks (k : Core) (id : Nat) (f : Cmd → Cmd) : (k.updCmd id f).walks = k.walks := rfl
@[simp] theorem Core.updCmd_fb (k : Core) (id : Nat) (f : Cmd → Cmd) : (k.updCmd id f).fb = k.fb := rfl
@[simp] theorem Core.updCmd_drops (k : Core) (id : Nat) (f : Cmd → Cmd) : (k.updCmd id f).drops = k.drops := rfl
@[simp] theorem Core.updCmd_health (k : Core) (id : Nat) (f : Cmd → Cmd) : (k.updCmd id f).health = k.health := rfl
@[simp] theorem Core.updCmd_claim (k : Core) (id : Nat) (f : Cmd → Cmd) : (k.updCmd id f).claim = k.claim := rfl
@[simp] theorem Core.updCmd_trapRec (k : Core) (id : Nat) (f : Cmd → Cmd) : (k.updCmd id f).trapRec = k.trapRec := rfl
@[simp] theorem Core.updCmd_saving (k : Core) (id : Nat) (f : Cmd → Cmd) : (k.updCmd id f).saving = k.saving := rfl
@[simp] theorem Core.updCmd_placing (k : Core) (id : Nat) (f : Cmd → Cmd) : (k.updCmd id f).placing = k.placing := rfl
@[simp] theorem Core.updCmd_given (k : Core) (id : Nat) (f : Cmd → Cmd) : (k.updCmd id f).given = k.given := rfl
@[simp] theorem Core.updCmd_heldFor (k : Core) (id : Nat) (f : Cmd → Cmd) : (k.updCmd id f).heldFor = k.heldFor := rfl

/-! ### Updates of the sequencer -/

@[simp] theorem Seq.advance_mode (q : Seq) (n : Nat) : (q.advance n).mode = q.mode := rfl
@[simp] theorem Seq.advance_pc (q : Seq) (n : Nat) : (q.advance n).pc = q.pc + BitVec.ofNat 64 (8 * n) := rfl
@[simp] theorem Seq.advance_s (q : Seq) (n : Nat) : (q.advance n).s = q.s := rfl
@[simp] theorem Seq.advance_p (q : Seq) (n : Nat) : (q.advance n).p = q.p := rfl
@[simp] theorem Seq.advance_t (q : Seq) (n : Nat) : (q.advance n).t = q.t := rfl
@[simp] theorem Seq.advance_c (q : Seq) (n : Nat) : (q.advance n).c = q.c := rfl
@[simp] theorem Seq.advance_code (q : Seq) (n : Nat) : (q.advance n).code = q.code := rfl
@[simp] theorem Seq.advance_trapvec (q : Seq) (n : Nat) : (q.advance n).trapvec = q.trapvec := rfl
@[simp] theorem Seq.advance_epc (q : Seq) (n : Nat) : (q.advance n).epc = q.epc := rfl
@[simp] theorem Seq.advance_trapcause (q : Seq) (n : Nat) : (q.advance n).trapcause = q.trapcause := rfl
@[simp] theorem Seq.advance_tflags (q : Seq) (n : Nat) : (q.advance n).tflags = q.tflags := rfl
@[simp] theorem Seq.advance_trapen (q : Seq) (n : Nat) : (q.advance n).trapen = q.trapen := rfl
@[simp] theorem Seq.advance_faircyc (q : Seq) (n : Nat) : (q.advance n).faircyc = q.faircyc := rfl
@[simp] theorem Seq.advance_partid (q : Seq) (n : Nat) : (q.advance n).partid = q.partid := rfl
@[simp] theorem Seq.advance_iter (q : Seq) (n : Nat) : (q.advance n).iter = q.iter := rfl
@[simp] theorem Seq.advance_itern (q : Seq) (n : Nat) : (q.advance n).itern = q.itern := rfl
@[simp] theorem Seq.advance_nodearg (q : Seq) (n : Nat) : (q.advance n).nodearg = q.nodearg := rfl
@[simp] theorem Seq.advance_wake (q : Seq) (n : Nat) : (q.advance n).wake = q.wake := rfl
@[simp] theorem Seq.advance_start (q : Seq) (n : Nat) : (q.advance n).start = q.start := rfl
@[simp] theorem Seq.advance_dtag (q : Seq) (n : Nat) : (q.advance n).dtag = q.dtag := rfl
@[simp] theorem Seq.advance_safe (q : Seq) (n : Nat) : (q.advance n).safe = q.safe := rfl
@[simp] theorem Seq.advance_afterSafe (q : Seq) (n : Nat) : (q.advance n).afterSafe = false := rfl
@[simp] theorem Seq.advance_drain (q : Seq) (n : Nat) : (q.advance n).drain = q.drain := rfl
@[simp] theorem Seq.advance_standSince (q : Seq) (n : Nat) : (q.advance n).standSince = q.standSince := rfl
@[simp] theorem Seq.advance_restart (q : Seq) (n : Nat) : (q.advance n).restart = q.restart := rfl
@[simp] theorem Seq.advance_pend (q : Seq) (n : Nat) : (q.advance n).pend = q.pend := rfl
@[simp] theorem Seq.advance_park (q : Seq) (n : Nat) : (q.advance n).park = q.park := rfl
@[simp] theorem Seq.advance_remote (q : Seq) (n : Nat) : (q.advance n).remote = q.remote := rfl
@[simp] theorem Seq.advance_floor (q : Seq) (n : Nat) : (q.advance n).floor = q.floor := rfl

@[simp] theorem Seq.setPred_mode (q : Seq) (p : PredNo) (b : Bool) : (q.setPred p b).mode = q.mode := rfl
@[simp] theorem Seq.setPred_pc (q : Seq) (p : PredNo) (b : Bool) : (q.setPred p b).pc = q.pc := rfl
@[simp] theorem Seq.setPred_s (q : Seq) (p : PredNo) (b : Bool) : (q.setPred p b).s = q.s := rfl
@[simp] theorem Seq.setPred_p (q : Seq) (p : PredNo) (b : Bool) : (q.setPred p b).p = predSet q.p p b := rfl
@[simp] theorem Seq.setPred_t (q : Seq) (p : PredNo) (b : Bool) : (q.setPred p b).t = q.t := rfl
@[simp] theorem Seq.setPred_c (q : Seq) (p : PredNo) (b : Bool) : (q.setPred p b).c = q.c := rfl
@[simp] theorem Seq.setPred_code (q : Seq) (p : PredNo) (b : Bool) : (q.setPred p b).code = q.code := rfl
@[simp] theorem Seq.setPred_trapvec (q : Seq) (p : PredNo) (b : Bool) : (q.setPred p b).trapvec = q.trapvec := rfl
@[simp] theorem Seq.setPred_epc (q : Seq) (p : PredNo) (b : Bool) : (q.setPred p b).epc = q.epc := rfl
@[simp] theorem Seq.setPred_trapcause (q : Seq) (p : PredNo) (b : Bool) :
    (q.setPred p b).trapcause = q.trapcause := rfl
@[simp] theorem Seq.setPred_tflags (q : Seq) (p : PredNo) (b : Bool) : (q.setPred p b).tflags = q.tflags := rfl
@[simp] theorem Seq.setPred_trapen (q : Seq) (p : PredNo) (b : Bool) : (q.setPred p b).trapen = q.trapen := rfl
@[simp] theorem Seq.setPred_faircyc (q : Seq) (p : PredNo) (b : Bool) : (q.setPred p b).faircyc = q.faircyc := rfl
@[simp] theorem Seq.setPred_partid (q : Seq) (p : PredNo) (b : Bool) : (q.setPred p b).partid = q.partid := rfl
@[simp] theorem Seq.setPred_iter (q : Seq) (p : PredNo) (b : Bool) : (q.setPred p b).iter = q.iter := rfl
@[simp] theorem Seq.setPred_itern (q : Seq) (p : PredNo) (b : Bool) : (q.setPred p b).itern = q.itern := rfl
@[simp] theorem Seq.setPred_nodearg (q : Seq) (p : PredNo) (b : Bool) : (q.setPred p b).nodearg = q.nodearg := rfl
@[simp] theorem Seq.setPred_wake (q : Seq) (p : PredNo) (b : Bool) : (q.setPred p b).wake = q.wake := rfl
@[simp] theorem Seq.setPred_start (q : Seq) (p : PredNo) (b : Bool) : (q.setPred p b).start = q.start := rfl
@[simp] theorem Seq.setPred_dtag (q : Seq) (p : PredNo) (b : Bool) : (q.setPred p b).dtag = q.dtag := rfl
@[simp] theorem Seq.setPred_safe (q : Seq) (p : PredNo) (b : Bool) : (q.setPred p b).safe = q.safe := rfl
@[simp] theorem Seq.setPred_afterSafe (q : Seq) (p : PredNo) (b : Bool) :
    (q.setPred p b).afterSafe = q.afterSafe := rfl
@[simp] theorem Seq.setPred_drain (q : Seq) (p : PredNo) (b : Bool) : (q.setPred p b).drain = q.drain := rfl
@[simp] theorem Seq.setPred_standSince (q : Seq) (p : PredNo) (b : Bool) :
    (q.setPred p b).standSince = q.standSince := rfl
@[simp] theorem Seq.setPred_restart (q : Seq) (p : PredNo) (b : Bool) : (q.setPred p b).restart = q.restart := rfl
@[simp] theorem Seq.setPred_pend (q : Seq) (p : PredNo) (b : Bool) : (q.setPred p b).pend = q.pend := rfl
@[simp] theorem Seq.setPred_park (q : Seq) (p : PredNo) (b : Bool) : (q.setPred p b).park = q.park := rfl
@[simp] theorem Seq.setPred_remote (q : Seq) (p : PredNo) (b : Bool) : (q.setPred p b).remote = q.remote := rfl
@[simp] theorem Seq.setPred_floor (q : Seq) (p : PredNo) (b : Bool) : (q.setPred p b).floor = q.floor := rfl

@[simp] theorem Seq.orFlags_mode (q : Seq) (f : Flags6) : (q.orFlags f).mode = q.mode := rfl
@[simp] theorem Seq.orFlags_pc (q : Seq) (f : Flags6) : (q.orFlags f).pc = q.pc := rfl
@[simp] theorem Seq.orFlags_s (q : Seq) (f : Flags6) : (q.orFlags f).s = q.s := rfl
@[simp] theorem Seq.orFlags_p (q : Seq) (f : Flags6) : (q.orFlags f).p = q.p := rfl
@[simp] theorem Seq.orFlags_t (q : Seq) (f : Flags6) : (q.orFlags f).t = q.t := rfl
@[simp] theorem Seq.orFlags_c (q : Seq) (f : Flags6) : (q.orFlags f).c = q.c := rfl
@[simp] theorem Seq.orFlags_code (q : Seq) (f : Flags6) : (q.orFlags f).code = q.code := rfl
@[simp] theorem Seq.orFlags_trapvec (q : Seq) (f : Flags6) : (q.orFlags f).trapvec = q.trapvec := rfl
@[simp] theorem Seq.orFlags_epc (q : Seq) (f : Flags6) : (q.orFlags f).epc = q.epc := rfl
@[simp] theorem Seq.orFlags_trapcause (q : Seq) (f : Flags6) : (q.orFlags f).trapcause = q.trapcause := rfl
@[simp] theorem Seq.orFlags_tflags (q : Seq) (f : Flags6) : (q.orFlags f).tflags = q.tflags ||| f.zeroExtend 64 := rfl
@[simp] theorem Seq.orFlags_trapen (q : Seq) (f : Flags6) : (q.orFlags f).trapen = q.trapen := rfl
@[simp] theorem Seq.orFlags_faircyc (q : Seq) (f : Flags6) : (q.orFlags f).faircyc = q.faircyc := rfl
@[simp] theorem Seq.orFlags_partid (q : Seq) (f : Flags6) : (q.orFlags f).partid = q.partid := rfl
@[simp] theorem Seq.orFlags_iter (q : Seq) (f : Flags6) : (q.orFlags f).iter = q.iter := rfl
@[simp] theorem Seq.orFlags_itern (q : Seq) (f : Flags6) : (q.orFlags f).itern = q.itern := rfl
@[simp] theorem Seq.orFlags_nodearg (q : Seq) (f : Flags6) : (q.orFlags f).nodearg = q.nodearg := rfl
@[simp] theorem Seq.orFlags_wake (q : Seq) (f : Flags6) : (q.orFlags f).wake = q.wake := rfl
@[simp] theorem Seq.orFlags_start (q : Seq) (f : Flags6) : (q.orFlags f).start = q.start := rfl
@[simp] theorem Seq.orFlags_dtag (q : Seq) (f : Flags6) : (q.orFlags f).dtag = q.dtag := rfl
@[simp] theorem Seq.orFlags_safe (q : Seq) (f : Flags6) : (q.orFlags f).safe = q.safe := rfl
@[simp] theorem Seq.orFlags_afterSafe (q : Seq) (f : Flags6) : (q.orFlags f).afterSafe = q.afterSafe := rfl
@[simp] theorem Seq.orFlags_drain (q : Seq) (f : Flags6) : (q.orFlags f).drain = q.drain := rfl
@[simp] theorem Seq.orFlags_standSince (q : Seq) (f : Flags6) : (q.orFlags f).standSince = q.standSince := rfl
@[simp] theorem Seq.orFlags_restart (q : Seq) (f : Flags6) : (q.orFlags f).restart = q.restart := rfl
@[simp] theorem Seq.orFlags_pend (q : Seq) (f : Flags6) : (q.orFlags f).pend = q.pend := rfl
@[simp] theorem Seq.orFlags_park (q : Seq) (f : Flags6) : (q.orFlags f).park = q.park := rfl
@[simp] theorem Seq.orFlags_remote (q : Seq) (f : Flags6) : (q.orFlags f).remote = q.remote := rfl
@[simp] theorem Seq.orFlags_floor (q : Seq) (f : Flags6) : (q.orFlags f).floor = q.floor := rfl

@[simp] theorem Seq.orT_mode (q : Seq) (f : W64) : (q.orT f).mode = q.mode := rfl
@[simp] theorem Seq.orT_pc (q : Seq) (f : W64) : (q.orT f).pc = q.pc := rfl
@[simp] theorem Seq.orT_s (q : Seq) (f : W64) : (q.orT f).s = q.s := rfl
@[simp] theorem Seq.orT_p (q : Seq) (f : W64) : (q.orT f).p = q.p := rfl
@[simp] theorem Seq.orT_t (q : Seq) (f : W64) : (q.orT f).t = q.t := rfl
@[simp] theorem Seq.orT_c (q : Seq) (f : W64) : (q.orT f).c = q.c := rfl
@[simp] theorem Seq.orT_code (q : Seq) (f : W64) : (q.orT f).code = q.code := rfl
@[simp] theorem Seq.orT_trapvec (q : Seq) (f : W64) : (q.orT f).trapvec = q.trapvec := rfl
@[simp] theorem Seq.orT_epc (q : Seq) (f : W64) : (q.orT f).epc = q.epc := rfl
@[simp] theorem Seq.orT_trapcause (q : Seq) (f : W64) : (q.orT f).trapcause = q.trapcause := rfl
@[simp] theorem Seq.orT_tflags (q : Seq) (f : W64) : (q.orT f).tflags = q.tflags ||| f := rfl
@[simp] theorem Seq.orT_trapen (q : Seq) (f : W64) : (q.orT f).trapen = q.trapen := rfl
@[simp] theorem Seq.orT_faircyc (q : Seq) (f : W64) : (q.orT f).faircyc = q.faircyc := rfl
@[simp] theorem Seq.orT_partid (q : Seq) (f : W64) : (q.orT f).partid = q.partid := rfl
@[simp] theorem Seq.orT_iter (q : Seq) (f : W64) : (q.orT f).iter = q.iter := rfl
@[simp] theorem Seq.orT_itern (q : Seq) (f : W64) : (q.orT f).itern = q.itern := rfl
@[simp] theorem Seq.orT_nodearg (q : Seq) (f : W64) : (q.orT f).nodearg = q.nodearg := rfl
@[simp] theorem Seq.orT_wake (q : Seq) (f : W64) : (q.orT f).wake = q.wake := rfl
@[simp] theorem Seq.orT_start (q : Seq) (f : W64) : (q.orT f).start = q.start := rfl
@[simp] theorem Seq.orT_dtag (q : Seq) (f : W64) : (q.orT f).dtag = q.dtag := rfl
@[simp] theorem Seq.orT_safe (q : Seq) (f : W64) : (q.orT f).safe = q.safe := rfl
@[simp] theorem Seq.orT_afterSafe (q : Seq) (f : W64) : (q.orT f).afterSafe = q.afterSafe := rfl
@[simp] theorem Seq.orT_drain (q : Seq) (f : W64) : (q.orT f).drain = q.drain := rfl
@[simp] theorem Seq.orT_standSince (q : Seq) (f : W64) : (q.orT f).standSince = q.standSince := rfl
@[simp] theorem Seq.orT_restart (q : Seq) (f : W64) : (q.orT f).restart = q.restart := rfl
@[simp] theorem Seq.orT_pend (q : Seq) (f : W64) : (q.orT f).pend = q.pend := rfl
@[simp] theorem Seq.orT_park (q : Seq) (f : W64) : (q.orT f).park = q.park := rfl
@[simp] theorem Seq.orT_remote (q : Seq) (f : W64) : (q.orT f).remote = q.remote := rfl
@[simp] theorem Seq.orT_floor (q : Seq) (f : W64) : (q.orT f).floor = q.floor := rfl

@[simp] theorem SK.put_mode (v : W64) (q : Seq) (d : SK) : (SK.put v q d).mode = q.mode := by cases d <;> rfl
@[simp] theorem SK.put_pc (v : W64) (q : Seq) (d : SK) : (SK.put v q d).pc = q.pc := by cases d <;> rfl
@[simp] theorem SK.put_p (v : W64) (q : Seq) (d : SK) : (SK.put v q d).p = q.p := by cases d <;> rfl
@[simp] theorem SK.put_t (v : W64) (q : Seq) (d : SK) : (SK.put v q d).t = q.t := by cases d <;> rfl
@[simp] theorem SK.put_code (v : W64) (q : Seq) (d : SK) : (SK.put v q d).code = q.code := by cases d <;> rfl
@[simp] theorem SK.put_trapvec (v : W64) (q : Seq) (d : SK) : (SK.put v q d).trapvec = q.trapvec := by cases d <;> rfl
@[simp] theorem SK.put_epc (v : W64) (q : Seq) (d : SK) : (SK.put v q d).epc = q.epc := by cases d <;> rfl
@[simp] theorem SK.put_trapcause (v : W64) (q : Seq) (d : SK) :
    (SK.put v q d).trapcause = q.trapcause := by cases d <;> rfl
@[simp] theorem SK.put_tflags (v : W64) (q : Seq) (d : SK) : (SK.put v q d).tflags = q.tflags := by cases d <;> rfl
@[simp] theorem SK.put_trapen (v : W64) (q : Seq) (d : SK) : (SK.put v q d).trapen = q.trapen := by cases d <;> rfl
@[simp] theorem SK.put_faircyc (v : W64) (q : Seq) (d : SK) : (SK.put v q d).faircyc = q.faircyc := by cases d <;> rfl
@[simp] theorem SK.put_partid (v : W64) (q : Seq) (d : SK) : (SK.put v q d).partid = q.partid := by cases d <;> rfl
@[simp] theorem SK.put_iter (v : W64) (q : Seq) (d : SK) : (SK.put v q d).iter = q.iter := by cases d <;> rfl
@[simp] theorem SK.put_itern (v : W64) (q : Seq) (d : SK) : (SK.put v q d).itern = q.itern := by cases d <;> rfl
@[simp] theorem SK.put_nodearg (v : W64) (q : Seq) (d : SK) : (SK.put v q d).nodearg = q.nodearg := by cases d <;> rfl
@[simp] theorem SK.put_wake (v : W64) (q : Seq) (d : SK) : (SK.put v q d).wake = q.wake := by cases d <;> rfl
@[simp] theorem SK.put_start (v : W64) (q : Seq) (d : SK) : (SK.put v q d).start = q.start := by cases d <;> rfl
@[simp] theorem SK.put_dtag (v : W64) (q : Seq) (d : SK) : (SK.put v q d).dtag = q.dtag := by cases d <;> rfl
@[simp] theorem SK.put_safe (v : W64) (q : Seq) (d : SK) : (SK.put v q d).safe = q.safe := by cases d <;> rfl
@[simp] theorem SK.put_afterSafe (v : W64) (q : Seq) (d : SK) :
    (SK.put v q d).afterSafe = q.afterSafe := by cases d <;> rfl
@[simp] theorem SK.put_drain (v : W64) (q : Seq) (d : SK) : (SK.put v q d).drain = q.drain := by cases d <;> rfl
@[simp] theorem SK.put_standSince (v : W64) (q : Seq) (d : SK) :
    (SK.put v q d).standSince = q.standSince := by cases d <;> rfl
@[simp] theorem SK.put_restart (v : W64) (q : Seq) (d : SK) : (SK.put v q d).restart = q.restart := by cases d <;> rfl
@[simp] theorem SK.put_pend (v : W64) (q : Seq) (d : SK) : (SK.put v q d).pend = q.pend := by cases d <;> rfl
@[simp] theorem SK.put_park (v : W64) (q : Seq) (d : SK) : (SK.put v q d).park = q.park := by cases d <;> rfl
@[simp] theorem SK.put_remote (v : W64) (q : Seq) (d : SK) : (SK.put v q d).remote = q.remote := by cases d <;> rfl
@[simp] theorem SK.put_floor (v : W64) (q : Seq) (d : SK) : (SK.put v q d).floor = q.floor := by cases d <;> rfl

@[simp] theorem SK.put_s_s (v : W64) (q : Seq) (i : RegNo) : (SK.put v q (.s i)).s = q.s.set i.val v := rfl
@[simp] theorem SK.put_s_c (v : W64) (q : Seq) (i : RegNo) : (SK.put v q (.s i)).c = q.c := rfl
@[simp] theorem SK.put_c_s (v : W64) (q : Seq) (i : Fin 256) : (SK.put v q (.c i)).s = q.s := rfl
@[simp] theorem SK.put_c_c (v : W64) (q : Seq) (i : Fin 256) : (SK.put v q (.c i)).c = q.c.set i.val v := rfl

/-- An operand reads back the value put into it. -/
theorem SK.val_put (v : W64) (q : Seq) (d : SK) : SK.val (SK.put v q d) d = v := by
  cases d <;> simp [SK.val, SK.put]

/-- Another operand reads as before. -/
theorem SK.val_put_other (v : W64) (q : Seq) (d e : SK) (h : e ≠ d) : SK.val (SK.put v q d) e = SK.val q e := by
  cases d with
  | s i =>
    cases e with
    | s j =>
      have hij : i.val ≠ j.val := fun x => h (by rw [Fin.ext x])
      simp [SK.val, SK.put, hij]
    | c j => rfl
  | c i =>
    cases e with
    | s j => rfl
    | c j =>
      have hij : i.val ≠ j.val := fun x => h (by rw [Fin.ext x])
      simp [SK.val, SK.put, hij]

/-- A write to `p7` is discarded, and it reads true (R15). -/
theorem pred_p7 (q : Seq) (b : Bool) : q.setPred 7 b = q ∧ q.pred 7 = true := by
  simp [Seq.setPred, predSet, Seq.pred]

end Sys2Proof.Machine
end

