-- ==== Sys2Proof/Laws/Wf.lean ====
section
/-! SUPPORT. The shared operations keep the canonical form of every memory: one lemma for each operation. -/

namespace Sys2Proof

open Machine

/-- The canonical form, as two facts. -/
theorem memoriesWf_iff {s : State} :
    memoriesWf s = true ↔ s.dev.hbm.wf = true ∧ ∀ c : CoreNo, CoreMem.wf (s.core c).mem = true := by
  unfold memoriesWf
  simp only [Bool.and_eq_true, List.all_eq_true, Vector.mem_toList_iff, State.core]
  constructor
  · exact fun h => ⟨h.1, fun c => h.2 _ (Vector.getElem_mem _)⟩
  · refine fun h => ⟨h.1, fun k hk => ?_⟩
    obtain ⟨i, hi, rfl⟩ := Vector.getElem_of_mem hk
    exact h.2 ⟨i, hi⟩

/-! ### One core -/

theorem kput_wf {m : CoreMem} (h : CoreMem.wf m = true) (a : Nat) (bs : List Byte) :
    CoreMem.wf (m.kput a bs) = true := by
  simp only [CoreMem.wf, Bool.and_eq_true] at h ⊢
  exact ⟨⟨memPutN_wf h.1.1 _ _, h.1.2⟩, h.2⟩

theorem aput_wf {m : CoreMem} (h : CoreMem.wf m = true) (a : Nat) (bs : List Byte) :
    CoreMem.wf (m.aput a bs) = true := by
  simp only [CoreMem.wf, Bool.and_eq_true] at h ⊢
  exact ⟨⟨h.1.1, memPutN_wf h.1.2 _ _⟩, h.2⟩

theorem pput_wf {m : CoreMem} (h : CoreMem.wf m = true) (lane a : Nat) (bs : List Byte) :
    CoreMem.wf (m.pput lane a bs) = true := by
  simp only [CoreMem.wf, Bool.and_eq_true] at h ⊢
  exact ⟨h.1, memPutN_wf h.2 _ _⟩

/-- What a fold of steps keeps: a property that each step keeps. -/
theorem foldl_holds {σ α : Type} (p : σ → Prop) (f : σ → α → σ) (h : ∀ s x, p s → p (f s x)) (s : σ) (xs : List α)
    (hs : p s) : p (xs.foldl f s) := by
  induction xs generalizing s with
  | nil => exact hs
  | cons x xs ih => exact ih _ (h s x hs)

theorem landKstores_wf {k : Core} (h : CoreMem.wf k.mem = true) (a : Agent) (take : KStore → Bool) :
    CoreMem.wf (k.landKstores a take).mem = true :=
  foldl_holds (fun k : Core => CoreMem.wf k.mem = true) (fun (k : Core) (p : KStore) => k.kwrite p.addr p.bytes)
    (fun _ _ h => kput_wf h _ _) _ _ h

theorem toL1s_wf {k : Core} (h : CoreMem.wf k.mem = true) (ps : List PStore) :
    CoreMem.wf (ps.foldl Core.toL1 k).mem = true :=
  foldl_holds (fun k : Core => CoreMem.wf k.mem = true) Core.toL1 (fun _ _ h => h) _ _ h

theorem landLstores_wf {k : Core} (h : CoreMem.wf k.mem = true) (a : Agent) (take : PStore → Bool) :
    CoreMem.wf (k.landLstores a take).mem = true := by
  unfold Core.landLstores
  dsimp only
  refine toL1s_wf ?_ _
  exact h

theorem landAll_wf {k : Core} (h : CoreMem.wf k.mem = true) : CoreMem.wf k.landAll.mem = true := by
  unfold Core.landAll
  dsimp only
  refine toL1s_wf ?_ _
  exact foldl_holds (fun k : Core => CoreMem.wf k.mem = true) (fun (k : Core) (p : KStore) => k.kwrite p.addr p.bytes)
    (fun _ _ h => kput_wf h _ _) _ _ h

theorem landPart_wf {k : Core} (h : CoreMem.wf k.mem = true) (p : KStore) (take : Nat → Bool) :
    CoreMem.wf (k.landPart p take).mem = true :=
  foldl_holds (fun k : Core => CoreMem.wf k.mem = true) (fun (k : Core) (b : Byte × Nat) => k.kwrite (p.addr + b.2) [b.1])
    (fun _ _ h => kput_wf h _ _) _ _ h

/-! ### The state -/

/-- An update of one core that keeps the form of its memory keeps that of every memory. -/
theorem updCore_memoriesWf {s : State} (h : memoriesWf s = true) (c : CoreNo) (f : Core → Core)
    (hf : CoreMem.wf (s.core c).mem = true → CoreMem.wf (f (s.core c)).mem = true) :
    memoriesWf (s.updCore c f) = true := by
  rw [memoriesWf_iff] at h ⊢
  refine ⟨h.1, fun d => ?_⟩
  by_cases hd : d = c
  · subst hd
    rw [State.core_updCore_same]
    exact hf (h.2 d)
  · rw [State.core_updCore_other _ _ _ _ hd]
    exact h.2 d

/-- An update that leaves the memory of the core as it is. -/
theorem updCore_memoriesWf_of_mem {s : State} (h : memoriesWf s = true) (c : CoreNo) (f : Core → Core)
    (hf : ∀ k, (f k).mem = k.mem) : memoriesWf (s.updCore c f) = true :=
  updCore_memoriesWf h c f (by rw [hf]; exact id)

theorem updSeq_memoriesWf {s : State} (h : memoriesWf s = true) (c : CoreNo) (f : Seq → Seq) :
    memoriesWf (s.updSeq c f) = true := updCore_memoriesWf_of_mem h c _ fun _ => rfl

theorem kwrite_memoriesWf {s : State} (h : memoriesWf s = true) (c : CoreNo) (a : Nat) (bs : List Byte) :
    memoriesWf (s.kwrite c a bs) = true := updCore_memoriesWf h c _ fun hk => kput_wf hk a bs

/-- Device memory of canonical form takes the place of device memory. -/
theorem setDev_memoriesWf {s : State} (h : memoriesWf s = true) (d : DevMem) (hd : d.hbm.wf = true) :
    memoriesWf (s.setDev d) = true := by
  rw [memoriesWf_iff] at h ⊢
  exact ⟨hd, h.2⟩

theorem foldWrite_hbm (d : DevMem) (ctx : W32) (pidx pa n : Nat) (replay : Bool) :
    (d.foldWrite ctx pidx pa n replay).hbm = d.hbm := by
  unfold DevMem.foldWrite
  split <;> rfl

theorem homePut_memoriesWf {s : State} (h : memoriesWf s = true) (src : Nat) (kind : WKind) (ctx : W32) (pidx : Nat)
    (replay : Bool) (pa : Nat) (bs : List Byte) : memoriesWf (s.homePut src kind ctx pidx replay pa bs) = true :=
  setDev_memoriesWf h _ (by rw [foldWrite_hbm]; exact put_wf (memoriesWf_iff.1 h).1 src kind pa bs)

theorem setFloor_mem (k : Core) (a : Agent) (f : Floor) : (k.setFloor a f).mem = k.mem := by
  cases a <;> rfl

theorem landHeld_memoriesWf {s : State} (h : memoriesWf s = true) (x : Held) : memoriesWf (s.landHeld x) = true := by
  unfold State.landHeld
  exact updCore_memoriesWf_of_mem (setDev_memoriesWf (homePut_memoriesWf h _ _ _ _ _ _ _) _
    (memoriesWf_iff.1 (homePut_memoriesWf h _ _ _ _ _ _ _)).1) _ _ fun k => setFloor_mem k _ _

theorem flushHeld_memoriesWf {s : State} (h : memoriesWf s = true) (take : Held → Bool) :
    memoriesWf (s.flushHeld take) = true :=
  foldl_holds (fun s => memoriesWf s = true) State.landHeld (fun _ x h => landHeld_memoriesWf h x) _ _ h

theorem homeWrite_memoriesWf {s : State} (h : memoriesWf s = true) (src : Nat) (kind : WKind) (ctx : W32) (pidx : Nat)
    (replay : Bool) (pa : Nat) (bs : List Byte) : memoriesWf (s.homeWrite src kind ctx pidx replay pa bs) = true :=
  homePut_memoriesWf (flushHeld_memoriesWf h _) _ _ _ _ _ _ _

theorem poisonFrom_hbm (d : DevMem) (m : CoreMem) (pa n : Nat) : (d.poisonFrom m pa n).hbm = d.hbm := by
  unfold DevMem.poisonFrom
  split <;> rfl

theorem perform_memoriesWf {s : State} (h : memoriesWf s = true) (c : CoreNo) (p : PStore) :
    memoriesWf (s.perform c p) = true := by
  unfold State.perform
  dsimp only
  refine updCore_memoriesWf_of_mem (setDev_memoriesWf ?_ _ ?_) _ _ fun _ => rfl
  · exact homeWrite_memoriesWf h _ _ _ _ _ _ _
  · rw [poisonFrom_hbm]
    exact (memoriesWf_iff.1 (homeWrite_memoriesWf h _ _ _ _ _ _ _)).1

theorem performAll_memoriesWf {s : State} (h : memoriesWf s = true) (c : CoreNo) (need : PStore → Bool) :
    memoriesWf (s.performAll c need) = true :=
  foldl_holds (fun s => memoriesWf s = true) (fun s p => s.perform c p) (fun _ p h => perform_memoriesWf h c p) _ _ h

theorem performFolds_memoriesWf {s : State} (h : memoriesWf s = true) (c : CoreNo) :
    memoriesWf (s.performFolds c) = true := by
  unfold State.performFolds
  dsimp only
  refine updCore_memoriesWf_of_mem ?_ c _ fun _ => rfl
  exact setDev_memoriesWf h _ (memoriesWf_iff.1 h).1

theorem setSched_memoriesWf {s : State} (h : memoriesWf s = true) (x : Sched) : memoriesWf (s.setSched x) = true := h

theorem choice_memoriesWf {s : State} (h : memoriesWf s = true) : memoriesWf s.choice.2 = true := by
  unfold State.choice
  split <;> exact h

theorem undef_memoriesWf {s : State} (h : memoriesWf s = true) (w : Nat) : memoriesWf (s.undef w).2 = true := h

theorem devRead_memoriesWf {s : State} (h : memoriesWf s = true) (c : CoreNo) (a : Agent) (pa n : Nat) :
    memoriesWf (s.devRead c a pa n).2 = true := by
  unfold State.devRead
  exact updCore_memoriesWf_of_mem (choice_memoriesWf (flushHeld_memoriesWf h _)) _ _ fun k => setFloor_mem k _ _

theorem readAs_memoriesWf {s : State} (h : memoriesWf s = true) (c : CoreNo) (id : Nat) (f : Floor) (pa n : Nat) :
    memoriesWf (s.readAs c id f pa n).2 = true := by
  unfold State.readAs
  exact updCore_memoriesWf_of_mem (choice_memoriesWf (flushHeld_memoriesWf h _)) _ _ fun _ => rfl

theorem loadBytes_memoriesWf {s : State} (h : memoriesWf s = true) (c : CoreNo) (a : Agent) (va : W64) (pa n : Nat) :
    memoriesWf (s.loadBytes c a va pa n).2 = true := by
  unfold State.loadBytes
  have hr := devRead_memoriesWf h c a pa n
  split
  · exact hr
  · split
    · refine foldl_holds (fun x : List Byte × State => memoriesWf x.2 = true) _ (fun x b hx => ?_) _ _ hr
      dsimp only
      split <;> exact hx
    · exact hr

theorem drawEach_memoriesWf {α : Type} {s : State} (h : memoriesWf s = true) (xs : List α) :
    memoriesWf (drawEach xs s).2 = true :=
  foldl_holds (fun x : List (α × Nat) × State => memoriesWf x.2 = true) _ (fun _ _ hx => choice_memoriesWf hx) _ _ h

theorem performPart_memoriesWf {s : State} (h : memoriesWf s = true) (c : CoreNo) (p : PStore) (grp : Nat)
    (take : Nat → Bool) : memoriesWf (s.performPart c p grp take) = true :=
  foldl_holds (fun s => memoriesWf s = true) _ (fun s b hs => by
    dsimp only
    exact updCore_memoriesWf_of_mem (setDev_memoriesWf hs _ (put_wf (memoriesWf_iff.1 hs).1 _ _ _ _)) _ _
      fun _ => rfl) _ _ h

theorem storeAround_memoriesWf {act : State → Nat × State} (ha : ∀ s, memoriesWf s = true → memoriesWf (act s).2 = true)
    (xs : List ((CoreNo × PStore) × Nat)) {s : State} (h : memoriesWf s = true) :
    memoriesWf (s.storeAround act xs).2 = true := by
  induction xs generalizing s with
  | nil => exact ha s h
  | cons x xs ih =>
    obtain ⟨⟨c, p⟩, mask⟩ := x
    unfold State.storeAround
    dsimp only
    have hu := performPart_memoriesWf (flushHeld_memoriesWf (ih (performPart_memoriesWf h c p (s.dev.stamp + 1) mask.testBit))
      fun h => h.overlaps p.pa p.bytes.length) c p (s.dev.stamp + 1) fun i => !mask.testBit i
    refine updCore_memoriesWf_of_mem (setDev_memoriesWf hu _ ?_) _ _ fun _ => rfl
    rw [foldWrite_hbm]
    exact (memoriesWf_iff.1 hu).1

theorem deviceRmw_memoriesWf {s : State} (h : memoriesWf s = true) (c : CoreNo) (a : Agent) (r : Rmw) (pa n : Nat) :
    memoriesWf (deviceRmw c a r pa n s).2 = true := by
  unfold deviceRmw
  refine storeAround_memoriesWf (fun s hs => ?_) _
    (drawEach_memoriesWf (performAll_memoriesWf (flushHeld_memoriesWf h _) _ _) _)
  dsimp only
  split
  · exact setDev_memoriesWf hs _ (memoriesWf_iff.1 hs).1
  · exact updCore_memoriesWf_of_mem (homeWrite_memoriesWf hs _ _ _ _ _ _ _) _ _ fun k => setFloor_mem k _ _

theorem setThread_mem (k : Core) (lane slot : Nat) (t : Option Thread) : (k.setThread lane slot t).mem = k.mem := rfl

theorem bindLate_mem (k : Core) (x : LateAt) (v : Nat) : (k.bindLate x v).mem = k.mem := by
  unfold Core.bindLate
  split <;> rfl

theorem setCore_memoriesWf {s : State} (h : memoriesWf s = true) (c : CoreNo) (k : Core) (hk : CoreMem.wf k.mem = true) :
    memoriesWf (s.setCore c k) = true := updCore_memoriesWf h c (fun _ => k) fun _ => hk

theorem kennelRmw_memoriesWf {s : State} (h : memoriesWf s = true) (c : CoreNo) (r : Rmw) (addr n : Nat) :
    memoriesWf (kennelRmw c r addr n s).2 = true := by
  unfold kennelRmw
  have hl := drawEach_memoriesWf (drawEach_memoriesWf h ((s.core c).partlyAt addr n)) ((s.core c).loadsAt addr n)
  dsimp only
  apply setCore_memoriesWf hl
  apply foldl_holds (fun k : Core => CoreMem.wf k.mem = true)
  · intro k x hk
    rw [bindLate_mem]
    exact hk
  apply foldl_holds (fun k : Core => CoreMem.wf k.mem = true)
  · exact fun k p hk => landPart_wf hk _ _
  apply kput_wf
  apply foldl_holds (fun k : Core => CoreMem.wf k.mem = true)
  · exact fun k p hk => landPart_wf hk _ _
  exact (memoriesWf_iff.1 hl).2 c

theorem noteFold_memoriesWf {s : State} (h : memoriesWf s = true) (c : CoreNo) (op pidx : Nat) :
    memoriesWf (s.noteFold c op pidx) = true := by
  unfold State.noteFold
  split
  · exact updCore_memoriesWf_of_mem h _ _ fun _ => rfl
  · exact h

theorem readLate_memoriesWf {s : State} (h : memoriesWf s = true) (c : CoreNo) (a : Agent) (l : LateLoad) :
    memoriesWf (s.readLate c a l).2 = true := by
  unfold State.readLate
  split
  · split
    · dsimp only
      split
      · exact noteFold_memoriesWf (deviceRmw_memoriesWf h _ _ _ _ _) _ _ _
      · exact deviceRmw_memoriesWf h _ _ _ _ _
    · exact kennelRmw_memoriesWf h _ _ _ _
  · split
    · exact loadBytes_memoriesWf h _ _ _ _ _
    · exact h

theorem bindLoads_memoriesWf {s : State} (h : memoriesWf s = true) (c : CoreNo) (a : Agent) (take : LateLoad → Bool) :
    memoriesWf (s.bindLoads c a take) = true := by
  unfold State.bindLoads
  cases a with
  | seq =>
    refine foldl_holds (fun s => memoriesWf s = true) _ (fun s i hs => ?_) _ _ h
    unfold bindSeqLoad
    split
    · exact hs
    · split
      · exact hs
      · exact updCore_memoriesWf_of_mem (readLate_memoriesWf hs _ _ _) _ _ fun k => bindLate_mem k _ _
  | thread l t =>
    dsimp only
    split
    · refine foldl_holds (fun s => memoriesWf s = true) _ (fun s i hs => ?_) _ _ h
      unfold bindThreadLoad
      split
      · exact hs
      · split
        · split
          · exact hs
          · exact updCore_memoriesWf_of_mem (readLate_memoriesWf hs _ _ _) _ _ fun k => bindLate_mem k _ _
        · exact hs
    · exact h

theorem settleAgent_memoriesWf {s : State} (h : memoriesWf s = true) (c : CoreNo) (a : Agent) :
    memoriesWf (s.settleAgent c a) = true :=
  updCore_memoriesWf (bindLoads_memoriesWf h c a _) c _ fun hk => landLstores_wf (landKstores_wf hk a _) a _

theorem inOrder_memoriesWf {s : State} (h : memoriesWf s = true) (c : CoreNo) (a : Agent) (dev : Bool) (pa n : Nat) :
    memoriesWf (s.inOrder c a dev pa n) = true := bindLoads_memoriesWf h c a _

theorem atBank_memoriesWf {s : State} (h : memoriesWf s = true) (c : CoreNo) (a : Agent) (addr n : Nat) :
    memoriesWf (s.atBank c a addr n) = true :=
  updCore_memoriesWf (inOrder_memoriesWf h c a false addr n) c _ fun hk => landKstores_wf hk a _

theorem atL1_memoriesWf {s : State} (h : memoriesWf s = true) (c : CoreNo) (a : Agent) (pa n : Nat) :
    memoriesWf (s.atL1 c a pa n) = true :=
  updCore_memoriesWf (inOrder_memoriesWf h c a true pa n) c _ fun hk => landLstores_wf hk a _

theorem release_memoriesWf {s : State} (h : memoriesWf s = true) (c : CoreNo) (a : Agent) (sc : Scope) :
    memoriesWf (s.release c a sc) = true := by
  have h1 := settleAgent_memoriesWf h c a
  unfold State.release
  refine updCore_memoriesWf_of_mem ?_ _ _ fun _ => rfl
  cases sc
  · exact h1
  · exact performAll_memoriesWf h1 _ _
  · exact performFolds_memoriesWf (flushHeld_memoriesWf (performAll_memoriesWf h1 _ _) _) _
  · exact performFolds_memoriesWf (flushHeld_memoriesWf (performAll_memoriesWf h1 _ _) _) _

theorem acquire_memoriesWf {s : State} (h : memoriesWf s = true) (c : CoreNo) (a : Agent) (sc : Scope) :
    memoriesWf (s.acquire c a sc) = true := by
  unfold State.acquire
  exact updCore_memoriesWf_of_mem (flushHeld_memoriesWf h _) _ _ fun k => setFloor_mem k _ _

theorem devStore_memoriesWf {s : State} (h : memoriesWf s = true) (c : CoreNo) (a : Agent) (pidx : Nat) (replay : Bool)
    (pa : Nat) (bs : List Byte) : memoriesWf (s.devStore c a pidx replay pa bs) = true :=
  updCore_memoriesWf h _ _ fun hk => hk

theorem setBar_memoriesWf {s : State} (h : memoriesWf s = true) (src : Nat) (ctx : W32) (replay : Bool) (b : Bar)
    (pl : BarPlace) : memoriesWf (s.setBar src ctx replay b pl) = true := by
  cases pl
  · exact kwrite_memoriesWf h _ _ _
  · exact homeWrite_memoriesWf h _ _ _ _ _ _ _

end Sys2Proof
end

