-- ==== Sys2Proof/Tests/Build.lean ====
section
/-! SUPPORT. Small states for tests and witnesses: a core with a task and a context, its sequencer at a word, a team with
threads, a page of device memory in its TLB. -/

namespace Sys2Proof.Tests

open Sys2Proof Sys2Proof.Machine

/-- A state test of what an instruction answers. -/
def after (o : Out) (p : State → Bool) : Bool :=
  match o with
  | .next t => p t
  | .fault _ | .refused _ => false

def h7 : LHead := ⟨0, 7, false⟩

/-- A source register that is not released. -/
def vr (n : RegNo) : LSrc := ⟨n, false⟩

def task0 : Task := { ctx := 0, queue := 0, grid := none, rcd := {}, n := 0, startTick := 0, replay := false }

/-- The 64 KiB page at virtual address 0, at physical address 0x10000, with every permission. -/
def page0 : TlbEntry :=
  { ctx := 0, g := false, base := 0, bits := 16, pa := 0x10000, x := true, w := true, r := true, cp := 0, pidx := 0 }

/-- The last page below 2^52. -/
def pageTop : TlbEntry := { page0 with base := 2 ^ 52 - 65536, pa := 0x20000 }

/-- Core 0 runs a task of context 0, with a code of eight words and two pages in its TLB. -/
def core0 : Core :=
  { task := some task0, tlb := [page0, pageTop], health := { gated := false },
    seq := { mode := .run, code := List.replicate 8 0 } }

def ctx0 : Ctx := { num := 0, cpedlimit := 8 }

def on (f : Core → Core) : State := { State.reset with ctxs := [ctx0] }.setCore 0 (f core0)

def onSeq (f : Seq → Seq) : State := on fun k => { k with seq := f k.seq }

/-- The scalar register is set, the others are 0. -/
def withS (n : RegNo) (v : W64) : State := onSeq fun q => { q with s := q.s.set n.val v }

/-- A binding of a routine of 32 threads with a budget of 64 registers and the longest watchdog (R31). -/
def entry0 : BindEntry := { w0 := BitVec.ofNat 64 (2 ^ 63 + 64 * 2 ^ 39 + 47 * 2 ^ 33), w1 := 0x1000 }

def word0 : BoundWord := { idx := 0x40, d := .l 0, a := .l 0, b := .l 0, c := .l 0, md := 0 }

def rcd0 : IssueRec :=
  { pc := 0, word := word0, d := .val 0, a := .val 0, b := .val 0, c := .val 0, dreg := none }

def op0 : Op :=
  { id := 0, rcd := rcd0, entry := entry0, dtag := 0, q := .lane, st := .running, parent := none, block := 0,
    folded := [], replay := false, held := false, floor := {} }

def team0 : Team :=
  { op := 0, rcd := rcd0, entry := entry0, dtag := 0, groups := [0], admitted := 0, exempt := 0,
    arb := Vector.replicate 4 {}, flags := 0, fault := none, aborting := false, scan := none }

/-- A thread at 0x1000 whose listed registers are FULL. -/
def thread0 (regs : List (Nat × W32)) : Thread :=
  regs.foldl (fun th x => th.put x.1 x.2) { team := 0, rank := 0, pc := 0x1000 }

/-- A team with one thread on lane 0, which the next lane instruction issues in. -/
def onLane (f : Core → Core) (th : Thread) : State :=
  let s := on fun k => (f { k with ops := [op0], teams := [team0], nextId := 1 }).setThread 0 0 (some th)
  s.setSched { s.sched with issue := [(0, 0)] }

def lanes (th : Thread) : State := onLane id th

def t00 : TRef := ⟨0, 0, 0⟩

/-- A lane instruction in a thread with these registers leaves a thread that passes the test. -/
def laneTest (i : Instr) (regs : List (Nat × W32)) (p : Thread → Bool) : Bool :=
  after (exec i (lanes (thread0 regs))) fun t => (t.thread 0 0 0).any p

/-- The same for a result that comes late: the test is of the words and the flags on their way. -/
def laneLate (i : Instr) (regs : List (Nat × W32)) (ws : List W32) (fl : Flags6) : Bool :=
  laneTest i regs fun th => match th.pend with
    | [p] => p.res == .vals ws && p.fl == fl
    | _ => false

/-- Page table nodes from 0x100000: the page at virtual address 0 is the one of `page0`. -/
def pageNodes : Memory :=
  [(0x100000, 1), (0x100001, 1), (0x100002, 1), (0x101000, 1), (0x101001, 2), (0x101002, 1), (0x102000, 1),
   (0x102001, 3), (0x102002, 1), (0x103000, 15), (0x103001, 1)]

/-- Context 0 has page tables, in a carve-out of 2 MiB that holds them and the page; `low` lies below 0x100000. -/
def paged (low : Memory) (s : State) : State :=
  (({ s with ctxs := [{ ctx0 with cptroot := 0x100000 }] } : State).updPart 0 fun p =>
    { p with carve := p.carve.set 0 (0, 2 ^ 21) }).setDev { s.dev with hbm := low ++ pageNodes }

end Sys2Proof.Tests
end

