-- ==== Sys2Proof/Tests/Slice0.lean ====
section
/-! SUPPORT. Tests: terms that have no encoding, the words that spec/ gives, and single steps. Every expected value
comes from spec/: its tables, its examples or a calculation by hand from them. -/

namespace Sys2Proof.Tests

open Sys2Proof Sys2Proof.Machine

set_option Elab.async false

/-! ### Words written out from the encoding tables of spec/ -/

/-- A tile word decodes to the instruction, which encodes to it and is well formed. -/
def tileWordOk (x : W64 × Option W64 × Instr) : Bool :=
  match decodeTile x.1 x.2.1 with
  | .ok i => i == x.2.2 && encode i == x.1 :: x.2.1.toList && i.wellFormed
  | .error _ => false

def laneWordOk (x : W64 × Instr) : Bool :=
  match decodeLane x.1 with
  | .ok i => i == x.2 && encode i == [x.1] && i.wellFormed
  | .error _ => false

theorem test_tile_words_1 : ([
   (0x0060100BFF000000, none, .add ⟨.c 1, .s 2, .l 0xff⟩),
   (0x00A02013FE000000, none, .sub ⟨.c 2, .s 4, .l 0xfe⟩),
   (0x00E0301BFD000000, none, .mul ⟨.c 3, .s 6, .l 0xfd⟩),
   (0x01A06033FA000000, none, .div ⟨.c 6, .s 12, .l 0xfa⟩),
   (0x01E0703BF9000000, none, .divu ⟨.c 7, .s 14, .l 0xf9⟩),
   (0x02208043F8000000, none, .rem ⟨.c 8, .s 16, .l 0xf8⟩),
   (0x0260904BF7000000, none, .remu ⟨.c 9, .s 18, .l 0xf7⟩),
   (0x04210083F0000000, none, .tileAnd ⟨.c 16, .s 32, .l 0xf0⟩),
   (0x0461108BEF000000, none, .tileOr ⟨.c 17, .s 34, .l 0xef⟩),
   (0x04A12093EE000000, none, .tileXor ⟨.c 18, .s 36, .l 0xee⟩),
   (0x04E1309BED000000, none, .tileAndn ⟨.c 19, .s 38, .l 0xed⟩),
   (0x052140A3EC000000, none, .tileShl ⟨.c 20, .s 40, .l 0xec⟩),
   (0x056150ABEB000000, none, .tileShr ⟨.c 21, .s 42, .l 0xeb⟩),
   (0x05A160B3EA000000, none, .tileSar ⟨.c 22, .s 44, .l 0xea⟩)] : List (W64 × Option W64 × Instr)).all tileWordOk = true := by
  decide +kernel

theorem test_tile_words_2 : ([
   (0x062180C3E8000000, none, .min ⟨.c 24, .s 48, .l 0xe8⟩),
   (0x066190CBE7000000, none, .max ⟨.c 25, .s 50, .l 0xe7⟩),
   (0x06A1A0D3E6000000, none, .minu ⟨.c 26, .s 52, .l 0xe6⟩),
   (0x06E1B0DBE5000000, none, .maxu ⟨.c 27, .s 54, .l 0xe5⟩),
   (0x0103FBFC01000001, none, .mulh ⟨.s 63, .c 255, .s 1, true⟩),
   (0x0143FBFC01DFC000, none, .madd ⟨.s 63, .c 255, .s 1, .l 0x7f⟩),
   (0x0703FDFC00000000, none, .tileClz ⟨.s 63, .l 0x7f⟩),
   (0x0743FBFC00000000, none, .tilePopc ⟨.s 63, .c 255⟩),
   (0x0803F00400000000, none, .tileMov ⟨.s 63, .s 1⟩),
   (0x0843FBFC01014000, none, .tileSel ⟨.s 63, .c 255, .s 1, 5⟩),
   (0x0880201609000006, none, .cmp ⟨2, .s 5, .c 9, .ltu⟩),
   (0x0A00100803000000, none, .pand ⟨1, 2, 3⟩),
   (0x0A40401406000000, none, .por ⟨4, 5, 6⟩),
   (0x0A80700001000000, none, .pxor ⟨7, 0, 1⟩)] : List (W64 × Option W64 × Instr)).all tileWordOk = true := by
  decide +kernel

theorem test_tile_words_3 : ([
   (0x0AC0301800000000, none, .pnot ⟨3, 6⟩),
   (0x0C00401FF8000005, none, .lds ⟨.s 4, .s 7, .l 0xf8, 1, true⟩),
   (0x0C40001F00024002, none, .sts ⟨.s 7, .l 0, .s 9, 2⟩),
   (0x0CA0481C08000003, none, .tileLdk ⟨.c 4, .c 7, .s 8, 3, false⟩),
   (0x0CC0000F00004003, none, .tileStk ⟨.s 3, .l 0, .s 1, 3⟩),
   (0x0D00101F010000E0, none, .atoms ⟨.s 1, .s 7, .l 1, none, .add, .device, true, true, false⟩),
   (0x0D00101C08024139, none, .atoms ⟨.s 1, .s 7, .s 8, some (.s 9), .cas, .system, false, false, true⟩),
   (0x0D4000000000000A, none, .tileFence ⟨.rel, .device⟩),
   (0x0E00000F01003FFF, none, .br ⟨3, true, 0x3fff⟩),
   (0x0E40082000000000, none, .jmp (.c 8)),
   (0x0E81E00000001FFF, none, .tileCall ⟨30, 0x1fff⟩),
   (0x0EC0007800000000, none, .tileRet (.s 30)),
   (0x0F00100000003FFC, none, .loop ⟨1, 0x3ffc⟩),
   (0x1000100000000017, none, .srd ⟨.s 1, 0x17⟩)] : List (W64 × Option W64 × Instr)).all tileWordOk = true := by
  decide +kernel

theorem test_tile_words_4 : ([
   (0x10400D0000000011, none, .swr ⟨0x11, .l 64⟩),
   (0x12000C1400000000, none, .tileTrap (.l 5)),
   (0x1240000000000000, none, .eret),
   (0x1280000000000000, none, .tileNop),
   (0x12C00C0000000000, none, .safept (.l 0)),
   (0x1300000000000000, none, .taskEnd),
   (0xC000500000000000, some 0x123456789abcdef0, .lit ⟨.s 5, 0x123456789abcdef0⟩),
   (0xC050381000000000, some 0x200003f643f10000, .tdescl ⟨3, .c 4, 0x200003f643f10000⟩),
   (0x4010540906000001, none, .mma ⟨0x0, .t 5, .t 2, .t 6, .s 0, 0x1⟩),
   (0x4050140800000000, none, .accld ⟨0x1, .t 1, .t 2, .s 0, .s 0, 0x0⟩),
   (0x4090140903410006, none, .accst ⟨0x2, .t 1, .t 2, .t 3, .t 4, 0x6⟩),
   (0x40D0900000000000, none, .accz ⟨0x3, .t 9, .s 0, .s 0, .s 0, 0x0⟩),
   (0x4110140800000004, none, .tcvt ⟨0x4, .t 1, .t 2, .s 0, .s 0, 0x4⟩),
   (0x4150240C04000003, none, .qnt ⟨0x5, .t 2, .t 3, .s 4, .s 0, 0x3⟩)] : List (W64 × Option W64 × Instr)).all tileWordOk = true := by
  decide +kernel

theorem test_tile_words_5 : ([
   (0x4190240C00000000, none, .dqnt ⟨0x6, .t 2, .t 3, .s 0, .s 0, 0x0⟩),
   (0x41D0240C00000001, none, .had ⟨0x7, .t 2, .t 3, .s 0, .s 0, 0x1⟩),
   (0x4210240E07000000, none, .perm ⟨0x8, .t 2, .t 3, .c 7, .s 0, 0x0⟩),
   (0x5000300000000000, none, .routineDispatch ⟨0x40, .s 3, .s 0, .s 0, .s 0, 0x0⟩),
   (0x801040280BC00000, none, .cpyIn ⟨0, false, 4, .s 10, .s 11, .l 0⟩),
   (0x8000A4100B033900, none, .cpyOut ⟨3, true, .s 10, 4, .s 11, .s 12⟩),
   (0x801044160B001200, none, .cpyKk ⟨1, false, 4, 5, .c 11⟩),
   (0x805040040200E000, none, .gth ⟨2, false, 4, .s 1, .s 2, .s 3⟩),
   (0x808014100200C800, none, .sct ⟨0, true, .s 1, 4, .s 2, .s 3⟩),
   (0x80C0000402D00000, none, .pft ⟨0, false, .s 1, .s 2, .l 64⟩),
   (0x8110600402001800, none, .rcpyPull ⟨1, true, 6, .s 1, .s 2⟩),
   (0x8110600402001100, none, .rcpyPush ⟨1, false, 6, .s 1, .s 2⟩),
   (0x8170641802002000, none, .mcast ⟨2, .l 6, 6, .s 2⟩),
   (0x8200000704C00801, none, .binit ⟨true, true, .s 1, .l 4, .l 0⟩)] : List (W64 × Option W64 × Instr)).all tileWordOk = true := by
  decide +kernel

theorem test_tile_words_6 : ([
   (0x8240400400000000, none, .tileBarv ⟨false, .s 4, .s 1⟩),
   (0x8280400402000800, none, .bexp ⟨true, .s 4, .s 1, .s 2⟩),
   (0x82C0000404000001, none, .tileBwait ⟨false, true, .s 1, .s 4⟩),
   (0x8300200404000000, none, .tileBtry ⟨false, 2, .s 1, .s 4⟩),
   (0x84000C1400000000, none, .pclose (.l 5)),
   (0x84401C1702000000, none, .ppeek ⟨.s 1, .l 5, .l 2⟩),
   (0x84801C1702000000, none, .pread ⟨.s 1, .l 5, .l 2⟩),
   (0x84801C1702000001, none, .preadHdr ⟨.s 1, .l 5, .l 2⟩),
   (0x84C0001400000000, none, .preset (.s 5)),
   (0x85000C1401000003, none, .psett ⟨3, .l 5, .s 1⟩),
   (0x8600500800000000, none, .lsupd ⟨5, 2⟩),
   (0x8640001400000000, none, .launch (.s 5)),
   (0x86800C1402000000, none, .dqpush ⟨.l 5, .s 2⟩),
   (0x86D0500803000004, none, .tdesc ⟨4, 5, .s 2, .s 3⟩)] : List (W64 × Option W64 × Instr)).all tileWordOk = true := by
  decide +kernel

theorem test_tile_words_7 : ([
   (0x8700540800000001, none, .tget ⟨true, .s 5, 2⟩),
   (0x87400D0002000000, none, .bind ⟨.l 0x40, .s 2⟩),
   (0x87800D0002000000, none, .bindrd ⟨.l 0x40, .s 2⟩),
   (0x87C0000740C20000, none, .qsinit ⟨.s 1, .l 64, .l 8⟩)] : List (W64 × Option W64 × Instr)).all tileWordOk = true := by
  decide +kernel

theorem test_lane_words_1 : ([
   (0x0401C18816000000, .iadd ⟨h7, 3, ⟨4, false⟩, .reg ⟨5, true⟩⟩),
   (0x0421C1890002FFFF, .isub ⟨h7, 3, ⟨4, true⟩, .imm 0xffff⟩),
   (0x0441C18816000000, .imul ⟨h7, 3, ⟨4, false⟩, .reg ⟨5, true⟩⟩),
   (0x04C1C18816000000, .idiv ⟨h7, 3, ⟨4, false⟩, .reg ⟨5, true⟩⟩),
   (0x04E1C1890002FFF9, .idivu ⟨h7, 3, ⟨4, true⟩, .imm 0xfff9⟩),
   (0x0501C18816000000, .irem ⟨h7, 3, ⟨4, false⟩, .reg ⟨5, true⟩⟩),
   (0x0521C1890002FFF7, .iremu ⟨h7, 3, ⟨4, true⟩, .imm 0xfff7⟩),
   (0x0541C18816000000, .imin ⟨h7, 3, ⟨4, false⟩, .reg ⟨5, true⟩⟩),
   (0x0561C1890002FFF5, .imax ⟨h7, 3, ⟨4, true⟩, .imm 0xfff5⟩),
   (0x0581C18816000000, .iminu ⟨h7, 3, ⟨4, false⟩, .reg ⟨5, true⟩⟩),
   (0x05A1C1890002FFF3, .imaxu ⟨h7, 3, ⟨4, true⟩, .imm 0xfff3⟩),
   (0x0461C18814010000, .imulh ⟨h7, 3, ⟨4, false⟩, .reg ⟨5, false⟩, true⟩),
   (0x0481C18800360007, .imad ⟨h7, 3, ⟨4, false⟩, .imm 7, ⟨6, true⟩⟩),
   (0x04A1C10818000000, .iadd64 ⟨h7, 2, ⟨4, false⟩, .reg ⟨6, false⟩⟩)] : List (W64 × Instr)).all laneWordOk = true := by
  decide +kernel

theorem test_lane_words_2 : ([
   (0x05C1DFFC00000000, .iabs ⟨h7, 63, ⟨62, false⟩⟩),
   (0x05E0BFFC00000000, .ineg ⟨⟨0, 2, true⟩, 63, ⟨62, false⟩⟩),
   (0x0801C18814000000, .laneAnd ⟨h7, 3, ⟨4, false⟩, .reg ⟨5, false⟩⟩),
   (0x0821C18800020001, .laneOr ⟨h7, 3, ⟨4, false⟩, .imm 1⟩),
   (0x0841C18814000000, .laneXor ⟨h7, 3, ⟨4, false⟩, .reg ⟨5, false⟩⟩),
   (0x0861C18800020003, .laneAndn ⟨h7, 3, ⟨4, false⟩, .imm 3⟩),
   (0x08A1C18800020005, .laneShl ⟨h7, 3, ⟨4, false⟩, .imm 5⟩),
   (0x08C1C18814000000, .laneShr ⟨h7, 3, ⟨4, false⟩, .reg ⟨5, false⟩⟩),
   (0x08E1C18800020007, .laneSar ⟨h7, 3, ⟨4, false⟩, .imm 7⟩),
   (0x0901C18814000000, .rotr ⟨h7, 3, ⟨4, false⟩, .reg ⟨5, false⟩⟩),
   (0x0981C18814000000, .bfe ⟨h7, 3, ⟨4, false⟩, .reg ⟨5, false⟩⟩),
   (0x0881C18814309600, .bitfn ⟨h7, 3, ⟨4, false⟩, ⟨5, false⟩, ⟨6, false⟩, 0x96⟩),
   (0x0921C18800000000, .lanePopc ⟨h7, 3, ⟨4, false⟩⟩),
   (0x0941C18800000000, .laneClz ⟨h7, 3, ⟨4, false⟩⟩)] : List (W64 × Instr)).all laneWordOk = true := by
  decide +kernel

theorem test_lane_words_3 : ([
   (0x0961C18800000000, .brev ⟨h7, 3, ⟨4, false⟩⟩),
   (0x09A1C18814300000, .bfi ⟨h7, 3, ⟨4, false⟩, .reg ⟨5, false⟩, ⟨6, false⟩⟩),
   (0x09C1C21008000100, .permb ⟨h7, 4, ⟨8, false⟩, ⟨2, false⟩, 1⟩),
   (0x09E1C188002A0009, .laneSel ⟨h7, 3, ⟨4, false⟩, .imm 9, 5⟩),
   (0x0C01C108004B2FFF, .icmp ⟨h7, 2, ⟨4, false⟩, .imm 0xfff, .geu, 1, true⟩),
   (0x0C21C10814384004, .fcmp ⟨h7, 2, ⟨4, false⟩, ⟨5, false⟩, .lt, true, 7, false⟩),
   (0x0C41C10610288800, .predfn ⟨h7, 2, 3, 4, 5, 0x88⟩),
   (0x0C61C48000000000, .pmovToRegister ⟨h7, 9⟩),
   (0x0C61C01200010055, .pmovToPredicates ⟨h7, ⟨9, false⟩, 0x55⟩),
   (0x1001C18814000000, .fadd ⟨h7, 3, ⟨4, false⟩, ⟨5, false⟩, .rn, false⟩),
   (0x1021C18814000005, .fsub ⟨h7, 3, ⟨4, false⟩, ⟨5, false⟩, .rz, true⟩),
   (0x1041C18814000002, .fmul ⟨h7, 3, ⟨4, false⟩, ⟨5, false⟩, .ru, false⟩),
   (0x10C1C18814000002, .fdiv ⟨h7, 3, ⟨4, false⟩, ⟨5, false⟩, .ru, false⟩),
   (0x1061C30208180001, .ffma ⟨h7, 6, ⟨1, false⟩, ⟨2, false⟩, ⟨3, false⟩, .rz, false⟩)] : List (W64 × Instr)).all laneWordOk = true := by
  decide +kernel

theorem test_lane_words_4 : ([
   (0x1081C18814000004, .fmin ⟨h7, 3, ⟨4, false⟩, ⟨5, false⟩, true⟩),
   (0x10A1C18814000004, .fmax ⟨h7, 3, ⟨4, false⟩, ⟨5, false⟩, true⟩),
   (0x10EFC18800000003, .fsqrt ⟨⟨7, 7, false⟩, 3, ⟨4, false⟩, .rd, false⟩),
   (0x1111C18800000000, .frcp ⟨⟨8, 7, false⟩, 3, ⟨4, false⟩, .rn, false⟩),
   (0x1133C18800000001, .frsq ⟨⟨9, 7, false⟩, 3, ⟨4, false⟩, .rz, false⟩),
   (0x1155C18800000002, .fexp2 ⟨⟨10, 7, false⟩, 3, ⟨4, false⟩, .ru, false⟩),
   (0x1177C18800000003, .flog2 ⟨⟨11, 7, false⟩, 3, ⟨4, false⟩, .rd, false⟩),
   (0x1199C18800000000, .ftanh ⟨⟨12, 7, false⟩, 3, ⟨4, false⟩, .rn, false⟩),
   (0x1401C1881400000A, .pkadd ⟨h7, 3, ⟨4, false⟩, ⟨5, false⟩, .ru, false, true⟩),
   (0x1421C1881400000A, .pkmul ⟨h7, 3, ⟨4, false⟩, ⟨5, false⟩, .ru, false, true⟩),
   (0x1441C18814300007, .pkfma ⟨h7, 3, ⟨4, false⟩, ⟨5, false⟩, ⟨6, false⟩, .rd, true, false⟩),
   (0x1461C18814000008, .pkmin ⟨h7, 3, ⟨4, false⟩, ⟨5, false⟩, false, true⟩),
   (0x1481C18814000008, .pkmax ⟨h7, 3, ⟨4, false⟩, ⟨5, false⟩, false, true⟩),
   (0x1801C10200001830, .cvt ⟨h7, 2, ⟨1, false⟩, .rn, false, .e4m3, .fp32, true, 0⟩)] : List (W64 × Instr)).all laneWordOk = true := by
  decide +kernel

theorem test_lane_words_5 : ([
   (0x1821C1020C204611, .cvtpk ⟨h7, 2, ⟨1, false⟩, ⟨3, false⟩, some ⟨4, false⟩, .rz, false, .int8, .bf16, false, true⟩),
   (0x1821C1020C000860, .cvtpk ⟨h7, 2, ⟨1, false⟩, ⟨3, false⟩, none, .rn, false, .bf16, .fp32, false, false⟩),
   (0x1841C20200004480, .cvtunpk ⟨h7, 4, ⟨1, false⟩, .rn, false, .fp32, .e5m2, false, true⟩),
   (0x1861C20208188000, .pwenc ⟨h7, 4, ⟨1, false⟩, ⟨2, false⟩, ⟨3, false⟩, 2⟩),
   (0x1881C2020800C005, .pwdec ⟨h7, 4, ⟨1, false⟩, ⟨2, false⟩, .rz, true, 3⟩),
   (0x1C01C20208180500, .idp4 ⟨h7, 4, ⟨1, false⟩, ⟨2, false⟩, ⟨3, false⟩, true, false, true⟩),
   (0x1C21C2020818000A, .fdp2 ⟨h7, 4, ⟨1, false⟩, ⟨2, false⟩, ⟨3, false⟩, .ru, false, true⟩),
   (0x2001C20200000000, .laneMov ⟨h7, 4, ⟨1, false⟩⟩),
   (0x2021C2000002ABCD, .movi ⟨h7, 4, 0x2abcd⟩),
   (0x2041C2020000ABCD, .movhi ⟨h7, 4, ⟨1, false⟩, 0xabcd⟩),
   (0x2061C00000000020, .sread ⟨h7, 0, 0x20⟩),
   (0x2405C2860049001F, .xpair ⟨⟨2, 7, false⟩, 5, ⟨3, false⟩, some ⟨9, false⟩, true, false, 31⟩),
   (0x2421C28618020000, .xpick ⟨h7, 5, ⟨3, false⟩, ⟨6, false⟩, none, false⟩),
   (0x2441C28600020001, .xback ⟨h7, 5, ⟨3, false⟩, none, false, false, 1⟩)] : List (W64 × Instr)).all laneWordOk = true := by
  decide +kernel

theorem test_lane_words_6 : ([
   (0x2461C28600028001, .xfwd ⟨h7, 5, ⟨3, false⟩, none, false, true, 1⟩),
   (0x2481C28600020007, .xone ⟨h7, 5, ⟨3, false⟩, none, false, false, 7⟩),
   (0x2801CC8400020000, .poll ⟨h7, 0, 25, 2, none⟩),
   (0x2801C18400400002, .poll ⟨h7, 2, 3, 2, some ⟨8, false⟩⟩),
   (0x2821C28600400009, .red ⟨h7, 5, ⟨3, false⟩, .fmin, some ⟨8, false⟩⟩),
   (0x2C0000000003FFFE, .bra ⟨⟨0, 0, false⟩, 0x3fffe⟩),
   (0x2C21C00C00000000, .brx ⟨h7, ⟨6, false⟩⟩),
   (0x2C41C30000000010, .laneCall ⟨h7, 6, 16⟩),
   (0x2C61C00C00000000, .laneRet ⟨h7, ⟨6, false⟩⟩),
   (0x2C61C00000000001, .retTr ⟨h7⟩),
   (0x2C81C00000000000, .exit ⟨h7⟩),
   (0x2CA1C00000000000, .yield ⟨h7⟩),
   (0x2CC1C00000000000, .laneNop ⟨h7⟩),
   (0x2CE1C00000003204, .rep ⟨h7, .imm 4, 3, 2⟩)] : List (W64 × Instr)).all laneWordOk = true := by
  decide +kernel

theorem test_lane_words_7 : ([
   (0x2CE1C01200013200, .rep ⟨h7, .reg ⟨9, false⟩, 3, 2⟩),
   (0x3001C20400020040, .ld ⟨h7, 4, ⟨2, false⟩, 2, false, 0x40⟩),
   (0x3021C00418033FF8, .st ⟨h7, ⟨2, false⟩, ⟨6, false⟩, 3, 0x3ff8⟩),
   (0x3047C20600008004, .laneLdk ⟨⟨3, 7, false⟩, 4, ⟨3, false⟩, 0, true, 4⟩),
   (0x3061C00614010000, .laneStk ⟨h7, ⟨3, false⟩, ⟨5, false⟩, 1, 0⟩),
   (0x3081C20600030000, .ldp ⟨h7, 4, ⟨3, false⟩, 3, false, 0⟩),
   (0x30A1C00614000000, .stp ⟨h7, ⟨3, false⟩, ⟨5, false⟩, 0, 0⟩),
   (0x30C1C20600020008, .ldc ⟨h7, 4, ⟨3, false⟩, 2, false, 8⟩),
   (0x3401C20418000167, .atom ⟨h7, 4, ⟨2, false⟩, ⟨6, false⟩, .maxu, .device, true, false, true⟩),
   (0x3421C20614300080, .atomcas ⟨h7, 4, ⟨3, false⟩, ⟨5, false⟩, ⟨6, false⟩, .core, false, true, false⟩),
   (0x3441C0000000000D, .laneFence ⟨h7, .acqrel, .cluster⟩),
   (0x3801C20C00000001, .laneBarv ⟨h7, true, 4, ⟨6, false⟩⟩),
   (0x3821C00A18000000, .laneBwait ⟨h7, false, ⟨5, false⟩, ⟨6, false⟩⟩),
   (0x3841C18A18000000, .laneBtry ⟨h7, false, 3, ⟨5, false⟩, ⟨6, false⟩⟩)] : List (W64 × Instr)).all laneWordOk = true := by
  decide +kernel

theorem test_lane_words_8 : ([
   (0x3C0080142C020000, .qpush ⟨⟨0, 2, false⟩, 0, ⟨10, false⟩, ⟨11, false⟩, none⟩),
   (0x3C21C4140C600003, .qpop ⟨h7, 3, 8, ⟨10, false⟩, 3, some ⟨12, false⟩⟩),
   (0x3C41C21400000000, .qcnt ⟨h7, 4, ⟨10, false⟩⟩),
   (0x3C61C01400000000, .qend ⟨h7, ⟨10, false⟩⟩),
   (0x401FC21400000000, .ltop ⟨⟨15, 7, false⟩, 4, ⟨10, false⟩⟩),
   (0x4021C2142C020000, .lmma ⟨h7, 4, ⟨10, false⟩, ⟨11, false⟩, none⟩),
   (0x4401DD0018000000, .dqpop ⟨h7, 58, 6⟩),
   (0x4421C40808000000, .rng ⟨h7, 8, ⟨4, false⟩, ⟨2, false⟩⟩),
   (0x4441C41000020001, .ctradd ⟨h7, 8, ⟨8, false⟩, .imm 1⟩),
   (0x4441C41008010000, .ctradd ⟨h7, 8, ⟨8, false⟩, .reg ⟨2, false⟩ true⟩),
   (0x4461C110000002F8, .mstep ⟨h7, 2, ⟨8, false⟩, 248, 2⟩),
   (0x4481C0000000BEEF, .laneTrap ⟨h7, 0xbeef⟩),
   (0x44A0600000000000, .brk ⟨⟨0, 1, true⟩⟩)] : List (W64 × Instr)).all laneWordOk = true := by
  decide +kernel

/-! ### Terms that have no encoding: every check of `Instr.wellFormed` refuses one -/

def refusedAll (l : List Instr) : Bool := l.all fun i => !i.wellFormed

/-- R104, R107: `.S` at width 64, a compare operand missing, and one too many. -/
theorem test_illFormed_memory : refusedAll [
    .lds ⟨.s 0, .s 1, .l 0, 3, true⟩, .tileLdk ⟨.s 0, .s 1, .l 0, 3, true⟩,
    .atoms ⟨.s 0, .s 1, .l 0, none, .cas, .core, true, false, false⟩,
    .atoms ⟨.s 0, .s 1, .l 0, some (.l 1), .add, .core, true, false, false⟩] = true := by decide

/-- R26, R27, R190: unknown special registers, a read-only one written, FIELD 5. -/
theorem test_illFormed_special : refusedAll [
    .srd ⟨.s 0, 0x18⟩, .swr ⟨0x0B, .l 0⟩, .tdesc ⟨5, 0, .l 0, .l 0⟩, .sread ⟨h7, 0, 0x0A⟩] = true := by decide

/-- R33, R81: an engine row with another index, a literal destination, a routine row with an engine's index. -/
theorem test_illFormed_bound : refusedAll [
    .mma ⟨1, .t 0, .t 0, .t 0, .s 0, 0⟩, .accld ⟨0, .t 0, .t 0, .s 0, .s 0, 0⟩, .accst ⟨1, .t 0, .t 0, .s 0, .s 0, 0⟩,
    .accz ⟨2, .t 0, .s 0, .s 0, .s 0, 0⟩, .tcvt ⟨5, .t 0, .t 0, .s 0, .s 0, 0⟩, .qnt ⟨4, .t 0, .t 0, .s 0, .s 0, 0⟩,
    .dqnt ⟨7, .t 0, .t 0, .s 0, .s 0, 0⟩, .had ⟨8, .t 0, .t 0, .s 0, .s 0, 1⟩, .perm ⟨7, .t 0, .t 0, .s 0, .s 0, 0⟩,
    .routineDispatch ⟨8, .s 0, .s 0, .s 0, .s 0, 0⟩, .routineDispatch ⟨9, .l 0, .s 0, .s 0, .s 0, 0⟩,
    .mma ⟨0, .l 0, .t 0, .t 0, .s 0, 0⟩] = true := by decide

/-- R193, R194, R195: pairs and quads that are not aligned, `.U` with an immediate, MODE 3. -/
theorem test_illFormed_blocks : refusedAll [
    .iadd64 ⟨h7, 1, vr 2, .imm 0⟩, .iadd64 ⟨h7, 2, vr 1, .imm 0⟩, .iadd64 ⟨h7, 2, vr 2, .reg (vr 1)⟩,
    .imulh ⟨h7, 0, vr 0, .imm 1, true⟩, .permb ⟨h7, 4, vr 9, vr 2, 1⟩, .permb ⟨h7, 4, vr 8, vr 2, 3⟩,
    .brx ⟨h7, vr 1⟩, .laneRet ⟨h7, vr 3⟩, .laneCall ⟨h7, 5, 0⟩, .rng ⟨h7, 2, vr 4, vr 2⟩, .rng ⟨h7, 4, vr 6, vr 2⟩,
    .rng ⟨h7, 4, vr 4, vr 3⟩, .ctradd ⟨h7, 2, vr 4, .imm 1⟩, .ctradd ⟨h7, 4, vr 6, .imm 1⟩,
    .ctradd ⟨h7, 4, vr 4, .reg (vr 1) true⟩, .mstep ⟨h7, 0, vr 2, 0, 0⟩] = true := by decide

/-- R205: each restriction of the conversions. -/
theorem test_illFormed_conversions : refusedAll [
    .cvt ⟨h7, 0, vr 1, .rn, false, .none, .fp32, false, 0⟩, .cvt ⟨h7, 0, vr 1, .rn, false, .fp32, .none, false, 0⟩,
    .cvt ⟨h7, 0, vr 1, .rn, false, .bf16, .fp32, true, 0⟩, .cvt ⟨h7, 0, vr 1, .rn, true, .int8, .int32, false, 0⟩,
    .cvt ⟨h7, 0, vr 1, .rz, false, .pw8, .fp32, false, 0⟩, .cvt ⟨h7, 0, vr 1, .rn, false, .fp32, .bf16, false, 2⟩,
    .cvtpk ⟨h7, 0, vr 1, vr 2, none, .rn, false, .fp32, .bf16, false, false⟩,
    .cvtpk ⟨h7, 0, vr 1, vr 2, none, .rn, false, .int8, .fp32, false, false⟩,
    .cvtpk ⟨h7, 0, vr 1, vr 2, some (vr 3), .rn, false, .bf16, .fp32, false, false⟩,
    .cvtpk ⟨h7, 0, vr 1, vr 2, none, .rn, false, .bf16, .fp32, false, true⟩,
    .cvtunpk ⟨h7, 0, vr 1, .rn, false, .fp32, .int32, false, false⟩,
    .cvtunpk ⟨h7, 1, vr 1, .rn, false, .fp32, .bf16, false, false⟩,
    .cvtunpk ⟨h7, 0, vr 1, .rn, false, .fp32, .bf16, false, true⟩] = true := by decide

/-- R77, R235, R237: a lookahead count on a short instruction, `.RING` where it is reserved, a predicate above `p7`. -/
theorem test_illFormed_collectives : refusedAll [
    .iadd ⟨⟨1, 7, false⟩, 0, vr 0, .imm 0⟩, .xpair ⟨h7, 0, vr 1, none, false, true, 1⟩,
    .xone ⟨h7, 0, vr 1, none, false, true, 1⟩, .poll ⟨h7, 1, 8, 0, none⟩, .poll ⟨h7, 2, 8, 0, none⟩,
    .qpush ⟨h7, 3, vr 0, vr 4, none⟩, .qpop ⟨h7, 1, 3, vr 0, 0, none⟩, .dqpop ⟨h7, 3, 0⟩, .dqpop ⟨h7, 60, 0⟩] = true := by
  decide

/-- R222, R228, R231, R211: addresses and values that are no pair, `.S` at width 32, a narrow `LDC`, codes beyond
their range. -/
theorem test_illFormed_access : refusedAll [
    .ld ⟨h7, 0, vr 1, 2, false, 0⟩, .ld ⟨h7, 1, vr 2, 3, false, 0⟩, .ld ⟨h7, 0, vr 2, 2, true, 0⟩,
    .laneLdk ⟨h7, 1, vr 1, 3, false, 0⟩, .ldp ⟨h7, 1, vr 1, 3, false, 0⟩, .ldc ⟨h7, 0, vr 1, 1, false, 0⟩,
    .st ⟨h7, vr 1, vr 2, 2, 0⟩, .st ⟨h7, vr 2, vr 1, 3, 0⟩, .laneStk ⟨h7, vr 1, vr 1, 3, 0⟩, .stp ⟨h7, vr 1, vr 1, 3, 0⟩,
    .atom ⟨h7, 0, vr 1, vr 2, .cas, .core, false, false, false⟩, .atom ⟨h7, 1, vr 1, vr 2, .add, .core, true, false, false⟩,
    .atom ⟨h7, 0, vr 1, vr 3, .add, .core, true, false, false⟩, .atom ⟨h7, 0, vr 1, vr 2, .add, .device, false, false, false⟩,
    .atomcas ⟨h7, 1, vr 1, vr 2, vr 4, .core, true, false, false⟩, .atomcas ⟨h7, 0, vr 1, vr 3, vr 4, .core, true, false, false⟩,
    .atomcas ⟨h7, 0, vr 1, vr 2, vr 5, .core, true, false, false⟩, .atomcas ⟨h7, 0, vr 1, vr 2, vr 4, .system, false, false, false⟩,
    .laneBarv ⟨h7, true, 0, vr 1⟩, .laneBwait ⟨h7, true, vr 1, vr 2⟩, .laneBtry ⟨h7, true, 0, vr 1, vr 2⟩,
    .mstep ⟨h7, 0, vr 4, 249, 0⟩, .mstep ⟨h7, 0, vr 4, 0, 3⟩] = true := by decide

/-! ### Words that are refused (R70, R74, R76, R80, R82 to R86) -/

/-- An all-zero word, an opcode between two rows, a literal destination, a scalar index above 63, a nonzero unused
operand, a reserved MOD bit, condition 0xA, atomic operation 0xA, fence kind 0. -/
theorem test_refused_tile_words : ([0x0000000000000000, 0x0280000000000000, 0x0070000400000000, 0x0044000400000000,
    0x0800000400000001, 0x1280000000000001, 0x088000000000000A, 0x0D0000000000000A, 0x0D40000000000000] : List W64).all
    (fun w => match decodeTile w none with | .ok _ => false | .error _ => true) = true := by decide +kernel

/-- An all-zero word, a minor beyond the last, IMM[16] beside an immediate, VB beside an immediate, LA on a short
instruction, an unused last-use bit, format code 0, `LDC` of 16 bits, a quad at 9. -/
theorem test_refused_lane_words : ([0x0000000000000000, 0x1DA1C00000000000, 0x0401C08000030003, 0x0401C08004020003,
    0x0403C08000020003, 0x0401C08000060003, 0x1801C10200000030, 0x30C1C20600010000, 0x09C1C21208000100] : List W64).all
    (fun w => match decodeLane w with | .ok _ => false | .error _ => true) = true := by decide +kernel

/-! ### Single steps of the sequencer -/

/-- `ADD s3, s1, #-2` from `s1` = 0 (R97's program). -/
theorem test_add : after (exec (.add ⟨.s 3, .s 1, .l 0xFE⟩) (withS 1 0)) (fun t =>
    t.curCore.seq.s[3] == 0xFFFFFFFFFFFFFFFE && t.curCore.seq.pc == 8) = true := by decide +kernel

/-- R100: a shift of 64 gives 0; an arithmetic one keeps the sign. -/
theorem test_shifts : after (exec (.tileShl ⟨.s 2, .s 1, .l 64⟩) (withS 1 3)) (fun t => t.curCore.seq.s[2] == 0) = true ∧
    after (exec (.tileSar ⟨.s 2, .s 1, .l 64⟩) (withS 1 (BitVec.intMin 64)))
      (fun t => t.curCore.seq.s[2] == BitVec.allOnes 64) = true := by decide +kernel

/-- R100: the high half of -1 times 3 differs with the sign. -/
theorem test_mulh : after (exec (.mulh ⟨.s 2, .s 1, .l 3, false⟩) (withS 1 (BitVec.allOnes 64)))
      (fun t => t.curCore.seq.pend == [⟨.s 2, some (BitVec.allOnes 64), 0, none⟩]) = true ∧
    after (exec (.mulh ⟨.s 2, .s 1, .l 3, true⟩) (withS 1 (BitVec.allOnes 64)))
      (fun t => t.curCore.seq.pend == [⟨.s 2, some 2, 0, none⟩]) = true := by decide +kernel

/-- R66: division by zero gives all ones and DIVZERO. -/
theorem test_div_zero : after (exec (.divu ⟨.s 5, .s 1, .s 2⟩) (withS 1 10))
    (fun t => t.curCore.seq.pend == [⟨.s 5, some (BitVec.allOnes 64), fDivZero, none⟩]) = true := by decide +kernel

/-- R100: `CLZ` of 0 is 64. -/
theorem test_clz : after (exec (.tileClz ⟨.s 2, .s 1⟩) (withS 1 0)) (fun t => t.curCore.seq.s[2] == 64) = true := by
  decide +kernel

/-- R102: signed and unsigned less-than differ on -1. -/
theorem test_cmp : after (exec (.cmp ⟨2, .s 1, .l 1, .lt⟩) (withS 1 (BitVec.allOnes 64)))
      (fun t => t.curCore.seq.pred 2) = true ∧
    after (exec (.cmp ⟨2, .s 1, .l 1, .ltu⟩) (withS 1 (BitVec.allOnes 64))) (fun t => !t.curCore.seq.pred 2) = true := by
  decide +kernel

/-- R110: `LOOP` with d = 1 falls through with 0, with d = 0 it wraps and branches. -/
theorem test_loop : after (exec (.loop ⟨1, 4⟩) (withS 1 1))
      (fun t => t.curCore.seq.s[1] == 0 && t.curCore.seq.pc == 8) = true ∧
    after (exec (.loop ⟨1, 4⟩) (withS 1 0))
      (fun t => t.curCore.seq.s[1] == BitVec.allOnes 64 && t.curCore.seq.pc == 32) = true := by decide +kernel

/-- R110: a `BR.NOT` is taken where the predicate is false. -/
theorem test_br : after (exec (.br ⟨3, true, 2⟩) (onSeq id)) (fun t => t.curCore.seq.pc == 16) = true := by decide +kernel

/-- R104: bytes in the Kennel are little-endian. -/
theorem test_stk : after (exec (.tileStk ⟨.s 1, .l 0, .l 0xFE, 1⟩) (withS 1 0x20))
    (fun t => t.curCore.kread 0x20 3 == [0xFE, 0xFF, 0]) = true := by decide +kernel

/-- R105: the check of alignment comes before that of the range. -/
theorem test_ldk_checks : after (exec (.tileLdk ⟨.s 2, .s 1, .l 0, 3, false⟩) (withS 1 0x100004))
      (fun t => t.curCore.seq.trapcause.extractLsb' 0 8 == 3 && t.curCore.seq.mode == .unhandled) = true := by
  decide +kernel

/-- R108: an addition at CORE scope returns the old value. -/
theorem test_atoms : after (exec (.atoms ⟨.s 2, .s 1, .l 5, none, .add, .core, false, false, false⟩)
      ((withS 1 0x40).kwrite 0 0x40 [1, 0, 0, 0]))
    (fun t => t.curCore.kword 0x40 4 == 6 && t.curCore.seq.pend == [⟨.s 2, some 1, 0, none⟩]) = true := by decide +kernel

/-- R114: `TRAP #5` with a handler at 16; EPC is the next word. -/
theorem test_trap : after (exec (.tileTrap (.l 5)) (onSeq fun q => { q with trapvec := 16 })) (fun t =>
    t.curCore.seq.pc == 16 && t.curCore.seq.epc == 8 && t.curCore.seq.trapcause == 0x500000007 &&
      t.curCore.seq.mode == .run) = true := by decide +kernel

/-- R115: `ERET` goes to EPC. -/
theorem test_eret : after (exec .eret (onSeq fun q => { q with epc := 24 })) (fun t => t.curCore.seq.pc == 24) = true := by
  decide +kernel

/-- R111: `FAIRCYC` takes 32 to 1024. -/
theorem test_swr : after (exec (.swr ⟨0x11, .l 5⟩) (onSeq id)) (fun t => t.curCore.seq.faircyc == 32) = true := by
  decide +kernel

/-- R184's table: no overflow and the interval reached; overflow; overflow at the floor. -/
theorem test_lsupd : after (exec (.lsupd ⟨1, 0⟩) (withS 1 0x100007CF001807D0))
      (fun t => t.curCore.seq.s[1] == 0x11000000001807D0) = true ∧
    after (exec (.lsupd ⟨1, 7⟩) (withS 1 0x100007CF001807D0)) (fun t => t.curCore.seq.s[1] == 0x0F000000001807D0) = true ∧
    after (exec (.lsupd ⟨1, 7⟩) (withS 1 0x00000005001807D0))
      (fun t => t.curCore.seq.s[1] == 0x00000000001807D0 && t.curCore.seq.tflags == 0x100) = true := by decide +kernel

/-- R121 with the example of R21: `TDESCL` puts the literal below the scalar. -/
theorem test_tdescl : after (exec (.tdescl ⟨3, .s 1, 0x200003F643F10000⟩) (withS 1 0x0000053F80000014))
    (fun t => t.curCore.seq.t[3] == 0x0000053F80000014200003F643F10000#128 && t.curCore.seq.pc == 16) = true := by
  decide +kernel

/-- R35: one arrival of one ends the phase. -/
theorem test_barv : after (exec (.tileBarv ⟨false, .s 2, .s 1⟩)
      ((withS 1 0x40).kwrite 0 0x40 (Bar.toBytes ⟨0, 1, 1, 0, false, true⟩)))
    (fun t => t.bar (.kennel 0 0x40) == ⟨1, 1, 1, 0, false, true⟩) = true := by decide +kernel

/-! ### A step from fetch on -/

/-- The first word of R97's program that computes, from `withFetchWord`. -/
theorem test_step_tile : after (step (State.reset.withFetchWord 64 0x00403007FE000000)) (fun t =>
    t.curCore.seq.s[3] == 0xFFFFFFFFFFFFFFFE && t.curCore.seq.pc == 8) = true := by decide +kernel

/-- `SREAD v0, LANEID` in a thread on lane 0, and an unassigned word, which stops the thread (R86). -/
theorem test_step_lane : after (step (State.reset.withFetchWord 64 0x2061C00000000020)) (fun t =>
      (t.thread 0 0 0).any fun th => th.pc == 0x1008 && th.isFull 0 && th.reg 0 == 0) = true ∧
    after (step (State.reset.withFetchWord 64 0xFFFFFFFFFFFFFFFF)) (fun t => t.curCore.seq.mode == .unhandled ||
      (t.thread 0 0 0).any fun th => th.wait == .faulted) = true := by decide +kernel

/-! ### Single lane instructions -/

/-- R194: `IMINU v1, v2, #-1` returns a; R195: SAR, ROTR. -/
theorem test_iminu : laneTest (.iminu ⟨h7, 1, vr 2, .imm 0xFFFF⟩) [(2, 7)]
    (fun th => th.reg 1 == 7 && th.pc == 0x1008) = true := by decide +kernel

/-- R194: a carry out of the low word. -/
theorem test_iadd64 : laneTest (.iadd64 ⟨h7, 4, vr 2, .imm 1⟩) [(2, 0xFFFFFFFF), (3, 0)]
    (fun th => th.reg 4 == 0 && th.reg 5 == 1) = true := by decide +kernel

/-- R195: with these three operands the LUT comes back in every byte. -/
theorem test_bitfn : laneTest (.bitfn ⟨h7, 1, vr 2, vr 3, vr 4, 0x96⟩) [(2, 0xAAAAAAAA), (3, 0xCCCCCCCC), (4, 0xF0F0F0F0)]
    (fun th => th.reg 1 == 0x96969696) = true := by decide +kernel

/-- R75, R77: a false guard writes nothing and goes on. -/
theorem test_guard : laneTest (.laneMov ⟨⟨0, 0, false⟩, 1, ⟨2, true⟩⟩) [(2, 9)]
    (fun th => th.pc == 0x1008 && !th.isFull 1 && th.isFull 2) = true := by decide +kernel

/-- R78: a last-use read empties its register. -/
theorem test_last_use : laneTest (.iadd ⟨h7, 1, ⟨0, true⟩, .imm 3⟩) [(0, 5)]
    (fun th => th.reg 1 == 8 && th.isFull 1 && !th.isFull 0) = true := by decide +kernel

/-- R201: LUT 0x88 is AND. -/
theorem test_predfn : laneTest (.predfn ⟨h7, 2, 7, 0, 7, 0x88⟩) [] (fun th => !th.pred 2) = true ∧
    laneTest (.predfn ⟨h7, 2, 7, 0, 7, 0xEE⟩) [] (fun th => th.pred 2) = true := by decide +kernel

/-- R202's add under R45's rounding modes RN and RU, inexact. -/
theorem test_fadd : laneTest (.fadd ⟨h7, 1, vr 2, vr 3, .rn, false⟩) [(2, 0x3F800000), (3, 0x33800000)]
      (fun th => th.reg 1 == 0x3F800000 && th.flags == fInexact) = true ∧
    laneTest (.fadd ⟨h7, 1, vr 2, vr 3, .ru, false⟩) [(2, 0x3F800000), (3, 0x33800000)]
      (fun th => th.reg 1 == 0x3F800001 && th.flags == fInexact) = true := by decide +kernel

/-- R204's example of `PKFMA.FH`. -/
theorem test_pkfma : laneTest (.pkfma ⟨h7, 1, vr 2, vr 3, vr 4, .rn, false, true⟩)
    [(2, 0x3C007BFF), (3, 0x3C004000), (4, 0)]
    (fun th => th.reg 1 == 0x3C007C00 && th.flags == fOverflow ||| fInexact) = true := by decide +kernel

/-- R206's table: 470.0 into E4M3 with and without saturation, 70,000 into FP16, -3.75 into INT8, two BF16. -/
theorem test_cvt : laneTest (.cvt ⟨h7, 2, vr 1, .rn, false, .e4m3, .fp32, false, 0⟩) [(1, 0x43EB0000)]
      (fun th => th.reg 2 == 0x7E && th.flags == fSat ||| fInexact) = true ∧
    laneTest (.cvt ⟨h7, 2, vr 1, .rn, false, .e4m3, .fp32, true, 0⟩) [(1, 0x43EB0000)]
      (fun th => th.reg 2 == 0x7F && th.flags == fOverflow ||| fInexact) = true := by decide +kernel

theorem test_cvt_others : laneTest (.cvt ⟨h7, 2, vr 1, .rn, false, .fp16, .int32, false, 0⟩) [(1, 70000)]
      (fun th => th.reg 2 == 0x7C00 && th.flags == fOverflow ||| fInexact) = true ∧
    laneTest (.cvt ⟨h7, 2, vr 1, .rz, false, .int8, .fp32, false, 0⟩) [(1, 0xC0700000)]
      (fun th => th.reg 2 == 0xFD && th.flags == fInexact) = true ∧
    laneTest (.cvt ⟨h7, 2, vr 1, .rn, false, .fp32, .pw8, false, 2⟩) [(1, 0x00650000)]
      (fun th => th.reg 2 == 0x42400000 && th.flags == 0) = true := by decide +kernel

theorem test_cvtpk : laneTest (.cvtpk ⟨h7, 2, vr 1, vr 3, none, .rn, false, .bf16, .fp32, false, false⟩)
      [(1, 0x3FC00000), (3, 0xC0100000)] (fun th => th.reg 2 == 0xC0103FC0) = true ∧
    laneTest (.cvtunpk ⟨h7, 4, vr 1, .rn, false, .fp32, .e5m2, false, true⟩) [(1, 0x7C3C0000)]
      (fun th => th.reg 4 == 0x3F800000 && th.reg 5 == 0x7F800000) = true := by decide +kernel

/-- R208's example of `IDP4`. -/
theorem test_idp4 : laneTest (.idp4 ⟨h7, 1, vr 2, vr 3, vr 4, false, false, true⟩)
      [(2, 0x7F7F7F7F), (3, 0x7F7F7F7F), (4, 0x7FFFFFF0)] (fun th => th.reg 1 == 0x7FFFFFFF && th.flags == fSat) = true ∧
    laneTest (.idp4 ⟨h7, 1, vr 2, vr 3, vr 4, false, false, false⟩)
      [(2, 0x7F7F7F7F), (3, 0x7F7F7F7F), (4, 0x7FFFFFF0)] (fun th => th.reg 1 == 0x8000FBF4 && th.flags == 0) = true := by
  decide +kernel

/-- R66 at 32 bits: the quotient that does not fit. -/
theorem test_idiv : laneLate (.idiv ⟨h7, 1, vr 2, .imm 0xFFFF⟩) [(2, 0x80000000)] [0x80000000] 0 = true := by
  decide +kernel

/-- R223: a store of 16 bits to a lane's private SRAM. -/
theorem test_stp : after (exec (.stp ⟨h7, vr 1, vr 2, 1, 2⟩) (lanes (thread0 [(1, 4), (2, 0x12345678)])))
    (fun t => t.curCore.mem.pread 6 3 == [0x78, 0x56, 0]) = true := by decide +kernel

/-- R218: a backward branch, and a link pair. -/
theorem test_call : laneTest (.bra ⟨h7, 0x3FFFE⟩) [] (fun th => th.pc == 0xFF0) = true ∧
    laneTest (.laneCall ⟨h7, 6, 16⟩) [] (fun th => th.pc == 0x1080 && th.reg 6 == 0x1008 && th.reg 7 == 0) = true := by
  decide +kernel

/-- R24: a read of an EMPTY register under CHECK would fault; without it the value is undefined and the thread goes on. -/
theorem test_empty_read : laneTest (.laneMov ⟨h7, 1, vr 2⟩) [] (fun th => th.pc == 0x1008 && th.isFull 1) = true := by
  decide +kernel

end Sys2Proof.Tests
end

