-- ==== Sys2Proof/Tests/Witness1.lean ====
section
/-! SUPPORT. For each statement about words and about the sequencer, a state and operands that meet its hypotheses, clause
by clause, at the ends of their ranges. -/

namespace Sys2Proof.Tests

open Sys2Proof Sys2Proof.Machine

set_option Elab.async false

/-! ### Words and steps -/

theorem witness_TileWordsDecodeBack : ∃ i f, tileFields i = some f ∧ i.wellFormed = true ∧ encode i ≠ [] :=
  ⟨.add ⟨.c 255, .s 63, .l 0x80⟩, _, rfl, by decide, by decide⟩

theorem witness_TileWordsDecodeBack_two_words : ∃ i f, tileFields i = some f ∧ i.wellFormed = true ∧ i.tileWords = 2 :=
  ⟨.lit ⟨.s 63, BitVec.allOnes 64⟩, _, rfl, by decide, by decide⟩

theorem witness_LaneWordsDecodeBack : ∃ i f, laneFields i = some f ∧ i.wellFormed = true :=
  ⟨.ld ⟨⟨15, 0, true⟩, 63, ⟨62, true⟩, 2, false, 0x3FFF⟩, _, rfl, by decide⟩

theorem witness_DecodedWordsEncodeBack : (∃ w i, decodeTile w none = .ok i ∧ i.tileWords = 1) ∧
    (∃ w v i, decodeTile w (some v) = .ok i ∧ i.tileWords = 2) ∧ ∃ w i, decodeLane w = .ok i :=
  ⟨⟨0x00403007FE000000, .add ⟨.s 3, .s 1, .l 0xFE⟩, by decide +kernel, by decide⟩,
    ⟨0xC000500000000000, 7, .lit ⟨.s 5, 7⟩, by decide +kernel, by decide⟩,
    ⟨0x2C81C00000000000, .exit ⟨h7⟩, by decide +kernel⟩⟩

/-- Core 0 is to issue next; the code is one word. -/
def turnSeq (w : W64) (pc : W64) : State :=
  let s := onSeq fun q => { q with code := [w], pc := pc }
  s.setSched { s.sched with agenda := [⟨0, .seq 0⟩] }

def turned (w : W64) (pc : W64) : State :=
  ((turnSeq w pc).setSched { (turnSeq w pc).sched with agenda := [] }).pass 0

theorem witness_StepRunsTheDecodedInstruction_seq :
    (turnSeq 0x1280000000000000 0).sched.agenda = [⟨0, .seq 0⟩] ∧
    ((turned 0x1280000000000000 0).core 0).health.clockStop = false ∧
    ((turned 0x1280000000000000 0).core 0).health.gated = false ∧
    ((turned 0x1280000000000000 0).core 0).seq.mode = .run ∧ ((turned 0x1280000000000000 0).core 0).faulted = [] ∧
    decodeTile (((turned 0x1280000000000000 0).core 0).seq.code.getD 0 0)
      ((turned 0x1280000000000000 0).core 0).seq.code[1]? = .ok .tileNop := by decide +kernel

/-- The word is unassigned; the PC stands at the end of the code; the PC is not a multiple of 8. -/
theorem witness_StepRunsTheDecodedInstruction_trap :
    decodeTile (((turned 0 0).core 0).seq.code.getD 0 0) ((turned 0 0).core 0).seq.code[1]? = .error .unassignedOpcode ∧
    ¬ (((turned 0 8).core 0).seq.pc.toNat < 8 * ((turned 0 8).core 0).seq.code.length) ∧
    ¬ (((turned 0 4).core 0).seq.pc.toNat % 8 = 0) ∧ ((turned 0 8).core 0).seq.mode = .run ∧
    ((turned 0 8).core 0).faulted = [] := by decide +kernel

/-- The thread on lane 0 stands at a word that its instruction cache holds. -/
def turnLane (w : W64) : State :=
  (onLane (fun k => { k with mem := { k.mem with icache := [(0x1000, w)] } }) (thread0 [])).setSched {}

def isLanes : Move → Bool
  | .lanes _ _ _ => true
  | _ => false

theorem lanes_of (m : Move) (h : isLanes m = true) : ∃ i n v, m = .lanes i n v := by
  cases m with
  | lanes i n v => exact ⟨i, n, v, rfl⟩
  | done _ => cases h
  | run _ _ => cases h

theorem witness_StepRunsTheDecodedInstruction_lanes : ∃ i n v, laneMove 0 0 (turnLane 0x2061C00000000020) = .lanes i n v :=
  lanes_of _ (by decide +kernel)

theorem witness_StepRunsTheDecodedInstruction_event : isStep (.clockGate 0) = true ∧
    (State.reset.setSched { agenda := [⟨1, .event (.clockGate 0)⟩] }).sched.agenda = [⟨1, .event (.clockGate 0)⟩] := by
  decide +kernel

/-- The subset of the thread, its turn, and the word under its PC. -/
theorem witness_StepRunsTheDecodedInstruction_subset : let s := turnLane 0x2061C00000000020
    (s.core 0).health.gated = false ∧ (s.core 0).moving = true ∧
    ((s.core 0).nextTeam 0).bind (s.core 0).team? = some team0 ∧ (s.core 0).expires team0 0 = false ∧
    (s.core 0).currentSubset team0 0 = some (0, [(0, 0)]) ∧ [(0, 0)].find? (fun y => y.1 == 0) = some (0, 0) ∧
    (let u := s.setCore 0 ((s.core 0).takeTurn team0.op 0 0)
     u.threadOf ⟨0, 0, 0⟩ = some (thread0 []) ∧ u.laneWord 0 0x1000 = some 0x2061C00000000020) ∧
    decodeLane 0x2061C00000000020 = .ok (.sread ⟨h7, 0, 0x20⟩) ∧ decodeLane 0 = .error .unassignedOpcode := by
  decide +kernel

/-! ### Scalar forms -/

/-- Any operands at all: the last constant word, the last scalar register, the least literal. -/
theorem witness_SequencerIntegerResults : Ready2 ⟨.c 255, .s 63, .l 0x80⟩ (onSeq id) ∧ Ready1 ⟨.s 63, .c 255⟩ (onSeq id) := by
  unfold Ready2 Ready1
  decide +kernel

theorem witness_SequencerLateResults : Ready2 ⟨.s 1, .s 2, .l 0⟩ (onSeq id) ∧ (onSeq id).curCore.seq.pendingSKL (.s 3) = false := by
  unfold Ready2
  decide +kernel

theorem witness_SequencerMovesAndPredicates : Ready1 ⟨.s 0, .s 1⟩ (onSeq id) ∧ Ready2 ⟨.s 0, .s 1, .s 2⟩ (onSeq id) ∧
    (onSeq id).curCore.destHeld (.c 255) = false ∧ (onSeq id).curCore.tilePending 63 = false ∧
    (onSeq id).curCore.seq.pendingSKL (.l 0) = false := by
  unfold Ready2 Ready1
  decide +kernel

theorem witness_SequencerFrames : (∃ t, exec (.add ⟨.s 1, .s 2, .l 3⟩) (onSeq id) = .next t) ∧
    (∃ t, exec (.cmp ⟨2, .s 1, .l 1, .lt⟩) (onSeq id) = .next t) ∧
    (∃ t, exec (.tdescl ⟨3, .s 1, 7⟩) (onSeq id) = .next t) ∧
    (∃ t, exec (.swr ⟨0x11, .l 64⟩) (onSeq id) = .next t) ∧ ∃ t, exec .tileNop (onSeq id) = .next t :=
  ⟨⟨_, rfl⟩, ⟨_, rfl⟩, ⟨_, rfl⟩, ⟨_, rfl⟩, ⟨_, rfl⟩⟩

/-! ### Transfers and traps -/

/-- Taken to the last word and not taken; a register target; a link; `LOOP` that goes on and that ends. -/
theorem witness_SequencerTransfers :
    (let q := (onSeq id).curCore.seq
     (q.pred 7 ^^ false) = true ∧ InCode q (q.pc + 8 * (7 : BitVec 14).signExtend 64) ∧ (q.pred 7 ^^ true) = false) ∧
    (let q := (withS 1 56).curCore.seq
     q.pendingSK (.s 1) = false ∧ InCode q ((SK.s 1).val q) ∧ q.s[1] ≠ 1 ∧ InCode q (q.pc + 8 * (0 : BitVec 14).signExtend 64)) ∧
    (withS 1 1).curCore.seq.s[1] = 1 := by
  unfold InCode
  decide +kernel

/-- Just past the end, before the beginning, and not a multiple of 8; an EPC past the end. -/
theorem witness_BadTargetsTrap :
    (let q := (onSeq id).curCore.seq
     (q.pred 7 ^^ false) = true ∧ ¬ InCode q (q.pc + 8 * (8 : BitVec 14).signExtend 64) ∧
       ¬ InCode q (q.pc + 8 * (0x3FFF : BitVec 14).signExtend 64) ∧ q.pendingSK (.s 0) = false) ∧
    (let q := (withS 1 4).curCore.seq
     q.pendingSK (.s 1) = false ∧ ¬ InCode q ((SK.s 1).val q) ∧ q.s[1] ≠ 1) ∧
    let q := (onSeq fun q => { q with epc := 64 }).curCore.seq
    q.restart = none ∧ ¬ InCode q q.epc := by
  unfold InCode
  decide +kernel

/-- A handler at the last word; none; one past the end. -/
theorem witness_TileTrapEntry : (let q := (onSeq fun q => { q with trapvec := 56 }).curCore.seq
    q.trapvec ≠ 0 ∧ InCode q q.trapvec) ∧ ¬ ((onSeq id).curCore.seq.trapvec ≠ 0 ∧ InCode (onSeq id).curCore.seq 0) ∧
    (let q := (onSeq fun q => { q with trapvec := 64 }).curCore.seq
     ¬ (q.trapvec ≠ 0 ∧ InCode q q.trapvec)) := by
  unfold InCode
  decide +kernel

/-- A completed fault is in the restart slot, with another `EPC`, with its own, and final. -/
def slot (final : Bool) : Restart := { id := 0, isCmd := false, pc := 8, resume := 16, final := final }

def restartAt (epc : W64) (final : Bool) : State :=
  on fun k => { k with
    ops := [{ op0 with st := .delivered, rcd := { rcd0 with pc := 8 } }],
    table := k.table.set 0x40 entry0,
    seq := { k.seq with epc := epc, restart := some (slot final) } }

theorem witness_TrapReturnAndSafePoints :
    (onSeq id).curCore.seq.pendingSKL (.l 5) = false ∧
    ((onSeq id).curCore.seq.restart = none ∧ InCode (onSeq id).curCore.seq (onSeq id).curCore.seq.epc) ∧
    (let q := (restartAt 24 false).curCore.seq
     q.restart = some (slot false) ∧ q.epc ≠ (slot false).pc ∧ InCode q q.epc) ∧
    (let q := (restartAt 8 true).curCore.seq
     q.restart = some (slot true) ∧ q.epc = (slot true).pc ∧ (slot true).final = true) ∧
    let s := restartAt 8 false
    ∃ o, s.curCore.seq.restart = some (slot false) ∧ s.curCore.seq.epc = (slot false).pc ∧ s.curCore.op? 0 = some o ∧
      (s.curCore.table[o.rcd.word.idx.toNat]'o.rcd.word.idx.isLt).kind ≠ .unbound ∧
      (s.curCore.table[o.rcd.word.idx.toNat]'o.rcd.word.idx.isLt).kind ≠ .reserved ∧
      step4Ok (s.curCore.table[o.rcd.word.idx.toNat]'o.rcd.word.idx.isLt) o.rcd.word = true ∧
      ({ s.curCore with ops := s.curCore.ops.filter fun x => !x.held } : Core).queued
        (queueOf (s.curCore.table[o.rcd.word.idx.toNat]'o.rcd.word.idx.isLt)) < 8 := by
  unfold InCode
  refine ⟨rfl, by decide +kernel, by decide +kernel, by decide +kernel, { op0 with st := .delivered, rcd := { rcd0 with pc := 8 } }, ?_⟩
  decide +kernel

/-! ### Memory -/

theorem seqCan_iff (kennel : Bool) (addr : W64) (n : Nat) (write : Bool) (s : State) :
    (decide (addr.toNat % n = 0) && (if kennel then decide (addr.toNat + n ≤ 0x100000) else decide (addr.toNat < 2 ^ 52)) &&
      !s.curCore.locked (!kennel) addr.toNat n write) = true → SeqCan kennel addr n write s := by
  unfold SeqCan
  cases kennel <;> simp +contextual

/-- The last doubleword of the Kennel, and of the address space; the page of the latter is in the TLB. -/
theorem witness_SequencerLoadsAndStores :
    (SeqCan true 0xFFFF8 8 false (withS 1 0xFFFF8) ∧ SeqCan true 0xFFFF8 8 true (withS 1 0xFFFF8) ∧
      (withS 1 0xFFFF8).curCore.kpoisoned 0xFFFF8 8 = false ∧ (SK.s 1).val (withS 1 0xFFFF8).curCore.seq + 0 = 0xFFFF8) ∧
    (SeqCan false 0xFFFFFFFFFFFF8 8 false (withS 1 0xFFFFFFFFFFFF8) ∧ SeqCan false 0xFFFFFFFFFFFF8 8 true (withS 1 0xFFFFFFFFFFFF8) ∧
      SeqAt 0xFFFFFFFFFFFF8 .read ⟨0x2FFF8, 0⟩ (withS 1 0xFFFFFFFFFFFF8) ∧
      SeqAt 0xFFFFFFFFFFFF8 .write ⟨0x2FFF8, 0⟩ (withS 1 0xFFFFFFFFFFFF8) ∧
      poisonHit 32 (withS 1 0xFFFFFFFFFFFF8).dev.poison 0x2FFF8 8 = false) :=
  ⟨⟨seqCan_iff _ _ _ _ _ (by decide +kernel), seqCan_iff _ _ _ _ _ (by decide +kernel), by decide +kernel, by decide +kernel⟩,
    seqCan_iff _ _ _ _ _ (by decide +kernel), seqCan_iff _ _ _ _ _ (by decide +kernel),
    by unfold SeqAt; decide +kernel, by unfold SeqAt; decide +kernel, by decide +kernel⟩

def lockAll : RangeLock := { cmd := 9, dst := true, dev := false, lo := 0, hi := 0xFFFFF }
def lockDev : RangeLock := { cmd := 9, dst := true, dev := true, lo := 0, hi := 2 ^ 52 - 1 }

/-- Misaligned; one byte too far; an address of 2^52; under a range lock. -/
theorem witness_SequencerAccessChecks :
    (1 : W64).toNat % 2 ≠ 0 ∧ (0xFFFFE : W64).toNat % 2 = 0 ∧ 0x100000 < (0x100000 : W64).toNat + 1 ∧
    2 ^ 52 ≤ (0x10000000000000 : W64).toNat ∧ (0x10000000000000 : W64).toNat % 8 = 0 ∧
    (on fun k => { k with locks := [lockAll] }).curCore.locked false 0xFFFF8 8 false = true ∧
    (on fun k => { k with locks := [lockDev] }).curCore.locked true 0xFFFFFFFFFFFF8 8 false = true ∧
    (onSeq id).curCore.destHeld (.s 1) = false := by decide +kernel

theorem witness_SequencerStoreFrame : memoriesWf (withS 1 0xFFFF8) = true ∧ SeqCan true 0xFFFF8 8 true (withS 1 0xFFFF8) ∧
    (∃ t, exec (.tileStk ⟨.s 1, .l 0, .l 5, 3⟩) (withS 1 0xFFFF8) = .next t) ∧
    SeqCan false 0xFFFFFFFFFFFF8 8 true (withS 1 0xFFFFFFFFFFFF8) ∧
    SeqAt 0xFFFFFFFFFFFF8 .write ⟨0x2FFF8, 0⟩ (withS 1 0xFFFFFFFFFFFF8) ∧
    (∃ t, exec (.sts ⟨.s 1, .l 0, .l 5, 3⟩) (withS 1 0xFFFFFFFFFFFF8) = .next t) ∧
    0xFFFFF + [(7 : Byte)].length ≤ 0x100000 ∧ 127 < 128 ∧ 0x7FF + [(7 : Byte)].length ≤ 0x800 :=
  ⟨by decide +kernel, seqCan_iff _ _ _ _ _ (by decide +kernel), ⟨_, rfl⟩, seqCan_iff _ _ _ _ _ (by decide +kernel),
    by unfold SeqAt; decide +kernel, ⟨_, rfl⟩, by decide, by decide, by decide⟩

def atom0 (sc : Scope) : TAtom := ⟨.s 2, .s 1, .l 5, none, .add, sc, true, true, true⟩

/-- A window of the partition is open for the remote address; a remote answer has come. -/
def remoteState (r : Remote) : State :=
  ((onSeq fun q => { q with s := q.s.set 1 0x8000000000000, remote := r }).updPart 0 fun p =>
    { p with rwin := Vector.replicate 16 (BitVec.allOnes 128) })

theorem witness_SequencerAtomics :
    (SeqCan true 0xFFFF8 8 true (withS 1 0xFFFF8) ∧ (withS 1 0xFFFF8).curCore.kpoisoned 0xFFFF8 8 = false) ∧
    (SeqCan false 0xFFF8 8 true (withS 1 0xFFF8) ∧ SeqAt 0xFFF8 .atomic ⟨0x1FFF8, 0⟩ (withS 1 0xFFF8) ∧
      poisonHit 32 (withS 1 0xFFF8).dev.poison 0x1FFF8 8 = false ∧ (0xFFF8 : W64).getLsbD 51 = false) ∧
    SeqCan false 0x8000000000000 8 true (remoteState .none) ∧ (remoteState .none).curCore.seq.remote = .none ∧
    SeqCan false 0x8000000000000 8 true (remoteState (.value 7)) ∧
    (remoteState (.value 7)).curCore.seq.remote = .value 7 ∧
    (0x8000000000000 : W64).getLsbD 51 = true ∧
    (((remoteState .none).part (ctxPart (remoteState .none).curCore.ctx)).window 0x8000000000000).v = true :=
  ⟨⟨seqCan_iff _ _ _ _ _ (by decide +kernel), by decide +kernel⟩,
    ⟨seqCan_iff _ _ _ _ _ (by decide +kernel), by unfold SeqAt; decide +kernel, by decide +kernel, by decide +kernel⟩,
    seqCan_iff _ _ _ _ _ (by decide +kernel), by decide +kernel, seqCan_iff _ _ _ _ _ (by decide +kernel),
    by decide +kernel, by decide, by decide +kernel⟩

/-- R184's cases: no fields at all; emin above emax; above, at the floor with and without TRAPEN; the interval not
reached, reached below and at emax. Fields e, cnt, emin, emax, gi. -/
def ls (e cnt emin emax gi : Nat) : W64 :=
  BitVec.ofNat 64 (e * 2 ^ 56 + cnt * 2 ^ 32 + emin * 2 ^ 24 + emax * 2 ^ 16 + gi)

def lsFields (d : W64) : List Int :=
  [(d.extractLsb' 56 8).toInt, (d.extractLsb' 32 24).toNat, (d.extractLsb' 24 8).toInt, (d.extractLsb' 16 8).toInt,
    (d.extractLsb' 0 16).toNat]

theorem witness_LossScaleUpdate :
    lsFields (ls 0 0 1 0 0) = [0, 0, 1, 0, 0] ∧ lsFields (ls 1 0 0 24 5) = [1, 0, 0, 24, 5] ∧
    lsFields (ls 0 0 0 24 5) = [0, 0, 0, 24, 5] ∧ lsFields (ls 0 3 0 24 5) = [0, 3, 0, 24, 5] ∧
    lsFields (ls 23 4 0 24 5) = [23, 4, 0, 24, 5] ∧ lsFields (ls 24 4 0 24 5) = [24, 4, 0, 24, 5] := by decide +kernel

theorem witness_LossScaleUpdate_state : (withS 1 (ls 24 4 0 24 5)).curCore.seq.s[1] = ls 24 4 0 24 5 ∧
    (withS 1 0).curCore.seq.pendingSK (.s 1) = false ∧ (onSeq id).curCore.seq.pred 7 = true ∧
    (onSeq id).curCore.seq.pred 0 = false ∧ (onSeq id).curCore.seq.trapen = false ∧
    (onSeq fun q => { q with trapen := true }).curCore.seq.trapen = true := by decide +kernel

/-! ### Results on their way, special registers, records -/

/-- A division's flags are on their way. -/
def dividing : State := onSeq fun q => { q with pend := [{ d := .s 1, v := some 0, fl := fDivZero }] }

theorem witness_SequencerMovesAndPredicates_flags : (∃ r ∈ dividing.curCore.seq.pend, r.fl ≠ 0) ∧
    (onSeq id).curCore.destHeld (.s 1) = false ∧ (∀ r ∈ (onSeq id).curCore.seq.pend, r.fl = 0) ∧
    ((onSeq id).core 0).task = some task0 ∧ (onSeq id).ctx? ((onSeq id).core 0).ctx = some ctx0 := by decide +kernel

/-- The page of the fault records is mapped; without tables it is not. -/
theorem witness_TileTrapEntry_record :
    (paged [] (onSeq id)).xlate ((paged [] (onSeq id)).core 0).ctx ((paged [] (onSeq id)).faultrec 0) .write =
      .ok ⟨0x10000, 0⟩ ∧
    (match (onSeq id).xlate ((onSeq id).core 0).ctx ((onSeq id).faultrec 0) .write with
      | .ok _ => false | .error _ => true) = true ∧
    (2 ^ 32 - 1) < 2 ^ 32 := by decide +kernel

/-- A command is in the restart slot; queues that are full. -/
def pull0 : Cmd :=
  { id := 0, pc := 8, q := 3, kind := .pull, dev := false, dst := 0, src := 0, addr := 0, pitch := 64, idx := [], count := 0,
    mask := 0, rdev := 0, rpart := 0, bar := 0, st := .delivered, landed := [], sub := 0, frames := 0, park := .none,
    peerBad := false, floor := {}, replay := false, folded := [] }

def cmdRestart (queued : Nat) : State :=
  on fun k => { k with
    cmds := pull0 :: (List.range queued).map fun i => { pull0 with id := i + 1, st := .queued },
    seq := { k.seq with epc := 8, restart := some { slot false with isCmd := true } } }

def opRestart : State :=
  on fun k => { k with
    ops := { op0 with st := .delivered, rcd := { rcd0 with pc := 8 } } ::
      (List.range 8).map fun i => { op0 with id := i + 1, st := .queued, held := true },
    table := k.table.set 0x40 entry0, seq := { k.seq with epc := 8, restart := some (slot false) } }

theorem witness_TrapReturnAndSafePoints_full :
    (∃ o, opRestart.curCore.op? 0 = some o ∧ o.rcd.word = word0) ∧ (slot false).isCmd = false ∧
    (entry0.kind ≠ .unbound ∧ entry0.kind ≠ .reserved ∧ step4Ok entry0 word0 = true ∧
      8 ≤ opRestart.curCore.queued (queueOf entry0)) ∧
    (let q := (cmdRestart 23).curCore.seq
     q.restart = some { slot false with isCmd := true } ∧ q.epc = 8 ∧ (cmdRestart 23).curCore.cmd? 0 = some pull0 ∧
       (cmdRestart 23).curCore.retCount pull0.q < 24) ∧
    24 ≤ (cmdRestart 24).curCore.retCount pull0.q ∧ (3 : BitVec 2).toNat < 4 :=
  ⟨⟨_, rfl, rfl⟩, rfl, by decide +kernel⟩

/-- Poisoned places; a list of choices that asks for a later read; nothing outstanding. -/
def bad : State :=
  let s := on fun k => { k with mem := { k.mem with poison := [0xFFFF8 / 8] },
                                seq := { k.seq with s := k.seq.s.set 1 0xFFF8 |>.set 2 0xFFFF8 } }
  s.setDev { s.dev with poison := [0x1FFF8 / 32] }

theorem witness_SequencerLoadsAndStores_poison : bad.curCore.kpoisoned 0xFFFF8 8 = true ∧
    SeqCan true 0xFFFF8 8 false bad ∧ SeqCan true 0xFFFF8 8 true bad ∧ (SK.s 2).val bad.curCore.seq = 0xFFFF8 ∧
    SeqCan false 0xFFF8 8 false bad ∧ SeqCan false 0xFFF8 8 true bad ∧ SeqAt 0xFFF8 .read ⟨0x1FFF8, 0⟩ bad ∧
    SeqAt 0xFFF8 .atomic ⟨0x1FFF8, 0⟩ bad ∧ bad.dev.poisoned 0x1FFF8 8 = true ∧
    (onSeq id).sched.choices = [] ∧ (onSeq id).curCore.seq.pend = [] ∧ (onSeq id).curCore.kstores = [] :=
  ⟨by decide +kernel, seqCan_iff _ _ _ _ _ (by decide +kernel), seqCan_iff _ _ _ _ _ (by decide +kernel),
    by decide +kernel, seqCan_iff _ _ _ _ _ (by decide +kernel), seqCan_iff _ _ _ _ _ (by decide +kernel),
    by unfold SeqAt; decide +kernel, by unfold SeqAt; decide +kernel, by decide +kernel⟩

theorem witness_SequencerLoadsAndStores_choice : ((onSeq id).inOrder 0 .seq false 0 8).choice.1 = 0 ∧
    (((onSeq id).setSched { choices := [1] }).inOrder 0 .seq false 0 8).choice.1 ≠ 0 ∧
    [(1 : Byte), 0x80].length = 2 := by decide +kernel

/-- ATOMS past each end; an invalid remote window. -/
theorem witness_SequencerAccessChecks_atomics : (0xFFFFE : W64).toNat % 4 ≠ 0 ∧ (0x100000 : W64).toNat % 8 = 0 ∧
    0x100000 < (0x100000 : W64).toNat + 8 ∧ 2 ^ 52 ≤ (0x10000000000000 : W64).toNat ∧
    (on fun k => { k with locks := [lockAll] }).curCore.locked false 0xFFFF8 8 true = true ∧
    (on fun k => { k with locks := [lockDev] }).curCore.locked true 0xFFF8 8 true = true ∧
    (0x8000000000000 : W64).getLsbD 51 = true ∧ SeqCan false 0x8000000000000 8 true (onSeq id) ∧
    (onSeq id).curCore.seq.remote = .none ∧
    (((onSeq id).part (ctxPart (onSeq id).curCore.ctx)).window 0x8000000000000).v = false := by
  refine ⟨by decide, by decide, by decide, by decide, by decide +kernel, by decide +kernel, by decide +kernel,
    seqCan_iff _ _ _ _ _ (by decide +kernel), by decide +kernel, by decide +kernel⟩

theorem witness_SequencerAtomics_agents : memoriesWf (onSeq id) = true ∧ (onSeq id).curCore.stores = [] ∧
    (onSeq id).dev.held = [] ∧ (((lanes (thread0 [])).core 0).thread 0 0).isSome = true := by decide +kernel

end Sys2Proof.Tests
end

