-- ==== Sys2Proof/Tests/Witness2.lean ====
section
/-! SUPPORT. For each statement about bound ops, copies, barriers, pedigree requests and launches, a state and operands
that meet its hypotheses, clause by clause. -/

namespace Sys2Proof.Tests

open Sys2Proof Sys2Proof.Machine

set_option Elab.async false

/-! ### Bound ops -/

def mmaWord (md : BitVec 14) : BoundWord := { idx := 0, d := .t 5, a := .t 2, b := .t 6, c := .s 0, md := md }
def engines : State := on fun k => { k with table := defaultTable }

theorem witness_BoundOpsIssue_unbound : Instr.mma (mmaWord 0) ∈ ([.mma (mmaWord 0), .accld (mmaWord 0)] : List Instr) ∧
    ((onSeq id).curCore.table[(mmaWord 0).idx.toNat]'(mmaWord 0).idx.isLt).kind = .unbound ∧
    ({ w0 := BitVec.ofNat 64 (3 * 2 ^ 62) } : BindEntry).kind = .reserved :=
  ⟨List.mem_cons_self, by decide +kernel, by decide +kernel⟩

/-- `MMA` with reserved MOD bits set. -/
theorem witness_BoundOpsIssue_refused : (engines.curCore.table[(mmaWord 0).idx.toNat]'(mmaWord 0).idx.isLt).kind = .engine ∧
    step4Ok (engines.curCore.table[(mmaWord 4).idx.toNat]'(mmaWord 4).idx.isLt) (mmaWord 4) = false := by decide +kernel

/-- `MMA.ACC t5, t2, t6` on an idle core, and a routine with a literal as B. -/
theorem witness_BoundOpsIssue : let k := engines.curCore
    let w := mmaWord 1
    let e := k.table[w.idx.toNat]'w.idx.isLt
    step4Ok e w = true ∧ anyWaits k w.d = false ∧ anyWaits k w.a = false ∧ anyWaits k w.b = false ∧ anyWaits k w.c = false ∧
      k.queued (queueOf e) < 8 ∧ k.conflicts (engines.pedlimit engines.cur) e (queueOf e) (captureRec k e w) = false := by
  decide +kernel

theorem witness_BoundOpsIssue_routine : let s := on fun k => { k with table := k.table.set 0x40 entry0 }
    let k := s.curCore
    let w : BoundWord := { idx := 0x40, d := .s 3, a := .s 0, b := .l 5, c := .c 255, md := 0 }
    let e := k.table[w.idx.toNat]'w.idx.isLt
    e.kind = .routine ∧ step4Ok e w = true ∧ anyWaits k w.d = false ∧ anyWaits k w.a = false ∧ anyWaits k w.b = false ∧
      anyWaits k w.c = false ∧ k.queued (queueOf e) < 8 ∧
      k.conflicts (s.pedlimit s.cur) e (queueOf e) (captureRec k e w) = false := by
  decide +kernel

/-! ### Retriever commands -/

def cmdCanB (m : Cmd) (o : CmdOperands) (s : State) : Bool :=
  (o.tiles.all fun t => (Desc.of t).ok (s.pedlimit s.cur) false && (Desc.of t).space == spaceKennel) && o.shapeOk &&
    (o.klist.all fun a => decide (a.1.toNat % a.2.1 = 0) && decide (a.1.toNat + a.2.2 ≤ 0x100000) &&
      !s.curCore.locked false a.1.toNat a.2.2 false && !s.curCore.kpoisoned a.1.toNat a.2.2) &&
    decide (m.bar.toNat % 16 = 0) && (if m.dev then decide (m.bar.toNat < 2 ^ 52) else decide (m.bar.toNat + 16 ≤ 0x100000)) &&
    o.devs.all fun a => decide (a.toNat < 2 ^ 52)

theorem cmdCan_of (m : Cmd) (o : CmdOperands) (s : State) (h : cmdCanB m o s = true) : CmdCan m o s := by
  unfold cmdCanB at h
  unfold CmdCan
  simp only [Bool.and_eq_true, List.all_eq_true, decide_eq_true_eq, beq_iff_eq] at h
  obtain ⟨⟨⟨⟨⟨h1, h2⟩, h3⟩, h4⟩, h5⟩, h6⟩ := h
  refine ⟨h1, h2, ?_, h4, ?_, h6⟩
  · intro a ha
    rw [ha] at h3
    simpa [and_assoc] using h3
  · by_cases hd : m.dev = true <;> simp_all

/-- A tile of one row of 32 bytes at a Kennel address. -/
def tileAt (base : Nat) : W128 := BitVec.ofNat 128 (base * 2 ^ 44 + 2 ^ 29 + 31 * 2 ^ 20 + 32 * 2 ^ 10)

/-- `t4` ends at the last byte of the Kennel, `t5` stands at 0; `s1` is the last device address, `s2` the last barrier,
`s3` the last index list, `s4` one beyond the last row pitch. -/
def copies : State :=
  onSeq fun q => { q with
    t := (q.t.set 4 (tileAt 0xFFFE0)).set 5 (tileAt 0),
    s := (((q.s.set 1 0xFFFFFFFFFFFFF).set 2 0xFFFF0).set 3 0xFFFFC).set 4 0xFFFF0 }

theorem witness_RetrieverCommandsIssue_copies : let s := copies
    let q := s.curCore.seq
    (s.curCore.retCount 3 < 24 ∧ s.curCore.tilePending 4 = false ∧
      (q.pendingSK (.s 1) || q.pendingSK (.s 2) || q.pendingSKL (.l 32)) = false) ∧
    CmdCan { newCmd .cpyIn 3 false (q.s[2]) with dst := q.t[4], addr := q.s[1], pitch := 32 }
      { tiles := [q.t[4]], devs := [q.s[1]], shapeOk := cpyPitchOk 32 (Desc.of q.t[4]) } s ∧
    CmdCan { newCmd .cpyOut 0 true (q.s[2]) with src := q.t[4], addr := q.s[1], pitch := 32 }
      { tiles := [q.t[4]], devs := [q.s[1]], shapeOk := cpyPitchOk 0 (Desc.of q.t[4]) } s ∧
    CmdCan { newCmd .cpyKk 1 false (q.s[2]) with dst := q.t[4], src := q.t[5] }
      { tiles := [q.t[4], q.t[5]],
        shapeOk := (Desc.of q.t[4]).rows == (Desc.of q.t[5]).rows && (Desc.of q.t[4]).rbytes == (Desc.of q.t[5]).rbytes &&
          !rangesMeet (Desc.of q.t[4]).rowsList (Desc.of q.t[5]).rowsList } s :=
  ⟨by decide +kernel, cmdCan_of _ _ _ (by decide +kernel), cmdCan_of _ _ _ (by decide +kernel),
    cmdCan_of _ _ _ (by decide +kernel)⟩

theorem witness_RetrieverCommandsIssue_others : let s := copies
    let q := s.curCore.seq
    CmdCan { newCmd .gth 0 false (q.s[2]) with dst := q.t[4], addr := q.s[1], idx := readIndices s.curCore 0xFFFFC 1 }
      { tiles := [q.t[4]], klist := some (q.s[3], 4, 4 * 1), devs := [q.s[1]] } s ∧
    CmdCan { newCmd .pft 0 false (q.s[2]) with addr := q.s[1], count := 2 ^ 24 }
      { tiles := [], devs := [q.s[1]], shapeOk := decide (1 ≤ 2 ^ 24) && decide (2 ^ 24 ≤ 2 ^ 24) } s ∧
    CmdCan { newCmd .pull 0 false (q.s[2]) with dst := q.t[4], src := q.t[4], pitch := 32 }
      { tiles := [q.t[4]], klist := some (q.s[4], 16, 16), shapeOk := true } s ∧
    (let word (b : Nat) : W64 := BitVec.ofNat 64 (ofBytes (s.curCore.kreadBy .seq b 8))
     let r := RemoteRef.of (word 0xFFFF0) (word 0xFFFF8)
     (!r.reserved && (r.pitch == 0 || decide ((Desc.of q.t[4]).rbytes ≤ r.pitch))) = true) ∧
    CmdCan { newCmd .mcast 0 false (q.s[2]) with src := q.t[4], mask := 14 }
      { tiles := [q.t[4]], shapeOk := (15 : W64) &&& ~~~(1 <<< 0 : W64) != 0 && decide ((15 : W64).toNat < 16) } s :=
  ⟨cmdCan_of _ _ _ (by decide +kernel), cmdCan_of _ _ _ (by decide +kernel), cmdCan_of _ _ _ (by decide +kernel),
    by decide +kernel, cmdCan_of _ _ _ (by decide +kernel)⟩

/-! ### Barriers -/

/-- A barrier of one arrival at the last place of the Kennel, one at 0x10000 in device memory; `s1` and `s2` name
them. -/
def bars (b : Bar) : State :=
  let s := (onSeq fun q => { q with s := (q.s.set 1 0xFFFF0).set 2 0 }).kwrite 0 0xFFFF0 b.toBytes
  s.setDev (s.dev.put 256 .bytes 0x10000 b.toBytes)

def bar1 : Bar := ⟨0, 1, 1, 0, false, true⟩

theorem barCan_kennel (b : Bar) (write : Bool) (h : (bars b).curCore.locked false 0xFFFF0 16 write = false) :
    BarCan false 0xFFFF0 write (.kennel 0 0xFFFF0) (bars b) := by
  unfold BarCan
  exact ⟨by decide, fun _ => ⟨by decide, h, rfl⟩, fun h => (by cases h)⟩

theorem barCan_device (b : Bar) (write : Bool) (h : (bars b).curCore.tlbFind (bars b).curCore.ctx 0 .atomic = some ⟨0x10000, 0⟩) :
    BarCan true 0 write (.device ⟨0x10000, 0⟩) (bars b) := by
  unfold BarCan
  exact ⟨by decide, fun h => (by cases h), fun _ => ⟨by decide, ⟨0x10000, 0⟩, ⟨Or.inl rfl, h⟩, rfl⟩⟩

theorem witness_SequencerBarriers :
    BarCan false 0xFFFF0 true (.kennel 0 0xFFFF0) (bars bar1) ∧ BarCan true 0 true (.device ⟨0x10000, 0⟩) (bars bar1) ∧
    (bars bar1).curCore.seq.pendingSK (.s 1) = false ∧ (bars bar1).curCore.destHeld (.s 4) = false ∧
    (bars bar1).barPoisoned (.kennel 0 0xFFFF0) = false ∧ (1 ≤ 1 ∧ 65535 ≤ 65535) ∧
    (-2 ^ 31 : Int) ≤ (litVal 0x80).toInt ∧
    ((bars bar1).bar (.kennel 0 0xFFFF0)).update 1 0 = some ⟨1, 1, 1, 0, false, true⟩ ∧
    ((bars bar1).bar (.kennel 0 0xFFFF0)).update 1 (2 ^ 31 - 1) ≠ none ∧
    ((bars ⟨0, 0, 1, 8, false, true⟩).bar (.kennel 0 0xFFFF0)).update 1 0 = none :=
  ⟨barCan_kennel _ _ (by decide +kernel), barCan_device _ _ (by decide +kernel), by decide +kernel, by decide +kernel,
    by decide +kernel, by decide, by decide, by decide +kernel, by decide +kernel, by decide +kernel⟩

/-- The phase ends; it does not; the byte count at both ends of its range. -/
theorem witness_BarrierObjectRules : (bar1.remaining = 1 ∧ bar1.bytes + 0 = 0) ∧ bar1.update 1 5 = some ⟨0, 0, 1, 5, false, true⟩ ∧
    (let b : Bar := ⟨0xFFFFFFFF, 65535, 65535, -2 ^ 31, true, true⟩
     b.ok = true ∧ b.remaining < 65536 ∧ b.expected < 65536 ∧ -2 ^ 31 ≤ b.bytes ∧ b.bytes < 2 ^ 31) := by decide +kernel

/-- Phase 1 against phase 0, and 2^31 - 1 phases later; phase 0 against itself, and 2^31 phases later. -/
theorem witness_BarrierWaitsAndTests : BarCan false 0xFFFF0 false (.kennel 0 0xFFFF0) (bars bar1) ∧
    (bars bar1).barPoisoned (.kennel 0 0xFFFF0) = false ∧
    (((bars bar1).barSettle 0 .seq (.kennel 0 0xFFFF0)).bar (.kennel 0 0xFFFF0)).ok = true ∧
    phasePassed 1 0 = true ∧ phasePassed 0x7FFFFFFF 0 = true ∧ phasePassed 0 0 = false ∧ phasePassed 0x80000000 0 = false :=
  ⟨barCan_kennel _ _ (by decide +kernel), by decide +kernel, by decide +kernel, by decide, by decide, by decide, by decide⟩

/-! ### Pedigree, launch, decisions, streams, bindings -/

/-- The last record of a context with 8; index 0 and index 8 are operand breaches. -/
theorem witness_PedigreeRequestsIssue : (7 : W64) ≠ 0 ∧ (7 : W64).toNat < (onSeq id).pedlimit 0 ∧
    (onSeq id).pedlimit 0 ≤ (8 : W64).toNat ∧ (7 : W64).toNat ∉ (onSeq id).openCloses 0 ∧ ((onSeq id).openCloses 0).length < 16 ∧
    bankField 0 = true ∧ headerField 0 = true ∧ bankField 0xFFFF = false ∧ headerField 0xFFFF = false ∧
    (Fmt.ofCode (0 : BitVec 4)).isSome = true := by decide +kernel

theorem witness_PedigreeRequestsIssue_ready : Ready2 ⟨.s 1, .l 7, .l 0⟩ (onSeq id) := by
  unfold Ready2
  decide +kernel

/-- A launch record of one iteration at the last place of the Kennel (R185). -/
def launchBytes : List Byte :=
  [0, 0, 0, 1] ++ leBytes 4 0 ++ leBytes 8 0 ++ leBytes 8 0 ++ leBytes 4 1 ++ List.replicate 36 0

def launching (n : Nat) : State :=
  ((on fun k => { k with launchQ := List.replicate n {} }).kwrite 0 0xFFFC0 launchBytes).updSeq 0 fun q =>
    { q with s := q.s.set 1 0xFFFC0 }

theorem kennelCan_of (a : W64) (align n : Nat) (write : Bool) (s : State)
    (h : (decide (a.toNat % align = 0) && decide (a.toNat + n ≤ 0x100000) && !s.curCore.locked false a.toNat n write &&
      (write || !s.curCore.kpoisoned a.toNat n)) = true) : KennelCan a align n write s := by
  unfold KennelCan
  cases write <;> simp_all [and_assoc]

theorem witness_LaunchDecisionStreamBind_launch :
    (KennelCan 0xFFFC0 64 64 false (launching 3) ∧ (launching 3).curCore.launchQ.length < 4 ∧
      launchOk ((launching 3).curCore.kread 0xFFFC0 64) = true) ∧
    ((launching 4).ringUsed 0).1 < ((launching 4).ringUsed 0).2 ∧
    (let s := (launching 4).updCore 0 fun k => { k with task := some { task0 with regs := { lringsize := 0 } } }
     4 ≤ s.curCore.launchQ.length ∧ (s.ringUsed 0).2 ≤ (s.ringUsed 0).1) ∧
    ((launching 4).core 0).launchQ.length = 4 ∧ launchOk (leBytes 64 0) = false ∧
    ((launching 4).core 0).task = some task0 ∧ (launching 4).ctx? ((launching 4).core 0).ctx = some ctx0 :=
  ⟨⟨kennelCan_of _ _ _ _ _ (by decide +kernel), by decide +kernel, by decide +kernel⟩, by decide +kernel, by decide +kernel,
    by decide +kernel, by decide +kernel, by decide +kernel⟩

/-- An update goes to core 0, which runs a task of the context, and not to core 1. -/
theorem witness_LaunchDecisionStreamBind_update : ((onSeq id).core 0).task.isSome = true ∧ ((onSeq id).core 0).ctx = 0 ∧
    ((onSeq id).core 1).task = none ∧ (onSeq id).ctx? 0 = some ctx0 ∧
    (entryOfBytes (leBytes 32 (3 * 2 ^ 62))).ok = false := by decide +kernel

/-- DQPUSH of 255 tags ahead with the last slot free; a stream that ends with the Kennel; BIND and BINDRD of index 255. -/
theorem witness_LaunchDecisionStreamBind_others :
    (KennelCan 0xFFFE8 8 24 false (onSeq id) ∧
      (∀ j < (15 : Fin 16), (Vector.ofFn fun i : Fin 16 => ({ st := if i = 15 then .free else .pending } : DqRec))[j].st ≠ .free) ∧
      (Vector.ofFn fun i : Fin 16 => ({ st := if i = 15 then .free else .pending } : DqRec))[(15 : Fin 16)].st = .free) ∧
    (0xFFFC0 % 32 = 0 ∧ 0xFFFC0 + 32 + 1 * 32 ≤ 0x100000 ∧ 0x20 + 32 + 4096 * 32 ≤ 0x100000 ∧
      (onSeq id).curCore.locked false 0xFFFC0 32 true = false) ∧
    KennelCan 0xFFFE0 8 32 false (onSeq id) ∧ KennelCan 0xFFFE0 8 32 true (onSeq id) ∧
    (entryOfBytes ((onSeq id).curCore.kread 0xFFFE0 32)).ok = true ∧ (255 : W64).toNat ≤ 255 :=
  ⟨⟨kennelCan_of _ _ _ _ _ (by decide +kernel), by decide +kernel, by decide +kernel⟩, by decide +kernel,
    kennelCan_of _ _ _ _ _ (by decide +kernel), kennelCan_of _ _ _ _ _ (by decide +kernel), by decide +kernel, by decide⟩

/-! ### Waits and traps at issue -/

/-- A result is on its way to a constant word; a decision record is pending on a gated core. -/
theorem witness_BoundOpsIssue_waits :
    (let s := on fun k => { k with table := k.table.set 0x40 entry0,
                                   seq := { k.seq with pend := [{ d := .c 5, v := some 0 }] } }
     (∃ r ∈ s.curCore.seq.pend, ∃ n, r.d = SK.c n) ∧ entry0.kind = .routine) ∧
    (let k : Core := { core0 with health := { gated := true }, dq := Vector.replicate 16 { st := .pending, dtag := 3 } }
     k.health.gated = true ∧ (some 32).isSome = true ∧ ∃ n : Fin 16, k.dq[n].st = .pending ∧ k.dq[n].dtag = 3) :=
  ⟨⟨⟨_, List.mem_singleton.mpr rfl, 5, rfl⟩, by decide +kernel⟩, by decide, rfl, 0, by decide +kernel⟩

/-- Each check of R163 broken: a index beyond CPEDLIMIT; a shape; the lists and barriers off their places; device
addresses of 2^52; a locked and a poisoned list. -/
theorem witness_RetrieverCommandsIssue_traps :
    (Desc.of (BitVec.allOnes 128)).ok ((onSeq id).pedlimit (onSeq id).cur) false = false ∧
    (Desc.of (tileAt 0)).ok ((onSeq id).pedlimit (onSeq id).cur) false = true ∧
    (Desc.of (tileAt 0)).space = spaceKennel ∧ cpyPitchOk 1 (Desc.of (tileAt 0)) = false ∧
    (2 : W64).toNat % 4 ≠ 0 ∧ (8 : W64).toNat % 16 ≠ 0 ∧ 0x100000 < (0xFFFFC : W64).toNat + 8 ∧
    0x100000 < (0x100000 : W64).toNat + 16 ∧ 2 ^ 52 ≤ (0x10000000000000 : W64).toNat ∧
    (on fun k => { k with locks := [lockAll] }).curCore.locked false 0xFFFFC 4 false = true ∧
    (onSeq id).curCore.locked false 0xFFFF8 8 false = false ∧ bad.curCore.kpoisoned 0xFFFF8 8 = true := by decide +kernel

/-- A barrier off its place, beyond the Kennel, under a lock, at 2^52, poisoned; a count of 0 and of 65536, a byte count of
2^31. -/
theorem witness_SequencerBarriers_traps : (8 : W64).toNat % 16 ≠ 0 ∧ 0x100000 < (0x100000 : W64).toNat + 16 ∧
    (on fun k => { k with locks := [lockAll] }).curCore.locked false 0xFFFF0 16 true = true ∧
    2 ^ 52 ≤ (0x10000000000000 : W64).toNat ∧
    (let s := (bars bar1).updCore 0 fun k => { k with mem := { k.mem with poison := [0xFFFF0 / 8] } }
     s.barPoisoned (.kennel 0 0xFFFF0) = true ∧ s.curCore.locked false 0xFFFF0 16 false = false) ∧
    ¬ (1 ≤ (0 : W64).toNat) ∧ ¬ ((0x10000 : W64).toNat ≤ 65535) ∧ ¬ ((0x80000000 : W64).toInt < 2 ^ 31) ∧
    Instr.tileBwait ⟨false, false, .s 1, .l 0⟩ ≠ .binit ⟨false, false, .s 1, .l 0, .l 0⟩ := by decide +kernel

/-- The record is being closed; 16 records are; a format code that does not exist. -/
theorem witness_PedigreeRequestsIssue_waits :
    (let s := on fun k => { k with ped := [.close 7] }
     (7 : W64).toNat ∈ s.openCloses 0) ∧
    (let s := on fun k => { k with ped := (List.range 16).map fun i => .reset (i + 8) }
     16 ≤ (s.openCloses 0).length) ∧
    ((10 : W64).extractLsb' 0 4).toNat > 9 ∧ ((9 : W64).extractLsb' 0 4).toNat ≤ 9 := by decide +kernel

end Sys2Proof.Tests
end

