-- ==== Sys2Proof/Tests/Witness3.lean ====
section
/-! SUPPORT. For each statement about lane instructions, threads and operands that meet its hypotheses, clause by
clause. -/

namespace Sys2Proof.Tests

open Sys2Proof Sys2Proof.Machine

set_option Elab.async false

/-! ### Threads that are ready -/

def readyB (i : Instr) (th : Thread) (s : State) : Bool :=
  s.threadOf t00 == some th && (s.core 0).team? th.team == some team0 && (i.use.named.all fun r => decide (r < 64)) &&
    (i.laneHead.all fun h => h.holds th.p) && th.awaits i == [] && !th.readsPoison i.sources

theorem ready_of (i : Instr) (th : Thread) (s : State) (h : readyB i th s = true) : LaneReady i t00 th team0 s := by
  simp only [readyB, Bool.and_eq_true, beq_iff_eq] at h
  obtain ⟨⟨⟨⟨⟨h1, h2⟩, h3⟩, h4⟩, h5⟩, h6⟩ := h
  refine ⟨h1, h2, h3, fun x hx => ?_, h5, fun hc => ?_, by simpa using h6⟩
  · rw [hx] at h4
    simpa using h4
  · exact absurd hc (by decide)

/-- The registers hold their numbers: `v0` to `v15` are FULL. -/
def plain : Thread := thread0 ((List.range 16).map fun n => (n, BitVec.ofNat 32 n))

def readyAll (l : List Instr) : Bool := l.all fun i => readyB i plain (lanes plain)

theorem witness_LaneIntegerAndLogic : readyAll [.iadd ⟨h7, 63, vr 1, .imm 0xFFFF⟩, .isub ⟨h7, 3, vr 1, .reg (vr 2)⟩,
    .imul ⟨h7, 3, vr 1, .imm 0x8000⟩, .imulh ⟨h7, 3, vr 1, .reg (vr 2), true⟩, .imad ⟨h7, 3, vr 1, .imm 1, vr 2⟩,
    .iadd64 ⟨h7, 62, vr 0, .reg (vr 2)⟩, .imin ⟨h7, 3, vr 1, .imm 1⟩, .imax ⟨h7, 3, vr 1, .imm 1⟩,
    .iminu ⟨h7, 3, vr 1, .imm 1⟩, .imaxu ⟨h7, 3, vr 1, .imm 1⟩, .iabs ⟨h7, 3, vr 1⟩, .ineg ⟨h7, 3, vr 1⟩] = true := by
  decide +kernel

theorem witness_LaneIntegerAndLogic_bits : readyAll [.laneAnd ⟨h7, 3, vr 1, .imm 1⟩, .laneOr ⟨h7, 3, vr 1, .imm 1⟩,
    .laneXor ⟨h7, 3, vr 1, .imm 1⟩, .laneAndn ⟨h7, 3, vr 1, .imm 1⟩, .bitfn ⟨h7, 3, vr 1, vr 2, vr 4, 0x96⟩,
    .laneShl ⟨h7, 3, vr 1, .imm 32⟩, .laneShr ⟨h7, 3, vr 1, .imm 31⟩, .laneSar ⟨h7, 3, vr 1, .imm 32⟩,
    .rotr ⟨h7, 3, vr 1, .imm 32⟩, .lanePopc ⟨h7, 3, vr 1⟩, .laneClz ⟨h7, 3, vr 1⟩, .brev ⟨h7, 3, vr 1⟩,
    .bfe ⟨h7, 3, vr 1, .imm 0x8020⟩, .bfi ⟨h7, 3, vr 1, .imm 0x2000, vr 2⟩, .permb ⟨h7, 4, vr 8, vr 2, 2⟩,
    .laneSel ⟨h7, 3, vr 1, .imm 1, 7⟩] = true := by decide +kernel

/-- A divisor of 0 without DZTRAP; with it; one of -1. -/
theorem witness_IntegerDivision : readyAll [.idiv ⟨h7, 3, vr 1, .imm 0⟩, .idivu ⟨h7, 3, vr 1, .imm 0⟩,
      .irem ⟨h7, 3, vr 1, .imm 0xFFFF⟩, .iremu ⟨h7, 3, vr 1, .reg (vr 2)⟩] = true ∧ team0.entry.dztrap = false ∧
    ({ entry0 with w0 := entry0.w0 ||| 0x4000000 } : BindEntry).dztrap = true := by decide +kernel

theorem witness_LanePredicatesAndMoves : readyAll [.icmp ⟨h7, 2, vr 1, .imm 0x800, .lt, 7, false⟩,
    .fcmp ⟨h7, 2, vr 1, vr 2, .nan, true, 7, true⟩, .predfn ⟨h7, 7, 0, 1, 2, 0xFF⟩, .pmovToRegister ⟨h7, 3⟩,
    .pmovToPredicates ⟨h7, vr 1, 0x7F⟩, .laneMov ⟨h7, 3, vr 1⟩, .movi ⟨h7, 3, 0x20000⟩, .movhi ⟨h7, 3, vr 1, 0xFFFF⟩,
    .sread ⟨h7, 3, 0x4F⟩, .rng ⟨h7, 60, vr 0, vr 4⟩, .ctradd ⟨h7, 60, vr 0, .reg (vr 4) true⟩] = true := by
  decide +kernel

theorem witness_LaneFloatingPoint : readyAll [.fadd ⟨h7, 3, vr 1, vr 2, .rd, true⟩, .fsub ⟨h7, 3, vr 1, vr 2, .rn, false⟩,
    .fmul ⟨h7, 3, vr 1, vr 2, .rz, false⟩, .ffma ⟨h7, 3, vr 1, vr 2, vr 4, .ru, false⟩, .fmin ⟨h7, 3, vr 1, vr 2, true⟩,
    .fmax ⟨h7, 3, vr 1, vr 2, false⟩, .fdiv ⟨h7, 3, vr 1, vr 2, .rn, false⟩, .fsqrt ⟨h7, 3, vr 1, .rn, false⟩,
    .frcp ⟨h7, 3, vr 1, .rn, false⟩, .frsq ⟨h7, 3, vr 1, .rn, false⟩, .fexp2 ⟨h7, 3, vr 1, .rn, false⟩,
    .flog2 ⟨h7, 3, vr 1, .rn, false⟩, .ftanh ⟨⟨15, 7, false⟩, 3, vr 1, .rn, false⟩] = true := by decide +kernel

theorem witness_LaneFloatingPoint_packed : readyAll [.pkadd ⟨h7, 3, vr 1, vr 2, .rn, false, true⟩,
    .pkmul ⟨h7, 3, vr 1, vr 2, .rn, true, false⟩, .pkfma ⟨h7, 3, vr 1, vr 2, vr 4, .rn, false, true⟩,
    .pkmin ⟨h7, 3, vr 1, vr 2, false, true⟩, .pkmax ⟨h7, 3, vr 1, vr 2, false, false⟩,
    .idp4 ⟨h7, 3, vr 1, vr 2, vr 4, true, false, true⟩, .fdp2 ⟨h7, 3, vr 1, vr 2, vr 4, .rn, false, true⟩] = true := by
  decide +kernel

theorem witness_LaneConversions : readyAll [.cvt ⟨h7, 3, vr 1, .rn, false, .e4m3, .fp32, true, 0⟩,
    .cvtpk ⟨h7, 3, vr 1, vr 2, some (vr 4), .rz, false, .int8, .bf16, false, true⟩,
    .cvtunpk ⟨h7, 4, vr 1, .rn, false, .fp32, .e5m2, false, true⟩, .pwenc ⟨h7, 3, vr 1, vr 2, vr 4, 3⟩,
    .pwdec ⟨h7, 3, vr 1, vr 2, .rd, true, 3⟩] = true := by decide +kernel

/-! ### Memory -/

/-- `v0` holds the last word of the Kennel, `v1` that of the lane's SRAM and of the constant bank, `v2` and `v3` the
last word below 2^52, `v4` and `v5` the barrier page, `v6` a value. -/
def atEnds : Thread :=
  thread0 [(0, 0xFFFFC), (1, 0x7FC), (2, 0xFFFFFFFC), (3, 0xFFFFF), (4, 0), (5, 0), (6, 7), (7, 0)]

def inOf (i : Instr) (th : Thread) (s : State) : LaneIn × State := laneIn i t00 th team0 s

theorem laneCan_of (sp : LSpace) (i : LaneIn) (addr : W64) (n : Nat) (write : Bool) (s : State)
    (h : (decide (addr.toNat % n = 0) && match sp with
      | .device => decide (addr.toNat < 2 ^ 52) && !(s.core i.t.c).locked true addr.toNat n write
      | .kennel => decide (addr.toNat + n ≤ 0x100000) && !(s.core i.t.c).locked false addr.toNat n write
      | .priv | .const => decide (addr.toNat + n ≤ 0x800)) = true) : LaneCan sp i addr n write s := by
  unfold LaneCan
  cases sp <;> simp_all

def ends : State := lanes atEnds

theorem witness_LaneLoadsAndStores_ready : ([.laneLdk ⟨h7, 9, vr 0, 2, false, 0⟩, .ldp ⟨h7, 9, vr 1, 2, false, 0⟩,
    .ldc ⟨h7, 9, vr 1, 2, false, 0⟩, .ld ⟨h7, 9, vr 2, 2, false, 0⟩, .laneStk ⟨h7, vr 0, vr 6, 2, 0⟩,
    .stp ⟨h7, vr 1, vr 6, 2, 0⟩, .st ⟨h7, vr 2, vr 6, 2, 0⟩] : List Instr).all (fun i => readyB i atEnds ends) = true := by
  decide +kernel

theorem witness_LaneLoadsAndStores :
    (let x := inOf (.laneLdk ⟨h7, 9, vr 0, 2, false, 0⟩) atEnds ends
     LaneCan .kennel x.1 (laneAddr false x.1.a 0) 4 false x.2 ∧ LaneCan .kennel x.1 (laneAddr false x.1.a 0) 4 true x.2 ∧
       (x.2.core 0).kpoisoned (laneAddr false x.1.a 0).toNat 4 = false) ∧
    (let x := inOf (.ldp ⟨h7, 9, vr 1, 2, false, 0⟩) atEnds ends
     LaneCan .priv x.1 (laneAddr false x.1.a 0) 4 false x.2 ∧ LaneCan .const x.1 (laneAddr false x.1.a 0) 4 false x.2) ∧
    (let x := inOf (.ld ⟨h7, 9, vr 2, 2, false, 0⟩) atEnds ends
     LaneCan .device x.1 (laneAddr true x.1.a 0) 4 false x.2 ∧ LaneCan .device x.1 (laneAddr true x.1.a 0) 4 true x.2 ∧
       LaneAt x.1 (laneAddr true x.1.a 0) .read ⟨0x2FFFC, 0⟩ x.2 ∧ LaneAt x.1 (laneAddr true x.1.a 0) .write ⟨0x2FFFC, 0⟩ x.2 ∧
       poisonHit 32 x.2.dev.poison 0x2FFFC 4 = false) :=
  ⟨⟨laneCan_of _ _ _ _ _ _ (by decide +kernel), laneCan_of _ _ _ _ _ _ (by decide +kernel), by decide +kernel⟩,
    ⟨laneCan_of _ _ _ _ _ _ (by decide +kernel), laneCan_of _ _ _ _ _ _ (by decide +kernel)⟩,
    laneCan_of _ _ _ _ _ _ (by decide +kernel), laneCan_of _ _ _ _ _ _ (by decide +kernel),
    by unfold LaneAt; decide +kernel, by unfold LaneAt; decide +kernel, by decide +kernel⟩

/-- Misaligned by one; the first aligned address that ends too far; targets that are no multiple of 8 and 2^52. -/
theorem witness_LaneAccessFaults :
    (laneAddr false [0xFFFFC] 1).toNat % 4 ≠ 0 ∧
    ((laneAddr false [0xFFFFC] 4).toNat % 4 = 0 ∧ 0x100000 + 1 - 4 ≤ (laneAddr false [0xFFFFC] 4).toNat) ∧
    ((laneAddr false [0x7FC] 4).toNat % 4 = 0 ∧ 0x800 + 1 - 4 ≤ (laneAddr false [0x7FC] 4).toNat) ∧
    ((laneAddr true [0xFFFFFFFC, 0xFFFFF] 4).toNat % 4 = 0 ∧ 2 ^ 52 ≤ (laneAddr true [0xFFFFFFFC, 0xFFFFF] 4).toNat) ∧
    ((0 : W32) ++ (4 : W32) : W64).toNat % 8 ≠ 0 ∧ 2 ^ 52 ≤ ((0x100000 : W32) ++ (0 : W32) : W64).toNat := by decide +kernel

theorem witness_LaneAccessFaults_ready : ([.laneLdk ⟨h7, 9, vr 0, 2, false, 4⟩, .ldp ⟨h7, 9, vr 1, 2, false, 4⟩,
    .ld ⟨h7, 9, vr 2, 2, false, 4⟩, .bra ⟨h7, 0x20000⟩, .brx ⟨h7, vr 2⟩, .laneCall ⟨h7, 8, 0x20000⟩, .laneRet ⟨h7, vr 2⟩] :
    List Instr).all (fun i => readyB i atEnds ends) = true := by decide +kernel

theorem witness_LaneAtomicsFenceStep_ready : ([.atom ⟨h7, 9, vr 0, vr 6, .add, .core, false, true, true⟩,
    .atomcas ⟨h7, 10, vr 4, vr 6, vr 6, .system, true, true, true⟩, .laneFence ⟨h7, .acqrel, .system⟩] : List Instr).all
    (fun i => readyB i atEnds ends) = true := by decide +kernel

theorem witness_LaneAtomicsFenceStep :
    (let x := inOf (.atom ⟨h7, 9, vr 0, vr 6, .add, .core, false, true, true⟩) atEnds ends
     LaneCan .kennel x.1 (x.1.a0.zeroExtend 64) 4 true x.2 ∧
       (x.2.core 0).kpoisoned (x.1.a0.zeroExtend 64 : W64).toNat 4 = false ∧ x.1.th.loading = false) ∧
    (let x := inOf (.atomcas ⟨h7, 10, vr 4, vr 6, vr 6, .device, true, true, true⟩) atEnds ends
     let addr : W64 := x.1.a.getD 1 0 ++ x.1.a.getD 0 0
     LaneCan .device x.1 addr 8 true x.2 ∧ LaneAt x.1 addr .atomic ⟨0x10000, 0⟩ x.2 ∧ addr.getLsbD 51 = false ∧
       poisonHit 32 x.2.dev.poison 0x10000 8 = false) :=
  ⟨⟨laneCan_of _ _ _ _ _ _ (by decide +kernel), by decide +kernel, by decide +kernel⟩,
    laneCan_of _ _ _ _ _ _ (by decide +kernel), by unfold LaneAt; decide +kernel, by decide +kernel, by decide +kernel⟩

/-- A remote address with an open window. -/
def remoteThread : Thread := thread0 [(0, 0), (1, 0x80000), (2, 5)]

def remoteLanes : State :=
  (lanes remoteThread).updPart 0 fun p => { p with rwin := Vector.replicate 16 (BitVec.allOnes 128) }

theorem witness_LaneAtomicsFenceStep_remote :
    let x := inOf (.atom ⟨h7, 9, vr 0, vr 2, .add, .system, false, true, true⟩) remoteThread remoteLanes
    let addr : W64 := x.1.a.getD 1 0 ++ x.1.a.getD 0 0
    LaneCan .device x.1 addr 4 true x.2 ∧ addr.getLsbD 51 = true ∧
      ((x.2.part (ctxPart (x.2.core 0).ctx)).window addr).v = true :=
  ⟨laneCan_of _ _ _ _ _ _ (by decide +kernel), by decide +kernel, by decide +kernel⟩

/-- `MSTEP` on four words at the end of the Kennel, with a gradient of 1 and one of +∞. -/
def stepThread : Thread := thread0 [(0, 0xFFFF0), (1, 0xFFFF4), (2, 0xFFFF8), (3, 0xFFFFC)]

def stepState (g : Nat) : State := (lanes stepThread).kwrite 0 0xFFFF4 (leBytes 4 g)

theorem witness_LaneAtomicsFenceStep_mstep :
    (∀ j < 4, let x := inOf (.mstep ⟨h7, 1, vr 0, 248, 0⟩) stepThread (stepState 0x3F800000)
      LaneCan .kennel x.1 ((x.1.a.getD j 0).zeroExtend 64) 4 (j != 1) x.2 ∧ (x.2.core 0).kpoisoned (x.1.a.getD j 0).toNat 4 = false) ∧
    ((gradFmt 0).decode (((stepState 0x3F800000).core 0).kword 0xFFFF4 4)).isNan = false ∧
    ((gradFmt 0).decode (((stepState 0x3F800000).core 0).kword 0xFFFF4 4)).isInf = false ∧
    ((gradFmt 0).decode (((stepState 0x7F800000).core 0).kword 0xFFFF4 4)).isInf = true := by
  refine ⟨fun j hj => ?_, by decide +kernel, by decide +kernel, by decide +kernel⟩
  have : j = 0 ∨ j = 1 ∨ j = 2 ∨ j = 3 := by omega
  rcases this with rfl | rfl | rfl | rfl <;>
    exact ⟨laneCan_of _ _ _ _ _ _ (by decide +kernel), by decide +kernel⟩

/-- Numbers of 32 and 64 bits at the end of their range. -/
theorem witness_BitAndAtomicFunctions : (2 ^ 32 - 1 < 2 ^ (8 * 4)) ∧ (2 ^ 64 - 1 < 2 ^ (8 * 8)) ∧ 31 < 32 ∧ 3 < 4 := by decide

/-- An exponent equal to that of the grid and one below; the least and the largest finite FP32. -/
theorem witness_RoundingRules : ((0 : Int) ≤ 0) ∧ ((-1 : Int) ≤ 0) ∧ fp32F.decode 1 = .fin false 1 (-149) ∧
    fp32F.decode 0x7F7FFFFF = .fin false 0xFFFFFF 104 ∧ (0x7F7FFFFF : Nat) < 2 ^ fp32F.width := by decide +kernel

/-! ### Control, streams, nested ops -/

theorem witness_LaneControlStreamsNested_ready : readyAll [.bra ⟨h7, 0x3FFFF⟩, .laneCall ⟨h7, 4, 1⟩, .brx ⟨h7, vr 0⟩,
    .laneRet ⟨h7, vr 0⟩, .retTr ⟨h7⟩, .exit ⟨h7⟩, .yield ⟨h7⟩, .laneNop ⟨h7⟩, .laneBarv ⟨h7, false, 4, vr 0⟩,
    .qcnt ⟨h7, 4, vr 0⟩, .qend ⟨h7, vr 0⟩, .dqpop ⟨h7, 58, 1⟩, .ltop ⟨h7, 4, vr 0⟩, .laneBwait ⟨h7, false, vr 0, vr 1⟩,
    .laneBtry ⟨h7, false, 1, vr 0, vr 1⟩, .laneTrap ⟨h7, 0xFFFF⟩, .brk ⟨h7⟩] = true := by decide +kernel

/-- Targets: the words at 0 and below 2^52; a frame of zeros returns to 0. -/
theorem witness_LaneControlStreamsNested_targets : ((0x1000 : W64) + 8 * (0x3FFFF : BitVec 18).signExtend 64).toNat % 8 = 0 ∧
    (0xFFFFFFFFFFFF8 : W64).toNat < 2 ^ 52 ∧ ofBytes (((lanes plain).core 0).mem.pread 0x700 8) = 0 ∧
    ((lanes plain).core 0).framePoisoned 0 0 = false ∧
    (((lanes plain).updCore 0 fun k => k.pwrite 0 0x700 [1]).core 0).framePoisoned 0 0 = false ∧
    ofBytes ((((lanes plain).updCore 0 fun k => k.pwrite 0 0x700 [1]).core 0).mem.pread 0x700 8) = 1 ∧
    (((lanes plain).poison (.priv 0 0 0x730)).core 0).framePoisoned 0 0 = true := by decide +kernel

/-- A stream of one record at the last place, as QSINIT leaves it, and one more record beyond DONE; a barrier. -/
def streamBytes (cap done : Nat) : List Byte :=
  leBytes 8 0 ++ leBytes 2 cap ++ leBytes 2 4 ++ [BitVec.ofNat 8 done, 0, 0, 0x5C] ++ List.replicate 16 0

def streams (done : Nat) : State := (lanes plain).kwrite 0 0x20 (streamBytes 1 done)

theorem witness_LaneControlStreamsNested_stream :
    (match ((streams 0).core 0).streamCheck 0x20 none with
      | .ok x => x.cap == 1 && !x.done
      | .fault _ | .wait => false) = true ∧
    (match ((streams 1).core 0).streamCheck 0x20 none with
      | .ok x => x.done
      | .fault _ | .wait => false) = true := by decide +kernel

/-- The barrier at `v0` awaits one arrival. -/
def laneBars : State := (lanes plain).kwrite 0 0 (Bar.toBytes bar1)

theorem witness_LaneControlStreamsNested_barrier :
    (match laneBarrier false (inOf (.laneBarv ⟨h7, false, 4, vr 0⟩) plain laneBars).1 true laneBars with
      | .ok (a, pl) => a == 0 && ((laneBars.bar pl).update 1 0).isSome
      | .error _ => false) = true := by decide +kernel

/-- A record attached to the team's dispatch, and none. -/
theorem witness_LaneControlStreamsNested_decision :
    nextDq (Vector.ofFn fun i : Fin 16 => ({ st := if i = 15 then .attached else .free, order := 1 } : DqRec)) 0 0 = some 15 ∧
    nextDq (Vector.replicate 16 {}) 0 0 = none := by decide +kernel

/-- The team's D is an accumulator tile, and the block asks for `ACCZ` of it. -/
def accTile : W128 := BitVec.ofNat 128 (8 * 2 ^ 68 + 2 ^ 64 + 2 ^ 29 + 31 * 2 ^ 20 + 32 * 2 ^ 10)

def nesting : State :=
  (onLane (fun k => { k with table := defaultTable, teams := [{ team0 with rcd := { rcd0 with d := .tile accTile } }] }) plain).kwrite
    0 0xFFFB0 ([3, 0, 0, 0, 1] ++ List.replicate 11 0 ++ leBytes 16 accTile.toNat ++ List.replicate 48 0)

theorem witness_LaneControlStreamsNested_ltop :
    (match nestedCheck nesting t00 { team0 with rcd := { rcd0 with d := .tile accTile } } 0xFFFB0 none with
      | .ok e _ => (nesting.core 0).queued (queueOf e) < 8
      | .fault _ _ | .lock _ => false) = true := by decide +kernel

/-- `REP.DA #4, #2` before `LANE_MOV v4, v5`; a count of 0; before a branch; the third iteration. -/
def repX (n : Byte) : LRep := ⟨h7, .imm n, 3, 2⟩

def repMid : Thread := { plain with rep := some { n := 4, j := 2, stride := 2, fields := 3 } }

def repState (th : Thread) (w : W64) : State :=
  onLane (fun k => { k with mem := { k.mem with icache := [(0x1008, w)] } }) th

theorem witness_RepeatPrefix : readyB (.rep (repX 4)) plain (repState plain 0x2001C20A00000000) = true ∧ plain.rep = none ∧
    (repState plain 0x2001C20A00000000).laneWord 0 (0x1000 + 8) = some 0x2001C20A00000000 ∧
    repOk 0x2001C20A00000000 (repX 4) = true ∧ repOk 0x2C01C00000000000 (repX 4) = false := by decide +kernel

theorem witness_RepeatPrefix_iteration : (repState repMid 0x2001C20A00000000).threadOf t00 = some repMid ∧
    decodeLane 0x2001C20A00000000 = .ok (.laneMov ⟨h7, 4, vr 5⟩) ∧
    repWord 0x2001C20A00000000 (Instr.laneMov ⟨h7, 4, vr 5⟩).use { n := 4, j := 2, stride := 2, fields := 3 } =
      some 0x2001C41200000000 ∧
    decodeLane 0x2001C41200000000 = .ok (.laneMov ⟨h7, 8, vr 9⟩) ∧ (laneFnOf (.laneMov ⟨h7, 8, vr 9⟩)).isSome = true := by
  decide +kernel

/-- A context with a handler and one without; one under debug; the last lane and slot. -/
def handled : State := (lanes plain).updCtx 0 fun x => { x with lanehnd := 0x2000 }

theorem witness_LaneTrapsAndHandler : (lanes plain).laneHandler 0 = 0 ∧ handled.laneHandler 0 ≠ 0 ∧
    handled.threadOf t00 = some plain ∧ plain.settled = true ∧ memoriesWf handled = true ∧
    ((lanes plain).updCtx 0 fun x => { x with debug := true }).debugged 0 = true ∧ (lanes plain).debugged 0 = false ∧
    127 < 128 ∧ 3 < 4 := by decide +kernel

/-! ### Collectives -/

theorem witness_CollectivesArrive : ([.xpair ⟨h7, 9, vr 1, some (vr 2), true, false, 31⟩, .xpick ⟨h7, 9, vr 1, vr 2, none, false⟩,
    .poll ⟨h7, 1, 7, 1, none⟩, .red ⟨h7, 9, vr 1, .fmax, none⟩, .qpush ⟨h7, 3, vr 0, vr 8, none⟩,
    .qpop ⟨h7, 3, 8, vr 0, 1, none⟩, .lmma ⟨h7, 9, vr 0, vr 1, none⟩, .xpair ⟨⟨0, 0, false⟩, 9, vr 1, none, true, false, 1⟩] :
    List Instr).all (fun i => (lanes plain).threadOf t00 == some plain && ((lanes plain).core 0).team? plain.team == some team0 &&
      (i.use.named.all fun r => decide (r < team0.entry.budget)) && plain.awaits i == []) = true ∧
    team0.entry.check = false ∧ plain.isFull 2 = true ∧ (plain.reg 1).getLsbD 0 = true ∧ (plain.reg 2).getLsbD 0 = false := by
  decide +kernel

/-- A thread that stands at a reduction over the lanes of a mask. -/
def arrival (i : CollIns) (mask : W32) : Arrival :=
  { op := i, mask := mask, contrib := true, a := 5, b := 0, vals := [5], pc := 0x1000 }

def redIns : CollIns := .red ⟨h7, 9, vr 1, .add, some (vr 2)⟩
def minIns : CollIns := .red ⟨h7, 9, vr 1, .min, some (vr 2)⟩

def stands (i : CollIns) (mask : W32) : Thread := { plain with wait := .coll (arrival i mask) }

/-- Lanes 0 and 1 with the given threads. -/
def pair (a b : Option Thread) : State :=
  on fun k => (({ k with ops := [op0], teams := [team0], nextId := 1 } : Core).setThread 0 0 a).setThread 1 0 b

/-- All members have arrived. -/
theorem witness_CollectivesComplete : let s := pair (some (stands redIns 3)) (some (stands redIns 3))
    s.thread 0 0 0 = some (stands redIns 3) ∧ (s.core 0).team? 0 = some team0 ∧
    (s.arrived 0 0 0).filter (fun m => !m.arr.matches (arrival redIns 3) && (m.arr.mask.getLsbD m.lane)) = [] ∧
    (s.arrived 0 0 0).map Member.lane = [0, 1] ∧
    ((s.core 0).teamThreads 0).map Prod.fst = [0, 1] := by decide +kernel

/-- Another collective; a member whose own mask leaves out one that waits for it; a member that has exited; one that has
not arrived. -/
theorem witness_CollectivesComplete_faults :
    (let s := pair (some (stands redIns 3)) (some (stands minIns 3))
     ((s.arrived 0 0 0).any fun m => !m.arr.matches (arrival redIns 3) && (arrival redIns 3).mask.getLsbD m.lane) = true) ∧
    (let s := pair (some (stands redIns 3)) (some (stands redIns 2))
     ((s.arrived 0 0 0).any fun m => !m.arr.matches (arrival redIns 3) && (arrival redIns 3).mask.getLsbD m.lane) = true) ∧
    (let s := pair (some (stands redIns 3)) none
     ((s.core 0).teamThreads 0).all (fun x => x.1 != 1) = true) ∧
    (let s := pair (some (stands redIns 3)) (some plain)
     ((s.core 0).teamThreads 0).any (fun x => x.1 == 1) = true ∧ (s.arrived 0 0 0).all (fun m => m.lane != 1) = true) := by
  decide +kernel

def member (l : Nat) (a : W32) : Member := ⟨⟨0, l, 0⟩, plain, { arrival redIns 3 with a := a }⟩

theorem witness_CollectivesComplete_values :
    ∀ m ∈ [member 0 1, member 31 2], m.arr.ins.collShape = (arrival redIns 3).ins.collShape := by decide +kernel

/-- Source lanes at both ends, within and outside; lane numbers that differ; a stream with room, full and done. -/
theorem witness_CollectiveValues : (member 31 2).lane < 32 ∧ ([member 0 1, member 31 2].find? fun x => x.lane == 31).isSome = true ∧
    (∀ n ∈ [member 0 1, member 31 2], n.lane ≠ 30) ∧ ([member 0 1, member 31 2].map Member.lane).Nodup ∧
    (let x : Stream := ⟨1, 0, 3, 4, false, true⟩
     (x.tail + 2 ^ 32 - x.head) % 2 ^ 32 + [member 0 1, member 31 2].length ≤ x.cap) ∧
    (let x : Stream := ⟨1, 0, 2, 4, false, true⟩
     x.cap < (x.tail + 2 ^ 32 - x.head) % 2 ^ 32 + [member 0 1, member 31 2].length) ∧ memoriesWf (streams 0) = true := by decide +kernel

/-! ### Threads -/

theorem witness_FalseGuardHasNoEffect : let i : Instr := .laneMov ⟨⟨0, 0, false⟩, 63, vr 1⟩
    (lanes plain).threadOf t00 = some plain ∧ ((lanes plain).core 0).team? plain.team = some team0 ∧
    (∀ r ∈ i.use.named, r < team0.entry.budget) ∧ LHead.holds ⟨0, 0, false⟩ plain.p = false ∧ plain.settled = true ∧
    plain.rep = none := by decide +kernel

theorem witness_LaneResultsAreWritten : plain.rep = none ∧ (6 : PredNo) ≠ 7 := by decide +kernel

theorem witness_PredicateSevenIsTrue : (onSeq id).curCore.seq.pendingSKL (.s 0) = false ∧ (0 : PredNo) ≠ 7 ∧
    ∀ x ∈ ([(7, false)] : List (PredNo × Bool)), x.1 = 7 := by decide +kernel

/-- A register FULL, one EMPTY, one in the window of a load. -/
theorem witness_OperandReads : plain.owed 1 = none ∧ plain.isFull 1 = true ∧ plain.isFull 63 = false ∧
    (let p : LPend := { dst := 1, n := 1, res := .vals [7], fl := 0, win := 3, arrived := false, release := [] }
     let th : Thread := { plain with pend := [p] }
     th.owed 1 = some p ∧ p.future 1 = some 7 ∧ th.isFull 1 = true) := by decide +kernel

theorem witness_LaneArithmeticFrame : Instr.registerOnly (.iadd ⟨h7, 3, vr 1, .imm 1⟩) = true ∧
    (∃ t, exec (.iadd ⟨h7, 3, vr 1, .imm 1⟩) (lanes plain) = .next t) ∧ (lanes plain).thread 0 0 0 = some plain :=
  ⟨rfl, ⟨_, rfl⟩, by decide +kernel⟩

/-! ### Faults, locks and waits of lanes -/

/-- The ends of `atEnds` with every place poisoned, and under locks of both spaces. -/
def poisonedEnds : State :=
  let s := onLane (fun k => { k with mem := { k.mem with poison := [0xFFFFC / 8], privPoison := [0x7FC / 8] } }) atEnds
  s.setDev { s.dev with poison := [0x2FFFC / 32, 0x10000 / 32] }

def lockedEnds : State := onLane (fun k => { k with locks := [lockAll, lockDev] }) atEnds

theorem witness_LaneLoadsAndStores_poison :
    ((inOf (.laneLdk ⟨h7, 9, vr 0, 2, false, 0⟩) atEnds poisonedEnds).2.core 0).kpoisoned 0xFFFFC 4 = true ∧
    ((inOf (.ldp ⟨h7, 9, vr 1, 2, false, 0⟩) atEnds poisonedEnds).2.core 0).ppoisoned 0 0x7FC 4 = true ∧
    (inOf (.ld ⟨h7, 9, vr 2, 2, false, 0⟩) atEnds poisonedEnds).2.dev.poisoned 0x2FFFC 4 = true ∧
    (inOf (.atom ⟨h7, 9, vr 0, vr 6, .add, .core, false, true, true⟩) atEnds poisonedEnds).2.dev.poisoned 0x10000 8 = true ∧
    ([.laneLdk ⟨h7, 9, vr 0, 2, false, 0⟩, .ldp ⟨h7, 9, vr 1, 2, false, 0⟩, .ld ⟨h7, 9, vr 2, 2, false, 0⟩,
      .atom ⟨h7, 9, vr 0, vr 6, .add, .core, false, true, true⟩,
      .atomcas ⟨h7, 10, vr 4, vr 6, vr 6, .device, true, true, true⟩] : List Instr).all
      (fun i => readyB i atEnds poisonedEnds) = true := by decide +kernel

theorem witness_LaneLoadsAndStores_late : let l : LateLoad := { dev := false, pa := 8, va := 8, n := 8, sx := false }
    l.dev = false ∧ (∀ p ∈ (ends.core 0).kstores, p.agent = .seq → p.overlaps l.pa l.n = false) ∧ l.n = 8 ∧
    (255 : Nat) < 2 ^ (8 * 1) ∧ 7 + 1 ≤ 8 := by decide +kernel

theorem witness_LaneAccessFaults_locks : (lockedEnds.core 0).locked true 0xFFFFFFFFFFFFC 4 false = true ∧
    (lockedEnds.core 0).locked false 0xFFFFC 4 true = true ∧ (lockedEnds.core 0).locked true 0x10000 8 true = true ∧
    (lockedEnds.core 0).locked false 0xFFFB0 80 false = true ∧ (lockedEnds.core 0).locked false 0xFFFE0 32 true = true ∧
    ([.laneLdk ⟨h7, 9, vr 0, 2, false, 0⟩, .ld ⟨h7, 9, vr 2, 2, false, 0⟩, .laneStk ⟨h7, vr 0, vr 6, 2, 0⟩,
      .st ⟨h7, vr 2, vr 6, 2, 0⟩, .atom ⟨h7, 9, vr 0, vr 6, .add, .core, false, true, true⟩,
      .atomcas ⟨h7, 10, vr 4, vr 6, vr 6, .system, true, true, true⟩, .ltop ⟨h7, 9, vr 0⟩, .qcnt ⟨h7, 9, vr 0⟩,
      .qend ⟨h7, vr 0⟩] : List Instr).all (fun i => readyB i atEnds lockedEnds) = true := by decide +kernel

/-- Blocks and headers off their places, past the end and malformed; a remote address without a window; the third and the
second address of `MSTEP` misaligned and too far. -/
theorem witness_LaneAccessFaults_others : 0xFFFFC % 16 ≠ 0 ∧ 0x100000 < 0xFFFC0 + 80 ∧ 0xFFFC0 % 16 = 0 ∧
    0xFFFFC % 32 ≠ 0 ∧ (0x100000 % 32 = 0 ∧ 0x100000 < 0x100000 + 32) ∧
    (let k := ((lanes plain).atBank 0 (.thread 0 0) 0 32).core 0
     k.locked false 0 32 true = false ∧ k.kpoisoned 0 32 = false ∧ (k.streamAt 0).ok = false) ∧
    ((((lanes remoteThread).part (ctxPart ((lanes remoteThread).core 0).ctx)).window 0x8000000000000).v = false ∧
      (0x8000000000000 : W64).getLsbD 51 = true) ∧
    (0xFFFFE : Nat) % 4 ≠ 0 ∧ (0xFFFFF : Nat) % 2 ≠ 0 ∧ 0x100000 < 0x100000 + 2 := by decide +kernel

theorem witness_LaneAccessFaults_remote :
    let x := inOf (.atom ⟨h7, 9, vr 0, vr 2, .add, .system, false, true, true⟩) remoteThread (lanes remoteThread)
    LaneCan .device x.1 (x.1.a.getD 1 0 ++ x.1.a.getD 0 0) 4 true x.2 :=
  laneCan_of _ _ _ _ _ _ (by decide +kernel)

/-- A full queue holds LTOP back; an outstanding load holds a fence. -/
theorem witness_LaneHolds :
    (let s := nesting.updCore 0 fun k => { k with ops := List.replicate 8 { op0 with st := .queued, q := .matrix } }
     match nestedCheck s t00 { team0 with rcd := { rcd0 with d := .tile accTile } } 0xFFFB0 none with
      | .ok e _ => decide (8 ≤ (s.core 0).queued (queueOf e))
      | .fault _ _ | .lock _ => false) = true ∧
    (let p : LPend := { dst := 1, n := 1, res := .vals [7], fl := 0, win := 0, arrived := false, release := [] }
     ({ plain with pend := [p] } : Thread).loading = true) := by decide +kernel

/-- The numbers of the optimizer step: exponents that meet, a sum of zero, a root with a rest. -/
theorem witness_LaneAtomicsFenceStep_numbers : ((-3 : Int) ≤ 0 ∧ (-3 : Int) ≤ -3) ∧ ((1 : Nat) ≠ 0 ∧ (-400 : Int) ≤ -400) ∧
    (-200 : Int) ≤ -200 ∧ (1 : Nat) * 1 ≤ 1 * 2 ^ (400 + (-400 : Int)).toNat ∧ (0 : Nat) < 1 + 0 ∧
    (FVal.fin false 1 0).plus ((FVal.fin false 0 0).times (.fin false 1 0)) = .fin false 1 0 := by decide +kernel

/-- Conversions: equal formats and not; each kind of destination; both ends of the clamps. -/
theorem witness_LaneConversions_values : (Fmt.bf16 = Fmt.bf16 ∧ Fmt.bf16 ≠ .pw8) ∧ (Fmt.fp16 ≠ Fmt.bf16) ∧
    Fmt.ffmt .e4m3 = some e4m3F ∧ Fmt.ffmt .fp32 = some fp32F ∧ ((-128 : Int) ≤ 127) ∧
    (roundAt .rn true 129 0 false 0).1 = 129 ∧ (roundAt .rn false 128 0 false 0).1 = 128 ∧ (129 : Nat) ≠ 0 ∧
    128 * 2 ^ 0 < 129 * 2 ^ 0 ∧ 128 * 2 ^ 0 ≤ 128 * 2 ^ 0 := by decide +kernel

/-- Numbers for the floating-point rows: exponents that meet, zero and nonzero magnitudes, 255 as a power of 2, 2^3. -/
theorem witness_LaneFloatingPoint_numbers : ((-2 : Int) ≤ -1 ∧ (-2 : Int) ≤ -2) ∧ (3 : Nat) ≠ 0 ∧ (0 : Nat) * 3 = 0 ∧
    (255 : Nat) < 256 ∧ (255 : Nat) * 2 ^ (0 : Int).toNat = 255 * 2 ^ (-(0 : Int)).toNat ∧ (8 : Nat) = 2 ^ 3 ∧
    (FVal.nan true).isNan = true ∧ (FVal.inf false).mul (.fin false 0 0) = none ∧
    (FVal.inf false).mul (.fin false 1 0) = some (.inf false) ∧ fp32F ∈ [fp32F, bf16F, fp16F] ∧
    (0x7FFFFFFF : Nat) < 2 ^ fp32F.width ∧ (fp32F.decode 0x7F800001).isSig = true ∧
    (fp32F.decode 0x7FC00000).isNan = true ∧ (fp32F.decode 0x3F800000).isNan = false := by decide +kernel

/-- Sums: a NaN, infinities of both signs and of one, finite terms of sum 0 and not; the accumulators, the widened
formats, the factors. -/
theorem witness_RoundingRules_engines : (∃ v ∈ [FVal.nan false], v.isNan = true) ∧
    ((∀ v ∈ [FVal.inf false, .inf true], v.isNan = false) ∧ FVal.inf true ∈ [FVal.inf false, .inf true]) ∧
    ((∀ v ∈ [FVal.inf false], v.isNan = false) ∧ FVal.inf true ∉ [FVal.inf false]) ∧
    (∀ v ∈ [FVal.fin false 1 0, .fin true 1 0], v.isNan = false) ∧
    ([FVal.fin false 1 0, .fin true 1 0].map fun v => v.sm * 2 ^ (v.ex - 0).toNat).sum = 0 ∧
    ([FVal.fin false 1 0].map fun v => v.sm * 2 ^ (v.ex - 0).toNat).sum ≠ 0 ∧
    (2 ^ 31 - 1 : Int) < 2 ^ 31 ∧ (bf16F.decode 0x3F80).isNan = false ∧ fp16F.decode 0x3C00 = .fin false 1024 (-10) ∧
    fp16F.decode 0x7C00 = .inf false ∧ bf16F.decode 0x7FC0 = .nan false ∧ (FVal.inf true).isInf = true ∧
    (FVal.fin false 0 0).isZero = true ∧ Fmt.ffmt .bf16 = some bf16F ∧ (1 : Nat) * 1 ≠ 0 ∧ (31 : Nat) < 32 ∧
    (1 : Nat) * 4 + 4 ≤ ([FVal.fin false 1 0, .fin false 1 0, .fin false 1 0, .fin false 1 0, .fin false 1 0, .fin false 1 0,
      .fin false 1 0, .fin false 1 0] : List FVal).length ∧
    fp32F.decode 0x40400000 = .fin false 0xC00000 (-22) ∧ fp32F.decode 0 = .fin false 0 (-149) := by decide +kernel

theorem witness_RoundingRules_formats : (fp32F, (2 ^ 24 - 1) * 2 ^ 253) ∈ [(fp32F, (2 ^ 24 - 1) * 2 ^ 253)] ∧ (1 : Nat) ≠ 0 ∧
    (0 : Nat) ≤ (2 ^ 24 - 1) * 2 ^ 253 ∧ (7 * 2 ^ 29 : Nat) < 2 ^ 40 ∧ 2 ^ (23 + 1) ≤ 0xFFFFFF + 1 := by decide

/-- Without the word after REP in the cache the thread waits for it, and one whose fetch has failed faults. -/
theorem witness_RepeatPrefix_fetch :
    (match laneFetch t00 (0x1000 + 8) (repState plain 0x2001C20A00000000) with
      | .word w _ => w == 0x2001C20A00000000
      | .wait _ | .fail _ => false) = true ∧
    (match laneFetch t00 (0x1000 + 8) ((lanes plain).setDev {}) with
      | .word _ _ => true
      | .wait _ | .fail _ => false) = true ∧
    (let th : Thread := { plain with park := .walking }
     match laneFetch t00 0x900000 (lanes th) with
      | .wait _ => true
      | .word _ _ | .fail _ => false) = true ∧
    (let th : Thread := { plain with park := .failed .translation }
     match laneFetch t00 0x900000 (lanes th) with
      | .fail cause => cause == .translation
      | .word _ _ | .wait _ => false) = true := by decide +kernel

/-- A repeated index past 63 and one within; the last iteration and one before it; a false guard on REP. -/
theorem witness_RepeatPrefix_formed :
    repWord 0x2001C20A00000000 (Instr.laneMov ⟨h7, 4, vr 5⟩).use { n := 40, j := 30, stride := 2, fields := 3 } = none ∧
    (∀ k : Fin 4, (3 : BitVec 4).getLsbD k.val = true → ([(Instr.laneMov ⟨h7, 4, vr 5⟩).use.d,
      (Instr.laneMov ⟨h7, 4, vr 5⟩).use.a, (Instr.laneMov ⟨h7, 4, vr 5⟩).use.b,
      (Instr.laneMov ⟨h7, 4, vr 5⟩).use.c][k.val]).isSome = true) ∧
    repMid.rep = some { n := 4, j := 2, stride := 2, fields := 3 } ∧ LHead.holds ⟨0, 0, false⟩ plain.p = false ∧
    plain.settled = true ∧ plain.rep = none := by decide +kernel

/-- A thread with results outstanding, whose nested op is gone and is not. -/
theorem witness_LaneTrapsAndHandler_waits :
    let p : LPend := { dst := 1, n := 1, res := .nested 7, fl := 0, win := 0, arrived := false, release := [] }
    let th : Thread := { plain with pend := [p] }
    let s := (lanes th).updCtx 0 fun x => { x with lanehnd := 0x2000 }
    th.settled = false ∧ s.laneHandler 0 ≠ 0 ∧ (s.core 0).orphaned th th.owing = true ∧
      ((s.core 0).orphaned { plain with pend := [{ p with res := .vals [7] }] } [1]) = false ∧
      repMid.rep.isSome = true := by decide +kernel

/-- Collectives under CHECK with an EMPTY mask; outside the mask; inside. -/
theorem witness_CollectivesArrive_checks :
    ({ entry0 with w0 := entry0.w0 ||| 0x2000000 } : BindEntry).check = true ∧ plain.isFull 40 = false ∧
    (plain.reg 2).getLsbD 0 = false ∧ (plain.reg 1).getLsbD 0 = true ∧
    (Instr.poll ⟨h7, 1, 7, 1, none⟩ ≠ .red ⟨h7, 9, vr 1, .fmax, none⟩) := by decide +kernel

/-- A block that is malformed, one that is locked; streams that differ; a poll of equal format words. -/
theorem witness_CollectivesComplete_blocks :
    (match nestedCheck (lanes plain) t00 team0 8 none with
      | .fault c _ => c == .align
      | .ok _ _ | .lock _ => false) = true ∧
    (match nestedCheck lockedEnds t00 team0 0xFFFB0 none with
      | .lock a => a == 0xFFFB0
      | .ok _ _ | .fault _ _ => false) = true ∧
    (∃ m ∈ [member 0 1, member 31 2], m.arr.a ≠ (member 0 1).arr.a) ∧
    (∀ m ∈ [member 0 1, member 31 1], m.arr.a = (member 0 1).arr.a) ∧
    ([member 0 1, member 31 2].find? fun y => y.arr.a != (member 0 1).arr.a) = some (member 31 2) := by decide +kernel

theorem witness_CollectiveValues_reductions : ((.inf false) ∈ [fp32F.decode 0x7F800000]) ∧
    ((.inf true) ∉ [fp32F.decode 0x7F800000]) ∧ (∀ x ∈ [fp32F.decode 0x3F800000], x.isNan = false ∧ x.isInf = false) ∧
    (∃ x ∈ [fp32F.decode 0x7FC00000], x.isNan = true) ∧ (member 0 1).arr.vals.length * 4 = 4 ∧
    (0x20 + 32 + 3 * 4 ≤ 0x100000) ∧ (0 : Nat) < (1 + 2 ^ 32 - 0) % 2 ^ 32 := by decide +kernel

theorem witness_FalseGuardHasNoEffect_budget : (∃ r ∈ (Instr.laneMov ⟨h7, 63, vr 1⟩).use.named, 8 ≤ r) ∧
    (Instr.exit ⟨h7⟩).closes = true := by decide +kernel

end Sys2Proof.Tests
end

