-- ==== Sys2Proof/Tests/Witness4.lean ====
section
/-! SUPPORT. For each statement about the steps that a core and its memories take by themselves, a state that meets its
hypotheses, clause by clause. -/

namespace Sys2Proof.Tests

open Sys2Proof Sys2Proof.Machine

set_option Elab.async false

/-! ### Results that come late -/

def late0 : LPend := { dst := 63, n := 1, res := .vals [7], fl := fDivZero, win := 15, arrived := false, release := [] }

theorem witness_SequencerResultArrives :
    (let th : Thread := { plain with pend := [late0] }
     (lanes th).thread 0 0 0 = some th ∧ th.pend[0]? = some late0 ∧ late0.arrived = false ∧ late0.res = .vals [7]) ∧
    ((onSeq fun q => { q with pend := [⟨.c 255, some 7, fDivZero, none⟩] }).core 0).seq.pend[0]? =
      some ⟨.c 255, some 7, fDivZero, none⟩ ∧
    ((on fun k => { k with updates := [(255, entry0, false), (255, entry0, true)] }).core 0).updates =
      [(255, entry0, false), (255, entry0, true)] ∧
    ([(255, entry0, true)].any fun u => u.1 == 255 && u.2.2) = true ∧
    (([] : List (Nat × BindEntry × Bool)).any fun u => u.1 == 255 && u.2.2) = false := by decide +kernel

/-- `BWAIT (s1), s4` under the PC; a lane thread whose barrier has gone on, at a `LANE_BWAIT`. -/
def passedBar : Bar := ⟨1, 1, 1, 0, false, true⟩

def waiter : Thread := { plain with wait := .barrier 0xFFFF0 false 0 }

def waiting : State :=
  (onLane (fun k => { k with mem := { k.mem with icache := [(0x1000, 0x3821C00A18000000)] } }) waiter).kwrite 0 0xFFFF0
    passedBar.toBytes

theorem witness_SequencerResultArrives_barriers :
    (let s := onSeq fun q => { q with code := [0x82C0000404000000] }
     (s.core 0).health.gated = false ∧ (s.core 0).seq.mode = .run ∧
     (match decodeTile ((s.core 0).seq.wordAt (s.core 0).seq.pc) none with
       | .ok (.tileBwait _) => true
       | _ => false) = true) ∧
    (waiting.core 0).health.gated = false ∧ waiting.thread 0 0 0 = some waiter ∧ (waiting.core 0).team? 0 = some team0 ∧
    team0.aborting = false ∧ (waiting.core 0).locked false 0xFFFF0 16 false = false ∧
    (let s := waiting.barSettle 0 (.thread 0 0) (.kennel 0 0xFFFF0)
     (s.bar (.kennel 0 0xFFFF0)).ok = true ∧ phasePassed (s.bar (.kennel 0 0xFFFF0)).phase 0 = true) ∧
    waiting.barPoisoned (.kennel 0 0xFFFF0) = false ∧ waiting.wordAt ⟨0, 0, 0⟩ waiter = 0x3821C00A18000000 ∧
    (match decodeLane 0x3821C00A18000000 with
      | .ok (.laneBwait _) => true
      | _ => false) = true := by decide +kernel

/-- Two subsets; the timer of the current one has run out. -/
def expiring : State :=
  on fun k => (({ k with
    ops := [op0], nextId := 1,
    teams := [{ team0 with arb := Vector.replicate 4 { low := some 0, timer := 256 } }] } : Core).setThread 0 0
      (some plain)).setThread 31 0 (some { plain with pc := 0x2000 })

theorem witness_SequencerResultArrives_fairness : let team : Team := { team0 with arb := Vector.replicate 4 { low := some 0, timer := 256 } }
    (expiring.core 0).team? 0 = some team ∧ team.entry.nofair = false ∧
    (team.arb.toList.getD 0 {}).period ≤ (team.arb.toList.getD 0 {}).timer ∧
    (expiring.core 0).currentSubset team 0 = some (0, [(0, 0)]) ∧
    (expiring.core 0).otherHeads 0 0 ([(0, 0)].map Prod.fst) ≠ [] := by decide +kernel

/-! ### Ops -/

def engineOp (fn : Nat) (q : OpQueue) (d a : OpVal) (st : OpState) : Op :=
  { op0 with rcd := { rcd0 with word := { word0 with idx := BitVec.ofNat 8 fn }, d := d, a := a, b := .none, c := .none },
             entry := engineEntry fn, q := q, st := st }

/-- `ACCZ` of an accumulator tile; `DQNT` without a tile fault and without a destination; `ACCLD` of a poisoned tile. -/
def accz : Op := engineOp 3 .matrix (.tile accTile) .none .queued
def fpTile : W128 := BitVec.ofNat 128 (8 * 2 ^ 68 + 2 ^ 29 + 31 * 2 ^ 20 + 32 * 2 ^ 10)
def accld : Op := engineOp 1 .matrix (.tile accTile) (.tile fpTile) .queued

def withOp (o : Op) : State := on fun k => { k with ops := [o], nextId := 1 }

theorem witness_OpsStartAndComplete_start : let s := withOp accz
    (s.core 0).enginesRun = true ∧ (s.core 0).startable .matrix = some accz ∧ accz.entry.engfn ≠ 5 ∧
    (s.core 0).opLocked (engineTouch s 0 accz) = false ∧ accz.result = none ∧ accz.seen = [] ∧ s.sched.choices = [] ∧
    engineFault s 0 3 0 accz.rcd = none ∧ (tileOf 0 accz.rcd.d).isSome = true := by decide +kernel

/-- A reserved role in the descriptor; a poisoned source. -/
theorem witness_OpsStartAndComplete_faults :
    (let o := engineOp 3 .matrix (.tile (accTile ||| 0xC0000000000000000)) .none .queued
     ((withOp o).core 0).startable .matrix = some o ∧ (engineFault (withOp o) 0 3 0 o.rcd).isSome = true) ∧
    (let s := on fun k => { k with ops := [accld], nextId := 1, mem := { k.mem with poison := [0] } }
     engineFault s 0 1 0 accld.rcd = none ∧ ∃ t ∈ tilesRead 1 0 default (tileOf 0 accld.rcd.a) none, s.tilePoisoned t = true) ∧
    (∀ t ∈ tilesRead 1 0 default (tileOf 0 accld.rcd.a) none, (withOp accld).tilePoisoned t = false) := by
  decide +kernel

theorem witness_OpsStartAndComplete_team : let o : Op := { op0 with st := .queued }
    let s := withOp o
    (s.core 0).laneHead = some o ∧ (s.core 0).groupsFor o.entry.gang = some [0] ∧ (s.core 0).moving = true := by
  decide +kernel

/-- A team whose threads have all exited: nothing to scan, a tile to scan, a poisoned one. -/
def doneTeam (scan : Option (List W128)) (poison : List Nat) : State :=
  on fun k => { k with ops := [op0], teams := [{ team0 with scan := scan }], nextId := 1,
                       mem := { k.mem with poison := poison } }

theorem witness_OpsStartAndComplete_scan :
    (let s := doneTeam none []
     (s.core 0).team? 0 = some team0 ∧ (s.core 0).op? 0 = some op0 ∧ team0.aborting = false ∧
       (s.core 0).teamDone 0 = true ∧ (s.core 0).enginesRun = true ∧
       team0.scan.getD (team0.scanTiles (s.pedlimit 0)) = []) ∧
    scanPoison (doneTeam (some [fpTile]) [0]) 0 fpTile = true ∧ scanPoison (doneTeam (some [fpTile]) []) 0 fpTile = false ∧
    ((doneTeam (some [fpTile]) []).core 0).team? 0 = some { team0 with scan := some [fpTile] } := by decide +kernel

/-- A level-0 op, a nested op with its parent, a team that ends, a team that stops. -/
theorem witness_OpsStartAndComplete_end :
    (let o := engineOp 3 .matrix (.tile accTile) .none (.executed {} none)
     ((withOp o).core 0).op? 0 = some o ∧ o.parent = none ∧ ({} : OpStatus).cause = .none) ∧
    (let o := { engineOp 3 .matrix (.tile accTile) .none (.executed {} (some 7)) with id := 1, parent := some 0, block := 0xFFFB0 }
     ((on fun k => { k with ops := [op0, o] }).core 0).op? 1 = some o ∧
       ((on fun k => { k with ops := [op0, o] }).core 0).locked false (blockScale o.block) 4 true = false) ∧
    (((doneTeam (some []) []).core 0).team? 0 = some { team0 with scan := some [] } ∧
      ((doneTeam (some []) []).core 0).teamDone 0 = true) ∧
    (let s := on fun k => { k with ops := [op0], teams := [{ team0 with aborting := true }] }
     (s.core 0).teamStopped 0 = true ∧ (((s.core 0).cancelNested 0).ops.any fun x => x.parent == some 0) = false) := by
  decide +kernel

/-- The watchdog period has just run out; a completed fault waits for its delivery. -/
theorem witness_OpsStartAndComplete_faulted :
    (let s := { lanes plain with now := 2 ^ 47 }
     (s.core 0).team? 0 = some team0 ∧ (s.core 0).lowestRank 0 = some (0, 0, plain) ∧
       2 ^ team0.entry.wdog ≤ team0.counted s.now) ∧
    (let s := withOp (engineOp 3 .matrix (.tile accTile) .none (.executed { cause := .badDesc } none))
     (s.core 0).nextFault.isSome = true ∧ (s.core 0).seq.takesDelivery = true ∧ (s.core 0).health.clockStop = false) := by
  decide +kernel

/-! ### Pedigree -/

def fold0 : Fold := { ctx := 0, idx := 7, bits := 0x3F800000, replay := false, fmt := 8 }

def closing (drained : List Nat) : State :=
  (onSeq id).setDev { (onSeq id).dev with closes := [{ ctx := 0, idx := 7, reset := false, who := .core 0, drained := drained }] }

theorem witness_PedigreeRequestsAtHome : ((on fun k => { k with port := [fold0] }).core 0).port[0]? = some fold0 ∧
    (∀ x, (onSeq id).dev.closeOf 0 7 = some x → 63 ∉ x.drained) ∧
    ((closing []).dev.closeOf 0 7).any (fun x => !x.drained.contains 63) = true ∧
    ((closing (List.range 64)).dev.closeOf 0 7).any (fun x => decide (64 ≤ x.drained.length)) = true :=
  ⟨by decide +kernel, fun x hx => (by simp [onSeq, on, State.setCore, State.reset, DevMem.closeOf] at hx), by decide +kernel,
    by decide +kernel⟩

/-- Each kind of request, first in its order. -/
theorem witness_PedigreeRequestsAtHome_requests :
    ([.close 7, .reset 7, .peek 7 0 (.s 1), .read 7 0 (.s 1), .readHdr 7 0 (.s 1), .sett 7 3 1] : List PedReq).all (fun r =>
      let s := on fun k => { k with ped := [r] }
      s.sched.choices == [] && (s.pedReady 0).head? == some 0 && (s.core 0).ped[0]? == some r) = true := by decide +kernel

/-! ### Retrievers -/

def cmd0 (kind : CmdKind) (st : CmdState) : Cmd :=
  { newCmd kind 0 false 0xFFFF0 with dst := tileAt 0, src := tileAt 64, addr := 0x8000, pitch := 32, count := 512, mask := 2, st := st }

/-- Two cores of a cluster run the context; the command heads its queue or runs; a barrier awaits its bytes. -/
def retr (m : Cmd) (entries : List RetEntry) : State :=
  let b : Bar := ⟨0, 0, 1, 512, false, true⟩
  ((((on fun k => { k with cmds := [m], retq := k.retq.set 0 entries }).setCore 1 core0).kwrite 0 0xFFFF0 b.toBytes).kwrite
    1 0xFFFF0 b.toBytes)

theorem witness_RetrieverPiecesLand_start :
    ([.cpyIn, .pull, .push] : List CmdKind).all (fun kind =>
      let s := retr (cmd0 kind .queued) [.cmd 0]
      (s.core 0).moving && ((s.core 0).retq.toList.getD 0 [] == [RetEntry.cmd 0])) = true ∧
    (let s := retr (cmd0 .cpyIn .queued) [.marker 0 false]
     (s.core 0).retq.toList.getD 0 [] = [.marker 0 false] ∧
       ((s.core 0).cmds.any fun m => m.q == 0 && m.st == .running) = false) := by decide +kernel

/-- A tile of eight rows of 32 bytes. -/
def tile8 (base : Nat) : W128 :=
  BitVec.ofNat 128 (base * 2 ^ 44 + 7 * 2 ^ 36 + 8 * 2 ^ 29 + 31 * 2 ^ 20 + 32 * 2 ^ 10)

def cmd8 (kind : CmdKind) : Cmd :=
  { cmd0 kind .running with dst := tile8 0, src := tile8 0xFFF00, idx := (List.range 8).map fun i => BitVec.ofNat 32 (i * i) }

/-- Piece `i` of a running command can land. -/
def landable (m : Cmd) (i : Nat) : Bool :=
  let s := paged [] (retr m [])
  ((s.core 0).cmd? 0 == some m) && (m.st == .running) && (s.core 0).moving && m.pieces.contains i && !m.hasLanded i &&
    !s.rowBlocked 0 m i &&
    match cmdBarrier 0 m s, sideXlate 0 m .read (m.sides i).1 s, sideXlate 0 m .write (m.sides i).2 s with
    | .at _, .ok sp, .ok _ => (readSide 0 m (m.sides i).1 sp s).isSome
    | _, _, _ => false

/-- The first and the last row of each kind of copy. -/
theorem witness_RetrieverPiecesLand : ([.cpyIn, .cpyOut, .cpyKk, .gth, .sct] : List CmdKind).all (fun kind =>
    landable (cmd8 kind) 0 && landable (cmd8 kind) 7 && !(cmd8 kind).pieces.contains 8) = true := by decide +kernel

/-- A prefetch: the only piece translates; it has no translation; its last bytes lie at the top of the address space. -/
theorem witness_RetrieverPiecesLand_prefetch :
    (let m := cmd0 .pft .running
     let s := paged [] (retr m [])
     (s.core 0).cmd? 0 = some m ∧ (s.core 0).moving = true ∧ 0 ∈ m.pieces ∧ m.hasLanded 0 = false ∧
     (match cmdBarrier 0 m s, s.xlateRange (s.core 0).ctx .read 0x8000 512, (retr m []).xlateRange 0 .read 0x8000 512 with
       | .at _, .ok _, .error _ => true
       | _, _, _ => false) = true) ∧
    (let m := { cmd0 .pft .running with addr := 0xFFFFFFFFFFE00, count := 513 }
     1 ∈ m.pieces ∧ 2 ∉ m.pieces ∧
     (match (paged [] (retr m [])).xlateRange 0 .read (m.addr.toNat + 512) 1 with
       | .ok _ => false
       | .error _ => true) = true) := by decide +kernel

/-- A multicast to core 1 of the cluster, which runs the context, and to core 2, which does not. -/
theorem witness_RetrieverPiecesLand_multicast :
    (let m := { cmd8 .mcast with mask := 6 }
     let s := retr m []
     let runs (i : Nat) : Bool :=
       (s.core (clusterCore 0 (i % 4))).seq.mode != .idle && (s.core (clusterCore 0 (i % 4))).ctx == (s.core 0).ctx
     (s.core 0).cmd? 0 = some m ∧ 29 ∈ m.pieces ∧ 30 ∈ m.pieces ∧ 28 ∉ m.pieces ∧ m.hasLanded 29 = false ∧
       m.hasLanded 30 = false ∧ runs 29 = true ∧ runs 30 = false ∧
       (s.core 0).kpoisoned (0xFFF00 + 7 * 32) 32 = false ∧
       ((s.kwrite 1 (0xFFF00 + 7 * 32) ((s.core 0).kread (0xFFF00 + 7 * 32) 32)).barUpdate 0 0 false (.kennel 1 m.bar.toNat)
         0 (-32)).isSome = true) := by decide +kernel

/-! ### Late loads -/

/-- A load of the last aligned Kennel word that a thread, and one that the sequencer, has not read yet. -/
theorem witness_SequencerResultArrives_loads : let l : LateLoad := ⟨false, 0xFFFF8, 0xFFFF8, 8, false, none⟩
    (let p : LPend := { late0 with n := 2, res := .load l }
     let th : Thread := { plain with pend := [p] }
     (lanes th).thread 0 0 0 = some th ∧ th.pend[0]? = some p ∧ p.arrived = false) ∧
    ((onSeq fun q => { q with pend := [⟨.s 63, none, 0, some l⟩] }).core 0).seq.pend[0]? =
      some ⟨.s 63, none, 0, some l⟩ := by decide +kernel

/-! ### The checks of an engine op -/

/-- One row of 32 bytes: format, role, space and base. -/
def rowTile (fmt role space base pidx : Nat) : W128 :=
  BitVec.ofNat 128 (pidx * 2 ^ 104 + fmt * 2 ^ 68 + role * 2 ^ 66 + space * 2 ^ 64 + base * 2 ^ 44 + 2 ^ 29 + 31 * 2 ^ 20 +
    32 * 2 ^ 10)

def record (d a b : OpVal) : IssueRec := { rcd0 with d := d, a := a, b := b, c := .none }

def roles (d a b : OpVal) (n : Nat) : Bool :=
  let vs := [d, a, b, .none]
  let bad (v : OpVal) : Bool :=
    match v with
    | .tile t => !(Desc.of t).ok 0x1000000 true
    | .none | .val _ => false
  (vs[n]?).any bad && (vs.take n).all fun v => !bad v

/-- A reserved role in A; a rule of the function that is broken; every operand good. -/
theorem witness_OpsStartAndComplete_operands :
    ((on id).pedlimit 0 = 1 ∨ 0 < (on id).pedlimit 0) ∧
    roles (.tile accTile) (.tile (rowTile 8 3 0 0 0)) .none 1 = true ∧
    roles (.tile (rowTile 8 3 0 0 0)) (.tile (rowTile 8 3 0 0 0)) .none 0 = true ∧
    (ruleFault 1 0 (Desc.of fpTile) (some (Desc.of fpTile)) none).isSome = true ∧
    ruleFault 1 0 (Desc.of accTile) (some (Desc.of fpTile)) none = none ∧
    [OpVal.tile accTile, .tile fpTile, .none, .none].all (fun v =>
      match v with
      | .tile t => (Desc.of t).ok ((on id).pedlimit 0) true
      | .none | .val _ => true) = true := by decide +kernel

/-- A permutation by the table at an address: odd; ending a byte beyond the Kennel; ending with it and all zeros, which is
no permutation that breaks a rule; poisoned; with an index equal to the number of columns. -/
theorem witness_OpsStartAndComplete_table : let d := rowTile 8 2 0 0 0
    let r (x : Nat) : IssueRec := record (.tile d) (.tile d) (.val (BitVec.ofNat 64 x))
    let s (poison : List Nat) : State := on fun k => { k with mem := { k.mem with poison := poison } }
    ruleFault 8 0 (Desc.of d) (some (Desc.of d)) none = none ∧ (Desc.of d).cols = 8 ∧
    tableAddr 8 0 (r 1) = some 1 ∧ tableAddr 8 0 (r 0xFFFF2) = some 0xFFFF2 ∧ 0x100000 < 0xFFFF2 + 2 * 8 ∧
    tableFault ((s []).core 0) 0xFFFF0 8 = none ∧ ((s [0x1FFFF]).core 0).kpoisoned 0xFFFF8 8 = true ∧
    8 ≤ (((s []).kwrite 0 0xFFFFE [8]).core 0).kword (0xFFFF0 + 2 * 7) 2 := by decide +kernel

/-- QNT without and with a record; ACCST into a tile whose record has another format, and the same. -/
theorem witness_OpsStartAndComplete_record :
    (let d (pidx : Nat) := Desc.of (rowTile 1 1 0 0 pidx)
     let a := Desc.of (BitVec.ofNat 128 (8 * 2 ^ 68 + 0x1000 * 2 ^ 44 + 2 ^ 29 + 127 * 2 ^ 20 + 128 * 2 ^ 10))
     ruleFault 5 0 (d 0) (some a) none = none ∧ ruleFault 5 0 (d 1) (some a) none = none ∧ (d 0).pidx = 0 ∧
       (d 1).pidx ≠ 0 ∧ tableAddr 5 0 (record .none .none .none) = none) ∧
    (let d := Desc.of (rowTile 8 1 0 0 1)
     ruleFault 2 0 d (some (Desc.of accTile)) none = none ∧ d.space = 0 ∧ d.pidx ≠ 0 ∧
       ((on id).dev.rcd 0 d.pidx).fmt ≠ d.fmt ∧
       (let s := (on id).setDev ((on id).dev.setRcd { (on id).dev.rcd 0 1 with fmt := 8 })
        (s.dev.rcd (s.core 0).ctx d.pidx).fmt = d.fmt)) := by decide +kernel

/-! ### Functions and completions -/

/-- An INT8 product of 48 columns; a QNT has a scale, and its nested form writes it. -/
theorem witness_OpsStartAndComplete_functions :
    (let t (fmt base : Nat) : Tile :=
       ⟨Desc.of (BitVec.ofNat 128 (fmt * 2 ^ 68 + base * 2 ^ 44 + 2 ^ 29 + 47 * 2 ^ 20 + 48 * 2 ^ 10)), 0⟩
     mmaPair (t 1 0).d.fmtOr (t 1 64).d.fmtOr = some (48, .int32) ∧ (t 1 0).d.cols % 48 = 0 ∧ 0 < 48 ∧
       (List.range 48).length = (t 1 0).d.cols ∧ 0 < (t 1 0).d.rows ∧ 0 < (t 1 64).d.rows ∧
       ((t 6 0).d.fmtOr.ffmt).isSome = true) ∧
    ((Desc.of fpTile).ok 1 true = true ∧ (Desc.of fpTile).space ≠ 2 ∧ memoriesWf (on id) = true ∧
      ((⟨0, 0⟩ : FRes).bits < 256 ^ (Desc.of fpTile).esize)) ∧
    (let o := engineOp 5 .conv (.tile fpTile) (.tile fpTile) (.executed { cause := .rescale } (some 7))
     ((withOp o).core 0).op? 0 = some o ∧ o.parent = none) ∧
    (let o := { engineOp 5 .conv (.tile fpTile) (.tile fpTile) (.executed { cause := .badDesc } none) with
       id := 1, parent := some 0, block := 0xFFFB0 }
     ((on fun k => { k with ops := [op0, o] }).core 0).op? 1 = some o) ∧
    State.reset.sched.choices = [] ∧ (1 : Nat) < 2 := by decide +kernel

/-- A thread that waits for op 1; a stopped team with its op; teams of each core of different ops. -/
theorem witness_OpsStartAndComplete_nested :
    (let th : Thread := { plain with pend := [{ late0 with res := .nested 1 }] }
     let s := lanes th
     s.thread 0 0 0 = some th ∧ th.team = 0 ∧ th.awaitsOp 1 = some 0 ∧ th.awaitsOp 2 = none) ∧
    ((lanes plain).core 0).op? team0.op = some op0 ∧
    (∀ d, ((((lanes plain).core d).teams.map Team.op).Nodup)) ∧ team0 ∈ ((lanes plain).core 0).teams ∧
    ((lanes plain).core 0).teamThreads team0.op ≠ [] := by decide +kernel

/-! ### Folds -/

/-- BF16 words: a NaN, an infinity, zero, and 1; an INT8 one; a record without a format. -/
theorem witness_PedigreeRequestsAtHome_folds :
    (foldValue 6 0x7FC0 matches .nan _) = true ∧ (foldValue 6 0xFF80 matches .inf _) = true ∧
    (foldValue 6 0x8000 matches .fin _ 0 _) = true ∧ (foldValue 6 0x3F80 matches .fin _ (_ + 1) _) = true ∧
    (foldValue 1 0x80 matches .fin true _ _) = true ∧ fold0.replay = false ∧ { fold0 with replay := true }.replay = true ∧
    ((onSeq id).dev.closeOf 0 7).isNone = true := by decide +kernel

/-! ### More of the Retrievers -/

/-- A side beyond 2^52; one that a walk keeps waiting; poisoned rows; a command whose walk failed. -/
theorem witness_RetrieverPiecesLand_sides :
    (let m := { cmd8 .cpyIn with addr := 0xFFFFFFFFFFFFF }
     (sideXlate 0 m .read (m.sides 0).1 (retr m []) matches .fail .badAddr _) = true) ∧
    (let m := { cmd8 .cpyIn with park := .walking }
     (sideXlate 0 m .read (m.sides 0).1 (retr m []) matches .wait _) = true) ∧
    (let m := { cmd8 .cpyOut with park := .failed .translation }
     (sideXlate 0 m .read (m.sides 0).1 (retr m []) matches .ok _) = true ∧
       (sideXlate 0 m .write (m.sides 0).2 (retr m []) matches .fail _ _) = true) ∧
    (let m := { cmd8 .cpyOut with dev := true, park := .walking }
     (cmdBarrier 0 m (retr m []) matches .wait _) = true) ∧
    (let m := { cmd8 .cpyKk with dev := true, park := .failed .translation }
     (cmdBarrier 0 m (retr m []) matches .fail _ _) = true) ∧
    (let m := cmd8 .cpyKk
     let s := (retr m []).updCore 0 fun k => { k with mem := { k.mem with poison := [0xFFF00 / 8] } }
     (readSide 0 m (m.sides 0).1 [] s).isNone = true) := by decide +kernel

/-- The rows of a PUSH, with its flow: clean, and the last one poisoned. -/
theorem witness_RetrieverPiecesLand_push : let m := { cmd8 .push with addr := 0x4000, pitch := 64 }
    let f : YttFlow :=
      { flow := 9, peer := 4, ours := true, job := some (.cmd 0 0), seq := 1, out := [], accepted := [], kept := [], rows := 0 }
    let s := { retr m [] with ytt := { (retr m []).ytt with flows := [f] } }
    (s.core 0).cmd? 0 = some m ∧ 7 ∈ m.pieces ∧ m.hasLanded 7 = false ∧
    (s.ytt.flows.find? fun f => f.job == some (.cmd 0 m.id)) = some f ∧
    8192 / (Desc.of m.src).rbytes * m.frames < (Desc.of m.src).rows ∧
    ((List.range 8).all fun j => !(s.core 0).kpoisoned (0xFFF00 + 32 * j) 32) = true ∧
    ((s.updCore 0 fun k => { k with mem := { k.mem with poison := [0xFFFE0 / 8] } }).core 0).kpoisoned 0xFFFE0 32 = true := by
  decide +kernel

/-- A PFT whose DEVICE barrier has no translation; a MCAST row that is poisoned, and one whose peer has no barrier. -/
theorem witness_RetrieverPiecesLand_others :
    (let m := { cmd0 .pft .running with dev := true }
     (pftXlate 0 m .atomic m.bar.toNat 16 (retr m []) matches .error _) = true) ∧
    (let m := { cmd8 .mcast with mask := 6 }
     (((retr m []).updCore 0 fun k => { k with mem := { k.mem with poison := [0xFFFE0 / 8] } }).core 0).kpoisoned
       (0xFFF00 + 7 * 32) 32 = true ∧
     ((retr m []).barUpdate 0 0 false (.kennel 1 0) 0 (-32)).isNone = true) ∧
    (let m := { cmd8 .cpyKk with landed := [0, 1, 2, 3, 4, 5, 6] }
     ((retr m []).core 0).cmd? 0 = some m ∧
       ({ m with landed := m.landed ++ [7] }.pieces.all { m with landed := m.landed ++ [7] }.hasLanded) = true ∧
       ({ m with landed := m.landed }.pieces.all m.hasLanded) = false) ∧
    (let m := { cmd8 .cpyKk with sub := 224 }
     m.kind ≠ .mcast ∧ m.dev = false ∧ m.park = .none ∧ m.sub ≠ 0 ∧
       ((retr m []).barUpdate 0 0 m.replay (.kennel 0 m.bar.toNat) 0 m.sub).isSome = true ∧
       ((retr m []).barUpdate 0 0 m.replay (.kennel 0 0) 0 m.sub).isNone = true) := by decide +kernel

end Sys2Proof.Tests
end

