-- ==== Sys2Proof/Tests/Witness5.lean ====
section
/-! SUPPORT. For each statement about memory, the queues, the Shepherd and the Recall, a state that meets its hypotheses,
clause by clause. -/

namespace Sys2Proof.Tests

open Sys2Proof Sys2Proof.Machine

set_option Elab.async false

def okay {α β : Type} (x : Except α β) : Bool :=
  match x with
  | .ok _ => true
  | .error _ => false

/-- The nonzero bytes at an address. -/
def cells (base : Nat) (bs : List Byte) : Memory :=
  (bs.zipIdx.filter fun x => x.1 != 0).map fun x => (base + x.2, x.1)

/-! ### Walks, invalidations, ECC -/

def walk0 (va : W64) : Walk := { va := va, need := 1, who := .seq }

def walking0 (va : W64) (fb : List FbEntry) : State :=
  paged [] (on fun k => { k with tlb := [], walks := [walk0 va], fb := fb })

def key0 : FbKey := { ctx := 0, page := 1, cause := 1, access := 1 }

def fb0 (key : FbKey) : FbEntry := { key := key, va := 0x10000, level := 0, agent := 0, who := 0, count := 0xFFFF }

/-- The last address of a mapped page, and the first of an unmapped one: no entry with its key, one with it, and a
buffer with one entry of its 64 left. -/
theorem witness_TranslationAndMemoryEvents_walk :
    (((walking0 0xFFFF []).core 0).walks.filter fun w => w.va == 0xFFFF) = [walk0 0xFFFF] ∧
    okay ((walking0 0xFFFF []).walkEnd 0 (walk0 0xFFFF)) = true ∧
    (((walking0 0x10000 []).core 0).walks.filter fun w => w.va == 0x10000) = [walk0 0x10000] ∧
    (match (walking0 0x10000 []).walkEnd 0 (walk0 0x10000) with
      | .ok _ => false
      | .error f => f.cause == 1) = true ∧
    (([] : List FbEntry).any fun e => e.key == key0) = false ∧ ([fb0 key0].any fun e => e.key == key0) = true ∧
    (let l := (List.range 63).map fun i => fb0 { key0 with page := i + 2 }
     (l.any fun e => e.key == key0) = false ∧ l.length < 64) := by decide +kernel

theorem witness_TranslationAndMemoryEvents : ((on id).ctx? 0).isSome = true ∧
    (let s := (on id).updCtx 0 fun x => { x with inval := true }
     (s.ctx? 0).any (·.inval) = true ∧ s.invalidated 0 = true) ∧
    Memory.wf State.reset.dev.hbm = true ∧ Memory.wf (paged [] State.reset).dev.hbm = true ∧
    ((State.reset.core 255).task = none ∧ (State.reset.core 255).placing = none ∧ (State.reset.core 255).enginesEmpty = true) ∧
    (let s := on fun k => { k with
       placing := some .start, claim := some { slot := 7, dec := .freeze, vacant := false, save := none, cap := 0 },
       health := { k.health with gated := true } }
     (s.core 0).health.gated = true ∧ s.wakeCause 0 3 = true ∧ (∀ l < 3, s.wakeCause 0 l = false)) ∧
    (let s := on fun k => { k with health := { k.health with gated := true } }
     (s.core 0).health.gated = true ∧ s.wakeCause 0 1 = true ∧ (∀ l < 1, s.wakeCause 0 l = false)) := by decide +kernel

/-! ### Stores -/

def store0 (id pa : Nat) (bs : List Byte) : PStore :=
  { id := id, agent := .seq, ctx := 0, pa := pa, bytes := bs, pidx := 0, replay := false }

/-- The second of two stores to neighbouring bytes, the last of device memory among them; a superseded value. -/
theorem witness_StoresReachMemoryAndReadBack :
    (let s := on fun k => { k with stores := [store0 1 (hbmSize - 4) [1, 2], store0 2 (hbmSize - 2) [3, 4]] }
     Memory.wf s.dev.hbm = true ∧ (s.core 0).stores[1]? = some (store0 2 (hbmSize - 2) [3, 4]) ∧
       (((s.core 0).stores.take 1).any fun x => x.overlaps (hbmSize - 2) 2) = false) ∧
    State.reset.sched.choices = [] ∧ (∀ o ∈ State.reset.dev.old, o.till ≤ State.reset.dev.stamp) ∧
    (let d : DevMem := { State.reset.dev with old := [⟨7, 1, 3, 256, 3, none⟩], stamp := 3 }
     (d.old.all fun o => decide (o.till ≤ d.stamp)) = true) := by decide +kernel

/-! ### Queues -/

/-- A LOOP record: 2^32 - 1 iterations, an image at 0x20000, automatic closes of record 7. -/
def loopBytes : List Byte :=
  [0x80, 0, 0, 1] ++ leBytes 4 5 ++ leBytes 8 0x20000 ++ leBytes 8 0 ++ leBytes 4 0xFFFFFFFF ++ List.replicate 12 0 ++
    leBytes 8 0 ++ leBytes 8 0 ++ leBytes 4 7 ++ List.replicate 68 0

def condBytes : List Byte :=
  [0, 0, 0, 2] ++ leBytes 4 5 ++ List.replicate 88 0 ++ leBytes 8 0xFFF8 ++ leBytes 8 1 ++ leBytes 4 0x39 ++ leBytes 2 1 ++
    leBytes 2 0xFFFF ++ leBytes 8 0

def joinBytes : List Byte :=
  [0, 0, 0, 3] ++ leBytes 4 5 ++ List.replicate 88 0 ++ leBytes 8 0xFFF0 ++ leBytes 4 1 ++ List.replicate 20 0

def eventBytes : List Byte := [0, 0, 0, 4] ++ leBytes 4 5 ++ List.replicate 88 0 ++ List.replicate 32 0xAB

def image0 : Image := { addr := 0x20000, ident := [], tile := [0], const := [], lane := 0 }

/-- Queue 63 has this record at its head, which is record 0 of a queue of one. -/
def queued (bs : List Byte) (images : List Image) : State :=
  ((paged (cells 0x10000 bs) (on id)).updCtx 0 fun x => { x with images := images }).updQueue 63 fun q =>
    { q with st := .empty, size := 1, head := 0xFFFFFFFF, tail := 0, en := true }

def recordAt (bs : List Byte) (images : List Image) (p : State → NodeBody → Bool) : Bool :=
  let s := queued bs images
  match s.readVa 0 0 128 with
  | .ok x => (x == bs) && (nodeBody x 8).any (p s)
  | .error _ => false

def rec5 (bs : List Byte) : LaunchRec := { launchRecOf bs with queue := 63, ctx := 0 }

theorem witness_QueueStepsComplete_record :
    ((queued loopBytes []).queue 63).st = .empty ∧
    ((queued loopBytes []).queue 63).head ≠ ((queued loopBytes []).queue 63).tail ∧
    okay ((queued loopBytes []).readVa 0 0 128) = true ∧
    okay (((queued loopBytes []).updQueue 63 fun q => { q with base := 0x10000 }).readVa 0 0x10000 128) = false ∧
    (nodeBody (List.replicate 128 0) 8).isNone = true ∧
    recordAt loopBytes [] (fun s _ => (wordOf loopBytes 3 1 == 1) && !s.imageOk 0 (rec5 loopBytes)) = true ∧
    recordAt loopBytes [image0] (fun s b => (b == .loop true [7]) && s.imageOk 0 (rec5 loopBytes)) = true ∧
    recordAt condBytes [] (fun _ b => b == .cond 0xFFF8 1 9 3 1 0xFFFF) = true ∧
    recordAt joinBytes [] (fun _ b => b == .join 0xFFF0 1) = true ∧
    recordAt eventBytes [] (fun _ b => b == .hostevent (List.replicate 32 0xAB)) = true := by decide +kernel

def nodeOf (b : NodeBody) : Node :=
  { rcd := { image := 0x20000, bound := #v[1, 0, 0, 0] }, body := b, next := 0, again := [], done := 0, closing := none, skip := none }

/-- Queue 0 waits on a node, with one more record. -/
def waitsOn (b : NodeBody) (st : QState) (low : Memory) : State :=
  (paged low (on id)).updQueue 0 fun q =>
    { q with st := st, node := some (nodeOf b), size := 65536, head := 0, tail := 1, en := true }

theorem witness_QueueStepsComplete :
    (let s := waitsOn (.cond 0xFFF8 1 9 3 1 0xFFFF) .waiting []
     (s.queue 0).st = .waiting ∧ (s.queue 0).node = some (nodeOf (.cond 0xFFF8 1 9 3 1 0xFFFF)) ∧
     okay (s.xlate 0 0xFFF8 .read) = true ∧ 1 ≤ (s.queue 0).records ∧ (s.queue 0).records < 0xFFFF ∧
     condCode 9 8 0 1 = false ∧ condCode 6 8 0 1 = true) ∧
    (let s := waitsOn (.join 0xFFF0 0) .waiting (cells 0x1FFF0 passedBar.toBytes)
     (match s.xlate 0 0xFFF0 .atomic with
       | .ok p => (s.bar (.device p)).ok && phasePassed (s.bar (.device p)).phase 0
       | .error _ => false) = true) ∧
    (let s := (on id).updQueue 63 fun q => { q with st := .empty, eff := { q.eff with period := 1 }, repl := 0 }
     (s.queue 63).st ≠ .disabled ∧ (s.queue 63).eff.period ≠ 0 ∧ (s.queue 63).repl.toNat ≤ s.ticks) ∧
    (let s := (on id).updQueue 0 fun q =>
       { q with st := .running, eff := { q.eff with period := 100, budget := 5 }, remain := 0, repl := 1 }
     let u := s.charge 0
     (u.queue 0).st ≠ .disabled ∧ (u.queue 0).eff.period ≠ 0 ∧ (u.queue 0).demoted = false ∧ (u.queue 0).remain = 0 ∧
       s.ticks < (u.queue 0).repl.toNat) ∧
    (let s := (on id).updQueue 0 fun q => { q with size := 65536, base := 0xFFFFFFFFFFF80 }
     (s.queue 0).en = false ∧ s.enableOk (s.queue 0) 1 = true) ∧
    (([.empty, .ready, .waiting, .insufficient, .running] : List QState).all fun st =>
      (((on id).updQueue 0 fun q => { q with st := st }).queue 0).st == st) = true := by decide +kernel

/-- All tasks of a node have retired: with a close to ask for, and with none left. -/
def finishedNode (closing : Option (List Nat)) : Node :=
  { nodeOf (.loop true [7]) with next := 1, done := 1, closing := closing }

theorem witness_QueueStepsComplete_end :
    [none, some []].all (fun closing =>
      let s := (on id).updQueue 0 fun q => { q with st := .running, node := some (finishedNode closing) }
      ((s.queue 0).st == .running) && ((s.queue 0).node == some (finishedNode closing)) &&
        (finishedNode closing).finished && !s.closing 0 && (s.dev.closeOf 0 7).isNone) = true ∧
    (finishedNode none).closing.getD [7] = [7] ∧ (finishedNode (some [])).closing.getD [7] = [] := by decide +kernel

/-! ### Tasks -/

/-- Partition 0 has cluster 0; queue 5 has a LOOP node with an iteration left. -/
def offering : State :=
  ((({ State.reset with ctxs := [{ ctx0 with images := [image0] }] } : State).updPart 0 fun p =>
    { p with clusters := 1 })).updQueue 5 fun q =>
      { q with st := .ready, en := true, node := some (nodeOf (.loop false [])) }

theorem witness_TaskStepsComplete_choice : let r := offering.reconsider 0
    let free := r.freeCores 0
    let u := (if free.isEmpty then r else r.latchQueues 0).lapse 0 free
    u.holder 0 = none ∧ ((u.candidates 0 free).findSome? (u.serve free)).isSome = true := by decide +kernel

theorem witness_TaskStepsComplete_serve : let s := offering
    let free := s.freeCores 0
    (s.pickCore (free.filter (s.mayUse 5))).isSome = true ∧ s.saveFor 5 (free.filter (s.mayUse 5)) = none ∧
    s.openGrids 5 = [] ∧ s.nodeOpen 5 = true ∧ (s.nest 5 none).any (fun n => !n.rcd.cooperative) = true := by
  decide +kernel

/-- A task placed on core 0; the same one ended, with a claim and without one, cooperative or not. -/
def task1 (coop : Bool) : Task :=
  { task0 with rcd := { image := 0x20000, bound := #v[1, 0, 0, 0], cooperative := coop } }

def placed0 : State :=
  ({ State.reset with ctxs := [{ ctx0 with images := [image0] }] } : State).updCore 0 fun k =>
    { k with task := some (task1 false), placing := some .start }

theorem witness_TaskStepsComplete_start : (placed0.core 0).placing = some .start ∧
    (placed0.core 0).task = some (task1 false) ∧ placed0.taskImage (task1 false) = some image0 ∧
    (placed0.ctx? 0).isSome = true := by decide +kernel

def claim0 : Claim := { slot := 0, dec := .complete, vacant := false, save := none, cap := 0 }

theorem witness_TaskStepsComplete_retire : [none, some claim0].all (fun cl => [true, false].all fun coop =>
    let s := on fun k => { k with task := some (task1 coop), seq := { k.seq with mode := .ended }, claim := cl }
    ((s.core 0).task == some (task1 coop)) && (s.core 0).retirable && ((s.core 0).claim == cl)) = true := by
  decide +kernel

/-- A LIVE queue with a saved wish: `QLEAD` has just run out. -/
theorem witness_TaskStepsComplete_lead : let s := offering.updQueue 5 fun q =>
      { q with eff := { q.eff with cls := 0, lead := 1 }, since := some 0 }
    let s := { s with now := 17 }
    (s.queue 5).since = some 0 ∧ (s.queue 5).eff.cls = 0 ∧ (s.queue 5).eff.lead ≠ 0 ∧
    0 + (s.queue 5).eff.lead.toNat ≤ s.ticks ∧ s.hasWork 5 (s.freeCores 0) = true := by decide +kernel

def grid0 : Grid :=
  { id := 3, ctx := 0, queue := 5, rcd := (nodeOf (.loop false [])).rcd, next := 1, again := [], done := 1, checked := true }

theorem witness_TaskStepsComplete : ((on fun k => { k with launchQ := [{}] }).takeLaunch 0).isSome = true ∧
    ((({ on id with grids := [grid0] } : State).grid? 3).any fun x => decide (x.rcd.total ≤ x.done)) = true := by
  decide +kernel

/-! ### More of walks and stores -/

/-- A walk of a thread whose team aborts; a full fault buffer; a TLB with 63 entries and one with 64; an entry of a core
that waits at a BWAIT with no thread. -/
theorem witness_TranslationAndMemoryEvents_more :
    (let s := on fun k => ({ k with ops := [op0], teams := [{ team0 with aborting := true }] } : Core).setThread 0 0
       (some plain)
     (s.core 0).abortedWalker (.thread 0 0) = true ∧ (s.core 0).abortedWalker .seq = false) ∧
    (let l := (List.range 64).map fun i => fb0 { key0 with page := i + 2 }
     (l.any fun e => e.key == key0) = false ∧ 64 ≤ l.length) ∧
    ((on fun k => { k with tlb := List.replicate 63 page0 }).core 0).tlb.length < 64 ∧
    ((on fun k => { k with tlb := List.replicate 64 page0 }).core 0).tlb.length ≤ 64 ∧
    ((on id).l2 0).length ≤ 2048 ∧ (on id).invalidated 0 = true ∧
    (let s := (on fun k => { k with
       seq := { k.seq with code := [0x82C0000404000001], s := k.seq.s.set 4 1 } }).kwrite 0 0 passedBar.toBytes
     (s.core 0).task.isSome = true ∧ (s.core 0).placing = none ∧ s.seqWaits 0 = true ∧ s.standDue 0 = false ∧ (s.core 0).asleep = true) := by
  decide +kernel

/-- The second of two Kennel stores to neighbouring bytes; a write that a cluster unit holds elsewhere; stores in order;
superseded values of single-copy atomic writes. -/
theorem witness_StoresReachMemoryAndReadBack_more :
    (let p (a : Nat) : KStore := ⟨.seq, a, [1, 2]⟩
     let s := on fun k => { k with kstores := [p 0xFFFFC, p 0xFFFFE] }
     (s.core 0).kstores[1]? = some (p 0xFFFFE) ∧
       (((s.core 0).kstores.take 1).any fun x => x.agent == .seq && x.overlaps 0xFFFFE 2) = false) ∧
    (let h : Held := ⟨4, .seq, 0, 0, false, 64, [1, 2, 3, 4]⟩
     ([h].all fun h => h.overlaps 68 4 == false && h.overlaps 60 4 == false && h.overlaps 67 1) = true) ∧
    [store0 1 0 [1], store0 2 0 [2]].Pairwise (fun p q => p.id < q.id) ∧
    ([(⟨7, 1, 3, 256, 3, none⟩ : Old)].all fun o => o.whole 4 4 && !o.whole 8 4 && decide (o.till ≤ 3)) = true := by decide +kernel

/-! ### More of the queues -/

theorem witness_QueueStepsComplete_waits :
    (let n := { nodeOf (.cond 0xFFF8 1 9 3 1 0xFFFF) with skip := some 1 }
     let s := (waitsOn n.body .waiting []).updQueue 0 fun q => { q with node := some n }
     (s.queue 0).st = .waiting ∧ (s.queue 0).node = some n ∧ 1 ≤ (s.queue 0).records) ∧
    okay ((waitsOn (.cond 0x10000 1 9 3 1 0xFFFF) .waiting []).xlate 0 0x10000 .read) = false ∧
    okay ((waitsOn (.join 0x10000 0) .waiting []).xlate 0 0x10000 .atomic) = false ∧
    (match (waitsOn (.join 0xFFF0 0) .waiting []).xlate 0 0xFFF0 .atomic with
      | .ok p => (waitsOn (.join 0xFFF0 0) .waiting []).bar (.device p) |>.ok
      | .error _ => true) = false ∧
    (0xFFF8 : W64).toNat % 16 ≠ 0 ∧
    (let y : Queue := { eff := { period := 100 }, charged := 3, repl := 7 }
     y.eff.period ≠ 0 ∧ y.charged ≤ 7 ∧ 7 ≤ y.repl.toNat) := by decide +kernel

/-- An arrival at a barrier that takes it, and at one that does not; the last arrival in its low addresses. -/
theorem witness_QueueStepsComplete_join :
    let taken (low : Memory) : Bool :=
      let s := paged low (on id)
      match s.xlate 0 0xFFF0 .atomic with
      | .ok p => (s.barUpdate 256 0 false (.device p) 1 0).isSome
      | .error _ => false
    taken (cells 0x1FFF0 passedBar.toBytes) = true ∧ taken [] = false ∧
    okay ((paged [] (on id)).xlate 0 0x10000 .atomic) = false ∧ (0xFFF0 : W64) ≠ 0 ∧ (0xFFF0 : W64).toNat % 16 = 0 := by
  decide +kernel

/-! ### More of the tasks -/

/-- One core is held for the node; it wants two. -/
def holding (ndim : Nat) : State :=
  (offering.updQueue 5 fun q => { q with node := some { nodeOf (.loop false []) with
    rcd := { image := 0x20000, bound := #v[BitVec.ofNat 32 ndim, 0, 0, 0], cooperative := true } } }).updCore 0 fun k =>
      { k with heldFor := some (5, none) }

theorem witness_TaskStepsComplete_hold : let r := (holding 2).reconsider 0
    let free := r.freeCores 0
    let u := (if free.isEmpty then r else r.latchQueues 0).lapse 0 free
    u.holder 0 = some (5, none) ∧ u.pickCore (free.filter (u.mayUse 5)) = some 1 ∧
    (let n := (holding 2).nest 5 none
     n.any fun n => decide (((holding 2).heldCores 5 none).length < n.count)) = true ∧
    (let n := (holding 1).nest 5 none
     n.any fun n => decide (n.count ≤ ((holding 1).heldCores 5 none).length)) = true := by decide +kernel

/-- A saved task of queue 5; a saved grid of it; a child grid. -/
def saved5 (coop : Nat) : Save :=
  { ctx := 0, slot := 0, kind := .swap, unhandled := false,
    task := { task0 with queue := 5 }, seq := core0.seq, blocks := [], data := [], dq := Vector.replicate 16 {}, ops := [],
    cmds := [], teams := [], threads := [], rpend := 0, rfaults := [], partcores := 4, coop := coop, wait := none }

theorem witness_TaskStepsComplete_saved :
    [0, 1].all (fun coop =>
      let s := { offering with saves := [saved5 coop] }
      let mine := (s.freeCores 0).filter (s.mayUse 5)
      (s.saveFor 5 mine == some (saved5 coop)) && (s.pickCore mine).isSome) = true ∧
    (let g : Grid :=
       { id := 3, ctx := 0, queue := 5, rcd := (nodeOf (.loop false [])).rcd, next := 0, again := [], done := 0,
         checked := false }
     let s : State := { offering with grids := [g] }
     let mine := (s.freeCores 0).filter (s.mayUse 5)
     s.saveFor 5 mine = none ∧ s.openGrids 5 = [3] ∧ s.grid? 3 = some g ∧ (s.pickCore mine).isSome = true) := by
  decide +kernel

/-- The lowest free core; with core 0 hot, the next one; with all hot, one of them. -/
theorem witness_TaskStepsComplete_pick :
    let hot (cs : List CoreNo) (s : State) : State :=
      cs.foldl (fun s c => s.updCore c fun k => { k with health := { k.health with hot := true } }) s
    ({ offering with shmode := 0 }.pickCore [0, 1]) = some 0 ∧ offering.shmode ≠ 0 ∧
    (hot [0] offering).pickCore [0, 1] = some 1 ∧ ((hot [0, 1] offering).pickCore [0, 1]).isSome = true := by decide +kernel

/-- The next iteration of a node: one that came back, the next one, none. -/
theorem witness_TaskStepsComplete_nest :
    let s (next : Nat) (again : List Nat) : State := offering.updQueue 5 fun q =>
      { q with node := some { nodeOf (.loop false []) with next := next, again := again } }
    ((s 1 [0]).nest 5 none).any (fun x => x.again == [0]) = true ∧
    ((s 0 []).nest 5 none).any (fun x => x.again.isEmpty && decide (x.next < x.rcd.total)) = true ∧
    ((s 1 []).nest 5 none).any (fun x => x.again.isEmpty && decide (x.rcd.total ≤ x.next)) = true := by decide +kernel

/-- A post of the Shepherd of each status: taken; too late; its core claimed; no room for its save; no deadline. -/
theorem witness_TaskStepsComplete_post :
    let at_ (slots : W32) : State := offering.updCore 0 fun k =>
      { k with task := some { task0 with regs := { task0.regs with saveslots := slots } } }
    let s := at_ 1
    ((at_ 0).post [0] 0x1000000 false (some 5)).1 = 3 ∧ (s.post [0] 0x1000000 false (some 5)).1 = 0 ∧ (s.post [0] 0 false (some 5)).1 = 1 ∧
    (let u := s.post [0] 0x1000000 false (some 5)
     (u.2.post [0] 0x1000000 false (some 5)).1 = 2) ∧
    (s.post [0] (BitVec.allOnes 64) false (some 5)).1 = 4 := by decide +kernel

theorem witness_TaskStepsComplete_context : (∀ h ∈ placed0.dev.held, h.core.val / 4 ≠ 0) ∧
    (placed0.core 0).lastCtx ≠ some (task1 false).ctx ∧
    ((placed0.updCore 0 fun k => { k with lastCtx := some 0 }).core 0).lastCtx = some (task1 false).ctx := by decide +kernel

end Sys2Proof.Tests
end

