-- ==== Sys2Proof/Tests/Witness6.lean ====
section
/-! SUPPORT. For the statement about the Recall, saves and power, a state that meets its hypotheses, clause by clause. -/

namespace Sys2Proof.Tests

open Sys2Proof Sys2Proof.Machine

set_option Elab.async false

/-- Partition 15 has the last cluster; its cores are free, and a post names them. -/
def recalled (dl : W64) : State :=
  let s := State.reset.updPart 15 fun p => { p with clusters := 2 ^ 63 }
  s.setRc { s.rc with cores := [252, 253, 254, 255], dl := dl }

/-- The earliest deadline that is met, the one a tick before, and a shrink without a deadline. -/
theorem witness_RecallAndPowerStepsComplete_post :
    (let s := recalled 0
     let u := s.setRcCtl 1
     let ef := (u.postStatus s.rc.cores (u.widen s.rc.cores) 0 false).2
     (u.postStatus s.rc.cores (u.widen s.rc.cores) (BitVec.ofNat 64 ef) false) = (0, ef) ∧ 0 < ef ∧
     (u.postStatus s.rc.cores (u.widen s.rc.cores) (BitVec.ofNat 64 (ef - 1)) false).1 = 1 ∧
     (u.postStatus s.rc.cores (u.widen s.rc.cores) (BitVec.allOnes 64) true).1 = 0 ∧
     (u.postStatus [252] (u.widen [252]) (BitVec.allOnes 64) true).1 = 4 ∧ u.rc.freeSlot = some 0) ∧
    (1 : W32).getLsbD 0 = true ∧ (3 : W32).getLsbD 1 = true ∧ (7 : W32).getLsbD 2 = true := by decide +kernel

def post0 : Post :=
  { cores := [0], named := [0], dl := some 100, last := 0, shrink := false, live := none, called := false }

/-- Cores 0 to 3 stand at a BWAIT of the word in SKA s1, each since its own cycle; queue 5 waits for a core. -/
def swapping : State :=
  let s := offering.updPart 0 fun p => { p with clusters := 1 }
  let s := s.updQueue 7 fun q => { q with st := .running, eff := { q.eff with cls := 2 } }
  let k : Core := { core0 with
    task := some { task0 with queue := 7, regs := { task0.regs with saveslots := 1 } },
    seq := { core0.seq with mode := .run, code := [0x82C0000404000001], pc := 0, s := core0.seq.s.set 4 1 } }
  { (List.range 4).foldl (fun s j =>
      (s.setCore (clusterCore 0 j) { k with seq := { k.seq with standSince := some j } }).kwrite (clusterCore 0 j) 0
        passedBar.toBytes) s with
    now := 17 * 100 + 3 }

theorem witness_RecallAndPowerStepsComplete_lastCall :
    (let s := State.reset.setRc { State.reset.rc with posts := State.reset.rc.posts.set 7 (some post0) }
     s.rc.posts[7] = some post0 ∧ post0.called = false ∧ post0.last ≤ s.ticks) ∧
    (let s := swapping
     s.swapSince 0 = some 0 ∧ s.partOf 0 = some 0 ∧ (coresOf (s.part 0)).length = 4 ∧
     ((coresOf (s.part 0)).all fun d => match s.swapSince d with
       | some m => decide (0 ≤ m)
       | none => true) = true) := by decide +kernel

/-- A stopped task that has drained: without a save slot, and with one whose place is mapped. -/
def stopped (slots : W32) : State :=
  paged [] (on fun k => { k with
    task := some { task0 with regs := { task0.regs with saveslots := slots, savebase := 0 } },
    seq := { k.seq with mode := .stopped, drain := some .checkpoint } })

theorem witness_RecallAndPowerStepsComplete_save : let s := stopped 0
    (s.core 0).task.isSome = true ∧ (s.core 0).seq.drain = some .checkpoint ∧ (s.core 0).seq.mode = .stopped ∧
    (s.core 0).drained = true ∧ (s.core 0).saving = none ∧ (s.core 0).health.clockStop = false ∧
    ((s.core 0).task.all s.gridStopped) = true ∧ s.slotFor 0 = none ∧ (stopped 1).slotFor 0 = some 0 := by decide +kernel

theorem witness_RecallAndPowerStepsComplete_image : let s := stopped 1
    okay ((s.gridNumber task0).2.writeImage 0 ((s.gridNumber task0).2.mkSave 0 task0 .checkpoint 0 (s.gridNumber task0).1)) =
      true := by decide +kernel

theorem witness_RecallAndPowerStepsComplete_written : ((on fun k => { k with saving := some 3 }).core 0).saving = some 3 ∧
    ([.freezing, .unhandled, .discarding] : List SeqMode).all (fun m =>
      let s := onSeq fun q => { q with mode := m }
      (s.core 0).saving.isNone && ((s.core 0).seq.mode == m) && (s.core 0).frozen && (s.core 0).discarded) = true := by
  decide +kernel

/-- A saved task with a thread whose remote atomic is on its way, and a sequencer with another. -/
def remoteSaved : Thread :=
  { plain with pend := [{ dst := 9, n := 1, res := .remote 5 false 0 default, fl := 0, win := 0, arrived := false, release := [] }] }

def save0 : Save :=
  { ctx := 0, slot := 0, kind := .freeze, unhandled := false, task := task0,
    seq := { core0.seq with remote := .flight 6 }, blocks := [], data := [], dq := Vector.replicate 16 {}, ops := [],
    cmds := [], teams := [team0], threads := [(slotIx 31 3, remoteSaved)], rpend := 2, rfaults := [], partcores := 4,
    coop := 0, wait := none }

def saved0 : State := { on (fun k => { k with task := none, placing := some (.resume 0 0) }) with saves := [save0] }

theorem witness_RecallAndPowerStepsComplete_resume : (saved0.core 0).placing = some (.resume 0 0) ∧
    saved0.save? 0 0 = some save0 ∧ save0.answer 31 3 5 (some 7) ≠ save0 ∧ save0.answer 31 3 5 none ≠ save0 ∧
    save0.answer 128 0 6 (some 7) ≠ save0 ∧ save0.answer 31 3 6 (some 7) = save0 := by decide +kernel

/-- Whether the boot ROM's check passes is a free value; `POWER_UP` is stated for both. -/
theorem witness_RecallAndPowerStepsComplete :
    (let hot : State := on fun k => { k with health := { k.health with temp := 105 } }
     105 ≤ (hot.core 0).health.temp ∧ (hot.core 0).health.clockStop = false ∧ hot.pressed 0 = false) ∧
    (let s := State.reset.setRc { State.reset.rc with posts := State.reset.rc.posts.set 0 (some post0) }
     let s := s.setCore 0 { core0 with claim := some claim0, health := { core0.health with temp := 105 } }
     105 ≤ (s.core 0).health.temp ∧ s.pressed 0 = true) ∧
    ((on fun k => { k with health := { k.health with temp := 95 } }).core 0).health.temp ≤ 95 ∧
    (95 : Int) ≤ 95 ∧ (88 : Int) < 89 ∧ (94 : Int) < 95 ∧ (88 : Int) ≤ 88 ∧ (State.reset.core 0).health.droops = [] ∧
    (lanes { plain with wait := .debug }).thread 0 0 0 = some { plain with wait := .debug } ∧
    State.reset.boot.st = .off := by decide +kernel

/-! ### Claims, escalations and saves, case by case -/

/-- A core of a post: vacant, or with a task whose node may run again or not, in each mode. -/
def claimed (vacant restartable : Bool) (m : SeqMode) : State :=
  on fun k => { k with
    task := some { task0 with rcd := { task0.rcd with restartable := restartable } },
    claim := some { claim0 with vacant := vacant }, seq := { k.seq with mode := m } }

theorem witness_RecallAndPowerStepsComplete_escalate :
    ([.run, .unhandled, .discarding, .freezing] : List SeqMode).all (fun m =>
      [true, false].all fun v => [true, false].all fun r =>
        ((claimed v r m).core 0).task.isSome && ((claimed v r m).core 0).claim.any (fun cl => cl.vacant == v) &&
          (((claimed v r m).core 0).seq.mode == m)) = true ∧
    [true, false].all (fun r =>
      let s := claimed false r .run
      s.decision [0] 2000 == (if s.decision [0] 2000 = .complete then .complete else if r then .discard else .freeze)) =
        true := by decide +kernel

/-- The statuses of a post: eight posts stand; a core is claimed; an earlier deadline; no room. -/
theorem witness_RecallAndPowerStepsComplete_status : let s := recalled 0
    let full := s.setRc { s.rc with posts := Vector.replicate 8 (some { post0 with dl := none }) }
    let early := s.setRc { s.rc with posts := s.rc.posts.set 0 (some post0) }
    let tight (slots : W32) := s.updCore 252 fun k => { k with
      task := some { task0 with regs := { task0.regs with saveslots := slots } } }
    8 ≤ full.rc.activePosts.length ∧ 252 ∉ s.claimedCores ∧
    ((s.updCore 252 fun k => { k with claim := some claim0 }).claimedCores.contains 252 ||
      (s.setRc { s.rc with posts := s.rc.posts.set 0 (some { post0 with cores := [252] }) }).claimedCores.contains 252) = true ∧
    (early.rc.activePosts.any fun p =>
      match p.2.dl with
      | some d => decide (d < early.ticks + early.eFreeze [252])
      | none => false) = true ∧
    (tight 0).noSaveSpace [252] = true ∧ s.badSet [252] = false ∧ s.badSet [0] = true ∧ wholeClusters [252] = false ∧
    wholeClusters [252, 253, 254, 255] = true := by decide +kernel

/-- A frozen core with a slot, without one, with one whose place is not mapped; its poisoned block. -/
def frozen0 (m : SeqMode) (slots : W32) (base : W64) : State :=
  paged [] (on fun k => { k with
    task := some { task0 with regs := { task0.regs with saveslots := slots, savebase := base } },
    seq := { k.seq with mode := m }, mem := { k.mem with poison := [8] } })

theorem witness_RecallAndPowerStepsComplete_frozen :
    ([.freezing, .unhandled] : List SeqMode).all (fun m =>
      ((frozen0 m 0 0).core 0).frozen && (frozen0 m 0 0).slotFor 0 == none && (frozen0 m 1 0).slotFor 0 == some 0) = true ∧
    (let write (s : State) (blocks : List Nat) : Bool :=
       okay (s.writeImage 0 { s.mkSave 0 ((s.core 0).task.getD task0) .freeze 0 0 with blocks := blocks })
     write (frozen0 .freezing 1 0x80000) [] = false ∧
       ((frozen0 .freezing 1 0).core 0).mem.blockPoisoned 1 = true) := by decide +kernel

theorem witness_RecallAndPowerStepsComplete_poisoned : let s := frozen0 .freezing 1 0
    okay (s.writeImage 0 { s.mkSave 0 ((s.core 0).task.getD task0) .freeze 0 0 with blocks := [1] }) = false := by decide +kernel

/-- A claim whose post has ended, with a stop due, hot and cool. -/
theorem witness_RecallAndPowerStepsComplete_due :
    [95, 96].all (fun t =>
      let s := on fun k => { k with claim := some claim0, health := { k.health with stopDue := true, temp := t } }
      (s.core 0).claim == some claim0 && (s.core 0).health.stopDue && (s.rc.posts[claim0.slot] == none)) = true ∧
    (on id).ctx? 0x80000000 = none ∧ (0x80000000 : W32) ≠ 0 ∧ ((on id).queue 63).ctx = 0 := by decide +kernel

end Sys2Proof.Tests
end

