-- ==== Sys2Proof/Tests/Witness7.lean ====
section
/-! SUPPORT. For the statements about the host port, the fabric ports and partitions, a state that meets their hypotheses,
clause by clause. What a signature or a migration image is, and where the operator is, are free values: the clauses of
`HostRequestsComplete` on `MIGRATE_OUT`, `MIGRATE_IN` and an operator's address have no closed witness. -/

namespace Sys2Proof.Tests

open Sys2Proof Sys2Proof.Machine

set_option Elab.async false

theorem answers_of {o : Out} (h : (after o fun _ => true) = true) : ∃ t, o = .next t := by
  cases o with
  | next t => exact ⟨t, rfl⟩
  | fault _ => cases h
  | refused _ => cases h

/-! ### Host requests -/

def session1 (ctx : Option W32) : Session :=
  { num := 1, ctx := ctx, next := 1, kept := [], heldReq := [], evq := [], events := [], evNext := 1, lost := 0, busy := false,
    peer := 9, peerPort := 10 }

def msg (typ : Byte) (addr : W64) (arg : W32) (body : List Byte) : YhtMsg :=
  { version := 1, typ := typ, fl := 0, session := 1, psn := 1, ackpsn := 0, addr := addr, length := BitVec.ofNat 16 body.length,
    status := 0, arg := arg, payload := body, srcAddr := 9, srcPort := 10 }

/-- A port that is up, a session of context 0 and an operator session. -/
def hosted (s : State) : State :=
  s.setHost { s.host with up := true, sessions := [session1 (some 0), { session1 none with num := 2 }], nextSession := 3 }

def mapped : State := hosted (paged [] (on id))

theorem witness_HostRequestsComplete_in : let m := msg 1 0 0 [1]
    HostIn m (session1 (some 0)) mapped ∧ (∀ y ∈ (session1 (some 0)).heldReq, y.psn ≠ m.psn) ∧
    ([msg 1 0 0 [1], msg 2 0 8192 [], msg 3 63 1 [0, 0, 0, 0], msg 5 3 0 []].all fun m =>
      !m.badRequest (mapped.boot.st == .recovery)) = true :=
  ⟨⟨by decide +kernel, by decide +kernel, by decide +kernel, by decide +kernel, by decide +kernel⟩, by decide +kernel,
    by decide +kernel⟩

theorem witness_HostRequestsComplete_idle : State.reset.host.partWaits = [] ∧
    (∀ x, mapped.session? 1 = some x → ∀ m ∈ x.heldReq, m.psn ≠ x.next) :=
  ⟨rfl, fun x hx => by
    have : x = session1 (some 0) := (Option.some.inj (hx.symm.trans rfl))
    subst this
    decide +kernel⟩

/-- The last bytes of the mapped page. -/
theorem witness_HostRequestsComplete_memory : mapped.sessionCtx 1 = some 0 ∧
    okay (mapped.hostPieces (some 0) .write 0xFFF0 16) = true ∧ okay (hostBytes (some 0) 0xFFF0 16 mapped) = true ∧
    okay (kickRead 0 0xFFF0 16 mapped) = true ∧ okay (kickRead 0 (2 ^ 52 - 15) 16 mapped) = false ∧
    okay (mapped.hostPieces (some 0) .write 0xFFF1 16) = false := by decide +kernel

/-- A kick of queue 63, which is full, that names no new record: their CRC is 0. -/
def kick0 (crc : Nat) (attempt : Nat) : KickWait := { msg := msg 3 63 1 (leBytes 4 crc), q := 63, n := 0, attempt := attempt, atCyc := 0 }

def kicked (crc attempt : Nat) : State :=
  let s := mapped.updQueue 63 fun q => { q with size := 2, head := 0xFFFFFFFF, tail := 1 }
  { s.setHost { s.host with kicks := [kick0 crc attempt] } with now := 3400 }

theorem witness_HostRequestsComplete_kick : let s := kicked 0 0
    let k := kick0 0 0
    (s.host.kicks.find? fun y => y.q == k.q) = some k ∧ k.attempt = 0 ∧ (kickTry k 0 s).isSome = true ∧ kickRefused k 0 s = none ∧
    s.sessionCtx k.msg.session = some (s.queue k.q).ctx ∧
    (k.msg.arg - (s.queue k.q).tail).toNat + (s.queue k.q).records = (s.queue k.q).size.toNat ∧
    (match kickBytes (s.queue k.q) k.msg.arg 0 s with
      | .ok bs => (crc32c bs).toNat == ofBytes k.msg.payload
      | .error _ => false) = true ∧
    (let x := { s.queue 63 with tail := 0 }
     okay (kickBytes x k.msg.arg 1 s) = true) := by decide +kernel

/-- A request of each kind with a body of its length, by the context's session or an operator's. -/
theorem witness_HostRequestsComplete_mgmt :
    ([1, 2, 3, 4, 5, 6, 7, 9, 10, 11, 14] : List Nat).all (fun op =>
      let m := msg 5 (BitVec.ofNat 64 op) 0 (List.replicate ((bodyLength op).getD 0) 0)
      (m.typ == 5) && (m.addr.toNat == op) && (bodyLength op == some m.payload.length) && !m.badRequest false) = true ∧
    ([8, 12, 13] : List Nat).all (fun op =>
      let m := msg 5 (BitVec.ofNat 64 op) 0 (List.replicate ((bodyLength op).getD 0) 0)
      (bodyLength op == some m.payload.length) && isOperator (session1 none) && !m.badRequest false) = true ∧
    (0 : W32) ≠ BitVec.allOnes 32 ∧ (mapped.ctx? 0).isSome = true ∧ mayName (session1 (some 0)) 0 = true ∧
    mayName (session1 none) 0xF000000F = true ∧ mapped.session? 2 = some { session1 none with num := 2 } ∧
    isOperator { session1 none with num := 2 } = true ∧ mapped.session? 1 = some (session1 (some 0)) := by decide +kernel

/-- The first and the last register of a queue that belongs to the context, one of another, and a write that is taken. -/
theorem witness_HostRequestsComplete_registers : let x := session1 (some 0)
    regDenied x mapped 0 = false ∧ regDenied x mapped 0x1FFF = false ∧
    (mapped.regWrite 0x00 0x10000).isSome = true ∧
    regDenied x (mapped.updQueue 0 fun q => { q with ctx := 1 }) 0 = true := by decide +kernel

theorem witness_HostRequestsComplete_context :
    okay (hostBytes (some 0) 0xFFC0 16 mapped) = true ∧ okay (hostBytes (some 0) 0xFFC0 64 mapped) = true ∧
    ((msg 5 7 1 (List.replicate 32 0)).arg.toNat ≤ 1) ∧ (mapped.ctx? (BitVec.ofNat 32 0)).isSome = true ∧
    (let s := mapped.updCore 255 fun k => { k with fb := [fb0 { key0 with cause := 4, access := 2 }] }
     ((s.core 255).fb.any fun e => e.key == { ctx := 0, page := 1, cause := 4, access := 2 }) = true) ∧
    mapped.freeContext 0 = some 1 ∧ mapped.freeContext 15 = some 0xF0000000 ∧ (session1 (some 0)).ctx = some 0 ∧
    ((on fun k => { k with task := none }).atRest 0 = true) := by decide +kernel

/-- Clusters 0 and 63 and a range up to the end of device memory, next to another partition's; the same for itself. -/
theorem witness_HostRequestsComplete_partition :
    (let s := State.reset.updPart 1 fun p => { p with clusters := 2, carve := p.carve.set 0 (0, 2 ^ 25) }
     s.partitionOk 0 (2 ^ 63 + 1) [(hbmSize - 2 ^ 25, 2 ^ 25), (2 ^ 25, 2 ^ 25)] = true ∧
     s.partitionOk 0 2 [] = false ∧ s.partitionOk 0 0 [(0, 2 ^ 25)] = false ∧ s.partitionOk 1 2 [(0, 2 ^ 25)] = true ∧
     granulesLeft ((s.part 0).removing) [] = [] ∧ s.contextsOf 0 = []) := by decide +kernel

theorem witness_HostRequestsComplete :
    (let s : State := hosted { State.reset with boot := { State.reset.boot with st := .recovery } }
     let m := { msg 6 0 4 [1, 2] with session := 0 }
     s.host.up = true ∧ m.typ = 6 ∧ m.resp = false ∧ m.session = 0 ∧ m.psn ≠ 0 ∧ s.boot.st = .recovery ∧
       s.host.kept0.find? (fun k => k.1 == (m.srcAddr, m.srcPort, m.psn)) = none ∧ m.badRequest true = false) ∧
    (let m := { msg 7 0 0 [] with psn := 0 }
     mapped.host.up = true ∧ m.typ = 7 ∧ m.goodAck = true) := by decide +kernel

/-! ### Ports -/

def event0 : Event := { code := 1, queue := 0, count := 1, nodeid := 0, time := 0, body := List.replicate 32 0 }

/-- An event to send; one sent and not acknowledged for 50 µs, once or 32 times. -/
theorem witness_PortsAndFabricComplete_events :
    (let s := mapped.updSession 1 fun x => { x with evq := [event0] }
     (s.session? 1).any (fun x => x.evq == [event0]) = true) ∧
    ([1, 31, 32].all fun n =>
      let s : State := { mapped.updSession 1 fun x => { x with events := [(msg 4 1 1 [], n, 5)] } with now := 85005 }
      (s.session? 1).any fun x => (x.events.find? fun e => decide (e.2.2 + 85000 ≤ s.now)) == some (msg 4 1 1 [], n, 5)) =
        true ∧
    (let s := kicked 1 7
     (s.host.kicks.find? fun y => y.q == 63) = some (kick0 1 7) ∧ 0 + 3400 ≤ s.now ∧ (7 : Nat) < 8 ∧
       kickTry (kick0 1 7) 0 s = none ∧ s.host.partWaits = []) := by decide +kernel

/-- The link-local address is a free value; the port answers for it and for `HPADDR`. -/
theorem witness_PortsAndFabricComplete_address : (hosted State.reset).hostAddress linkLocal = true ∧
    (let s := hosted { State.reset with boot := { State.reset.boot with st := .up } }
     (s.setHost { s.host with hpaddr := 5 }).hostAddress 5 = true) := by
  constructor <;> simp [State.hostAddress, hosted, State.setHost]

/-- Port 7 is up; this is device 3, and partition 0 serves the fabric with context 0. -/
def fabric (f : List YttFlow) (low : Memory) (s : State) : State :=
  let s := (paged low s).updPart 0 fun p => { p with yttctx := 0 }
  { s with ytt := { s.ytt with devid := 3, ports := s.ytt.ports.set 7 true, flows := f } }

def frame (typ : Byte) (addr : W64) (rows rlen : Nat) (arg : W32) (body : List Byte) : YttFrame :=
  { version := 1, typ := typ, fl := 0, src := 4, dst := 3, flow := 9, seq := 0, cmd := 0, addr := addr,
    length := BitVec.ofNat 16 body.length, rows := BitVec.ofNat 16 rows, rlen := BitVec.ofNat 16 rlen, status := 0,
    pitch := 64, arg := arg, payload := body }

theorem frameIn_of (typ : Byte) (m : YttFrame) (s : State) (h : ((s.ytt.portFor m.dst m.flow).isSome && yttGood m &&
    (m.typ == typ) && (m.dst.extractLsb' 0 21 == s.ytt.devid.extractLsb' 0 21)) = true) : FrameIn typ m s := by
  simp only [Bool.and_eq_true, beq_iff_eq] at h
  exact ⟨Option.isSome_iff_exists.mp h.1.1.1, h.1.1.2, h.1.2, h.2⟩

/-- Two rows that end with the mapped page; two that go beyond it. -/
theorem witness_PortsAndFabricComplete_putGet :
    (let s := fabric [] [] (on id)
     let m := frame 1 0xFFB0 2 16 0 (List.replicate 32 1)
     FrameIn 1 m s ∧ m.seq ∉ (s.theirFlow m).accepted ∧ okay (s.yttPieces m .write (yttRows m)) = true ∧
       okay (s.yttPieces m .write (yttRows { m with addr := 0xFFC0 })) = false) ∧
    (let s := fabric [] [] (on id)
     let m := frame 2 0xFFB0 2 16 0 []
     FrameIn 2 m s ∧ m.seq ∉ (s.theirFlow m).accepted ∧
       okay (({ s with ytt := s.ytt.setFlow (s.theirFlow m) } : State).yttPieces m .read (yttRows m)) = true) :=
  ⟨⟨frameIn_of _ _ _ (by decide +kernel), by decide +kernel, by decide +kernel, by decide +kernel⟩,
    frameIn_of _ _ _ (by decide +kernel), by decide +kernel, by decide +kernel⟩

theorem witness_PortsAndFabricComplete_atomic : let s := fabric [] [] (on id)
    let m := frame 4 0xFFF8 0 0 0x12 (List.replicate 16 1)
    FrameIn 4 m s ∧ m.seq ∉ (s.theirFlow m).accepted ∧
    (match ({ s with ytt := s.ytt.setFlow (s.theirFlow m) } : State).yttPieces m .atomic [(0xFFF8, 8)] with
      | .ok x => !x.2.any (piecesPoisoned s)
      | .error _ => false) = true :=
  ⟨frameIn_of _ _ _ (by decide +kernel), by decide +kernel, by decide +kernel⟩

def flow0 (job : Option YttJob) (out : List YttOut) : YttFlow :=
  { flow := 9, peer := 4, ours := true, job := job, seq := 1, out := out, accepted := [], kept := [], rows := 0 }

def pullR : Cmd := { cmd8 .pull with addr := 0x4000, pitch := 64 }

def fabricOf (job : YttJob) (s : State) : State := fabric [flow0 (some job) []] [] s

/-- The last two rows of a pull; answers to atomics of the sequencer and of a thread; a refusal of the pull. -/
theorem witness_PortsAndFabricComplete_answers :
    (let s := fabricOf (.cmd 0 0) (retr pullR [])
     let m := frame 3 (0x4000 + 6 * 64) 2 32 0 (List.replicate 64 1)
     FrameIn 3 m s ∧ s.ytt.flow? m.flow true m.src = some (flow0 (some (.cmd 0 0)) []) ∧ m.seq ∉ ([] : List W32) ∧
       (s.core 0).cmd? 0 = some pullR ∧ (s.core 0).moving = true ∧ pullR.kind = .pull ∧ pullR.st = .running ∧
       dataRows (Desc.of pullR.dst) pullR m = some (6, 2) ∧ pullR.dev = false) ∧
    (let s := fabricOf (.seqAtomic 0) (onSeq fun q => { q with remote := .flight 9 })
     let m := frame 5 0 0 0 0 (List.replicate 8 1)
     FrameIn 5 m s ∧ (s.core 0).health.clockStop = false ∧ (s.core 0).seq.remote = .flight 9) ∧
    (let s := fabricOf (.laneAtomic 0 0 0) (lanes remoteSaved)
     FrameIn 5 (frame 5 0 0 0 0 (List.replicate 8 1)) s ∧ (s.core 0).health.clockStop = false) ∧
    (let s := fabricOf (.cmd 0 0) (retr pullR [])
     FrameIn 7 { frame 7 0 0 0 0 [] with status := 1 } s ∧
       (s.jobAnswer (flow0 (some (.cmd 0 0)) []) (.failed .remoteFault)).isSome = true) :=
  ⟨⟨frameIn_of _ _ _ (by decide +kernel), by decide +kernel, by decide +kernel, by decide +kernel, by decide +kernel,
      by decide +kernel, by decide +kernel, by decide +kernel, by decide +kernel⟩,
    ⟨frameIn_of _ _ _ (by decide +kernel), by decide +kernel, by decide +kernel⟩,
    ⟨frameIn_of _ _ _ (by decide +kernel), by decide +kernel⟩, frameIn_of _ _ _ (by decide +kernel), by decide +kernel⟩

def out0 (sends : Nat) : YttOut := { f := frame 1 0x4000 1 16 0 (List.replicate 16 1), sends := sends, last := 0 }

/-- A frame to be acknowledged; one whose timeout has just passed, before and at the last retry. -/
theorem witness_PortsAndFabricComplete :
    (let s := fabric [flow0 none [out0 1]] [] (on id)
     let m := frame 6 0 0 0 1 (List.replicate 32 0)
     FrameIn 6 m s ∧ s.ytt.flow? 9 true 4 = some (flow0 none [out0 1]) ∧ ackCovers m 0 = true) ∧
    ([1, 15, 16].all fun n =>
      let s : State := { fabric [flow0 none [out0 n]] [] (on id) with now := 17 * 2000 }
      (s.ytt.overdue 9 0 s.ticks == [(flow0 none [out0 n], out0 n)]) &&
        (decide (s.ytt.retry.toNat ≤ n) == decide (16 ≤ n))) = true :=
  ⟨⟨frameIn_of _ _ _ (by decide +kernel), by decide +kernel, by decide +kernel⟩, by decide +kernel⟩

/-- Two frames of the same numbers, on a flow of ours and on one of the peer, are overdue; one cycle before, none is. -/
theorem witness_PortsAndFabricComplete_overdue :
    (let f := flow0 none [out0 1]
     let g : YttFlow := { f with ours := false }
     let s : State := { fabric [f, g] [] (on id) with now := 17 * 2000 }
     s.ytt.overdue 9 0 s.ticks = [(f, out0 1), (g, out0 1)] ∧ s.ytt.overdue 9 0 (s.ticks - 1) = [] ∧
       s.ytt.flow? f.flow f.ours f.peer = some f ∧ s.ytt.flow? 9 false 4 = some g ∧
       (s.ytt.portFor 3 9).isSome = true) := by decide +kernel

/-- A PUSH whose frame is acknowledged; a command that has stopped, so that no answer is taken yet; one that is gone. -/
theorem witness_PortsAndFabricComplete_jobs :
    (let m := { cmd8 .push with addr := 0x4000, pitch := 64 }
     let s := paged [] (retr m [])
     let o : YttOut := { out0 1 with f := frame 1 0x4000 8 32 0 [] }
     (s.core 0).cmd? 0 = some m ∧ (s.core 0).moving = true ∧ m.st = .running ∧ o.f.typ = 1 ∧
       dataRows (Desc.of m.src) m o.f = some (0, 8) ∧
       (match cmdBarrier 0 m s with
         | .at _ => true
         | _ => false) = true) ∧
    (let s := fabricOf (.cmd 0 0) ((retr pullR []).updCore 0 fun k => { k with health := { k.health with clockStop := true } })
     (s.jobAnswer (flow0 (some (.cmd 0 0)) []) (.failed .remoteUnreachable)).isNone = true) ∧
    (let s := fabricOf (.cmd 0 0) (retr pullR [])
     (s.jobAnswer (flow0 (some (.cmd 0 0)) []) (.failed .remoteUnreachable)).isSome = true ∧
       (s.core 0).cmd? 0 = some pullR ∧ (s.core 0).moving = true ∧ pullR.st = .running) ∧
    (lanes remoteSaved).thread 0 0 0 = some remoteSaved ∧
    (match remoteSaved.pend[0]? with
      | some p => p.n == 1 && (p.res == LRes.remote 5 false 0 default)
      | none => false) = true := by decide +kernel

/-- A frame that was accepted before, of each kind; an ATOMIC whose answer is kept; a refusal that is on its way. -/
theorem witness_PortsAndFabricComplete_again :
    ([1, 2, 4] : List Byte).all (fun typ =>
      let m := frame typ 0xFFF0 0 0 0x12 []
      let f : YttFlow := { flow0 none [] with ours := false, accepted := [0, 0xFFFFFFFF], kept := [(0, frame 5 0 0 0 0 [])] }
      let s := fabric [f] [] (on id)
      (s.theirFlow m == f) && f.accepted.contains m.seq && (m.typ == typ)) = true ∧
    (let m := frame 1 0xFFC0 2 16 0 []
     let f : YttFlow := { flow0 none [{ out0 1 with f := { frame 7 0 0 0 0 [] with arg := m.seq } }] with ours := false }
     let s := fabric [f] [] (on id)
     ((s.theirFlow m).out.any fun o => o.f.typ == 7 && o.f.arg == m.seq) = true ∧
       ((s.theirFlow { m with seq := 1 }).out.any fun o => o.f.typ == 7 && o.f.arg == (1 : W32)) = false) := by
  decide +kernel

theorem witness_PortsAndFabricComplete_refused : let s := fabric [] [] (on id)
    let m := frame 2 0xFFC0 2 16 0 []
    FrameIn 2 m s ∧ m.seq ∉ (s.theirFlow m).accepted ∧
      okay (({ s with ytt := s.ytt.setFlow (s.theirFlow m) } : State).yttPieces m .read (yttRows m)) = false :=
  ⟨frameIn_of _ _ _ (by decide +kernel), by decide +kernel, by decide +kernel⟩

/-! ### Steps -/

/-- Reset has the form of the memories, and so has a state whose memories hold their last bytes. -/
theorem witness_PartitionsStayApart_memories : memoriesWf State.reset = true ∧
    memoriesWf (mapped.kwrite 255 (kennelSize - 1) [1]) = true := by decide +kernel


/-- Reset keeps partitions apart, and a step from it answers. -/
theorem witness_PartitionsStayApart : PartitionsApart State.reset ∧ ∃ t, step State.reset = .next t := by
  refine ⟨?_, ?_⟩
  · have h : ((List.finRange 16).all fun p => ((State.reset.part p).clusters == 0) && (State.reset.part p).ranges.isEmpty) =
        true := by decide +kernel
    intro p q _
    have hp := List.all_eq_true.mp h p (List.mem_finRange p)
    simp only [Bool.and_eq_true, beq_iff_eq, List.isEmpty_iff] at hp
    rw [hp.1, hp.2]
    simp
  · exact answers_of (by decide +kernel)

/-! ### More of the host's requests -/

/-- A later attempt that fits in time; a kick of another context's queue, of too many records, and of as many as fit; the
last attempt that finds another CRC. -/
theorem witness_HostRequestsComplete_kicks :
    (let s := kicked 1 8
     (s.host.kicks.find? fun y => y.q == 63) = some (kick0 1 8) ∧ (kick0 1 8).atCyc + 3400 ≤ s.now ∧
       kickTry (kick0 1 8) 0 s = none) ∧
    (let s := kicked 0 0
     kickRefused (kick0 0 0) 0 (s.updQueue 63 fun q => { q with ctx := 1 }) = some 5 ∧
       (s.queue 63).size.toNat < 1 + (s.queue 63).records ∧ (s.queue 63).size.toNat ≤ 0 + (s.queue 63).records ∧
       kickRefused (kick0 0 0) 1 s = some 6 ∧ kickRefused (kick0 0 0) 0 s = none) ∧
    (match kickBytes { (kicked 0 0).queue 63 with base := 0x10000 } 1 1 (kicked 0 0) with
      | .ok _ => false
      | .error _ => true) = true := by decide +kernel

/-- The first address above the address space; the last range below it, mapped by no table; a header that is none; an
event list with one place left. -/
theorem witness_HostRequestsComplete_bounds :
    okay (mapped.xlateRange 0 .write (2 ^ 52 - 16) 16) = false ∧ okay (mapped.xlateRange 0 .read 0xFFF0 16) = true ∧
    headerOk (List.replicate 64 0) = false ∧ okay (hostBytes (some 0) 0xFFC0 64 mapped) = true ∧
    (let y : Session := { session1 none with evq := List.replicate 1023 event0 }
     1024 - (y.evq.length + y.events.length) = 1) ∧
    mapped.host.sessions.length + 1 < 2 ^ 32 ∧ mapped.session? 3 = none := by decide +kernel

end Sys2Proof.Tests
end

