-- ==== Sys2Proof/Tests/Witness8.lean ====
section
/-! SUPPORT. Witnesses of clauses about bytes that move in parts, accesses that act late, poison of a core's arrays, saved
grids, and answers to saved threads. -/

namespace Sys2Proof.Tests

open Sys2Proof Sys2Proof.Machine

/-- The state whose next choices are these. -/
def choosing (l : List Nat) (s : State) : State := s.setSched { s.sched with choices := l }

/-! ### Poison -/

/-- The last pair of registers of a thread; a word of tile code, and of lane code; a load through the L1. -/
theorem witness_TranslationAndMemoryEvents_poison :
    (let th : Thread := { plain with poison := 1#32 <<< 31, full := BitVec.allOnes 64 }
     th.readsPoison [63] = true ∧ th.readsPoison [62] = true ∧ th.readsPoison [61, 0] = false ∧
       (th.mend 62 2).readsPoison [63] = false ∧ (th.mend 63 1).readsPoison [63] = true) ∧
    (let s := on fun k => { k with mem := { k.mem with overlays := [⟨[], List.replicate 8 0⟩], codePoison := [([], 7)] } }
     (s.core 0).mem.codePoisoned 7 = true ∧ (s.core 0).mem.codePoisoned 6 = false) ∧
    (let s := on fun k => { k with mem := { k.mem with l1Poison := [0x20008 / 8] } }
     poisonHit 8 (s.core 0).mem.l1Poison 0x20008 8 = true ∧ poisonHit 8 (s.core 0).mem.l1Poison 0x20000 8 = false ∧
       (s.readPoison 0 0x20008 8).1 = true ∧ ((choosing [1] s).readPoison 0 0x20008 8).1 = false) := by decide +kernel

/-- A collective whose mask, or whose source, lies in a poisoned word. -/
theorem witness_CollectivesArrive_poison : let th : Thread := { plain with poison := 2 }
    th.isFull 2 = true ∧ th.readsPoison [2] = true ∧ th.readsPoison [1] = false ∧
    th.readsPoison (CollIns.ins redIns).sources = true ∧ (lanes th).threadOf t00 = some th := by decide +kernel

/-- A handler's frame is written from v0 to v3. -/
theorem witness_LaneTrapsAndHandler_poison :
    ({ plain with poison := 2 } : Thread).readsPoison [0, 1, 2, 3] = true ∧
    ({ plain with poison := 4 } : Thread).readsPoison [0, 1, 2, 3] = false := by decide +kernel

/-! ### Accesses that act late -/

/-- An exchange of the last Kennel word; of a word that a store of its own agent still covers in part. -/
def rmw0 (sc : Scope) : Rmw := { op := .xchg, x := 5, cmp := 0, scope := sc, pidx := 0, replay := false, team := none }

def inL1 (p : PStore) : State := on fun k => { k with lstores := [p] }

theorem witness_SequencerAtomics_late :
    (let s := on id
     memoriesWf s = true ∧ (s.core 0).kstores = [] ∧ 0xFFFF8 + 8 ≤ 0x100000 ∧ s.sched.choices = [] ∧ s.dev.held = []) ∧
    (let s := inL1 (store0 0 0x10004 [1, 2, 3, 4])
     memoriesWf s = true ∧ ((s.core 0).lstores.any fun p => p.overlaps 0x10000 8) = true ∧
       (rmw0 .cluster).scope = .cluster) := by decide +kernel

/-- A store that has not reached the L1 and follows none of its agent; one that does. -/
theorem witness_StoresReachMemoryAndReadBack_l1 : let p := store0 0 (hbmSize - 4) [1, 2]
    let q := store0 0 (hbmSize - 3) [3]
    let s := on fun k => { k with lstores := [p, q] }
    (s.core 0).lstores[0]? = some p ∧
      (((s.core 0).lstores.take 0).any fun x => x.agent == p.agent && x.overlaps p.pa 2) = false ∧
      (s.core 0).lstores[1]? = some q ∧
      (((s.core 0).lstores.take 1).any fun x => x.agent == q.agent && x.overlaps q.pa 1) = true ∧
      (s.core 0).ownAt (some .seq) (hbmSize - 3) = some 1 ∧ (s.core 0).ownAt (some (.thread 0 0)) (hbmSize - 3) = none := by
  decide +kernel

/-- A byte with an older value that no floor rules out; with a pending store that the reader must see. -/
theorem witness_StoresReachMemoryAndReadBack_places :
    (let s := { on id with dev := { State.reset.dev with old := [⟨7, 1, 3, 256, 3, none⟩], stamp := 3 } }
     (s.places 0 (some .seq) {} 7).length = 2 ∧ (s.places 0 (some .seq) {} 8).length = 1 ∧
       (s.places 0 (some .seq) { acq := 3 } 7).length = 1) ∧
    (let s := on fun k => { k with stores := [store0 1 7 [9]], nextStore := 2 }
     s.places 0 (some .seq) {} 7 = [.pend 1] ∧ (s.places 0 (some (.thread 0 0)) {} 7).length = 2 ∧
       s.places 0 (some (.thread 0 0)) { core := 1 } 7 = [.pend 1]) := by decide +kernel

/-! ### Bytes in parts -/

/-- The last row of a copy of which two bytes are read and one is written; a row that is not under way, for each choice. -/
def halfRow : Cmd :=
  { cmd8 .cpyKk with
    part := [{ piece := 7, got := [some 1, some 2] ++ List.replicate 30 none, left := (List.range 32).drop 1 }] }

theorem witness_RetrieverPiecesLand_parts :
    (let p := halfRow.landingOf 7 32
     p.got.length = 32 ∧ (p.left.all fun j => decide (j < 32)) = true ∧ p.left ≠ [] ∧ p.got.any Option.isNone = true ∧
       halfRow.whole 7 0 = false ∧ halfRow.whole 6 0 = true ∧ halfRow.whole 6 1 = false ∧ landable halfRow 7 = true) ∧
    ((choosing [2] (retr halfRow [])).choice.1 = 2) ∧ memoriesWf (retr halfRow []) = true := by decide +kernel

/-- The barrier of a command is poisoned: for its subtraction and for its add-back. -/
theorem witness_RetrieverPiecesLand_poisoned :
    let s := (retr (cmd8 .cpyKk) []).updCore 0 fun k => { k with mem := { k.mem with poison := [0xFFFF0 / 8] } }
    s.barPoisoned (.kennel 0 0xFFFF0) = true ∧ (s.core 0).kpoisoned 0xFFFF0 16 = true ∧
    (retr (cmd8 .cpyKk) []).barPoisoned (.kennel 0 0xFFFF0) = false := by decide +kernel

/-- A `PULL` whose row is under way; a `PUSH` whose first frame is read in parts. -/
theorem witness_RetrieverPiecesLand_pullPush :
    (let m : Cmd := { cmd8 .pull with part := [{ piece := 7, got := List.replicate 32 (some 1), left := [31] }] }
     (m.part.any fun p => p.piece == 7) = true ∧ (m.part.any fun p => p.piece == 6) = false ∧ 7 ∈ m.pieces) ∧
    (let m := cmd8 .push
     let d := Desc.of m.src
     8192 / d.rbytes * m.frames < d.rows ∧ Nat.min (8192 / d.rbytes) (d.rows - 8192 / d.rbytes * m.frames) = 8 ∧
       m.whole (256 + m.frames) 0 = true ∧ m.whole (256 + m.frames) 3 = false) := by decide +kernel

/-- A host's write and read go on in parts, and end with the last byte. -/
theorem witness_HostRequestsComplete_parts :
    (match mapped.hostPieces (some 0) .write 0xFFF0 16 with
      | .ok ps =>
        let r := mapped.writeOn 0 ps (List.replicate 16 7) 1 []
        let u := r.2.writeOn 0 ps (List.replicate 16 7) 0 r.1
        r.1 == some 7 :: List.replicate 15 none && u.1.all Option.isSome &&
          (u.2.readOn ps 0x8000 []).1 == List.replicate 15 none ++ [some 7]
      | .error _ => false) = true ∧ (choosing [1] mapped).choice.1 ≠ 0 := by decide +kernel

/-- A register write that names the context of another session; the event route of session 0. -/
theorem witness_HostRequestsComplete_denied :
    writeDenied (session1 (some 0)) mapped 0x40 1 = true ∧ writeDenied (session1 (some 0)) mapped 0x40 0 = false ∧
    regDenied (session1 (some 0)) mapped 0x40 = false ∧ mapped.session? 0 = none := by decide +kernel

/-- A PUT, a GET and a DATA in parts, the first of them under way. -/
theorem witness_PortsAndFabricComplete_parts :
    (let s := fabric [] [] (on id)
     let m := frame 1 0xFFB0 2 16 0 (List.replicate 32 1)
     (s.theirFlow m).partOf m.seq = [] ∧
     ((s.theirFlow m).setPart m.seq (some 1 :: List.replicate 31 none)).partOf m.seq = some 1 :: List.replicate 31 none ∧
     (match s.yttPieces m .write (yttRows m), s.yttPieces m .read (yttRows m) with
       | .ok (ctx, ps), .ok (_, qs) =>
         (s.writeOn ctx ps.flatten m.payload 1 []).1.any Option.isNone &&
           ((s.writeOn ctx ps.flatten m.payload 0 []).1.all Option.isSome && !qs.any (piecesPoisoned s))
       | _, _ => false) = true) ∧
    (let m := frame 3 (0x4000 + 6 * 64) 2 32 0 (List.replicate 64 1)
     dataRows (Desc.of pullR.dst) pullR m = some (6, 2) ∧ pullR.part = [] ∧
     (match cmdBarrier 0 pullR (fabricOf (.cmd 0 0) (retr pullR [])) with
       | .at _ => true
       | _ => false) = true) := by decide +kernel

/-- An engine op that has read part of its operands; one that has computed, with bytes left to write. -/
theorem witness_OpsStartAndComplete_parts :
    (let s := withOp accld
     ((s.core 0).op? 0).isSome = true ∧ readPlacesOf s 0 accld ≠ [] ∧ (engineStep 0 accld 2 s).sched = s.sched ∧
       (((engineStep 0 accld 2 s).core 0).op? 0).any (fun o => o.seen.length == 1) = true) ∧
    (let o : Op := { accz with st := .running, result := some ({}, none), todo := [⟨true, 0, 0⟩, ⟨false, 0xFFFFF, 7⟩] }
     let s := withOp o
     memoriesWf s = true ∧ (∀ b ∈ o.todo, b.addr < if b.acc then 0x40000 else 0x100000) ∧
       (s.core 0).startable .matrix = some o ∧ (((engineStep 0 o 5 s).core 0).op? 0).any (fun o => o.todo.length == 1) = true ∧
       ((engineStep 0 o 5 s).core 0).kread 0xFFFFF 1 = [7]) := by decide +kernel

/-- The word of a nested op stands in the last register. -/
theorem witness_SequencerResultArrives_status : let p : LPend := { late0 with res := .nested 0, arrived := false }
    let th : Thread := { plain with pend := [p] }
    th.awaitsOp 0 = some 0 ∧ (th.arriveStatus 0 7).status.getLsbD 63 = true ∧
    (th.arriveStatus 0 7).status.getLsbD 62 = false ∧ (lanes th).thread 0 0 0 = some th := by decide +kernel

/-! ### Cores, saves and grids -/

/-- A core that has woken in this cycle for cause 3, and one that woke before. -/
theorem witness_TranslationAndMemoryEvents_woke :
    (let s := on fun k => { k with health := { k.health with gated := false, wokeAt := some 0 }, seq := { k.seq with wake := 3 },
                                   placing := none }
     (s.core 0).health.wokeAt = some s.now ∧ 2 < (s.core 0).seq.wake.toNat ∧
       ((s.core 0).wakeUp s.now 2).seq.wake = 2 ∧ ((s.core 0).wakeUp s.now 4).seq.wake = 3 ∧
       s.wakeCause 0 1 = true) ∧
    (on id |>.core 0).health.wokeAt = none := by decide +kernel

/-- Two saves of a COOPERATIVE grid: both swapped out, and one frozen. -/
theorem witness_TaskStepsComplete_alone : let v : Save := { save0 with coop := 2, kind := .swap }
    let w : Save := { v with slot := 1 }
    let both : State := { on id with saves := [v, w] }
    let one : State := { on id with saves := [v, { w with kind := .freeze }] }
    both.savedAlone v = true ∧ one.savedAlone v = false ∧ both.savedAlone { v with coop := 0 } = true := by decide +kernel

/-- Free clusters whose cores are all HOT, two of them wanted; and with one that is not. -/
theorem witness_TaskStepsComplete_hot :
    let free : List CoreNo := [0, 1, 2, 3, 4, 5, 6, 7]
    let s := free.foldl (fun (s : State) c => s.updCore c fun k =>
      { k with health := { k.health with hot := true, temp := 100 - (c.val : Int) } }) State.reset
    s.shmode ≠ 0 ∧ (s.wholeFree free).all (fun c => (s.core c).health.hot) = true ∧ (s.gridCores free 1).all (fun c => decide (4 ≤ c.val)) = true ∧
    State.reset.gridCores free 2 = State.reset.wholeFree free := by decide +kernel

/-- A LIVE queue with work and no core that waits, has waited, or has a post; without work. -/
theorem witness_TaskStepsComplete_waits :
    let s (since : Option Nat) := offering.updQueue 5 fun q => { q with eff := { q.eff with cls := 0, lead := 1 }, since := since }
    ((s none).queue 5).eff.cls = 0 ∧ ((s none).queue 5).eff.lead ≠ 0 ∧
    (s none).hasWork 5 ((s none).freeCores ((s none).queue 5).part.toFin) = true ∧ (s none).livePosted 5 = false ∧
    ((s none).noteWaits.queue 5).since = some 0 ∧ (({ s (some 0) with now := 17 }).noteWaits.queue 5).since = some 0 ∧
    (let u := (s (some 0)).updQueue 5 fun q => { q with node := none }
     u.hasWork 5 (u.freeCores (u.queue 5).part.toFin) = false ∧ (u.noteWaits.queue 5).since = none) := by decide +kernel

/-- The first record of a core stands in its queue, or in the ring; the ring is misaligned. -/
theorem witness_TaskStepsComplete_ring : let r : LaunchRec := { no := 3, queue := 5, ctx := 0 }
    let inRing := (on id).updCtx 0 fun x => { x with ring := [(0, r)] }
    r ∈ inRing.launches 0 ∧ r ∉ (inRing.core 0).launchQ ∧ (inRing.launches 0).all (fun x => x == r || decide (r.no < x.no)) = true ∧
    (let regs : CtxRegs := { (inRing.ctxRegs 0) with lringbase := 32 }
     regs.lringbase.toNat % 64 ≠ 0 ∧
       (inRing.throughRing 0 regs .read { r with nodeid := 9 }).1.queue = 5 ∧
       (inRing.throughRing 0 regs .read { r with nodeid := 9 }).1.no = 3) := by decide +kernel

/-- The last thread of a core, with a poisoned register, in a freeze image. -/
theorem witness_RecallAndPowerStepsComplete_registers :
    let s := (frozen0 .freezing 1 0).updCore 0 fun k =>
      (k.setThread 127 3 (some { plain with poison := 1 }))
    s.thread 0 127 3 = some { plain with poison := 1 } ∧ ({ plain with poison := 1 } : Thread).readsPoison (List.range 64) = true ∧
    okay (s.writeImage 0 { s.mkSave 0 ((s.core 0).task.getD task0) .freeze 0 0 with blocks := [] }) = false := by
  decide +kernel

/-- The last thread's record; a claim that does not empty a core whose clock has stopped. -/
theorem witness_RecallAndPowerStepsComplete_claim :
    plain.rank < 2 ^ 48 ∧ (threadRecord core0 127 3 plain).length = 320 ∧
    ((threadRecord core0 127 3 plain).drop 0x30).take 2 = [127, 3] ∧
    (let s := on fun k => { k with health := { k.health with clockStop := true } }
     (s.core 0).task = some task0 ∧ (s.core 0).health.clockStop = true ∧
       ((s.claimCore 0 false .complete 0).core 0).health.stopDue = true) := by decide +kernel

/-- The saved thread's answer by its flow number. -/
theorem witness_RecallAndPowerStepsComplete_answer : let ix := 4 * 31 + 3
    save0.threads.find? (fun x => x.1 == ix) = some (ix, remoteSaved) ∧
    (remoteSaved.remoteOn 5).any (fun p => p.res == .remote 5 false 0 default && decide (p.dst.val ≤ 62)) = true ∧
    remoteSaved.remoteOn 4 = none ∧
    (flow0 (some (.saved 0 0 31 3)) []).job = some (.saved 0 0 31 3) := by decide +kernel

end Sys2Proof.Tests
end

section
/-! Words and instructions: the fields of a word determine the word, the two tables of encodings share no
instruction, and a decoder accepts exactly the words whose fields the table gives back (R84, R86). -/

namespace Sys2Proof

/-! ### A word is made of its fields (R69, R74) -/

/-- Two fields that stand next to each other in `w` are one field of `w`. -/
theorem bits_append_bits {n : Nat} (w : BitVec n) (l k m : Nat) :
    w.extractLsb' (l + k) m ++ w.extractLsb' l k = w.extractLsb' l (m + k) :=
  BitVec.extractLsb'_append_extractLsb'_eq_extractLsb' rfl

@[simp] theorem TileFields.word_ofWord (w : W64) : (TileFields.ofWord w).word = w := by
  simp only [TileFields.word, TileFields.ofWord]
  rw [bits_append_bits w 54 8 2, bits_append_bits w 44 10, bits_append_bits w 34 10, bits_append_bits w 24 10,
    bits_append_bits w 14 10, bits_append_bits w 0 14]
  exact bits_all w

/-- The lowest bit of a field, read as a Boolean. -/
theorem bit1_getLsbD_zero {n : Nat} (v : BitVec n) : bit1 (v.getLsbD 0) = v.extractLsb' 0 1 := by
  ext i hi
  obtain rfl : i = 0 := by omega
  simp [bit1]

theorem bits_regOf (v : BitVec 6) : (BitVec.ofFin (regOf v) : BitVec 6) = v := rfl

theorem bits_predOf (v : BitVec 3) : (BitVec.ofFin (predOf v) : BitVec 3) = v := rfl

@[simp] theorem LSrc.bits_ofBits (v : BitVec 7) : (LSrc.ofBits v).bits = v := by
  simp only [LSrc.bits, LSrc.ofBits, bits_regOf, bit1_getLsbD_zero]
  exact (bits_append_bits v 0 1 6).trans (bits_all v)

@[simp] theorem LHead.bits_ofBits (v : BitVec 8) : (LHead.ofBits v).bits = v := by
  simp only [LHead.bits, LHead.ofBits, bits_predOf, bit1_getLsbD_zero]
  rw [bits_append_bits v 1 3 4, bits_append_bits v 0 1]
  exact bits_all v

@[simp] theorem LaneFields.word_ofWord (w : W64) : (LaneFields.ofWord w).word = w := by
  simp only [LaneFields.word, LaneFields.ofWord, LHead.bits_ofBits, LSrc.bits_ofBits, bits_regOf]
  rw [bits_append_bits w 53 5 6, bits_append_bits w 45 8, bits_append_bits w 39 6, bits_append_bits w 32 7,
    bits_append_bits w 25 7, bits_append_bits w 18 7, bits_append_bits w 0 18]
  exact bits_all w

/-! ### The encoder by the tables of encodings -/

/-- The tables of tile words and of lane words share no instruction. -/
theorem tileFields_eq_none_or_laneFields_eq_none (i : Instr) : tileFields i = none ∨ laneFields i = none := by
  cases i <;> first | exact .inl rfl | exact .inr rfl

theorem tileFields_eq_none_of_laneFields {i : Instr} {f : LaneFields} (h : laneFields i = some f) :
    tileFields i = none :=
  (tileFields_eq_none_or_laneFields_eq_none i).resolve_right (by simp [h])

theorem encode_of_tileFields {i : Instr} {f : TileFields} (h : tileFields i = some f) (h1 : i.tileWords = 1) :
    encode i = [f.word] := by
  unfold encode
  split
  next => cases h1
  next => cases h1
  next => rw [h]

theorem encode_of_laneFields {i : Instr} {f : LaneFields} (h : laneFields i = some f) : encode i = [f.word] := by
  unfold encode
  split
  next => cases h
  next => cases h
  next => rw [tileFields_eq_none_of_laneFields h, h]; rfl

theorem isStep_eq_false_of_tileFields {i : Instr} {f : TileFields} (h : tileFields i = some f) :
    Machine.isStep i = false := by
  simp [Machine.isStep, h]

theorem isStep_eq_false_of_laneFields {i : Instr} {f : LaneFields} (h : laneFields i = some f) :
    Machine.isStep i = false := by
  simp [Machine.isStep, h]

/-! ### What the decoders accept (R84, R86) -/

theorem checkTile_eq_ok_iff {f : TileFields} {w2 : W64} {i : Instr} :
    checkTile f w2 = .ok i ↔ rawTile f w2 = some i ∧ i.wellFormed = true ∧ tileFields i = some f := by
  refine ⟨fun h => ?_, fun ⟨hraw, hcheck⟩ => by simp [checkTile, hraw, hcheck]⟩
  unfold checkTile at h
  split at h
  next j hraw =>
    split at h
    next hcheck => cases h; exact ⟨hraw, hcheck⟩
    next => cases h
  next => cases h

theorem decodeLane_eq_ok_iff {w : W64} {i : Instr} :
    decodeLane w = .ok i ↔ laneAssigned (LaneFields.ofWord w) = true ∧ rawLane (LaneFields.ofWord w) = some i ∧
      i.wellFormed = true ∧ laneFields i = some (LaneFields.ofWord w) := by
  refine ⟨fun h => ?_, fun ⟨hopc, hraw, hcheck⟩ => by simp [decodeLane, hopc, hraw, hcheck]⟩
  simp only [decodeLane] at h
  split at h
  next => cases h
  next hopc =>
    split at h
    next j hraw =>
      split at h
      next hcheck => cases h; exact ⟨by simpa using hopc, hraw, hcheck⟩
      next => cases h
    next => cases h

/-- The checks that a tile word which decodes has passed: a word of class 11 with its second word, any other alone. -/
theorem checkTile_of_decodeTile {w : W64} {w2 : Option W64} {i : Instr} (h : decodeTile w w2 = .ok i) :
    ∃ v, checkTile (TileFields.ofWord w) v = .ok i ∧ ((TileFields.ofWord w).cls = 0b11 → w2 = some v) := by
  simp only [decodeTile] at h
  split at h
  next => cases h
  next =>
    split at h
    next =>
      split at h
      next v => exact ⟨v, h, fun _ => rfl⟩
      next => cases h
    next hcls => exact ⟨0, h, fun h3 => absurd h3 hcls⟩

/-- A word of class 11 is one of the two forms that hold a second word (R83). -/
theorem rawTile_of_cls_three {f : TileFields} {v : W64} {i : Instr} (hcls : f.cls = 0b11) (h : rawTile f v = some i) :
    (∃ d, i = .lit ⟨d, v⟩) ∨ ∃ t a, i = .tdescl ⟨t, a, v⟩ := by
  replace h : rawClass11 f v = some i := by simpa [rawTile, hcls] using h
  unfold rawClass11 at h
  split at h
  next =>
    obtain ⟨d, -, rfl⟩ := Option.map_eq_some_iff.mp h
    exact .inl ⟨d, rfl⟩
  next =>
    obtain ⟨t, -, h⟩ := Option.bind_eq_some_iff.mp h
    obtain ⟨a, -, h⟩ := Option.bind_eq_some_iff.mp h
    cases h
    exact .inr ⟨t, a, rfl⟩
  next => cases h

theorem cls_of_tileWords_eq_two {i : Instr} {f : TileFields} (h : tileFields i = some f) (h2 : i.tileWords = 2) :
    f.cls = 0b11 := by
  unfold Instr.tileWords at h2
  split at h2
  next => cases h; rfl
  next => cases h; rfl
  next => cases h2

/-- A pair that passes the checks is the encoding of what it stands for. -/
theorem encode_of_checkTile_pair {f : TileFields} {v : W64} {i : Instr} (h : checkTile f v = .ok i)
    (hcls : f.cls = 0b11) : encode i = [f.word, v] := by
  obtain ⟨hraw, -, hf⟩ := checkTile_eq_ok_iff.mp h
  obtain ⟨d, rfl⟩ | ⟨t, a, rfl⟩ := rawTile_of_cls_three hcls hraw <;> simp [encode, hf]

/-! ### The statement -/

theorem decodeTile_encodes_back {w : W64} {w2 : Option W64} {i : Instr} (h : decodeTile w w2 = .ok i) :
    i.wellFormed = true ∧ (tileFields i).isSome = true ∧ Machine.isStep i = false ∧
      (i.tileWords = 1 → encode i = [w]) ∧ (i.tileWords = 2 → ∃ v, w2 = some v ∧ encode i = [w, v]) := by
  obtain ⟨v, hcheck, hsecond⟩ := checkTile_of_decodeTile h
  obtain ⟨-, hwf, hf⟩ := checkTile_eq_ok_iff.mp hcheck
  refine ⟨hwf, by simp [hf], isStep_eq_false_of_tileFields hf, fun h1 => ?_, fun h2 => ?_⟩
  · simpa using encode_of_tileFields hf h1
  · have hcls := cls_of_tileWords_eq_two hf h2
    exact ⟨v, hsecond hcls, by simpa using encode_of_checkTile_pair hcheck hcls⟩

theorem decodeLane_encodes_back {w : W64} {i : Instr} (h : decodeLane w = .ok i) :
    i.wellFormed = true ∧ (laneFields i).isSome = true ∧ Machine.isStep i = false ∧ encode i = [w] := by
  obtain ⟨-, -, hwf, hf⟩ := decodeLane_eq_ok_iff.mp h
  exact ⟨hwf, by simp [hf], isStep_eq_false_of_laneFields hf, by simpa using encode_of_laneFields hf⟩

/-- Settles O3: what decodes has passed the check that its table entry is the fields of the word, and a word is made of
its fields. -/
theorem decodedWordsEncodeBack : Obligations.DecodedWordsEncodeBack :=
  ⟨fun _ _ _ => decodeTile_encodes_back, fun _ _ => decodeLane_encodes_back⟩

end Sys2Proof
end

section
/-! O9, O8, O45 and O44: moves, compares and predicates of the sequencer, descriptor fields, p7, and how a lane
instruction retires. -/

namespace Sys2Proof

open Machine

/-! ### One core's sequencer -/

theorem State.setCore_self (s : State) (c : CoreNo) : s.setCore c (s.core c) = s := by
  simp [State.setCore, State.core]

theorem State.updSeq_self (s : State) (c : CoreNo) : s.updSeq c (fun _ => (s.core c).seq) = s :=
  State.setCore_self s c

/-- A property of a core that an update of one core keeps, it keeps of every core. -/
theorem core_updCore_keeps {β : Type} (g : Core → β) (s : State) (c : CoreNo) (f : Core → Core)
    (h : g (f (s.core c)) = g (s.core c)) (d : CoreNo) : g ((s.updCore c f).core d) = g (s.core d) := by
  by_cases hd : d = c
  · subst hd; simpa using h
  · rw [State.core_updCore_other _ _ _ _ hd]

theorem sameMemory_refl (s : State) : SameMemory s s := ⟨fun _ => rfl, fun _ _ => ⟨rfl, rfl, rfl⟩⟩

/-- An update of one core that leaves its memories. -/
theorem sameMemory_updCore (s : State) (c : CoreNo) (f : Core → Core) (h : (f (s.core c)).mem = (s.core c).mem) :
    SameMemory s (s.updCore c f) := by
  refine ⟨fun _ => rfl, fun d a => ?_⟩
  have hd := core_updCore_keeps Core.mem s c f h d
  simp [Core.kread, hd]

theorem sameMemory_updSeq (s : State) (c : CoreNo) (f : Seq → Seq) : SameMemory s (s.updSeq c f) :=
  sameMemory_updCore s c _ rfl

/-! ### Bits of a descriptor (R18, R190) -/

/-- Each bit of a field replacement. -/
theorem getLsbD_bitsSet {n : Nat} (v : BitVec n) (l w : Nat) (x : BitVec w) (hw : l + w ≤ n) (k : Nat) (hk : k < n) :
    (bitsSet v l w x).getLsbD k = if l ≤ k ∧ k < l + w then x.getLsbD (k - l) else v.getLsbD k := by
  have hx : w ≤ k - l → x.getLsbD (k - l) = false := BitVec.getLsbD_of_ge x (k - l)
  simp only [bitsSet, BitVec.getLsbD_or, BitVec.getLsbD_and, BitVec.getLsbD_not, BitVec.getLsbD_shiftLeft,
    BitVec.truncate_eq_setWidth, BitVec.getLsbD_setWidth, BitVec.getLsbD_allOnes, hk, decide_true, Bool.true_and]
  by_cases hl : l ≤ k
  · by_cases hr : k < l + w
    · have h1 : k - l < w := by omega
      have h2 : k - l < n := by omega
      simp [hl, hr, h1, h2, Nat.not_lt.mpr hl]
    · have h1 : ¬ k - l < w := by omega
      simp [hl, hr, h1, hx (by omega)]
  · simp [hl, Nat.lt_of_not_le hl]

/-- The replacement of a field by the low bits of an operand. -/
theorem getLsbD_bitsSet_low {n : Nat} (v : BitVec n) (a : W64) (l w : Nat) (hw : l + w ≤ n) (k : Nat) (hk : k < n) :
    (bitsSet v l w (a.extractLsb' 0 w)).getLsbD k = if l ≤ k ∧ k < l + w then a.getLsbD (k - l) else v.getLsbD k := by
  rw [getLsbD_bitsSet v l w _ hw k hk]
  split
  next h => simp [show k - l < w by omega]
  next => rfl

/-- Settles O9: each form of `TDESC` replaces one field or two, bit by bit. -/
theorem descriptorFieldWrites : Obligations.DescriptorFieldWrites := by
  intro t a b
  refine ⟨rfl, fun k hk => ?_, fun k hk => ?_, fun k hk => ?_, fun k hk => ?_⟩
  · exact getLsbD_bitsSet_low t a 44 20 (by omega) k hk
  · refine (getLsbD_bitsSet_low _ b 10 10 (by omega) k hk).trans ?_
    rw [getLsbD_bitsSet_low t a 29 7 (by omega) k hk]
    by_cases h : 29 ≤ k
    · simp [h, show ¬ k < 20 by omega]
    · simp [h]
  · exact getLsbD_bitsSet_low t a 72 32 (by omega) k hk
  · refine (getLsbD_bitsSet_low t a 104 24 (by omega) k hk).trans ?_
    simp [hk]

/-! ### Scalar forms of the sequencer (R99 to R103, R111, R121, R190) -/

@[simp] theorem core_cur (s : State) : s.core s.cur = s.curCore := rfl

theorem advance_one (q : Seq) : q.advance 1 = { q with pc := q.pc + 8, afterSafe := false } := rfl

theorem advance_two (q : Seq) : q.advance 2 = { q with pc := q.pc + 16, afterSafe := false } := rfl

theorem finishSK_eq (d : SK) (v : W64) (s : State) : finishSK d v s = tileResult d v s := by
  cases d <;> rfl

theorem finishLateFl_eq (fl : Flags6) (d : SK) (v : W64) (s : State) : finishLateFl fl d v s = tileLate d v fl s := rfl

theorem seqDone_eq (s : State) : s.seqDone s.cur = tileNext s := rfl

theorem alu1_ready {f : W64 → W64} {x : TAlu1} {s : State} (h : Ready1 x s) :
    alu1 f x s = .next (tileResult x.d (f (x.a.val s.curCore.seq)) s) := by
  obtain ⟨ha, hd⟩ := h
  simp [alu1, ha, hd, finishSK_eq]

theorem alu2_ready {fin : SK → W64 → State → State} {f : W64 → W64 → W64} {x : TAlu2} {s : State} (h : Ready2 x s) :
    alu2 fin f x s = .next (fin x.d (f (x.a.val s.curCore.seq) (x.b.val s.curCore.seq)) s) := by
  obtain ⟨ha, hb, hd⟩ := h
  simp [alu2, ha, hb, hd]

theorem flagsPending_eq_false {q : Seq} : q.flagsPending = false ↔ ∀ r ∈ q.pend, r.fl = 0 := by
  simp [Seq.flagsPending]

theorem flagsPending_eq_true {q : Seq} : q.flagsPending = true ↔ ∃ r ∈ q.pend, r.fl ≠ 0 := by
  simp [Seq.flagsPending]

/-- `SWR` of a register other than `TFLAGS` waits for its operand alone. -/
theorem exec_swr {n : Byte} {a : SKL} {s : State} (ha : s.curCore.seq.pendingSKL a = false)
    (hn : n = 0x0F → ∀ r ∈ s.curCore.seq.pend, r.fl = 0) :
    exec (.swr ⟨n, a⟩) s = .next (s.updSeq s.cur fun q => (q.swr n.toNat (a.val q)).advance 1) := by
  have hw : (n.toNat == 0x0F && s.curCore.seq.flagsPending) = false := by
    by_cases h : n = 0x0F
    · simp [flagsPending_eq_false.mpr (hn h)]
    · have : n.toNat ≠ 0x0F := fun e => h (BitVec.eq_of_toNat_eq e)
      simp [this]
  change execSwr _ _ = _
  simp [execSwr, ha, hw]

theorem exec_swr_other {n : Byte} {a : SKL} {s : State} (ha : s.curCore.seq.pendingSKL a = false) (hn : n ≠ 0x0F) :
    exec (.swr ⟨n, a⟩) s = .next (s.updSeq s.cur fun q => (q.swr n.toNat (a.val q)).advance 1) :=
  exec_swr ha fun h => absurd h hn

theorem exec_srd {d : SK} {n : Byte} {s : State} (hd : s.curCore.destHeld d = false)
    (hn : n = 0x0F → ∀ r ∈ s.curCore.seq.pend, r.fl = 0) :
    exec (.srd ⟨d, n⟩) s = .next (tileResult d (tileSpecial s s.cur n.toNat) s) := by
  have hw : (n.toNat == 0x0F && s.curCore.seq.flagsPending) = false := by
    by_cases h : n = 0x0F
    · simp [flagsPending_eq_false.mpr (hn h)]
    · have : n.toNat ≠ 0x0F := fun e => h (BitVec.eq_of_toNat_eq e)
      simp [this]
  change execSrd _ _ = _
  simp [execSrd, hd, hw, finishSK_eq]

theorem clamp_eq (n : Nat) : Nat.min 1024 (Nat.max 32 n) = if n < 32 then 32 else if 1024 < n then 1024 else n := by
  show min 1024 (max 32 n) = _
  split_ifs <;> omega

/-- The special registers, by number (R26). -/
theorem tileSpecial_eq (s : State) (c : CoreNo) : let q := (s.core c).seq
    let r (n : Nat) : W64 := tileSpecial s c n
    r 0x00 = BitVec.ofNat 64 c.val ∧ r 0x01 = q.partid.zeroExtend 64 ∧ r 0x02 = q.iter[0].zeroExtend 64 ∧
    r 0x03 = q.iter[1].zeroExtend 64 ∧ r 0x04 = q.iter[2].zeroExtend 64 ∧ r 0x05 = q.iter[3].zeroExtend 64 ∧
    r 0x06 = q.itern ∧ r 0x07 = q.itern.ushiftRight 32 ∧ r 0x08 = q.nodearg ∧ r 0x09 = q.nodearg.ushiftRight 32 ∧
    r 0x0A = q.wake.zeroExtend 64 ∧
    (∀ t, (s.core c).task = some t → r 0x0B = t.regs.frecbase + 64 * BitVec.ofNat 64 c.val) ∧ r 0x0C = q.trapvec ∧
    r 0x0D = q.epc ∧ r 0x0E = q.trapcause ∧ r 0x0F = q.tflags ∧ r 0x10 = (if q.trapen then 1 else 0) ∧
    r 0x11 = BitVec.ofNat 64 q.faircyc ∧ r 0x12 = BitVec.ofNat 64 (s.now / 17) ∧
    r 0x13 = (BitVec.ofNat 64 (s.now / 17)).ushiftRight 32 ∧ r 0x14 = BitVec.ofNat 64 (s.now - q.start) ∧
    r 0x15 = (BitVec.ofNat 64 (s.now - q.start)).ushiftRight 32 ∧
    ∀ x, s.ctx? (s.core c).ctx = some x → r 0x16 = x.cpedlimit.zeroExtend 64 ∧ r 0x17 = x.cpedbase := by
  refine ⟨rfl, rfl, rfl, rfl, rfl, rfl, rfl, rfl, rfl, rfl, rfl, fun t ht => ?_, rfl, rfl, rfl, rfl, rfl, rfl, rfl, rfl,
    rfl, rfl, fun x hx => ⟨?_, ?_⟩⟩
  · show s.faultrec c = _
    simp [State.faultrec, ht, BitVec.ofNat_mul]
  · show (match s.ctx? (s.core c).ctx with | some x => x.cpedlimit.zeroExtend 64 | none => 0) = _
    rw [hx]
  · show (match s.ctx? (s.core c).ctx with | some x => x.cpedbase | none => 0) = _
    rw [hx]

theorem updSeq_congr {s : State} {c : CoreNo} {f g : Seq → Seq} (h : f (s.core c).seq = g (s.core c).seq) :
    s.updSeq c f = s.updSeq c g := by
  simp only [State.updSeq, State.updCore, h]

theorem exec_cmp {x : TCmp} {s : State} (ha : s.curCore.seq.pendingSKL x.a = false)
    (hb : s.curCore.seq.pendingSKL x.b = false) :
    exec (.cmp x) s = predOp x.p (fun q => condHolds x.cond (x.a.val q) (x.b.val q)) s := by
  change execCmp x s = _
  simp [execCmp, ha, hb]

theorem exec_lit {x : TLit} {s : State} (hd : s.curCore.destHeld x.d = false) : exec (.lit x) s =
    .next (s.updSeq s.cur fun q => { SK.put x.v q x.d with pc := q.pc + 16, afterSafe := false }) := by
  change execLit x s = _
  simp only [execLit, hd, Bool.false_eq_true, if_false, advance_two]
  cases x.d <;> rfl

theorem exec_tdescl {x : TDescl} {s : State} (ha : s.curCore.seq.pendingSKL x.a = false)
    (ht : s.curCore.tilePending x.t = false) : exec (.tdescl x) s = .next (s.updSeq s.cur fun q => { q with
      t := q.t.set x.t.val (x.a.val s.curCore.seq ++ x.v), pc := q.pc + 16, afterSafe := false }) := by
  change execTdescl x s = _
  simp only [execTdescl, Core.tileHeld, ha, ht, Bool.or_false, Bool.false_eq_true, if_false]
  rfl

theorem exec_tdesc {x : TTdesc} {s : State} (ha : s.curCore.seq.pendingSKL x.a = false)
    (hb : s.curCore.seq.pendingSKL x.b = false) (ht : s.curCore.tilePending x.t = false) :
    exec (.tdesc x) s = .next (s.updSeq s.cur fun q => { q with
      t := q.t.set x.t.val (tdescVal x.f q.t[x.t.val] (x.a.val q) (x.b.val q)), pc := q.pc + 8,
      afterSafe := false }) := by
  change execTdesc x s = _
  simp only [execTdesc, Core.tileHeld, ha, hb, ht, Bool.or_false, Bool.false_eq_true, if_false]
  exact congrArg _ (updSeq_congr rfl)

theorem exec_tget {x : TTget} {s : State} (ht : s.curCore.tilePending x.t = false)
    (hd : s.curCore.destHeld x.d = false) : exec (.tget x) s = .next (tileResult x.d
      (s.curCore.seq.t[x.t.val].extractLsb' (if x.hi then 64 else 0) 64) s) := by
  change execTget x s = _
  simp only [execTget, Core.tileHeld, hd, ht, Bool.or_false, Bool.false_eq_true, if_false, finishSK_eq]
  cases x.hi <;> rfl

theorem exec_srd_waits {d : SK} {s : State} (h : s.curCore.seq.flagsPending = true) :
    exec (.srd ⟨d, 0x0F⟩) s = .next s := by
  change execSrd _ _ = _
  simp [execSrd, h]

theorem exec_swr_waits {a : SKL} {s : State} (h : s.curCore.seq.flagsPending = true) :
    exec (.swr ⟨0x0F, a⟩) s = .next s := by
  change execSwr _ _ = _
  simp [execSwr, h]

theorem exec_swr_faircyc {a : SKL} {s : State} (ha : s.curCore.seq.pendingSKL a = false) :
    exec (.swr ⟨0x11, a⟩) s = .next (s.updSeq s.cur fun q => { q with
      faircyc := if (a.val q).toNat < 32 then 32 else if 1024 < (a.val q).toNat then 1024 else (a.val q).toNat,
      pc := q.pc + 8, afterSafe := false }) := by
  refine (exec_swr_other ha (by decide)).trans (congrArg _ (updSeq_congr ?_))
  rw [← clamp_eq]
  rfl

/-- Settles O8: with operands written and destinations free, no check of these forms holds them back. -/
theorem sequencerMovesAndPredicates : Obligations.SequencerMovesAndPredicates :=
  ⟨fun _ _ h => alu1_ready h, fun x s h => (alu2_ready h).trans (by rw [finishSK_eq]),
    fun _ _ ha hb => exec_cmp ha hb, fun _ _ => ⟨rfl, rfl, rfl⟩, fun _ _ => rfl, fun _ _ => exec_lit,
    fun _ _ => exec_tdescl, fun _ _ => exec_tdesc, fun _ _ => exec_tget, fun _ _ => exec_srd,
    fun _ _ _ hp => ⟨exec_srd_waits (flagsPending_eq_true.mpr hp), exec_swr_waits (flagsPending_eq_true.mpr hp)⟩,
    tileSpecial_eq,
    fun _ _ ha => ⟨exec_swr_other ha (by decide), exec_swr_other ha (by decide), fun hf => exec_swr ha fun _ => hf,
      exec_swr_other ha (by decide), exec_swr_faircyc ha⟩,
    fun _ => rfl⟩

/-! ### p7 (R15) -/

theorem predSet_seven (ps : BitVec 8) (b : Bool) : predSet ps 7 b = ps := rfl

theorem getLsbD_one_shiftLeft {w : Nat} (i k : Nat) (hk : k < w) : (1#w <<< i).getLsbD k = decide (k = i) := by
  refine (BitVec.getLsbD_twoPow i k).trans ?_
  by_cases hi : k = i
  · subst hi; simp [hk]
  · simp [hi, Ne.symm hi]

theorem getLsbD_predSet (ps : BitVec 8) (d k : PredNo) (b : Bool) (hd : d ≠ 7) :
    (predSet ps d b).getLsbD k.val = if k = d then b else ps.getLsbD k.val := by
  have h7 : d.val ≠ 7 := fun h => hd (Fin.ext h)
  have hone : (1#8 <<< d.val).getLsbD k.val = decide (k.val = d.val) := getLsbD_one_shiftLeft _ _ k.isLt
  have hval : k.val = d.val ↔ k = d := Fin.ext_iff.symm
  cases b
  · simp only [predSet, h7, if_false, Bool.false_eq_true, BitVec.getLsbD_and, BitVec.getLsbD_not, hone, hval, k.isLt]
    by_cases h : k = d <;> simp [h]
  · simp only [predSet, h7, if_false, if_true, BitVec.getLsbD_or, hone, hval]
    by_cases h : k = d <;> simp [h]

theorem predOp_seven (v : Seq → Bool) (s : State) : predOp 7 v s = .next (tileNext s) := rfl

/-! ### A thread that retires (R24, R29, R78, R220) -/

/-- The release of one last-use register. -/
def releaseReg (th : Thread) (r : Nat) : Thread :=
  match th.owed r with
  | some _ => { th with pend := th.pend.map fun p =>
      if !p.arrived && p.covers r then { p with release := p.release ++ [Fin.ofNat 64 r] } else p }
  | none => th.drop r

theorem release_eq_foldl (th : Thread) (u : RegUse) :
    th.release u = ((u.srcs.filter Fld.lu).flatMap Fld.regs).foldl releaseReg th := rfl

theorem releaseReg_keeps (th : Thread) (r : Nat) :
    releaseReg th r = { th with pend := (releaseReg th r).pend, full := (releaseReg th r).full } := by
  unfold releaseReg
  split <;> rfl

/-- A release changes EMPTY/FULL and outstanding results alone. -/
theorem release_keeps (th : Thread) (u : RegUse) :
    th.release u = { th with pend := (th.release u).pend, full := (th.release u).full } :=
  foldl_holds (fun t : Thread => t = { th with pend := t.pend, full := t.full }) releaseReg
    (fun t r h => by rw [releaseReg_keeps t r, h]) th _ rfl

/-- A release leaves open which results are outstanding. -/
theorem owed_releaseReg (th : Thread) (r k : Nat) : ((releaseReg th r).owed k).isSome = (th.owed k).isSome := by
  unfold releaseReg
  split
  next =>
    simp only [Thread.owed, List.find?_map, Option.isSome_map]
    congr 2
    funext p
    simp only [Function.comp_apply]
    split <;> rfl
  next => rfl

theorem isFull_releaseReg (th : Thread) (r k : Nat) (hk : k < 64) :
    (releaseReg th r).isFull k = (th.isFull k && !(decide (k = r) && (th.owed k).isNone)) := by
  unfold releaseReg
  split
  next p h => 
    by_cases hr : k = r
    · subst hr; simp [Thread.isFull, h]
    · simp [Thread.isFull, hr]
  next h =>
    simp only [Thread.isFull, Thread.drop, BitVec.getLsbD_and, BitVec.getLsbD_not, getLsbD_one_shiftLeft _ _ hk, hk]
    by_cases hr : k = r
    · subst hr; simp [h]
    · simp [hr]

theorem isFull_foldl_releaseReg (rs : List Nat) (th : Thread) (k : Nat) (hk : k < 64) :
    (rs.foldl releaseReg th).isFull k = (th.isFull k && !(decide (k ∈ rs) && (th.owed k).isNone)) := by
  induction rs generalizing th with
  | nil => simp
  | cons r rs ih =>
    rw [List.foldl_cons, ih, isFull_releaseReg th r k hk, ← Option.not_isSome, ← Option.not_isSome, owed_releaseReg]
    by_cases hr : k = r <;> cases (th.owed k).isSome <;> simp [hr]

/-- A thread after the issue of an instruction and before its results are written (R77, R78). -/
def issued (th : Thread) (i : Instr) : Thread :=
  ((if i.closes then { th with pend := [] } else th).release i.use).countWindows

theorem issued_keeps (th : Thread) (i : Instr) :
    issued th i = { th with pend := (issued th i).pend, full := (issued th i).full } := by
  unfold issued Thread.countWindows
  rw [release_keeps]
  split <;> rfl

/-- The last-use sources that become EMPTY: those with no result outstanding. -/
theorem isFull_issued (th : Thread) (i : Instr) (k : Nat) (hk : k < 64) :
    (issued th i).isFull k = (th.isFull k && !(decide (k ∈ (i.use.srcs.filter Fld.lu).flatMap Fld.regs) &&
      (i.closes || (th.owed k).isNone))) := by
  show ((if i.closes then { th with pend := [] } else th).release i.use).isFull k = _
  rw [release_eq_foldl, isFull_foldl_releaseReg _ _ _ hk]
  cases i.closes <;> rfl

/-- Results written into registers. -/
def writeRegs (th : Thread) (rs : List (RegNo × List W32)) : Thread :=
  rs.foldl (fun th x => (th.putAll x.1.val x.2).mend x.1.val x.2.length) th

/-- The late result that an instruction leaves outstanding, with its window (R77). -/
def lateResult (i : Instr) (r : LaneRes) : List LPend :=
  match r.late with
  | some (d, n, res) =>
    [{ dst := d, n := n, res := res, fl := r.lateFlags,
       win := (match i.laneHead with | some h => h.la.toNat | none => 0), arrived := false, release := [] }]
  | none => []

/-- A thread once an instruction has written what it writes; the PC has still to move. -/
def written (th : Thread) (i : Instr) (r : LaneRes) : Thread :=
  { writeRegs (issued th i) r.regs with
    p := r.preds.foldl (fun p (x : PredNo × Bool) => predSet p x.1 x.2) (writeRegs (issued th i) r.regs).p,
    flags := (writeRegs (issued th i) r.regs).flags ||| r.flags, park := .none,
    pend := (writeRegs (issued th i) r.regs).pend ++ lateResult i r }

theorem retire_eq (th : Thread) (i : Instr) (r : LaneRes) : th.retire i r = (written th i r).next r.goto := rfl

theorem next_keeps (th : Thread) (goto : Option W64) :
    th.next goto = { th with rep := (th.next goto).rep, pc := (th.next goto).pc } := by
  unfold Thread.next
  split
  · split <;> rfl
  · rfl

theorem putAll_keeps (xs : List W32) (th : Thread) (r : Nat) :
    th.putAll r xs = { th with v := (th.putAll r xs).v, full := (th.putAll r xs).full, status := (th.putAll r xs).status } := by
  induction xs generalizing th r with
  | nil => rfl
  | cons x xs ih => rw [Thread.putAll, ih]; rfl

/-- Writing registers changes their values, EMPTY/FULL, status marks and poison alone. -/
theorem writeRegs_keeps (th : Thread) (rs : List (RegNo × List W32)) :
    writeRegs th rs = { th with v := (writeRegs th rs).v, full := (writeRegs th rs).full,
                                status := (writeRegs th rs).status, poison := (writeRegs th rs).poison } := by
  refine foldl_holds (fun t : Thread => t = { th with v := t.v, full := t.full, status := t.status, poison := t.poison })
    _ (fun t x h => ?_) th rs rfl
  dsimp only [Thread.mend]
  rw [putAll_keeps, h]

/-- What an instruction leaves in the fields that its results do not name. -/
theorem written_keeps (th : Thread) (i : Instr) (r : LaneRes) :
    written th i r = { th with
      v := (written th i r).v, full := (written th i r).full, status := (written th i r).status,
      poison := (written th i r).poison, pend := (written th i r).pend, park := .none,
      p := r.preds.foldl (fun p (x : PredNo × Bool) => predSet p x.1 x.2) th.p, flags := th.flags ||| r.flags } := by
  unfold written
  rw [writeRegs_keeps, issued_keeps]

@[simp] theorem retire_p (th : Thread) (i : Instr) (r : LaneRes) :
    (th.retire i r).p = r.preds.foldl (fun p (x : PredNo × Bool) => predSet p x.1 x.2) th.p := by
  rw [retire_eq, next_keeps, written_keeps]

@[simp] theorem retire_flags (th : Thread) (i : Instr) (r : LaneRes) : (th.retire i r).flags = th.flags ||| r.flags := by
  rw [retire_eq, next_keeps, written_keeps]

@[simp] theorem retire_wait (th : Thread) (i : Instr) (r : LaneRes) : (th.retire i r).wait = th.wait := by
  rw [retire_eq, next_keeps, written_keeps]

@[simp] theorem retire_park (th : Thread) (i : Instr) (r : LaneRes) : (th.retire i r).park = .none := by
  rw [retire_eq, next_keeps, written_keeps]

theorem retire_v (th : Thread) (i : Instr) (r : LaneRes) : (th.retire i r).v = (writeRegs (issued th i) r.regs).v := by
  rw [retire_eq, next_keeps]; rfl

theorem retire_full (th : Thread) (i : Instr) (r : LaneRes) :
    (th.retire i r).full = (writeRegs (issued th i) r.regs).full := by
  rw [retire_eq, next_keeps]; rfl

theorem retire_pend (th : Thread) (i : Instr) (r : LaneRes) :
    (th.retire i r).pend = (issued th i).pend ++ lateResult i r := by
  rw [retire_eq, next_keeps]
  show (writeRegs (issued th i) r.regs).pend ++ _ = _
  rw [writeRegs_keeps]

theorem issued_v (th : Thread) (i : Instr) : (issued th i).v = th.v := by rw [issued_keeps]

/-- Outside a repeat the PC goes to the target or the next word (R220). -/
theorem retire_of_no_rep {th : Thread} (h : th.rep = none) (i : Instr) (r : LaneRes) :
    (th.retire i r).pc = r.goto.getD (th.pc + 8) ∧ (th.retire i r).rep = none := by
  rw [retire_eq, written_keeps]
  simp [Thread.next, h]

/-- In a repeat the iteration goes up, and after the last one the repeat ends (R220). -/
theorem retire_of_rep {th : Thread} {x : Rep} (h : th.rep = some x) (i : Instr) (r : LaneRes) :
    ((th.retire i r).rep, (th.retire i r).pc) =
      if x.j + 1 < x.n then (some { x with j := x.j + 1 }, th.pc) else (none, th.pc + 16) := by
  rw [retire_eq, written_keeps]
  by_cases hj : x.j + 1 < x.n <;> simp [Thread.next, h, hj]

theorem foldl_predSet_of_only_seven (ps : List (PredNo × Bool)) (p : BitVec 8) (h : ∀ x ∈ ps, x.1 = 7) :
    ps.foldl (fun p (x : PredNo × Bool) => predSet p x.1 x.2) p = p := by
  induction ps with
  | nil => rfl
  | cons x ps ih =>
    obtain ⟨hx, hps⟩ := List.forall_mem_cons.mp h
    rw [List.foldl_cons, hx, predSet_seven, ih hps]

/-- Settles O45: a write to p7 keeps the predicate file, and a read of p7 does not look at it. -/
theorem predicateSevenIsTrue : Obligations.PredicateSevenIsTrue :=
  ⟨fun _ => rfl, fun _ => rfl, predSet_seven, fun ps d k b => getLsbD_predSet ps d k b,
    fun _ _ _ => ⟨rfl, rfl, rfl, rfl⟩, fun _ _ _ _ ha hb => exec_cmp ha hb,
    fun th i r h => (retire_p th i r).trans (foldl_predSet_of_only_seven r.preds th.p h)⟩

theorem writeRegs_one (th : Thread) (d : RegNo) (x : W32) : writeRegs th [(d, [x])] = (th.put d.val x).mend d.val 1 := rfl

theorem reg_put (th : Thread) (d : RegNo) (x : W32) (r : Nat) :
    (th.put d.val x).reg r = if r = d.val then x else th.reg r := by
  simp only [Thread.reg, Thread.put, Vector.getElem?_setIfInBounds]
  by_cases h : r = d.val
  · simp [h]
  · simp [h, Ne.symm h]

theorem isFull_put (th : Thread) (d r : Nat) (x : W32) (hr : r < 64) :
    (th.put d x).isFull r = (th.isFull r || decide (r = d)) := by
  simp [Thread.isFull, Thread.put, getLsbD_one_shiftLeft _ _ hr]

theorem isFull_retire_out1 (th : Thread) (i : Instr) (d : RegNo) (x : W32) (fl : Flags6) (r : Nat) (hr : r < 64) :
    (th.retire i (out1 d x fl)).isFull r = ((issued th i).isFull r || decide (r = d.val)) := by
  rw [← isFull_put (issued th i) d.val r x hr]
  exact congrArg (fun f => f.getLsbD r) (retire_full th i (out1 d x fl))

theorem reg_retire_out1 (th : Thread) (i : Instr) (d : RegNo) (x : W32) (fl : Flags6) (r : Nat) :
    (th.retire i (out1 d x fl)).reg r = if r = d.val then x else th.reg r := by
  have h := reg_put (issued th i) d x r
  simp only [Thread.reg, issued_v] at h
  rw [Thread.reg, Thread.reg, retire_v, ← h]
  rfl

/-- A last-use source is released unless its result is outstanding. -/
theorem isFull_issued_of_freed {th : Thread} {i : Instr} {r : Nat} (hr : r < 64)
    (h : ∃ f ∈ i.use.srcs, f.lu = true ∧ r ∈ f.regs ∧ (i.closes = true ∨ th.owed r = none)) :
    (issued th i).isFull r = false := by
  obtain ⟨f, hsrc, hlu, hreg, hfree⟩ := h
  have hmem : r ∈ (i.use.srcs.filter Fld.lu).flatMap Fld.regs :=
    List.mem_flatMap.mpr ⟨f, List.mem_filter.mpr ⟨hsrc, hlu⟩, hreg⟩
  rw [isFull_issued th i r hr]
  obtain hc | ho := hfree
  · simp [hmem, hc]
  · simp [hmem, ho]

theorem isFull_issued_of_not_freed {th : Thread} {i : Instr} {r : Nat} (hr : r < 64)
    (h : ¬ ∃ f ∈ i.use.srcs, f.lu = true ∧ r ∈ f.regs ∧ (i.closes = true ∨ th.owed r = none)) :
    (issued th i).isFull r = th.isFull r := by
  rw [isFull_issued th i r hr]
  by_cases hmem : r ∈ (i.use.srcs.filter Fld.lu).flatMap Fld.regs
  · obtain ⟨f, hf, hreg⟩ := List.mem_flatMap.mp hmem
    obtain ⟨hsrc, hlu⟩ := List.mem_filter.mp hf
    have hfree : ¬ (i.closes = true ∨ th.owed r = none) := fun hc => h ⟨f, hsrc, hlu, hreg, hc⟩
    obtain ⟨hc, ho⟩ := not_or.mp hfree
    rw [Bool.eq_false_iff.mpr hc, Option.isNone_eq_false_iff.mpr (Option.isSome_iff_ne_none.mpr ho)]
    simp
  · simp [hmem]

/-- Settles O44: `Thread.retire` releases, then writes its results, then moves the PC, each in fields of its own. -/
theorem laneResultsAreWritten : Obligations.LaneResultsAreWritten := by
  refine ⟨fun th i d x fl => ?_, fun th i d b goto hrep => ?_, fun th i d ws fl _ => ?_⟩
  · have hfull (r : Nat) (hr : r < 64) (hd : r ≠ d.val) :
        (th.retire i (out1 d x fl)).isFull r = (issued th i).isFull r := by
      rw [isFull_retire_out1 th i d x fl r hr]; simp [hd]
    refine ⟨?_, ?_, fun r hr hd => ?_, fun r hr hd hf => ?_, fun r hr hd hf => ?_, retire_p _ _ _, retire_flags _ _ _,
      retire_wait _ _ _, retire_park _ _ _, fun h => retire_of_no_rep h _ _, fun r h => retire_of_rep h _ _⟩
    · rw [reg_retire_out1 th i d x fl d.val, if_pos rfl]
    · rw [isFull_retire_out1 th i d x fl d.val d.isLt]; simp
    · rw [reg_retire_out1 th i d x fl r, if_neg hd]
    · rw [hfull r hr hd, isFull_issued_of_freed hr hf]
    · rw [hfull r hr hd, isFull_issued_of_not_freed hr hf]
  · have hp : (th.retire i { preds := [(d, b)], goto := goto }).p = predSet th.p d b := retire_p _ _ _
    refine ⟨fun hd => ?_, fun k hk => ?_, ?_, ?_, (retire_of_no_rep hrep _ _).1⟩
    · have h7 : d.val ≠ 7 := fun h => hd (Fin.ext h)
      rw [Thread.pred, hp, getLsbD_predSet th.p d d b hd, if_pos rfl, beq_eq_false_iff_ne.mpr h7, Bool.false_or]
    · by_cases hd : d = 7
      · rw [Thread.pred, hp, hd, predSet_seven, Thread.pred]
      · rw [Thread.pred, hp, getLsbD_predSet th.p d k b hd, if_neg hk, Thread.pred]
    · exact (retire_v _ _ _).trans (issued_v th i)
    · rw [retire_flags]; simp
  · refine ⟨(retire_v _ _ _).trans (issued_v th i), retire_p _ _ _, ?_, ?_⟩
    · rw [retire_flags]; simp [outLate]
    · rw [retire_pend, lateResult, outLate, List.getLast?_append]
      rfl
end Sys2Proof
end

section
/-! O10: what the scalar forms of the sequencer leave unchanged. -/

namespace Sys2Proof

open Machine

/-! ### What a scalar form leaves (R99 to R103, R111, R121, R190) -/

/-- A scalar form with destination `d`: scalar registers and constant words other than `d` read as before. -/
def ScalarStep (d : SK) (s t : State) : Prop :=
  ∃ r, t = s.updSeq s.cur (fun _ => r) ∧ OnlyScalars s.curCore.seq r ∧ ∀ o : SK, o ≠ d → o.val r = o.val s.curCore.seq

/-- A form that waits is a step that changes nothing. -/
theorem scalarStep_self (d : SK) (s : State) : ScalarStep d s s :=
  ⟨s.curCore.seq, (State.updSeq_self s s.cur).symm, rfl, fun _ _ => rfl⟩

theorem updSeq_eq_const (s : State) (f : Seq → Seq) : s.updSeq s.cur f = s.updSeq s.cur fun _ => f s.curCore.seq := rfl

theorem scalarStep_put (d : SK) (v : W64) (n : Nat) (s : State) :
    ScalarStep d s (s.updSeq s.cur fun q => (SK.put v q d).advance n) := by
  refine ⟨_, updSeq_eq_const s _, by cases d <;> rfl, fun o ho => ?_⟩
  rw [← SK.val_put_other v s.curCore.seq d o ho]
  cases o <;> rfl

theorem scalarStep_late (fl : Flags6) (d : SK) (v : W64) (s : State) : ScalarStep d s (finishLateFl fl d v s) :=
  ⟨_, updSeq_eq_const s _, rfl, fun o _ => by cases o <;> rfl⟩

theorem scalarStep_finishSK (d : SK) (v : W64) (s : State) : ScalarStep d s (finishSK d v s) := scalarStep_put d v 1 s

/-- A form that either waits or makes a step to `u`. -/
theorem scalarStep_of_ite {d : SK} {s t u : State} {b : Bool} (hu : ScalarStep d s u)
    (h : (if b = true then .next s else .next u : Out) = .next t) : ScalarStep d s t := by
  split at h
  · cases h; exact scalarStep_self d s
  · cases h; exact hu

theorem scalarStep_of_alu2 {fin : SK → W64 → State → State} {f : W64 → W64 → W64} {x : TAlu2} {s t : State}
    (hfin : ∀ d v, ScalarStep d s (fin d v s)) (h : alu2 fin f x s = .next t) : ScalarStep x.d s t :=
  scalarStep_of_ite (hfin x.d _) h

theorem scalarStep_of_alu1 {f : W64 → W64} {x : TAlu1} {s t : State} (h : alu1 f x s = .next t) :
    ScalarStep x.d s t :=
  scalarStep_of_ite (scalarStep_finishSK x.d _ s) h

/-- The two-operand forms that write at once, and those that send their result on its way. -/
theorem scalarStep_of_talu2 {i : Instr} {x : TAlu2} {s t : State}
    (hi : i ∈ ([.add x, .sub x, .mul x, .div x, .divu x, .rem x, .remu x, .tileAnd x, .tileOr x,
      .tileXor x, .tileAndn x, .tileShl x, .tileShr x, .tileSar x, .min x, .max x, .minu x, .maxu x] : List Instr))
    (h : exec i s = .next t) : ScalarStep x.d s t := by
  have now {f : W64 → W64 → W64} (h : alu2 finishSK f x s = .next t) : ScalarStep x.d s t :=
    scalarStep_of_alu2 (fun d v => scalarStep_finishSK d v s) h
  have late {fl : Flags6} {f : W64 → W64 → W64} (h : alu2 (finishLateFl fl) f x s = .next t) : ScalarStep x.d s t :=
    scalarStep_of_alu2 (fun d v => scalarStep_late fl d v s) h
  simp only [List.mem_cons, List.not_mem_nil, or_false] at hi
  obtain rfl | rfl | rfl | rfl | rfl | rfl | rfl | rfl | rfl | rfl | rfl | rfl | rfl | rfl | rfl | rfl | rfl | rfl := hi
  · exact now h
  · exact now h
  · exact late h
  · exact late h
  · exact late h
  · exact late h
  · exact late h
  · exact now h
  · exact now h
  · exact now h
  · exact now (f := fun a b => a &&& ~~~b) h
  all_goals exact now h

theorem sameMemory_of_scalarStep {d : SK} {s t : State} (h : ScalarStep d s t) : SameMemory s t := by
  obtain ⟨r, rfl, -⟩ := h
  exact sameMemory_updSeq s s.cur _

theorem scalarStep_of_exec {i : Instr} {d : SK} {s t : State}
    (hi : (∃ x : TAlu2, x.d = d ∧ i ∈ ([.add x, .sub x, .mul x, .div x, .divu x, .rem x, .remu x, .tileAnd x, .tileOr x,
      .tileXor x, .tileAndn x, .tileShl x, .tileShr x, .tileSar x, .min x, .max x, .minu x, .maxu x] : List Instr)) ∨
    (∃ x : TAlu1, x.d = d ∧ i ∈ ([.tileClz x, .tilePopc x, .tileMov x] : List Instr)) ∨
    (∃ x : TSel, x.d = d ∧ i = .tileSel x) ∨ (∃ x : TMulh, x.d = d ∧ i = .mulh x) ∨
    (∃ x : TAlu3, x.d = d ∧ i = .madd x) ∨ (∃ x : TLit, x.d = d ∧ i = .lit x) ∨
    (∃ x : TTget, x.d = d ∧ i = .tget x) ∨ (∃ x : TSrd, x.d = d ∧ i = .srd x)) (h : exec i s = .next t) :
    ScalarStep d s t := by
  obtain ⟨x, rfl, hi⟩ | ⟨x, rfl, hi⟩ | ⟨x, rfl, rfl⟩ | ⟨x, rfl, rfl⟩ | ⟨x, rfl, rfl⟩ | ⟨x, rfl, rfl⟩ | ⟨x, rfl, rfl⟩ |
    ⟨x, rfl, rfl⟩ := hi
  · exact scalarStep_of_talu2 hi h
  · simp only [List.mem_cons, List.not_mem_nil, or_false] at hi
    obtain rfl | rfl | rfl := hi
    · exact scalarStep_of_alu1 (f := fun a => BitVec.ofNat 64 (clzOf 64 a)) h
    · exact scalarStep_of_alu1 (f := fun a => BitVec.ofNat 64 (popOf a 64)) h
    · exact scalarStep_of_alu1 (f := id) h
  · exact scalarStep_of_alu2 (f := fun a b => if s.curCore.seq.pred x.p then a else b) (x := ⟨x.d, x.a, x.b⟩)
      (fun d v => scalarStep_finishSK d v s) h
  · exact scalarStep_of_alu2 (x := ⟨x.d, x.a, x.b⟩) (fun d v => scalarStep_late 0 d v s) h
  · exact scalarStep_of_ite (scalarStep_late 0 x.d _ s) h
  · exact scalarStep_of_ite (scalarStep_put x.d x.v 2 s) h
  · exact scalarStep_of_ite (scalarStep_finishSK x.d _ s) h
  · exact scalarStep_of_ite (scalarStep_finishSK x.d _ s) h

/-- A form that changes the predicate `d` and the PC alone. -/
def PredStep (d : PredNo) (s t : State) : Prop :=
  ∃ r, t = s.updSeq s.cur (fun _ => r) ∧
    r = { s.curCore.seq with p := r.p, pc := r.pc, afterSafe := r.afterSafe } ∧
    ∀ k : PredNo, k ≠ d → r.pred k = s.curCore.seq.pred k

theorem predStep_self (d : PredNo) (s : State) : PredStep d s s :=
  ⟨s.curCore.seq, (State.updSeq_self s s.cur).symm, rfl, fun _ _ => rfl⟩

theorem pred_setPred_other (q : Seq) {d k : PredNo} (b : Bool) (hk : k ≠ d) : (q.setPred d b).pred k = q.pred k := by
  by_cases hd : d = 7
  · rw [hd]; rfl
  · rw [Seq.pred, Seq.setPred_p, getLsbD_predSet q.p d k b hd, if_neg hk, Seq.pred]

theorem predStep_of_predOp {d : PredNo} {v : Seq → Bool} {s t : State} (h : predOp d v s = .next t) :
    PredStep d s t := by
  cases h
  exact ⟨_, updSeq_eq_const s _, rfl, fun k hk => pred_setPred_other s.curCore.seq _ hk⟩

theorem predStep_of_exec {i : Instr} {d : PredNo} {s t : State}
    (hi : (∃ x : TCmp, x.p = d ∧ i = .cmp x) ∨ (∃ x : TPred2, x.d = d ∧ i ∈ ([.pand x, .por x, .pxor x] : List Instr)) ∨
      (∃ x : TPred1, x.d = d ∧ i = .pnot x)) (h : exec i s = .next t) : PredStep d s t := by
  obtain ⟨x, rfl, rfl⟩ | ⟨x, rfl, hi⟩ | ⟨x, rfl, rfl⟩ := hi
  · change execCmp x s = _ at h
    simp only [execCmp] at h
    split at h
    · cases h; exact predStep_self x.p s
    · exact predStep_of_predOp h
  · simp only [List.mem_cons, List.not_mem_nil, or_false] at hi
    obtain rfl | rfl | rfl := hi
    all_goals exact predStep_of_predOp h
  · exact predStep_of_predOp h

/-- A form that changes the tile register `d` and the PC alone. -/
def TileRegStep (d : RegNo) (s t : State) : Prop :=
  ∃ r, t = s.updSeq s.cur (fun _ => r) ∧
    r = { s.curCore.seq with t := r.t, pc := r.pc, afterSafe := r.afterSafe } ∧
    ∀ k : RegNo, k ≠ d → r.t[k.val] = s.curCore.seq.t[k.val]

theorem tileRegStep_self (d : RegNo) (s : State) : TileRegStep d s s :=
  ⟨s.curCore.seq, (State.updSeq_self s s.cur).symm, rfl, fun _ _ => rfl⟩

theorem tileRegStep_finishTile (d : RegNo) (words : Nat) (v : W128) (s : State) :
    TileRegStep d s (finishTile d words v s) := by
  refine ⟨_, updSeq_eq_const s _, rfl, fun k hk => ?_⟩
  have : d.val ≠ k.val := fun h => hk (Fin.ext h.symm)
  simp [this]

theorem tileRegStep_of_exec {i : Instr} {d : RegNo} {s t : State}
    (hi : (∃ x : TTdesc, x.t = d ∧ i = .tdesc x) ∨ (∃ x : TDescl, x.t = d ∧ i = .tdescl x))
    (h : exec i s = .next t) : TileRegStep d s t := by
  obtain ⟨x, rfl, rfl⟩ | ⟨x, rfl, rfl⟩ := hi
  · change execTdesc x s = _ at h
    simp only [execTdesc] at h
    split at h
    · cases h; exact tileRegStep_self x.t s
    · cases h; exact tileRegStep_finishTile x.t 1 _ s
  · change execTdescl x s = _ at h
    simp only [execTdescl] at h
    split at h
    · cases h; exact tileRegStep_self x.t s
    · cases h; exact tileRegStep_finishTile x.t 2 _ s

/-- `SWR` changes the register that its number names, and no other. -/
theorem swr_keeps (q : Seq) (n : Byte) (a : W64) : let r := q.swr n.toNat a
    r = { q with trapvec := r.trapvec, epc := r.epc, tflags := r.tflags, trapen := r.trapen, faircyc := r.faircyc } ∧
      (n ≠ 0x0C → r.trapvec = q.trapvec) ∧ (n ≠ 0x0D → r.epc = q.epc) ∧ (n ≠ 0x0F → r.tflags = q.tflags) ∧
      (n ≠ 0x10 → r.trapen = q.trapen) ∧ (n ≠ 0x11 → r.faircyc = q.faircyc) := by
  have no {m : Nat} {v : Byte} (h : n.toNat = m) (hv : v = BitVec.ofNat 8 m) (hn : n ≠ v) : False :=
    hn (by rw [hv, ← h, BitVec.ofNat_toNat, BitVec.setWidth_eq])
  dsimp only
  unfold Seq.swr
  split
  next h => exact ⟨rfl, fun hn => (no h rfl hn).elim, fun _ => rfl, fun _ => rfl, fun _ => rfl, fun _ => rfl⟩
  next h => exact ⟨rfl, fun _ => rfl, fun hn => (no h rfl hn).elim, fun _ => rfl, fun _ => rfl, fun _ => rfl⟩
  next h => exact ⟨rfl, fun _ => rfl, fun _ => rfl, fun hn => (no h rfl hn).elim, fun _ => rfl, fun _ => rfl⟩
  next h => exact ⟨rfl, fun _ => rfl, fun _ => rfl, fun _ => rfl, fun hn => (no h rfl hn).elim, fun _ => rfl⟩
  next h => exact ⟨rfl, fun _ => rfl, fun _ => rfl, fun _ => rfl, fun _ => rfl, fun hn => (no h rfl hn).elim⟩
  next => exact ⟨rfl, fun _ => rfl, fun _ => rfl, fun _ => rfl, fun _ => rfl, fun _ => rfl⟩

theorem swr_frame {x : TSwr} {s t : State} (h : exec (.swr x) s = .next t) :
    ∃ r, t = s.updSeq s.cur (fun _ => r) ∧
      r = { s.curCore.seq with trapvec := r.trapvec, epc := r.epc, tflags := r.tflags, trapen := r.trapen,
                               faircyc := r.faircyc, pc := r.pc, afterSafe := r.afterSafe } ∧
      (x.n ≠ 0x0C → r.trapvec = s.curCore.seq.trapvec) ∧ (x.n ≠ 0x0D → r.epc = s.curCore.seq.epc) ∧
      (x.n ≠ 0x0F → r.tflags = s.curCore.seq.tflags) ∧ (x.n ≠ 0x10 → r.trapen = s.curCore.seq.trapen) ∧
      (x.n ≠ 0x11 → r.faircyc = s.curCore.seq.faircyc) := by
  change execSwr x s = _ at h
  simp only [execSwr] at h
  split at h
  · cases h
    exact ⟨s.curCore.seq, (State.updSeq_self s s.cur).symm, rfl, fun _ => rfl, fun _ => rfl, fun _ => rfl, fun _ => rfl,
      fun _ => rfl⟩
  · cases h
    obtain ⟨heq, hrest⟩ := swr_keeps s.curCore.seq x.n (x.a.val s.curCore.seq)
    exact ⟨_, updSeq_eq_const s _, by rw [heq]; rfl, hrest⟩

/-- Settles O10: each form either waits, changing nothing, or ends in the one update that its meaning makes. -/
theorem sequencerFrames : Obligations.SequencerFrames := by
  refine ⟨fun i d s t hi h => ⟨scalarStep_of_exec hi h, sameMemory_of_scalarStep (scalarStep_of_exec hi h)⟩,
    fun i d s t hi h => ⟨?_, predStep_of_exec hi h⟩, fun i d s t hi h => ⟨?_, tileRegStep_of_exec hi h⟩,
    fun x s t h => ⟨?_, swr_frame h⟩, fun s t h => ?_⟩
  · obtain ⟨r, rfl, -⟩ := predStep_of_exec hi h
    exact sameMemory_updSeq s s.cur _
  · obtain ⟨r, rfl, -⟩ := tileRegStep_of_exec hi h
    exact sameMemory_updSeq s s.cur _
  · obtain ⟨r, rfl, -⟩ := swr_frame h
    exact sameMemory_updSeq s s.cur _
  · cases h
    exact ⟨sameMemory_updSeq s s.cur _, rfl⟩

end Sys2Proof
end

section
/-! O23 and O59: barrier objects and their bytes, and the state right after reset. -/

namespace Sys2Proof

open Machine

/-! ### Bytes of a number (R8) -/

@[simp] theorem length_leBytes (n v : Nat) : (leBytes n v).length = n := by
  induction n generalizing v with
  | zero => rfl
  | succ n ih => simp [leBytes, ih]

theorem ofBytes_leBytes (n v : Nat) : ofBytes (leBytes n v) = v % 256 ^ n := by
  induction n generalizing v with
  | zero => simp [leBytes, ofBytes, Nat.mod_one]
  | succ n ih =>
    rw [leBytes, ofBytes, ih, Nat.pow_succ' (n := n), Nat.mod_mul]
    rfl

@[simp] theorem take_leBytes_append (n v : Nat) (ys : List Byte) : (leBytes n v ++ ys).take n = leBytes n v := by
  rw [List.take_append_of_le_length (by simp), List.take_of_length_le (by simp)]

@[simp] theorem take_leBytes (n v : Nat) : (leBytes n v).take n = leBytes n v := by
  rw [List.take_of_length_le (by simp)]

@[simp] theorem drop_leBytes_append {n a : Nat} (h : n ≤ a) (v : Nat) (ys : List Byte) :
    (leBytes n v ++ ys).drop a = ys.drop (a - n) := by
  rw [List.drop_append, List.drop_eq_nil_of_le (by simpa using h), length_leBytes, List.nil_append]

/-! ### Barrier objects (R34, R35) -/

/-- The phase changes exactly when both counts reach zero. -/
theorem settle_eq (b : Bar) : b.settle =
    if b.remaining = 0 ∧ b.bytes = 0 then { b with phase := b.phase + 1, remaining := b.expected, bytes := 0 } else b := rfl

theorem update_eq (b : Bar) (n : Nat) (add : Int) : b.update n add =
    if b.ok = false ∨ b.remaining < n ∨ b.bytes + add < -2 ^ 31 ∨ 2 ^ 31 ≤ b.bytes + add then none
    else some { b with remaining := b.remaining - n, bytes := b.bytes + add }.settle := by
  unfold Bar.update
  by_cases h1 : b.ok = false
  · simp [h1]
  by_cases h2 : b.remaining < n
  · simp [h1, h2]
  have h3 : 2 ^ 31 - 1 < b.bytes + add ↔ 2 ^ 31 ≤ b.bytes + add := by omega
  rw [if_neg h1, if_neg h2]
  simp only [eq_false h1, eq_false h2, h3, false_or]
  
theorem toSigned_ofSigned {x : Int} (h1 : -2 ^ 31 ≤ x) (h2 : x < 2 ^ 31) : toSigned 32 (ofSigned 32 x) = x := by
  simp only [toSigned, ofSigned]
  split_ifs <;> omega

theorem ofBytes_toBytes_bar {b : Bar} (hok : b.ok = true) (hr : b.remaining < 65536) (he : b.expected < 65536)
    (h1 : -2 ^ 31 ≤ b.bytes) (h2 : b.bytes < 2 ^ 31) : Bar.ofBytes b.toBytes = b := by
  have hs : ofSigned 32 b.bytes < 2 ^ 32 := by unfold ofSigned; omega
  obtain ⟨phase, remaining, expected, bytes, y, ok⟩ := b
  simp only at *
  subst hok
  simp only [Bar.ofBytes, Bar.toBytes, List.append_assoc]
  simp [ofBytes_leBytes]
  refine ⟨?_, hr, ?_, ?_, ?_, ?_⟩
  · rw [Nat.mod_eq_of_lt phase.isLt, BitVec.ofNat_toNat, BitVec.setWidth_eq]
  · omega
  · rw [show 4294967296 = 2 ^ 32 from rfl, Nat.mod_eq_of_lt hs, toSigned_ofSigned h1 h2]
  · cases y <;> simp
  · cases y <;> simp

/-- Settles O23: the update of R35 branch by branch, and the layout of R34 field by field. -/
theorem barrierObjectRules : Obligations.BarrierObjectRules := by
  refine ⟨fun b n add => ⟨?_, fun u hu => ?_⟩, fun b hok hr he h1 h2 => ofBytes_toBytes_bar hok hr he h1 h2⟩
  · rw [update_eq]
    split_ifs with h
    · exact iff_of_true rfl h
    · exact iff_of_false (by simp) h
  · rw [update_eq] at hu
    split_ifs at hu with h
    simp only [not_or, not_lt] at h
    obtain ⟨hok, hn, -⟩ := h
    have hz : b.remaining - n = 0 ↔ b.remaining = n := by omega
    cases hu
    rw [settle_eq]
    simp only [hz]
    by_cases hb : b.remaining = n ∧ b.bytes + add = 0
    · simp [hb]
    · simp [hb]

theorem core_reset (c : CoreNo) : State.reset.core c = {} := by simp [State.core, State.reset]

theorem queue_reset (q : Fin 64) : State.reset.queue q = {} := by simp [State.queue, State.reset]

theorem part_reset (p : Fin 16) : State.reset.part p = {} := by simp [State.part, State.reset]

/-- A core with no thread in any slot. -/
theorem threads_empty : ({} : Core).threads = [] := by
  refine List.filterMap_eq_nil_iff.mpr fun x hx => ?_
  have h : x.1 ∈ List.replicate 512 (none : Option Thread) := List.fst_mem_of_mem_zipIdx hx
  rw [List.eq_of_mem_replicate h]
  rfl

/-- Settles O59: the state after reset is written out, so each register is read off it. -/
theorem resetState : Obligations.ResetState := by
  refine ⟨fun c => ?_, fun q => ?_, fun p => ?_, rfl, rfl, ?_, rfl, rfl, rfl, rfl, rfl, rfl, rfl, rfl, rfl, rfl, rfl,
    fun a => ?_, reset_memoriesWf, fun p q _ => ?_⟩
  · rw [core_reset]
    exact ⟨rfl, rfl, rfl, rfl, rfl, rfl, rfl, by decide, rfl, rfl, rfl, rfl, threads_empty,
      rfl, rfl, rfl, rfl, rfl, rfl, rfl, fun a => ⟨rfl, rfl, rfl⟩⟩
  · rw [queue_reset]
    exact ⟨rfl, rfl, rfl, rfl, rfl, rfl, rfl, rfl, rfl, rfl, rfl, rfl, rfl, rfl, rfl⟩
  · rw [part_reset]
    exact ⟨rfl, rfl, rfl, rfl⟩
  · decide
  · rfl
  · rw [part_reset, part_reset]
    exact ⟨rfl, fun r hr => absurd hr List.not_mem_nil⟩
end Sys2Proof
end

section
/-! Refutations by a concrete state: O26, O58, O13 and O17. Each statement speaks of every state, and the state that
breaks it is small and written out. -/

namespace Sys2Proof
open Machine

/-- A context without a carve-out: the walk of its overflow ring fails at the root node, which is a violation. -/
def noCarve : State := { State.reset with ctxs := [{ num := 0 }] }

/-- The ring's failing translation is logged (R293), and its event enters the event store of the context. -/
theorem throughRing_noCarve :
    ((noCarve.throughRing 0 {} .write default).2.ctxs.map fun x => x.store.length) = [1] := by decide +kernel

theorem xlateRange_noCarve : (noCarve.xlateRange 0 .write 0 8192).isOk = false := by decide +kernel

/-- Refutes O26: when the translation of a context's overflow ring fails at the carve-out, the violation's event enters
that context's event store, so the contexts do not stand. -/
theorem not_launchDecisionStreamBind : ¬ Obligations.LaunchDecisionStreamBind := by
  rintro ⟨-, -, hring, -⟩
  obtain ⟨-, hfail⟩ := hring 0 {} .write default noCarve
  obtain ⟨v, t, ht, -, hctxs⟩ := hfail (.inr xlateRange_noCarve)
  have hstore := throughRing_noCarve
  rw [ht, hctxs] at hstore
  exact absurd hstore (by decide)

/-- A thread whose register v0 is FULL and holds the status word of a nested op (R250). -/
def statusThread : Thread := { full := 1, status := 1 }

/-- The team of that thread, with a BUDGET of 64 registers. -/
def wideTeam : Team :=
  { op := 0, rcd := default, entry := { w0 := 0x200000000000 }, dtag := 0, groups := [0], admitted := 0, exempt := 0,
    arb := Vector.replicate 4 {}, flags := 0, fault := none, aborting := false, scan := none }

/-- A core whose agents have made four stores, and on it the thread, in which the next lane instruction issues. -/
def statusRead : State :=
  let s := State.reset.updCore 0 fun k => ({ k with nextStore := 5, teams := [wideTeam] }).setThread 0 0 (some statusThread)
  s.setSched { s.sched with issue := [(0, 0)] }

/-- The move `v1 = v0`. -/
def moveStatus : LR1 := ⟨⟨0, 7, false⟩, 1, ⟨0, false⟩⟩

theorem thread_statusRead : statusRead.thread 0 0 0 = some statusThread := by decide +kernel

/-- Reading a status word is an acquire at CORE (R250, R265), which raises the floor of the thread's reads. -/
theorem floor_moveStatus :
    ((laneAll (.laneMov moveStatus) (laneMovF moveStatus) statusRead).thread 0 0 0).map (·.floor.core) = some 4 := by
  decide +kernel

/-- Refutes O58: a move that reads the status word of a nested op acquires, so the thread's floor does not stand. -/
theorem not_laneArithmeticFrame : ¬ Obligations.LaneArithmeticFrame := by
  intro h
  obtain ⟨-, -, -, -, -, hthreads⟩ := h (.laneMov moveStatus) statusRead _ rfl rfl
  obtain ⟨u, hu, -, -, hfloor, -⟩ := hthreads 0 0 statusThread thread_statusRead
  have hcore := floor_moveStatus
  rw [show (laneAll _ _ statusRead).thread 0 0 0 = some u from hu, Option.map_some, hfloor] at hcore
  exact absurd hcore (by decide)

/-- An atomic of a team's write that has not acted yet: 8 bytes at the fault record of core 0, in a tracked page. -/
def teamAtomic : LateLoad :=
  { dev := true, pa := 0x10000, va := 0x10000, n := 8, sx := false,
    rmw := some { op := .add, x := 0, cmp := 0, scope := .cluster, pidx := 1, replay := false, team := some 0 } }

/-- The op that the atomic belongs to. -/
def foldingOp : Op :=
  { id := 0, rcd := default, entry := {}, dtag := 0, q := .lane, st := .running, parent := none, block := 0,
    folded := [], replay := false, held := false, floor := {} }

/-- Core 0 with the atomic among the sequencer's results, a handler at 8 and a fault record at 0x10000. -/
def trapCore : Core :=
  { task := some { ctx := 0, queue := 0, grid := none, rcd := {}, n := 0, startTick := 0, replay := false,
                   regs := { frecbase := 0x10000 } },
    ops := [foldingOp],
    seq := { trapvec := 8, code := [0, 0], pend := [{ d := .s 0, v := none, load := some teamAtomic }] } }

/-- Its context maps the first 16 GiB by one page of level 2; record 1 of the context has a format. -/
def trapping : State :=
  let s := ({ State.reset with ctxs := [{ num := 0, cpedlimit := 8 }] } : State).setCore 0 trapCore
  (s.updPart 0 fun p => { p with carve := p.carve.set 0 (0, 2 ^ 35) }).setDev
    { s.dev with hbm := [(0, 1), (1, 1), (4096, 0x2F)], recs := [{ ctx := 0, idx := 1, fmt := 8 }] }

def anyTrap : Trap := { kind := .software, cause := .software, epc := 0, resume := 0 }

theorem handler_trapping : (trapping.core 0).seq.trapvec ≠ 0 ∧ InCode (trapping.core 0).seq (trapping.core 0).seq.trapvec :=
  ⟨by decide +kernel, by decide +kernel, by decide +kernel⟩

/-- Storing the fault record has the earlier atomic act first (R106), and its write folds into record 1 (R138). -/
theorem folded_takeTrap :
    ((trapping.core 0).ops.map Op.folded, ((takeTrap 0 anyTrap trapping).core 0).ops.map Op.folded) = ([[]], [[1]]) := by
  decide +kernel

/-- Refutes O13: in a handled trap the store of the fault record lets an earlier atomic of the sequencer act, and the
fold of an atomic that belongs to an op is recorded in the op, which so does not stand. -/
theorem not_tileTrapEntry : ¬ Obligations.TileTrapEntry := by
  rintro ⟨h, -⟩
  obtain ⟨-, -, -, -, -, -, -, -, -, -, -, hhandled, -⟩ := h 0 anyTrap trapping
  obtain ⟨-, -, hops, -⟩ := hhandled handler_trapping
  obtain ⟨hbefore, hafter⟩ := Prod.mk.inj folded_takeTrap
  have heq := congrArg (List.map Op.folded) hops
  simp only [List.map_map, Function.comp_def] at heq
  rw [hafter, hbefore] at heq
  exact absurd heq (by decide)

/-- An atomic of the sequencer on the last 8 bytes of the Kennel memory and 8 bytes beyond, that has not acted yet. -/
def longAtomic : LateLoad :=
  { dev := false, pa := 0xFFFF8, va := 0, n := 16, sx := false,
    rmw := some { op := .xchg, x := 0, cmp := 0, scope := .core, pidx := 0, replay := false, team := none } }

/-- The byte after the Kennel memory, byte 0 of the accumulator memory, is undefined since a resume. -/
def spilling (acc : Memory) : State :=
  State.reset.setCore 0
    { mem := { acc := acc, holes := [(0x100000, 0x100001)] },
      seq := { s := Vector.replicate 64 0xFFFF8, pend := [{ d := .s 1, v := none, load := some longAtomic }] } }

/-- Store 5 to the last 8 bytes of the Kennel memory. -/
def lastStore : TStore := ⟨.s 0, .l 0, .l 5, 3⟩

theorem memoriesWf_spilling {acc : Memory} (h : acc.wf = true) : memoriesWf (spilling acc) = true :=
  setCore_memoriesWf reset_memoriesWf 0 _ (by simp [CoreMem.wf, h, Memory.wf])

/-- Byte 0 of the accumulator memory of core 0 in the next state. -/
def accAfter : Out → List Byte
  | .next t => (t.core 0).mem.aread 0 1
  | _ => []

/-- The atomic acts before the store (R106); its write runs on into the accumulator memory, whose byte 0 is then no
longer undefined. -/
theorem accAfter_lastStore : accAfter (exec (.tileStk lastStore) (spilling [])) = [0] ∧
    accAfter (exec (.tileStk lastStore) (spilling [(0, 1)])) = [1] := by
  constructor <;> decide +kernel

theorem seqCan_lastStore (acc : Memory) : SeqCan true 0xFFFF8 8 true (spilling acc) := by
  exact ⟨by decide +kernel, by decide +kernel, rfl⟩

/-- What the statement would give: the undefined byte reads what stands below it. -/
theorem residue_of_sequencerStoreFrame (h : Obligations.SequencerStoreFrame) {acc : Memory} (hacc : acc.wf = true)
    {v : Byte} (hv : accAfter (exec (.tileStk lastStore) (spilling acc)) = [v]) :
    [v] = [Config.residue 0 0x100000] := by
  obtain ⟨hstore, -⟩ := h
  cases he : exec (.tileStk lastStore) (spilling acc) with
  | refused _ | fault _ => rw [he] at hv; cases hv
  | next t =>
    rw [he] at hv
    obtain ⟨hstk, -⟩ := hstore lastStore (spilling acc) t (memoriesWf_spilling hacc) rfl rfl rfl
    obtain ⟨-, -, -, -, hother, -⟩ := hstk (seqCan_lastStore acc) (fun p hp => nomatch hp) he
    obtain ⟨hread, -⟩ := hother 0 0
    exact hv.symm.trans hread

/-- Refutes O17: an earlier atomic whose bytes run past the Kennel memory acts before the store, and an undefined byte
of the accumulator memory becomes the byte that stands below it. -/
theorem not_sequencerStoreFrame : ¬ Obligations.SequencerStoreFrame := by
  intro h
  obtain ⟨h0, h1⟩ := accAfter_lastStore
  have h01 := (residue_of_sequencerStoreFrame h rfl h0).trans (residue_of_sequencerStoreFrame h rfl h1).symm
  exact absurd h01 (by decide)

end Sys2Proof
end

section
/-! O49: the steps of folds, closes and requests at HOME, one lemma per step under the condition that it acts. -/

namespace Sys2Proof
open Machine

/-! ### Folds into a bank (R41) -/

/-- `m * 2 ^ e` is below `n`, both sides over the common denominator of R41's comparison. -/
theorem dy_lt_ofInt (m n : Nat) (e : Int) :
    Dy.lt ⟨m, e⟩ (Dy.ofInt n) = decide (m * 2 ^ e.toNat < n * 2 ^ (-e).toNat) := by
  unfold Dy.lt Dy.ofInt
  rcases le_total 0 e with h | h
  · rw [min_eq_right h, Int.toNat_of_nonpos (by omega : -e ≤ 0)]
    simp only [sub_zero, Int.toNat_zero, pow_zero, mul_one, decide_eq_decide]
    norm_cast
  · rw [min_eq_left h, Int.toNat_of_nonpos h]
    simp only [sub_self, Int.toNat_zero, pow_zero, mul_one, zero_sub, decide_eq_decide]
    norm_cast

theorem foldBin_eq (eo : Byte) (m : Nat) (e : Int) : foldBin eo m e =
    (let x := (Nat.log2 m : Int) + e - eo.toInt
     if x < 0 then 0 else if 31 < x then 31 else x.toNat) := by
  simp only [foldBin, Machine.satInt]
  split_ifs <;> rfl

/-- A number other than zero, folded. -/
theorem fold_fin (b : Bank) (fmt rf : BitVec 4) (eo : Byte) {bits m : Nat} {n : Bool} {e : Int}
    (h : foldValue fmt bits = .fin n m e) (hm : m ≠ 0) : b.fold fmt rf eo bits =
      { b with
        count := satInc b.count,
        amax := if b.amax.toNat < (magnitudeBits fmt bits m e).toNat then magnitudeBits fmt bits m e else b.amax,
        ovf := if foldMax rf ≠ 0 ∧ foldMax rf * 2 ^ (-e).toNat ≤ m * 2 ^ e.toNat then satInc b.ovf else b.ovf,
        hist := b.hist.setIfInBounds (foldBin eo m e) (satInc (b.hist.toList.getD (foldBin eo m e) 0)) } := by
  simp only [Bank.fold, h, if_neg hm, dy_lt_ofInt, Bool.and_eq_true, bne_iff_ne, Bool.not_eq_true', decide_eq_false_iff_not,
    not_lt]

/-! ### Records at HOME -/

theorem unmark_recs (d : DevMem) (u : Nat) : (d.unmark u).recs = d.recs := by
  unfold DevMem.unmark
  split <;> rfl

@[simp] theorem put_recs (d : DevMem) (src : Nat) (kind : WKind) (pa : Nat) (bs : List Byte) :
    (d.put src kind pa bs).recs = d.recs :=
  foldl_keeps DevMem.recs _ unmark_recs _ _

/-- The copy of a record in memory changes no record. -/
@[simp] theorem mirror_recs (s : State) (ctx : W32) (i : Nat) (bank : Bool) :
    (s.mirror ctx i bank).dev.recs = s.dev.recs := by
  unfold State.mirror
  split
  · rfl
  · cases bank <;> simp

theorem rcd_of_recs {d e : DevMem} (h : d.recs = e.recs) (ctx : W32) (i : Nat) : d.rcd ctx i = e.rcd ctx i := by
  simp only [DevMem.rcd, h]

theorem rcd_setRcd (d : DevMem) {r : PedRec} {ctx : W32} {i : Nat} (hr : r.ctx = ctx ∧ r.idx = i) :
    (d.setRcd r).rcd ctx i = r := by
  simp [DevMem.rcd, DevMem.setRcd, hr]

/-- The record that is looked up bears the number asked for. -/
theorem rcd_ctx_idx (d : DevMem) (ctx : W32) (i : Nat) : (d.rcd ctx i).ctx = ctx ∧ (d.rcd ctx i).idx = i := by
  unfold DevMem.rcd
  cases h : d.recs.find? fun r => r.ctx == ctx && r.idx == i with
  | none => exact ⟨rfl, rfl⟩
  | some r =>
    have hr := List.find?_some h
    simpa using hr

theorem rcd_updRcd (s : State) (ctx : W32) (i : Nat) (f : PedRec → PedRec) (bank : Bool)
    (hf : ∀ r, (f r).ctx = r.ctx ∧ (f r).idx = r.idx) :
    (s.updRcd ctx i f bank).dev.rcd ctx i = f (s.dev.rcd ctx i) := by
  obtain ⟨hctx, hidx⟩ := rcd_ctx_idx s.dev ctx i
  obtain ⟨fctx, fidx⟩ := hf (s.dev.rcd ctx i)
  exact (rcd_of_recs (mirror_recs _ _ _ _) _ _).trans (rcd_setRcd _ ⟨fctx.trans hctx, fidx.trans hidx⟩)

/-- A marked record is marked. -/
theorem replay_markReplay (s : State) (ctx : W32) (i : Nat) : ((s.markReplay ctx i).dev.rcd ctx i).replay = true := by
  unfold State.markReplay
  split_ifs with h
  · exact h
  · exact congrArg PedRec.replay
      (rcd_updRcd s ctx i (fun r => { r with replay := true }) false fun _ => ⟨rfl, rfl⟩)

theorem replay_foldHome {s : State} {f : Fold} (h : f.replay = true) :
    ((s.foldHome f).dev.rcd f.ctx f.idx).replay = true := by
  unfold State.foldHome
  rw [if_pos h]
  set u := s.markReplay f.ctx f.idx
  have hset (b : Bank) := rcd_setRcd u.dev (r := { u.dev.rcd f.ctx f.idx with opn := b }) (rcd_ctx_idx u.dev f.ctx f.idx)
  exact (congrArg PedRec.replay (hset _)).trans (replay_markReplay s f.ctx f.idx)

/-! ### The steps -/

theorem exec_partialForward_open {s : State} {slice : Nat} {ctx : W32} {i : Nat}
    (h : ∀ x, s.dev.closeOf ctx i = some x → slice ∉ x.drained) :
    exec (.partialForward slice ctx i) s = .next (s.forwardPartial slice ctx i) := by
  change execPartialForward slice ctx i s = _
  have hopen : s.dev.drained ctx i slice = false := by
    unfold DevMem.drained
    cases hc : s.dev.closeOf ctx i with
    | none => rfl
    | some x => simpa using h x hc
  rw [execPartialForward, hopen]
  rfl

theorem exec_closeDrain_first {s : State} {ctx : W32} {i slice : Nat} {x : Close} (hc : s.dev.closeOf ctx i = some x)
    (hx : slice ∉ x.drained) (hs : slice < 64) : exec (.closeDrain ctx i slice) s =
      .next ((s.forwardPartial slice ctx i).setDev ((s.forwardPartial slice ctx i).dev.updClose ctx i fun x =>
        { x with drained := x.drained ++ [slice] })) := by
  change execCloseDrain ctx i slice s = _
  simp only [execCloseDrain, hc, List.contains_eq_mem, hx, decide_false, Bool.false_or, decide_eq_true_eq]
  rw [if_neg (by omega)]

theorem close_eq (r : PedRec) (reset : Bool) : r.close reset =
    { r with gen := r.gen + 1, opn := {}, closed := if reset then {} else r.opn,
             replay := if reset then false else r.replay } := by
  cases reset <;> simp [PedRec.close]

theorem exec_closeCopy_drained {s : State} {ctx : W32} {i : Nat} {x : Close} (hc : s.dev.closeOf ctx i = some x)
    (hx : 64 ≤ x.drained.length) : exec (.closeCopy ctx i) s =
      (let u := s.updRcd ctx i (fun r => r.close x.reset) true
       .next (u.setDev { u.dev with closes := u.dev.closes.filter fun y => !(y.ctx == ctx && y.idx == i) })) := by
  change execCloseCopy ctx i s = _
  simp only [execCloseCopy, hc]
  rw [if_neg (by omega)]

/-- With no choice listed, HOME performs the first request that is ready. -/
theorem exec_pedigreeRequestAtHome_first {s : State} {c : CoreNo} {i : Nat} {r : PedReq} (hchoices : s.sched.choices = [])
    (hready : (s.pedReady c).head? = some i) (hr : (s.core c).ped[i]? = some r) :
    exec (.pedigreeRequestAtHome c) s =
      .next ((pedAtHome c r s).updCore c fun k => { k with ped := k.ped.eraseIdx i }) := by
  have hchoice : s.choice = (0, s) := by unfold State.choice; rw [hchoices]
  change execPedigreeRequestAtHome c s = _
  obtain ⟨rest, hlist⟩ := List.head?_eq_some_iff.mp hready
  simp only [execPedigreeRequestAtHome, hlist, hchoice, Nat.zero_mod, List.getD_cons_zero, hr]

/-- Settles O49: each step under its condition, and the fold of an element by the class of its value. -/
theorem pedigreeRequestsAtHome : Obligations.PedigreeRequestsAtHome := by
  refine ⟨fun c n s f hf => ?_, fun slice ctx i s h => exec_partialForward_open h,
    fun ctx i slice s x hc hx hs => exec_closeDrain_first hc hx hs, fun ctx i s x hc hx => ?_,
    fun c s i r hchoices hready hr => ?_, fun b fmt rf eo bits => ⟨fun g hv => ?_, fun n hv => ?_,
    fun n m e hv => ⟨fun hm => ?_, fun hm => ⟨magnitudeBits fmt bits m e, ?_, fun hexact => ?_⟩⟩⟩,
    fun s f => ⟨fun hf => ?_, replay_foldHome⟩, fun s slice ctx i => rfl⟩
  · change execFoldPerformed c n s = _
    rw [execFoldPerformed, hf]
  · rw [exec_closeCopy_drained hc hx]
    simp only [close_eq]
  · have hexec := exec_pedigreeRequestAtHome_first hchoices hready hr
    refine ⟨fun n h => ?_, fun n h => ?_, fun n f d h => ?_, fun n f d h => ?_, fun n f d h => ?_, fun n f v h => ?_⟩ <;>
      · subst h
        exact hexec
  · simp only [Bank.fold, hv]
    rfl
  · simp only [Bank.fold, hv]
    rfl
  · simp only [Bank.fold, hv, if_pos hm]
    rfl
  · rw [fold_fin b fmt rf eo hv hm, foldBin_eq]
    rfl
  · exact if_pos hexact
  · simp only [State.foldHome, hf]
    rfl
end Sys2Proof
end

section
/-! O51: the end of a page walk by the four cases of R288 to R291, invalidations, the scrubber, ECC errors, clock
gating. -/

namespace Sys2Proof
open Machine

/-! ### Page walks (R288 to R291) -/

theorem exec_pageWalkComplete_one {c : CoreNo} {va : W64} {s : State} {w : Walk}
    (h : ((s.core c).walks.filter fun w => w.va == va) = [w]) :
    exec (.pageWalkComplete c va) s = .next (endWalk c s w) := by
  change execPageWalkComplete c va s = _
  rw [execPageWalkComplete, h]
  rfl

/-- The layout of R291, field by field. -/
theorem toBytes_fbEntry (e : FbEntry) (c : CoreNo) : let f (a n : Nat) : Nat := ofBytes (((e.toBytes c).drop a).take n)
    (e.toBytes c).length = 32 ∧ f 0 8 = e.va.toNat ∧ f 8 2 = 0 ∧ f 0x0A 1 = e.key.cause.toNat ∧ f 0x0B 1 = e.level % 256 ∧
    f 0x0C 1 = e.key.access.toNat ∧ f 0x0D 1 = e.agent.toNat ∧ f 0x0E 2 = e.who.toNat ∧ f 0x10 2 = e.count % 65536 ∧
    f 0x12 2 = 0 ∧ f 0x14 4 = e.key.ctx.toNat ∧ f 0x18 1 = c.val ∧ f 0x19 7 = 0 := by
  simp only [FbEntry.toBytes, List.append_assoc]
  refine ⟨by simp, ?_, ?_, ?_, ?_, ?_, ?_, ?_, ?_, ?_, ?_, ?_, ?_⟩ <;>
    simp [ofBytes_leBytes, ofBytes, e.va.isLt, e.who.isLt, e.key.ctx.isLt]

theorem agentWho_cmd {k : Core} {id : Nat} {m : Cmd} (h : k.cmd? id = some m) :
    Walker.agentWho k (.cmd id) = (3, m.q.zeroExtend 16) := by
  simp only [Walker.agentWho, h]

/-! ### TLBs (R289) -/

theorem tlbRoom_subset {size pick : Nat} {tlb : List TlbEntry} {x : TlbEntry} (h : x ∈ tlbRoom size pick tlb) :
    x ∈ tlb := by
  unfold tlbRoom at h
  split_ifs at h
  · exact h
  · exact List.mem_of_mem_eraseIdx h

/-- After room is made in a TLB of at most its size, one more entry fits. -/
theorem length_tlbRoom_lt {size pick : Nat} {tlb : List TlbEntry} (hsize : 0 < size) (h : tlb.length ≤ size) :
    (tlbRoom size pick tlb).length < size := by
  unfold tlbRoom
  split_ifs with hlt
  · exact hlt
  · have := Nat.mod_lt pick (show 0 < tlb.length by omega)
    rw [List.length_eraseIdx_of_lt (by omega)]
    omega

theorem tlbRoom_of_lt {size pick : Nat} {tlb : List TlbEntry} (h : tlb.length < size) : tlbRoom size pick tlb = tlb :=
  if_pos h

/-- A choice moves the model's own fields only. -/
theorem choice_eq (s : State) : ∃ x : Sched, s.choice.2 = s.setSched x := by
  unfold State.choice
  split
  · exact ⟨s.sched, rfl⟩
  · exact ⟨_, rfl⟩

/-- A choice that is asked for under a condition moves the model's own fields only. -/
theorem choiceIf_eq (b : Prop) [Decidable b] (s : State) : ∃ (p : Nat) (x : Sched),
    (if b then (0, s) else s.choice) = (p, s.setSched x) := by
  obtain ⟨x, hx⟩ := choice_eq s
  split_ifs
  · exact ⟨0, s.sched, rfl⟩
  · exact ⟨s.choice.1, x, Prod.ext rfl hx⟩

/-- A core's L1 TLB after an entry has come, where `p` picks what a full one loses. -/
def withTlb (e : TlbEntry) (p : Nat) (k : Core) : Core :=
  { k with tlb := if k.tlb.contains e || k.oldTlb.contains e then k.tlb else e :: tlbRoom 64 p k.tlb }

/-- What the L1 and L2 TLBs hold after an entry has come; `p` and `q` pick what a full one loses. -/
theorem tlbFill_eq (s : State) (c : CoreNo) (e : TlbEntry) : ∃ (p q : Nat) (x : Sched), s.tlbFill c e =
    ({ s with
      l2tlb := if (s.l2 c).contains e || (s.core c).oldTlb.contains e then s.l2tlb
        else s.l2tlb.setIfInBounds (c.val / 4) (e :: tlbRoom 2048 q (s.l2 c)),
      sched := x } : State).updCore c (withTlb e p) := by
  obtain ⟨p, x, hx⟩ := choiceIf_eq
    (((s.core c).tlb.contains e || (s.core c).oldTlb.contains e || decide ((s.core c).tlb.length < 64)) = true) s
  obtain ⟨q, y, hy⟩ := choiceIf_eq ((s.l2 c).length < 2048) ((s.setSched x).updCore c (withTlb e p))
  have h : s.tlbFill c e = (let u := (s.setSched x).updCore c (withTlb e p)
      if (s.l2 c).contains e || (s.core c).oldTlb.contains e then u
      else { u.setSched y with l2tlb := s.l2tlb.setIfInBounds (c.val / 4) (e :: tlbRoom 2048 q (s.l2 c)) }) := by
    simp only [State.tlbFill]
    rw [hx]
    exact ite_congr rfl (fun _ => rfl) fun _ => congrArg (fun r : Nat × State =>
      { r.2 with l2tlb := r.2.l2tlb.setIfInBounds (c.val / 4) (e :: tlbRoom 2048 r.1 (r.2.l2 c)) }) hy
  rw [h]
  split_ifs
  · exact ⟨p, q, x, rfl⟩
  · exact ⟨p, q, y, rfl⟩

/-- What a TLB of a size holds after an entry has come, where `keep` says whether it was there: only that entry is new,
the size is kept, and below the size nothing is lost. -/
theorem tlb_withEntry {size p : Nat} {tlb : List TlbEntry} {e : TlbEntry} {keep : Prop} [Decidable keep] (hsize : 0 < size) :
    let u := if keep then tlb else e :: tlbRoom size p tlb
    (∀ x ∈ u, x = e ∨ x ∈ tlb) ∧ (tlb.length ≤ size → u.length ≤ size) ∧ (tlb.length < size → ∀ x ∈ tlb, x ∈ u) := by
  intro u
  by_cases hk : keep
  · simp only [u, if_pos hk]
    exact ⟨fun x hx => .inr hx, id, fun _ x hx => hx⟩
  · simp only [u, if_neg hk]
    refine ⟨fun x hx => ?_, fun h => length_tlbRoom_lt hsize h, fun h x hx => ?_⟩
    · exact (List.mem_cons.mp hx).imp_right tlbRoom_subset
    · rw [tlbRoom_of_lt h]
      exact List.mem_cons_of_mem e hx

theorem l2_setIfInBounds (s : State) (c : CoreNo) (es : List TlbEntry) :
    ({ s with l2tlb := s.l2tlb.setIfInBounds (c.val / 4) es } : State).l2 c = es := by
  have hc : c.val / 4 < 64 := by omega
  simp [State.l2, hc]

theorem tlbFill_facts (s : State) (c : CoreNo) (e : TlbEntry) : let u := s.tlbFill c e
    (e ∈ (u.core c).tlb ∨ e ∈ (u.core c).oldTlb) ∧ (∀ x ∈ (u.core c).tlb, x = e ∨ x ∈ (s.core c).tlb) ∧
    ((s.core c).tlb.length ≤ 64 → (u.core c).tlb.length ≤ 64) ∧
    ((s.core c).tlb.length < 64 → ∀ x ∈ (s.core c).tlb, x ∈ (u.core c).tlb) ∧
    (∀ x ∈ u.l2 c, x = e ∨ x ∈ s.l2 c) ∧ ((s.l2 c).length ≤ 2048 → (u.l2 c).length ≤ 2048) ∧ u.dev = s.dev := by
  obtain ⟨p, q, x, h⟩ := tlbFill_eq s c e
  intro u
  have hcore : u.core c = withTlb e p (s.core c) := by
    simp only [u, h]
    exact State.core_updCore_same _ _ _
  have hl2 : u.l2 c = if (s.l2 c).contains e || (s.core c).oldTlb.contains e then s.l2 c
      else e :: tlbRoom 2048 q (s.l2 c) := by
    simp only [u, h]
    split_ifs
    · rfl
    · exact l2_setIfInBounds s c _
  obtain ⟨honly, hlen, hkeep⟩ := tlb_withEntry (size := 64) (p := p) (tlb := (s.core c).tlb) (e := e)
    (keep := ((s.core c).tlb.contains e || (s.core c).oldTlb.contains e) = true) (by omega)
  obtain ⟨honly2, hlen2, -⟩ := tlb_withEntry (size := 2048) (p := q) (tlb := s.l2 c) (e := e)
    (keep := ((s.l2 c).contains e || (s.core c).oldTlb.contains e) = true) (by omega)
  rw [hcore, hl2]
  refine ⟨?_, honly, hlen, hkeep, honly2, hlen2, by simp only [u, h]; rfl⟩
  simp only [withTlb]
  split_ifs with hin
  · simpa [List.contains_eq_mem] using hin
  · exact .inl List.mem_cons_self

/-! ### Invalidations (R271) -/

theorem exec_translationInvalidation_some {ctx : W32} {g : Bool} {s : State} (h : (s.ctx? ctx).isSome = true) :
    exec (.translationInvalidation ctx g) s = .next (s.invalidate ctx g) := by
  change execTranslationInvalidation ctx g s = _
  rw [execTranslationInvalidation, if_pos h]

theorem ctxPart_eq_iff (m n : W32) : ctxPart m = ctxPart n ↔ m.extractLsb' 28 4 = n.extractLsb' 28 4 :=
  BitVec.toFin_inj

theorem forall_cores_iff {s : State} {p : Core → Prop} : (∀ k ∈ s.cores.toList, p k) ↔ ∀ c : CoreNo, p (s.core c) := by
  simp only [Vector.mem_toList_iff]
  constructor
  · exact fun h c => h _ (Vector.getElem_mem _)
  · intro h k hk
    obtain ⟨i, hi, rfl⟩ := Vector.getElem_of_mem hk
    exact h ⟨i, hi⟩

/-- An entry of a Retriever queue is no marker of the context. -/
theorem noMarker_iff {q : List RetEntry} {ctx : W32} : (∀ e ∈ q, (match e with
    | .marker x _ => x != ctx
    | .cmd _ => true) = true) ↔ ∀ g, .marker ctx g ∉ q := by
  constructor
  · intro h g hg
    simpa using h _ hg
  · rintro h (x | ⟨x, g⟩) he
    · rfl
    · exact bne_iff_ne.mpr fun hx => h g (hx ▸ he)

theorem invalidated_iff (s : State) (ctx : W32) : s.invalidated ctx = true ↔
    ∀ c, (∀ q ∈ (s.core c).retq.toList, ∀ g, .marker ctx g ∉ q) ∧
      (∀ p ∈ (s.core c).stores ++ (s.core c).lstores, p.ctx.extractLsb' 28 4 ≠ ctx.extractLsb' 28 4) ∧
      ((s.core c).ctx.extractLsb' 28 4 = ctx.extractLsb' 28 4 → ∀ l ∈ (s.core c).lateLoads, l.dev = false) := by
  have hpart : ∀ m : W32, ctxPart m ≠ ctxPart ctx ↔ m.extractLsb' 28 4 ≠ ctx.extractLsb' 28 4 :=
    fun m => (ctxPart_eq_iff m ctx).not
  unfold State.invalidated
  rw [List.all_eq_true]
  rw [forall_cores_iff]
  refine forall_congr' fun c => ?_
  rw [Bool.and_eq_true, Bool.and_eq_true, Bool.and_eq_true, and_assoc, and_assoc]
  refine and_congr ?_ ((and_assoc.symm.trans (and_congr ?_ ?_)))
  · simp only [List.all_eq_true]
    exact forall_congr' fun q => forall_congr' fun _ => noMarker_iff
  · simp only [List.all_eq_true, bne_iff_ne, hpart, List.mem_append, or_imp, forall_and]
  · rw [← ctxPart_eq_iff]
    simp only [Bool.not_eq_true', Bool.and_eq_false_iff, beq_eq_false_iff_ne, List.any_eq_false, Bool.not_eq_true,
      imp_iff_not_or]

theorem exec_invalidationDone_ready {n : W32} {s : State} {x : Ctx} (hx : s.ctx? n = some x) (hinval : x.inval = true)
    (h : s.invalidated n = true) : exec (.invalidationDone n) s =
      .next (settleParts ((s.flushHeld fun h => ctxPart h.ctx == ctxPart n).endInvalidation n)) := by
  change execInvalidationDone n s = _
  simp only [execInvalidationDone, hx, hinval, h, Bool.and_self, if_true]

/-! ### The scrubber (R294) -/

theorem mem_setInsert {x y : Nat} {ys : List Nat} : y ∈ setInsert x ys ↔ y = x ∨ y ∈ ys := by
  induction ys with
  | nil => simp [setInsert]
  | cons z zs ih =>
    unfold setInsert
    split_ifs with hlt heq
    · simp
    · subst heq
      simp
    · simp only [List.mem_cons, ih]
      tauto

theorem marked_set (b : Scrub) (g n : Nat) (v : Bool) : (b.set g v).marked n = if n = g then v else b.marked n := by
  obtain ⟨all, differ⟩ := b
  unfold Scrub.set Scrub.marked
  by_cases hv : v = all
  · by_cases hn : n = g <;> simp [hv, hn, List.contains_eq_mem]
  · have hall : all = !v := by cases v <;> cases all <;> simp_all
    by_cases hn : n = g <;> simp [hall, hn, mem_setInsert, List.contains_eq_mem]

theorem memRead_memClear (m : Memory) (lo hi a : Nat) :
    memRead (memClear m lo hi) a = if lo ≤ a ∧ a < hi then 0 else memRead m a := by
  unfold memClear
  induction m with
  | nil => simp [memRead]
  | cons x m ih =>
    obtain ⟨k, v⟩ := x
    rw [List.filter_cons]
    by_cases hk : lo ≤ k ∧ k < hi
    · rw [if_neg (by simpa using hk), ih]
      split_ifs with ha
      · rfl
      · rw [memRead, if_neg (by rintro rfl; exact ha hk)]
    · rw [if_pos (by simpa [Nat.not_lt, imp_iff_not_or] using hk), memRead, memRead, ih]
      split_ifs with hka ha
      · exact absurd (hka ▸ ha) hk
      · rfl
      · rfl
      · rfl

/-- Zeros written into a marked granule, which reads zero already, change no byte. -/
theorem byte_unmark (d : DevMem) (g a : Nat) : (d.unmark g).byte a = d.byte a := by
  unfold DevMem.unmark
  split_ifs with hg
  · simp only [DevMem.byte, marked_set, memRead_memClear]
    by_cases ha : a / 65536 = g
    · have hin : g * 65536 ≤ a ∧ a < g * 65536 + 65536 := by omega
      simp [ha, hg, hin]
    · have hout : ¬ (g * 65536 ≤ a ∧ a < g * 65536 + 65536) := by omega
      simp [ha, hout]
  · rfl

/-- What a scrub changes of the device memory. -/
theorem unmark_eq (d : DevMem) (g : Nat) : d.unmark g = { d with
    hbm := (d.unmark g).hbm, scrub := (d.unmark g).scrub, poison := (d.unmark g).poison,
    l2Poison := (d.unmark g).l2Poison } := by
  unfold DevMem.unmark
  split_ifs <;> rfl

theorem poison_unmark {d : DevMem} {g : Nat} (h : d.scrub.marked g = true) :
    (∀ u ∈ (d.unmark g).poison, u / 2048 ≠ g) ∧ ∀ u ∈ (d.unmark g).l2Poison, u / 8192 ≠ g := by
  unfold DevMem.unmark
  rw [if_pos h]
  exact ⟨fun u hu => by simpa using (List.mem_filter.mp hu).2, fun u hu => by simpa using (List.mem_filter.mp hu).2⟩

theorem marked_unmark (d : DevMem) (g : Nat) : (d.unmark g).scrub.marked g = false := by
  unfold DevMem.unmark
  split_ifs with hg
  · simp [marked_set]
  · simpa using hg

/-- An update of a core is given by what it makes of the core as it stands. -/
theorem updCore_congr {c : CoreNo} {f g : Core → Core} (s : State) (h : f (s.core c) = g (s.core c)) :
    s.updCore c f = s.updCore c g :=
  congrArg (s.setCore c) h

/-! ### ECC errors (R285) -/

/-- Poison leaves the task of the core that it strikes. -/
theorem task_poison {p : EccPlace} {c : CoreNo} (s : State) (h : eccCore p = some c) :
    ((s.poison p).core c).task = (s.core c).task := by
  cases p <;> simp only [eccCore, Option.some.injEq, reduceCtorEq] at h <;> subst h <;>
    simp [State.poison, State.updThread, eccCore, Core.setThread]

theorem poison_tileCode {c : CoreNo} {a : Nat} {s : State} {v : Overlay}
    (h : (s.core c).mem.overlays.getLast? = some v) : s.poison (.tileCode c a) = s.updCore c fun k =>
      { k with mem := { k.mem with codePoison := (v.ident, a / 8) :: k.mem.codePoison } } := by
  have hk : { s.core c with mem := (s.core c).mem.poisonAt (.tileCode c a) } =
      { s.core c with mem := { (s.core c).mem with codePoison := (v.ident, a / 8) :: (s.core c).mem.codePoison } } := by
    simp only [CoreMem.poisonAt, h]
  exact congrArg (s.setCore c) hk

theorem exec_eccError_core {p : EccPlace} {c : CoreNo} (h : eccCore p = some c) (syn : W64) (s : State) :
    exec (.eccError p true syn) s =
      .next (((s.setDev { s.dev with uncorrected := s.dev.uncorrected + 1 }).poison p).machineCheck 2
        ((s.core c).task.map Task.ctx) c.val (eccConcerns p).1 syn (eccConcerns p).2) := by
  change execEccError p true syn s = _
  simp only [execEccError, Bool.true_eq_false, if_false, h]
  rw [task_poison _ h]
  rfl

/-! ### Clock gating (R27, R28) -/

/-- A number of a cause as WAKEREASON's byte. -/
theorem ofNat_cause_eq_three {m : Nat} (h : m ≤ 3) : (BitVec.ofNat 8 m == (3 : Byte)) = (m == 3) := by
  interval_cases m <;> rfl

theorem ofNat_cause_lt {m : Nat} (h : m ≤ 3) (w : Byte) : BitVec.ofNat 8 m < w ↔ m < w.toNat := by
  rw [BitVec.lt_def, BitVec.toNat_ofNat, Nat.mod_eq_of_lt (by omega)]

theorem wakeUp_of_gated {k : Core} {now m : Nat} (hm : m ≤ 3) (h : k.health.gated = true) :
    k.wakeUp now (BitVec.ofNat 8 m) = { k with
      health := { k.health with gated := false, woke := k.placing.isSome || m == 3, wokeAt := some now },
      seq := { k.seq with wake := BitVec.ofNat 8 m } } := by
  simp only [Core.wakeUp, h, if_true, ofNat_cause_eq_three hm]

/-- A core that has woken in this cycle for a higher cause. -/
theorem wakeUp_of_woken {k : Core} {now m : Nat} (hm : m ≤ 3) (h : k.health.gated = false)
    (hat : k.health.wokeAt = some now) (hlt : m < k.seq.wake.toNat) :
    k.wakeUp now (BitVec.ofNat 8 m) = { k with
      health := { k.health with woke := k.health.woke || m == 3 }, seq := { k.seq with wake := BitVec.ofNat 8 m } } := by
  simp only [Core.wakeUp, h, hat, ofNat_cause_lt hm, hlt, and_self, if_true, Bool.false_eq_true, if_false,
    ofNat_cause_eq_three hm]

theorem wakeUp_of_awake {k : Core} {now m : Nat} (hm : m ≤ 3) (h : k.health.gated = false)
    (hnot : k.health.wokeAt ≠ some now ∨ k.seq.wake.toNat ≤ m) : k.wakeUp now (BitVec.ofNat 8 m) = k := by
  have hno : ¬ (k.health.wokeAt = some now ∧ m < k.seq.wake.toNat) := by
    rintro ⟨hat, hlt⟩
    exact hnot.elim (absurd hat) (Nat.not_le_of_lt hlt)
  simp only [Core.wakeUp, h, ofNat_cause_lt hm, Bool.false_eq_true, if_false, if_neg hno]

theorem wakeCause_iff (c : CoreNo) (n : Nat) (s : State) : s.wakeCause c n = true ↔
    (n = 1 ∧ (s.core c).task.isSome = true ∧ (s.core c).placing = none ∧ (s.core c).seq.mode = .run ∧
      (s.seqWaits c = false ∨ ∃ x ∈ (s.core c).threads, s.threadReleased c x.2.2 = true)) ∨
    (n = 3 ∧ (s.core c).placing.isSome = true) := by
  unfold State.wakeCause
  split <;> simp_all [Option.isNone_iff_eq_none, and_assoc]

/-- Of the causes that are there, the lowest is recorded. -/
theorem wake_eq {s : State} {c : CoreNo} {n m : Nat} (hmn : m ≤ n) (hm : s.wakeCause c m = true)
    (hlow : ∀ l < m, s.wakeCause c l = false) :
    s.wake c n = s.updCore c fun k => k.wakeUp s.now (BitVec.ofNat 8 m) := by
  have hfind : ((List.range n).find? (s.wakeCause c)).getD n = m := by
    rcases hmn.lt_or_eq with hlt | rfl
    · rw [List.find?_range_eq_some.mpr ⟨hm, List.mem_range.mpr hlt, fun l hl => by simp [hlow l hl]⟩]
      rfl
    · rw [List.find?_eq_none.mpr fun l hl => by simp [hlow l (List.mem_range.mp hl)]]
      rfl
  simp only [State.wake, hfind]

theorem exec_clockGate_rest {c : CoreNo} {s : State}
    (h : ((s.core c).task = none ∧ (s.core c).placing = none ∧ (s.core c).enginesEmpty = true) ∨
      ((s.core c).task.isSome = true ∧ (s.core c).placing = none ∧ s.seqWaits c = true ∧ s.standDue c = false ∧
        (s.core c).asleep = true)) :
    exec (.clockGate c) s = .next (s.updCore c fun k => { k with health := { k.health with gated := true } }) := by
  change execClockGate c s = _
  simp only [execClockGate]
  rw [if_pos]
  rcases h with ⟨htask, hplacing, hempty⟩ | ⟨htask, hplacing, hwaits, hdue, hasleep⟩
  · simp [htask, hplacing, hempty]
  · simp [htask, hplacing, hwaits, hdue, hasleep]

theorem exec_coreWake_cause {c : CoreNo} {n m : Nat} {s : State} (hn : s.wakeCause c n = true) (hmn : m ≤ n)
    (hm : s.wakeCause c m = true) (hlow : ∀ l < m, s.wakeCause c l = false) :
    exec (.coreWake c n) s = .next (s.updCore c fun k => k.wakeUp s.now (BitVec.ofNat 8 m)) := by
  change execCoreWake c n s = _
  rw [execCoreWake, if_pos hn, wake_eq hmn hm hlow]

/-- A cause of R28 that lasts is 1 or 3. -/
theorem wakeCause_le {c : CoreNo} {n : Nat} {s : State} (h : s.wakeCause c n = true) : n ≤ 3 := by
  rw [wakeCause_iff] at h
  omega

/-- Settles O51: each step by the lemma about it. -/
theorem translationAndMemoryEvents : Obligations.TranslationAndMemoryEvents := by
  refine ⟨fun c va s w hw => ?_, toBytes_fbEntry, 
    fun k => ⟨rfl, fun l n => rfl, fun l n _ _ => ?_, fun id m hm => agentWho_cmd hm⟩,
    tlbFill_facts, fun ctx g s h => ?_, invalidated_iff, fun n s x hx hinval h => exec_invalidationDone_ready hx hinval h,
    fun g s hwf => ?_, fun pl syn s => rfl, fun pa syn s => rfl, fun c a syn s => ?_, fun c a syn s => ?_, fun th r => ?_,
    fun c s h => exec_clockGate_rest h, wakeCause_iff, fun c n m s hn hmn hm hlow => ?_⟩
  · rw [exec_pageWalkComplete_one hw]
    refine ⟨fun e he => ?_, fun f hf => ⟨fun habort => ?_, fun habort => ⟨fun hknown => ?_, fun hknown hfull => ?_,
      fun hknown hroom => ?_⟩⟩⟩
    · simp only [endWalk, he]
    · simp only [endWalk, hf, parkWalk, habort, if_true]
    · simp only [endWalk, hf, parkWalk, habort, Bool.false_eq_true, if_false]
      rw [if_pos hknown]
    · simp only [endWalk, hf, parkWalk, habort, Bool.false_eq_true, if_false]
      rw [if_neg (by rw [hknown]; decide), if_pos hfull]
    · simp only [endWalk, hf, parkWalk, habort, Bool.false_eq_true, if_false]
      rw [if_neg (by rw [hknown]; decide), if_neg (by omega)]
      rfl
  · simp [Walker.agentWho, whoThread, Nat.add_comm, Nat.mul_comm]
  · rw [exec_translationInvalidation_some h]
    rfl
  · exact ⟨_, rfl, marked_unmark _ _, byte_unmark _ _, fun hg => poison_unmark hg,
      congrArg s.setDev (unmark_eq s.dev g)⟩
  · exact exec_eccError_core rfl syn s
  · refine ⟨exec_eccError_core rfl syn s, fun lane => exec_eccError_core rfl syn s, exec_eccError_core rfl syn s,
      fun lane slot r => exec_eccError_core rfl syn s, fun pc => exec_eccError_core rfl syn s, fun v hv => ?_,
      exec_eccError_core rfl syn s, rfl⟩
    rw [exec_eccError_core rfl syn s]
    exact congrArg (fun x : State => Host.Outcome.next (x.machineCheck 2 ((s.core c).task.map Task.ctx) c.val 255 syn 0))
      (poison_tileCode (s := s.setDev _) hv)
  · have hr : r.val / 2 < 32 := by omega
    refine ⟨?_, fun n hne => ?_⟩
    · simp [getLsbD_one_shiftLeft _ _ hr]
    · rw [BitVec.getLsbD_or]
      have hn : ¬ n = r.val / 2 := hne
      by_cases h32 : n < 32
      · simp [getLsbD_one_shiftLeft _ _ h32, hn]
      · simp [BitVec.getLsbD_of_ge _ _ (Nat.le_of_not_lt h32)]
  · rw [exec_coreWake_cause hn hmn hm hlow]
    have hm3 := wakeCause_le hm
    refine ⟨fun hgated => ?_, fun hgated hat hlt => ?_, fun hgated hnot => ?_⟩
    · exact congrArg (fun k => Host.Outcome.next (s.setCore c k)) (wakeUp_of_gated hm3 hgated)
    · exact congrArg (fun k => Host.Outcome.next (s.setCore c k)) (wakeUp_of_woken hm3 hgated hat hlt)
    · rw [State.updCore, wakeUp_of_awake hm3 hgated hnot, State.setCore_self]
end Sys2Proof
end

section
/-! What stays when accesses act: loads and atomics that read, stores that reach their banks, the L1 or their home
slices, releases and acquires. `bareState` is a state without the fields that these move: memories, the words of
results on their way, floors, the places where stores wait, the folds noted and the choices used up. Every such
operation has one equation, that it leaves `bareState` as it was. -/

namespace Sys2Proof
open Machine

/-! ### The parts that stay -/

def bareSPend (p : SPend) : SPend := { p with v := none, load := none }

def bareLPend (p : LPend) : LPend := { p with res := .vals [] }

def bareSeq (q : Seq) : Seq := { q with pend := q.pend.map bareSPend, floor := {} }

def bareThread (th : Thread) : Thread := { th with pend := th.pend.map bareLPend, floor := {} }

def bareOp (o : Op) : Op := { o with folded := [], floor := {} }

def bareCmd (m : Cmd) : Cmd := { m with floor := {} }

def bareCore (k : Core) : Core :=
  { k with
    seq := bareSeq k.seq, mem := {}, ops := k.ops.map bareOp, slots := k.slots.map (Option.map bareThread),
    cmds := k.cmds.map bareCmd, port := [], stores := [], nextStore := 0, lstores := [], kstores := [],
    relCore := {}, relOut := {} }

def bareState (s : State) : State :=
  { s with
    cores := s.cores.map bareCore, dev := { recs := s.dev.recs, closes := s.dev.closes },
    sched := { s.sched with choices := [], fresh := 0 } }

/-! ### Reading facts off -/

theorem core_bareState (s : State) (c : CoreNo) : (bareState s).core c = bareCore (s.core c) := by
  simp [bareState, State.core]

/-- Two states with one rest have cores with one rest. -/
theorem bareCore_eq {s t : State} (h : bareState t = bareState s) (c : CoreNo) :
    bareCore (t.core c) = bareCore (s.core c) := by
  rw [← core_bareState, ← core_bareState, h]

/-- A field of a core that no access moves. -/
theorem coreField_eq {β : Type} {s t : State} (h : bareState t = bareState s) (c : CoreNo) (g : Core → β)
    (hg : ∀ k, g (bareCore k) = g k) : g (t.core c) = g (s.core c) := by
  rw [← hg, ← hg (s.core c), bareCore_eq h]

/-- A field of a sequencer that no access moves. -/
theorem seqField_eq {β : Type} {s t : State} (h : bareState t = bareState s) (c : CoreNo) (g : Seq → β)
    (hg : ∀ q, g (bareSeq q) = g q) : g (t.core c).seq = g (s.core c).seq :=
  coreField_eq h c (fun k => g k.seq) fun k => hg k.seq

/-- A field of the rest of the state. -/
theorem stateField_eq {β : Type} {s t : State} (h : bareState t = bareState s) (g : State → β)
    (hg : ∀ s, g (bareState s) = g s) : g t = g s := by
  rw [← hg, ← hg s, h]

/-! ### One core -/

@[simp] theorem bareCore_kwrite (k : Core) (a : Nat) (bs : List Byte) : bareCore (k.kwrite a bs) = bareCore k := rfl

@[simp] theorem bareCore_toL1 (k : Core) (p : PStore) : bareCore (k.toL1 p) = bareCore k := rfl

theorem bareCore_setThread {k : Core} {lane slot : Nat} {t : Option Thread}
    (h : t.map bareThread = (k.thread lane slot).map bareThread) : bareCore (k.setThread lane slot t) = bareCore k := by
  have hslots : (k.setThread lane slot t).slots.map (Option.map bareThread) = k.slots.map (Option.map bareThread) := by
    ext1 i hi
    simp only [Core.setThread, Vector.getElem_map, Vector.getElem_setIfInBounds]
    split_ifs with hix
    · subst hix
      rw [h]
      simp [Core.thread, hi]
    · rfl
  simp only [bareCore, hslots]
  rfl

@[simp] theorem bareCore_setFloor (k : Core) (a : Agent) (f : Floor) : bareCore (k.setFloor a f) = bareCore k := by
  cases a with
  | seq => rfl
  | thread lane slot =>
    refine bareCore_setThread ?_
    rw [Option.map_map]
    rfl

@[simp] theorem bareCore_keepFloors (k : Core) (p : PStore) (stamp : Nat) :
    bareCore (k.keepFloors p stamp) = bareCore k := by
  have hslots : (k.keepFloors p stamp).slots.map (Option.map bareThread) = k.slots.map (Option.map bareThread) := by
    ext1 i hi
    simp only [Core.keepFloors, Vector.getElem_map, Vector.getElem_ofFn, Option.map_map]
    rfl
  have hops : (k.keepFloors p stamp).ops.map bareOp = k.ops.map bareOp := by
    simp [Core.keepFloors, bareOp, Function.comp_def]
  have hcmds : (k.keepFloors p stamp).cmds.map bareCmd = k.cmds.map bareCmd := by
    simp [Core.keepFloors, bareCmd, Function.comp_def]
  simp only [bareCore, hslots, hops, hcmds]
  rfl

/-- A list that an update changes at one place, where nothing that stays changes. -/
theorem map_modify_of_keeps {α β : Type} (g : α → β) (f : α → α) (h : ∀ x, g (f x) = g x) (xs : List α) (i : Nat) :
    (xs.modify i f).map g = xs.map g := by
  refine List.ext_getElem? fun n => ?_
  simp only [List.getElem?_map, List.getElem?_modify]
  split_ifs
  · cases xs[n]? <;> simp [h]
  · simp

@[simp] theorem bareCore_bindLate (k : Core) (x : LateAt) (v : Nat) : bareCore (k.bindLate x v) = bareCore k := by
  unfold Core.bindLate
  split
  · have hpend := map_modify_of_keeps bareSPend
      (fun p => { p with v := some (extendTo 64 x.l.n x.l.sx v), load := none }) (fun _ => rfl) k.seq.pend x.ix
    simp only [bareCore, bareSeq, hpend]
  · refine bareCore_setThread ?_
    rw [Option.map_map]
    refine congrFun (congrArg Option.map (funext fun th => ?_)) _
    have hpend := map_modify_of_keeps bareLPend (fun p => { p with res := .vals (x.l.words v) }) (fun _ => rfl) th.pend x.ix
    simp only [Function.comp_apply, bareThread, hpend]

@[simp] theorem bareCore_landKstores (k : Core) (a : Agent) (take : KStore → Bool) :
    bareCore (k.landKstores a take) = bareCore k :=
  foldl_keeps bareCore (fun (k : Core) (p : KStore) => k.kwrite p.addr p.bytes) (fun _ _ => rfl) _ _

@[simp] theorem bareCore_landLstores (k : Core) (a : Agent) (take : PStore → Bool) :
    bareCore (k.landLstores a take) = bareCore k :=
  foldl_keeps bareCore Core.toL1 (fun _ _ => rfl) _ _

@[simp] theorem bareCore_landPart (k : Core) (p : KStore) (take : Nat → Bool) :
    bareCore (k.landPart p take) = bareCore k :=
  foldl_keeps bareCore (fun (k : Core) (b : Byte × Nat) => k.kwrite (p.addr + b.2) [b.1]) (fun _ _ => rfl) _ _

theorem bareCore_updOp {k : Core} {id : Nat} {f : Op → Op} (h : ∀ o, bareOp (f o) = bareOp o) :
    bareCore (k.updOp id f) = bareCore k := by
  have hops : (k.updOp id f).ops.map bareOp = k.ops.map bareOp := by
    simp only [Core.updOp, List.map_map]
    refine List.map_congr_left fun o _ => ?_
    simp only [Function.comp_apply]
    split_ifs
    · exact h o
    · rfl
  simp only [bareCore, hops]
  rfl

/-! ### The state -/

theorem bareState_updCore {s : State} {c : CoreNo} {f : Core → Core} (h : bareCore (f (s.core c)) = bareCore (s.core c)) :
    bareState (s.updCore c f) = bareState s := by
  have hcores : (s.updCore c f).cores.map bareCore = s.cores.map bareCore := by
    ext1 i hi
    simp only [State.updCore, State.setCore, Vector.getElem_map, Vector.getElem_set]
    split_ifs with hix
    · subst hix
      exact h
    · rfl
  simp only [bareState, hcores]
  rfl

theorem bareState_setCore {s : State} {c : CoreNo} {k : Core} (h : bareCore k = bareCore (s.core c)) :
    bareState (s.setCore c k) = bareState s :=
  bareState_updCore (f := fun _ => k) h

theorem bareState_setDev {s : State} {d : DevMem} (hrecs : d.recs = s.dev.recs) (hcloses : d.closes = s.dev.closes) :
    bareState (s.setDev d) = bareState s := by
  simp only [bareState, State.setDev, hrecs, hcloses]

@[simp] theorem bareState_choice (s : State) : bareState s.choice.2 = bareState s := by
  unfold State.choice
  split <;> rfl

@[simp] theorem bareState_undef (s : State) (w : Nat) : bareState (s.undef w).2 = bareState s := rfl

theorem put_closes (d : DevMem) (src : Nat) (kind : WKind) (pa : Nat) (bs : List Byte) :
    (d.put src kind pa bs).closes = d.closes := by
  refine foldl_keeps DevMem.closes _ (fun d u => ?_) _ _
  unfold DevMem.unmark
  split <;> rfl

theorem bareState_put (s : State) (src : Nat) (kind : WKind) (pa : Nat) (bs : List Byte) :
    bareState (s.setDev (s.dev.put src kind pa bs)) = bareState s :=
  bareState_setDev (put_recs _ _ _ _ _) (put_closes _ _ _ _ _)

theorem foldWrite_keeps (d : DevMem) (ctx : W32) (pidx pa n : Nat) (replay : Bool) :
    (d.foldWrite ctx pidx pa n replay).recs = d.recs ∧ (d.foldWrite ctx pidx pa n replay).closes = d.closes := by
  unfold DevMem.foldWrite
  split <;> exact ⟨rfl, rfl⟩

@[simp] theorem bareState_homePut (s : State) (src : Nat) (kind : WKind) (ctx : W32) (pidx : Nat) (replay : Bool)
    (pa : Nat) (bs : List Byte) : bareState (s.homePut src kind ctx pidx replay pa bs) = bareState s := by
  obtain ⟨hrecs, hcloses⟩ := foldWrite_keeps (s.dev.put src kind pa bs) ctx pidx pa bs.length replay
  exact bareState_setDev (hrecs.trans (put_recs _ _ _ _ _)) (hcloses.trans (put_closes _ _ _ _ _))

@[simp] theorem bareState_landHeld (s : State) (h : Held) : bareState (s.landHeld h) = bareState s :=
  (bareState_updCore (bareCore_setFloor _ _ _)).trans ((bareState_setDev rfl rfl).trans (bareState_homePut _ _ _ _ _ _ _ _))

@[simp] theorem bareState_flushHeld (s : State) (take : Held → Bool) : bareState (s.flushHeld take) = bareState s :=
  foldl_keeps bareState _ bareState_landHeld _ _

@[simp] theorem bareState_homeWrite (s : State) (src : Nat) (kind : WKind) (ctx : W32) (pidx : Nat) (replay : Bool)
    (pa : Nat) (bs : List Byte) : bareState (s.homeWrite src kind ctx pidx replay pa bs) = bareState s := by
  simp [State.homeWrite]

theorem poisonFrom_keeps (d : DevMem) (m : CoreMem) (pa n : Nat) :
    (d.poisonFrom m pa n).recs = d.recs ∧ (d.poisonFrom m pa n).closes = d.closes := by
  unfold DevMem.poisonFrom
  split <;> exact ⟨rfl, rfl⟩

@[simp] theorem bareState_perform (s : State) (c : CoreNo) (p : PStore) : bareState (s.perform c p) = bareState s := by
  unfold State.perform
  obtain ⟨hrecs, hcloses⟩ := poisonFrom_keeps (s.homeWrite c.val .plain p.ctx p.pidx p.replay p.pa p.bytes).dev
    ((s.homeWrite c.val .plain p.ctx p.pidx p.replay p.pa p.bytes).core c).mem p.pa p.bytes.length
  exact (bareState_updCore (bareCore_keepFloors _ _ _)).trans
    ((bareState_setDev hrecs hcloses).trans (bareState_homeWrite _ _ _ _ _ _ _ _))

@[simp] theorem bareState_performAll (s : State) (c : CoreNo) (need : PStore → Bool) :
    bareState (s.performAll c need) = bareState s :=
  foldl_keeps bareState _ (fun s p => bareState_perform s c p) _ _

@[simp] theorem bareState_performFolds (s : State) (c : CoreNo) : bareState (s.performFolds c) = bareState s :=
  (bareState_updCore (by rfl)).trans (bareState_setDev rfl rfl)

@[simp] theorem bareState_devRead (s : State) (c : CoreNo) (a : Agent) (pa n : Nat) :
    bareState (s.devRead c a pa n).2 = bareState s := by
  unfold State.devRead
  exact (bareState_updCore (bareCore_setFloor _ _ _)).trans ((bareState_choice _).trans (bareState_flushHeld _ _))

@[simp] theorem bareState_loadBytes (s : State) (c : CoreNo) (a : Agent) (va : W64) (pa n : Nat) :
    bareState (s.loadBytes c a va pa n).2 = bareState s := by
  have hundef (x : Ctx) (acc : List Byte × State) (b : Byte × Nat) :
      bareState (if x.hides (va.toNat + b.2) = true then (acc.1 ++ [(acc.2.undef 8).1], (acc.2.undef 8).2)
        else (acc.1 ++ [b.1], acc.2)).2 = bareState acc.2 := by
    split <;> rfl
  simp only [State.loadBytes]
  split
  · exact bareState_devRead _ _ _ _ _
  · split
    · exact (foldl_keeps (fun acc : List Byte × State => bareState acc.2) _ (hundef _) _ _).trans
        (bareState_devRead s c a pa n)
    · exact bareState_devRead _ _ _ _ _

@[simp] theorem bareState_drawEach {α : Type} (xs : List α) (s : State) : bareState (drawEach xs s).2 = bareState s :=
  foldl_keeps (fun acc : List (α × Nat) × State => bareState acc.2) _ (fun acc _ => bareState_choice acc.2) _ _

@[simp] theorem bareState_performPart (s : State) (c : CoreNo) (p : PStore) (grp : Nat) (take : Nat → Bool) :
    bareState (s.performPart c p grp take) = bareState s :=
  foldl_keeps bareState _
    (fun _ _ => (bareState_updCore (bareCore_keepFloors _ _ _)).trans (bareState_put _ _ _ _ _)) _ _

theorem bareState_storeAround {act : State → Nat × State} (h : ∀ s, bareState (act s).2 = bareState s)
    (s : State) (xs : List ((CoreNo × PStore) × Nat)) : bareState (State.storeAround act s xs).2 = bareState s := by
  induction xs generalizing s with
  | nil => exact h s
  | cons x xs ih =>
    obtain ⟨⟨c, p⟩, mask⟩ := x
    set u := ((s.performPart c p (s.dev.stamp + 1) mask.testBit).storeAround act xs).2 with hu
    set w := (u.flushHeld fun h => h.overlaps p.pa p.bytes.length).performPart c p (s.dev.stamp + 1) fun i =>
      !mask.testBit i with hw
    have hdev : bareState (w.setDev (w.dev.foldWrite p.ctx p.pidx p.pa p.bytes.length p.replay)) = bareState w := by
      obtain ⟨hrecs, hcloses⟩ := foldWrite_keeps w.dev p.ctx p.pidx p.pa p.bytes.length p.replay
      exact bareState_setDev hrecs hcloses
    calc bareState (State.storeAround act s (((c, p), mask) :: xs)).2
        = bareState (w.setDev (w.dev.foldWrite p.ctx p.pidx p.pa p.bytes.length p.replay)) :=
          bareState_updCore rfl
      _ = bareState u := by rw [hdev, hw, bareState_performPart, bareState_flushHeld]
      _ = bareState s := by rw [hu, ih, bareState_performPart]

@[simp] theorem bareState_deviceRmw (c : CoreNo) (a : Agent) (r : Rmw) (pa n : Nat) (s : State) :
    bareState (deviceRmw c a r pa n s).2 = bareState s := by
  unfold deviceRmw
  refine (bareState_storeAround (fun s => ?_) _ _).trans (by simp)
  dsimp only
  split
  · exact bareState_setDev rfl rfl
  · exact (bareState_updCore (bareCore_setFloor _ _ _)).trans (bareState_homeWrite _ _ _ _ _ _ _ _)

@[simp] theorem bareState_kennelRmw (c : CoreNo) (r : Rmw) (addr n : Nat) (s : State) :
    bareState (kennelRmw c r addr n s).2 = bareState s := by
  unfold kennelRmw
  refine (bareState_setCore ?_).trans (by simp)
  have hland (take : Nat → Nat → Bool) (k : Core) (ps : List (KStore × Nat)) :
      bareCore (ps.foldl (fun k p => k.landPart p.1 (take p.2)) k) = bareCore k :=
    foldl_keeps bareCore (fun (k : Core) (p : KStore × Nat) => k.landPart p.1 (take p.2))
      (fun k p => bareCore_landPart k p.1 _) _ _
  have herase (k : Core) (ps : List (KStore × Nat)) : bareCore (ps.foldl (fun k p =>
      { k.landPart p.1 fun i => !p.2.testBit i with kstores := k.kstores.erase p.1 }) k) = bareCore k :=
    foldl_keeps bareCore (fun (k : Core) (p : KStore × Nat) =>
      { k.landPart p.1 fun i => !p.2.testBit i with kstores := k.kstores.erase p.1 })
      (fun k p => bareCore_landPart k p.1 _) _ _
  refine (foldl_keeps bareCore _ (fun k (x : LateAt × Nat) => bareCore_bindLate k x.1 _) _ _).trans ?_
  exact (herase _ _).trans ((bareCore_kwrite _ _ _).trans (hland (fun m => m.testBit) _ _))

@[simp] theorem bareState_noteFold (s : State) (c : CoreNo) (op pidx : Nat) :
    bareState (s.noteFold c op pidx) = bareState s := by
  unfold State.noteFold
  split
  · exact bareState_updCore (bareCore_updOp fun _ => rfl)
  · rfl

@[simp] theorem bareState_readLate (s : State) (c : CoreNo) (a : Agent) (l : LateLoad) :
    bareState (s.readLate c a l).2 = bareState s := by
  unfold State.readLate
  split
  · split
    · dsimp only
      split <;> simp
    · simp
  · split <;> simp

theorem bareState_bindSeqLoad (c : CoreNo) (take : LateLoad → Bool) (s : State) (i : Nat) :
    bareState (bindSeqLoad c take s i) = bareState s := by
  unfold bindSeqLoad
  split
  · rfl
  · split
    · rfl
    · exact (bareState_updCore (bareCore_bindLate _ _ _)).trans (bareState_readLate _ _ _ _)

theorem bareState_bindThreadLoad (c : CoreNo) (lane slot : Nat) (take : LateLoad → Bool) (s : State) (i : Nat) :
    bareState (bindThreadLoad c lane slot take s i) = bareState s := by
  unfold bindThreadLoad
  split
  · rfl
  · split
    · split
      · rfl
      · exact (bareState_updCore (bareCore_bindLate _ _ _)).trans (bareState_readLate _ _ _ _)
    · rfl

@[simp] theorem bareState_bindLoads (s : State) (c : CoreNo) (a : Agent) (take : LateLoad → Bool) :
    bareState (s.bindLoads c a take) = bareState s := by
  cases a with
  | seq => exact foldl_keeps bareState _ (bareState_bindSeqLoad c take) _ _
  | thread lane slot =>
    simp only [State.bindLoads]
    split
    · exact foldl_keeps bareState _ (bareState_bindThreadLoad c lane slot take) _ _
    · rfl

@[simp] theorem bareState_inOrder (s : State) (c : CoreNo) (a : Agent) (dev : Bool) (pa n : Nat) :
    bareState (s.inOrder c a dev pa n) = bareState s := bareState_bindLoads _ _ _ _

@[simp] theorem bareState_atBank (s : State) (c : CoreNo) (a : Agent) (addr n : Nat) :
    bareState (s.atBank c a addr n) = bareState s :=
  (bareState_updCore (bareCore_landKstores _ _ _)).trans (bareState_inOrder _ _ _ _ _ _)

@[simp] theorem bareState_atL1 (s : State) (c : CoreNo) (a : Agent) (pa n : Nat) :
    bareState (s.atL1 c a pa n) = bareState s :=
  (bareState_updCore (bareCore_landLstores _ _ _)).trans (bareState_inOrder _ _ _ _ _ _)

@[simp] theorem bareState_settleAgent (s : State) (c : CoreNo) (a : Agent) :
    bareState (s.settleAgent c a) = bareState s :=
  (bareState_updCore (by simp)).trans (bareState_bindLoads _ _ _ _)

@[simp] theorem bareState_release (s : State) (c : CoreNo) (a : Agent) (sc : Scope) :
    bareState (s.release c a sc) = bareState s := by
  unfold State.release
  refine (bareState_updCore rfl).trans ?_
  cases sc <;> simp

@[simp] theorem bareState_acquire (s : State) (c : CoreNo) (a : Agent) (sc : Scope) :
    bareState (s.acquire c a sc) = bareState s :=
  (bareState_updCore (bareCore_setFloor _ _ _)).trans (bareState_flushHeld _ _)

@[simp] theorem bareState_barSettle (s : State) (c : CoreNo) (a : Agent) (pl : BarPlace) :
    bareState (s.barSettle c a pl) = bareState s := by
  cases pl <;> simp [State.barSettle]

@[simp] theorem bareState_setBar (s : State) (src : Nat) (ctx : W32) (replay : Bool) (b : Bar) (pl : BarPlace) :
    bareState (s.setBar src ctx replay b pl) = bareState s := by
  cases pl with
  | kennel c a => exact bareState_updCore (bareCore_kwrite _ _ _)
  | device p => simp [State.setBar]
end Sys2Proof
end

section
/-! O47: results that arrive, the end of a barrier wait, a BIND update, and the fairness timer. -/

namespace Sys2Proof
open Machine

/-! ### Threads under updates -/

theorem thread_setThread_map (k : Core) (lane slot : Nat) (f : Thread → Thread) :
    (k.setThread lane slot ((k.thread lane slot).map f)).thread lane slot = (k.thread lane slot).map f := by
  unfold Core.thread Core.setThread
  by_cases h : slotIx lane slot < 512 <;> simp [h]

theorem thread_updThread_same (s : State) (c : CoreNo) (lane slot : Nat) (f : Thread → Thread) :
    (s.updThread c lane slot f).thread c lane slot = (s.thread c lane slot).map f := by
  simp only [State.thread, State.updThread, State.core_updCore_same]
  exact thread_setThread_map _ _ _ _

theorem updCore_updCore (s : State) (c : CoreNo) (f g : Core → Core) :
    (s.updCore c f).updCore c g = s.updCore c fun k => g (f k) := by
  simp only [State.updCore, State.core_setCore_same]
  simp [State.setCore]

theorem updThread_updThread (s : State) (c : CoreNo) (lane slot : Nat) (f g : Thread → Thread) :
    (s.updThread c lane slot f).updThread c lane slot g = s.updThread c lane slot fun th => g (f th) := by
  refine (updCore_updCore s c _ _).trans (updCore_congr s ?_)
  rw [thread_setThread_map, Option.map_map]
  simp [Core.setThread, Function.comp_def]

theorem bareThread_bareThread (th : Thread) : bareThread (bareThread th) = bareThread th := by
  simp [bareThread, bareLPend]

theorem thread_bareCore (k : Core) (lane slot : Nat) :
    (bareCore k).thread lane slot = (k.thread lane slot).map bareThread := by
  simp only [Core.thread, bareCore, Vector.getElem?_map]
  cases k.slots[slotIx lane slot]? <;> rfl

/-- A thread is there after any accesses, the same but for its floor and the words on their way. -/
theorem thread_of_bare {s t : State} (h : bareState t = bareState s) (c : CoreNo) (lane slot : Nat) :
    (t.thread c lane slot).map bareThread = (s.thread c lane slot).map bareThread :=
  coreField_eq h c (fun k => (k.thread lane slot).map bareThread) fun k => by
    rw [thread_bareCore, Option.map_map]
    exact congrFun (congrArg Option.map (funext bareThread_bareThread)) _

/-- So a result on its way is still there, for the same registers and as far on its way. -/
theorem lPend_of_bare {s t : State} (h : bareState t = bareState s) {c : CoreNo} {lane slot n : Nat} {th : Thread}
    {p : LPend} (hth : s.thread c lane slot = some th) (hp : th.pend[n]? = some p) :
    ∃ th' p', t.thread c lane slot = some th' ∧ th'.pend[n]? = some p' ∧ p'.arrived = p.arrived := by
  have hbare := thread_of_bare h c lane slot
  rw [hth, Option.map_some, Option.map_eq_some_iff] at hbare
  obtain ⟨th', hth', heq⟩ := hbare
  have hpend : (th'.pend.map bareLPend)[n]? = (th.pend.map bareLPend)[n]? := congrArg (fun th => th.pend[n]?) heq
  rw [List.getElem?_map, List.getElem?_map, hp, Option.map_some, Option.map_eq_some_iff] at hpend
  obtain ⟨p', hp', heq'⟩ := hpend
  have harrived : (bareLPend p').arrived = (bareLPend p).arrived := congrArg LPend.arrived heq'
  exact ⟨th', p', hth', hp', harrived⟩

/-! ### LONG_LATENCY_RESULT (R77) -/

/-- A result whose words are there is written. -/
theorem exec_longLatencyResult_vals {c : CoreNo} {lane slot n : Nat} {s : State} {th : Thread} {p : LPend} {ws : List W32}
    (hth : s.thread c lane slot = some th) (hp : th.pend[n]? = some p) (harrived : p.arrived = false)
    (hres : p.res = .vals ws) :
    exec (.longLatencyResult c lane slot n) s = .next (s.updThread c lane slot fun th => th.arrive n ws) := by
  change execLongLatencyResult c lane slot n s = _
  have hbind : bindThreadLoad c lane slot (fun _ => true) s n = s := by
    unfold bindThreadLoad
    simp only [hth, hp, Option.bind_some, harrived, hres]
  simp only [execLongLatencyResult, hbind, hth, hp, Option.bind_some, harrived, hres]

/-- A load that has not read yet reads, and its words are written. -/
theorem exec_longLatencyResult_load {c : CoreNo} {lane slot n : Nat} {s : State} {th : Thread} {p : LPend} {l : LateLoad}
    (hth : s.thread c lane slot = some th) (hp : th.pend[n]? = some p) (harrived : p.arrived = false)
    (hres : p.res = .load l) : let r := s.readLate c (.thread lane slot) l
    exec (.longLatencyResult c lane slot n) s = .next (r.2.updThread c lane slot fun th =>
      ({ th with pend := th.pend.modify n fun p => { p with res := .vals (l.words r.1) } } : Thread).arrive n
        (l.words r.1)) := by
  intro r
  change execLongLatencyResult c lane slot n s = _
  have hbind : bindThreadLoad c lane slot (fun _ => true) s n = r.2.updThread c lane slot fun th =>
      { th with pend := th.pend.modify n fun p => { p with res := .vals (l.words r.1) } } := by
    unfold bindThreadLoad
    simp only [hth, hp, Option.bind_some, harrived, hres, Bool.true_eq_false, if_false]
    rfl
  obtain ⟨th', p', hth', hp', harrived'⟩ := lPend_of_bare (bareState_readLate s c (.thread lane slot) l) hth hp
  simp only [execLongLatencyResult, hbind, thread_updThread_same]
  rw [show r.2.thread c lane slot = some th' from hth']
  simp only [Option.map_some, Option.bind_some, List.getElem?_modify, if_true, hp', Option.map_eq_map, harrived', harrived,
    updThread_updThread]

/-- Releasing registers empties them and changes nothing else. -/
theorem foldl_drop (rs : List RegNo) (th : Thread) : rs.foldl (fun th r => th.drop r.val) th =
    { th with full := (rs.foldl (fun th r => th.drop r.val) th).full } := by
  induction rs generalizing th with
  | nil => rfl
  | cons r rs ih => exact ih (th.drop r.val)

theorem flags_arrive {th : Thread} {n : Nat} {p : LPend} (ws : List W32) (hp : th.pend[n]? = some p) :
    (th.arrive n ws).flags = th.flags ||| p.fl ∧ (th.arrive n ws).pc = th.pc ∧ (th.arrive n ws).p = th.p := by
  simp only [Thread.arrive, hp]
  rw [foldl_drop, Thread.mend, putAll_keeps]
  exact ⟨rfl, rfl, rfl⟩

/-! ### SEQUENCER_RESULT (R98) -/

theorem sPend_of_bare {s t : State} (h : bareState t = bareState s) {c : CoreNo} {n : Nat} {p : SPend}
    (hp : (s.core c).seq.pend[n]? = some p) :
    ∃ p', (t.core c).seq.pend[n]? = some p' ∧ p'.d = p.d ∧ p'.fl = p.fl := by
  have hpend : (t.core c).seq.pend.map bareSPend = (s.core c).seq.pend.map bareSPend :=
    seqField_eq h c (fun q => q.pend.map bareSPend) fun q => by simp [bareSeq, bareSPend]
  have hn := congrArg (fun l : List SPend => l[n]?) hpend
  simp only [List.getElem?_map, hp, Option.map_some, Option.map_eq_some_iff] at hn
  obtain ⟨p', hp', heq⟩ := hn
  have hd : (bareSPend p').d = (bareSPend p).d := congrArg SPend.d heq
  have hfl : (bareSPend p').fl = (bareSPend p).fl := congrArg SPend.fl heq
  exact ⟨p', hp', hd, hfl⟩

theorem exec_sequencerResult_val {c : CoreNo} {n : Nat} {s : State} {d : SK} {v : W64} {fl : Flags6}
    (h : (s.core c).seq.pend[n]? = some ⟨d, some v, fl, none⟩) :
    exec (.sequencerResult c n) s = .next (s.updSeq c fun q =>
      (SK.put v { q with pend := q.pend.eraseIdx n } d).orFlags fl) := by
  change execSequencerResult c n s = _
  have hbind : bindSeqLoad c (fun _ => true) s n = s := by
    unfold bindSeqLoad
    simp only [h, Option.bind_some]
  simp only [execSequencerResult, hbind, h]

theorem eraseIdx_modify {α : Type} (xs : List α) (n : Nat) (f : α → α) : (xs.modify n f).eraseIdx n = xs.eraseIdx n := by
  induction xs generalizing n with
  | nil => simp
  | cons x xs ih => cases n <;> simp [ih]

theorem exec_sequencerResult_load {c : CoreNo} {n : Nat} {s : State} {d : SK} {v : Option W64} {fl : Flags6} {l : LateLoad}
    (h : (s.core c).seq.pend[n]? = some ⟨d, v, fl, some l⟩) : let r := s.readLate c .seq l
    exec (.sequencerResult c n) s = .next (r.2.updSeq c fun q =>
      (SK.put (extendTo 64 l.n l.sx r.1) { q with pend := q.pend.eraseIdx n } d).orFlags fl) := by
  intro r
  change execSequencerResult c n s = _
  have hbind : bindSeqLoad c (fun _ => true) s n = r.2.updSeq c fun q => { q with pend := q.pend.modify n fun p =>
      { p with v := some (extendTo 64 l.n l.sx r.1), load := none } } := by
    unfold bindSeqLoad
    simp only [h, Option.bind_some, Bool.true_eq_false, if_false]
    rfl
  obtain ⟨p', hp', hd, hfl⟩ := sPend_of_bare (bareState_readLate s c .seq l) h
  have hpend : ((r.2.core c).seq.pend.modify n fun p =>
      { p with v := some (extendTo 64 l.n l.sx r.1), load := none })[n]? =
      some ⟨d, some (extendTo 64 l.n l.sx r.1), fl, none⟩ := by
    rw [List.getElem?_modify, hp']
    simp [hd, hfl]
  simp only [execSequencerResult, hbind, State.updSeq, State.core_updCore_same, hpend, updCore_updCore, eraseIdx_modify]

/-! ### BIND_UPDATE_ARRIVAL, BARRIER_WAIT_RELEASE, FAIRNESS_TIMER_EXPIRY -/

theorem exec_bindUpdateArrival_cons {c : CoreNo} {s : State} {i : Nat} {e : BindEntry} {own : Bool}
    {rest : List (Nat × BindEntry × Bool)} (h : (s.core c).updates = (i, e, own) :: rest) :
    exec (.bindUpdateArrival c) s = .next (s.updCore c fun k =>
      if rest.any fun u => u.1 == i && u.2.2 then { k with updates := rest }
      else { k with updates := rest, table := k.table.setIfInBounds i e }) := by
  refine congrArg Host.Outcome.next (updCore_congr s ?_)
  simp only [h]

/-- A thread at a Kennel barrier whose phase has passed acquires and retires its BWAIT. -/
theorem releaseWaiter_kennel {c : CoreNo} {lane slot : Nat} {s : State} {th : Thread} {a : W64} {n : W32} {i : Instr}
    (hlock : (s.core c).locked false a.toNat 16 false = false) :
    let s' := s.barSettle c (.thread lane slot) (.kennel c a.toNat)
    (s'.bar (.kennel c a.toNat)).ok = true → s.barPoisoned (.kennel c a.toNat) = false →
    phasePassed (s'.bar (.kennel c a.toNat)).phase n = true → decodeLane (s.wordAt ⟨c, lane, slot⟩ th) = .ok i →
    releaseWaiter ⟨c, lane, slot⟩ th a false n s = (s'.acquire c (.thread lane slot) .core).updThread c lane slot
      fun th => ({ th with wait := .none } : Thread).retire i {} := by
  intro s' hok hpoison hpassed hdec
  simp only [releaseWaiter, TRef.agent, Bool.false_eq_true, if_false, Bool.not_false, Bool.true_and, hlock,
    show (s.barSettle c (.thread lane slot) (.kennel c a.toNat)) = s' from rfl, hok, hpoison, hpassed, hdec,
    Bool.true_eq_false, decide_false, Bool.or_self, if_true]
  rfl

theorem exec_fairnessTimerExpiry_due {c : CoreNo} {g op : Nat} {s : State} {team : Team} {low : Nat}
    {sub : List (Nat × Nat)} (hteam : (s.core c).team? op = some team) (hfair : team.entry.nofair = false)
    (hperiod : (team.arb.toList.getD g {}).period ≤ (team.arb.toList.getD g {}).timer)
    (hsub : (s.core c).currentSubset team g = some (low, sub))
    (hother : (s.core c).otherHeads op g (sub.map Prod.fst) ≠ []) :
    exec (.fairnessTimerExpiry c g op) s = .next (s.updCore c fun k => k.updTeam op fun t => { t with
      arb := t.arb.setIfInBounds g
        { low := some ((nextHead ((s.core c).otherHeads op g (sub.map Prod.fst)) low).getD low),
          timer := 0, period := (s.core c).seq.faircyc } }) := by
  have hop : team.op = op := by simpa using List.find?_some hteam
  have hexpires : (s.core c).expires team g = true := by
    simp only [Core.expires, decide_eq_true hperiod, hfair, hsub, hop, List.isEmpty_eq_false_iff.mpr hother, Bool.not_false,
      Bool.and_self]
  change execFairnessTimerExpiry c g op s = _
  simp only [execFairnessTimerExpiry, hteam, hexpires, if_true]
  refine congrArg Host.Outcome.next (updCore_congr s ?_)
  simp only [Core.expire, hsub, Core.moveArb, Core.setArb, hop]

/-- Settles O47: each arrival by the lemma about it; that a result outlives the read before it is `lPend_of_bare` and
`sPend_of_bare`. -/
theorem sequencerResultArrives : Obligations.SequencerResultArrives := by
  refine ⟨fun c lane slot n s th p ws hth hp harrived hres => 
      ⟨exec_longLatencyResult_vals hth hp harrived hres, flags_arrive ws hp⟩,
    fun c lane slot n s th p l hth hp harrived hres => exec_longLatencyResult_load hth hp harrived hres,
    fun c n s d v fl h => exec_sequencerResult_val h, fun c n s d v fl l h => exec_sequencerResult_load h,
    fun c s i e own rest h => ⟨fun hown => ?_, fun hown => ?_⟩, fun c s x hgated hrun hdec => ?_, ?_, ?_⟩
  · rw [exec_bindUpdateArrival_cons h]
    simp only [hown, Bool.false_eq_true, if_false]
  · rw [exec_bindUpdateArrival_cons h]
    simp only [hown, if_true]
  · change execBarrierWaitRelease c none s = execTileBwait x _
    simp only [execBarrierWaitRelease, hgated, hrun, hdec]
    simp
  · intro c lane slot s th team a n i hgated hth hwait hteam hab hlock s' hok hpoison hpassed hdec
    change execBarrierWaitRelease c (some (lane, slot)) s = _
    simp only [execBarrierWaitRelease, hgated, hth, hwait, hteam, hab, Bool.false_eq_true, if_false]
    exact congrArg Host.Outcome.next (releaseWaiter_kennel hlock hok hpoison hpassed hdec)
  · intro c g op s team low sub hteam hfair hperiod hsub hother
    exact exec_fairnessTimerExpiry_due hteam hfair hperiod hsub hother
end Sys2Proof
end

section
/-! O22: BINIT, BARV and BEXP of the sequencer, and the checks of R173 for every barrier instruction. -/

namespace Sys2Proof
open Machine

/-! ### The checks of R173 -/

/-- An address lies below 2^52 when its upper 12 bits are 0 (R286). -/
theorem extract_high_eq_zero_iff (a : W64) : a.extractLsb' 52 12 = 0 ↔ a.toNat < 2 ^ 52 := by
  rw [← BitVec.toNat_inj, BitVec.extractLsb'_toNat, Nat.shiftRight_eq_div_pow]
  have ha := a.isLt
  have h0 : (0 : BitVec 12).toNat = 0 := rfl
  omega

theorem seqXlate_ok {a : W64} {need : Need} {p : Phys} {s : State} (h : SeqAt a need p s) :
    seqXlate s.cur a need s = .ok p := by
  obtain ⟨hpark, hfind⟩ := h
  rw [← core_cur] at hpark hfind
  simp only [seqXlate]
  rcases hpark with hpark | hpark <;> simp only [hpark, hfind]

theorem seqBarrier_ok {dev : Bool} {a : W64} {write : Bool} {pl : BarPlace} {s : State} (h : BarCan dev a write pl s) :
    seqBarrier s.cur dev a write s = .ok pl := by
  obtain ⟨halign, hkennel, hdevice⟩ := h
  unfold seqBarrier
  rw [if_neg (by simpa using halign)]
  cases dev with
  | false =>
    obtain ⟨hrange, hlock, rfl⟩ := hkennel rfl
    rw [if_pos rfl, if_neg (by simp only [kennelSize]; omega), if_neg (by rw [core_cur, hlock]; decide)]
  | true =>
    obtain ⟨hlow, p, hat, rfl⟩ := hdevice rfl
    rw [if_neg (by decide), if_neg (by simpa using (extract_high_eq_zero_iff a).mpr hlow), seqXlate_ok hat]

/-! ### One instruction -/

/-- A barrier instruction of the sequencer whose operands are written, whose destination is free and whose counts are in
range, so that only the checks of R173 remain. -/
def BarrierIssues (i : Instr) (dev : Bool) (a : SK) (write : Bool) (s : State) : Prop :=
  let q := s.curCore.seq
  (∃ x : TBinit, i = .binit x ∧ x.dev = dev ∧ x.a = a ∧ write = true ∧ q.pendingSKL x.b = false ∧
    q.pendingSKL x.c = false ∧ 1 ≤ (x.b.val q).toNat ∧ (x.b.val q).toNat ≤ 65535) ∨
  (∃ x : TBarv, i = .tileBarv x ∧ x.dev = dev ∧ x.a = a ∧ write = true ∧ s.curCore.destHeld x.d = false) ∨
  (∃ x : TBexp, i = .bexp x ∧ x.dev = dev ∧ x.a = a ∧ write = true ∧ s.curCore.destHeld x.d = false ∧
    q.pendingSKL x.b = false ∧ -2 ^ 31 ≤ (x.b.val q).toInt ∧ (x.b.val q).toInt < 2 ^ 31) ∨
  (∃ x : TBwait, i = .tileBwait x ∧ x.dev = dev ∧ x.a = a ∧ write = false ∧ q.pendingSKL x.b = false) ∨
  (∃ x : TBtry, i = .tileBtry x ∧ x.dev = dev ∧ x.a = a ∧ write = false ∧ q.pendingSKL x.b = false)

theorem exec_binit_ready {x : TBinit} {s : State} (ha : s.curCore.seq.pendingSK x.a = false)
    (hb : s.curCore.seq.pendingSKL x.b = false) (hc : s.curCore.seq.pendingSKL x.c = false) :
    exec (.binit x) s =
      let q := s.curCore.seq
      let n := (x.b.val q).toNat
      if n = 0 ∨ 65535 < n then .next (tileFault s.cur .illegalOperand 0 s)
      else match seqBarrier s.cur x.dev (x.a.val q) true s with
        | .trap t => .next t
        | .wait t => .next t
        | .ok pl => .next (((s.barSettle s.cur .seq pl).setBar s.cur.val s.curCore.ctx s.curCore.replaying
            { phase := (x.c.val q).extractLsb' 0 32, remaining := n, expected := n, bytes := 0, y := x.y, ok := true }
            pl).seqDone s.cur) := by
  change execBinit x s = _
  simp only [execBinit, ha, hb, hc, Bool.or_self, Bool.false_eq_true, if_false] <;> rfl

theorem exec_tileBarv_ready {x : TBarv} {s : State} (ha : s.curCore.seq.pendingSK x.a = false)
    (hd : s.curCore.destHeld x.d = false) :
    exec (.tileBarv x) s = seqArrive x.dev x.d (x.a.val s.curCore.seq) 0 s := by
  change execTileBarv x s = _
  simp only [execTileBarv, ha, hd, Bool.or_self, Bool.false_eq_true, if_false]

theorem exec_bexp_ready {x : TBexp} {s : State} (ha : s.curCore.seq.pendingSK x.a = false)
    (hb : s.curCore.seq.pendingSKL x.b = false) (hd : s.curCore.destHeld x.d = false) :
    exec (.bexp x) s =
      let n := (x.b.val s.curCore.seq).toInt
      if n < -2 ^ 31 ∨ 2 ^ 31 ≤ n then .next (tileFault s.cur .illegalOperand 0 s)
      else seqArrive x.dev x.d (x.a.val s.curCore.seq) n s := by
  change execBexp x s = _
  simp only [execBexp, ha, hb, hd, Bool.or_self, Bool.false_eq_true, if_false]

theorem exec_tileBwait_ready {x : TBwait} {s : State} (ha : s.curCore.seq.pendingSK x.a = false)
    (hb : s.curCore.seq.pendingSKL x.b = false) :
    exec (.tileBwait x) s =
      let q := s.curCore.seq
      match seqTest x.dev (x.a.val q) ((x.b.val q).extractLsb' 0 32) s with
      | .stop t => .next t
      | .passed t => .next (t.updSeq s.cur fun q => { q.advance 1 with standSince := none })
      | .notYet b t =>
        if x.y && x.dev && b.y && q.afterSafe && q.standSince.isNone then
          .next (t.updSeq s.cur fun q => { q with standSince := some s.now })
        else .next t := by
  change execTileBwait x s = _
  simp only [execTileBwait, ha, hb, Bool.or_self, Bool.false_eq_true, if_false] <;> rfl

theorem exec_tileBtry_ready {x : TBtry} {s : State} (ha : s.curCore.seq.pendingSK x.a = false)
    (hb : s.curCore.seq.pendingSKL x.b = false) :
    exec (.tileBtry x) s =
      let q := s.curCore.seq
      match seqTest x.dev (x.a.val q) ((x.b.val q).extractLsb' 0 32) s with
      | .stop t => .next t
      | .passed t => .next (t.updSeq s.cur fun q => (q.setPred x.p true).advance 1)
      | .notYet _ t => .next (t.updSeq s.cur fun q => (q.setPred x.p false).advance 1) := by
  change execTileBtry x s = _
  simp only [execTileBtry, ha, hb, Bool.or_self, Bool.false_eq_true, if_false] <;> rfl

/-- The first check of R173 that fails decides the trap of every barrier instruction. -/
theorem exec_of_seqBarrier_trap {i : Instr} {dev : Bool} {a : SK} {write : Bool} {s t : State}
    (h : BarrierIssues i dev a write s) (ha : s.curCore.seq.pendingSK a = false)
    (ht : seqBarrier s.cur dev (a.val s.curCore.seq) write s = .trap t) : exec i s = .next t := by
  rcases h with ⟨x, rfl, rfl, rfl, rfl, hb, hc, hlo, hhi⟩ | ⟨x, rfl, rfl, rfl, rfl, hd⟩ |
    ⟨x, rfl, rfl, rfl, rfl, hd, hb, hlo, hhi⟩ | ⟨x, rfl, rfl, rfl, rfl, hb⟩ | ⟨x, rfl, rfl, rfl, rfl, hb⟩
  · rw [exec_binit_ready ha hb hc]
    simp only [ht]
    exact if_neg (by omega)
  · rw [exec_tileBarv_ready ha hd]
    simp only [seqArrive, ht]
  · rw [exec_bexp_ready ha hb hd]
    simp only [seqArrive, ht]
    exact if_neg (by omega)
  · rw [exec_tileBwait_ready ha hb]
    simp only [seqTest, ht]
  · rw [exec_tileBtry_ready ha hb]
    simp only [seqTest, ht]

/-- A poisoned object that is read takes MEMORY_ERROR (R285). -/
theorem exec_of_barPoisoned {i : Instr} {dev : Bool} {a : SK} {write : Bool} {pl : BarPlace} {s : State}
    (h : BarrierIssues i dev a write s) (hi : ∀ x, i ≠ .binit x) (ha : s.curCore.seq.pendingSK a = false)
    (hcan : BarCan dev (a.val s.curCore.seq) write pl s) (hpoison : s.barPoisoned pl = true) :
    exec i s = .next (tileFault s.cur .memoryError (a.val s.curCore.seq) s) := by
  have hok := seqBarrier_ok hcan
  rcases h with ⟨x, rfl, -⟩ | ⟨x, rfl, rfl, rfl, rfl, hd⟩ | ⟨x, rfl, rfl, rfl, rfl, hd, hb, hlo, hhi⟩ |
    ⟨x, rfl, rfl, rfl, rfl, hb⟩ | ⟨x, rfl, rfl, rfl, rfl, hb⟩
  · exact absurd rfl (hi x)
  · rw [exec_tileBarv_ready ha hd]
    simp only [seqArrive, hok, hpoison, if_true]
  · rw [exec_bexp_ready ha hb hd]
    simp only [seqArrive, hok, hpoison, if_true]
    exact if_neg (by omega)
  · rw [exec_tileBwait_ready ha hb]
    simp only [seqTest, hok, hpoison, if_true]
  · rw [exec_tileBtry_ready ha hb]
    simp only [seqTest, hok, hpoison, if_true]

/-! ### Arrivals (R174, R175) -/

/-- A fault taken after accesses have acted stands at the instruction still. -/
theorem tileFault_of_bare {s u : State} (h : bareState u = bareState s) (cause : Cause) (addr : W64) :
    tileFault s.cur cause addr u = takeTrap s.cur
      { kind := .tileOpFault, cause := cause, epc := s.curCore.seq.pc, resume := s.curCore.seq.pc, addr := addr } u := by
  have hpc : (u.core s.cur).seq.pc = s.curCore.seq.pc := seqField_eq h s.cur Seq.pc fun _ => rfl
  simp only [tileFault, trapAt, hpc]

theorem cur_of_bare {s u : State} (h : bareState u = bareState s) : u.cur = s.cur :=
  stateField_eq h State.cur fun _ => rfl

/-- The sequencer goes on after accesses have acted. -/
theorem seqDone_of_bare {s u : State} (h : bareState u = bareState s) : u.seqDone s.cur = tileNext u := by
  rw [← seqDone_eq, cur_of_bare h]

theorem seqArrive_ok {dev : Bool} {d : SK} {addr : W64} {pl : BarPlace} {s : State} (add : Int)
    (hcan : BarCan dev addr true pl s) (hpoison : s.barPoisoned pl = false) :
    let u := (s.release s.cur .seq (barScope dev)).barSettle s.cur .seq pl
    (∀ b, (u.bar pl).update 1 add = some b → seqArrive dev d addr add s =
      .next (tileLate d ((u.bar pl).phase.zeroExtend 64) 0
      (u.setBar s.cur.val s.curCore.ctx s.curCore.replaying b pl))) ∧
    ((u.bar pl).update 1 add = none → seqArrive dev d addr add s = .next (takeTrap s.cur
      { kind := .tileOpFault, cause := .badBarrier, epc := s.curCore.seq.pc, resume := s.curCore.seq.pc, addr := addr } u)) := by
  intro u
  have hbare : bareState u = bareState s := by simp [u]
  have hexec : seqArrive dev d addr add s =
      match u.barUpdate s.cur.val s.curCore.ctx s.curCore.replaying pl 1 add with
      | none => .next (tileFault s.cur .badBarrier addr u)
      | some r => .next (finishLate d (r.1.zeroExtend 64) r.2) := by
    simp only [seqArrive, seqBarrier_ok hcan, hpoison, Bool.false_eq_true, if_false, core_cur]
    rfl
  rw [hexec]
  refine ⟨fun b hb => ?_, fun hnone => ?_⟩
  · simp only [State.barUpdate, hb]
    rfl
  · simp only [State.barUpdate, hnone, tileFault_of_bare hbare]

/-- Settles O22: the arrivals by `seqArrive_ok`, the traps by the first check of R173 that fails. -/
theorem sequencerBarriers : Obligations.SequencerBarriers := by
  refine ⟨fun x pl s ha hb hc hlo hhi hcan => ?_, fun i dev d a add pl s hi ha hd hcan hpoison => ?_,
    fun i dev a write s h ha => ⟨fun halign => ?_, fun halign hdev hrange => ?_, fun halign hdev hrange hlock => ?_,
      fun halign hdev hhigh => ?_, fun pl hcan hpoison hne => exec_of_barPoisoned h hne ha hcan hpoison⟩,
    fun x s ha hb hc hn => ?_, fun x s ha hb hd hn => ?_⟩
  · rw [exec_binit_ready ha hb hc]
    simp only [seqBarrier_ok hcan]
    rw [if_neg (by omega)]
    exact congrArg Host.Outcome.next (seqDone_of_bare (by simp))
  · rcases hi with ⟨rfl, rfl⟩ | ⟨b, rfl, rfl, hb, hlo, hhi⟩
    · rw [exec_tileBarv_ready ha hd]
      exact seqArrive_ok 0 hcan hpoison
    · rw [exec_bexp_ready ha hb hd]
      simp only [if_neg (show ¬ ((b.val s.curCore.seq).toInt < -2 ^ 31 ∨ 2 ^ 31 ≤ (b.val s.curCore.seq).toInt) by omega)]
      exact seqArrive_ok _ hcan hpoison
  · exact exec_of_seqBarrier_trap h ha (if_pos halign)
  · subst hdev
    refine exec_of_seqBarrier_trap h ha ?_
    rw [seqBarrier, if_neg (by simpa using halign), if_pos rfl, if_pos (by simpa only [kennelSize] using hrange)]
    rfl
  · subst hdev
    refine exec_of_seqBarrier_trap h ha ?_
    rw [seqBarrier, if_neg (by simpa using halign), if_pos rfl, if_neg (by simp only [kennelSize]; omega),
      if_pos (by rw [core_cur]; exact hlock)]
    rfl
  · subst hdev
    refine exec_of_seqBarrier_trap h ha ?_
    rw [seqBarrier, if_neg (by simpa using halign), if_neg (by decide),
      if_pos fun h0 => absurd ((extract_high_eq_zero_iff _).mp h0) (by omega)]
    rfl
  · rw [exec_binit_ready ha hb hc]
    exact if_pos (by omega)
  · rw [exec_bexp_ready ha hb hd]
    exact if_pos (by omega)
end Sys2Proof
end

section
/-! O24: the phase test of R36, in BWAIT and BTRY of the sequencer and of the lanes. -/

namespace Sys2Proof
open Machine

theorem phasePassed_iff (phase n : W32) : phasePassed phase n = true ↔
    1 ≤ ((phase.toNat : Int) - n.toNat) % 2 ^ 32 ∧ ((phase.toNat : Int) - n.toNat) % 2 ^ 32 ≤ 2 ^ 31 - 1 := by
  have hphase := phase.isLt
  have hn := n.isLt
  simp only [phasePassed, Bool.and_eq_true, decide_eq_true_eq, BitVec.toNat_sub]
  omega

/-! ### The sequencer -/

/-- The test of a marked, unpoisoned object, once the sequencer's own accesses to it have acted. -/
theorem seqTest_ok {dev : Bool} {a : W64} {n : W32} {pl : BarPlace} {s : State} (hcan : BarCan dev a false pl s)
    (hpoison : s.barPoisoned pl = false) (hok : ((s.barSettle s.cur .seq pl).bar pl).ok = true) :
    seqTest dev a n s =
      let u := s.barSettle s.cur .seq pl
      if phasePassed (u.bar pl).phase n then .passed (u.acquire s.cur .seq (barScope dev)) else .notYet (u.bar pl) u := by
  simp only [seqTest, seqBarrier_ok hcan, hpoison, hok, Bool.false_eq_true, Bool.true_eq_false, if_false]

theorem exec_tileBwait_passed {dev y : Bool} {a : SK} {b : SKL} {pl : BarPlace} {s : State} (ha : s.curCore.seq.pendingSK a = false)
    (hb : s.curCore.seq.pendingSKL b = false) (hcan : BarCan dev (a.val s.curCore.seq) false pl s)
    (hpoison : s.barPoisoned pl = false) : let u := s.barSettle s.cur .seq pl
    (u.bar pl).ok = true → phasePassed (u.bar pl).phase ((b.val s.curCore.seq).extractLsb' 0 32) = true →
    exec (.tileBwait ⟨dev, y, a, b⟩) s = .next ((u.acquire s.cur .seq (barScope dev)).updSeq s.cur fun q => { q with
      pc := q.pc + 8, afterSafe := false, standSince := none }) := by
  intro u hok hpassed
  rw [exec_tileBwait_ready ha hb]
  simp only [seqTest_ok hcan hpoison hok]
  rw [if_pos hpassed]
  rfl

/-- Where the phase has not passed, the sequencer stays at its BWAIT. -/
theorem exec_tileBwait_waits {dev y : Bool} {a : SK} {b : SKL} {pl : BarPlace} {s : State} (ha : s.curCore.seq.pendingSK a = false)
    (hb : s.curCore.seq.pendingSKL b = false) (hcan : BarCan dev (a.val s.curCore.seq) false pl s)
    (hpoison : s.barPoisoned pl = false) : let u := s.barSettle s.cur .seq pl
    (u.bar pl).ok = true → phasePassed (u.bar pl).phase ((b.val s.curCore.seq).extractLsb' 0 32) = false →
    ∃ t, exec (.tileBwait ⟨dev, y, a, b⟩) s = .next t ∧ t.curCore.seq.pc = s.curCore.seq.pc := by
  intro u hok hpassed
  have hbare : bareState u = bareState s := bareState_barSettle _ _ _ _
  have hpc : u.curCore.seq.pc = s.curCore.seq.pc := by
    rw [← core_cur, cur_of_bare hbare]
    exact seqField_eq hbare s.cur Seq.pc fun _ => rfl
  have hstand (n : Option Nat) : (u.updSeq s.cur fun q => { q with standSince := n }).curCore.seq.pc = u.curCore.seq.pc := by
    rw [← core_cur, ← core_cur]
    exact core_updCore_keeps (fun k => k.seq.pc) u s.cur _ rfl u.cur
  rw [exec_tileBwait_ready ha hb]
  simp only [seqTest_ok hcan hpoison hok, show s.barSettle s.cur .seq pl = u from rfl, hpassed, Bool.false_eq_true, if_false]
  split
  · exact ⟨_, rfl, (hstand _).trans hpc⟩
  · exact ⟨u, rfl, hpc⟩

theorem exec_tileBtry_ok {dev : Bool} {p : PredNo} {a : SK} {b : SKL} {pl : BarPlace} {s : State}
    (ha : s.curCore.seq.pendingSK a = false) (hb : s.curCore.seq.pendingSKL b = false)
    (hcan : BarCan dev (a.val s.curCore.seq) false pl s) (hpoison : s.barPoisoned pl = false) :
    let u := s.barSettle s.cur .seq pl
    let n := (b.val s.curCore.seq).extractLsb' 0 32
    (u.bar pl).ok = true → exec (.tileBtry ⟨dev, p, a, b⟩) s =
      .next ((if phasePassed (u.bar pl).phase n then u.acquire s.cur .seq (barScope dev) else u).updSeq s.cur fun q =>
        { q with p := predSet q.p p (phasePassed (u.bar pl).phase n), pc := q.pc + 8, afterSafe := false }) := by
  intro u n hok
  rw [exec_tileBtry_ready ha hb]
  simp only [seqTest_ok hcan hpoison hok, show s.barSettle s.cur .seq pl = u from rfl]
  cases phasePassed (u.bar pl).phase n <;> rfl

/-! ### The lanes -/

theorem laneTest_ok {dev : Bool} {i : LaneIn} {s : State} {a : W64} {pl : BarPlace}
    (h : laneBarrier dev i false s = .ok (a, pl)) (hok : ((s.barSettle i.t.c i.t.agent pl).bar pl).ok = true) :
    laneTest dev i s =
      let u := s.barSettle i.t.c i.t.agent pl
      if phasePassed (u.bar pl).phase i.b0 then .ok (a, u.acquire i.t.c i.t.agent (barScope dev), true)
      else .ok (a, u, false) := by
  simp only [laneTest, h, hok, Bool.true_eq_false, if_false]

/-- Settles O24: the test by `seqTest_ok` and `laneTest_ok`, and what each instruction makes of it. -/
theorem barrierWaitsAndTests : Obligations.BarrierWaitsAndTests := by
  refine ⟨phasePassed_iff, fun dev y p a b pl s ha hb hcan hpoison hok => ?_, fun x => ?_, fun x => ?_⟩
  · have hbtry := exec_tileBtry_ok (p := p) ha hb hcan hpoison hok
    refine ⟨fun hpassed => ⟨exec_tileBwait_passed ha hb hcan hpoison hok hpassed, ?_⟩,
      fun hpassed => ⟨exec_tileBwait_waits ha hb hcan hpoison hok hpassed, ?_⟩⟩
    all_goals
      rw [hbtry, hpassed]
      rfl
  · refine laneDoes_of (f := laneBwaitF x) (fun _ => rfl) ?_
    rintro i s ⟨a, pl, hbar, hok, hpassed⟩
    simp only [laneBwaitF, laneTest_ok hbar hok, hpassed, hbar, if_true]
  · refine laneDoes_of (f := laneBtryF x) (fun _ => rfl) ?_
    rintro i s ⟨a, pl, hbar, hok⟩
    simp only [laneBtryF, laneTest_ok hbar hok, hbar]
    cases phasePassed ((s.barSettle i.t.c i.t.agent pl).bar pl).phase i.b0 <;> rfl
end Sys2Proof
end

section
/-! O20: bound words at issue (R81, R122 to R125), and the decision records of R37. -/

namespace Sys2Proof
open Machine

theorem bankPending_iff (q : Seq) : q.bankPending = true ↔ ∃ r ∈ q.pend, ∃ n, r.d = SK.c n := by
  rw [Seq.bankPending, List.any_eq_true]
  refine exists_congr fun r => and_congr_right fun _ => ?_
  cases r.d <;> simp

theorem team_eq (e : BindEntry) : e.team = if e.kind = BindKind.routine then some (32 * 2 ^ e.gang) else none := by
  unfold BindEntry.team BindEntry.teamSize
  cases e.kind <;> simp

/-- The counters of issue are the same before and after a wake. -/
theorem wakeUp_counters (k : Core) (now : Nat) (cause : Byte) :
    (k.wakeUp now cause).nextId = k.nextId ∧ (k.wakeUp now cause).seq.dtag = k.seq.dtag ∧
      (k.wakeUp now cause).replaying = k.replaying := by
  refine ⟨Core.wakeUp_nextId k now cause, ?_, by simp [Core.replaying]⟩
  unfold Core.wakeUp
  split_ifs <;> rfl

theorem attachWake_cur (s : State) (c : CoreNo) (tag : BitVec 16) (team : Option Nat) :
    (s.attachWake c tag team).cur = s.cur := by
  unfold State.attachWake State.wake
  split_ifs <;> rfl

theorem attachWake_counters (s : State) (c : CoreNo) (tag : BitVec 16) (team : Option Nat) :
    ((s.attachWake c tag team).core c).nextId = (s.core c).nextId ∧
      ((s.attachWake c tag team).core c).seq.dtag = (s.core c).seq.dtag ∧
      ((s.attachWake c tag team).core c).replaying = (s.core c).replaying := by
  unfold State.attachWake State.wake
  split_ifs
  · rw [State.core_updCore_same]
    exact wakeUp_counters _ _ _
  · exact ⟨rfl, rfl, rfl⟩

theorem attachWake_eq (s : State) (c : CoreNo) (tag : BitVec 16) (team : Option Nat) :
    let attach := team.isSome = true ∧ ∃ n : Fin 16, (s.core c).dq[n].st = .pending ∧ (s.core c).dq[n].dtag = tag
    (¬ attach → s.attachWake c tag team = s) ∧ (attach → s.attachWake c tag team = s.wake c 2) := by
  have hiff : (team.isSome && (s.core c).dq.toList.any fun r => r.st == .pending && r.dtag == tag) = true ↔
      team.isSome = true ∧ ∃ n : Fin 16, (s.core c).dq[n].st = .pending ∧ (s.core c).dq[n].dtag = tag := by
    rw [Bool.and_eq_true, List.any_eq_true]
    refine and_congr_right fun _ => ⟨fun ⟨r, hr, hp⟩ => ?_, fun ⟨n, hn⟩ => ⟨(s.core c).dq[n], ?_, by simpa using hn⟩⟩
    · rw [Vector.mem_toList_iff, Vector.mem_iff_getElem] at hr
      obtain ⟨i, hi, rfl⟩ := hr
      exact ⟨⟨i, hi⟩, by simpa using hp⟩
    · simp
  exact ⟨fun h => if_neg (mt hiff.mp h), fun h => if_pos (hiff.mpr h)⟩

theorem issueDq_eq (k : Core) (tag : BitVec 16) (team : Option Nat) :
    let j := k.issueDq tag team
    (∀ n : Fin 16, j.dq[n] = if k.dq[n].st = .pending ∧ k.dq[n].dtag = tag then
        (match team with
          | some m => { k.dq[n] with st := .attached, remain := m }
          | none => { k.dq[n] with st := .free })
      else k.dq[n]) ∧ j = { k with dq := j.dq } :=
  ⟨fun n => by simp [Core.issueDq, dqIssue] <;> rfl, rfl⟩

/-- A word that its entry does not accept (R122). -/
theorem issueBound_illegal (w : BoundWord) (s : State) :
    let e := s.curCore.table[w.idx.toNat]'w.idx.isLt
    (e.kind = .engine ∨ e.kind = .routine) → step4Ok e w = false → issueBound w s = .next (illegalTile s.cur s) := by
  intro e hkind hok
  have hbound : ¬ (e.kind = .unbound ∨ e.kind = .reserved) := by
    rcases hkind with h | h <;> simp [h]
  unfold issueBound
  dsimp only
  rw [if_neg hbound, if_pos hok]

/-- What the issue of a word waits for. -/
def issueWaits (w : BoundWord) (s : State) : Prop :=
  let k := s.curCore
  let e := k.table[w.idx.toNat]'w.idx.isLt
  let u := usesOf e w
  anyWaits k w.d = true ∨ (u.2.1 = true ∧ anyWaits k w.a = true) ∨
    (u.2.2.1 = true ∧ anyWaits k w.b = true) ∨ (u.2.2.2 = true ∧ anyWaits k w.c = true) ∨
    (e.kind = .routine ∧ ∃ r ∈ k.seq.pend, ∃ n, r.d = SK.c n) ∨ 8 ≤ k.queued (queueOf e) ∨
    k.conflicts (s.pedlimit s.cur) e (queueOf e) (captureRec k e w) = true

/-- `issueBound` names one condition after another; this is their disjunction. -/
theorem issueBound_eq (w : BoundWord) (s : State) [Decidable (issueWaits w s)] :
    let e := s.curCore.table[w.idx.toNat]'w.idx.isLt
    (e.kind = .engine ∨ e.kind = .routine) → step4Ok e w = true →
    issueBound w s = if issueWaits w s then .next s else
      .next (((s.release s.cur .seq .core).attachWake s.cur s.curCore.seq.dtag e.team).updCore s.cur fun k =>
        let k := k.enqueue e (captureRec s.curCore e w) k.seq.dtag k.replaying
        { k with seq := { k.seq with dtag := k.seq.dtag + 1 }.advance 1 }) := by
  intro e hkind hok
  have hbound : ¬ (e.kind = .unbound ∨ e.kind = .reserved) := by
    rcases hkind with h | h <;> simp [h]
  unfold issueBound
  dsimp only
  rw [if_neg hbound, if_neg (by simp [e, hok])]
  refine if_congr ?_ rfl rfl
  simp only [issueWaits, Bool.or_eq_true, Bool.and_eq_true, bankPending_iff, decide_eq_true_eq, beq_iff_eq, or_assoc]

/-- The op that an issue makes. -/
def issuedOp (w : BoundWord) (s : State) (floor : Floor) : Op :=
  let k := s.curCore
  let e := k.table[w.idx.toNat]'w.idx.isLt
  { id := k.nextId, rcd := captureRec k e w, entry := e, dtag := k.seq.dtag, q := queueOf e, st := .queued,
    parent := none, block := 0, folded := [], replay := k.replaying, held := false, floor := floor }

theorem issueBound_queues (w : BoundWord) (s : State) :
    let e := s.curCore.table[w.idx.toNat]'w.idx.isLt
    let u := (s.release s.cur .seq .core).attachWake s.cur s.curCore.seq.dtag e.team
    (e.kind = .engine ∨ e.kind = .routine) → step4Ok e w = true → ¬ issueWaits w s →
    issueBound w s = .next (u.updCore s.cur fun k =>
      let j := ({ k with ops := k.ops ++ [issuedOp w s (u.curCore.issueFloor .seq)],
                         nextId := k.nextId + 1 }).issueDq k.seq.dtag e.team
      { j with seq := { j.seq with dtag := j.seq.dtag + 1, pc := j.seq.pc + 8, afterSafe := false } }) := by
  intro e u hkind hok hwaits
  classical
  rw [issueBound_eq w s hkind hok, if_neg hwaits]
  have hrel : bareState (s.release s.cur .seq .core) = bareState s := bareState_release _ _ _ _
  obtain ⟨hid', hdtag', hreplay'⟩ := attachWake_counters (s.release s.cur .seq .core) s.cur s.curCore.seq.dtag e.team
  have hid : (u.core s.cur).nextId = s.curCore.nextId := hid'.trans (coreField_eq hrel s.cur _ fun _ => rfl)
  have hdtag : (u.core s.cur).seq.dtag = s.curCore.seq.dtag := hdtag'.trans (seqField_eq hrel s.cur _ fun _ => rfl)
  have hreplay : (u.core s.cur).replaying = s.curCore.replaying :=
    hreplay'.trans (coreField_eq hrel s.cur _ fun _ => rfl)
  have hcore : u.curCore = u.core s.cur := by
    rw [State.curCore, attachWake_cur, cur_of_bare hrel]
  refine congrArg Host.Outcome.next (updCore_congr u ?_)
  simp only [Core.enqueue, issuedOp, hid, hdtag, hreplay, hcore]
  rfl

theorem exec_eq_issueBound (i : Instr) (w : BoundWord) (s : State)
    (hi : i ∈ ([.mma w, .accld w, .accst w, .accz w, .tcvt w, .qnt w, .dqnt w, .had w, .perm w, .routineDispatch w] :
      List Instr)) : exec i s = issueBound w s := by
  simp only [List.mem_cons, List.not_mem_nil, or_false] at hi
  rcases hi with rfl | rfl | rfl | rfl | rfl | rfl | rfl | rfl | rfl | rfl <;> rfl

/-- Settles O20: issue waits on a disjunction, and neither the release nor the wake of a record moves what the op
captures. -/
theorem boundOpsIssue : Obligations.BoundOpsIssue := by
  unfold Obligations.BoundOpsIssue
  refine ⟨fun i w s hi => ?_, issueDq_eq, attachWake_eq⟩
  classical
  rw [exec_eq_issueBound i w s hi]
  refine ⟨fun hkind => ?_, fun hkind hok => ?_, fun hkind hok hwaits => ?_, fun hkind hok hwaits => ?_⟩
  · rw [issueBound, if_pos hkind]
  · exact issueBound_illegal w s hkind hok
  · exact (issueBound_eq w s hkind hok).trans (if_pos hwaits)
  · have hissue := issueBound_queues w s hkind hok hwaits
    rw [team_eq] at hissue
    exact ⟨issuedOp w s _, rfl, rfl, rfl, rfl, rfl, rfl, rfl, rfl, rfl, rfl, rfl, hissue⟩

end Sys2Proof
end

section
/-! O14: TRAP, ERET with its restart slot, SAFEPT and END. -/

namespace Sys2Proof
open Machine

/-! ### The flow of ERET -/

theorem targetOk_iff (q : Seq) (a : W64) : q.targetOk a = true ↔ InCode q a := by
  rw [Seq.targetOk, Bool.and_eq_true, decide_eq_true_eq, decide_eq_true_eq]
  rfl

theorem exec_tileTrap_ready {a : SKL} {s : State} (h : s.curCore.seq.pendingSKL a = false) :
    exec (.tileTrap a) s = .next (takeTrap s.cur
      { kind := .software, cause := .software, epc := s.curCore.seq.pc + 8, resume := s.curCore.seq.pc + 8,
        code := (a.val s.curCore.seq).extractLsb' 0 32 } s) := by
  change execTileTrap a s = _
  simp only [execTileTrap, h]
  rfl

theorem exec_eret_plain {s : State} (hr : s.curCore.seq.restart = none)
    (h : InCode s.curCore.seq s.curCore.seq.epc) : exec .eret s = .next (tileGo s.curCore.seq.epc s) := by
  change execEret s = _
  simp only [execEret, hr]
  refine congrArg Host.Outcome.next (if_pos ((targetOk_iff _ _).mpr h))

theorem exec_eret_elsewhere {s : State} {r : Restart} (hr : s.curCore.seq.restart = some r)
    (hpc : s.curCore.seq.epc ≠ r.pc) (h : InCode s.curCore.seq s.curCore.seq.epc) : exec .eret s =
      .next ((abandon s.cur r s).updSeq s.cur fun q => { q with pc := q.epc, afterSafe := false }) := by
  change execEret s = _
  simp only [execEret, hr, if_pos hpc, (targetOk_iff _ _).mpr h, if_true]

theorem exec_eret_final {s : State} {r : Restart} (hr : s.curCore.seq.restart = some r)
    (hpc : s.curCore.seq.epc = r.pc) (h : r.final = true) : exec .eret s =
      .next ((abandon s.cur r s).updSeq s.cur fun q => { q with pc := r.resume, afterSafe := false }) := by
  change execEret s = _
  simp only [execEret, hr, hpc, ne_eq, not_true_eq_false, if_false, h, if_true]

theorem reissueWaits_iff (k : Core) (pedlimit : Nat) (r : Restart) (o : Op) (e : BindEntry) :
    k.reissueWaits pedlimit r o e = true ↔
      8 ≤ k.queued (queueOf e) ∨ (e.kind = .routine ∧ k.seq.bankPending = true) ∨
        ∃ x ∈ k.ops, (x.id < o.id ∨ r.next ≤ x.id) ∧ x.parent = none ∧ ¬ (x.q = queueOf e ∧ x.q ≠ .lane) ∧
          (opTouch pedlimit x.entry x.rcd).conflicts (opTouch pedlimit e o.rcd) = true := by
  have hlane (x : Op) : (queueOf e = x.q ∧ queueOf e ≠ .lane) ↔ (x.q = queueOf e ∧ x.q ≠ .lane) := by
    constructor <;> rintro ⟨h, hne⟩ <;> exact ⟨h.symm, h ▸ hne⟩
  simp only [Core.reissueWaits, Core.conflicts, Bool.or_eq_true, decide_eq_true_eq, Bool.and_eq_true, beq_iff_eq,
    List.any_eq_true, List.mem_filter, or_assoc, and_assoc, Option.isNone_iff_eq_none, Bool.not_eq_true',
    Bool.and_eq_false_iff]
  refine or_congr_right (or_congr_right (exists_congr fun x => and_congr_right fun _ => and_congr_right fun _ =>
    and_congr_right fun _ => and_congr_left fun _ => ?_))
  simp only [not_and, beq_eq_false_iff_ne, bne_eq_false_iff_eq, ne_eq, not_not]
  constructor
  · rintro (h | h) heq
    · exact absurd heq h
    · exact heq.trans h
  · intro h
    by_cases heq : x.q = queueOf e
    · exact .inr (heq.symm.trans (h heq))
    · exact .inl heq

theorem exec_eret_op {s : State} {r : Restart} {o : Op} (hr : s.curCore.seq.restart = some r)
    (hpc : s.curCore.seq.epc = r.pc) (hfinal : r.final = false) (hcmd : r.isCmd = false)
    (ho : s.curCore.op? r.id = some o) :
    let e := s.curCore.table[o.rcd.word.idx.toNat]'o.rcd.word.idx.isLt
    e.kind ≠ .unbound → e.kind ≠ .reserved → step4Ok e o.rcd.word = true →
    exec .eret s = if s.curCore.reissueWaits (s.pedlimit s.cur) r o e then .next s else .next (reissueOp s.cur r o e s) := by
  intro e hunbound hreserved hok
  change execEret s = _
  simp only [execEret, hr, hpc, ne_eq, not_true_eq_false, if_false, hfinal, hcmd, ho, Bool.false_eq_true]
  rw [if_neg (by simpa using ⟨hunbound, hreserved⟩), if_neg (by simp [e, hok])]

theorem exec_eret_cmd {s : State} {r : Restart} {m : Cmd} (hr : s.curCore.seq.restart = some r)
    (hpc : s.curCore.seq.epc = r.pc) (hfinal : r.final = false) (hcmd : r.isCmd = true)
    (hm : s.curCore.cmd? r.id = some m) :
    exec .eret s = if 24 ≤ s.curCore.retCount m.q then .next s else .next (reissueCmd s.cur r m s) := by
  change execEret s = _
  simp only [execEret, hr, hpc, ne_eq, not_true_eq_false, if_false, hfinal, hcmd, hm, Bool.false_eq_true, if_true]

/-! ### What an acquire leaves of a core -/

/-- The part of a core that the restart slot speaks of, floors aside. -/
def slotView (k : Core) : List Op × List Cmd × Vector DqRec 16 × Seq :=
  (k.ops, k.cmds, k.dq, { k.seq with floor := {} })

theorem slotView_setFloor (k : Core) (a : Agent) (f : Floor) : slotView (k.setFloor a f) = slotView k := by
  cases a with
  | seq => rfl
  | thread l t => rfl

theorem slotView_updCore {s : State} {c d : CoreNo} {f : Core → Core} (h : ∀ k, slotView (f k) = slotView k) :
    slotView ((s.updCore d f).core c) = slotView (s.core c) := by
  by_cases hcd : c = d
  · subst hcd
    rw [State.core_updCore_same, h]
  · rw [State.core_updCore_other s d c f hcd]

theorem slotView_acquire (s : State) (c : CoreNo) (a : Agent) (sc : Scope) :
    slotView ((s.acquire c a sc).core c) = slotView (s.core c) := by
  refine (slotView_updCore fun k => slotView_setFloor _ _ _).trans ?_
  exact foldl_keeps (fun s => slotView (State.core s c)) State.landHeld
    (fun s h => slotView_updCore fun k => slotView_setFloor _ _ _) _ _

theorem of_slotView {j k : Core} (h : slotView j = slotView k) :
    j.ops = k.ops ∧ j.cmds = k.cmds ∧ j.dq = k.dq ∧ j.seq = { k.seq with floor := j.seq.floor } := by
  simp only [slotView, Prod.mk.injEq] at h
  obtain ⟨hops, hcmds, hdq, hseq⟩ := h
  exact ⟨hops, hcmds, hdq, congrArg (fun q : Seq => { q with floor := j.seq.floor }) hseq⟩

/-! ### Held queues -/

theorem unhold_ops (k : Core) : k.unhold.ops =
    (k.ops.filter fun x => !x.held) ++ ((k.ops.filter Op.held).map fun x => { x with held := false }) := by
  simp only [Core.unhold, List.partition_eq_filter_filter]
  rfl

/-- What is not held, an op, and what is held: a queue that continues keeps this order. -/
theorem unhold_split (k : Core) (xs : List Op) {o : Op} (ho : o.held = false) :
    ({ k with ops := (xs.filter fun x => !x.held) ++ o :: xs.filter Op.held } : Core).unhold.ops =
      (xs.filter fun x => !x.held) ++ o :: ((xs.filter Op.held).map fun x => { x with held := false }) := by
  rw [unhold_ops]
  simp [List.filter_filter, ho]

theorem requeue_ops (k : Core) {o : Op} (ho : o.held = false) : (k.requeue o).ops =
    (k.ops.filter fun x => x.id != o.id && !x.held) ++
      o :: ((k.ops.filter fun x => x.id != o.id && x.held).map fun x => { x with held := false }) := by
  have hsplit := unhold_split k (k.ops.filter fun x => x.id != o.id) ho
  simp only [List.filter_filter] at hsplit
  simp only [Core.requeue, List.partition_eq_filter_filter, Bool.and_comm (_ != _), List.filter_filter]
  exact hsplit

/-! ### Abandoning -/

/-- The core when its slot has been abandoned, before the sequencer acquires. -/
def abandoned (r : Restart) (k : Core) : Core :=
  let k := { k with seq := { k.seq with restart := none } }
  if r.isCmd then { k with cmds := k.cmds.filter fun m => m.id != r.id }.unhold
  else
    match k.op? r.id with
    | some o => { (k.retireOp o none).unhold with dq := dqDrop k.dq o.dtag }
    | none => k.unhold

theorem abandon_core (c : CoreNo) (r : Restart) (s : State) :
    slotView ((abandon c r s).core c) = slotView (abandoned r (s.core c)) := by
  refine (slotView_acquire _ c .seq .core).trans ?_
  rw [State.core_updCore_same]
  rfl

theorem writeBack_none (o : Op) (t : Vector W128 64) : o.writeBack t none = t := by
  unfold Op.writeBack
  cases o.rcd.dreg <;> rfl

theorem abandoned_seq (r : Restart) (k : Core) : (abandoned r k).seq = { k.seq with restart := none } := by
  unfold abandoned
  dsimp only
  split_ifs
  · rfl
  · split
    · simp only [Core.unhold, Core.retireOp, writeBack_none]
    · rfl

theorem abandoned_op {r : Restart} {k : Core} {o : Op} (hcmd : r.isCmd = false) (ho : k.op? r.id = some o) :
    (abandoned r k).ops = (k.ops.filter fun x => x.id != o.id && !x.held) ++
        ((k.ops.filter fun x => x.id != o.id && x.held).map fun x => { x with held := false }) ∧
      (abandoned r k).cmds = k.cmds ∧ (abandoned r k).dq = dqDrop k.dq o.dtag := by
  have heq : abandoned r k = { ({ k with seq := { k.seq with restart := none } } : Core).retireOp o none |>.unhold with
      dq := dqDrop k.dq o.dtag } := by
    unfold abandoned
    simp only [hcmd, Bool.false_eq_true, if_false]
    change (match k.op? r.id with | some o => _ | none => _) = _
    rw [ho]
  rw [heq]
  refine ⟨?_, rfl, rfl⟩
  change ((Core.retireOp _ o none).unhold).ops = _
  simp only [unhold_ops, Core.retireOp, List.filter_filter, Bool.and_comm]

theorem abandoned_cmd {r : Restart} (k : Core) (hcmd : r.isCmd = true) :
    (abandoned r k).cmds = k.cmds.filter (fun m => m.id != r.id) ∧ (abandoned r k).dq = k.dq ∧
      (abandoned r k).ops =
        (k.ops.filter fun x => !x.held) ++ ((k.ops.filter Op.held).map fun x => { x with held := false }) := by
  simp only [abandoned, hcmd, if_true]
  exact ⟨rfl, rfl, unhold_ops _⟩

/-! ### Records that a first run folded into -/

theorem recs_setRcd_other {d : DevMem} {r : PedRec} {ctx : W32} {i : Nat} (h : ¬ (r.ctx = ctx ∧ r.idx = i)) :
    (d.setRcd r).rcd ctx i = d.rcd ctx i := by
  have hr : (r.ctx == ctx && r.idx == i) = false := by simpa using h
  have hskip (x : PedRec) : decide ((!(x.ctx == r.ctx && x.idx == r.idx)) = true ∧ (x.ctx == ctx && x.idx == i) = true) =
      (x.ctx == ctx && x.idx == i) := by
    rw [Bool.eq_iff_iff, decide_eq_true_iff, and_iff_right_iff_imp]
    intro hx
    simp only [Bool.and_eq_true, beq_iff_eq] at hx
    obtain ⟨rfl, rfl⟩ := hx
    rw [BEq.comm (a := x.ctx), BEq.comm (a := x.idx), hr]
    rfl
  simp only [DevMem.rcd, DevMem.setRcd, List.find?_cons, hr, List.find?_filter, hskip]

theorem replay_markReplay_keeps {s : State} {ctx : W32} {i : Nat} (j : Nat) (h : (s.dev.rcd ctx i).replay = true) :
    ((s.markReplay ctx j).dev.rcd ctx i).replay = true := by
  by_cases hij : j = i
  · rw [hij]
    exact replay_markReplay s ctx i
  · unfold State.markReplay
    split_ifs
    · exact h
    · obtain ⟨_, hidx⟩ := rcd_ctx_idx s.dev ctx j
      rw [State.updRcd, rcd_of_recs (mirror_recs _ _ _ _)]
      exact (congrArg PedRec.replay (recs_setRcd_other fun ⟨_, hi⟩ => hij (hidx.symm.trans hi))).trans h

/-- Every record of the list is marked. -/
theorem replay_foldl_markReplay (ctx : W32) (is : List Nat) (s : State) (i : Nat) (hi : i ∈ is) :
    ((is.foldl (fun v i => v.markReplay ctx i) s).dev.rcd ctx i).replay = true := by
  have hkeep (js : List Nat) (u : State) (h : (u.dev.rcd ctx i).replay = true) :
      ((js.foldl (fun v i => v.markReplay ctx i) u).dev.rcd ctx i).replay = true := by
    induction js generalizing u with
    | nil => exact h
    | cons j js ih => exact ih _ (replay_markReplay_keeps j h)
  induction is generalizing s with
  | nil => cases hi
  | cons j js ih =>
    rcases List.mem_cons.mp hi with rfl | hi
    · exact hkeep js _ (replay_markReplay s ctx i)
    · exact ih _ hi

/-! ### Reissuing -/

/-- The wake of an attached record leaves what a reissue reads. -/
theorem attachWake_core (s : State) (c : CoreNo) (tag : BitVec 16) (team : Option Nat) :
    let k := s.core c
    let j := (s.attachWake c tag team).core c
    j.ops = k.ops ∧ j.cmds = k.cmds ∧ j.dq = k.dq ∧ j.nextStore = k.nextStore ∧ j.seq.floor = k.seq.floor := by
  unfold State.attachWake State.wake
  split_ifs
  · simp only [State.core_updCore_same, Core.wakeUp_ops, Core.wakeUp_cmds, Core.wakeUp_dq, Core.wakeUp_nextStore, true_and]
    unfold Core.wakeUp
    split_ifs <;> rfl
  · exact ⟨rfl, rfl, rfl, rfl, rfl⟩

theorem attachWake_dev (s : State) (c : CoreNo) (tag : BitVec 16) (team : Option Nat) :
    (s.attachWake c tag team).dev = s.dev := by
  unfold State.attachWake State.wake
  split_ifs <;> rfl

/-- A core with the op of its slot back in its queue. -/
def reissued (r : Restart) (o : Op) (e : BindEntry) (k : Core) : Core :=
  let o' : Op := { o with entry := e, q := queueOf e, st := .queued, folded := [],
                          replay := true, held := false, floor := k.issueFloor .seq }
  let k := (k.requeue o').issueDq o.dtag e.team
  { k with seq := { k.seq with restart := none, pc := r.resume, afterSafe := false } }

/-- The marks of a reissue and its release, before the op is back in its queue. -/
def remarked (c : CoreNo) (folded : List Nat) (s : State) : State :=
  (folded.foldl (fun v i => v.markReplay (s.core c).ctx i) s).release c .seq .core

theorem reissueOp_core (c : CoreNo) (r : Restart) (o : Op) (e : BindEntry) (s : State) :
    (reissueOp c r o e s).core c = reissued r o e (((remarked c o.folded s).attachWake c o.dtag e.team).core c) :=
  State.core_updCore_same ((remarked c o.folded s).attachWake c o.dtag e.team) c (reissued r o e)

/-- The wake of a record leaves what a reissued core is made of. -/
theorem reissued_eq (r : Restart) (o : Op) (e : BindEntry) (s : State) (c : CoreNo) (tag : BitVec 16)
    (team : Option Nat) :
    let k := s.core c
    let j := reissued r o e ((s.attachWake c tag team).core c)
    j.ops = (k.ops.filter fun x => x.id != o.id && !x.held) ++
        { o with entry := e, q := queueOf e, st := .queued, folded := [], replay := true, held := false, floor := k.issueFloor .seq } ::
          ((k.ops.filter fun x => x.id != o.id && x.held).map fun x => { x with held := false }) ∧
      j.seq.pc = r.resume ∧ j.seq.restart = none ∧ j.seq.dtag = k.seq.dtag ∧ j.dq = dqIssue k.dq o.dtag e.team ∧
      j.cmds = k.cmds := by
  obtain ⟨hops, hcmds, hdq, hstore, hfl⟩ := attachWake_core s c tag team
  obtain ⟨_, hdtag, _⟩ := attachWake_counters s c tag team
  generalize (s.attachWake c tag team).core c = j at hops hcmds hdq hstore hfl hdtag ⊢
  have hfloor : j.issueFloor .seq = (s.core c).issueFloor .seq := by
    rw [Core.issueFloor, Core.issueFloor, hstore]
    exact congrArg (Floor.join · _) hfl
  refine ⟨?_, rfl, rfl, hdtag, ?_, hcmds⟩
  · change (Core.requeue j _).ops = _
    rw [requeue_ops j rfl, hops, hfloor]
  · exact congrArg (fun dq => dqIssue dq o.dtag e.team) hdq

theorem updCmd_updCmd {k : Core} {id : Nat} {f g : Cmd → Cmd} (h : ∀ m, (f m).id = m.id) :
    ((k.updCmd id f).updCmd id g).cmds = k.cmds.map fun x => if x.id = id then g (f x) else x := by
  simp only [Core.updCmd, List.map_map]
  refine List.map_congr_left fun x _ => ?_
  simp only [Function.comp_apply]
  split_ifs with hx hfx
  · rfl
  · exact absurd ((h x).trans hx) hfx
  · rfl

/-- A core with the command of its slot back in its queue. -/
def reissuedCmd (r : Restart) (m : Cmd) (k : Core) : Core :=
  let k := { k.requeueCmd m with locks := k.locks ++ cmdLocks m }
  let k := k.updCmd m.id fun m => { m with folded := [], replay := true, floor := k.issueFloor .seq }
  { k.unhold with seq := { k.seq with restart := none, pc := r.resume, afterSafe := false } }

theorem reissueCmd_core (c : CoreNo) (r : Restart) (m : Cmd) (s : State) :
    (reissueCmd c r m s).core c = reissuedCmd r m ((remarked c m.folded s).core c) :=
  State.core_updCore_same (remarked c m.folded s) c (reissuedCmd r m)

theorem reissuedCmd_eq (r : Restart) (m : Cmd) (k : Core) :
    (reissuedCmd r m k).cmds = k.cmds.map (fun x => if x.id = m.id then { x with
        st := .queued, landed := [], sub := 0, frames := 0, park := .none, peerBad := false, part := [], folded := [],
        replay := true, floor := k.issueFloor .seq } else x) ∧
      (reissuedCmd r m k).locks = k.locks ++ cmdLocks m ∧
      (∀ h : m.q.toNat < 4, (reissuedCmd r m k).retq[m.q.toNat] = k.retq[m.q.toNat] ++ [.cmd m.id]) ∧
      (reissuedCmd r m k).seq.pc = r.resume ∧ (reissuedCmd r m k).seq.restart = none := by
  refine ⟨?_, rfl, fun h => ?_, rfl, rfl⟩
  · exact updCmd_updCmd (k := k) fun _ => rfl
  · change (if h : m.q.toNat < 4 then k.retq.set m.q.toNat (k.retq[m.q.toNat] ++ [.cmd m.id]) else k.retq)[m.q.toNat] = _
    simp only [dif_pos h, Vector.getElem_set_self]

theorem core_mirror (s : State) (ctx : W32) (i : Nat) (bank : Bool) (c : CoreNo) :
    (s.mirror ctx i bank).core c = s.core c := by
  unfold State.mirror
  cases s.recordPa ctx i with
  | none => rfl
  | some pa => cases bank <;> simp only [Bool.false_eq_true, if_false, if_true, State.core_setDev]

theorem core_markReplay (s : State) (ctx : W32) (i : Nat) (c : CoreNo) : (s.markReplay ctx i).core c = s.core c := by
  unfold State.markReplay
  split_ifs
  · rfl
  · exact (core_mirror _ _ _ _ _).trans (State.core_setDev _ _ _)

/-- What a reissue marks is marked for the context of the core that it leaves. -/
theorem replay_remarked (c : CoreNo) (folded : List Nat) (s : State) (i : Nat) (hi : i ∈ folded) :
    ((remarked c folded s).dev.rcd ((remarked c folded s).core c).ctx i).replay = true := by
  have hrel := bareState_release (folded.foldl (fun v i => v.markReplay (s.core c).ctx i) s) c .seq .core
  have hctx : ((remarked c folded s).core c).ctx = (s.core c).ctx :=
    (coreField_eq hrel c Core.ctx fun _ => rfl).trans
      (congrArg Core.ctx (foldl_keeps (fun s => State.core s c) _ (fun s i => core_markReplay s _ i c) _ _))
  have hrecs : (remarked c folded s).dev.recs = _ := stateField_eq hrel (fun s => s.dev.recs) fun _ => rfl
  rw [hctx, rcd_of_recs hrecs]
  exact replay_foldl_markReplay _ _ _ i hi

theorem replay_reissueOp (c : CoreNo) (r : Restart) (o : Op) (e : BindEntry) (s : State) (i : Nat) (hi : i ∈ o.folded) :
    ((reissueOp c r o e s).dev.rcd ((remarked c o.folded s).core c).ctx i).replay = true := by
  have hdev : (reissueOp c r o e s).dev = (remarked c o.folded s).dev := attachWake_dev _ _ _ _
  rw [hdev]
  exact replay_remarked c o.folded s i hi

/-! ### SAFEPT -/

theorem curCore_updCore (s : State) (f : Core → Core) : (s.updCore s.cur f).curCore = f s.curCore :=
  State.core_updCore_same s s.cur f

theorem exec_safept_ready {a : SKL} {s : State} (h : s.curCore.seq.pendingSKL a = false) :
    ∃ t, exec (.safept a) s = .next t ∧
      t = s.updCore s.cur (fun k => { k with seq := t.curCore.seq, health := t.curCore.health }) ∧
      t.curCore.seq = { s.curCore.seq with
        pc := s.curCore.seq.pc + 8, safe := some (s.curCore.seq.pc, a.val s.curCore.seq), afterSafe := true,
        mode := if s.curCore.checkpointAsked && s.curCore.seq.restart.isNone then .stopped else s.curCore.seq.mode,
        drain := if s.curCore.checkpointAsked && s.curCore.seq.restart.isNone then some .checkpoint else s.curCore.seq.drain } ∧
      t.curCore.health.spLast = some s.ticks := by
  change ∃ t, execSafept a s = .next t ∧ _
  simp only [execSafept, h, Bool.false_eq_true, if_false]
  refine ⟨_, rfl, updCore_congr s ?_, ?_, ?_⟩
  · rw [curCore_updCore]
    rfl
  · rw [curCore_updCore]
    split_ifs <;> rfl
  · rw [curCore_updCore]
    rfl

/-- Settles O14: the flow of ERET case by case, then what an abandoned slot and a reissue leave of the core. -/
theorem trapReturnAndSafePoints : Obligations.TrapReturnAndSafePoints := by
  unfold Obligations.TrapReturnAndSafePoints
  refine ⟨fun a s h => exec_tileTrap_ready h, fun s => ⟨exec_eret_plain, fun r hr => exec_eret_elsewhere hr,
    fun r hr => exec_eret_final hr, fun r o hr hpc hfinal hcmd ho hunbound hreserved hok => ?_,
    fun r m hr hpc hfinal hcmd hm => ?_⟩, fun c r s => ⟨fun o hcmd ho => ?_, fun hcmd => ?_, ?_⟩,
    fun c r o e s => ?_, fun c r m s => ?_, fun a s h => exec_safept_ready h, fun s => rfl⟩
  · rw [exec_eret_op hr hpc hfinal hcmd ho hunbound hreserved hok]
    have hiff := reissueWaits_iff s.curCore (s.pedlimit s.cur) r o (s.curCore.table[o.rcd.word.idx.toNat]'o.rcd.word.idx.isLt)
    exact ⟨fun h => if_neg (mt hiff.mp h), fun h => if_pos (hiff.mpr h)⟩
  · rw [exec_eret_cmd hr hpc hfinal hcmd hm]
    exact ⟨fun h => if_neg (by omega), fun h => if_pos h⟩
  · obtain ⟨hops, hcmds, hdq, _⟩ := of_slotView (abandon_core c r s)
    rw [hops, hcmds, hdq]
    exact abandoned_op hcmd ho
  · obtain ⟨hops, hcmds, hdq, _⟩ := of_slotView (abandon_core c r s)
    rw [hops, hcmds, hdq]
    exact abandoned_cmd _ hcmd
  · obtain ⟨_, _, _, hseq⟩ := of_slotView (abandon_core c r s)
    rw [abandoned_seq] at hseq
    exact hseq
  · obtain ⟨hops, hpc, hrestart, hdtag, hdq, hcmds⟩ := reissued_eq r o e (remarked c o.folded s) c o.dtag e.team
    rw [← reissueOp_core] at hops hpc hrestart hdtag hdq hcmds
    exact ⟨hops, hpc, hrestart, hdtag, hdq, hcmds, replay_reissueOp c r o e s⟩
  · obtain ⟨hcmds, hlocks, hretq, hpc, hrestart⟩ := reissuedCmd_eq r m ((remarked c m.folded s).core c)
    rw [← reissueCmd_core c r m s] at hcmds hlocks hpc hrestart
    refine ⟨hcmds, hlocks, fun h => ?_, hpc, hrestart, replay_remarked c m.folded s⟩
    rw [reissueCmd_core]
    exact hretq h

end Sys2Proof
end

section
/-! O29: compares, predicate functions, moves, special reads and random numbers of the lanes. -/

namespace Sys2Proof
open Machine

/-! ### Words of special registers -/

theorem extract_zeroExtend (x : W32) : (x.zeroExtend 64).extractLsb' 0 32 = x := by
  apply BitVec.eq_of_toNat_eq
  have hx := x.isLt
  simp only [BitVec.extractLsb'_toNat, BitVec.toNat_setWidth, Nat.shiftRight_zero]
  omega

theorem extract_shift (x : W64) : (x >>> 32).extractLsb' 0 32 = x.extractLsb' 32 32 := by
  apply BitVec.eq_of_toNat_eq
  simp [BitVec.extractLsb'_toNat]

theorem extract_ofNat (n : Nat) : (BitVec.ofNat 64 n).extractLsb' 0 32 = BitVec.ofNat 32 n := by
  apply BitVec.eq_of_toNat_eq
  simp only [BitVec.extractLsb'_toNat, BitVec.toNat_ofNat, Nat.shiftRight_zero]
  omega

theorem extract_ofNat_shift (n : Nat) : (BitVec.ofNat 64 n >>> 32).extractLsb' 0 32 = BitVec.ofNat 32 (n / 2 ^ 32) := by
  apply BitVec.eq_of_toNat_eq
  simp only [BitVec.extractLsb'_toNat, BitVec.toNat_ofNat, BitVec.toNat_ushiftRight, Nat.shiftRight_eq_div_pow]
  omega

/-- Word `j` of an operand of the dispatch (R30). -/
theorem word_eq (v : OpVal) (j : Fin 4) : v.word j.val =
    match v with
    | .none => 0
    | .tile d => d.extractLsb' (32 * j.val) 32
    | .val d => if j = 0 then d.extractLsb' 0 32 else if j = 1 then d.extractLsb' 32 32 else 0 := by
  cases v with
  | none => rfl
  | tile d => rfl
  | val d => fin_cases j <;> rfl

/-- The operand words from 0x40 on. -/
theorem laneSpecial_operand (s : State) (t : TRef) (th : Thread) (team : Team) (j : Fin 4) :
    laneSpecial s t th team (0x40 + j.val) = team.rcd.d.word j.val ∧
      laneSpecial s t th team (0x44 + j.val) = team.rcd.a.word j.val ∧
      laneSpecial s t th team (0x48 + j.val) = team.rcd.b.word j.val ∧
      laneSpecial s t th team (0x4C + j.val) = team.rcd.c.word j.val := by
  fin_cases j <;> exact ⟨rfl, rfl, rfl, rfl⟩

/-! ### Philox (R67) -/

theorem mulHi32_eq (a b : W32) : mulHi32 a b = (a.zeroExtend 64 * b.zeroExtend 64 : W64).extractLsb' 32 32 := by
  apply BitVec.eq_of_toNat_eq
  have hmul : a.toNat * b.toNat < 2 ^ 64 := by
    have := Nat.mul_lt_mul'' a.isLt b.isLt
    omega
  have ha := a.isLt
  have hb := b.isLt
  rw [mulHi32, BitVec.extractLsb'_toNat, BitVec.toNat_mul, BitVec.toNat_setWidth, BitVec.toNat_setWidth,
    Nat.mod_eq_of_lt (by omega : a.toNat < 2 ^ 64), Nat.mod_eq_of_lt (by omega : b.toNat < 2 ^ 64),
    Nat.mod_eq_of_lt hmul, Nat.shiftRight_eq_div_pow, BitVec.toNat_ofNat]

theorem mulLow32_eq (a b : W32) : a * b = (a.zeroExtend 64 * b.zeroExtend 64 : W64).extractLsb' 0 32 := by
  apply BitVec.eq_of_toNat_eq
  have hmul : a.toNat * b.toNat < 2 ^ 64 := by
    have := Nat.mul_lt_mul'' a.isLt b.isLt
    omega
  have ha := a.isLt
  have hb := b.isLt
  rw [BitVec.extractLsb'_toNat, BitVec.toNat_mul, BitVec.toNat_mul, BitVec.toNat_setWidth, BitVec.toNat_setWidth,
    Nat.mod_eq_of_lt (by omega : a.toNat < 2 ^ 64), Nat.mod_eq_of_lt (by omega : b.toNat < 2 ^ 64),
    Nat.mod_eq_of_lt hmul, Nat.shiftRight_zero]

/-- The state after `j` rounds, each with its key step. -/
def philoxAt (p : Philox) (j : Nat) : Philox := (fun q => q.round.bump)^[j] p

theorem go_eq_philoxAt (n : Nat) (p : Philox) : Philox.go n p = philoxAt p n := by
  induction n generalizing p with
  | zero => rfl
  | succ n ih => exact ih _

theorem philoxAt_succ (p : Philox) (j : Nat) : philoxAt p (j + 1) = (philoxAt p j).round.bump :=
  Function.iterate_succ_apply' _ _ _

theorem philox_rounds (c0 c1 c2 c3 k0 k1 : W32) : ∃ x0 x1 x2 x3 a b : Nat → W32,
    (x0 0, x1 0, x2 0, x3 0, a 0, b 0) = (c0, c1, c2, c3, k0, k1) ∧
    (∀ j, let p : W64 := 0xD2511F53 * (x0 j).zeroExtend 64
      let q : W64 := 0xCD9E8D57 * (x2 j).zeroExtend 64
      x0 (j + 1) = q.extractLsb' 32 32 ^^^ x1 j ^^^ a j ∧ x1 (j + 1) = q.extractLsb' 0 32 ∧
      x2 (j + 1) = p.extractLsb' 32 32 ^^^ x3 j ^^^ b j ∧ x3 (j + 1) = p.extractLsb' 0 32 ∧
      a (j + 1) = a j + 0x9E3779B9 ∧ b (j + 1) = b j + 0xBB67AE85) ∧
    philox c0 c1 c2 c3 k0 k1 = (x0 10, x1 10, x2 10, x3 10) := by
  let p : Philox := ⟨c0, c1, c2, c3, k0, k1⟩
  refine ⟨fun j => (philoxAt p j).x0, fun j => (philoxAt p j).x1, fun j => (philoxAt p j).x2,
    fun j => (philoxAt p j).x3, fun j => (philoxAt p j).k0, fun j => (philoxAt p j).k1, rfl, fun j => ?_, ?_⟩
  · simp only [philoxAt_succ]
    generalize philoxAt p j = q
    have hhi0 := mulHi32_eq 0xD2511F53 q.x0
    have hhi1 := mulHi32_eq 0xCD9E8D57 q.x2
    have hlo0 := mulLow32_eq 0xD2511F53 q.x0
    have hlo1 := mulLow32_eq 0xCD9E8D57 q.x2
    exact ⟨congrArg (· ^^^ q.x1 ^^^ q.k0) hhi1, hlo1, congrArg (· ^^^ q.x3 ^^^ q.k1) hhi0, hlo0, rfl, rfl⟩
  · simp only [philox, go_eq_philoxAt, philoxAt_succ p 9]
    rfl

/-! ### The counter (R210) -/

theorem wide_drop_two (ws : List W32) : wide (ws.drop 2) = ws.getD 3 0 ++ ws.getD 2 0 := by
  simp [wide, List.getD_eq_getElem?_getD]

/-- The four words of 128 bits, halved twice. -/
theorem splitWide_halves (d : W128) : splitWide (d.extractLsb' 0 64) ++ splitWide (d.extractLsb' 64 64) =
    [d.extractLsb' 0 32, d.extractLsb' 32 32, d.extractLsb' 64 32, d.extractLsb' 96 32] := by
  have hsub (k m : Nat) (h : m + 32 ≤ 64) : (d.extractLsb' k 64).extractLsb' m 32 = d.extractLsb' (k + m) 32 := by
    ext i hi
    simp only [BitVec.getElem_extractLsb', BitVec.getLsbD_extractLsb', Nat.add_assoc]
    simp only [show m + i < 64 by omega, decide_true, Bool.true_and]
  simp only [splitWide, hsub 0 0 (by omega), hsub 0 32 (by omega), hsub 64 0 (by omega), hsub 64 32 (by omega),
    List.cons_append, List.nil_append]

/-! ### The statement -/

/-- The registers of R26 at level L, each under its number. -/
theorem laneSpecial_eq (s : State) (t : TRef) (th : Thread) (team : Team) :
    let q := (s.core t.c).seq
    let r (n : Nat) : W32 := laneSpecial s t th team n
    let opd (v : OpVal) (j : Fin 4) : W32 := match v with
      | .none => 0
      | .tile d => d.extractLsb' (32 * j.val) 32
      | .val d => if j = 0 then d.extractLsb' 0 32 else if j = 1 then d.extractLsb' 32 32 else 0
    r 0x00 = BitVec.ofNat 32 t.c.val ∧ r 0x01 = q.partid.zeroExtend 32 ∧ r 0x02 = q.iter[0] ∧ r 0x03 = q.iter[1] ∧
    r 0x04 = q.iter[2] ∧ r 0x05 = q.iter[3] ∧ r 0x06 = q.itern.extractLsb' 0 32 ∧ r 0x07 = q.itern.extractLsb' 32 32 ∧
    r 0x08 = q.nodearg.extractLsb' 0 32 ∧ r 0x09 = q.nodearg.extractLsb' 32 32 ∧
    r 0x12 = BitVec.ofNat 32 (s.now / 17) ∧ r 0x13 = BitVec.ofNat 32 (s.now / 17 / 2 ^ 32) ∧
    r 0x14 = BitVec.ofNat 32 (s.now - q.start) ∧ r 0x15 = BitVec.ofNat 32 ((s.now - q.start) / 2 ^ 32) ∧
    r 0x20 = BitVec.ofNat 32 t.lane ∧ r 0x21 = BitVec.ofNat 32 (t.lane / 32) ∧ r 0x22 = BitVec.ofNat 32 t.slot ∧
    r 0x23 = BitVec.ofNat 32 th.rank ∧ r 0x24 = BitVec.ofNat 32 (32 * 2 ^ team.entry.gang) ∧
    r 0x25 = team.rcd.word.idx.zeroExtend 32 ∧ r 0x26 = th.flags.zeroExtend 32 ∧
    r 0x27 = BitVec.ofNat 32 team.entry.budget ∧ r 0x28 = team.dtag.zeroExtend 32 ∧
    ∀ j : Fin 4, r (0x40 + j.val) = opd team.rcd.d j ∧ r (0x44 + j.val) = opd team.rcd.a j ∧
      r (0x48 + j.val) = opd team.rcd.b j ∧ r (0x4C + j.val) = opd team.rcd.c j := by
  intro q r opd
  have hpartid : (q.partid.zeroExtend 64).extractLsb' 0 32 = q.partid.zeroExtend 32 := by
    apply BitVec.eq_of_toNat_eq
    have := q.partid.isLt
    simp only [BitVec.extractLsb'_toNat, BitVec.toNat_setWidth, Nat.shiftRight_zero]
    omega
  refine ⟨extract_ofNat _, hpartid, extract_zeroExtend _, extract_zeroExtend _, extract_zeroExtend _,
    extract_zeroExtend _, rfl, extract_shift _, rfl, extract_shift _, extract_ofNat _, extract_ofNat_shift _,
    extract_ofNat _, extract_ofNat_shift _, rfl, rfl, rfl, rfl, rfl, rfl, rfl, rfl, rfl, fun j => ?_⟩
  obtain ⟨hd, ha, hb, hc⟩ := laneSpecial_operand s t th team j
  exact ⟨hd.trans (word_eq _ j), ha.trans (word_eq _ j), hb.trans (word_eq _ j), hc.trans (word_eq _ j)⟩

/-- A meaning that is a result alone. -/
theorem laneGives_of {i : Instr} {f : LaneFn} {g : LaneIn → LaneRes} (he : ∀ s, exec i s = .next (laneAll i f s))
    (hf : ∀ x s, f x s = .ok s (g x)) : LaneGives i g :=
  laneDoes_of he fun x s _ => hf x s

theorem comb_eq (i : LaneIn) (p : PredNo) (neg : Bool) : i.comb p neg = (i.th.pred p ^^ neg) :=
  congrFun₂ Bool.bne_eq_xor _ _

/-- Settles O29: each instruction's meaning is the result stated; the special registers and Philox are counted out. -/
theorem lanePredicatesAndMoves : Obligations.LanePredicatesAndMoves := by
  unfold Obligations.LanePredicatesAndMoves
  refine ⟨fun x => laneGives_of (fun _ => rfl) fun i s => ?_, fun x => laneGives_of (fun _ => rfl) fun i s => ?_,
    fun x => laneGives_of (fun _ => rfl) fun i s => rfl, fun x => laneGives_of (fun _ => rfl) fun i s => rfl,
    fun x => laneGives_of (fun _ => rfl) fun i s => ?_, fun x => laneGives_of (fun _ => rfl) fun i s => rfl,
    fun x => laneGives_of (fun _ => rfl) fun i s => rfl, fun x => laneGives_of (fun _ => rfl) fun i s => rfl,
    fun x => laneDoes_of (fun _ => rfl) fun i s _ => rfl, laneSpecial_eq, philox_rounds, ?_,
    fun x => laneGives_of (fun _ => rfl) fun i s => rfl, fun x => laneGives_of (fun _ => rfl) fun i s => ?_⟩
  · simp only [laneIcmp, lanePred, comb_eq] <;> rfl
  · simp only [laneFcmp, comb_eq]
    rfl
  · refine congrArg (fun ps => LaneOut.ok s { preds := ps }) (congrArg (List.filterMap · _) (funext fun k => ?_))
    rw [show Fin.ofNat 8 k.val = (⟨k.val, by omega⟩ : Fin 8) from Fin.ext (Nat.mod_eq_of_lt (by omega))]
  · decide +kernel
  · simp only [laneCtradd, wide_drop_two, splitWide_halves]
    rfl

end Sys2Proof
end

section
/-! O32: the loads and stores of the lanes, whose checks R224 gives. -/

namespace Sys2Proof
open Machine

/-! ### The checks of R224 -/

theorem laneCheck_of_can {sp : LSpace} {i : LaneIn} {addr : W64} {n : Nat} {write : Bool} {s : State}
    (h : LaneCan sp i addr n write s) : laneCheck sp i addr n write s = none := by
  obtain ⟨halign, hspace⟩ := h
  simp only [laneCheck, halign, ne_eq, not_true_eq_false, if_false]
  cases sp with
  | device =>
    obtain ⟨hlow, hlock⟩ := hspace
    simp only [(extract_high_eq_zero_iff addr).mpr hlow, hlock, not_true_eq_false, Bool.false_eq_true, if_false]
  | kennel =>
    obtain ⟨hrange, hlock⟩ := hspace
    simp only [kennelSize, not_lt.mpr hrange, hlock, Bool.false_eq_true, if_false]
  | priv => exact if_neg (not_lt.mpr hspace)
  | const => exact if_neg (not_lt.mpr hspace)

theorem laneXlate_of_at {i : LaneIn} {addr : W64} {need : Need} {p : Phys} {s : State} (h : LaneAt i addr need p s) :
    laneXlate i addr need s = .ok p := by
  obtain ⟨hpark, hfind⟩ := h
  rcases hpark with hpark | hpark <;> simp only [laneXlate, hpark, hfind]

theorem laneLoad_eq (vd : RegNo) (i : LaneIn) (l : LateLoad) (s : State) :
    laneLoad vd i l s = .ok (laneLoads vd i l s).1 (laneLoads vd i l s).2 := by
  unfold laneLoad laneLoads
  dsimp only
  split_ifs <;> rfl

/-! ### Loads -/

section loads
variable {x : LLoad} {i : LaneIn} {s : State}

theorem laneLdkF_ok (hcan : LaneCan .kennel i (laneAddr false i.a x.off) (2 ^ x.w.toNat) false s)
    (hpoison : (s.core i.t.c).kpoisoned (laneAddr false i.a x.off).toNat (2 ^ x.w.toNat) = false) :
    laneLdkF x i s = laneLoad x.vd i
      ⟨false, (laneAddr false i.a x.off).toNat, laneAddr false i.a x.off, 2 ^ x.w.toNat, x.sx, none⟩ s := by
  simp only [laneLdkF, widthBytes, laneCheck_of_can hcan, hpoison, Bool.false_eq_true, if_false]

theorem laneLd_ok {p : Phys} (hcan : LaneCan .device i (laneAddr true i.a x.off) (2 ^ x.w.toNat) false s)
    (hat : LaneAt i (laneAddr true i.a x.off) .read p s)
    (hpoison : (s.readPoison i.t.c p.pa (2 ^ x.w.toNat)).1 = false) :
    laneLd x i s = laneLoad x.vd i ⟨true, p.pa, laneAddr true i.a x.off, 2 ^ x.w.toNat, x.sx, none⟩
      (s.readPoison i.t.c p.pa (2 ^ x.w.toNat)).2 := by
  simp only [laneLd, widthBytes, laneCheck_of_can hcan, laneXlate_of_at hat, hpoison, Bool.false_eq_true, if_false]

theorem laneLdp_ok (hcan : LaneCan .priv i (laneAddr false i.a x.off) (2 ^ x.w.toNat) false s)
    (hpoison : (s.core i.t.c).ppoisoned i.t.lane (laneAddr false i.a x.off).toNat (2 ^ x.w.toNat) = false) :
    laneLdp x i s = .ok s (loadRes x (ofBytes
      ((s.core i.t.c).mem.pread (2048 * i.t.lane + (laneAddr false i.a x.off).toNat) (2 ^ x.w.toNat)))) := by
  simp only [laneLdp, widthBytes, laneCheck_of_can hcan, hpoison, Bool.false_eq_true, if_false]

theorem laneLdc_ok (hcan : LaneCan .const i (laneAddr false i.a x.off) (2 ^ x.w.toNat) false s) :
    laneLdc x i s = .ok s (loadRes x (constBytes (s.core i.t.c).seq (laneAddr false i.a x.off).toNat (2 ^ x.w.toNat))) := by
  simp only [laneLdc, widthBytes, laneCheck_of_can hcan]

/-! Poisoned units (R285). -/

theorem laneLdkF_poisoned (hcan : LaneCan .kennel i (laneAddr false i.a x.off) (2 ^ x.w.toNat) false s)
    (hpoison : (s.core i.t.c).kpoisoned (laneAddr false i.a x.off).toNat (2 ^ x.w.toNat) = true) :
    laneLdkF x i s = .fault s .memoryError (laneAddr false i.a x.off) 0 := by
  simp only [laneLdkF, widthBytes, laneCheck_of_can hcan, hpoison, if_true]

theorem laneLd_poisoned {p : Phys} (hcan : LaneCan .device i (laneAddr true i.a x.off) (2 ^ x.w.toNat) false s)
    (hat : LaneAt i (laneAddr true i.a x.off) .read p s) (hpoison : s.dev.poisoned p.pa (2 ^ x.w.toNat) = true) :
    laneLd x i s = .fault s .memoryError (laneAddr true i.a x.off) 0 := by
  have hread : s.readPoison i.t.c p.pa (2 ^ x.w.toNat) = (true, s) := if_pos hpoison
  simp only [laneLd, widthBytes, laneCheck_of_can hcan, laneXlate_of_at hat, hread, if_true]

theorem laneLdp_poisoned (hcan : LaneCan .priv i (laneAddr false i.a x.off) (2 ^ x.w.toNat) false s)
    (hpoison : (s.core i.t.c).ppoisoned i.t.lane (laneAddr false i.a x.off).toNat (2 ^ x.w.toNat) = true) :
    laneLdp x i s = .fault s .memoryError (laneAddr false i.a x.off) 0 := by
  simp only [laneLdp, widthBytes, laneCheck_of_can hcan, hpoison, if_true]

end loads

/-! ### Stores -/

section stores
variable {x : LStore} {i : LaneIn} {s : State}

theorem laneStkF_ok (hcan : LaneCan .kennel i (laneAddr false i.a x.off) (2 ^ x.w.toNat) true s) :
    laneStkF x i s = .ok (s.kstore i.t.c i.t.agent (laneAddr false i.a x.off).toNat (storeBytes x.w i.b)) {} := by
  simp only [laneStkF, widthBytes, laneCheck_of_can hcan]

theorem laneStp_ok (hcan : LaneCan .priv i (laneAddr false i.a x.off) (2 ^ x.w.toNat) true s) :
    laneStp x i s = .ok (s.updCore i.t.c fun k =>
      k.pwrite i.t.lane (laneAddr false i.a x.off).toNat (storeBytes x.w i.b)) {} := by
  simp only [laneStp, widthBytes, laneCheck_of_can hcan]

theorem laneSt_ok {p : Phys} (hcan : LaneCan .device i (laneAddr true i.a x.off) (2 ^ x.w.toNat) true s)
    (hat : LaneAt i (laneAddr true i.a x.off) .write p s) :
    laneSt x i s = .ok ((s.dstore i.t.c i.t.agent p.pidx (laneReplay i s) p.pa (storeBytes x.w i.b)).noteFold i.t.c
      i.team.op p.pidx) {} := by
  simp only [laneSt, widthBytes, laneCheck_of_can hcan, laneXlate_of_at hat]

end stores

/-! ### Values -/

/-- Where no store of the agent to the bytes is on its way, it reads what the Kennel holds. -/
theorem kreadBy_eq_kread {k : Core} {a : Agent} {addr n : Nat}
    (h : ∀ p ∈ k.kstores, p.agent = a → p.overlaps addr n = false) : k.kreadBy a addr n = k.kread addr n := by
  have hlen : (k.kread addr n).length = n := by simp [Core.kread, CoreMem.kread, CoreMem.bytes]
  have hnone (j : Nat) (hj : j < n) : (k.kstores.filter fun p => p.agent == a && p.overlaps (addr + j) 1) = [] := by
    refine List.filter_eq_nil_iff.mpr fun p hp hboth => ?_
    simp only [Bool.and_eq_true, beq_iff_eq] at hboth
    obtain ⟨ha, hover⟩ := hboth
    have hfar := h p hp ha
    simp only [KStore.overlaps, Bool.and_eq_true, decide_eq_true_eq, Bool.and_eq_false_iff, decide_eq_false_iff_not]
      at hover hfar
    omega
  refine List.ext_getElem (by simp [Core.kreadBy]) fun j hj hj' => ?_
  simp only [Core.kreadBy, List.getElem_map, List.getElem_zipIdx, Nat.zero_add, hnone j (hlen ▸ hj'),
    List.getLast?_nil]

/-- A value of `8 * n` bits, extended to a register (R223). -/
theorem extendTo_32 {n : Nat} (hn : n = 1 ∨ n = 2 ∨ n = 4) (sx : Bool) {v : Nat} (hv : v < 2 ^ (8 * n)) :
    extendTo 32 n sx v =
      if sx && v.testBit (8 * n - 1) then BitVec.ofNat 32 (v + (2 ^ 32 - 2 ^ (8 * n))) else BitVec.ofNat 32 v := by
  cases sx with
  | false => rfl
  | true =>
    have hbit : v.testBit (8 * n - 1) = decide (2 ^ (8 * n) ≤ 2 * v) := by
      rw [Nat.testBit_eq_decide_div_mod_eq, decide_eq_decide]
      rcases hn with rfl | rfl | rfl <;> omega
    simp only [extendTo, toSigned, Nat.mod_eq_of_lt hv, hbit, if_true, Bool.true_and, decide_eq_true_eq]
    by_cases hneg : 2 ^ (8 * n) ≤ 2 * v
    · rw [if_neg (by omega), if_pos hneg]
      apply BitVec.eq_of_toNat_eq
      rw [BitVec.toNat_ofInt, BitVec.toNat_ofNat]
      rcases hn with rfl | rfl | rfl <;> omega
    · rw [if_pos (by omega), if_neg hneg]
      exact BitVec.ofInt_natCast _ _

theorem words_eq (l : LateLoad) (v : Nat) :
    (l.n = 8 → l.words v = [BitVec.ofNat 32 v, BitVec.ofNat 32 (v / 2 ^ 32)]) ∧
    ∀ n ∈ [1, 2, 4], l.n = n → v < 2 ^ (8 * n) → l.words v =
      [if l.sx && v.testBit (8 * n - 1) then BitVec.ofNat 32 (v + (2 ^ 32 - 2 ^ (8 * n))) else BitVec.ofNat 32 v] := by
  refine ⟨fun h => if_pos h, fun n hn hln hv => ?_⟩
  have hn' : n = 1 ∨ n = 2 ∨ n = 4 := by simpa using hn
  rw [LateLoad.words, if_neg (by omega), hln, extendTo_32 hn' l.sx hv]

/-- The constant bank as bytes (R16): within a word, its bytes; at its end, none. -/
theorem constBytes_eq (q : Seq) (n : Fin 256) (j k : Nat) (h : j + k ≤ 8) :
    constBytes q (8 * n.val + j) k = q.c[n].toNat / 256 ^ j % 256 ^ k := by
  unfold constBytes
  by_cases hj : j = 8
  · obtain rfl : k = 0 := by omega
    simp only [pow_zero, Nat.mod_one]
  · rw [show (8 * n.val + j) / 8 = n.val by omega, show (8 * n.val + j) % 8 = j by omega]
    simp [List.getD_eq_getElem?_getD]

/-- Settles O32: with the checks of R224 passed, each instruction is its access; then what a read gives. -/
theorem laneLoadsAndStores : Obligations.LaneLoadsAndStores := by
  refine ⟨fun x => ?_, fun x p => ?_, fun x => ?_, fun x => ?_, fun x => ?_, fun x => ?_, fun x p => ?_,
    fun x => ⟨?_, fun p => ?_, ?_⟩, fun c a l s hdev hrmw => ⟨?_, kreadBy_eq_kread⟩, words_eq, constBytes_eq⟩
  · exact laneDoes_of (f := laneLdkF x) (fun _ => rfl) fun i s ⟨hcan, hpoison⟩ =>
      (laneLdkF_ok hcan hpoison).trans (laneLoad_eq _ _ _ _)
  · exact laneDoes_of (f := laneLd x) (fun _ => rfl) fun i s ⟨hcan, hat, hpoison⟩ =>
      (laneLd_ok hcan hat hpoison).trans (laneLoad_eq _ _ _ _)
  · exact laneDoes_of (f := laneLdp x) (fun _ => rfl) fun i s ⟨hcan, hpoison⟩ => laneLdp_ok hcan hpoison
  · exact laneDoes_of (f := laneLdc x) (fun _ => rfl) fun i s hcan => laneLdc_ok hcan
  · exact laneDoes_of (f := laneStkF x) (fun _ => rfl) fun i s hcan => laneStkF_ok hcan
  · exact laneDoes_of (f := laneStp x) (fun _ => rfl) fun i s hcan => laneStp_ok hcan
  · exact laneDoes_of (f := laneSt x) (fun _ => rfl) fun i s ⟨hcan, hat⟩ => laneSt_ok hcan hat
  · exact laneFaults_of (f := laneLdkF x) (fun _ => rfl) fun i s ⟨hcan, hpoison⟩ => laneLdkF_poisoned hcan hpoison
  · exact laneFaults_of (f := laneLd x) (fun _ => rfl) fun i s ⟨hcan, hat, hpoison⟩ => laneLd_poisoned hcan hat hpoison
  · exact laneFaults_of (f := laneLdp x) (fun _ => rfl) fun i s ⟨hcan, hpoison⟩ => laneLdp_poisoned hcan hpoison
  · simp only [State.readLate, hrmw, hdev, Bool.false_eq_true, if_false]

end Sys2Proof
end

section
/-! Stores on their way and held writes: what lets them go, and that no access makes the others more. -/

namespace Sys2Proof
open Machine

/-! ### The stores of a core under writes that are performed -/

/-- What of a core's accesses has not reached its home slice. -/
def buffers (k : Core) : List PStore × List PStore × List KStore × List Fold := (k.stores, k.lstores, k.kstores, k.port)

theorem of_buffers {j k : Core} (h : buffers j = buffers k) :
    j.stores = k.stores ∧ j.lstores = k.lstores ∧ j.kstores = k.kstores ∧ j.port = k.port := by
  simpa [buffers] using h

theorem buffers_setFloor (k : Core) (a : Agent) (f : Floor) : buffers (k.setFloor a f) = buffers k := by
  cases a <;> rfl

theorem buffers_updCore {s : State} {c d : CoreNo} {f : Core → Core} (h : ∀ k, buffers (f k) = buffers k) :
    buffers ((s.updCore d f).core c) = buffers (s.core c) := by
  by_cases hcd : c = d
  · subst hcd
    rw [State.core_updCore_same, h]
  · rw [State.core_updCore_other s d c f hcd]

theorem buffers_landHeld (s : State) (h : Held) (c : CoreNo) : buffers ((s.landHeld h).core c) = buffers (s.core c) :=
  buffers_updCore fun _ => buffers_setFloor _ _ _

theorem buffers_flushHeld (s : State) (take : Held → Bool) (c : CoreNo) :
    buffers ((s.flushHeld take).core c) = buffers (s.core c) :=
  foldl_keeps (fun s => buffers (State.core s c)) _ (fun s h => buffers_landHeld s h c) _ _

theorem buffers_homeWrite (s : State) (src : Nat) (kind : WKind) (ctx : W32) (pidx : Nat) (replay : Bool) (pa : Nat)
    (bs : List Byte) (c : CoreNo) : buffers ((s.homeWrite src kind ctx pidx replay pa bs).core c) = buffers (s.core c) :=
  buffers_flushHeld s _ c

/-- A store that is performed leaves the stores on their way. -/
theorem buffers_perform (s : State) (c : CoreNo) (p : PStore) (d : CoreNo) : buffers ((s.perform c p).core d) =
    if d = c then ((s.core c).stores.filter (fun x => x.id != p.id), (s.core c).lstores, (s.core c).kstores, (s.core c).port)
    else buffers (s.core d) := by
  unfold State.perform
  obtain ⟨hstores, hlstores, hkstores, hport⟩ := of_buffers
    (buffers_homeWrite s c.val .plain p.ctx p.pidx p.replay p.pa p.bytes c)
  by_cases hd : d = c
  · subst hd
    rw [if_pos rfl, State.core_updCore_same, State.core_setDev, ← hstores, ← hlstores, ← hkstores, ← hport]
    rfl
  · rw [if_neg hd, State.core_updCore_other _ _ _ _ hd]
    exact buffers_homeWrite s c.val .plain p.ctx p.pidx p.replay p.pa p.bytes d

/-- The buffers other than the stores that have reached the L1. -/
theorem performAll_keeps (s : State) (c d : CoreNo) (need : PStore → Bool) :
    ((s.performAll c need).core d).lstores = (s.core d).lstores ∧
      ((s.performAll c need).core d).kstores = (s.core d).kstores ∧
      ((s.performAll c need).core d).port = (s.core d).port := by
  have hone (u : State) (p : PStore) : (buffers ((u.perform c p).core d)).2 = (buffers (u.core d)).2 := by
    rw [buffers_perform]
    split_ifs with hd
    · rw [hd]
      rfl
    · rfl
  have hall : (buffers ((s.performAll c need).core d)).2 = (buffers (s.core d)).2 :=
    foldl_keeps (fun u => (buffers (State.core u d)).2) _ hone _ _
  simpa [buffers] using hall

/-- Performed stores are gone by their numbers. -/
theorem stores_performEach (c : CoreNo) (ps : List PStore) (s : State) :
    ∀ x ∈ ((ps.foldl (fun s p => s.perform c p) s).core c).stores, x ∈ (s.core c).stores ∧ ∀ p ∈ ps, x.id ≠ p.id := by
  induction ps generalizing s with
  | nil => exact fun x hx => ⟨hx, fun p hp => absurd hp List.not_mem_nil⟩
  | cons p ps ih =>
    intro x hx
    obtain ⟨hmem, hne⟩ := ih (s.perform c p) x hx
    have hstores : ((s.perform c p).core c).stores = (s.core c).stores.filter fun x => x.id != p.id :=
      congrArg Prod.fst ((buffers_perform s c p c).trans (if_pos rfl))
    rw [hstores, List.mem_filter, bne_iff_ne] at hmem
    exact ⟨hmem.1, List.forall_mem_cons.mpr ⟨hmem.2, hne⟩⟩

theorem mem_owedStores {need : PStore → Bool} {ps : List PStore} {p : PStore} (hp : p ∈ ps) (h : need p = true) :
    p ∈ owedStores need ps := by
  induction ps with
  | nil => cases hp
  | cons q qs ih =>
    simp only [owedStores]
    rcases List.mem_cons.mp hp with rfl | hp
    · rw [if_pos (by simp [h])]
      exact List.mem_cons_self
    · split_ifs
      · exact List.mem_cons_of_mem _ (ih hp)
      · exact ih hp

/-- None of the stores that had to be performed is left. -/
theorem stores_performAll (s : State) (c : CoreNo) (need : PStore → Bool) :
    ∀ x ∈ ((s.performAll c need).core c).stores, need x = false := by
  intro x hx
  obtain ⟨hmem, hne⟩ := stores_performEach c _ s x hx
  by_contra h
  exact hne x (mem_owedStores hmem (by simpa using h)) rfl

/-! ### Writes that the cluster units hold -/

theorem put_held (d : DevMem) (src : Nat) (kind : WKind) (pa : Nat) (bs : List Byte) :
    (d.put src kind pa bs).held = d.held := by
  refine foldl_keeps DevMem.held _ (fun d u => ?_) _ _
  unfold DevMem.unmark
  split <;> rfl

theorem homePut_held (s : State) (src : Nat) (kind : WKind) (ctx : W32) (pidx : Nat) (replay : Bool) (pa : Nat)
    (bs : List Byte) : (s.homePut src kind ctx pidx replay pa bs).dev.held = s.dev.held := by
  unfold State.homePut DevMem.foldWrite
  split
  · exact put_held s.dev src kind pa bs
  · exact put_held s.dev src kind pa bs

theorem landHeld_held (s : State) (h : Held) : (s.landHeld h).dev.held = s.dev.held.filter (· != h) :=
  congrArg (List.filter _) (homePut_held _ _ _ _ _ _ _ _)

theorem landEach_held (hs : List Held) (s : State) :
    ∀ x ∈ (hs.foldl State.landHeld s).dev.held, x ∈ s.dev.held ∧ x ∉ hs := by
  induction hs generalizing s with
  | nil => exact fun x hx => ⟨hx, List.not_mem_nil⟩
  | cons h hs ih =>
    intro x hx
    obtain ⟨hmem, hnot⟩ := ih (s.landHeld h) x hx
    rw [landHeld_held, List.mem_filter, bne_iff_ne] at hmem
    exact ⟨hmem.1, by simp [hmem.2, hnot]⟩

/-- What the units are told to let go of is gone, and nothing is held that was not. -/
theorem flushHeld_held (s : State) (take : Held → Bool) :
    ∀ x ∈ (s.flushHeld take).dev.held, x ∈ s.dev.held ∧ take x = false := by
  intro x hx
  obtain ⟨hmem, hnot⟩ := landEach_held _ s x hx
  refine ⟨hmem, ?_⟩
  by_contra h
  exact hnot (List.mem_filter.mpr ⟨hmem, by simpa using h⟩)

theorem perform_held (s : State) (c : CoreNo) (p : PStore) : ∀ x ∈ (s.perform c p).dev.held, x ∈ s.dev.held := by
  intro x hx
  have hpoison (d : DevMem) (m : CoreMem) (pa n : Nat) : (d.poisonFrom m pa n).held = d.held := by
    unfold DevMem.poisonFrom
    split <;> rfl
  have hheld : (s.perform c p).dev.held = (s.homeWrite c.val .plain p.ctx p.pidx p.replay p.pa p.bytes).dev.held :=
    hpoison _ _ _ _
  rw [hheld, State.homeWrite, homePut_held] at hx
  exact (flushHeld_held _ _ x hx).1

theorem performAll_held (s : State) (c : CoreNo) (need : PStore → Bool) :
    ∀ x ∈ (s.performAll c need).dev.held, x ∈ s.dev.held := by
  unfold State.performAll
  induction owedStores need (s.core c).stores generalizing s with
  | nil => exact fun x hx => hx
  | cons p ps ih => exact fun x hx => perform_held s c p x (ih (s.perform c p) x hx)

/-! ### Stores that an agent has settled -/

theorem splitKstores_rest (a : Agent) (take : KStore → Bool) (ps : List KStore) :
    ∀ p ∈ (splitKstores a take ps).2, p ∈ ps ∧ ¬ (p.agent = a ∧ take p = true) := by
  induction ps with
  | nil => exact fun p hp => absurd hp List.not_mem_nil
  | cons q qs ih =>
    intro p hp
    simp only [splitKstores] at hp
    split_ifs at hp with hq
    · exact ⟨List.mem_cons_of_mem _ (ih p hp).1, (ih p hp).2⟩
    · rcases List.mem_cons.mp hp with rfl | hp
      · refine ⟨List.mem_cons_self, fun ⟨ha, ht⟩ => hq ?_⟩
        simp [ha, ht]
      · exact ⟨List.mem_cons_of_mem _ (ih p hp).1, (ih p hp).2⟩

theorem splitLstores_rest (a : Agent) (take : PStore → Bool) (ps : List PStore) :
    ∀ p ∈ (splitLstores a take ps).2, p ∈ ps ∧ ¬ (p.agent = a ∧ take p = true) := by
  induction ps with
  | nil => exact fun p hp => absurd hp List.not_mem_nil
  | cons q qs ih =>
    intro p hp
    simp only [splitLstores] at hp
    split_ifs at hp with hq
    · exact ⟨List.mem_cons_of_mem _ (ih p hp).1, (ih p hp).2⟩
    · rcases List.mem_cons.mp hp with rfl | hp
      · refine ⟨List.mem_cons_self, fun ⟨ha, ht⟩ => hq ?_⟩
        simp [ha, ht]
      · exact ⟨List.mem_cons_of_mem _ (ih p hp).1, (ih p hp).2⟩

theorem landKstores_kstores (k : Core) (a : Agent) (take : KStore → Bool) :
    (k.landKstores a take).kstores = (splitKstores a take k.kstores).2 :=
  foldl_keeps Core.kstores (fun (k : Core) (p : KStore) => k.kwrite p.addr p.bytes) (fun _ _ => rfl) _ _

theorem landKstores_lstores (k : Core) (a : Agent) (take : KStore → Bool) :
    (k.landKstores a take).lstores = k.lstores :=
  foldl_keeps Core.lstores (fun (k : Core) (p : KStore) => k.kwrite p.addr p.bytes) (fun _ _ => rfl) _ _

theorem landLstores_lstores (k : Core) (a : Agent) (take : PStore → Bool) :
    (k.landLstores a take).lstores = (splitLstores a take k.lstores).2 :=
  foldl_keeps Core.lstores Core.toL1 (fun _ _ => rfl) _ _

theorem landLstores_kstores (k : Core) (a : Agent) (take : PStore → Bool) :
    (k.landLstores a take).kstores = k.kstores :=
  foldl_keeps Core.kstores Core.toL1 (fun _ _ => rfl) _ _

/-- A settled agent has no store on its way to a bank or to the L1; nobody has more than before its loads read. -/
theorem settleAgent_stores (s : State) (c : CoreNo) (a : Agent) :
    (∀ p ∈ ((s.settleAgent c a).core c).kstores, p ∈ ((s.bindLoads c a fun _ => true).core c).kstores ∧ p.agent ≠ a) ∧
      ∀ p ∈ ((s.settleAgent c a).core c).lstores, p ∈ ((s.bindLoads c a fun _ => true).core c).lstores ∧ p.agent ≠ a := by
  unfold State.settleAgent
  rw [State.core_updCore_same, landLstores_kstores, landLstores_lstores, landKstores_kstores, landKstores_lstores]
  refine ⟨fun p hp => ?_, fun p hp => ?_⟩
  · obtain ⟨hmem, hnot⟩ := splitKstores_rest _ _ _ p hp
    exact ⟨hmem, fun h => hnot ⟨h, rfl⟩⟩
  · obtain ⟨hmem, hnot⟩ := splitLstores_rest _ _ _ p hp
    exact ⟨hmem, fun h => hnot ⟨h, rfl⟩⟩

/-- A fence has every earlier store of its agent performed at its scope. -/
theorem performOwn_stores (s : State) (c : CoreNo) (a : Agent) (sc : Scope) : let u := s.performOwn c a sc
    (∀ p ∈ (u.core c).kstores, p.agent ≠ a) ∧ (∀ p ∈ (u.core c).lstores, p.agent ≠ a) ∧
    (sc ≠ .core → ∀ p ∈ (u.core c).stores, p.agent ≠ a) ∧
    (sc = .device ∨ sc = .system → ∀ h ∈ u.dev.held, ¬ (h.core = c ∧ h.agent = a)) := by
  intro u
  obtain ⟨hks, hls⟩ := settleAgent_stores s c a
  by_cases hsc : sc = .core
  · have hu : u = s.settleAgent c a := if_pos hsc
    rw [hu]
    exact ⟨fun p hp => (hks p hp).2, fun p hp => (hls p hp).2, fun h => absurd hsc h, by simp [hsc]⟩
  · set v := (s.settleAgent c a).flushHeld fun h => h.core == c && h.agent == a && sc != .cluster with hv
    have hu : u = v.performAll c fun p => p.agent == a := if_neg hsc
    obtain ⟨hlv, hkv, _⟩ := performAll_keeps v c c fun p => p.agent == a
    obtain ⟨_, hls', hks', _⟩ := of_buffers (buffers_flushHeld (s.settleAgent c a)
      (fun h => h.core == c && h.agent == a && sc != .cluster) c)
    rw [hu, hlv, hkv, hls', hks']
    refine ⟨fun p hp => (hks p hp).2, fun p hp => (hls p hp).2, fun _ p hp => ?_, fun hdev h hh => ?_⟩
    · simpa using stores_performAll v c _ p hp
    · obtain ⟨_, htake⟩ := flushHeld_held _ _ h (performAll_held v c _ h hh)
      rcases hdev with rfl | rfl <;> simpa using htake

end Sys2Proof
end

section
/-! O34: atomics, fences and the optimiser step of the lanes. -/

namespace Sys2Proof
open Machine

/-! ### Atomics (R228, R229) -/

/-- The access of an atomic, with its operand and compare values. -/
def atomAccess (op : AtomOp) (sc : Scope) (w64 : Bool) (cmp : List W32) (l : LaneIn) (dev : Bool) (addr : W64)
    (pa pidx : Nat) (s : State) : LateLoad :=
  let n := if w64 then 8 else 4
  { dev := dev, pa := pa, va := addr, n := n, sx := false,
    rmw := some { op := op, x := (wide l.b).toNat % 2 ^ (8 * n), cmp := (wide cmp).toNat % 2 ^ (8 * n), scope := sc,
                  pidx := pidx, replay := laneReplay l s, team := some l.team.op } }

/-- What an atomic gives back. -/
def atomOld (vd : RegNo) (w64 : Bool) (x : Nat) : LaneRes :=
  outLate vd (if w64 then [BitVec.ofNat 32 x, BitVec.ofNat 32 (x / 2 ^ 32)] else [BitVec.ofNat 32 x])

/-- The effect of an atomic: a release before it; an acquire after it, or, without one, the freedom of a load. -/
def atomOut (vd : RegNo) (w64 acq rel : Bool) (l : LaneIn) (sc : Scope) (x : LateLoad) (s : State) : State × LaneRes :=
  let u := if rel then s.release l.t.c l.t.agent sc else s
  let r := (u.beforeLate l.t.c l.t.agent x).readLate l.t.c l.t.agent x
  if acq then (r.2.acquire l.t.c l.t.agent sc, atomOld vd w64 r.1) else laneLoads vd l x u

theorem lateRes_atomAccess (op : AtomOp) (vd : RegNo) (sc : Scope) (w64 : Bool) (cmp : List W32) (l : LaneIn)
    (dev : Bool) (addr : W64) (pa pidx : Nat) (s : State) (v : Nat) :
    let x := atomAccess op sc w64 cmp l dev addr pa pidx s
    lateRes vd x.n (.vals (x.words v)) = atomOld vd w64 v := by
  cases w64 <;> rfl

theorem laneRmw_eq (op : AtomOp) (vd : RegNo) (sc : Scope) (w64 acq rel : Bool) (cmp : List W32) (l : LaneIn)
    (dev : Bool) (addr : W64) (pa pidx : Nat) (s : State) :
    let out := atomOut vd w64 acq rel l sc (atomAccess op sc w64 cmp l dev addr pa pidx s) s
    laneRmw vd acq rel l (atomAccess op sc w64 cmp l dev addr pa pidx s) s = .ok out.1 out.2 := by
  intro out
  cases acq with
  | false => exact laneLoad_eq _ _ _ _
  | true => exact congrArg (LaneOut.ok _) (lateRes_atomAccess op vd sc w64 cmp l dev addr pa pidx s _)

section atomic
variable {op : AtomOp} {vd : RegNo} {sc : Scope} {w64 acq rel : Bool} {cmp : List W32} {l : LaneIn} {s : State}

theorem laneAtomic_core (hcan : LaneCan .kennel l (l.a0.zeroExtend 64) (if w64 then 8 else 4) true s)
    (hpoison : (s.core l.t.c).kpoisoned (l.a0.zeroExtend 64 : W64).toNat (if w64 then 8 else 4) = false) :
    laneAtomic op vd .core w64 acq rel l.b cmp l s = laneRmw vd acq rel l
      (atomAccess op .core w64 cmp l false (l.a0.zeroExtend 64) (l.a0.zeroExtend 64 : W64).toNat 0 s) s := by
  simp only [laneAtomic, if_true, laneCheck_of_can hcan, hpoison, Bool.false_eq_true, if_false]
  rfl

theorem laneAtomic_device {p : Phys} (hsc : sc ≠ .core)
    (hcan : LaneCan .device l (l.a.getD 1 0 ++ l.a.getD 0 0) (if w64 then 8 else 4) true s)
    (hlocal : ¬ (sc = .system ∧ (l.a.getD 1 0 ++ l.a.getD 0 0 : W64).getLsbD 51 = true))
    (hat : LaneAt l (l.a.getD 1 0 ++ l.a.getD 0 0) .atomic p s)
    (hpoison : s.dev.poisoned p.pa (if w64 then 8 else 4) = false) :
    laneAtomic op vd sc w64 acq rel l.b cmp l s = laneRmw vd acq rel l
      (atomAccess op sc w64 cmp l true (l.a.getD 1 0 ++ l.a.getD 0 0) p.pa p.pidx s) s := by
  have hremote : remoteAddr sc (wide l.a) = false := by
    rw [remoteAddr, Bool.eq_false_iff, ne_eq, Bool.and_eq_true, beq_iff_eq]
    exact hlocal
  have hdev : (sc != .core) = true := by simpa using hsc
  simp only [laneAtomic, if_neg hsc, hremote, hdev, Bool.false_eq_true, if_false]
  rw [show wide l.a = l.a.getD 1 0 ++ l.a.getD 0 0 from rfl, laneCheck_of_can hcan, laneXlate_of_at hat]
  simp only [hpoison, Bool.false_eq_true, if_false]
  rfl

theorem laneAtomic_remote (hcan : LaneCan .device l (l.a.getD 1 0 ++ l.a.getD 0 0) (if w64 then 8 else 4) true s)
    (hbit : (l.a.getD 1 0 ++ l.a.getD 0 0 : W64).getLsbD 51 = true)
    (hwindow : ((s.part (ctxPart (s.core l.t.c).ctx)).window (l.a.getD 1 0 ++ l.a.getD 0 0)).v = true) :
    let addr : W64 := l.a.getD 1 0 ++ l.a.getD 0 0
    let part := ctxPart (s.core l.t.c).ctx
    let val (ws : List W32) : Nat := (wide ws).toNat % 2 ^ (8 * if w64 then 8 else 4)
    let r := (if rel then s.release l.t.c l.t.agent .system else s).sendAtomic (.laneAtomic l.t.c l.t.lane l.t.slot) part
      ((s.part part).window addr) addr op w64 acq rel (BitVec.ofNat 64 (val l.b)) (BitVec.ofNat 64 (val cmp))
    laneAtomic op vd .system w64 acq rel l.b cmp l s =
      .ok r.2 { late := some (vd, if w64 then 2 else 1, .remote r.1 acq addr (s.laneWhere l.t l.th)) } := by
  have hremote : remoteAddr .system (wide l.a) = true := by
    rw [remoteAddr, Bool.and_eq_true]
    exact ⟨rfl, hbit⟩
  have hsc : Scope.system ≠ .core := by decide
  simp only [laneAtomic, if_neg hsc, hremote, if_true]
  rw [show wide l.a = l.a.getD 1 0 ++ l.a.getD 0 0 from rfl, laneCheck_of_can hcan]
  simp only [hwindow, Bool.true_eq_false, if_false]

end atomic

/-- ATOM and ATOMCAS are one meaning, the second with compare values. -/
theorem exec_atomic {i : Instr} {op : AtomOp} {vd : RegNo} {sc : Scope} {w64 acq rel : Bool} {cmp : LaneIn → List W32}
    (h : (∃ x : LAtom, i = .atom x ∧ op = x.op ∧ vd = x.vd ∧ sc = x.scope ∧ w64 = x.w64 ∧ acq = x.acq ∧ rel = x.rel ∧
        cmp = fun _ => []) ∨
      (∃ x : LCas, i = .atomcas x ∧ op = .cas ∧ vd = x.vd ∧ sc = x.scope ∧ w64 = x.w64 ∧ acq = x.acq ∧ rel = x.rel ∧
        cmp = LaneIn.c)) (s : State) :
    exec i s = .next (laneAll i (fun l s => laneAtomic op vd sc w64 acq rel l.b (cmp l) l s) s) := by
  obtain ⟨x, rfl, rfl, rfl, rfl, rfl, rfl, rfl, rfl⟩ | ⟨x, rfl, rfl, rfl, rfl, rfl, rfl, rfl, rfl⟩ := h <;> rfl

theorem readLate_team {c : CoreNo} {a : Agent} {l : LateLoad} {r : Rmw} {op : Nat} {s : State} (hr : l.rmw = some r)
    (hteam : r.team = some op) (hdev : l.dev = true) : s.readLate c a l =
      ((deviceRmw c a r l.pa l.n s).1, (deviceRmw c a r l.pa l.n s).2.noteFold c op r.pidx) := by
  simp only [State.readLate, hr, hdev, if_true, hteam]

/-! ### Fences (R230) -/

theorem laneFenceF_ok {x : LFence} {i : LaneIn} {s : State} (h : i.th.loading = false) :
    laneFenceF x i s = .ok (fenceBy i.t.c i.t.agent x.kind x.scope (s.performOwn i.t.c i.t.agent x.scope)) {} := by
  simp only [laneFenceF, h, Bool.false_eq_true, if_false]

/-- A meaning that waits, in a ready thread. -/
theorem laneHolds_of {i : Instr} {f : LaneFn} {pre : LaneIn → State → Prop} {after : LaneIn → State → State}
    (he : ∀ s, exec i s = .next (laneAll i f s)) (hf : ∀ x s, pre x s → f x s = .hold (after x s)) : LaneHolds i pre := by
  refine ⟨laneOne i f, fun s => he s, fun t th team s h hp => ?_⟩
  have hbudget : (i.use.named.any fun r => decide (team.entry.budget ≤ r)) = false := by
    have hall := List.all_eq_true.mp h.budget
    exact List.any_eq_false.mpr fun r hr => by simpa using hall r hr
  have hcheck : (if team.entry.check then th.checkFault i else none) = none := by
    split_ifs with hck
    · exact h.checks hck
    · rfl
  have hhold := hf _ _ hp
  have hpoison := h.poison
  simp only [laneIn, Instr.sources] at hhold hpoison
  have hbody : (laneBody i f t th team s).1 = true := by
    simp only [laneBody, hpoison, Bool.false_eq_true, if_false, hhold]
  have hawait : (laneAwait i t th (laneBody i f t th team) s).1 = true := by
    simp only [laneAwait, h.waits, List.isEmpty_nil, if_true, hbody]
  cases hhead : i.laneHead with
  | none => simp [laneOne, h.hasThread, h.hasTeam, hbudget, hcheck, hhead, hawait]
  | some x => simp [laneOne, h.hasThread, h.hasTeam, hbudget, hcheck, hhead, hawait, h.guard x hhead]

/-! ### The optimiser step (R211, R212) -/

section mstep
variable {x : LMstep} {i : LaneIn} {s : State}

/-- The bytes of the four words: a gradient of 16 bits takes two. -/
def mstepSize (x : LMstep) (j : Nat) : Nat := if j = 1 ∧ x.gf ≠ 0 then 2 else 4

/-- The checks of the four words pass, and none of them is poisoned. -/
def MstepCan (x : LMstep) (i : LaneIn) (s : State) : Prop := ∀ j < 4,
  LaneCan .kennel i ((i.a.getD j 0).zeroExtend 64) (mstepSize x j) (j != 1) s ∧
    (s.core i.t.c).kpoisoned (i.a.getD j 0).toNat (mstepSize x j) = false

def mstepWord (x : LMstep) (i : LaneIn) (s : State) (j : Nat) : Nat :=
  ofBytes ((s.core i.t.c).kreadBy i.t.agent (i.a.getD j 0).toNat (mstepSize x j))

def mstepGrad (x : LMstep) (i : LaneIn) (s : State) : FVal := (gradFmt x.gf).decode (mstepWord x i s 1)

theorem toNat_zeroExtend_64 (w : W32) : (w.zeroExtend 64).toNat = w.toNat := by
  have hw := w.isLt
  rw [BitVec.toNat_setWidth, Nat.mod_eq_of_lt (by omega)]

/-- What the step does when its checks pass. -/
def mstepOut (x : LMstep) (i : LaneIn) (s : State) : State × LaneRes :=
  let g := mstepGrad x i s
  let h (j : Nat) : FVal := fp32F.decode (((s.core i.t.c).seq.c.toList.getD (x.n.toNat + j) 0).toNat % 2 ^ 32)
  let r := adamStep h (fp32F.decode (mstepWord x i s 0)) g (fp32F.decode (mstepWord x i s 2)) (fp32F.decode (mstepWord x i s 3))
  let u := (List.range 4).foldl (fun s j => s.atBank i.t.c i.t.agent (i.a.getD j 0).toNat (mstepSize x j)) s
  (((u.kwrite i.t.c (i.a.getD 0 0).toNat (leBytes 4 r.w)).kwrite i.t.c (i.a.getD 2 0).toNat (leBytes 4 r.m)).kwrite
    i.t.c (i.a.getD 3 0).toNat (leBytes 4 r.v), { preds := [(x.pd, false)], flags := r.flags })

theorem laneMstep_checked (h : MstepCan x i s) : laneMstep x i s =
    if (mstepGrad x i s).isNan || (mstepGrad x i s).isInf then .ok s { preds := [(x.pd, true)], flags := fInvalid }
    else .ok (mstepOut x i s).1 (mstepOut x i s).2 := by
  have hchecks : ((List.range 4).findSome? fun j =>
      laneCheck .kennel i ((i.a.getD j 0).zeroExtend 64) (mstepSize x j) (j != 1) s) = none :=
    List.findSome?_eq_none_iff.mpr fun j hj => laneCheck_of_can (h j (List.mem_range.mp hj)).1
  have hpoison : ((List.range 4).find? fun j =>
      (s.core i.t.c).kpoisoned (i.a.getD j 0).toNat (mstepSize x j)) = none :=
    List.find?_eq_none.mpr fun j hj => Bool.eq_false_iff.mp (h j (List.mem_range.mp hj)).2
  simp only [mstepSize] at hchecks hpoison
  simp only [laneMstep, hchecks, toNat_zeroExtend_64, hpoison, mstepOut, mstepGrad, mstepWord, mstepSize]

end mstep

/-! ### Exact sums, products, roots and quotients -/

/-- The digits of an exact sum, over any common exponent (R212). -/
theorem add_scaled {a b : Dy} {e : Int} (ha : e ≤ a.e) (hb : e ≤ b.e) : e ≤ (a.add b).e ∧
    (a.add b).n * 2 ^ ((a.add b).e - e).toNat = a.n * 2 ^ (a.e - e).toNat + b.n * 2 ^ (b.e - e).toNat := by
  unfold Dy.add
  split_ifs with hna hnb
  · exact ⟨hb, by rw [hna, zero_mul, zero_add]⟩
  · exact ⟨ha, by rw [hnb, zero_mul, add_zero]⟩
  · have hle : e ≤ min a.e b.e := le_min ha hb
    refine ⟨hle, ?_⟩
    have hpow (t : Int) (ht : min a.e b.e ≤ t) :
        (2 : Int) ^ (t - min a.e b.e).toNat * 2 ^ (min a.e b.e - e).toNat = 2 ^ (t - e).toNat := by
      rw [← pow_add]
      congr 1
      omega
    calc (a.n * 2 ^ (a.e - min a.e b.e).toNat + b.n * 2 ^ (b.e - min a.e b.e).toNat) * 2 ^ (min a.e b.e - e).toNat
        = a.n * (2 ^ (a.e - min a.e b.e).toNat * 2 ^ (min a.e b.e - e).toNat) +
          b.n * (2 ^ (b.e - min a.e b.e).toNat * 2 ^ (min a.e b.e - e).toNat) := by ring
      _ = _ := by rw [hpow _ (min_le_left _ _), hpow _ (min_le_right _ _)]

/-- A finite sum: an exact zero takes the signs of its terms, any other value its own. -/
theorem plus_fin (na nb : Bool) (ma mb : Nat) (ea eb : Int) :
    let d := (FVal.fin na ma ea).dy.add (FVal.fin nb mb eb).dy
    (FVal.fin na ma ea).plus (.fin nb mb eb) =
      if d.n = 0 then .fin (na && nb) 0 0 else .fin (decide (d.n < 0)) d.n.natAbs d.e := rfl

theorem plus_exact (na nb : Bool) (ma mb : Nat) (ea eb e : Int) (ha : e ≤ ea) (hb : e ≤ eb) :
    let a : FVal := .fin na ma ea
    let b : FVal := .fin nb mb eb
    let sum : Int := (if na then -1 else 1) * (ma * 2 ^ (ea - e).toNat : Int) +
      (if nb then -1 else 1) * (mb * 2 ^ (eb - e).toNat : Int)
    a.times b = .fin (na != nb) (ma * mb) (ea + eb) ∧
    (sum = 0 → a.plus b = .fin (na && nb) 0 0) ∧
    (sum ≠ 0 → ∃ m' e', a.plus b = .fin (decide (sum < 0)) m' e' ∧ e ≤ e' ∧ m' * 2 ^ (e' - e).toNat = sum.natAbs) := by
  intro a b sum
  obtain ⟨hle, hscaled⟩ := add_scaled (a := a.dy) (b := b.dy) ha hb
  have hsigned (n : Bool) (m : Nat) (p : Int) :
      (if n then -(m : Int) else (m : Int)) * p = (if n then -1 else 1) * (m * p) := by
    cases n <;> simp
  have hsum : (a.dy.add b.dy).n * 2 ^ ((a.dy.add b.dy).e - e).toNat = sum := by
    rw [hscaled]
    exact congrArg₂ (· + ·) (hsigned na ma _) (hsigned nb mb _)
  have hpos : (0 : Int) < 2 ^ ((a.dy.add b.dy).e - e).toNat := by positivity
  have hzero : (a.dy.add b.dy).n = 0 ↔ sum = 0 := by
    rw [← hsum, mul_eq_zero, or_iff_left hpos.ne']
  have hneg : (a.dy.add b.dy).n < 0 ↔ sum < 0 := by
    rw [← hsum, mul_neg_iff, and_iff_left hpos, or_iff_right (fun h => absurd h.2 (not_lt.mpr hpos.le))]
  refine ⟨rfl, fun h => ?_, fun h => ⟨(a.dy.add b.dy).n.natAbs, (a.dy.add b.dy).e, ?_, hle, ?_⟩⟩
  · exact (plus_fin na nb ma mb ea eb).trans (if_pos (hzero.mpr h))
  · refine (plus_fin na nb ma mb ea eb).trans ((if_neg (mt hzero.mp h)).trans ?_)
    rw [show decide ((a.dy.add b.dy).n < 0) = decide (sum < 0) from decide_eq_decide.mpr hneg]
  · rw [← hsum, Int.natAbs_mul, Int.natAbs_pow]
    rfl

theorem isqrtGo_spec (x k r : Nat) (hlo : r * r ≤ x) (hhi : x < (r + 2 ^ k) * (r + 2 ^ k)) :
    isqrtGo x k r * isqrtGo x k r ≤ x ∧ x < (isqrtGo x k r + 1) * (isqrtGo x k r + 1) := by
  induction k generalizing r with
  | zero => exact ⟨hlo, hhi⟩
  | succ k ih =>
    simp only [isqrtGo]
    split_ifs with h
    · refine ih _ h ?_
      rw [add_assoc, ← mul_two, ← pow_succ]
      exact hhi
    · exact ih _ hlo (not_le.mp h)

theorem isqrt_spec (x : Nat) : isqrt x * isqrt x ≤ x ∧ x < (isqrt x + 1) * (isqrt x + 1) := by
  refine isqrtGo_spec x _ 0 (Nat.zero_le _) ?_
  calc x < 2 ^ (Nat.log2 x + 1) := Nat.lt_log2_self
    _ ≤ 2 ^ ((Nat.log2 x / 2 + 1) + (Nat.log2 x / 2 + 1)) := Nat.pow_le_pow_right (by omega) (by omega)
    _ = (0 + 2 ^ (Nat.log2 x / 2 + 1)) * (0 + 2 ^ (Nat.log2 x / 2 + 1)) := by rw [zero_add, pow_add]

theorem sqrtPlus_exact (m n : Nat) (e g : Int) (hm : m ≠ 0) (hg : -200 ≤ g) : ∃ r : Nat,
    r * r ≤ m * 2 ^ (400 + e).toNat ∧ m * 2 ^ (400 + e).toNat < (r + 1) * (r + 1) ∧
    (0 < r + n → sqrtPlus (.fin false m e) (.fin false n g) = fp32F.finish .rn false false (r + n * 2 ^ (g + 200).toNat)
      (-200) (decide (r * r ≠ m * 2 ^ (400 + e).toNat))) := by
  set t := m * 2 ^ (400 + e).toNat with ht
  obtain ⟨hlo, hhi⟩ := isqrt_spec t
  refine ⟨isqrt t, hlo, hhi, fun hpos => ?_⟩
  set sum := (Dy.mk (isqrt t) (-200)).add (FVal.fin false n g).dy with hsum
  obtain ⟨_, hscaled⟩ := add_scaled (a := Dy.mk (isqrt t) (-200)) (b := (FVal.fin false n g).dy) (e := -200) le_rfl hg
  have hk : sum.n * 2 ^ (sum.e + 200).toNat = ((isqrt t + n * 2 ^ (g + 200).toNat : Nat) : Int) := by
    have hb : (FVal.fin false n g).dy = ⟨n, g⟩ := rfl
    rw [← hsum, hb] at hscaled
    simpa [sub_neg_eq_add] using hscaled
  have hkpos : 0 < isqrt t + n * 2 ^ (g + 200).toNat := by
    have : 0 < (2 : Nat) ^ (g + 200).toNat := by positivity
    rcases Nat.eq_zero_or_pos n with rfl | hn
    · omega
    · have := Nat.mul_pos hn this
      omega
  have hn : sum.n ≠ 0 := by
    intro h0
    rw [h0, zero_mul] at hk
    omega
  have hup : (Dy.mk 0 (-200)).add sum = sum := if_pos rfl
  have hsticky : (isqrt t * isqrt t != t) = decide (isqrt t * isqrt t ≠ t) := by
    rw [Bool.eq_iff_iff, bne_iff_ne, decide_eq_true_iff]
  simp only [sqrtPlus, if_neg hm, Bool.false_eq_true, if_false]
  rw [← ht, ← hsum, if_neg hn, hup, hk, if_pos (by exact_mod_cast hkpos), Int.toNat_natCast, hsticky]

theorem divPlus_exact (na nq np : Bool) (ma mq mp : Nat) (ea eq ep : Int) (ha : ma ≠ 0) (hq : mq ≠ 0) :
    let a : FVal := .fin na ma ea
    let q : FVal := .fin nq mq eq
    let p : FVal := .fin np mp ep
    (a.plus (p.times q)).isZero = false → divPlus a q p = fp32F.div .rn false (a.plus (p.times q)) q := by
  intro a q p hne
  have hdy : (p.times q).dy = p.dy.mul q.dy := by
    change (FVal.fin (np != nq) (mp * mq) (ep + eq)).dy = _
    cases np <;> cases nq <;> simp [FVal.dy, Dy.mul, p, q]
  have hplus : a.plus (p.times q) = if (a.dy.add (p.dy.mul q.dy)).n = 0 then .fin (na && (np != nq)) 0 0
      else .fin (decide ((a.dy.add (p.dy.mul q.dy)).n < 0)) (a.dy.add (p.dy.mul q.dy)).n.natAbs
        (a.dy.add (p.dy.mul q.dy)).e := by
    rw [← hdy]
    exact plus_fin na (np != nq) ma (mp * mq) ea (ep + eq)
  have hn : (a.dy.add (p.dy.mul q.dy)).n ≠ 0 := by
    intro h0
    rw [hplus, if_pos h0] at hne
    cases hne
  rw [hplus, if_neg hn]
  simp only [divPlus, FFmt.div, a, q, p, if_neg hq, if_neg ha, Int.natAbs_eq_zero]
  rw [if_neg hn, if_neg hn]

/-- The assignments of R212, each rounded once. -/
theorem adamStep_eq (h : Nat → FVal) (w g m v : FVal) :
    let rn (x : FVal) : FRes := cvtFloat fp32F .rn false x
    let val (r : FRes) : FVal := fp32F.decode r.bits
    let one : FVal := .fin false 1 0
    let gs := rn (g.times (h 7))
    let m' := rn (((h 1).times m).plus ((one.plus (h 1).neg).times (val gs)))
    let v' := rn (((h 2).times v).plus (((one.plus (h 2).neg).times (val gs)).times (val gs)))
    let mh := rn ((val m').times (h 5))
    let vh := rn ((val v').times (h 6))
    let q := sqrtPlus (val vh) (h 3)
    let u := divPlus (val mh) (val q) ((h 4).times w)
    let w' := rn (w.plus ((h 0).times (val u)).neg)
    adamStep h w g m v = ⟨w'.bits, m'.bits, v'.bits,
      gs.flags ||| m'.flags ||| v'.flags ||| mh.flags ||| vh.flags ||| q.flags ||| u.flags ||| w'.flags⟩ := by
  have hone : FVal.ofInt 1 = .fin false 1 0 := by decide
  simp only [adamStep, hone]
  rfl
/-- The worked example of R212. -/
theorem adamStep_example :
    adamStep (fun j => fp32F.decode ([0x3E800000, 0x3F000000, 0x3F400000, 0x35800000, 0x3F000000, 0x40000000, 0x40800000,
      0x3F000000].getD j 0)) (fp32F.decode 0x3F800000) (fp32F.decode 0x40000000) (fp32F.decode 0) (fp32F.decode 0) =
    ⟨0x3F200004, 0x3F000000, 0x3E800000, fInexact⟩ := by decide +kernel

/-- Settles O34: one lemma for an atomic at each scope, for the fence, and for the step with its exact arithmetic. -/
theorem laneAtomicsFenceStep : Obligations.LaneAtomicsFenceStep := by
  unfold Obligations.LaneAtomicsFenceStep
  refine ⟨fun i op vd sc w64 acq rel cmp h => ⟨?_, ?_, ?_⟩, fun c a l r op s => readLate_team, fun x => ?_, fun x => ?_,
    performOwn_stores, fun x => ⟨?_, ?_⟩, adamStep_eq, plus_exact, fun m n e g hm _ hg => sqrtPlus_exact m n e g hm hg,
    divPlus_exact, adamStep_example⟩
  · rintro rfl
    exact laneDoes_of (exec_atomic h) fun l s ⟨hcan, hpoison⟩ =>
      (laneAtomic_core hcan hpoison).trans (laneRmw_eq _ _ _ _ _ _ _ _ _ _ _ _ _)
  · exact fun hsc p => laneDoes_of (exec_atomic h) fun l s ⟨hcan, hlocal, hat, hpoison⟩ =>
      (laneAtomic_device hsc hcan hlocal hat hpoison).trans (laneRmw_eq _ _ _ _ _ _ _ _ _ _ _ _ _)
  · rintro rfl
    exact laneDoes_of (exec_atomic h) fun l s ⟨hcan, hbit, hwindow⟩ => laneAtomic_remote hcan hbit hwindow
  · refine laneDoes_of (f := laneFenceF x) (fun _ => rfl) fun i s hload => (laneFenceF_ok hload).trans ?_
    cases x.kind <;> rfl
  · exact laneHolds_of (f := laneFenceF x) (after := fun _ s => s) (fun _ => rfl) fun i s hload => if_pos hload
  · exact laneDoes_of (f := laneMstep x) (fun _ => rfl) fun i s ⟨hcan, hspecial⟩ =>
      (laneMstep_checked hcan).trans (if_pos (Bool.or_eq_true_iff.mpr hspecial))
  · exact laneDoes_of (f := laneMstep x) (fun _ => rfl) fun i s ⟨hcan, hnan, hinf⟩ =>
      (laneMstep_checked hcan).trans (if_neg (Bool.eq_false_iff.mp (Bool.or_eq_false_iff.mpr ⟨hnan, hinf⟩)))

end Sys2Proof
end

section
/-! The completion of a task performs every store of its core (R120 step 4): accesses that read late never make the
stores on their way more. -/

namespace Sys2Proof
open Machine

/-- No store of core `c` is on its way to a bank or to the L1 that was not so before. -/
def Ebbs (c : CoreNo) (s t : State) : Prop :=
  (t.core c).kstores ⊆ (s.core c).kstores ∧ (t.core c).lstores ⊆ (s.core c).lstores

theorem ebbs_refl (c : CoreNo) (s : State) : Ebbs c s s := ⟨List.Subset.refl _, List.Subset.refl _⟩

theorem Ebbs.trans {c : CoreNo} {s t u : State} (h : Ebbs c s t) (h' : Ebbs c t u) : Ebbs c s u :=
  ⟨List.Subset.trans h'.1 h.1, List.Subset.trans h'.2 h.2⟩

theorem ebbs_of_buffers {c : CoreNo} {s t : State} (h : buffers (t.core c) = buffers (s.core c)) : Ebbs c s t := by
  obtain ⟨_, hlstores, hkstores, _⟩ := of_buffers h
  exact ⟨by rw [hkstores]; exact List.Subset.refl _, by rw [hlstores]; exact List.Subset.refl _⟩

theorem ebbs_of_core {c : CoreNo} {s t : State} (h : t.core c = s.core c) : Ebbs c s t :=
  ebbs_of_buffers (by rw [h])

theorem ebbs_updCore {c d : CoreNo} {s : State} {f : Core → Core}
    (h : ∀ k, (f k).kstores ⊆ k.kstores ∧ (f k).lstores ⊆ k.lstores) : Ebbs c s (s.updCore d f) := by
  by_cases hcd : c = d
  · subst hcd
    rw [Ebbs, State.core_updCore_same]
    exact h _
  · exact ebbs_of_core (State.core_updCore_other s d c f hcd)

theorem ebbs_foldl {α : Type} {c : CoreNo} {f : State → α → State} (h : ∀ s x, Ebbs c s (f s x)) (xs : List α) (s : State) :
    Ebbs c s (xs.foldl f s) := by
  induction xs generalizing s with
  | nil => exact ebbs_refl c s
  | cons x xs ih => exact (h s x).trans (ih _)

theorem core_choice (s : State) (c : CoreNo) : s.choice.2.core c = s.core c := by
  unfold State.choice
  split <;> rfl

theorem ebbs_choice (s : State) (c : CoreNo) : Ebbs c s s.choice.2 := ebbs_of_core (core_choice s c)

theorem ebbs_flushHeld (s : State) (take : Held → Bool) (c : CoreNo) : Ebbs c s (s.flushHeld take) :=
  ebbs_of_buffers (buffers_flushHeld s take c)

theorem ebbs_homeWrite (s : State) (src : Nat) (kind : WKind) (ctx : W32) (pidx : Nat) (replay : Bool) (pa : Nat)
    (bs : List Byte) (c : CoreNo) : Ebbs c s (s.homeWrite src kind ctx pidx replay pa bs) :=
  ebbs_of_buffers (buffers_homeWrite s src kind ctx pidx replay pa bs c)

theorem ebbs_performAll (s : State) (d c : CoreNo) (need : PStore → Bool) : Ebbs c s (s.performAll d need) := by
  obtain ⟨hlstores, hkstores, _⟩ := performAll_keeps s d c need
  exact ⟨by rw [hkstores]; exact List.Subset.refl _, by rw [hlstores]; exact List.Subset.refl _⟩

theorem ebbs_setFloor (s : State) (d : CoreNo) (g : Core → Agent × Floor) (c : CoreNo) :
    Ebbs c s (s.updCore d fun k => k.setFloor (g k).1 (g k).2) :=
  ebbs_of_buffers (buffers_updCore fun _ => buffers_setFloor _ _ _)

theorem ebbs_devRead (s : State) (d : CoreNo) (a : Agent) (pa n : Nat) (c : CoreNo) :
    Ebbs c s (s.devRead d a pa n).2 := by
  unfold State.devRead
  exact ((ebbs_flushHeld s _ c).trans (ebbs_choice _ c)).trans (ebbs_setFloor _ d (fun k => (a, _)) c)

theorem ebbs_loadBytes (s : State) (d : CoreNo) (a : Agent) (va : W64) (pa n : Nat) (c : CoreNo) :
    Ebbs c s (s.loadBytes d a va pa n).2 := by
  have hundef (x : Ctx) (acc : List Byte × State) (b : Byte × Nat) :
      (if x.hides (va.toNat + b.2) = true then (acc.1 ++ [(acc.2.undef 8).1], (acc.2.undef 8).2)
        else (acc.1 ++ [b.1], acc.2)).2.core c = acc.2.core c := by
    split <;> rfl
  have hread := ebbs_devRead s d a pa n c
  simp only [State.loadBytes]
  split
  · exact hread
  · split
    · exact hread.trans (ebbs_of_core (foldl_keeps (fun acc : List Byte × State => acc.2.core c) _ (hundef _) _ _))
    · exact hread

theorem ebbs_drawEach {α : Type} (xs : List α) (s : State) (c : CoreNo) : Ebbs c s (drawEach xs s).2 :=
  ebbs_of_core (foldl_keeps (fun acc : List (α × Nat) × State => acc.2.core c) _ (fun acc _ => core_choice acc.2 c) _ _)

theorem ebbs_performPart (s : State) (d : CoreNo) (p : PStore) (grp : Nat) (take : Nat → Bool) (c : CoreNo) :
    Ebbs c s (s.performPart d p grp take) := by
  refine ebbs_foldl (fun s b => ?_) _ _
  have hput : Ebbs c s (s.setDev (s.dev.put d.val (.part grp) (p.pa + b.2) [b.1])) := ebbs_of_core (State.core_setDev s _ c)
  exact hput.trans (ebbs_of_buffers (buffers_updCore fun _ => rfl))

theorem ebbs_storeAround {act : State → Nat × State} {c : CoreNo} (h : ∀ s, Ebbs c s (act s).2)
    (xs : List ((CoreNo × PStore) × Nat)) (s : State) : Ebbs c s (State.storeAround act s xs).2 := by
  induction xs generalizing s with
  | nil => exact h s
  | cons x xs ih =>
    obtain ⟨⟨d, p⟩, mask⟩ := x
    set t := s.performPart d p (s.dev.stamp + 1) mask.testBit with ht
    set u := (t.storeAround act xs).2 with hu
    set v := u.flushHeld fun h => h.overlaps p.pa p.bytes.length with hv
    set w := v.performPart d p (s.dev.stamp + 1) fun i => !mask.testBit i with hw
    have hst : Ebbs c s t := ebbs_performPart s d p _ _ c
    have hvw : Ebbs c v w := ebbs_performPart v d p _ _ c
    have hfold : Ebbs c w (w.setDev (w.dev.foldWrite p.ctx p.pidx p.pa p.bytes.length p.replay)) :=
      ebbs_of_core (State.core_setDev w _ c)
    have hlast : Ebbs c (w.setDev (w.dev.foldWrite p.ctx p.pidx p.pa p.bytes.length p.replay))
        (State.storeAround act s (((d, p), mask) :: xs)).2 :=
      ebbs_updCore (d := d) (f := fun k => { k with stores := k.stores.filter fun x => x.id != p.id })
        fun k => ⟨List.Subset.refl _, List.Subset.refl _⟩
    exact hst.trans ((ih t).trans ((ebbs_flushHeld u _ c).trans (hvw.trans (hfold.trans hlast))))

theorem ebbs_deviceRmw (d : CoreNo) (a : Agent) (r : Rmw) (pa n : Nat) (s : State) (c : CoreNo) :
    Ebbs c s (deviceRmw d a r pa n s).2 := by
  unfold deviceRmw
  refine (ebbs_flushHeld s _ c).trans ((ebbs_performAll _ d c _).trans ((ebbs_drawEach _ _ c).trans
    (ebbs_storeAround (fun s => ?_) _ _)))
  dsimp only
  split_ifs
  · exact ebbs_of_core (State.core_setDev _ _ c)
  · exact (ebbs_homeWrite s _ _ _ _ _ _ _ c).trans (ebbs_setFloor _ d (fun k => (a, _)) c)

theorem buffers_bindLate (k : Core) (x : LateAt) (v : Nat) : buffers (k.bindLate x v) = buffers k := by
  unfold Core.bindLate
  cases x.agent <;> rfl

theorem buffers_landPart (k : Core) (p : KStore) (take : Nat → Bool) : buffers (k.landPart p take) = buffers k :=
  foldl_keeps buffers (fun (k : Core) (b : Byte × Nat) => k.kwrite (p.addr + b.2) [b.1]) (fun _ _ => rfl) _ _

/-- Stores that an atomic takes apart land whole, and leave the list. -/
def landWhole (ps : List (KStore × Nat)) (k : Core) : Core :=
  ps.foldl (fun (k : Core) p =>
    { k.landPart p.1 fun i => !p.2.testBit i with kstores := k.kstores.erase p.1 }) k

theorem landWhole_stores (ps : List (KStore × Nat)) (k : Core) :
    (landWhole ps k).kstores ⊆ k.kstores ∧ (landWhole ps k).lstores = k.lstores := by
  induction ps generalizing k with
  | nil => exact ⟨List.Subset.refl _, rfl⟩
  | cons p ps ih =>
    obtain ⟨hk, hl⟩ := ih { k.landPart p.1 fun i => !p.2.testBit i with kstores := k.kstores.erase p.1 }
    obtain ⟨_, hpart, _, _⟩ := of_buffers (buffers_landPart k p.1 fun i => !p.2.testBit i)
    exact ⟨List.Subset.trans hk List.erase_subset, hl.trans hpart⟩

/-- The core of an atomic at a Kennel bank: stores land in part, the word is written, they land whole, loads read. -/
theorem rmwCore_subset (ps : List (KStore × Nat)) (ls : List (LateAt × Nat)) (k : Core) (addr : Nat) (bs : List Byte)
    (val : LateAt × Nat → Nat) :
    let before := ps.foldl (fun (k : Core) p => k.landPart p.1 p.2.testBit) k
    let after := landWhole ps (before.kwrite addr bs)
    let read := ls.foldl (fun k x => k.bindLate x.1 (val x)) after
    read.kstores ⊆ k.kstores ∧ read.lstores ⊆ k.lstores := by
  intro before after read
  obtain ⟨_, hl, hk, _⟩ : _ ∧ _ ∧ _ ∧ _ := of_buffers (foldl_keeps buffers
    (fun (k : Core) (p : KStore × Nat) => k.landPart p.1 p.2.testBit) (fun k p => buffers_landPart k p.1 _) k ps)
  obtain ⟨hksub, hleq⟩ := landWhole_stores ps (before.kwrite addr bs)
  obtain ⟨_, hl', hk', _⟩ := of_buffers (foldl_keeps buffers
    (fun (k : Core) (x : LateAt × Nat) => k.bindLate x.1 (val x)) (fun k x => buffers_bindLate k x.1 _) after ls)
  refine ⟨?_, ?_⟩
  · exact (List.Subset.trans (hk' ▸ hksub : read.kstores ⊆ (before.kwrite addr bs).kstores) (hk ▸ List.Subset.refl _))
  · exact ((hl'.trans (hleq.trans hl)) ▸ List.Subset.refl _ : read.lstores ⊆ k.lstores)

theorem ebbs_setCore {s : State} {d : CoreNo} {k : Core} (h : k.kstores ⊆ (s.core d).kstores ∧ k.lstores ⊆ (s.core d).lstores)
    (c : CoreNo) : Ebbs c s (s.setCore d k) := by
  by_cases hcd : c = d
  · subst hcd
    rw [Ebbs, State.core_setCore_same]
    exact h
  · exact ebbs_of_core (State.core_setCore_other s d c k hcd)

theorem ebbs_kennelRmw (d : CoreNo) (r : Rmw) (addr n : Nat) (s : State) (c : CoreNo) :
    Ebbs c s (kennelRmw d r addr n s).2 := by
  have hps := ebbs_drawEach ((s.core d).partlyAt addr n) s c
  have hls := ebbs_drawEach ((s.core d).loadsAt addr n) (drawEach ((s.core d).partlyAt addr n) s).2 c
  exact hps.trans (hls.trans (ebbs_setCore (rmwCore_subset _ _ _ _ _ _) c))

theorem ebbs_noteFold (s : State) (d : CoreNo) (op pidx : Nat) (c : CoreNo) : Ebbs c s (s.noteFold d op pidx) := by
  unfold State.noteFold
  split_ifs
  · exact ebbs_updCore fun k => ⟨List.Subset.refl _, List.Subset.refl _⟩
  · exact ebbs_refl c s

theorem ebbs_readLate (s : State) (d : CoreNo) (a : Agent) (l : LateLoad) (c : CoreNo) :
    Ebbs c s (s.readLate d a l).2 := by
  unfold State.readLate
  cases l.rmw with
  | none =>
    dsimp only
    split_ifs
    · exact ebbs_loadBytes s d a l.va l.pa l.n c
    · exact ebbs_refl c s
  | some r =>
    dsimp only
    split_ifs
    · have hrmw := ebbs_deviceRmw d a r l.pa l.n s c
      cases r.team with
      | none => exact hrmw
      | some op => exact hrmw.trans (ebbs_noteFold _ d op r.pidx c)
    · exact ebbs_kennelRmw d r l.pa l.n s c

theorem ebbs_bindOne (s : State) (d : CoreNo) (a : Agent) (l : LateLoad) (x : LateAt) (c : CoreNo) :
    Ebbs c s ((s.readLate d a l).2.updCore d fun k => k.bindLate x (s.readLate d a l).1) :=
  (ebbs_readLate s d a l c).trans (ebbs_of_buffers (buffers_updCore fun _ => buffers_bindLate _ _ _))

theorem ebbs_bindLoads (s : State) (d : CoreNo) (a : Agent) (take : LateLoad → Bool) (c : CoreNo) :
    Ebbs c s (s.bindLoads d a take) := by
  cases a with
  | seq =>
    refine ebbs_foldl (fun s i => ?_) _ _
    unfold bindSeqLoad
    split
    · exact ebbs_refl c s
    · split
      · exact ebbs_refl c s
      · exact ebbs_bindOne s d _ _ _ c
  | thread lane slot =>
    simp only [State.bindLoads]
    split
    · refine ebbs_foldl (fun s i => ?_) _ _
      unfold bindThreadLoad
      split
      · exact ebbs_refl c s
      · split
        · split
          · exact ebbs_refl c s
          · exact ebbs_bindOne s d _ _ _ c
        · exact ebbs_refl c s
    · exact ebbs_refl c s

theorem ebbs_settleAgent (s : State) (c : CoreNo) (a : Agent) : Ebbs c s (s.settleAgent c a) := by
  obtain ⟨hks, hls⟩ := settleAgent_stores s c a
  exact (ebbs_bindLoads s c a _ c).trans ⟨fun p hp => (hks p hp).1, fun p hp => (hls p hp).1⟩

theorem buffers_performFolds (s : State) (c : CoreNo) : buffers ((s.performFolds c).core c) =
    ((s.core c).stores, (s.core c).lstores, (s.core c).kstores, []) := by
  rw [State.performFolds, State.core_updCore_same, State.core_setDev]
  rfl

/-- A release at DEVICE leaves no fold at the core's port. -/
theorem release_device (s : State) (c : CoreNo) (a : Agent) :
    Ebbs c s (s.release c a .device) ∧ ((s.release c a .device).core c).port = [] := by
  obtain ⟨v, hv⟩ : ∃ v, v = ((s.settleAgent c a).performAll c (((s.settleAgent c a).core c).hasSeen a)).flushHeld
      fun h => h.core == c && h.agent == a := ⟨_, rfl⟩
  have hsv : Ebbs c s v := by
    rw [hv]
    exact (ebbs_settleAgent s c a).trans ((ebbs_performAll _ c c _).trans (ebbs_flushHeld _ _ c))
  have hrel : s.release c a .device = (v.performFolds c).updCore c fun k =>
      { k with relCore := k.relCore.join (k.floorOf a), relOut := k.relOut.join (k.floorOf a) } := by
    rw [hv]
    rfl
  have hfolds : buffers ((s.release c a .device).core c) =
      ((v.core c).stores, (v.core c).lstores, (v.core c).kstores, []) := by
    rw [hrel, State.core_updCore_same]
    exact buffers_performFolds v c
  obtain ⟨_, hl, hk, hport⟩ : _ ∧ _ ∧ _ ∧ _ := by simpa [buffers] using hfolds
  exact ⟨hsv.trans ⟨by rw [hk]; exact List.Subset.refl _, by rw [hl]; exact List.Subset.refl _⟩, hport⟩

theorem landAll_stores (k : Core) : k.landAll.kstores = [] ∧ k.landAll.lstores = [] := by
  unfold Core.landAll
  refine ⟨?_, foldl_keeps Core.lstores Core.toL1 (fun _ _ => rfl) _ _⟩
  refine (foldl_keeps Core.kstores Core.toL1 (fun _ _ => rfl) _ _).trans ?_
  exact foldl_keeps Core.kstores (fun (k : Core) (p : KStore) => k.kwrite p.addr p.bytes) (fun _ _ => rfl) _ _

/-- The core of a completed task holds nothing back (R120 step 4). -/
theorem releaseTask_performed (s : State) (c : CoreNo) : let u := s.releaseTask c
    (u.core c).stores = [] ∧ (u.core c).kstores = [] ∧ (u.core c).lstores = [] ∧ (u.core c).port = [] ∧
    ∀ h ∈ u.dev.held, h.core ≠ c := by
  obtain ⟨x, hx⟩ : ∃ x, x = ((s.updCore c Core.landAll).release c .seq .device).flushHeld fun h => h.core == c :=
    ⟨_, rfl⟩
  have hu : s.releaseTask c = x.performAll c fun _ => true := by
    rw [hx]
    rfl
  obtain ⟨hk, hl⟩ : ((s.updCore c Core.landAll).core c).kstores = [] ∧
      ((s.updCore c Core.landAll).core c).lstores = [] := by
    rw [State.core_updCore_same]
    exact landAll_stores _
  obtain ⟨⟨hkrel, hlrel⟩, hprel⟩ := release_device (s.updCore c Core.landAll) c .seq
  rw [hk, List.subset_nil] at hkrel
  rw [hl, List.subset_nil] at hlrel
  obtain ⟨_, hlx, hkx, hpx⟩ := of_buffers (buffers_flushHeld ((s.updCore c Core.landAll).release c .seq .device)
    (fun h => h.core == c) c)
  rw [← hx] at hlx hkx hpx
  obtain ⟨hlu, hku, hpu⟩ := performAll_keeps x c c fun _ => true
  rw [hu]
  refine ⟨?_, hku.trans (hkx.trans hkrel), hlu.trans (hlx.trans hlrel), hpu.trans (hpx.trans hprel), fun h hh => ?_⟩
  · exact List.eq_nil_iff_forall_not_mem.mpr fun p hp => absurd (stores_performAll x c _ p hp) (by simp)
  · have hmem := performAll_held x c _ h hh
    rw [hx] at hmem
    obtain ⟨_, htake⟩ := flushHeld_held _ _ h hmem
    simpa using htake

end Sys2Proof
end

section
/-! O54: the Shepherd's choice, placement, the start and end of tasks, LIVE posts, and child grids. -/

namespace Sys2Proof
open Machine

/-! ### Cores by temperature (R312, R313) -/

theorem coolest_eq_none (s : State) (cs : List CoreNo) : s.coolest cs = none ↔ cs = [] := by
  cases cs with
  | nil => simp [State.coolest]
  | cons c cs =>
    simp only [State.coolest, reduceCtorEq, iff_false]
    cases s.coolest cs with
    | none => simp
    | some d =>
      dsimp only
      split_ifs <;> simp

/-- The coolest core of a list is in it, and no core of it is cooler. -/
theorem coolest_spec {s : State} {cs : List CoreNo} {c : CoreNo} (h : s.coolest cs = some c) :
    c ∈ cs ∧ ∀ d ∈ cs, (s.core c).health.temp ≤ (s.core d).health.temp := by
  induction cs generalizing c with
  | nil => cases h
  | cons a cs ih =>
    simp only [State.coolest] at h
    cases hcs : s.coolest cs with
    | none =>
      obtain rfl : cs = [] := (coolest_eq_none s cs).mp hcs
      obtain rfl : a = c := by simpa [hcs] using h
      exact ⟨List.mem_singleton.mpr rfl, by simp⟩
    | some b =>
      obtain ⟨hmem, hmin⟩ := ih hcs
      simp only [hcs] at h
      split_ifs at h with hlt
      · obtain rfl : a = c := by simpa using h
        refine ⟨List.mem_cons_self, List.forall_mem_cons.mpr ⟨le_rfl, fun d hd => ?_⟩⟩
        have := hmin d hd
        omega
      · obtain rfl : b = c := by simpa using h
        refine ⟨List.mem_cons_of_mem _ hmem, List.forall_mem_cons.mpr ⟨?_, hmin⟩⟩
        push Not at hlt
        exact hlt.1

theorem pickCore_spec (s : State) (cs : List CoreNo) (c : CoreNo) (h : s.pickCore cs = some c) :
    (s.shmode = 0 → cs.head? = some c) ∧
    (s.shmode ≠ 0 → (∃ d ∈ cs, (s.core d).health.hot = false) →
      cs.find? (fun d => !(s.core d).health.hot) = some c) ∧
    (s.shmode ≠ 0 → (∀ d ∈ cs, (s.core d).health.hot = true) →
      c ∈ cs ∧ ∀ d ∈ cs, (s.core c).health.temp ≤ (s.core d).health.temp) := by
  refine ⟨fun hmode => ?_, fun hmode ⟨d, hd, hcool⟩ => ?_, fun hmode hhot => ?_⟩
  · rwa [State.pickCore, if_pos hmode] at h
  · rw [State.pickCore, if_neg hmode] at h
    cases hfind : cs.find? fun d => !(s.core d).health.hot with
    | none => exact absurd (List.find?_eq_none.mp hfind d hd) (by simp [hcool])
    | some e => simpa [hfind] using h
  · rw [State.pickCore, if_neg hmode] at h
    have hnone : (cs.find? fun d => !(s.core d).health.hot) = none :=
      List.find?_eq_none.mpr fun d hd => by simp [hhot d hd]
    rw [hnone] at h
    exact coolest_spec h

/-- The coolest cores and the rest: as many as were asked for, and no core of the rest is cooler. -/
theorem coolestOf_spec (s : State) (n : Nat) (cs : List CoreNo) : ∃ rest, cs.Perm (s.coolestOf n cs ++ rest) ∧
    (s.coolestOf n cs).length = Nat.min n cs.length ∧
    ∀ c ∈ s.coolestOf n cs, ∀ d ∈ rest, (s.core c).health.temp ≤ (s.core d).health.temp := by
  induction n generalizing cs with
  | zero => exact ⟨cs, List.Perm.refl _, (Nat.zero_min _).symm, fun c hc => absurd hc List.not_mem_nil⟩
  | succ n ih =>
    cases hcool : s.coolest cs with
    | none =>
      obtain rfl : cs = [] := (coolest_eq_none s cs).mp hcool
      exact ⟨[], by simp [State.coolestOf, hcool], by simp [State.coolestOf, hcool], by simp⟩
    | some a =>
      obtain ⟨hmem, hmin⟩ := coolest_spec hcool
      obtain ⟨rest, hperm, hlen, hle⟩ := ih (cs.erase a)
      have hof : s.coolestOf (n + 1) cs = a :: s.coolestOf n (cs.erase a) := by simp only [State.coolestOf, hcool]
      have hperm' : cs.Perm (s.coolestOf (n + 1) cs ++ rest) := by
        rw [hof]
        exact (List.perm_cons_erase hmem).trans (hperm.cons a)
      refine ⟨rest, hperm', ?_, ?_⟩
      · have hpos : 0 < cs.length := List.length_pos_of_mem hmem
        have hmin1 : (Nat.min n (cs.length - 1)) + 1 = Nat.min (n + 1) cs.length := by
          simp only [Nat.min_def]
          split_ifs <;> omega
        rw [hof, List.length_cons, hlen, List.length_erase_of_mem hmem, hmin1]
      · rw [hof]
        refine List.forall_mem_cons.mpr ⟨fun d hd => hmin d ?_, hle⟩
        exact hperm'.mem_iff.mpr (List.mem_append_right _ hd)

theorem wholeFree_nodup (s : State) (free : List CoreNo) : (s.wholeFree free).Nodup :=
  (List.nodup_finRange 256).filter _

theorem gridCores_cool (s : State) (free : List CoreNo) (n : Nat)
    (h : s.shmode = 0 ∨ ∃ c ∈ s.wholeFree free, (s.core c).health.hot = false) :
    s.gridCores free n = s.wholeFree free := by
  refine if_neg fun ⟨hmode, hhot⟩ => ?_
  rcases h with h | ⟨c, hc, hcool⟩
  · exact hmode h
  · simpa [hcool] using List.all_eq_true.mp hhot c hc

theorem gridCores_hot (s : State) (free : List CoreNo) (n : Nat) (hmode : s.shmode ≠ 0)
    (hhot : ∀ c ∈ s.wholeFree free, (s.core c).health.hot = true) :
    (∀ c ∈ s.gridCores free n, c ∈ s.wholeFree free) ∧
    (s.gridCores free n).length = Nat.min n (s.wholeFree free).length ∧
    ∀ c ∈ s.gridCores free n, ∀ d ∈ s.wholeFree free, d ∉ s.gridCores free n →
      (s.core c).health.temp ≤ (s.core d).health.temp := by
  have hgrid : s.gridCores free n = (s.wholeFree free).filter (s.coolestOf n (s.wholeFree free)).contains :=
    if_pos ⟨hmode, List.all_eq_true.mpr hhot⟩
  obtain ⟨rest, hperm, hlen, hle⟩ := coolestOf_spec s n (s.wholeFree free)
  have hnodup : (s.coolestOf n (s.wholeFree free) ++ rest).Nodup := hperm.nodup_iff.mp (wholeFree_nodup s free)
  have hdisj := List.disjoint_of_nodup_append hnodup
  have hmem (c : CoreNo) : c ∈ s.gridCores free n ↔ c ∈ s.coolestOf n (s.wholeFree free) := by
    rw [hgrid, List.mem_filter, List.contains_iff_mem, and_iff_right_iff_imp]
    exact fun hc => hperm.mem_iff.mpr (List.mem_append_left _ hc)
  have hpermGrid : (s.gridCores free n).Perm (s.coolestOf n (s.wholeFree free)) :=
    (List.perm_ext_iff_of_nodup (hgrid ▸ (wholeFree_nodup s free).filter _) (List.Nodup.of_append_left hnodup)).mpr hmem
  refine ⟨fun c hc => ?_, hpermGrid.length_eq.trans hlen, fun c hc d hd hnot => ?_⟩
  · rw [hgrid] at hc
    exact (List.mem_filter.mp hc).1
  · refine hle c ((hmem c).mp hc) d ?_
    exact (List.mem_append.mp (hperm.mem_iff.mp hd)).resolve_left fun h => hnot ((hmem d).mpr h)

theorem savedAlone_iff (s : State) (v : Save) :
    s.savedAlone v = true ↔ v.coop = 0 ∨ ∀ w ∈ s.gridSaves v, w.kind = .swap := by
  simp only [State.savedAlone, Bool.or_eq_true, beq_iff_eq, List.all_eq_true]

/-! ### The choice (R307, R312, R316) -/

theorem exec_shepherdChoice_free (p : Fin 16) (s : State) : let r := s.reconsider p
    let free := r.freeCores p
    let u := (if free.isEmpty then r else r.latchQueues p).lapse p free
    (u.holder p = none →
      (∀ t, (u.candidates p free).findSome? (u.serve free) = some t → exec (.shepherdChoice p) s = .next t) ∧
      ((u.candidates p free).findSome? (u.serve free) = none → exec (.shepherdChoice p) s = .next u)) ∧
    ∀ q g c, u.holder p = some (q, g) → u.pickCore (free.filter (u.mayUse q)) = some c →
      exec (.shepherdChoice p) s = .next (u.hold q g c) := by
  intro r free u
  have hexec : exec (.shepherdChoice p) s =
      match (match u.holder p with
        | some (q, g) => (u.pickCore (free.filter (u.mayUse q))).map fun c => u.hold q g c
        | none => none) with
      | some t => .next t
      | none =>
        match (u.candidates p free).findSome? (u.serve free) with
        | some t => .next t
        | none => .next u := rfl
  refine ⟨fun hnone => ⟨fun t ht => ?_, fun ht => ?_⟩, fun q g c hsome hpick => ?_⟩
  · simp only [hexec, hnone, ht]
  · simp only [hexec, hnone, ht]
  · simp only [hexec, hsome, hpick, Option.map_some]

section serve
variable {s : State} {free : List CoreNo} {q : Fin 64} {c : CoreNo}

theorem serve_save {v : Save} (hpick : s.pickCore (free.filter (s.mayUse q)) = some c)
    (hv : s.saveFor q (free.filter (s.mayUse q)) = some v) :
    s.serve free q = some (s.placeSave c (free.filter (s.mayUse q)) v) := by
  simp only [State.serve, hpick, hv]

theorem serve_source (hpick : s.pickCore (free.filter (s.mayUse q)) = some c)
    (hv : s.saveFor q (free.filter (s.mayUse q)) = none) {g : Option Nat} (hg : (s.sources q).head? = some g) :
    s.serve free q = some (s.offer q g c) := by
  simp only [State.serve, hpick, hv, hg, Option.map_some]

theorem serve_node (hpick : s.pickCore (free.filter (s.mayUse q)) = some c)
    (hv : s.saveFor q (free.filter (s.mayUse q)) = none) (n : Nest) (hgrids : s.openGrids q = [])
    (hopen : s.nodeOpen q = true) (hn : s.nest q none = some n) :
    s.serve free q = some (if n.rcd.cooperative then s.hold q none c else s.placeNext q none c) := by
  have hsource : (s.sources q).head? = some none := by simp [State.sources, hgrids, hopen]
  rw [serve_source hpick hv hsource]
  simp only [State.offer, Option.bind_none, hn]

theorem serve_grid (hpick : s.pickCore (free.filter (s.mayUse q)) = some c)
    (hv : s.saveFor q (free.filter (s.mayUse q)) = none) (g : Nat) (rest : List Nat) (x : Grid)
    (hgrids : s.openGrids q = g :: rest) (hx : s.grid? g = some x) :
    let u := s.updGrid x.id fun y => { y with checked := true }
    s.serve free q = some (if x.checked = false ∧ s.imageOk x.ctx x.rcd = false then s.launchError x
      else if x.rcd.cooperative then u.hold q (some g) c else u.placeNext q (some g) c) := by
  have hsource : (s.sources q).head? = some (some g) := by simp [State.sources, hgrids]
  rw [serve_source hpick hv hsource]
  simp only [State.offer, Option.bind_some, hx, Bool.and_eq_true, Bool.not_eq_true']

end serve

/-! ### Placement (R312, R314) -/

theorem placeNext_eq (s : State) (q : Fin 64) (g : Option Nat) (c : CoreNo) (x : Nest) (h : s.nest q g = some x) :
    let task (n : Nat) (re : Bool) : Task :=
      { ctx := x.rcd.ctx, queue := q, grid := g, rcd := x.rcd, n := n, startTick := s.ticks, replay := re }
    (∀ n rest, x.again = n :: rest →
      s.placeNext q g c = (s.setNest q g { x with again := rest }).place c (task n true) .start) ∧
    (x.again = [] → x.next < x.rcd.total →
      s.placeNext q g c = (s.setNest q g { x with next := x.next + 1 }).place c (task x.next false) .start) ∧
    (x.again = [] → x.rcd.total ≤ x.next → s.placeNext q g c = s) := by
  have hticks (y : Nest) : (s.setNest q g y).ticks = s.ticks := by cases g <;> rfl
  refine ⟨fun n rest hagain => ?_, fun hagain hleft => ?_, fun hagain hdone => ?_⟩
  · simp only [State.placeNext, h, Option.bind_some, Nest.take, hagain, hticks]
  · simp only [State.placeNext, h, Option.bind_some, Nest.take, hagain, if_pos hleft, hticks]
  · simp only [State.placeNext, h, Option.bind_some, Nest.take, hagain, if_neg (not_lt.mpr hdone)]

/-- A charge changes what is left of a budget, and nothing else that placement reads. -/
theorem charge_queue (x : Queue) (n t : Nat) : (x.charge n t).st = x.st ∧ (x.charge n t).part = x.part := by
  unfold Queue.charge
  split_ifs <;> exact ⟨rfl, rfl⟩

theorem queue_updQueue_same (s : State) (q : Fin 64) (f : Queue → Queue) : (s.updQueue q f).queue q = f (s.queue q) := by
  simp [State.queue, State.updQueue]

theorem queue_updQueue_other (s : State) {p q : Fin 64} (f : Queue → Queue) (h : p ≠ q) :
    (s.updQueue q f).queue p = s.queue p := by
  have hne : q.val ≠ p.val := fun heq => h (Fin.ext heq.symm)
  simp [State.queue, State.updQueue, hne]

theorem part_updPart_same (s : State) (p : Fin 16) (f : Partition → Partition) : (s.updPart p f).part p = f (s.part p) := by
  simp [State.part, State.updPart]

/-- What placement gives a core. -/
def placed (s : State) (t : Task) (p : Placing) (k : Core) : Core :=
  { k with task := some { t with startTick := s.ticks, regs := s.ctxRegs t.ctx }, placing := some p,
           heldFor := none, given := none }

/-- What placement does to the queue of the task, its charge aside. -/
def onPlace (s : State) (t : Task) (x : Queue) : Queue :=
  { x with since := some s.ticks, starved := false, st := if t.grid.isNone && x.st == .ready then .running else x.st }

theorem place_eq (s : State) (c : CoreNo) (t : Task) (p : Placing) : s.place c t p =
    (((s.charge t.queue).updCore c (placed s t p)).updPart (s.queue t.queue).part.toFin fun x =>
      { x with cursor := c.val }).updQueue t.queue (onPlace s t) := by
  have hpart : ((s.charge t.queue).queue t.queue).part = (s.queue t.queue).part := by
    rw [State.charge, queue_updQueue_same]
    exact (charge_queue _ _ _).2
  rw [← hpart]
  rfl

theorem place_spec (s : State) (c : CoreNo) (t : Task) (p : Placing) : let u := s.place c t p
    (u.core c).task = some { t with startTick := s.ticks, regs := s.ctxRegs t.ctx } ∧ (u.core c).placing = some p ∧
    (u.core c).heldFor = none ∧ (u.core c).given = none ∧ (u.core c).mem = (s.core c).mem ∧
    (∀ d, d ≠ c → u.core d = s.core d) ∧
    (u.queue t.queue).since = some s.ticks ∧
    (u.queue t.queue).st = (if t.grid = none ∧ (s.queue t.queue).st = .ready then .running else (s.queue t.queue).st) ∧
    (∀ q, q ≠ t.queue → u.queue q = s.queue q) ∧ (u.part (s.queue t.queue).part.toFin).cursor = c.val := by
  intro u
  have hu : u = _ := place_eq s c t p
  have hcore (d : CoreNo) : u.core d = ((s.charge t.queue).updCore c (placed s t p)).core d := by
    rw [hu]
    rfl
  have hsame : u.core c = placed s t p (s.core c) := (hcore c).trans (State.core_updCore_same _ _ _)
  have hqueue : u.queue t.queue = onPlace s t ((s.charge t.queue).queue t.queue) := by
    rw [hu, queue_updQueue_same]
    rfl
  have hst : ((s.charge t.queue).queue t.queue).st = (s.queue t.queue).st := by
    rw [State.charge, queue_updQueue_same]
    exact (charge_queue _ _ _).1
  rw [hsame, hqueue]
  refine ⟨rfl, rfl, rfl, rfl, rfl, fun d hd => (hcore d).trans (State.core_updCore_other _ _ _ _ hd), rfl, ?_,
    fun q hq => ?_, ?_⟩
  · simp only [onPlace, hst, Bool.and_eq_true, Option.isNone_iff_eq_none, beq_iff_eq]
  · rw [hu, queue_updQueue_other _ _ hq]
    exact queue_updQueue_other s (fun x => x.charge (s.occupied t.queue) s.ticks) hq
  · rw [hu]
    exact congrArg Partition.cursor (part_updPart_same ((s.charge t.queue).updCore c (placed s t p))
      (s.queue t.queue).part.toFin fun x => { x with cursor := c.val })

theorem hold_eq (s : State) (q : Fin 64) (g : Option Nat) (c : CoreNo) (n : Nest) :
    let u := s.updCore c fun k => { k with heldFor := some (q, g) }
    u.nest q g = some n →
    ((u.heldCores q g).length < n.count → s.hold q g c = u) ∧
    (n.count ≤ (u.heldCores q g).length → s.hold q g c =
      (u.heldCores q g).foldl (fun s c => s.placeNext q g c) (u.setNest q g { n with again := sortBy id n.again })) := by
  intro u h
  have hhold : s.hold q g c =
      match u.nest q g with
      | none => u
      | some n =>
        if (u.heldCores q g).length < n.count then u
        else (u.heldCores q g).foldl (fun s c => s.placeNext q g c) (u.setNest q g { n with again := sortBy id n.again }) := rfl
  rw [h] at hhold
  exact ⟨fun hlt => hhold.trans (if_pos hlt), fun hle => hhold.trans (if_neg (not_lt.mpr hle))⟩

/-! ### The start and the end of a task (R314, R120) -/

/-- Nothing is let go of where nothing is held that the condition names. -/
theorem flushHeld_none {s : State} {take : Held → Bool} (h : ∀ x ∈ s.dev.held, take x = false) : s.flushHeld take = s := by
  have hnil : s.dev.held.filter take = [] := List.filter_eq_nil_iff.mpr fun x hx => by simp [h x hx]
  rw [State.flushHeld, hnil]
  rfl

theorem beginTask_mem (k : Core) (t : Task) (im : Image) (table : Vector BindEntry 256) (ticks now : Nat) :
    let m := (k.beginTask t im table ticks now).mem
    m.dirty = [] ∧ (k.lastCtx ≠ some t.ctx → m.kennel = [] ∧ m.acc = [] ∧ m.priv = [] ∧ m.holes = []) ∧
      (k.lastCtx = some t.ctx → m.kennel = k.mem.kennel) := by
  simp only [Core.beginTask, CoreMem.useOverlay, CoreMem.forContext, beq_iff_eq]
  split_ifs with h
  · exact ⟨rfl, fun hne => absurd h hne, fun _ => rfl⟩
  · exact ⟨rfl, fun _ => ⟨rfl, rfl, rfl, rfl⟩, fun heq => absurd heq h⟩

theorem exec_taskStart {c : CoreNo} {s : State} {t : Task} {im : Image} {x : Ctx} (hplacing : (s.core c).placing = some .start)
    (ht : (s.core c).task = some t) (him : s.taskImage t = some im) (hx : s.ctx? t.ctx = some x)
    (hheld : ∀ h ∈ s.dev.held, h.core.val / 4 ≠ c.val / 4) : ∃ f, exec (.taskStart c) s =
      .next (s.updCore c fun k => (k.beginTask t im x.table s.ticks s.now).setFloor .seq f) := by
  have hflush : (s.updCore c fun k => k.beginTask t im x.table s.ticks s.now).flushHeld
      (fun h => h.core.val / 4 == c.val / 4) = s.updCore c fun k => k.beginTask t im x.table s.ticks s.now :=
    flushHeld_none fun h hh => by simpa using hheld h hh
  have hexec : exec (.taskStart c) s =
      .next ((s.updCore c fun k => k.beginTask t im x.table s.ticks s.now).acquire c .seq .device) := by
    change execTaskStart c s = _
    simp only [execTaskStart, hplacing, State.startTask, ht, him, hx]
  rw [hexec, State.acquire, hflush, updCore_updCore]
  exact ⟨_, rfl⟩

theorem taskStart_spec (c : CoreNo) (s : State) (t : Task) (im : Image) (x : Ctx)
    (hplacing : (s.core c).placing = some .start)
    (ht : (s.core c).task = some t) (him : s.taskImage t = some im) (hx : s.ctx? t.ctx = some x)
    (hheld : ∀ h ∈ s.dev.held, h.core.val / 4 ≠ c.val / 4) :
    ∃ u, exec (.taskStart c) s = .next u ∧ u = s.setCore c (u.core c) ∧
      (u.core c).seq.mode = .run ∧ (u.core c).seq.pc = t.rcd.entry ∧ (u.core c).seq.code = im.tile ∧
      (u.core c).seq.iter = t.rcd.indices t.n ∧ (u.core c).seq.itern = BitVec.ofNat 64 t.n ∧
      (u.core c).seq.nodearg = t.rcd.arg ∧ (u.core c).seq.partid = t.ctx.extractLsb' 28 4 ∧
      (u.core c).seq.s = Vector.replicate 64 0 ∧ (u.core c).seq.t = Vector.replicate 64 0 ∧
      (u.core c).seq.c = Vector.ofFn (fun i => im.const.getD i.val 0) ∧ (u.core c).seq.trapen = false ∧
      (u.core c).seq.tflags = 0 ∧
      (u.core c).table = x.table ∧ (u.core c).placing = none ∧ (u.core c).lastCtx = some t.ctx ∧
      (u.core c).task = some t ∧ (u.core c).health.gated = false ∧ (u.core c).mem.dirty = [] ∧
      ((s.core c).lastCtx ≠ some t.ctx → (u.core c).mem.kennel = [] ∧ (u.core c).mem.acc = [] ∧
        (u.core c).mem.priv = [] ∧ (u.core c).mem.holes = []) ∧
      ((s.core c).lastCtx = some t.ctx → (u.core c).mem.kennel = (s.core c).mem.kennel) := by
  obtain ⟨f, hexec⟩ := exec_taskStart hplacing ht him hx hheld
  obtain ⟨hdirty, hother, hsame⟩ := beginTask_mem (s.core c) t im x.table s.ticks s.now
  refine ⟨_, hexec, ?_⟩
  rw [State.core_updCore_same]
  exact ⟨rfl, rfl, rfl, rfl, rfl, rfl, rfl, rfl, rfl, rfl, rfl, rfl, rfl, rfl, rfl, rfl, ht, rfl, hdirty, hother, hsame⟩

theorem exec_taskRetire (c : CoreNo) (s : State) (t : Task) (ht : (s.core c).task = some t)
    (hretire : (s.core c).retirable = true) :
    let u := ((s.releaseTask c).freeCore c).countDone t
    let w := u.updQueue t.queue fun q => { q with nitavg := expAverage q.nitavg (u.ticks - t.startTick) }
    ((s.core c).claim.isSome = true → exec (.taskRetire c) s = .next (w.vacate c)) ∧
    ((s.core c).claim = none → t.rcd.cooperative = true → exec (.taskRetire c) s = .next w) ∧
    ((s.core c).claim = none → t.rcd.cooperative = false →
      exec (.taskRetire c) s = .next (w.placeNext t.queue t.grid c)) := by
  intro u w
  have hexec : exec (.taskRetire c) s = if (s.core c).claim.isSome then .next (w.vacate c)
      else if t.rcd.cooperative then .next w else .next (w.placeNext t.queue t.grid c) := by
    change execTaskRetire c s = _
    simp only [execTaskRetire, ht, hretire, Bool.true_eq_false, if_false]
    rfl
  rw [hexec]
  exact ⟨fun h => if_pos h, fun h hcoop => by simp [h, hcoop], fun h hcoop => by simp [h, hcoop]⟩

/-! ### LIVE queues (R308) -/

theorem noteWaits_queue (s : State) (q : Fin 64) : let x := s.queue q
    let work := s.hasWork q (s.freeCores x.part.toFin)
    x.eff.cls = 0 → x.eff.lead ≠ 0 →
      (work = false → s.noteWaits.queue q = { x with since := none }) ∧
      (work = true → x.since.isSome = true ∨ s.livePosted q = true → s.noteWaits.queue q = x) ∧
      (work = true → x.since = none → s.livePosted q = false →
        s.noteWaits.queue q = { x with since := some s.ticks }) := by
  intro x work hcls hlead
  have hlive : (s.queues.toList.all fun x => x.eff.lead == 0 || x.eff.cls != 0) = false := by
    rw [List.all_eq_false]
    refine ⟨x, by simp [x, State.queue], ?_⟩
    simp only [Bool.or_eq_true, beq_iff_eq, bne_iff_ne]
    exact fun h => h.elim hlead fun h => h hcls
  have hqueue : s.noteWaits.queue q = if work
      then (if x.since.isSome || s.livePosted q then x else { x with since := some s.ticks })
      else { x with since := none } := by
    have hnot : ¬ (x.eff.cls ≠ 0 ∨ x.eff.lead = 0) := fun h => h.elim (fun h => h hcls) hlead
    rw [State.noteWaits, hlive, if_neg (by decide)]
    simp only [State.queue, Vector.getElem_ofFn]
    exact if_neg hnot
  rw [hqueue]
  refine ⟨fun h => by simp [h], fun h hor => ?_, fun h hsince hpost => by simp [h, hsince, hpost]⟩
  rw [if_pos h, if_pos (Bool.or_eq_true_iff.mpr hor)]

theorem exec_qleadExpiry_due (q : Fin 64) (s : State) (since : Nat) : let x := s.queue q
    let p := x.part.toFin
    x.since = some since → x.eff.cls = 0 → x.eff.lead ≠ 0 → since + x.eff.lead.toNat ≤ s.ticks →
    s.hasWork q (s.freeCores p) = true → exec (.qleadExpiry q) s =
      .next (s.livePost q 5 ((s.targets p).take (Nat.min (s.coresWanted q) (coresOf (s.part p)).length))
        (BitVec.ofNat 64 (s.ticks + x.eff.lead.toNat))) := by
  intro x p hsince hcls hlead hdue hwork
  change execQleadExpiry q s = _
  have hnot : ¬ (x.eff.cls ≠ 0 ∨ x.eff.lead = 0 ∨ s.ticks < since + x.eff.lead.toNat ∨
      s.hasWork q (s.freeCores p) = false) := by
    rintro (h | h | h | h)
    exacts [h hcls, hlead h, absurd hdue (not_le.mpr h), by simp [hwork] at h]
  simp only [execQleadExpiry, show (s.queue q).since = some since from hsince]
  exact if_neg hnot

theorem livePost_step (q : Fin 64) (n : Nat) (cs : List CoreNo) (dl : W64) (s : State) (hcs : cs ≠ []) :
    let r := s.post cs dl false (some q)
    (r.1 = 0 → State.livePost q (n + 1) cs dl s =
      r.2.updQueue q fun x => { x with since := none, starved := false }) ∧
    (r.1 = 1 → State.livePost q (n + 1) cs dl s = State.livePost q n cs r.2.rc.mindl r.2) ∧
    (r.1 = 2 → let rest := cs.filter fun c => !s.claimedCores.contains c
      State.livePost q (n + 1) cs dl s = if rest.length < cs.length then State.livePost q n rest dl r.2 else r.2) ∧
    (r.1 = 3 → let rest := s.fitSlots cs
      State.livePost q (n + 1) cs dl s = if rest = [] then r.2.starve q
        else if rest.length < cs.length then State.livePost q n rest dl r.2 else r.2) ∧
    (4 ≤ r.1 → State.livePost q (n + 1) cs dl s = r.2) := by
  intro r
  have hempty : cs.isEmpty = false := by simpa using hcs
  refine ⟨fun h => ?_, fun h => ?_, fun h => ?_, fun h => ?_, fun h => ?_⟩
  · simp only [State.livePost, hempty, Bool.false_eq_true, if_false, show (s.post cs dl false (some q)).1 = 0 from h]
    rfl
  · simp only [State.livePost, hempty, Bool.false_eq_true, if_false, show (s.post cs dl false (some q)).1 = 1 from h]
    rfl
  · simp only [State.livePost, hempty, Bool.false_eq_true, if_false, show (s.post cs dl false (some q)).1 = 2 from h]
    rfl
  · simp only [State.livePost, hempty, Bool.false_eq_true, if_false, show (s.post cs dl false (some q)).1 = 3 from h,
      List.isEmpty_iff]
    rfl
  · obtain ⟨m, hm⟩ : ∃ m, (s.post cs dl false (some q)).1 = m + 4 := Nat.exists_eq_add_of_le' h
    simp only [State.livePost, hempty, Bool.false_eq_true, if_false, hm]
    rfl

/-! ### Child grids (R187, R188, R316) -/

/-- The least of a list by number, where one stands alone. -/
theorem firstLaunch_eq {rs : List LaunchRec} {r : LaunchRec} (hr : r ∈ rs) (hmin : ∀ x ∈ rs, x ≠ r → r.no < x.no) :
    firstLaunch rs = some r := by
  have hfold (xs : List LaunchRec) (best : Option LaunchRec) (hbest : ∀ b, best = some b → b = r ∨ r.no < b.no)
      (hxs : ∀ x ∈ xs, x ≠ r → r.no < x.no) (hin : best = some r ∨ r ∈ xs) :
      xs.foldl (fun best r => match best with
        | some b => if r.no < b.no then some r else some b
        | none => some r) best = some r := by
    induction xs generalizing best with
    | nil => simpa using hin
    | cons x xs ih =>
      obtain ⟨hx, hxs'⟩ := List.forall_mem_cons.mp hxs
      rw [List.foldl_cons]
      cases best with
      | none =>
        refine ih (some x) (fun b hb => ?_) hxs' ?_
        · obtain rfl : x = b := by simpa using hb
          exact or_iff_not_imp_left.mpr hx
        · rcases hin with hin | hin
          · cases hin
          · exact (List.mem_cons.mp hin).imp (fun h => congrArg some h.symm) id
      | some b =>
        by_cases hlt : x.no < b.no
        · simp only [if_pos hlt]
          refine ih (some x) (fun b hb => ?_) hxs' ?_
          · obtain rfl : x = b := by simpa using hb
            exact or_iff_not_imp_left.mpr hx
          · rcases hin with hin | hin
            · obtain rfl : b = r := by simpa using hin
              by_cases hxr : x = b
              · exact .inl (congrArg some hxr)
              · have := hx hxr
                omega
            · exact (List.mem_cons.mp hin).imp (fun h => congrArg some h.symm) id
        · simp only [if_neg hlt]
          refine ih (some b) hbest hxs' ?_
          rcases hin with hin | hin
          · exact .inl hin
          · rcases List.mem_cons.mp hin with rfl | hin
            · rcases hbest b rfl with rfl | hlt'
              · exact .inl rfl
              · exact absurd hlt' hlt
            · exact .inr hin
  exact hfold rs none (fun b hb => by cases hb) hmin (.inr hr)

theorem exec_launchAccept (c : CoreNo) (s : State) (r : LaunchRec) (hr : r ∈ s.launches c)
    (hmin : ∀ x ∈ s.launches c, x ≠ r → r.no < x.no) :
    let accept (r : LaunchRec) (u : State) : Out := .next { u with
      grids := u.grids ++ [{ id := u.nextGrid, ctx := r.ctx, queue := r.queue, rcd := r, next := 0, again := [],
                             done := 0, checked := false }],
      nextGrid := u.nextGrid + 1 }
    let regs := match (s.core c).task with
      | some t => if t.ctx = r.ctx then t.regs else s.ctxRegs r.ctx
      | none => s.ctxRegs r.ctx
    let read := ({ s with ctxs := s.ctxs.map fun x => { x with ring := x.ring.erase (c.val, r) } } : State).throughRing
      r.ctx regs .read r
    (r ∈ (s.core c).launchQ →
      exec (.launchAccept c) s = accept r (s.updCore c fun k => { k with launchQ := k.launchQ.erase r })) ∧
    (r ∉ (s.core c).launchQ → exec (.launchAccept c) s = accept read.1 read.2) := by
  intro accept regs read
  have hfirst := firstLaunch_eq hr hmin
  refine ⟨fun hq => ?_, fun hq => ?_⟩
  · have htake : s.takeLaunch c = some (r, s.updCore c fun k => { k with launchQ := k.launchQ.erase r }) := by
      simp only [State.takeLaunch, hfirst, List.contains_iff_mem.mpr hq, if_true]
    change execLaunchAccept c s = _
    simp only [execLaunchAccept, htake]
    rfl
  · have htake : s.takeLaunch c = some read := by
      have hnot : (s.core c).launchQ.contains r = false := by simpa using hq
      simp only [State.takeLaunch, hfirst, hnot, Bool.false_eq_true, if_false] <;> rfl
    change execLaunchAccept c s = _
    simp only [execLaunchAccept, htake]
    rfl

theorem exec_childGridCompletion (g : Nat) (s : State) (x : Grid) (hx : s.grid? g = some x) (hdone : x.rcd.total ≤ x.done) :
    let u : State := { s with grids := s.grids.filter fun y => y.id != x.id }
    let r := u.joinArrive x.ctx x.rcd.join
    exec (.childGridCompletion g) s = .next (if r.1 then r.2 else r.2.machineCheck 3 (some x.ctx) 255 255 0 0) := by
  intro u r
  change execChildGridCompletion g s = _
  simp only [execChildGridCompletion, hx, if_pos hdone]
  rfl

/-- Settles O54, one lemma per step and choice. -/
theorem taskStepsComplete : Obligations.TaskStepsComplete := by
  unfold Obligations.TaskStepsComplete
  refine ⟨exec_shepherdChoice_free, fun s free q c hpick => ⟨fun v hv halone => ?_, fun v hv hgrid => ?_,
    fun hv => ⟨serve_node hpick hv, serve_grid hpick hv⟩⟩, pickCore_spec, placeNext_eq, place_spec, hold_eq,
    taskStart_spec, exec_taskRetire, releaseTask_performed, savedAlone_iff, gridCores_cool, gridCores_hot,
    noteWaits_queue, exec_qleadExpiry_due, livePost_step, exec_launchAccept, exec_childGridCompletion⟩
  · exact (serve_save hpick hv).trans (congrArg some (if_pos halone))
  · exact (serve_save hpick hv).trans (congrArg some (if_neg (by simp [hgrid])))

end Sys2Proof
end

section
/-! O28: integer division (R66), by the divisions of the bit vector library. -/

namespace Sys2Proof
open Machine

section division
variable {w : Nat} {a b : BitVec w}

theorem divU_eq (hb : b ≠ 0) : divU w a b = a / b := (if_neg hb).trans BitVec.udiv_def.symm

theorem remU_eq (hb : b ≠ 0) : remU w a b = a % b := (if_neg hb).trans BitVec.umod_def.symm

theorem divS_eq (hb : b ≠ 0) : divS w a b = a.sdiv b := by
  refine (if_neg hb).trans (BitVec.eq_of_toInt_eq ?_)
  rw [BitVec.toInt_ofInt, BitVec.toInt_sdiv]

theorem remS_eq (hb : b ≠ 0) : remS w a b = a.srem b := by
  refine (if_neg hb).trans ?_
  rw [← BitVec.toInt_srem, BitVec.ofInt_toInt]

/-- Of a zero divisor: all ones, and the dividend. -/
theorem div_zero_divisor (hb : b = 0) :
    divS w a b = BitVec.allOnes w ∧ divU w a b = BitVec.allOnes w ∧ remS w a b = a ∧ remU w a b = a :=
  ⟨if_pos hb, if_pos hb, if_pos hb, if_pos hb⟩

theorem unsigned_division (hb : b ≠ 0) :
    a.toNat = (divU w a b).toNat * b.toNat + (remU w a b).toNat ∧ (remU w a b).toNat < b.toNat := by
  have hpos : 0 < b.toNat := Nat.pos_of_ne_zero fun h => hb (BitVec.eq_of_toNat_eq h)
  rw [divU_eq hb, remU_eq hb, BitVec.toNat_udiv, BitVec.toNat_umod]
  exact ⟨(Nat.div_add_mod' a.toNat b.toNat).symm, Nat.mod_lt _ hpos⟩

/-- The quotient fits unless the most negative value is divided by -1. -/
theorem signed_division (hb : b ≠ 0) (hfits : ¬ (a = BitVec.intMin w ∧ b = BitVec.allOnes w)) :
    a.toInt = (divS w a b).toInt * b.toInt + (remS w a b).toInt := by
  have hne : a ≠ BitVec.intMin w ∨ b ≠ -1#w := by
    rw [BitVec.neg_one_eq_allOnes]
    exact not_and_or.mp hfits
  rw [divS_eq hb, remS_eq hb, BitVec.toInt_sdiv_of_ne_or_ne a b hne, BitVec.toInt_srem]
  exact (Int.tdiv_mul_add_tmod a.toInt b.toInt).symm

/-- The signed remainder is smaller than the divisor and has the sign of the dividend. -/
theorem signed_remainder (hb : b ≠ 0) : (remS w a b).toInt.natAbs < b.toInt.natAbs ∧
    (0 ≤ a.toInt → 0 ≤ (remS w a b).toInt) ∧ (a.toInt ≤ 0 → (remS w a b).toInt ≤ 0) := by
  have hb' : b.toInt ≠ 0 := fun h => hb (BitVec.eq_of_toInt_eq (h.trans BitVec.toInt_zero.symm))
  rw [remS_eq hb, BitVec.toInt_srem, Int.natAbs_tmod]
  refine ⟨Nat.mod_lt _ (Int.natAbs_pos.mpr hb'), Int.tmod_nonneg _, fun ha => ?_⟩
  have hneg := Int.tmod_nonneg (a := -a.toInt) b.toInt (by omega)
  rw [Int.neg_tmod] at hneg
  omega

/-- The one quotient that does not fit wraps to the dividend. -/
theorem division_overflow (hw : 0 < w) : divS w (BitVec.intMin w) (BitVec.allOnes w) = BitVec.intMin w ∧
    remS w (BitVec.intMin w) (BitVec.allOnes w) = 0 := by
  have hb : BitVec.allOnes w ≠ 0 := by
    rw [← BitVec.neg_one_eq_allOnes]
    exact fun h => absurd (BitVec.neg_one_eq_zero_iff.mp h) hw.ne'
  refine ⟨?_, BitVec.eq_of_toInt_eq ?_⟩
  · rw [divS_eq hb, ← BitVec.neg_one_eq_allOnes, BitVec.intMin_sdiv_neg_one]
  · rw [remS_eq hb, BitVec.toInt_srem, BitVec.toInt_allOnes, if_pos hw, Int.tmod_neg, Int.tmod_one]
    exact BitVec.toInt_zero.symm

theorem divFlag_eq (b : BitVec w) : divFlag b.toNat = if b = 0 then fDivZero else 0 := by
  have hzero : b = 0 ↔ b.toNat = 0 := by simp [← BitVec.toNat_inj]
  simp only [divFlag, flagIf, beq_iff_eq, hzero]

end division

/-- A division of the lanes: late with its flag, or under DZTRAP the fault of a zero divisor (R66). -/
theorem exec_laneDiv {x : LRI} {i : Instr} {f : W32 → W32 → W32} (h : (i = .idiv x ∧ f = divS 32) ∨
      (i = .idivu x ∧ f = divU 32) ∨ (i = .irem x ∧ f = remS 32) ∨ (i = .iremu x ∧ f = remU 32)) (s : State) :
    exec i s = .next (laneAll i (laneDiv f x) s) := by
  rcases h with ⟨rfl, rfl⟩ | ⟨rfl, rfl⟩ | ⟨rfl, rfl⟩ | ⟨rfl, rfl⟩ <;> rfl

theorem tileGivesLate_div (i : TAlu2 → Instr) (f : W64 → W64 → W64) (he : ∀ x s, exec (i x) s = divOp f x s) :
    TileGivesLate i f fun _ b => divFlag b.toNat :=
  fun x s h => (he x s).trans (alu2_ready h)

/-- Settles O28: the model divides as the bit vector library does, a zero divisor and the one overflow apart. -/
theorem integerDivision : Obligations.IntegerDivision := by
  unfold Obligations.IntegerDivision
  refine ⟨fun w hw a b => ?_, fun x i f h => ⟨?_, ?_⟩, tileGivesLate_div _ _ fun _ _ => rfl,
    tileGivesLate_div _ _ fun _ _ => rfl, tileGivesLate_div _ _ fun _ _ => rfl, tileGivesLate_div _ _ fun _ _ => rfl⟩
  · have hpos : 0 < w := by omega
    obtain ⟨hquot, hrem⟩ := division_overflow hpos
    refine ⟨div_zero_divisor, fun hb => ?_, hquot, hrem, divFlag_eq b⟩
    obtain ⟨heq, hlt⟩ := unsigned_division (a := a) hb
    exact ⟨heq, hlt, signed_division hb, signed_remainder hb⟩
  · refine laneDoes_of (f := laneDiv f x) (exec_laneDiv h) fun l s hpre => if_neg ?_
    rintro ⟨hzero, htrap⟩
    rcases hpre with hne | hoff
    · exact hne hzero
    · exact Bool.false_ne_true (hoff.symm.trans htrap)
  · exact laneFaults_of (f := laneDiv f x) (exec_laneDiv h) fun l s hpre => if_pos hpre

end Sys2Proof
end

section
/-! Rounding to a multiple of a power of two (R45), and that the result depends on the number alone: not on the
exponent that it is written with, nor on how a rest below the last bit is told. -/

namespace Sys2Proof
open Machine

variable {rm : RMode} {neg : Bool}

/-! ### Rounding to a multiple of a power of two -/

theorem up_exact (rm : RMode) (neg odd : Bool) : rm.up neg odd false false = false := by
  cases rm <;> simp [RMode.up]

/-- Nothing is lost where the multiple is fine enough. -/
theorem roundAt_of_le {m : Nat} {e q : Int} (h : q ≤ e) :
    roundAt rm neg m e false q = (m * 2 ^ (e - q).toNat, false) := by
  simp only [roundAt, if_pos h, up_exact, Bool.false_eq_true, if_false]

/-- `k + 1` bits are dropped. -/
theorem roundAt_drop (m : Nat) (e : Int) (st : Bool) (k : Nat) :
    let t := m / 2 ^ (k + 1)
    let half := m / 2 ^ k % 2 == 1
    let rest := m % 2 ^ k != 0 || st
    roundAt rm neg m e st (e + (k + 1 : Nat)) =
      (if rm.up neg (t % 2 == 1) half rest then t + 1 else t, half || rest) := by
  have hk : (e + (k + 1 : Nat) - e).toNat = k + 1 := by omega
  simp only [roundAt, if_neg (show ¬ e + ((k + 1 : Nat) : Int) ≤ e by omega), hk, Nat.add_sub_cancel]

/-- What rounding `T * 2p + F`, with `h` the bit of weight `p` in `F` and `l` the bits below it, can give. -/
theorem round_parts (rm : RMode) (neg : Bool) {T h l p : Nat} (hh : h < 2) (hl : l < p) :
    let r := if rm.up neg (T % 2 == 1) (h == 1) (l != 0) then T + 1 else T
    let F := h * p + l
    r * (2 * p) < T * (2 * p) + F + 2 * p ∧ T * (2 * p) + F < r * (2 * p) + 2 * p ∧
    (rm = .rn → 2 * (r * (2 * p)) ≤ 2 * (T * (2 * p) + F) + 2 * p ∧
      2 * (T * (2 * p) + F) ≤ 2 * (r * (2 * p)) + 2 * p ∧ (2 * F = 2 * p → r % 2 = 0)) ∧
    (rm = .rz → r * (2 * p) ≤ T * (2 * p) + F) ∧
    (rm = .ru → if neg then r * (2 * p) ≤ T * (2 * p) + F else T * (2 * p) + F ≤ r * (2 * p)) ∧
    (rm = .rd → if neg then T * (2 * p) + F ≤ r * (2 * p) else r * (2 * p) ≤ T * (2 * p) + F) := by
  have hnext : (T + 1) * (2 * p) = T * (2 * p) + 2 * p := Nat.succ_mul _ _
  have hF : h * p + l = l ∧ h = 0 ∨ h * p + l = p + l ∧ h = 1 := by
    obtain rfl | rfl : h = 0 ∨ h = 1 := by omega
    · simp
    · simp
  generalize h * p + l = G at hF
  intro r F
  simp only [r]
  cases rm with
  | rn =>
    split
    next hup =>
      simp [RMode.up] at hup
      simp [hnext]
      omega
    next hup =>
      simp [RMode.up] at hup
      simp
      omega
  | rz => simp [RMode.up]; omega
  | ru =>
    cases neg with
    | true => simp [RMode.up]; omega
    | false => split <;> simp_all [RMode.up] <;> omega
  | rd =>
    cases neg with
    | true => split <;> simp_all [RMode.up] <;> omega
    | false => simp [RMode.up]; omega

/-- R45: what is lost, and on which side of the exact value each mode stays. -/
theorem roundAt_spec (rm : RMode) (neg : Bool) (m : Nat) (e q : Int) (hle : e ≤ q) :
    let u := 2 ^ (q - e).toNat
    let r := roundAt rm neg m e false q
    r.2 = decide (m % u ≠ 0) ∧ (m % u = 0 → r.1 * u = m) ∧ r.1 * u < m + u ∧ m < r.1 * u + u ∧
    (rm = .rn → 2 * (r.1 * u) ≤ 2 * m + u ∧ 2 * m ≤ 2 * (r.1 * u) + u ∧ (2 * (m % u) = u → r.1 % 2 = 0)) ∧
    (rm = .rz → r.1 * u ≤ m) ∧ (rm = .ru → if neg then r.1 * u ≤ m else m ≤ r.1 * u) ∧
    (rm = .rd → if neg then m ≤ r.1 * u else r.1 * u ≤ m) := by
  obtain ⟨n, rfl⟩ := Int.le.dest hle
  rw [add_sub_cancel_left, Int.toNat_natCast]
  cases n with
  | zero =>
    rw [roundAt_of_le (by omega)]
    simp [Nat.mod_one]
  | succ k =>
    have hpow : 2 ^ (k + 1) = 2 * 2 ^ k := pow_succ' 2 k
    have hmod : m % 2 ^ (k + 1) = m / 2 ^ k % 2 * 2 ^ k + m % 2 ^ k := by
      rw [Nat.mod_pow_succ, add_comm, mul_comm]
    have hparts : m / 2 ^ (k + 1) * 2 ^ (k + 1) + m % 2 ^ (k + 1) = m := Nat.div_add_mod' m (2 ^ (k + 1))
    have hpos : 0 < 2 ^ k := by positivity
    have hlost : (m / 2 ^ k % 2 == 1 || (m % 2 ^ k != 0 || false)) = decide (m % 2 ^ (k + 1) ≠ 0) := by
      rw [hmod, Bool.eq_iff_iff]
      rcases Nat.mod_two_eq_zero_or_one (m / 2 ^ k) with h | h <;> simp [h]
    have hspec := round_parts rm neg (T := m / 2 ^ (k + 1)) (Nat.mod_lt (m / 2 ^ k) two_pos) (Nat.mod_lt m hpos)
    simp only [← hpow, ← hmod, hparts] at hspec
    rw [roundAt_drop]
    refine ⟨hlost, fun hzero => ?_, ?_⟩
    · obtain ⟨hhalf, hrest⟩ := Bool.or_eq_false_iff.mp (hlost.trans (decide_eq_false (not_not.mpr hzero)))
      simp only [hhalf, hrest, up_exact, Bool.false_eq_true, if_false]
      exact Nat.div_mul_cancel (Nat.dvd_of_mod_eq_zero hzero)
    · simpa using hspec

/-! ### The same number, written otherwise -/

theorem log2_two_mul_add {m c : Nat} (hm : m ≠ 0) (hc : c < 2) : Nat.log2 (2 * m + c) = Nat.log2 m + 1 := by
  rw [Nat.log2_def, if_pos (by omega)]
  congr 2
  omega

/-- One more bit below: it stands for the rest, where there is one. -/
theorem roundAt_double {m : Nat} {e q : Int} {st : Bool} (h : st = false ∨ e < q) :
    roundAt rm neg (2 * m + st.toNat) (e - 1) false q = roundAt rm neg m e st q := by
  by_cases hq : q ≤ e
  · obtain rfl : st = false := h.resolve_right (by omega)
    by_cases hq' : q ≤ e - 1
    · rw [roundAt_of_le hq, roundAt_of_le hq', show (e - q).toNat = (e - 1 - q).toNat + 1 by omega, pow_succ]
      simp [mul_comm, mul_assoc]
    · obtain rfl : q = e := by omega
      have hdrop := roundAt_drop (rm := rm) (neg := neg) (2 * m) (q - 1) false 0
      rw [show q - 1 + ((0 + 1 : Nat) : Int) = q by omega] at hdrop
      rw [roundAt_of_le le_rfl]
      simp [hdrop, up_exact, Nat.mod_one]
  · obtain ⟨k, rfl⟩ : ∃ k : Nat, q = e + (k + 1 : Nat) := ⟨(q - e - 1).toNat, by omega⟩
    have hdrop := roundAt_drop (rm := rm) (neg := neg) (2 * m + st.toNat) (e - 1) false (k + 1)
    rw [show e - 1 + ((k + 1 + 1 : Nat) : Int) = e + (k + 1 : Nat) by omega] at hdrop
    have hc : st.toNat < 2 := Bool.toNat_lt st
    have hdiv (j : Nat) : (2 * m + st.toNat) / 2 ^ (j + 1) = m / 2 ^ j := by
      rw [pow_succ', ← Nat.div_div_eq_div_mul]
      congr 1
      omega
    have hrest : ((2 * m + st.toNat) % 2 ^ (k + 1) != 0 || false) = (m % 2 ^ k != 0 || st) := by
      have hmod : (2 * m + st.toNat) % 2 ^ (k + 1) = 2 * (m % 2 ^ k) + st.toNat := by
        rw [pow_succ', Nat.mod_mul, show (2 * m + st.toNat) / 2 = m by omega]
        omega
      rw [hmod, Bool.eq_iff_iff]
      cases st <;> simp
    rw [hdrop, roundAt_drop, hdiv, hdiv, hrest]

/-- The fields of a rounding. -/
theorem round_eq (f : FFmt) (m : Nat) (e : Int) (st : Bool) :
    let free : Int := (Nat.log2 m : Int) + e - f.fbits
    let q := max free (f.emin - f.fbits)
    let r := roundAt rm neg m e st q
    let mu := (roundAt rm neg m e st free).1
    f.round rm neg m e st = ⟨r.1, q, r.2, decide ((Nat.log2 mu : Int) + free < f.emin) && mu != 0⟩ := rfl

theorem finish_double (f : FFmt) (ftz : Bool) {m : Nat} {e : Int} {st : Bool} (hm : m ≠ 0)
    (h : st = false ∨ 2 ^ (f.fbits + 1) ≤ m) :
    f.finish rm ftz neg (2 * m + st.toNat) (e - 1) false = f.finish rm ftz neg m e st := by
  have hround : f.round rm neg (2 * m + st.toNat) (e - 1) false = f.round rm neg m e st := by
    have hlog := log2_two_mul_add hm (Bool.toNat_lt st)
    have hfree : (Nat.log2 (2 * m + st.toNat) : Int) + (e - 1) - f.fbits = Nat.log2 m + e - f.fbits := by omega
    have hlt : st = false ∨ e < Nat.log2 m + e - f.fbits := h.imp_right fun hbig => by
      have := (Nat.le_log2 hm).mpr hbig
      omega
    rw [round_eq, round_eq, hfree, roundAt_double hlt, roundAt_double (hlt.imp_right fun hlt => lt_max_of_lt_left hlt)]
  simp only [FFmt.finish, hround]

theorem finish_scale (f : FFmt) (ftz : Bool) {m : Nat} (hm : m ≠ 0) (k : Nat) (e : Int) :
    f.finish rm ftz neg (m * 2 ^ k) (e - k) false = f.finish rm ftz neg m e false := by
  induction k with
  | zero => simp
  | succ k ih =>
    have h := finish_double (rm := rm) (neg := neg) f ftz (e := e - k) (st := false)
      (Nat.mul_ne_zero hm (by positivity : 2 ^ k ≠ 0)) (.inl rfl)
    rw [← ih, ← h]
    congr 1
    · rw [pow_succ]
      simp only [Bool.toNat_false]
      ring
    · push_cast
      ring

end Sys2Proof
end

section
/-! How a format writes a number (R44): a magnitude of `m * 2 ^ d` steps of the format is the bit pattern
`d * 2 ^ fbits + m`, and the order of the patterns is the order of the magnitudes. -/

namespace Sys2Proof
open Machine

/-- The exponent of the smallest step of a format, its subnormal quantum. -/
def stepExp (f : FFmt) : Int := f.emin - f.fbits

/-- `m * 2 ^ d` steps are written with a full significand, or with the smallest exponent. -/
def Canonical (f : FFmt) (m d : Nat) : Prop := m < 2 ^ (f.fbits + 1) ∧ (2 ^ f.fbits ≤ m ∨ d = 0)

/-- The bits of `m * 2 ^ d` steps. -/
def codeOf (f : FFmt) (m d : Nat) : Nat := d * 2 ^ f.fbits + m

variable {f : FFmt} {neg : Bool} {m d n c : Nat}

theorem pack_eq_codeOf (h : 2 ^ f.fbits ≤ m ∨ d = 0) : f.pack m (stepExp f + d) = codeOf f m d := by
  unfold FFmt.pack codeOf
  split_ifs with hm
  · rw [h.resolve_left (by omega), zero_mul, zero_add]
  · have hexp : (stepExp f + d + f.fbits + f.bias).toNat = d + 1 := by
      simp only [stepExp, FFmt.emin]
      omega
    rw [hexp, Nat.succ_mul]
    omega

theorem codeOf_lt_of_exp_lt (h : Canonical f m d) (h' : Canonical f n c) (hlt : d < c) :
    codeOf f m d < codeOf f n c ∧ m * 2 ^ d < n * 2 ^ c := by
  have hn : 2 ^ f.fbits ≤ n := h'.2.resolve_right (by omega)
  have hm : m < 2 * 2 ^ f.fbits := by simpa [pow_succ'] using h.1
  constructor
  · have : (d + 1) * 2 ^ f.fbits ≤ c * 2 ^ f.fbits := Nat.mul_le_mul_right _ hlt
    unfold codeOf
    rw [Nat.succ_mul] at this
    omega
  · calc m * 2 ^ d < 2 * 2 ^ f.fbits * 2 ^ d := Nat.mul_lt_mul_of_pos_right hm (by positivity)
      _ = 2 ^ f.fbits * 2 ^ (d + 1) := by rw [pow_succ]; ring
      _ ≤ n * 2 ^ c := Nat.mul_le_mul hn (Nat.pow_le_pow_right two_pos hlt)

/-- The order of the patterns is the order of the magnitudes. -/
theorem codeOf_le_iff (h : Canonical f m d) (h' : Canonical f n c) : codeOf f m d ≤ codeOf f n c ↔ m * 2 ^ d ≤ n * 2 ^ c := by
  rcases lt_trichotomy d c with hlt | rfl | hlt
  · obtain ⟨hcode, hval⟩ := codeOf_lt_of_exp_lt h h' hlt
    exact ⟨fun _ => hval.le, fun _ => hcode.le⟩
  · simp only [codeOf, Nat.add_le_add_iff_left, Nat.mul_le_mul_right_iff (Nat.two_pow_pos d)]
  · obtain ⟨hcode, hval⟩ := codeOf_lt_of_exp_lt h' h hlt
    exact ⟨fun h => absurd h (not_le.mpr hcode), fun h => absurd h (not_le.mpr hval)⟩

/-- A significand that rounding has carried up to the next power of two. -/
theorem exists_canonical (hm : m ≤ 2 ^ (f.fbits + 1)) (h : 2 ^ f.fbits ≤ m ∨ d = 0) :
    ∃ n c, Canonical f n c ∧ codeOf f n c = codeOf f m d ∧ n * 2 ^ c = m * 2 ^ d := by
  rcases hm.lt_or_eq with hlt | rfl
  · exact ⟨m, d, ⟨hlt, h⟩, rfl, rfl⟩
  · refine ⟨2 ^ f.fbits, d + 1, ⟨Nat.pow_lt_pow_right one_lt_two (Nat.lt_succ_self _), .inl le_rfl⟩, ?_, ?_⟩
    · simp only [codeOf, pow_succ]
      ring
    · simp only [pow_succ]
      ring

/-! ### Decoding -/

theorem exists_signBit_add {x : Nat} (hx : x < 2 ^ f.width) :
    ∃ neg b, b < 2 ^ (f.ebits + f.fbits) ∧ x = f.signBit neg + b := by
  have hwidth : 2 ^ f.width = 2 ^ (f.ebits + f.fbits) + 2 ^ (f.ebits + f.fbits) := by
    rw [FFmt.width, add_assoc, pow_add, pow_one, two_mul]
  by_cases h : x < 2 ^ (f.ebits + f.fbits)
  · exact ⟨false, x, h, by simp [FFmt.signBit]⟩
  · exact ⟨true, x - 2 ^ (f.ebits + f.fbits), by omega, by simp only [FFmt.signBit, if_true]; omega⟩

/-- The sign, the exponent field and the fraction. -/
theorem decode_signBit_add {b : Nat} (hb : b < 2 ^ (f.ebits + f.fbits)) :
    let frac := b % 2 ^ f.fbits
    let ex := b / 2 ^ f.fbits
    f.decode (f.signBit neg + b) =
      if f.ieee && ex == 2 ^ f.ebits - 1 then
        if frac == 0 then .inf neg else .nan (frac / 2 ^ (f.fbits - 1) == 0)
      else if !f.ieee && ex == 2 ^ f.ebits - 1 && frac == 2 ^ f.fbits - 1 then .nan false
      else if ex == 0 then .fin neg frac (stepExp f)
      else .fin neg (2 ^ f.fbits + frac) ((ex : Int) - f.bias - f.fbits) := by
  have hsign : f.signBit neg = neg.toNat * 2 ^ f.ebits * 2 ^ f.fbits := by
    cases neg <;> simp [FFmt.signBit, pow_add]
  have hex : b / 2 ^ f.fbits < 2 ^ f.ebits := Nat.div_lt_of_lt_mul (by rwa [← pow_add, add_comm])
  have hmod : (f.signBit neg + b) % 2 ^ f.fbits = b % 2 ^ f.fbits := by
    rw [hsign, Nat.mul_add_mod_self_right]
  have hdiv : (f.signBit neg + b) / 2 ^ f.fbits = neg.toNat * 2 ^ f.ebits + b / 2 ^ f.fbits := by
    rw [hsign, add_comm, Nat.add_mul_div_right _ _ (Nat.two_pow_pos _), add_comm]
  have hfield : (f.signBit neg + b) / 2 ^ f.fbits % 2 ^ f.ebits = b / 2 ^ f.fbits := by
    rw [hdiv, Nat.mul_add_mod_self_right, Nat.mod_eq_of_lt hex]
  have hneg : ((f.signBit neg + b) / 2 ^ (f.fbits + f.ebits) % 2 == 1) = neg := by
    rw [pow_add, ← Nat.div_div_eq_div_mul, hdiv, add_comm, Nat.add_mul_div_right _ _ (Nat.two_pow_pos _),
      Nat.div_eq_of_lt hex]
    cases neg <;> rfl
  simp only [FFmt.decode, hmod, hfield, hneg, stepExp]

/-- The largest finite number, from the exponent field and the fraction. -/
theorem le_maxBits_iff (hf : 1 ≤ f.ebits) {b : Nat} (hb : b < 2 ^ (f.ebits + f.fbits)) : b ≤ f.maxBits ↔
    ¬ (f.ieee = true ∧ b / 2 ^ f.fbits = 2 ^ f.ebits - 1) ∧
    ¬ (f.ieee = false ∧ b / 2 ^ f.fbits = 2 ^ f.ebits - 1 ∧ b % 2 ^ f.fbits = 2 ^ f.fbits - 1) := by
  have hE : 2 ≤ 2 ^ f.ebits := Nat.pow_le_pow_right two_pos hf
  have hF : 0 < 2 ^ f.fbits := Nat.two_pow_pos _
  have hex : b / 2 ^ f.fbits < 2 ^ f.ebits := Nat.div_lt_of_lt_mul (by rwa [← pow_add, add_comm])
  have hsplit := Nat.div_add_mod' b (2 ^ f.fbits)
  have hfrac := Nat.mod_lt b hF
  rw [pow_add] at hb
  cases hi : f.ieee with
  | true =>
    have hpos : 0 < (2 ^ f.ebits - 1) * 2 ^ f.fbits := Nat.mul_pos (by omega) hF
    have hlt := Nat.div_lt_iff_lt_mul (x := b) (y := 2 ^ f.ebits - 1) hF
    simp only [FFmt.maxBits, hi, if_true, true_and, Bool.true_eq_false, false_and, not_false_eq_true, and_true]
    omega
  | false =>
    have hlast : 2 ^ f.ebits * 2 ^ f.fbits = (2 ^ f.ebits - 1) * 2 ^ f.fbits + 2 ^ f.fbits := by
      rw [← Nat.succ_mul]
      congr 1
      omega
    have htwo : 2 * 1 ≤ 2 ^ f.ebits * 2 ^ f.fbits := Nat.mul_le_mul hE hF
    simp only [FFmt.maxBits, hi, pow_add, Bool.false_eq_true, if_false, false_and, not_false_eq_true, true_and]
    refine ⟨fun hle hmax => ?_, fun hne => ?_⟩
    · rw [hmax.1, hmax.2] at hsplit
      omega
    · by_contra hgt
      have hmaxed : b = (2 ^ f.ebits - 1) * 2 ^ f.fbits + (2 ^ f.fbits - 1) := by omega
      refine hne ⟨?_, ?_⟩
      · rw [hmaxed, add_comm, Nat.add_mul_div_right _ _ hF, Nat.div_eq_of_lt (by omega), zero_add]
      · rw [hmaxed, Nat.mul_add_mod_self_right, Nat.mod_eq_of_lt (by omega)]

theorem maxBits_lt (hf : 1 ≤ f.ebits) : f.maxBits < 2 ^ (f.ebits + f.fbits) := by
  have hE : 2 ≤ 2 ^ f.ebits := Nat.pow_le_pow_right two_pos hf
  have hF : 0 < 2 ^ f.fbits := Nat.two_pow_pos _
  have hle : (2 ^ f.ebits - 1) * 2 ^ f.fbits ≤ 2 ^ f.ebits * 2 ^ f.fbits := Nat.mul_le_mul_right _ (Nat.sub_le _ _)
  have hpos : 0 < 2 ^ f.ebits * 2 ^ f.fbits := by positivity
  unfold FFmt.maxBits
  rw [pow_add]
  split <;> omega

/-- A pattern up to the largest finite number stands for a finite number. -/
theorem decode_of_le_maxBits (hf : 1 ≤ f.ebits) {b : Nat} (hb : b ≤ f.maxBits) :
    f.decode (f.signBit neg + b) = if b / 2 ^ f.fbits = 0 then .fin neg (b % 2 ^ f.fbits) (stepExp f)
      else .fin neg (2 ^ f.fbits + b % 2 ^ f.fbits) (((b / 2 ^ f.fbits : Nat) : Int) - f.bias - f.fbits) := by
  have hlt := hb.trans_lt (maxBits_lt hf)
  obtain ⟨hieee, hother⟩ := (le_maxBits_iff hf hlt).mp hb
  rw [decode_signBit_add hlt]
  simp only [Bool.and_eq_true, beq_iff_eq, Bool.not_eq_true', and_assoc, if_neg hieee, if_neg hother]

theorem codeOf_fields (h : Canonical f m d) :
    if m < 2 ^ f.fbits then codeOf f m d / 2 ^ f.fbits = 0 ∧ codeOf f m d % 2 ^ f.fbits = m
    else codeOf f m d / 2 ^ f.fbits = d + 1 ∧ codeOf f m d % 2 ^ f.fbits = m - 2 ^ f.fbits := by
  obtain ⟨hm, hd⟩ := h
  rw [pow_succ'] at hm
  split_ifs with hlt
  · obtain rfl : d = 0 := hd.resolve_left (by omega)
    simp only [codeOf, zero_mul, zero_add]
    exact ⟨Nat.div_eq_of_lt hlt, Nat.mod_eq_of_lt hlt⟩
  · have hcode : codeOf f m d = (m - 2 ^ f.fbits) + (d + 1) * 2 ^ f.fbits := by
      rw [codeOf, Nat.succ_mul]
      omega
    rw [hcode, Nat.add_mul_div_right _ _ (Nat.two_pow_pos _), Nat.add_mul_mod_self_right, Nat.div_eq_of_lt (by omega),
      Nat.mod_eq_of_lt (by omega)]
    exact ⟨zero_add _, rfl⟩

theorem decode_codeOf (hf : 1 ≤ f.ebits) (h : Canonical f m d) (hmax : codeOf f m d ≤ f.maxBits) :
    f.decode (f.signBit neg + codeOf f m d) = .fin neg m (stepExp f + d) := by
  have hfields := codeOf_fields h
  rw [decode_of_le_maxBits hf hmax]
  split_ifs at hfields with hlt
  · rw [if_pos hfields.1, hfields.2, h.2.resolve_left (by omega)]
    simp
  · rw [if_neg (by omega), hfields.1, hfields.2, Nat.add_sub_cancel' (not_lt.mp hlt)]
    simp only [stepExp, FFmt.emin, FVal.fin.injEq, true_and]
    push_cast
    ring

/-- The pattern of a finite number is that of its magnitude. -/
theorem codeOf_of_decode (hf : 1 ≤ f.ebits) {x : Nat} (hx : x < 2 ^ f.width) {e : Int} (h : f.decode x = .fin neg m e) :
    ∃ d : Nat, e = stepExp f + d ∧ Canonical f m d ∧ codeOf f m d ≤ f.maxBits ∧ x = f.signBit neg + codeOf f m d := by
  obtain ⟨neg', b, hb, rfl⟩ := exists_signBit_add hx
  have hmax : b ≤ f.maxBits := by
    rw [le_maxBits_iff hf hb]
    rw [decode_signBit_add hb] at h
    refine ⟨fun hspecial => ?_, fun hspecial => ?_⟩
    · rw [if_pos (by simpa using hspecial)] at h
      split at h <;> cases h
    · rw [if_neg (by simp [hspecial.1]), if_pos (by simpa [and_assoc] using hspecial)] at h
      cases h
  have hsplit := Nat.div_add_mod' b (2 ^ f.fbits)
  have hfrac := Nat.mod_lt b (Nat.two_pow_pos f.fbits)
  rw [decode_of_le_maxBits hf hmax] at h
  split_ifs at h with hex
  · cases h
    rw [hex, zero_mul, zero_add] at hsplit
    refine ⟨0, by simp, ⟨by rw [pow_succ']; omega, .inr rfl⟩, ?_, ?_⟩ <;> simp [codeOf, hsplit, hmax]
  · cases h
    have hcode : codeOf f (2 ^ f.fbits + b % 2 ^ f.fbits) (b / 2 ^ f.fbits - 1) = b := by
      rw [codeOf, Nat.sub_mul, one_mul]
      have : 2 ^ f.fbits ≤ b / 2 ^ f.fbits * 2 ^ f.fbits := Nat.le_mul_of_pos_left _ (Nat.pos_of_ne_zero hex)
      omega
    refine ⟨b / 2 ^ f.fbits - 1, ?_, ⟨by rw [pow_succ']; omega, .inl (Nat.le_add_right _ _)⟩, by rwa [hcode], by rw [hcode]⟩
    rw [Nat.cast_sub (Nat.pos_of_ne_zero hex)]
    simp only [stepExp, FFmt.emin]
    push_cast
    ring

/-! ### Infinity -/

theorem infBits_fields (hi : f.ieee = true) : f.infBits < 2 ^ (f.ebits + f.fbits) ∧
    f.infBits / 2 ^ f.fbits = 2 ^ f.ebits - 1 ∧ f.infBits % 2 ^ f.fbits = 0 := by
  have hF : 0 < 2 ^ f.fbits := Nat.two_pow_pos _
  have hE : 0 < 2 ^ f.ebits := Nat.two_pow_pos _
  simp only [FFmt.infBits, hi, if_true]
  refine ⟨?_, Nat.mul_div_cancel _ hF, Nat.mul_mod_left _ _⟩
  rw [pow_add]
  exact Nat.mul_lt_mul_of_pos_right (by omega) hF

theorem decode_infBits (hi : f.ieee = true) : f.decode (f.signBit neg + f.infBits) = .inf neg := by
  obtain ⟨hlt, hex, hfrac⟩ := infBits_fields hi
  rw [decode_signBit_add hlt]
  simp [hi, hex, hfrac]

theorem infBits_of_decode {x : Nat} (hx : x < 2 ^ f.width) (h : f.decode x = .inf neg) :
    x = f.signBit neg + f.infBits := by
  obtain ⟨neg', b, hb, rfl⟩ := exists_signBit_add hx
  rw [decode_signBit_add hb] at h
  have hsplit := Nat.div_add_mod' b (2 ^ f.fbits)
  split_ifs at h with hspecial hfrac
  cases h
  simp only [Bool.and_eq_true, beq_iff_eq] at hspecial hfrac
  rw [hspecial.2, hfrac, add_zero] at hsplit
  simp only [FFmt.infBits, hspecial.1, if_true, hsplit]

end Sys2Proof
end

section
/-! Writing a number into a format (R45, R46, R53): `FFmt.finish` through the number that rounding gives. -/

namespace Sys2Proof
open Machine

variable {f : FFmt} {rm : RMode} {neg ftz : Bool} {m big : Nat} {e q : Int}

/-! ### The number that rounding gives -/

theorem roundAt_le_of_free (hq : (Nat.log2 m : Int) + e - f.fbits ≤ q) :
    (roundAt rm neg m e false q).1 ≤ 2 ^ (f.fbits + 1) := by
  have hm : m < 2 ^ (Nat.log2 m + 1) := Nat.lt_log2_self
  rcases le_total q e with hle | hle
  · rw [roundAt_of_le hle]
    calc m * 2 ^ (e - q).toNat ≤ 2 ^ (Nat.log2 m + 1) * 2 ^ (e - q).toNat := Nat.mul_le_mul_right _ hm.le
      _ = 2 ^ (Nat.log2 m + 1 + (e - q).toNat) := (pow_add _ _ _).symm
      _ ≤ 2 ^ (f.fbits + 1) := Nat.pow_le_pow_right two_pos (by omega)
  · obtain ⟨-, -, hlt, -⟩ := roundAt_spec rm neg m e q hle
    have hbound : m < 2 ^ (f.fbits + 1) * 2 ^ (q - e).toNat :=
      calc m < 2 ^ (Nat.log2 m + 1) := hm
        _ ≤ 2 ^ (f.fbits + 1 + (q - e).toNat) := Nat.pow_le_pow_right two_pos (by omega)
        _ = _ := pow_add _ _ _
    refine Nat.lt_succ_iff.mp (Nat.lt_of_mul_lt_mul_right (a := 2 ^ (q - e).toNat) ?_)
    rw [Nat.succ_mul]
    omega

theorem le_roundAt_of_free (hm : m ≠ 0) (hq : q ≤ (Nat.log2 m : Int) + e - f.fbits) :
    2 ^ f.fbits ≤ (roundAt rm neg m e false q).1 := by
  have hlog : 2 ^ Nat.log2 m ≤ m := Nat.log2_self_le hm
  rcases le_total q e with hle | hle
  · rw [roundAt_of_le hle]
    calc 2 ^ f.fbits ≤ 2 ^ (Nat.log2 m + (e - q).toNat) := Nat.pow_le_pow_right two_pos (by omega)
      _ = 2 ^ Nat.log2 m * 2 ^ (e - q).toNat := pow_add _ _ _
      _ ≤ m * 2 ^ (e - q).toNat := Nat.mul_le_mul_right _ hlog
  · obtain ⟨-, -, -, hlt, -⟩ := roundAt_spec rm neg m e q hle
    have hbound : 2 ^ f.fbits * 2 ^ (q - e).toNat ≤ m :=
      calc 2 ^ f.fbits * 2 ^ (q - e).toNat = 2 ^ (f.fbits + (q - e).toNat) := (pow_add _ _ _).symm
        _ ≤ 2 ^ Nat.log2 m := Nat.pow_le_pow_right two_pos (by omega)
        _ ≤ m := hlog
    refine Nat.lt_succ_iff.mp (Nat.lt_of_mul_lt_mul_right (a := 2 ^ (q - e).toNat) ?_)
    rw [Nat.succ_mul]
    omega

/-- The exponent that a number is rounded at: the format's precision, but not below its step. -/
def roundExp (f : FFmt) (m : Nat) (e : Int) : Int := max ((Nat.log2 m : Int) + e - f.fbits) (f.emin - f.fbits)

/-- The rounded significand. -/
def roundSig (f : FFmt) (rm : RMode) (neg : Bool) (m : Nat) (e : Int) : Nat :=
  (roundAt rm neg m e false (roundExp f m e)).1

/-- The exponent of the rounded number, in steps of the format. -/
def roundDist (f : FFmt) (m : Nat) (e : Int) : Nat := (roundExp f m e - (f.emin - f.fbits)).toNat

theorem roundExp_eq (f : FFmt) (m : Nat) (e : Int) : roundExp f m e = stepExp f + roundDist f m e := by
  have : stepExp f ≤ roundExp f m e := le_max_right _ _
  simp only [stepExp, roundDist] at *
  omega

/-- The rounded number is one that the format writes, or the power of two above. -/
theorem roundSig_code (hm : m ≠ 0) : roundSig f rm neg m e ≤ 2 ^ (f.fbits + 1) ∧
    (2 ^ f.fbits ≤ roundSig f rm neg m e ∨ roundDist f m e = 0) := by
  refine ⟨roundAt_le_of_free (le_max_left _ _), ?_⟩
  rcases le_total (f.emin - f.fbits) ((Nat.log2 m : Int) + e - f.fbits) with h | h
  · exact .inl (le_roundAt_of_free hm (max_eq_left h).le)
  · exact .inr (by simp [roundDist, roundExp, h])

/-! ### The bits and flags -/

/-- The largest finite magnitude of a format, in steps. -/
structure Largest (f : FFmt) (big : Nat) : Prop where
  ebits : 1 ≤ f.ebits
  code : ∃ m d, Canonical f m d ∧ codeOf f m d = f.maxBits ∧ m * 2 ^ d = big

theorem largest_fp32 : Largest fp32F ((2 ^ 24 - 1) * 2 ^ 253) :=
  ⟨by decide, 2 ^ 24 - 1, 253, ⟨by decide, .inl (by decide)⟩, by decide, rfl⟩

theorem largest_bf16 : Largest bf16F ((2 ^ 8 - 1) * 2 ^ 253) :=
  ⟨by decide, 2 ^ 8 - 1, 253, ⟨by decide, .inl (by decide)⟩, by decide, rfl⟩

theorem largest_fp16 : Largest fp16F ((2 ^ 11 - 1) * 2 ^ 29) :=
  ⟨by decide, 2 ^ 11 - 1, 29, ⟨by decide, .inl (by decide)⟩, by decide, rfl⟩

theorem largest_e5m2 : Largest e5m2F (7 * 2 ^ 29) :=
  ⟨by decide, 7, 29, ⟨by decide, .inl (by decide)⟩, by decide, rfl⟩

theorem largest_e4m3 : Largest e4m3F (448 * 2 ^ 9) :=
  ⟨by decide, 14, 14, ⟨by decide, .inl (by decide)⟩, by decide, rfl⟩

theorem exists_largest (h : f ∈ [fp32F, bf16F, fp16F, e5m2F, e4m3F]) : ∃ big, Largest f big := by
  simp only [List.mem_cons, List.not_mem_nil, or_false] at h
  rcases h with rfl | rfl | rfl | rfl | rfl
  exacts [⟨_, largest_fp32⟩, ⟨_, largest_bf16⟩, ⟨_, largest_fp16⟩, ⟨_, largest_e5m2⟩, ⟨_, largest_e4m3⟩]

/-- The formats with an infinity. -/
theorem largest_ieee (h : (f, big) ∈ [(fp32F, (2 ^ 24 - 1) * 2 ^ 253), (bf16F, (2 ^ 8 - 1) * 2 ^ 253),
    (fp16F, (2 ^ 11 - 1) * 2 ^ 29), (e5m2F, 7 * 2 ^ 29)]) : Largest f big ∧ f.ieee = true := by
  simp only [List.mem_cons, List.not_mem_nil, or_false, Prod.mk.injEq] at h
  rcases h with ⟨rfl, rfl⟩ | ⟨rfl, rfl⟩ | ⟨rfl, rfl⟩ | ⟨rfl, rfl⟩
  exacts [⟨largest_fp32, rfl⟩, ⟨largest_bf16, rfl⟩, ⟨largest_fp16, rfl⟩, ⟨largest_e5m2, rfl⟩]

theorem pack_round (hm : m ≠ 0) :
    f.pack (roundSig f rm neg m e) (roundExp f m e) = codeOf f (roundSig f rm neg m e) (roundDist f m e) := by
  rw [roundExp_eq, pack_eq_codeOf (roundSig_code hm).2]

theorem code_le_maxBits_iff (h : Largest f big) (hm : m ≠ 0) :
    codeOf f (roundSig f rm neg m e) (roundDist f m e) ≤ f.maxBits ↔
      roundSig f rm neg m e * 2 ^ roundDist f m e ≤ big := by
  obtain ⟨n, c, hcanon, hcode, rfl⟩ := h.code
  obtain ⟨hle, hfull⟩ := roundSig_code (f := f) (rm := rm) (neg := neg) (e := e) hm
  obtain ⟨n', c', hcanon', hcode', hval⟩ := exists_canonical hle hfull
  rw [← hcode, ← hcode', ← hval, codeOf_le_iff hcanon' hcanon]

theorem beyond_iff (h : Largest f big) (hm : m ≠ 0) :
    f.beyond (f.round rm neg m e false) = true ↔ big < roundSig f rm neg m e * 2 ^ roundDist f m e := by
  have hbeyond : f.beyond (f.round rm neg m e false) = (roundSig f rm neg m e != 0 &&
      f.maxBits < f.pack (roundSig f rm neg m e) (roundExp f m e)) := rfl
  rw [hbeyond, pack_round hm, Bool.and_eq_true, bne_iff_ne, decide_eq_true_iff, ← not_le, code_le_maxBits_iff h hm, not_le]
  refine and_iff_right_of_imp fun hlt h0 => ?_
  rw [h0, zero_mul] at hlt
  exact Nat.not_lt_zero _ hlt

/-- Whether a number is below the smallest normal one after rounding with unbounded exponents (R53). -/
def tinyAfter (f : FFmt) (rm : RMode) (neg : Bool) (m : Nat) (e : Int) : Bool :=
  let free : Int := (Nat.log2 m : Int) + e - f.fbits
  decide ((Nat.log2 (roundAt rm neg m e false free).1 : Int) + free < f.emin)

/-- The flags of a number that fits. -/
def roundFlags (f : FFmt) (rm : RMode) (neg : Bool) (m : Nat) (e : Int) : Flags6 :=
  let lost := (roundAt rm neg m e false (roundExp f m e)).2
  (if lost then fInexact else 0) ||| (if lost = true ∧ tinyAfter f rm neg m e = true then fUnderflow else 0)

/-- A number beyond the largest finite one. -/
def overflowRes (f : FFmt) (rm : RMode) (neg : Bool) : FRes :=
  ⟨f.signBit neg + (if rm = .rn ∨ (rm = .ru ∧ neg = false) ∨ (rm = .rd ∧ neg = true) then f.infBits else f.maxBits),
    fOverflow ||| fInexact⟩

theorem round_flags (hm : m ≠ 0) : let r := f.round rm neg m e false
    flagIf r.inexact fInexact ||| flagIf (r.tiny && r.inexact) fUnderflow = roundFlags f rm neg m e := by
  have hmu : (roundAt rm neg m e false ((Nat.log2 m : Int) + e - f.fbits)).1 ≠ 0 := by
    have := le_roundAt_of_free (f := f) (rm := rm) (neg := neg) (e := e) hm le_rfl
    have := Nat.two_pow_pos f.fbits
    omega
  have htiny : (f.round rm neg m e false).tiny = tinyAfter f rm neg m e := by
    rw [round_eq, tinyAfter, bne_iff_ne.mpr hmu, Bool.and_true]
  have hlost : (f.round rm neg m e false).inexact = (roundAt rm neg m e false (roundExp f m e)).2 := rfl
  simp only [htiny, hlost, flagIf, roundFlags, Bool.and_eq_true, and_comm]

/-- A nonzero number in a format (R45, R46, R53). -/
theorem finish_eq (h : Largest f big) (hm : m ≠ 0) : f.finish rm ftz neg m e false =
    if big < roundSig f rm neg m e * 2 ^ roundDist f m e then overflowRes f rm neg
    else if ftz = true ∧ roundSig f rm neg m e ≠ 0 ∧ roundSig f rm neg m e < 2 ^ f.fbits then
      ⟨f.signBit neg, fUnderflow ||| fInexact⟩
    else ⟨f.signBit neg + codeOf f (roundSig f rm neg m e) (roundDist f m e), roundFlags f rm neg m e⟩ := by
  have hmant : (f.round rm neg m e false).mant = roundSig f rm neg m e := rfl
  have hq : (f.round rm neg m e false).q = roundExp f m e := rfl
  simp only [FFmt.finish, round_flags hm, hmant, hq, pack_round hm]
  rw [if_congr (beyond_iff h hm) rfl rfl]
  congr 1
  · cases rm <;> cases neg <;> rfl
  · simp only [Bool.and_eq_true, bne_iff_ne, decide_eq_true_iff, and_assoc]

theorem decode_rounded (h : Largest f big) (hm : m ≠ 0) (hle : roundSig f rm neg m e * 2 ^ roundDist f m e ≤ big) :
    ∃ m' e', f.decode (f.signBit neg + codeOf f (roundSig f rm neg m e) (roundDist f m e)) = .fin neg m' e' ∧
      f.emin - f.fbits ≤ e' ∧ m' * 2 ^ (e' - (f.emin - f.fbits)).toNat = roundSig f rm neg m e * 2 ^ roundDist f m e := by
  obtain ⟨hsig, hfull⟩ := roundSig_code (f := f) (rm := rm) (neg := neg) (e := e) hm
  obtain ⟨n, c, hcanon, hcode, hval⟩ := exists_canonical hsig hfull
  have hmax := (code_le_maxBits_iff h hm).mpr hle
  rw [← hcode] at hmax ⊢
  refine ⟨n, stepExp f + c, decode_codeOf h.ebits hcanon hmax, by simp [stepExp], ?_⟩
  rw [← hval, show (stepExp f + c - (f.emin - f.fbits)).toNat = c by simp only [stepExp]; omega]

/-- The largest finite number. -/
theorem decode_maxBits (h : Largest f big) : ∃ m' e', f.decode f.maxBits = .fin false m' e' ∧
    f.emin - f.fbits ≤ e' ∧ m' * 2 ^ (e' - (f.emin - f.fbits)).toNat = big := by
  obtain ⟨n, c, hcanon, hcode, hval⟩ := h.code
  have hdec := decode_codeOf (neg := false) h.ebits hcanon hcode.le
  rw [hcode] at hdec
  refine ⟨n, stepExp f + c, by simpa [FFmt.signBit] using hdec, by simp [stepExp], ?_⟩
  rw [← hval, show (stepExp f + c - (f.emin - f.fbits)).toNat = c by simp only [stepExp]; omega]

/-- Up to the largest finite number the rounded number is written. -/
theorem finish_fits (h : Largest f big) (hm : m ≠ 0) (hle : roundSig f rm neg m e * 2 ^ roundDist f m e ≤ big) :
    (∃ m' e', f.decode (f.finish rm false neg m e false).bits = .fin neg m' e' ∧ f.emin - f.fbits ≤ e' ∧
      m' * 2 ^ (e' - (f.emin - f.fbits)).toNat = roundSig f rm neg m e * 2 ^ roundDist f m e) ∧
    (f.finish rm false neg m e false).flags = roundFlags f rm neg m e := by
  rw [finish_eq h hm, if_neg (not_lt.mpr hle), if_neg (by simp)]
  exact ⟨decode_rounded h hm hle, rfl⟩

theorem finish_beyond (h : Largest f big) (hm : m ≠ 0) (hlt : big < roundSig f rm neg m e * 2 ^ roundDist f m e) :
    f.finish rm ftz neg m e false = overflowRes f rm neg := by
  rw [finish_eq h hm, if_pos hlt]

/-- FTZ replaces a subnormal result. -/
theorem finish_flushed (h : Largest f big) (hm : m ≠ 0) (hle : roundSig f rm neg m e * 2 ^ roundDist f m e ≤ big)
    (hne : roundSig f rm neg m e ≠ 0) (hsub : roundSig f rm neg m e < 2 ^ f.fbits) :
    f.finish rm true neg m e false = ⟨f.signBit neg, fUnderflow ||| fInexact⟩ := by
  rw [finish_eq h hm, if_neg (not_lt.mpr hle), if_pos ⟨rfl, hne, hsub⟩]

/-- FTZ leaves any other result. -/
theorem finish_not_flushed (h : Largest f big) (hm : m ≠ 0) (hres : big < roundSig f rm neg m e * 2 ^ roundDist f m e ∨
      roundSig f rm neg m e = 0 ∨ 2 ^ f.fbits ≤ roundSig f rm neg m e) :
    f.finish rm true neg m e false = f.finish rm false neg m e false := by
  rcases hres with hlt | hkept
  · rw [finish_beyond h hm hlt, finish_beyond h hm hlt]
  · have hnot (z : Bool) : ¬ (z = true ∧ roundSig f rm neg m e ≠ 0 ∧ roundSig f rm neg m e < 2 ^ f.fbits) := by
      rintro ⟨-, hne, hsub⟩
      omega
    rw [finish_eq h hm, finish_eq h hm, if_neg (hnot _), if_neg (hnot _)]

/-! ### Numbers of the format itself -/

/-- A number that the format writes is written without a flag. -/
theorem finish_codeOf (h : Largest f big) {n c : Nat} (hn : n ≠ 0) (hcanon : Canonical f n c)
    (hmax : codeOf f n c ≤ f.maxBits) :
    f.finish rm false neg n (stepExp f + c) false = ⟨f.signBit neg + codeOf f n c, 0⟩ := by
  have hlog : Nat.log2 n ≤ f.fbits := Nat.lt_succ_iff.mp ((Nat.log2_lt hn).mpr hcanon.1)
  have hexp : roundExp f n (stepExp f + c) = stepExp f + c := by
    have hfull : Nat.log2 n = f.fbits ∨ c = 0 := hcanon.2.imp_left fun hbig => by
      have := (Nat.le_log2 hn).mpr hbig
      omega
    simp only [roundExp, stepExp] at *
    omega
  have hround : roundAt rm neg n (stepExp f + c) false (roundExp f n (stepExp f + c)) = (n, false) := by
    rw [hexp, roundAt_of_le le_rfl]
    simp
  have hsig : roundSig f rm neg n (stepExp f + c) = n := congrArg Prod.fst hround
  have hdist : roundDist f n (stepExp f + c) = c := by
    have := roundExp_eq f n (stepExp f + c)
    omega
  have hfits : ¬ big < roundSig f rm neg n (stepExp f + c) * 2 ^ roundDist f n (stepExp f + c) := by
    rw [not_lt, ← code_le_maxBits_iff h hn, hsig, hdist]
    exact hmax
  have hflags : roundFlags f rm neg n (stepExp f + c) = 0 := by
    simp [roundFlags, hround]
  rw [finish_eq h hn, if_neg hfits, if_neg (by simp), hsig, hdist, hflags]

/-- The exact number of a bit pattern, written back. -/
theorem finish_decode (h : Largest f big) {x : Nat} (hx : x < 2 ^ f.width) (hm : m ≠ 0) (hdec : f.decode x = .fin neg m e) :
    f.finish rm false neg m e false = ⟨x, 0⟩ := by
  obtain ⟨d, rfl, hcanon, hmax, rfl⟩ := codeOf_of_decode h.ebits hx hdec
  exact finish_codeOf h hm hcanon hmax

end Sys2Proof
end

section
/-! Exact sums, rounded once (R58, R64, R202). -/

namespace Sys2Proof
open Machine

variable {f : FFmt} {rm : RMode} {ftz : Bool}

/-- A sum may start from any zero. -/
theorem add_scaled_of_zero {a b : Dy} {e : Int} (ha : a.n = 0 ∨ e ≤ a.e) (hb : e ≤ b.e) : e ≤ (a.add b).e ∧
    (a.add b).n * 2 ^ ((a.add b).e - e).toNat = a.n * 2 ^ (a.e - e).toNat + b.n * 2 ^ (b.e - e).toNat := by
  rcases ha with hzero | ha
  · rw [Dy.add, if_pos hzero, hzero, zero_mul, zero_add]
    exact ⟨hb, rfl⟩
  · exact add_scaled ha hb

/-- The digits of the sum of finite terms, over any common exponent. -/
theorem sum_scaled {e : Int} (vs : List FVal) (a : Dy) (ha : a.n = 0 ∨ e ≤ a.e)
    (hvs : ∀ v ∈ vs, ∃ n m x, v = .fin n m x ∧ e ≤ x) :
    let d := vs.foldl (fun acc v => acc.add v.dy) a
    (d.n = 0 ∨ e ≤ d.e) ∧
      d.n * 2 ^ (d.e - e).toNat = a.n * 2 ^ (a.e - e).toNat + (vs.map fun v => v.sm * 2 ^ (v.ex - e).toNat).sum := by
  induction vs generalizing a with
  | nil => exact ⟨ha, by simp⟩
  | cons v vs ih =>
    obtain ⟨n, m, x, rfl, hx⟩ := hvs v (List.mem_cons_self ..)
    obtain ⟨hle, hval⟩ := add_scaled_of_zero (b := (FVal.fin n m x).dy) ha hx
    obtain ⟨hle', hval'⟩ := ih _ (.inr hle) fun v hv => hvs v (List.mem_cons_of_mem _ hv)
    refine ⟨hle', hval'.trans ?_⟩
    rw [hval, List.map_cons, List.sum_cons, add_assoc]
    rfl

/-- An exact number is written by its digits over any exponent. -/
theorem finishDy_scaled (z : Bool) {d : Dy} {e sum : Int} (he : d.n = 0 ∨ e ≤ d.e) (hsum : d.n * 2 ^ (d.e - e).toNat = sum) :
    f.finishDy rm ftz z d =
      if sum = 0 then f.zeroRes z else f.finish rm ftz (decide (sum < 0)) sum.natAbs e false := by
  have hpos : (0 : Int) < 2 ^ (d.e - e).toNat := by positivity
  have hzero : sum = 0 ↔ d.n = 0 := by rw [← hsum, mul_eq_zero, or_iff_left hpos.ne']
  have hneg : sum < 0 ↔ d.n < 0 := by
    rw [← hsum, mul_neg_iff, and_iff_left hpos, or_iff_right fun h => absurd h.2 (not_lt.mpr hpos.le)]
  rw [FFmt.finishDy, if_congr hzero rfl rfl]
  split_ifs with hn
  · rfl
  · have hle := he.resolve_left hn
    have hscale := finish_scale (rm := rm) (neg := decide (d.n < 0)) f ftz (Int.natAbs_ne_zero.mpr hn) (d.e - e).toNat d.e
    rw [← hscale, decide_eq_decide.mpr hneg, ← hsum, Int.natAbs_mul, Int.natAbs_pow,
      show d.e - ((d.e - e).toNat : Int) = e by omega]
    rfl

/-- A NaN among the terms. -/
theorem sumRes_nan {g : Bool} {vs : List FVal} (h : ∃ v ∈ vs, v.isNan = true) :
    f.sumRes rm ftz g vs = f.nanRes (g || vs.any FVal.isSig) := if_pos (List.any_eq_true.mpr h)

theorem any_beq_iff {v : FVal} {vs : List FVal} : (vs.any fun x => x == v) = true ↔ v ∈ vs := by
  simp

theorem any_isNan_eq_false {vs : List FVal} (h : ∀ v ∈ vs, v.isNan = false) : vs.any FVal.isNan = false := by
  simpa using h

/-- Infinities of both signs. -/
theorem sumRes_inf_both {g : Bool} {vs : List FVal} (hnan : ∀ v ∈ vs, v.isNan = false) (hp : .inf false ∈ vs)
    (hn : .inf true ∈ vs) : f.sumRes rm ftz g vs = f.nanRes true := by
  simp only [FFmt.sumRes, any_isNan_eq_false hnan, any_beq_iff.mpr hp, any_beq_iff.mpr hn, Bool.and_true, if_true,
    Bool.false_eq_true, if_false]

/-- Infinities of one sign. -/
theorem sumRes_inf {g n : Bool} {vs : List FVal} (hnan : ∀ v ∈ vs, v.isNan = false) (hin : .inf n ∈ vs)
    (hout : .inf (!n) ∉ vs) : f.sumRes rm ftz g vs = f.infRes n 0 := by
  have hout' := Bool.eq_false_iff.mpr (mt any_beq_iff.mp hout)
  cases n <;>
    simp only [Bool.not_true, Bool.not_false] at hout' <;>
    simp only [FFmt.sumRes, any_isNan_eq_false hnan, any_beq_iff.mpr hin, hout', Bool.and_true, Bool.and_false, if_true,
      Bool.false_eq_true, if_false]

/-- The sign of an exact zero (R202). -/
theorem zeroSumNeg_eq (rm : RMode) {vs : List FVal} (hvs : vs ≠ []) :
    zeroSumNeg rm (vs.all FVal.isZero && !vs.isEmpty && vs.all FVal.isNeg) (vs.all FVal.isZero && vs.all fun v => !v.isNeg) =
      if ∀ v ∈ vs, v.isZero = true ∧ v.isNeg = true then true
      else if ∀ v ∈ vs, v.isZero = true ∧ v.isNeg = false then false else rm == .rd := by
  have hempty : vs.isEmpty = false := by simpa using hvs
  simp only [zeroSumNeg, hempty, Bool.not_false, Bool.and_true, Bool.and_eq_true, List.all_eq_true, Bool.not_eq_true',
    ← forall₂_and]

theorem sumRes_exact {g : Bool} {vs : List FVal} (hnan : ∀ v ∈ vs, v.isNan = false)
    (hinf : ∀ n, (vs.any fun v => v == .inf n) = false) : f.sumRes rm ftz g vs = f.finishDy rm ftz
      (zeroSumNeg rm (vs.all FVal.isZero && !vs.isEmpty && vs.all FVal.isNeg)
        (vs.all FVal.isZero && vs.all fun v => !v.isNeg)) (vs.foldl (fun acc v => acc.add v.dy) ⟨0, 0⟩) := by
  simp only [FFmt.sumRes, any_isNan_eq_false hnan, hinf, Bool.and_false, Bool.false_eq_true, if_false]

/-- The exact sum of finite terms, rounded once. -/
theorem sumRes_fin {g : Bool} {vs : List FVal} {e : Int} (h : ∀ v ∈ vs, ∃ n m x, v = .fin n m x ∧ e ≤ x) :
    let sum : Int := (vs.map fun v => v.sm * 2 ^ (v.ex - e).toNat).sum
    (sum ≠ 0 → f.sumRes rm ftz g vs = f.finish rm ftz (decide (sum < 0)) sum.natAbs e false) ∧
    (sum = 0 → vs ≠ [] → f.sumRes rm ftz g vs = f.zeroRes (
      if ∀ v ∈ vs, v.isZero = true ∧ v.isNeg = true then true
      else if ∀ v ∈ vs, v.isZero = true ∧ v.isNeg = false then false else rm == .rd)) := by
  intro sum
  have hnan : ∀ v ∈ vs, v.isNan = false := fun v hv => by
    obtain ⟨n, m, x, rfl, -⟩ := h v hv
    rfl
  have hinf (n : Bool) : (vs.any fun v => v == .inf n) = false := Bool.eq_false_iff.mpr fun hany => by
    obtain ⟨_, _, _, hv, -⟩ := h _ (any_beq_iff.mp hany)
    cases hv
  obtain ⟨hle, hval⟩ := sum_scaled vs ⟨0, 0⟩ (.inl rfl) h
  rw [zero_mul, zero_add] at hval
  have hres := finishDy_scaled (f := f) (rm := rm) (ftz := ftz) (zeroSumNeg rm
    (vs.all FVal.isZero && !vs.isEmpty && vs.all FVal.isNeg) (vs.all FVal.isZero && vs.all fun v => !v.isNeg)) hle hval
  have hexact := sumRes_exact (f := f) (rm := rm) (ftz := ftz) (g := g) hnan hinf
  refine ⟨fun hne => (hexact.trans hres).trans (if_neg hne), fun hzero hvs => ?_⟩
  rw [hexact, hres, if_pos hzero, zeroSumNeg_eq rm hvs]

end Sys2Proof
end

section
/-! O36: rounding, the formats and the elements of the engines. -/

namespace Sys2Proof
open Machine

/-! ### Matrix steps (R57, R58) -/

theorem foldl_sm (vs : List FVal) (x : Int) : vs.foldl (fun x v => x + v.sm) x = x + (vs.map FVal.sm).sum := by
  induction vs generalizing x with
  | nil => simp
  | cons v vs ih => rw [List.foldl_cons, ih, List.map_cons, List.sum_cons, add_assoc]

theorem mmaStep_int32 (old : Option FVal) (ts : List FVal) :
    let sum : Int := ((old.toList ++ ts).map FVal.sm).sum
    mmaStep .int32 old ts =
      if sum < -2 ^ 31 then ⟨0x80000000, fSat⟩ else if 2 ^ 31 - 1 < sum then ⟨0x7FFFFFFF, fSat⟩
      else ⟨(sum % 2 ^ 32).toNat, 0⟩ := by
  intro sum
  have hsum : (old.toList ++ ts).foldl (fun x v => x + v.sm) 0 = sum := (foldl_sm _ 0).trans (zero_add _)
  simp only [mmaStep, hsum, Machine.satInt]
  norm_num only
  split_ifs with hlow hhigh
  · rw [bne_iff_ne.mpr (by omega)]
    rfl
  · rw [bne_iff_ne.mpr (by omega)]
    rfl
  · simp [ofSigned, flagIf]

/-- The steps of an element go on from the bits of the step before, and their flags gather. -/
theorem mmaElem_go (acc : Fmt) (rest : List (List FVal)) (bits : Nat) (fl : Flags6) :
    (rest.foldl (fun (r : FRes × Option Nat) t =>
        let x := mmaStep acc (r.2.map acc.value) t
        ((⟨x.bits, r.1.flags ||| x.flags⟩ : FRes), some x.bits)) (⟨bits, fl⟩, some bits)).1 =
      ⟨(mmaElem acc (some bits) rest).bits, fl ||| (mmaElem acc (some bits) rest).flags⟩ := by
  induction rest generalizing bits fl with
  | nil => simp [mmaElem]
  | cons t rest ih =>
    have hstart : mmaElem acc (some bits) (t :: rest) = _ := ih _ (0 ||| (mmaStep acc (some (acc.value bits)) t).flags)
    rw [hstart]
    exact (ih _ _).trans (by simp [BitVec.or_assoc])

theorem mmaElem_cons (acc : Fmt) (old : Option Nat) (ts : List FVal) (rest : List (List FVal)) :
    let x := mmaStep acc (old.map acc.value) ts
    let y := mmaElem acc (some x.bits) rest
    mmaElem acc old (ts :: rest) = ⟨y.bits, x.flags ||| y.flags⟩ := by
  intro x y
  exact (mmaElem_go acc rest x.bits (0 ||| x.flags)).trans (by simp [y])

/-! ### Loads into the accumulator (R151) -/

theorem accldElem_int8 : ∀ x < 256, accldElem .int8 .int32 x = ⟨if x < 128 then x else 2 ^ 32 - 256 + x, 0⟩ := by
  intro x hx
  have hmod : x % 2 ^ 8 = x := Nat.mod_eq_of_lt hx
  simp only [accldElem, toSigned, hmod, ofSigned, FRes.mk.injEq, and_true]
  split_ifs <;> omega

/-- BF16 is the upper half of FP32. -/
theorem accldElem_bf16 {x : Nat} (hx : x < 2 ^ 16) (hnan : (bf16F.decode x).isNan = false) :
    accldElem .bf16 .fp32 x = ⟨x * 2 ^ 16, 0⟩ := by
  have hsign (n : Bool) : bf16F.signBit n * 2 ^ 16 = fp32F.signBit n := by cases n <;> rfl
  change cvtFloat fp32F .rn false (bf16F.decode x) = _
  cases hdec : bf16F.decode x with
  | nan g => rw [hdec] at hnan; cases hnan
  | inf n =>
    rw [infBits_of_decode hx hdec, Nat.add_mul, hsign]
    rfl
  | fin n m e =>
    obtain ⟨d, rfl, hcanon, hmax, rfl⟩ := codeOf_of_decode largest_bf16.ebits hx hdec
    have hcode : codeOf fp32F (m * 2 ^ 16) d = codeOf bf16F m d * 2 ^ 16 := by
      simp only [codeOf, fp32F, bf16F]
      ring
    rw [Nat.add_mul, hsign, ← hcode]
    by_cases hm : m = 0
    · subst hm
      obtain rfl : d = 0 := hcanon.2.resolve_left (by decide)
      rfl
    · have hcanon' : Canonical fp32F (m * 2 ^ 16) d := by
        simp only [Canonical, fp32F, bf16F] at hcanon ⊢
        omega
      have hmax' : codeOf fp32F (m * 2 ^ 16) d ≤ fp32F.maxBits := by
        rw [hcode]
        have : bf16F.maxBits * 2 ^ 16 ≤ fp32F.maxBits := by decide
        exact (Nat.mul_le_mul_right _ hmax).trans this
      have hscale := finish_scale (rm := .rn) (neg := n) fp32F false hm 16 (stepExp bf16F + d)
      have hexp : stepExp bf16F + d - ((16 : Nat) : Int) = stepExp fp32F + d := by
        have : stepExp bf16F - ((16 : Nat) : Int) = stepExp fp32F := by decide
        omega
      rw [hexp] at hscale
      exact (if_neg hm).trans (hscale.symm.trans (finish_codeOf largest_fp32 (by omega) hcanon' hmax'))

/-- Every finite FP16 number is one of FP32. -/
theorem accldElem_fp16 {x : Nat} (hx : x < 2 ^ 16) {n : Bool} {m : Nat} {e : Int} (hdec : fp16F.decode x = .fin n m e) :
    (accldElem .fp16 .fp32 x).flags = 0 ∧ ∃ m' e', fp32F.decode (accldElem .fp16 .fp32 x).bits = .fin n m' e' ∧
      m' * 2 ^ (e' + 149).toNat = m * 2 ^ (e + 149).toNat ∧ -149 ≤ e' := by
  have helem : accldElem .fp16 .fp32 x = if m = 0 then fp32F.zeroRes n else fp32F.finish .rn false n m e false := by
    change cvtFloat fp32F .rn false (fp16F.decode x) = _
    rw [hdec]
    rfl
  by_cases hm : m = 0
  · rw [helem, if_pos hm]
    refine ⟨rfl, 0, -149, ?_, by simp [hm], le_rfl⟩
    cases n <;> decide
  · obtain ⟨d, he, ⟨hlt, -⟩, hmax, -⟩ := codeOf_of_decode largest_fp16.ebits hx hdec
    have hlog : Nat.log2 m < 11 := (Nat.log2_lt hm).mpr hlt
    have hlow : fp32F.emin - fp32F.fbits = -149 := by decide
    have hstep : stepExp fp16F = -24 := by decide
    have hbits : (fp32F.fbits : Int) = 23 := rfl
    have hd : d ≤ 30 := by
      simp only [codeOf, fp16F, FFmt.maxBits, if_true] at hmax
      omega
    have hexp : roundExp fp32F m e ≤ e ∧ -149 ≤ roundExp fp32F m e := by
      simp only [roundExp, hbits]
      omega
    have hround : roundAt .rn n m e false (roundExp fp32F m e) = (m * 2 ^ (e - roundExp fp32F m e).toNat, false) :=
      roundAt_of_le hexp.1
    have hval : roundSig fp32F .rn n m e * 2 ^ roundDist fp32F m e = m * 2 ^ (e + 149).toNat := by
      rw [roundSig, hround, roundDist, hlow, mul_assoc, ← pow_add]
      congr 2
      omega
    have hfits : roundSig fp32F .rn n m e * 2 ^ roundDist fp32F m e ≤ (2 ^ 24 - 1) * 2 ^ 253 := by
      rw [hval]
      have hlt' : m < 2 ^ 11 := hlt
      exact Nat.mul_le_mul (by omega) (Nat.pow_le_pow_right two_pos (by omega))
    have hflags : roundFlags fp32F .rn n m e = 0 := by simp [roundFlags, hround]
    obtain ⟨m', e', hdec', hle, hnum⟩ := decode_rounded (rm := .rn) (neg := n) (e := e) largest_fp32 hm hfits
    rw [helem, if_neg hm, finish_eq largest_fp32 hm, if_neg (not_lt.mpr hfits), if_neg (by simp)]
    rw [hlow] at hle hnum
    refine ⟨hflags, m', e', hdec', ?_, hle⟩
    rw [← hval, ← hnum, sub_neg_eq_add]

/-! ### Elements of ACCST and DQNT (R152, R158) -/

theorem isZero_fin (n : Bool) (m : Nat) (e : Int) : (FVal.fin n m e).isZero = decide (m = 0) := by
  cases m <;> rfl

theorem isZero_inf (n : Bool) : (FVal.inf n).isZero = false := rfl

/-- A factor that is zero, infinite or a NaN shows in the product. -/
theorem of_mul_eq_inf {u v : FVal} {n : Bool} (h : u.mul v = some (.inf n)) :
    (u.isNan = false ∧ v.isNan = false) ∧ u.isZero = false ∧ v.isZero = false := by
  cases u <;> cases v <;> simp_all [FVal.mul, FVal.isNan, isZero_fin, isZero_inf]

theorem of_mul_eq_fin {u v : FVal} {n : Bool} {m : Nat} {e : Int} (h : u.mul v = some (.fin n m e)) :
    (u.isNan = false ∧ v.isNan = false) ∧ (u.isInf = false ∧ v.isInf = false) ∧
      (u.isZero = true ∨ v.isZero = true → m = 0) := by
  cases u <;> cases v <;> simp_all [FVal.mul, FVal.isNan, FVal.isInf, isZero_fin]
  case fin.fin =>
    obtain ⟨-, rfl, -⟩ := h
    rintro (rfl | rfl) <;> simp

theorem mul_nan (u : FVal) {v : FVal} (h : v.isNan = true) : ∃ g, u.mul v = some (.nan g) := by
  cases v with
  | nan g => cases u <;> exact ⟨_, rfl⟩
  | inf n => cases h
  | fin n m e => cases h

/-- Zero times infinity, or a NaN, among three factors. -/
theorem mul_invalid {u v w : FVal} (h : (u.isNan = true ∨ v.isNan = true ∨ w.isNan = true) ∨
      ((u.isInf = true ∨ v.isInf = true ∨ w.isInf = true) ∧ (u.isZero = true ∨ v.isZero = true ∨ w.isZero = true))) :
    (u.mul v).bind (·.mul w) = none ∨ ∃ g, (u.mul v).bind (·.mul w) = some (.nan g) := by
  cases hp : u.mul v with
  | none => exact .inl rfl
  | some p =>
    cases p with
    | nan g => cases w <;> exact .inr ⟨_, rfl⟩
    | inf n =>
      obtain ⟨⟨hu, hv⟩, hu0, hv0⟩ := of_mul_eq_inf hp
      simp only [hu, hv, hu0, hv0, Bool.false_eq_true, false_or] at h
      rcases h with hw | ⟨-, hw⟩
      · exact .inr (mul_nan _ hw)
      · cases w with
        | fin k m e => exact .inl (if_pos (by simpa [isZero_fin] using hw))
        | nan g => cases hw
        | inf k => cases hw
    | fin n m e =>
      obtain ⟨⟨hu, hv⟩, ⟨hui, hvi⟩, hzero⟩ := of_mul_eq_fin hp
      simp only [hu, hv, hui, hvi, Bool.false_eq_true, false_or] at h
      rcases h with hw | ⟨hw, hz⟩
      · exact .inr (mul_nan _ hw)
      · cases w with
        | inf k =>
          obtain rfl := hzero (hz.imp_right fun hz => hz.resolve_right Bool.false_ne_true)
          exact .inl (by simp [FVal.mul])
        | nan g => cases hw
        | fin k l g => cases hw

theorem accstElem_eq (src dst : Fmt) (h : Nat) (nsat : Bool) (dx dw : FVal) (x : Nat) :
    accstElem src dst h nsat dx dw x = match ((src.value x).mul dx).bind (·.mul dw) with
      | some (.nan _) | none => cvtValue dst .rn false nsat (.nan true)
      | some v => cvtValue dst .rn false nsat (v.down h) := by
  unfold accstElem
  cases (src.value x).mul dx <;> rfl

theorem accstElem_invalid {src dst : Fmt} {h : Nat} {nsat : Bool} {dx dw : FVal} {x : Nat}
    (hbad : let v := src.value x
      (v.isNan = true ∨ dx.isNan = true ∨ dw.isNan = true) ∨
      ((v.isInf = true ∨ dx.isInf = true ∨ dw.isInf = true) ∧ (v.isZero = true ∨ dx.isZero = true ∨ dw.isZero = true))) :
    accstElem src dst h nsat dx dw x = cvtValue dst .rn false nsat (.nan true) := by
  rw [accstElem_eq]
  rcases mul_invalid hbad with hnone | ⟨g, hnan⟩
  · rw [hnone]
  · rw [hnan]

theorem accstElem_fin {src dst : Fmt} {h : Nat} {nsat : Bool} {x : Nat} {n n1 n2 : Bool} {m m1 m2 : Nat} {e e1 e2 : Int}
    (hv : src.value x = .fin n m e) : accstElem src dst h nsat (.fin n1 m1 e1) (.fin n2 m2 e2) x =
      cvtValue dst .rn false nsat (.fin ((n != n1) != n2) (m * m1 * m2) (e + e1 + e2 - h)) := by
  rw [accstElem_eq, hv]
  rfl

theorem dqntElem_fin {src dst : Fmt} {f : FFmt} {x : Nat} {n n1 : Bool} {m m1 : Nat} {e e1 : Int}
    (hf : dst.ffmt = some f) (hv : src.value x = .fin n m e) : dqntElem src dst (.fin n1 m1 e1) x =
      if m * m1 = 0 then f.zeroRes (n != n1) else f.finish .rn false (n != n1) (m * m1) (e + e1) false := by
  simp only [dqntElem, hv, hf]
  rfl

/-! ### The Hadamard transform (R61) -/

theorem hadNeg_iff : ∀ i < 32, ∀ j < 32, (hadNeg 8 i j = true ↔
    ((List.range 5).filter fun b => i.testBit b && j.testBit b).length % 2 = 1) := by decide +kernel

theorem hadElem_block (f : FFmt) {n i b : Nat} {row : List FVal} (hi : i < n) (hrow : b * n + n ≤ row.length) :
    hadElem f n row (b * n + i) = f.sumRes .rn false false
      ((List.range n).map fun j => if hadNeg 8 i j then (row.getD (b * n + j) (.nan false)).neg
        else row.getD (b * n + j) (.nan false)) := by
  have hdiv : (b * n + i) / n = b := by
    rw [add_comm, Nat.add_mul_div_right _ _ (by omega), Nat.div_eq_of_lt hi, zero_add]
  have hmod : (b * n + i) % n = i := by rw [Nat.mul_add_mod_self_right, Nat.mod_eq_of_lt hi]
  simp only [hadElem, hdiv, hmod]
  congr 1
  refine List.ext_getElem (by simp; omega) fun k hk hk' => ?_
  have hlen : b * n + k < row.length := by
    simp at hk'
    omega
  simp [hlen]

/-! ### The factors of QNT (R59) -/

/-- A number of a step or more does not round to zero. -/
theorem roundSig_ne_zero {f : FFmt} {rm : RMode} {neg : Bool} {m : Nat} {e : Int} (hm : m ≠ 0) (he : f.emin - f.fbits ≤ e) :
    roundSig f rm neg m e ≠ 0 := by
  by_cases hle : roundExp f m e ≤ e
  · rw [roundSig, roundAt_of_le hle]
    exact Nat.mul_ne_zero hm (Nat.two_pow_pos _).ne'
  · have hfree : roundExp f m e ≤ (Nat.log2 m : Int) + e - f.fbits := by
      simp only [roundExp] at hle ⊢
      omega
    exact ((Nat.two_pow_pos _).trans_le (le_roundAt_of_free hm hfree)).ne'

/-- Rounding towards zero gives no infinity, and no zero from a number of a step or more. -/
theorem finish_rz {m : Nat} {e : Int} (hm : m ≠ 0) (he : -149 ≤ e) :
    (fp32F.finish .rz false false m e false).bits ≠ 0x7F800000 ∧
    (fp32F.decode (fp32F.finish .rz false false m e false).bits).isZero = false := by
  rw [finish_eq largest_fp32 hm]
  split_ifs with hbig hftz
  · decide
  · cases hftz.1
  · rw [not_lt] at hbig
    have hmax := (code_le_maxBits_iff largest_fp32 hm).mpr hbig
    have hmaxval : fp32F.maxBits = 0x7F7FFFFF := by decide
    obtain ⟨m', e', hdec, -, hval⟩ := decode_rounded (neg := false) largest_fp32 hm hbig
    refine ⟨?_, ?_⟩
    · simp only [FFmt.signBit, Bool.false_eq_true, if_false]
      omega
    · rw [hdec, isZero_fin, decide_eq_false_iff_not]
      rintro rfl
      rw [zero_mul] at hval
      exact Nat.mul_ne_zero (roundSig_ne_zero hm he) (Nat.two_pow_pos _).ne' hval.symm

theorem ofInt_natCast (n : Nat) : FVal.ofInt n = .fin false n 0 := by
  simp [FVal.ofInt]

theorem qntFactors_fin {dst : Fmt} {amax : W32} {h m : Nat} {e : Int} {n : Bool}
    (hdec : fp32F.decode amax.toNat = .fin n m e) :
    (m = 0 → qntFactors dst amax h = (0x3F800000, 0x3F800000)) ∧
    (m ≠ 0 → n = false → 0 < h →
      let a := fp32F.decode (fp32F.finish .rz false false (m * h) e false).bits
      let r := (fp32F.div .rn false (.fin false dst.qmax 0) a).bits
      qntFactors dst amax h = (if r = 0x7F800000 then 0x7F7FFFFF else r,
        (fp32F.div .rn false a (.fin false dst.qmax 0)).bits)) := by
  have hprod : cvtFloat fp32F .rz false (term ((fp32F.decode amax.toNat).mul (.fin false h 0))) =
      if m * h = 0 then fp32F.zeroRes (n != false) else fp32F.finish .rz false (n != false) (m * h) e false := by
    have hmul : (FVal.fin n m e).mul (.fin false h 0) = some (.fin (n != false) (m * h) (e + 0)) := rfl
    rw [hdec, hmul, add_zero]
    rfl
  refine ⟨fun hm => ?_, fun hm hn hh => ?_⟩
  · subst hm
    simp only [qntFactors, ofInt_natCast, hprod, zero_mul, if_true]
    cases n <;> rfl
  · subst hn
    have hmh : m * h ≠ 0 := Nat.mul_ne_zero hm (by omega)
    have he : -149 ≤ e := by
      obtain ⟨d, rfl, -⟩ := codeOf_of_decode largest_fp32.ebits amax.isLt hdec
      have : stepExp fp32F = -149 := by decide
      omega
    obtain ⟨hinf, hzero⟩ := finish_rz hmh he
    simp only [qntFactors, ofInt_natCast, hprod, if_neg hmh, bne_self_eq_false, if_neg hinf, hzero,
      Bool.false_eq_true, if_false]

/-- Settles O36: `FFmt.finish` through the number that rounding gives, sums by their digits, and each element of the
engines by the operations that make it. -/
theorem roundingRules : Obligations.RoundingRules := by
  unfold Obligations.RoundingRules
  refine ⟨roundAt_spec, fun rm neg m e q h => roundAt_of_le h, fun f rm bits hf hbits neg m e hdec hm => ?_,
    fun f big rm neg m e hf hm => ?_, fun f rm ftz neg m k e hm => ⟨finish_scale f ftz hm k e, fun hbig => ?_⟩,
    fun f inv neg fl => ⟨rfl, rfl, rfl, by decide⟩,
    fun f rm ftz g vs => ⟨sumRes_nan, sumRes_inf_both, fun n => sumRes_inf, fun e => sumRes_fin⟩,
    fun old ts rest acc => ⟨⟨?_, ?_⟩, rfl, mmaElem_cons acc old ts rest⟩,
    fun x => ⟨rfl, rfl, accldElem_int8 x, accldElem_bf16, fun n m e hx hdec => accldElem_fp16 hx hdec, ?_, ?_, ?_⟩,
    fun src dst h nsat dx dw x => ⟨?_, accstElem_invalid, ⟨by decide, fun t => rfl⟩, ?_⟩,
    fun f n i j row hi hj => ⟨hadNeg_iff i hi j hj, fun b => hadElem_block f⟩,
    fun dst amax h m e n => qntFactors_fin, by decide, fun dst r x => rfl, ?_⟩
  · obtain ⟨big, hL⟩ := exists_largest hf
    exact finish_decode hL hbits hm hdec
  · obtain ⟨hL, hieee⟩ := largest_ieee hf
    exact ⟨finish_fits hL hm, fun hlt => ⟨finish_beyond hL hm hlt,
      by simpa [FFmt.signBit] using decode_infBits (neg := false) hieee,
      decode_maxBits hL⟩,
      finish_flushed hL hm, finish_not_flushed hL hm⟩
  · exact (finish_double f ftz hm (.inr hbig)).symm
  · rintro rfl
    exact mmaStep_int32 _ _
  · rintro rfl
    rfl
  · exact fun n hdec => congrArg (cvtFloat fp32F .rn false) hdec
  · exact fun g hdec => congrArg (cvtFloat fp32F .rn false) hdec
  · exact fun g hdec => congrArg (cvtFloat fp32F .rn false) hdec
  · rintro n m e n1 m1 e1 n2 m2 e2 hv rfl rfl
    exact accstElem_fin hv
  · rintro f n m e n1 m1 e1 hf hv rfl
    exact dqntElem_fin hf hv
  · decide +kernel

end Sys2Proof
end

section
/-! O30: the floating-point instructions of the lanes. -/

namespace Sys2Proof
open Machine

variable {f : FFmt} {rm : RMode} {ftz : Bool}

/-! ### Sums and products (R202) -/

theorem sm_fin_mul (n : Bool) (m : Nat) (e p : Int) : (FVal.fin n m e).sm * p = (if n then -1 else 1) * (m * p) := by
  cases n <;> simp [FVal.sm]

/-- A finite sum is the exact one, rounded once. -/
theorem add_fin (na nb : Bool) (ma mb : Nat) (ea eb e : Int) (ha : e ≤ ea) (hb : e ≤ eb) :
    let sum : Int := (if na then -1 else 1) * (ma * 2 ^ (ea - e).toNat : Int) +
      (if nb then -1 else 1) * (mb * 2 ^ (eb - e).toNat : Int)
    (sum ≠ 0 → f.add rm ftz (.fin na ma ea) (.fin nb mb eb) = f.finish rm ftz (decide (sum < 0)) sum.natAbs e false) ∧
    (sum = 0 → f.add rm ftz (.fin na ma ea) (.fin nb mb eb) =
      f.zeroRes (if ma = 0 ∧ mb = 0 ∧ na = nb then na else rm == .rd)) := by
  have hterms : ∀ v ∈ [FVal.fin na ma ea, .fin nb mb eb], ∃ n m x, v = .fin n m x ∧ e ≤ x :=
    List.forall_mem_cons.mpr ⟨⟨_, _, _, rfl, ha⟩, List.forall_mem_singleton.mpr ⟨_, _, _, rfl, hb⟩⟩
  have hsum : ([FVal.fin na ma ea, .fin nb mb eb].map fun v => v.sm * 2 ^ (v.ex - e).toNat).sum =
      (if na then -1 else 1) * (ma * 2 ^ (ea - e).toNat : Int) + (if nb then -1 else 1) * (mb * 2 ^ (eb - e).toNat : Int) := by
    simp only [List.map_cons, List.map_nil, List.sum_cons, List.sum_nil, add_zero, sm_fin_mul, FVal.ex]
  obtain ⟨hne, hzero⟩ := sumRes_fin (f := f) (rm := rm) (ftz := ftz) (g := false) hterms
  rw [hsum] at hne hzero
  refine ⟨hne, fun h => (hzero h (List.cons_ne_nil _ _)).trans ?_⟩
  cases na <;> cases nb <;> simp [isZero_fin, FVal.isNeg]

theorem mul_fin (na nb : Bool) (ma mb : Nat) (ea eb : Int) :
    (ma * mb = 0 → f.mul rm ftz (.fin na ma ea) (.fin nb mb eb) = f.zeroRes (na != nb)) ∧
    (ma * mb ≠ 0 → f.mul rm ftz (.fin na ma ea) (.fin nb mb eb) =
      f.finish rm ftz (na != nb) (ma * mb) (ea + eb) false) :=
  ⟨fun h => if_pos h, fun h => if_neg h⟩

/-! ### Quotients and roots (R203) -/

/-- The first 64 bits or more of a quotient, and whether a rest is left. -/
theorem div_fin (na nb : Bool) {ma mb : Nat} (ea eb : Int) (ha : ma ≠ 0) (hb : mb ≠ 0) :
    ∃ (q : Nat) (x : Int) (st : Bool) (k : Nat),
      f.div rm ftz (.fin na ma ea) (.fin nb mb eb) = f.finish rm ftz (na != nb) q x st ∧ 2 ^ 63 ≤ q ∧ x = ea - eb - k ∧
      q * mb ≤ ma * 2 ^ k ∧ ma * 2 ^ k < (q + 1) * mb ∧ (st = true ↔ q * mb ≠ ma * 2 ^ k) := by
  set k := 64 + Nat.log2 mb with hk
  have hpos : 0 < mb := Nat.pos_of_ne_zero hb
  have hsplit := Nat.div_add_mod' (ma * 2 ^ k) mb
  have hmod := Nat.mod_lt (ma * 2 ^ k) hpos
  have hlong : 2 ^ 63 * mb ≤ ma * 2 ^ k :=
    calc 2 ^ 63 * mb ≤ 2 ^ 63 * 2 ^ (Nat.log2 mb + 1) := Nat.mul_le_mul_left _ Nat.lt_log2_self.le
      _ = 1 * 2 ^ k := by rw [← pow_add, one_mul, hk]; congr 1; omega
      _ ≤ ma * 2 ^ k := Nat.mul_le_mul_right _ (Nat.pos_of_ne_zero ha)
  refine ⟨ma * 2 ^ k / mb, ea - eb - k, ma * 2 ^ k % mb != 0, k, ?_, (Nat.le_div_iff_mul_le hpos).mpr hlong, rfl,
    Nat.div_mul_le_self _ _, ?_, ?_⟩
  · simp only [FFmt.div, if_neg hb, if_neg ha]
    rfl
  · rw [Nat.succ_mul]
    omega
  · rw [bne_iff_ne]
    omega

/-- The root of a number of 128 bits has 64. -/
theorem isqrt_long {t : Nat} (h : 2 ^ 127 ≤ t) : 2 ^ 63 ≤ isqrt t := by
  obtain ⟨-, hlt⟩ := isqrt_spec t
  by_contra hshort
  have : (isqrt t + 1) * (isqrt t + 1) ≤ 2 ^ 63 * 2 ^ 63 := Nat.mul_le_mul (by omega) (by omega)
  omega

/-- The first 64 bits or more of a root, and whether a rest is left. -/
theorem sqrt_fin {m : Nat} (e : Int) (hm : m ≠ 0) : ∃ (r : Nat) (x : Int) (st : Bool) (k : Nat),
    f.sqrt rm ftz (.fin false m e) = f.finish rm ftz false r x st ∧ 2 ^ 63 ≤ r ∧ (k : Int) = e - 2 * x ∧
    r * r ≤ m * 2 ^ k ∧ m * 2 ^ k < (r + 1) * (r + 1) ∧ (st = true ↔ r * r ≠ m * 2 ^ k) := by
  have hroot (t : Nat) := isqrt_spec t
  have hlong (k : Nat) (hk : 127 ≤ k) : 2 ^ 127 ≤ m * 2 ^ k :=
    calc 2 ^ 127 ≤ 1 * 2 ^ k := by rw [one_mul]; exact Nat.pow_le_pow_right two_pos hk
      _ ≤ m * 2 ^ k := Nat.mul_le_mul_right _ (Nat.pos_of_ne_zero hm)
  by_cases heven : e % 2 = 0
  · refine ⟨isqrt (m * 2 ^ 128), e / 2 - 64, isqrt (m * 2 ^ 128) * isqrt (m * 2 ^ 128) != m * 2 ^ 128, 128, ?_,
      isqrt_long (hlong 128 (by omega)), by omega, (hroot _).1, (hroot _).2, bne_iff_ne⟩
    simp only [FFmt.sqrt, sqrtMag, if_neg hm, if_pos heven, Bool.false_eq_true, if_false]
  · have hodd : 2 * m * 2 ^ 128 = m * 2 ^ 129 := by rw [pow_succ 2 128]; ring
    refine ⟨isqrt (m * 2 ^ 129), (e - 1) / 2 - 64, isqrt (m * 2 ^ 129) * isqrt (m * 2 ^ 129) != m * 2 ^ 129, 129, ?_,
      isqrt_long (hlong 129 (by omega)), by omega, (hroot _).1, (hroot _).2, bne_iff_ne⟩
    simp only [FFmt.sqrt, sqrtMag, if_neg hm, if_neg heven, Bool.false_eq_true, if_false, hodd]

/-- The reciprocal root of `m`, from the root of a quotient. -/
theorem isqrt_recip {m k : Nat} (hm : m ≠ 0) (hk : k = 64 + Nat.log2 m) : let r := isqrt (2 ^ (2 * k) / m)
    2 ^ 63 ≤ r ∧ r * r * m ≤ 2 ^ (2 * k) ∧ 2 ^ (2 * k) < (r + 1) * (r + 1) * m := by
  intro r
  have hpos : 0 < m := Nat.pos_of_ne_zero hm
  obtain ⟨hlo, hhi⟩ := isqrt_spec (2 ^ (2 * k) / m)
  refine ⟨isqrt_long ((Nat.le_div_iff_mul_le hpos).mpr ?_), (Nat.le_div_iff_mul_le hpos).mp hlo,
    (Nat.div_lt_iff_lt_mul hpos).mp hhi⟩
  calc 2 ^ 127 * m ≤ 2 ^ 127 * 2 ^ (Nat.log2 m + 1) := Nat.mul_le_mul_left _ Nat.lt_log2_self.le
    _ = 2 ^ (127 + (Nat.log2 m + 1)) := (pow_add _ _ _).symm
    _ ≤ 2 ^ (2 * k) := Nat.pow_le_pow_right two_pos (by omega)

/-- The first 64 bits or more of a reciprocal root, and whether a rest is left. -/
theorem rsq_fin {m : Nat} (e : Int) (hm : m ≠ 0) : ∃ (r : Nat) (x : Int) (st : Bool) (k : Nat),
    f.rsq rm ftz (.fin false m e) = f.finish rm ftz false r x st ∧ 2 ^ 63 ≤ r ∧ (k : Int) = -(2 * x + e) ∧
    r * r * m ≤ 2 ^ k ∧ 2 ^ k < (r + 1) * (r + 1) * m ∧ (st = true ↔ r * r * m ≠ 2 ^ k) := by
  by_cases heven : e % 2 = 0
  · set k := 64 + Nat.log2 m with hk
    obtain ⟨hlong, hlo, hhi⟩ := isqrt_recip hm hk
    refine ⟨isqrt (2 ^ (2 * k) / m), -(e / 2) - k, _, 2 * k, ?_, hlong, by omega, hlo, hhi, bne_iff_ne⟩
    simp only [FFmt.rsq, if_neg hm, if_pos heven, Bool.false_eq_true, if_false, hk]
  · set k := 64 + Nat.log2 (2 * m) with hk
    obtain ⟨hlong, hlo, hhi⟩ := isqrt_recip (m := 2 * m) (by omega) hk
    have hpow : 2 ^ (2 * k) = 2 * 2 ^ (2 * k - 1) := by
      rw [← pow_succ']
      congr 1
      omega
    set r := isqrt (2 ^ (2 * k) / (2 * m))
    have hdouble (x : Nat) : x * (2 * m) = 2 * (x * m) := by ring
    rw [hdouble, hpow] at hlo hhi
    have hrest : (r * r * (2 * m) != 2 ^ (2 * k)) = (r * r * m != 2 ^ (2 * k - 1)) := by
      rw [Bool.eq_iff_iff, bne_iff_ne, bne_iff_ne, hdouble, hpow]
      omega
    refine ⟨r, -((e - 1) / 2) - k, r * r * m != 2 ^ (2 * k - 1), 2 * k - 1, ?_, hlong, by omega, by omega, by omega,
      bne_iff_ne⟩
    simp only [FFmt.rsq, if_neg hm, if_neg heven, Bool.false_eq_true, if_false, ← hk]
    exact congrArg _ hrest

/-! ### Exact powers and logarithms (R203) -/

/-- 2 to an integer below 256 in magnitude. -/
theorem exp2_integer {n : Bool} {m k : Nat} {e : Int} (hm : m ≠ 0) (hk : k < 256) (hint : m * 2 ^ e.toNat = k * 2 ^ (-e).toNat) :
    f.exp2 rm ftz (.fin n m e) = f.finish rm ftz false 1 (if n then -(k : Int) else k) false := by
  have hsmall : ¬ (8 ≤ (Nat.log2 m : Int) + e) := by
    intro hbig
    have hlog := Nat.log2_self_le hm
    have hlow : 2 ^ (Nat.log2 m + e.toNat) ≤ k * 2 ^ (-e).toNat := by
      rw [← hint, pow_add]
      exact Nat.mul_le_mul_right _ hlog
    have hhigh : k * 2 ^ (-e).toNat < 2 ^ (8 + (-e).toNat) := by
      rw [pow_add]
      exact Nat.mul_lt_mul_of_pos_right hk (Nat.two_pow_pos _)
    have := (Nat.pow_lt_pow_iff_right one_lt_two).mp (hlow.trans_lt hhigh)
    omega
  simp only [FFmt.exp2, if_neg hm, if_neg hsmall, hint, Nat.mul_div_cancel _ (Nat.two_pow_pos _), Nat.mul_mod_left, if_true]
  cases n <;> rfl

theorem log2_power {l : Nat} {e : Int} : f.log2 rm ftz (.fin false (2 ^ l) e) = if l + e = 0 then f.zeroRes false
    else f.finish rm ftz (decide (l + e < 0)) (l + e).natAbs 0 false := by
  simp [FFmt.log2, Nat.log2_two_pow]

/-! ### The rows of R203 -/

theorem add_nan {a b : FVal} (h : a.isNan = true ∨ b.isNan = true) : f.add rm ftz a b = f.nanRes (a.isSig || b.isSig) := by
  refine (sumRes_nan (by simpa using h)).trans ?_
  simp

theorem mul_nanRes {a b : FVal} (h : a.isNan = true ∨ b.isNan = true) : f.mul rm ftz a b = f.nanRes (a.isSig || b.isSig) := by
  cases a <;> cases b <;> simp_all [FVal.isNan, FVal.isSig, FFmt.mul, FVal.mul]

theorem div_nan {a b : FVal} (h : a.isNan = true ∨ b.isNan = true) : f.div rm ftz a b = f.nanRes (a.isSig || b.isSig) := by
  cases a <;> cases b <;> simp_all [FVal.isNan, FVal.isSig, FFmt.div]

theorem add_inf_inf (n k : Bool) : f.add rm ftz (.inf n) (.inf k) = if n = k then f.infRes n 0 else f.nanRes true := by
  cases n <;> cases k <;> rfl

theorem add_inf_fin (n k : Bool) (m : Nat) (e : Int) :
    f.add rm ftz (.inf n) (.fin k m e) = f.infRes n 0 ∧ f.add rm ftz (.fin k m e) (.inf n) = f.infRes n 0 := by
  constructor <;> exact sumRes_inf (by simp [FVal.isNan]) (by simp) (by simp)

theorem rcp_eq_div (a : FVal) : f.rcp rm ftz a = f.div rm ftz (.fin false 1 0) a := by
  cases a with
  | nan s => rfl
  | inf n => simp [FFmt.rcp, FFmt.div]
  | fin n m e => simp [FFmt.rcp, FFmt.div]

/-- Operands that are no numbers, of each operation. -/
theorem special_operands (f : FFmt) (rm : RMode) (ftz : Bool) (a b c : FVal) (n k : Bool) (m : Nat) (e : Int) :
    (a.isNan = true ∨ b.isNan = true → f.add rm ftz a b = f.nanRes (a.isSig || b.isSig) ∧
      f.mul rm ftz a b = f.nanRes (a.isSig || b.isSig) ∧ f.div rm ftz a b = f.nanRes (a.isSig || b.isSig)) ∧
    f.add rm ftz (.inf n) (.inf k) = (if n = k then f.infRes n 0 else f.nanRes true) ∧
    f.add rm ftz (.inf n) (.fin k m e) = f.infRes n 0 ∧ f.add rm ftz (.fin k m e) (.inf n) = f.infRes n 0 ∧
    f.mul rm ftz (.inf n) (.inf k) = f.infRes (n != k) 0 ∧
    f.mul rm ftz (.inf n) (.fin k m e) = (if m = 0 then f.nanRes true else f.infRes (n != k) 0) ∧
    f.mul rm ftz (.fin k m e) (.inf n) = (if m = 0 then f.nanRes true else f.infRes (n != k) 0) ∧
    f.div rm ftz (.inf n) (.inf k) = f.nanRes true ∧ f.div rm ftz (.inf n) (.fin k m e) = f.infRes (n != k) 0 ∧
    f.div rm ftz (.fin k m e) (.inf n) = f.zeroRes (n != k) ∧
    (a.mul b = none → f.fma rm ftz a b c = f.nanRes true) ∧
    (∀ p, a.mul b = some p → f.fma rm ftz a b c = f.add rm ftz p c) ∧
    f.rcp rm ftz a = f.div rm ftz (.fin false 1 0) a ∧
    (∀ g ∈ [f.sqrt rm ftz, f.rsq rm ftz, f.exp2 rm ftz, f.log2 rm ftz, f.tanh rm ftz], g (.nan n) = f.nanRes n) ∧
    f.sqrt rm ftz (.inf n) = (if n then f.nanRes true else f.infRes false 0) ∧
    f.rsq rm ftz (.inf n) = (if n then f.nanRes true else f.zeroRes false) ∧
    f.exp2 rm ftz (.inf n) = (if n then f.zeroRes false else f.infRes false 0) ∧
    f.log2 rm ftz (.inf n) = (if n then f.nanRes true else f.infRes false 0) ∧
    f.tanh rm ftz (.inf n) = f.finish rm ftz n 1 0 false := by
  obtain ⟨hadd, hadd'⟩ := add_inf_fin (f := f) (rm := rm) (ftz := ftz) n k m e
  refine ⟨fun h => ⟨add_nan h, mul_nanRes h, div_nan h⟩, add_inf_inf n k, hadd, hadd', rfl, ?_, ?_, rfl, rfl, ?_, ?_, ?_,
    rcp_eq_div a, ?_, rfl, rfl, rfl, rfl, rfl⟩
  · simp only [FFmt.mul, FVal.mul]
    split_ifs <;> rfl
  · simp only [FFmt.mul, FVal.mul]
    split_ifs <;> rfl
  · rw [bne_comm]
    rfl
  · intro h
    simp only [FFmt.fma, h]
  · intro p h
    simp only [FFmt.fma, h]
    rfl
  · simp only [List.forall_mem_cons]
    exact ⟨rfl, rfl, rfl, rfl, rfl, List.forall_mem_nil _⟩

/-- Finite operands. -/
theorem finite_operands (f : FFmt) (rm : RMode) (ftz : Bool) (na nb : Bool) (ma mb : Nat) (ea eb : Int) :
    let a : FVal := .fin na ma ea
    let b : FVal := .fin nb mb eb
    (∀ e ≤ ea, e ≤ eb → let sum : Int := (if na then -1 else 1) * (ma * 2 ^ (ea - e).toNat : Int) +
        (if nb then -1 else 1) * (mb * 2 ^ (eb - e).toNat : Int)
      (sum ≠ 0 → f.add rm ftz a b = f.finish rm ftz (decide (sum < 0)) sum.natAbs e false) ∧
      (sum = 0 → f.add rm ftz a b = f.zeroRes (if ma = 0 ∧ mb = 0 ∧ na = nb then na else rm == .rd))) ∧
    a.mul b = some (.fin (na != nb) (ma * mb) (ea + eb)) ∧
    (ma * mb = 0 → f.mul rm ftz a b = f.zeroRes (na != nb)) ∧
    (ma * mb ≠ 0 → f.mul rm ftz a b = f.finish rm ftz (na != nb) (ma * mb) (ea + eb) false) ∧
    (ma ≠ 0 → mb ≠ 0 → ∃ (q : Nat) (x : Int) (st : Bool) (k : Nat),
      f.div rm ftz a b = f.finish rm ftz (na != nb) q x st ∧ 2 ^ 63 ≤ q ∧ x = ea - eb - k ∧
      q * mb ≤ ma * 2 ^ k ∧ ma * 2 ^ k < (q + 1) * mb ∧ (st = true ↔ q * mb ≠ ma * 2 ^ k)) ∧
    (ma ≠ 0 → mb = 0 → f.div rm ftz a b = f.infRes (na != nb) fDivZero) ∧
    (ma = 0 → mb ≠ 0 → f.div rm ftz a b = f.zeroRes (na != nb)) ∧
    (ma = 0 → mb = 0 → f.div rm ftz a b = f.nanRes true) ∧
    (ma ≠ 0 → na = false → ∃ (r : Nat) (x : Int) (st : Bool) (k : Nat),
      f.sqrt rm ftz a = f.finish rm ftz false r x st ∧ 2 ^ 63 ≤ r ∧ (k : Int) = ea - 2 * x ∧
      r * r ≤ ma * 2 ^ k ∧ ma * 2 ^ k < (r + 1) * (r + 1) ∧ (st = true ↔ r * r ≠ ma * 2 ^ k)) ∧
    (ma ≠ 0 → na = false → ∃ (r : Nat) (x : Int) (st : Bool) (k : Nat),
      f.rsq rm ftz a = f.finish rm ftz false r x st ∧ 2 ^ 63 ≤ r ∧ (k : Int) = -(2 * x + ea) ∧
      r * r * ma ≤ 2 ^ k ∧ 2 ^ k < (r + 1) * (r + 1) * ma ∧ (st = true ↔ r * r * ma ≠ 2 ^ k)) ∧
    (ma ≠ 0 → na = true → f.sqrt rm ftz a = f.nanRes true ∧ f.rsq rm ftz a = f.nanRes true ∧
      f.log2 rm ftz a = f.nanRes true) ∧
    (ma = 0 → f.sqrt rm ftz a = f.zeroRes na ∧ f.rsq rm ftz a = f.infRes na fDivZero ∧
      f.log2 rm ftz a = f.infRes true fDivZero ∧ f.exp2 rm ftz a = f.finish rm ftz false 1 0 false ∧
      f.tanh rm ftz a = f.zeroRes na) ∧
    (∀ k : Nat, ma ≠ 0 → k < 256 → ma * 2 ^ ea.toNat = k * 2 ^ (-ea).toNat →
      f.exp2 rm ftz a = f.finish rm ftz false 1 (if na then -(k : Int) else k) false) ∧
    (∀ l : Nat, ma = 2 ^ l → na = false → f.log2 rm ftz a = if l + ea = 0 then f.zeroRes false
      else f.finish rm ftz (decide (l + ea < 0)) (l + ea).natAbs 0 false) := by
  intro a b
  obtain ⟨hmul0, hmul⟩ := mul_fin (f := f) (rm := rm) (ftz := ftz) na nb ma mb ea eb
  refine ⟨fun e ha hb => add_fin na nb ma mb ea eb e ha hb, rfl, hmul0, hmul, div_fin na nb ea eb, ?_, ?_, ?_, ?_, ?_, ?_,
    ?_, fun k => exp2_integer, ?_⟩
  · rintro ha rfl
    simp [FFmt.div, a, b, ha]
  · rintro rfl hb
    simp [FFmt.div, a, b, hb]
  · rintro rfl rfl
    rfl
  · rintro ha rfl
    exact sqrt_fin ea ha
  · rintro ha rfl
    exact rsq_fin ea ha
  · rintro ha rfl
    simp [FFmt.sqrt, FFmt.rsq, FFmt.log2, a, ha]
  · rintro rfl
    exact ⟨rfl, rfl, rfl, rfl, rfl⟩
  · rintro l rfl rfl
    exact log2_power

/-! ### Minimum and maximum (R48) -/

/-- The order of exact numbers, over any common exponent. -/
theorem lt_scaled {a b : Dy} {x : Int} (ha : x ≤ a.e) (hb : x ≤ b.e) :
    a.lt b = decide (a.n * 2 ^ (a.e - x).toNat < b.n * 2 ^ (b.e - x).toNat) := by
  have hsplit (t : Int) (ht : min a.e b.e ≤ t) :
      (2 : Int) ^ (t - x).toNat = 2 ^ (t - min a.e b.e).toNat * 2 ^ (min a.e b.e - x).toNat := by
    rw [← pow_add]
    congr 1
    omega
  have hpos : (0 : Int) < 2 ^ (min a.e b.e - x).toNat := by positivity
  rw [hsplit _ (min_le_left _ _), hsplit _ (min_le_right _ _), ← mul_assoc, ← mul_assoc]
  exact decide_eq_decide.mpr (mul_lt_mul_iff_of_pos_right hpos).symm

/-- Numbers by value, and -0 below +0. -/
theorem before_fin (n k : Bool) (m l : Nat) (e g x : Int) (he : x ≤ e) (hg : x ≤ g) :
    let a : Int := (if n then -1 else 1) * (m * 2 ^ (e - x).toNat : Int)
    let b : Int := (if k then -1 else 1) * (l * 2 ^ (g - x).toNat : Int)
    FVal.before (.fin n m e) (.fin k l g) = (decide (a < b) || (decide (m = 0) && decide (l = 0) && n && !k)) := by
  intro a b
  have hlt : (FVal.fin n m e).dy.lt (FVal.fin k l g).dy = decide (a < b) := by
    refine (lt_scaled (a := (FVal.fin n m e).dy) (b := (FVal.fin k l g).dy) he hg).trans ?_
    exact congrArg₂ (fun x y : Int => decide (x < y)) (sm_fin_mul n m e _) (sm_fin_mul k l g _)
  have hbefore : FVal.before (.fin n m e) (.fin k l g) =
      if decide (m = 0) && decide (l = 0) then n && !k else decide (a < b) := by
    rw [← hlt, ← isZero_fin n m e, ← isZero_fin k l g]
    rfl
  rw [hbefore]
  by_cases hzero : m = 0 ∧ l = 0
  · simp [hzero, a, b]
  · rw [if_neg (by simpa using hzero)]
    have : (decide (m = 0) && decide (l = 0)) = false := by simpa using hzero
    simp [this]

/-- The bits of a number that the format holds. -/
def numberBits (f : FFmt) : FVal → Nat
  | .nan _ => f.nanBits
  | .inf n => f.signBit n + f.infBits
  | .fin n m e => f.signBit n + f.pack m e

/-- The operand that R48 picks. -/
def pickNumber (isMax : Bool) (a b : FVal) : FVal :=
  if a.isNan then (if b.isNan then a else b)
  else if b.isNan then a
  else if isMax then (if a.before b then b else a) else (if b.before a then b else a)

theorem minMax_eq (f : FFmt) (ftz isMax : Bool) (x y : Nat) :
    let a := (f.decode x).flush f ftz
    let b := (f.decode y).flush f ftz
    f.minMax ftz isMax x y = ⟨numberBits f (pickNumber isMax a b), flagIf (a.isSig || b.isSig) fInvalid⟩ := rfl

/-- A number read from a format is written back, flushed or not. -/
theorem decode_numberBits (hf : 1 ≤ f.ebits) (hi : f.ieee = true) {x : Nat} (hx : x < 2 ^ f.width)
    (hnan : ((f.decode x).flush f ftz).isNan = false) :
    f.decode (numberBits f ((f.decode x).flush f ftz)) = (f.decode x).flush f ftz := by
  cases hdec : f.decode x with
  | nan g =>
    rw [hdec] at hnan
    cases hnan
  | inf n => exact decode_infBits hi
  | fin n m e =>
    obtain ⟨d, rfl, hcanon, hmax, -⟩ := codeOf_of_decode hf hx hdec
    simp only [FVal.flush, Bool.and_eq_true, beq_iff_eq]
    split_ifs with hflush
    · obtain rfl : d = 0 := by
        have := hflush.2
        simp only [stepExp] at this
        omega
      have hzero : Canonical f 0 0 := ⟨Nat.two_pow_pos _, .inr rfl⟩
      have hle : codeOf f 0 0 ≤ f.maxBits := by simp [codeOf]
      rw [numberBits, pack_eq_codeOf hzero.2, decode_codeOf hf hzero hle]
    · rw [numberBits, pack_eq_codeOf hcanon.2, decode_codeOf hf hcanon hmax]

theorem minMax_spec (ftz isMax : Bool) {x y : Nat} (hf : f ∈ [fp32F, bf16F, fp16F]) (hx : x < 2 ^ f.width)
    (hy : y < 2 ^ f.width) :
    let a := (f.decode x).flush f ftz
    let b := (f.decode y).flush f ftz
    let r := f.minMax ftz isMax x y
    r.flags = (if a.isSig = true ∨ b.isSig = true then fInvalid else 0) ∧
    (a.isNan = true → b.isNan = true → r.bits = f.nanBits) ∧ (a.isNan = true → b.isNan = false → f.decode r.bits = b) ∧
    (a.isNan = false → b.isNan = true → f.decode r.bits = a) ∧
    (a.isNan = false → b.isNan = false →
      f.decode r.bits = if isMax then (if a.before b then b else a) else (if b.before a then b else a)) := by
  intro a b r
  have hformat : 1 ≤ f.ebits ∧ f.ieee = true := by
    simp only [List.mem_cons, List.not_mem_nil, or_false] at hf
    rcases hf with rfl | rfl | rfl <;> decide
  obtain ⟨hebits, hieee⟩ := hformat
  have hr : r = ⟨numberBits f (pickNumber isMax a b), flagIf (a.isSig || b.isSig) fInvalid⟩ := minMax_eq f ftz isMax x y
  have ha (hnan : a.isNan = false) : f.decode (numberBits f a) = a := decode_numberBits hebits hieee hx hnan
  have hb (hnan : b.isNan = false) : f.decode (numberBits f b) = b := decode_numberBits hebits hieee hy hnan
  simp only [hr, pickNumber]
  refine ⟨by simp [flagIf], fun hna hnb => ?_, fun hna hnb => ?_, fun hna hnb => ?_, fun hna hnb => ?_⟩
  · rw [if_pos hna, if_pos hnb]
    cases hval : a with
    | nan g => rfl
    | inf n => rw [hval] at hna; cases hna
    | fin n m e => rw [hval] at hna; cases hna
  · simp only [hna, hnb, if_true, Bool.false_eq_true, if_false, hb]
  · simp only [hna, hnb, if_true, Bool.false_eq_true, if_false, ha]
  · simp only [hna, hnb, Bool.false_eq_true, if_false]
    split_ifs <;> simp only [ha hna, hb hnb]

/-! ### The instructions -/

/-- IDP4 saturates under SAT. -/
theorem laneIdp4_eq (x : LIdp4) (i : LaneIn) (s : State) :
    let ex (u : Bool) (w : W32) (k : Nat) : Int :=
      if u then ((w.extractLsb' (8 * k) 8).toNat : Int) else (w.extractLsb' (8 * k) 8).toInt
    let sum : Int := i.c0.toInt + ex x.ua i.a0 0 * ex x.ub i.b0 0 + ex x.ua i.a0 1 * ex x.ub i.b0 1 +
      ex x.ua i.a0 2 * ex x.ub i.b0 2 + ex x.ua i.a0 3 * ex x.ub i.b0 3
    laneIdp4 x i s = .ok s (if x.sat = true ∧ sum < -2147483648 then out1 x.vd 0x80000000 fSat
      else if x.sat = true ∧ 2147483647 < sum then out1 x.vd 0x7FFFFFFF fSat
      else out1 x.vd (BitVec.ofInt 32 sum)) := by
  intro ex sum
  have hmodel : laneIdp4 x i s = if x.sat
      then .ok s (out1 x.vd (BitVec.ofInt 32 (Machine.satInt sum (-2147483648) 2147483647))
        (flagIf (Machine.satInt sum (-2147483648) 2147483647 != sum) fSat))
      else .ok s (out1 x.vd (BitVec.ofInt 32 sum)) := rfl
  rw [hmodel]
  cases x.sat with
  | false => simp
  | true =>
    simp only [if_true, true_and, Machine.satInt]
    split_ifs with hlow hhigh
    · rw [bne_iff_ne.mpr (by omega)]
      rfl
    · rw [bne_iff_ne.mpr (by omega)]
      rfl
    · rw [bne_self_eq_false]
      rfl

/-- Settles O30: each instruction's meaning is the operation stated; the operations by their operands. -/
theorem laneFloatingPoint : Obligations.LaneFloatingPoint := by
  unfold Obligations.LaneFloatingPoint
  refine ⟨?_, ?_, ?_, ?_, ?_, ?_, ?_, ?_, ?_, ?_, ?_, ?_, ?_, ?_, ?_, ?_, ?_, ?_,
    fun x => laneGives_of (fun _ => rfl) (laneIdp4_eq x), ?_, finite_operands, special_operands,
    fun f ftz isMax x y hf hx hy => minMax_spec ftz isMax hf hx hy,
    fun n k m l e g => ⟨rfl, rfl, rfl, fun x he hg => before_fin n k m l e g x he hg⟩⟩
  all_goals exact fun x => laneGives_of (fun _ => rfl) fun i s => rfl

end Sys2Proof
end

section
/-! O31: the conversions of the lanes (R49 to R55, R205 to R207). -/

namespace Sys2Proof
open Machine

/-! ### Into the integers (R50) -/

theorem cvtInt_spec (w : Nat) (lo hi : Int) (rm : RMode) (n : Bool) (m : Nat) (e : Int) (hle : lo ≤ hi) :
    let r := roundAt rm n m e false 0
    let z : Int := if n then -(r.1 : Int) else r.1
    let code (v : Int) : Nat := (v % 2 ^ w).toNat
    (∀ g, cvtInt w lo hi rm (.nan g) = ⟨0, fInvalid⟩) ∧ cvtInt w lo hi rm (.inf n) = ⟨code (if n then lo else hi), fSat⟩ ∧
    (lo ≤ z → z ≤ hi → cvtInt w lo hi rm (.fin n m e) = ⟨code z, if r.2 then fInexact else 0⟩) ∧
    (z < lo → cvtInt w lo hi rm (.fin n m e) = ⟨code lo, fSat ||| fInexact⟩) ∧
    (hi < z → cvtInt w lo hi rm (.fin n m e) = ⟨code hi, fSat ||| fInexact⟩) := by
  intro r z code
  have hfin : cvtInt w lo hi rm (.fin n m e) = if Machine.satInt z lo hi = z
      then ⟨code (Machine.satInt z lo hi), if r.2 then fInexact else 0⟩
      else ⟨code (Machine.satInt z lo hi), fSat ||| fInexact⟩ := rfl
  refine ⟨fun g => rfl, rfl, fun hlo hhi => ?_, fun hlow => ?_, fun hhigh => ?_⟩
  · have hsat : Machine.satInt z lo hi = z := by rw [Machine.satInt, if_neg (by omega), if_neg (by omega)]
    rw [hfin, if_pos hsat, hsat]
  · have hsat : Machine.satInt z lo hi = lo := if_pos hlow
    rw [hfin, hsat, if_neg (by omega)]
  · have hsat : Machine.satInt z lo hi = hi := by rw [Machine.satInt, if_neg (by omega), if_pos hhigh]
    rw [hfin, hsat, if_neg (by omega)]

/-! ### Into FP8 (R49) -/

theorem cvtFp8_spec {f : FFmt} {big : Nat} (rm : RMode) (ftz nsat n g : Bool) (m : Nat) (e : Int)
    (hf : (f = e4m3F ∧ big = 448 * 2 ^ 9) ∨ (f = e5m2F ∧ big = 57344 * 2 ^ 16)) :
    let top : FRes := ⟨f.signBit n + f.maxBits, fSat⟩
    cvtFp8 f rm ftz nsat (.nan g) = f.nanRes g ∧
    cvtFp8 f rm ftz nsat (.inf n) = (if nsat = false then top else if f = e4m3F then f.nanRes true else f.infRes n 0) ∧
    cvtFp8 f rm ftz nsat (.fin n 0 e) = f.zeroRes n ∧
    (m ≠ 0 → let low : Int := f.emin - f.fbits
      let q := max ((Nat.log2 m : Int) + e - f.fbits) low
      let t := (roundAt rm n m e false q).1 * 2 ^ (q - low).toNat
      (t ≤ big → cvtFp8 f rm ftz nsat (.fin n m e) = f.finish rm ftz n m e false) ∧
      (big < t → cvtFp8 f rm ftz nsat (.fin n m e) = if nsat = false then ⟨top.bits, fSat ||| fInexact⟩
        else if f = e4m3F then ⟨f.nanBits, fOverflow ||| fInexact⟩ else f.infRes n (fOverflow ||| fInexact))) := by
  have hL : Largest f big := by
    rcases hf with ⟨rfl, rfl⟩ | ⟨rfl, rfl⟩
    exacts [largest_e4m3, largest_e5m2]
  have hieee : f.ieee = decide (f ≠ e4m3F) := by
    rcases hf with ⟨rfl, -⟩ | ⟨rfl, -⟩ <;> decide
  intro top
  refine ⟨rfl, ?_, rfl, fun hm => ⟨fun hle => ?_, fun hlt => ?_⟩⟩
  · cases nsat <;> simp [cvtFp8, hieee, top]
  · have hnot := mt (beyond_iff (rm := rm) (neg := n) (e := e) hL hm).mp (not_lt.mpr hle)
    simp only [cvtFp8, if_neg hm, if_neg hnot]
  · have hbeyond := (beyond_iff (rm := rm) (neg := n) (e := e) hL hm).mpr hlt
    simp only [cvtFp8, if_neg hm, if_pos hbeyond]
    cases nsat <;> simp [hieee, top]

/-! ### PW8 (R51 to R55) -/

/-- The entry nearest to a point, the lowest on a tie, of a rising list. -/
theorem foldl_nearest (dist : Nat → Nat) (es : List (Nat × Nat)) (b : Nat × Nat) (hb : ∀ p ∈ es, b.1 ≤ p.1)
    (hrise : es.Pairwise fun p q => p.1 ≤ q.1) :
    let r := es.foldl (fun best e => if dist e.1 < dist best.1 then e else best) b
    r ∈ b :: es ∧ ∀ p ∈ b :: es, dist r.1 ≤ dist p.1 ∧ (dist r.1 = dist p.1 → r.1 ≤ p.1) := by
  induction es generalizing b with
  | nil => simp
  | cons e es ih =>
    obtain ⟨he, hrise⟩ := List.pairwise_cons.mp hrise
    have hbe : b.1 ≤ e.1 := hb e (List.mem_cons_self ..)
    rw [List.foldl_cons]
    by_cases hlt : dist e.1 < dist b.1
    · rw [if_pos hlt]
      obtain ⟨hmem, hmin⟩ := ih e he hrise
      refine ⟨List.mem_cons_of_mem _ hmem, fun p hp => ?_⟩
      rcases List.mem_cons.mp hp with rfl | hp
      · have := (hmin e (List.mem_cons_self ..)).1
        omega
      · exact hmin p hp
    · rw [if_neg hlt]
      obtain ⟨hmem, hmin⟩ := ih b (fun p hp => hb p (List.mem_cons_of_mem _ hp)) hrise
      refine ⟨by simp only [List.mem_cons] at hmem ⊢; tauto, fun p hp => ?_⟩
      simp only [List.mem_cons] at hp
      rcases hp with rfl | rfl | hp
      · exact hmin p (List.mem_cons_self ..)
      · have := hmin b (List.mem_cons_self ..)
        omega
      · exact hmin p (List.mem_cons_of_mem _ hp)

/-- What the table of codes gives (R55), 0 with it. -/
theorem pw8Table_codes : ∀ p ∈ (0, 0) :: pw8Table, ∀ n : Bool, pw8Signed n p.2 < 256 ∧
    pw8Decode (pw8Signed n p.2) = (if n then -(p.1 : Int) else p.1) ∧ (p.1 = 0 → pw8Signed n p.2 = 0) := by decide +kernel

/-- Every code's magnitude is in the table. -/
theorem pw8Table_complete : ∀ x < 256, ∃ p ∈ (0, 0) :: pw8Table, p.1 = (pw8Decode x).natAbs := by decide +kernel

theorem pw8Table_rising : pw8Table.Pairwise fun p q => p.1 ≤ q.1 := by decide +kernel

theorem pw8Nearest_spec (num den : Nat) : let dist (v : Nat) : Nat := ((v * den : Int) - num).natAbs
    let r := pw8Nearest num den
    r ∈ (0, 0) :: pw8Table ∧ ∀ p ∈ (0, 0) :: pw8Table, dist r.1 ≤ dist p.1 ∧ (dist r.1 = dist p.1 → r.1 ≤ p.1) := by
  intro dist r
  have hdist : (fun v => if v * den ≤ num then num - v * den else v * den - num) = dist := by
    funext v
    simp only [dist]
    rw [← Nat.cast_mul]
    split <;> omega
  have hr : r = pw8Table.foldl (fun best e => if dist e.1 < dist best.1 then e else best) (0, 0) := by
    rw [← hdist]
    rfl
  rw [hr]
  exact foldl_nearest dist pw8Table (0, 0) (fun p _ => Nat.zero_le _) pw8Table_rising

/-- The distance of a signed value to a signed point is that of the magnitudes, or more. -/
theorem natAbs_distance_le (n : Bool) (z : Int) (num den : Nat) : let y : Int := if n then -(num : Int) else num
    ((z.natAbs * den : Int) - num).natAbs ≤ (z * den - y).natAbs ∧
      (z = (if n then -(z.natAbs : Int) else z.natAbs) → (z * den - y).natAbs = ((z.natAbs * den : Int) - num).natAbs) := by
  have hpos : 0 ≤ (z.natAbs : Int) * den := by positivity
  have hz : z * den = z.natAbs * den ∨ z * den = -(z.natAbs * den) := by
    rw [← neg_mul]
    exact z.natAbs_eq.imp (congrArg (· * (den : Int))) (congrArg (· * (den : Int)))
  refine ⟨?_, fun h => ?_⟩
  · cases n <;> simp only [Bool.false_eq_true, if_false, if_true] <;> omega
  · have h' := congrArg (· * (den : Int)) h
    cases n <;> simp only [Bool.false_eq_true, if_false, if_true, neg_mul] at h' ⊢ <;> omega

/-- The nearest code value, the smaller on a tie (R54). -/
theorem pw8Encode_near (n : Bool) (m : Nat) (e : Int) :
    let num := m * 2 ^ e.toNat
    let den := 2 ^ (-e).toNat
    let y : Int := if n then -(num : Int) else num
    let r := pw8Encode (.fin n m e)
    num ≤ 128 * den → r.bits < 256 ∧ r.flags = (if pw8Decode r.bits * den = y then 0 else fInexact) ∧
      (pw8Decode r.bits = 0 → r.bits = 0) ∧
      ∀ x < 256, (pw8Decode r.bits * den - y).natAbs ≤ (pw8Decode x * den - y).natAbs ∧
        ((pw8Decode r.bits * den - y).natAbs = (pw8Decode x * den - y).natAbs →
          (pw8Decode r.bits).natAbs ≤ (pw8Decode x).natAbs) := by
  intro num den y r hle
  obtain ⟨hmem, hmin⟩ := pw8Nearest_spec num den
  set b := pw8Nearest num den with hb
  obtain ⟨hbits, hdec, hzero⟩ := pw8Table_codes b hmem n
  have hr : r = ⟨pw8Signed n b.2, flagIf (b.1 * den != num) fInexact⟩ := if_neg (not_lt.mpr hle)
  have habs : (pw8Decode (pw8Signed n b.2)).natAbs = b.1 := by
    rw [hdec]
    cases n <;> simp
  have hnear : (pw8Decode (pw8Signed n b.2) * den - y).natAbs = ((b.1 * den : Int) - num).natAbs := by
    rw [(natAbs_distance_le n _ num den).2 (by rw [habs, hdec]), habs]
  rw [hr]
  refine ⟨hbits, ?_, fun h => hzero (by rw [← habs, h]; rfl), fun x hx => ?_⟩
  · have hexact : b.1 * den = num ↔ pw8Decode (pw8Signed n b.2) * den = y := by
      rw [← sub_eq_zero (b := y), ← Int.natAbs_eq_zero, hnear, Int.natAbs_eq_zero, sub_eq_zero]
      norm_cast
    simp only [flagIf, bne_iff_ne, ne_eq, hexact, ite_not]
  · obtain ⟨p, hp, hpx⟩ := pw8Table_complete x hx
    obtain ⟨hfar, htie⟩ := hmin p hp
    have hx : ((p.1 * den : Int) - num).natAbs ≤ (pw8Decode x * den - y).natAbs := by
      rw [hpx]
      exact (natAbs_distance_le n (pw8Decode x) num den).1
    rw [hnear, habs, ← hpx]
    exact ⟨hfar.trans hx, fun h => htie (le_antisymm hfar (hx.trans h.ge))⟩

theorem pw8Decode_eq {x : Nat} (hx : x < 256) :
    pw8Decode x = (if x / 16 % 8 = 0 then 0 else (if x / 128 = 1 then -1 else 1) * 2 ^ (x / 16 % 8 - 1)) +
      (if x % 8 = 0 then 0 else (if x / 8 % 2 = 1 then -1 else 1) * 2 ^ (x % 8 - 1)) := by
  have hterm (s c : Nat) : pw8Term s c = if c = 0 then 0 else (if s = 1 then -1 else 1) * 2 ^ (c - 1) := by
    unfold pw8Term
    split_ifs <;> simp
  rw [pw8Decode, hterm, hterm, Nat.mod_eq_of_lt (show x / 128 < 2 by omega)]

theorem pw8Encode_examples : ∀ p ∈ [(3, 0x21), (7, 0x49), (12, 0x43), (14, 0x5A), (15, 0x59), (28, 0x6B), (31, 0x69),
    (48, 0x65), (56, 0x7C), (60, 0x7B), (63, 0x79), (64, 0x70), (128, 0x77)], pw8Encode (.ofInt p.1) = ⟨p.2, 0⟩ := by
  decide +kernel

/-! ### Elements (R206) -/

theorem value_of_ffmt {src : Fmt} {f : FFmt} (h : src.ffmt = some f) (x : Nat) :
    src.value x = f.decode x ∧ f.width = 8 * src.size := by
  cases src <;> cases h <;> exact ⟨rfl, rfl⟩

theorem isSig_value_of_integer {src : Fmt} (h : src.ffmt = none) (x : Nat) : (src.value x).isSig = false := by
  cases src <;> first | rfl | cases h

/-- An element of the same format is copied. -/
theorem cvtElem_same {dst src : Fmt} (rm : RMode) (ftz nsat : Bool) (x : Nat) (h : dst = src) (hpw : dst ≠ .pw8) :
    cvtElem dst src rm ftz nsat x =
      if (src.value x).isSig then ((src.ffmt.map fun f => f.nanRes true).getD ⟨0, 0⟩) else ⟨x % 2 ^ (8 * src.size), 0⟩ := by
  simp only [cvtElem, if_pos (And.intro h hpw)]
  cases hf : src.ffmt with
  | none => rw [isSig_value_of_integer hf]; rfl
  | some f =>
    obtain ⟨hval, hwidth⟩ := value_of_ffmt hf x
    rw [hval, ← hwidth]
    rfl

theorem cvtElem_other {dst src : Fmt} (rm : RMode) (ftz nsat : Bool) (x : Nat) (h : dst ≠ src ∨ dst = .pw8) :
    cvtElem dst src rm ftz nsat x = cvtValue dst rm ftz nsat (match src.ffmt with
      | some f => (src.value x).flush f ftz
      | none => src.value x) := by
  have hnot : ¬ (dst = src ∧ dst ≠ .pw8) := by tauto
  exact if_neg hnot

/-! ### The instructions (R205) -/

theorem packRes_bits (r0 r1 : FRes) :
    BitVec.ofNat 32 (packRes r0 r1).bits = (BitVec.ofNat 16 r1.bits ++ BitVec.ofNat 16 r0.bits : W32) := by
  refine BitVec.eq_of_toNat_eq ?_
  have hlow : r0.bits % 2 ^ 16 < 2 ^ 16 := Nat.mod_lt _ (by decide)
  rw [BitVec.toNat_append, BitVec.toNat_ofNat, BitVec.toNat_ofNat, BitVec.toNat_ofNat,
    ← Nat.shiftLeft_add_eq_or_of_lt hlow, Nat.shiftLeft_eq]
  simp only [packRes]
  omega

theorem laneCvtpk_eq (x : LCvtpk) (i : LaneIn) (s : State) :
    let r0 := cvtElem x.dst x.src x.rm x.ftz x.nsat (elemOf x.src i.a0 0)
    let r1 := cvtElem x.dst x.src x.rm x.ftz x.nsat (elemOf x.src i.b0 0)
    let two : BitVec 16 := BitVec.ofNat 8 r1.bits ++ BitVec.ofNat 8 r0.bits
    laneCvtpk x i s = .ok s (out1 x.vd
      (if x.dst.size = 2 then BitVec.ofNat 16 r1.bits ++ BitVec.ofNat 16 r0.bits
       else if x.pair then two ++ i.c0.extractLsb' 0 16 else i.c0.extractLsb' 16 16 ++ two) (r0.flags ||| r1.flags)) := by
  intro r0 r1 two
  by_cases hsize : x.dst.size = 2
  · simp only [laneCvtpk, laneFl, if_pos hsize, packRes_bits]
    rfl
  · simp only [laneCvtpk, laneFl, if_neg hsize, BitVec.ofNat_toNat, BitVec.setWidth_eq]
    rfl

/-- Settles O31: each instruction's meaning is the conversions stated; the conversions by their operands. -/
theorem laneConversions : Obligations.LaneConversions := by
  unfold Obligations.LaneConversions
  refine ⟨fun x => laneGives_of (fun _ => rfl) fun i s => rfl, fun x => laneGives_of (fun _ => rfl) (laneCvtpk_eq x),
    fun x => laneGives_of (fun _ => rfl) fun i s => rfl, fun x => laneGives_of (fun _ => rfl) fun i s => rfl,
    fun x => laneGives_of (fun _ => rfl) fun i s => rfl,
    fun dst src rm ftz nsat x => ⟨cvtElem_same rm ftz nsat x, fun h => ?_⟩, fun x hx => ?_,
    fun w lo hi rm n m e => cvtInt_spec w lo hi rm n m e,
    fun f big rm ftz nsat n g m e => cvtFp8_spec rm ftz nsat n g m e, fun g n => ⟨rfl, by cases n <;> rfl⟩,
    fun n m e => ⟨fun hbig => ?_, pw8Encode_near n m e⟩, pw8Encode_examples⟩
  · intro v
    have hother := cvtElem_other rm ftz nsat x h
    refine ⟨?_, ?_, ?_, ?_, fun f hf h8 => ?_, fun f hf hwide => ?_⟩
    · rintro rfl
      exact hother
    · rintro rfl
      exact hother
    · rintro rfl
      exact hother
    · rintro rfl
      exact hother
    · rcases h8 with rfl | rfl <;> cases hf <;> exact hother
    · rcases hwide with rfl | rfl | rfl <;> cases hf <;> exact hother
  · refine ⟨congrArg FVal.ofInt ?_, congrArg FVal.ofInt ?_, rfl, pw8Decode_eq hx⟩
    · simp only [toSigned]
      split_ifs <;> omega
    · omega
  · cases n <;> exact if_pos hbig

end Sys2Proof
end

section
/-! O4: the words that spec/ writes out. -/

namespace Sys2Proof

-- The kernel runs the decoders here, with nothing left to check before them: what stands below is then elaborated
-- after what stands above, and not beside it, which the memory of one compile of the whole text allows for.
set_option Elab.async false

/-- Settles O4: the decoders run on the words. -/
theorem decodedWords : Obligations.DecodedWords := by
  unfold Obligations.DecodedWords
  decide +kernel

end Sys2Proof
end

section
/-! O1: every tile instruction is read back from its encoding. A field placed in a wider one is read from its own place
alone; each operand shape is read back from its fields; the opcode maps name the row that the table of encodings
names. -/

namespace Sys2Proof
open Machine (RMode Fmt)

/-! ### A field placed in a wider one -/

theorem getLsbD_fld {n l k : Nat} (v : BitVec k) (i : Nat) :
    (fld n l v).getLsbD i = (decide (i < n) && decide (l ≤ i) && v.getLsbD (i - l)) := by
  simp only [fld, BitVec.getLsbD_shiftLeft, BitVec.getLsbD_setWidth]
  by_cases hi : i < n
  · by_cases hl : l ≤ i
    · simp [hi, hl, show i - l < n by omega, show ¬ i < l by omega]
    · simp [hl, show i < l by omega]
  · simp [hi]

/-- A field is read back from its own place. -/
@[simp] theorem extract_fld {n l k : Nat} (v : BitVec k) (h : l + k ≤ n) : (fld n l v).extractLsb' l k = v := by
  ext i hi
  rw [BitVec.getElem_extractLsb', getLsbD_fld]
  simp [show l + i < n by omega, hi]

@[simp] theorem extract_fld_above {n l k s m : Nat} (v : BitVec k) (h : l + k ≤ s) :
    (fld n l v).extractLsb' s m = 0#m := by
  ext i hi
  simp [getLsbD_fld, BitVec.getLsbD_of_ge v (s + i - l) (by omega)]

@[simp] theorem extract_fld_below {n l k s m : Nat} (v : BitVec k) (h : s + m ≤ l) :
    (fld n l v).extractLsb' s m = 0#m := by
  ext i hi
  simp [getLsbD_fld, show ¬ l ≤ s + i by omega]

@[simp] theorem extract_or {w : Nat} (x y : BitVec w) (s m : Nat) :
    (x ||| y).extractLsb' s m = x.extractLsb' s m ||| y.extractLsb' s m := by
  ext i hi
  simp

@[simp] theorem getElem_fld_bit1 {n l : Nat} (b : Bool) (h : l < n) : (fld n l (bit1 b))[l] = b := by
  rw [← BitVec.getLsbD_eq_getElem, getLsbD_fld]
  simp [bit1, h]

theorem getElem_fld_one {n l : Nat} (h : l < n) : (fld n l (1#1))[l] = true := getElem_fld_bit1 true h

@[simp] theorem getElem_fld_above {n l k i : Nat} (v : BitVec k) (h : l + k ≤ i) (hi : i < n) :
    (fld n l v)[i] = false := by
  rw [← BitVec.getLsbD_eq_getElem, getLsbD_fld]
  simp [BitVec.getLsbD_of_ge v (i - l) (by omega)]

@[simp] theorem getElem_fld_below {n l k i : Nat} (v : BitVec k) (h : i < l) (hi : i < n) :
    (fld n l v)[i] = false := by
  rw [← BitVec.getLsbD_eq_getElem, getLsbD_fld]
  simp [show ¬ l ≤ i by omega]

/-! ### Codes of modifiers -/

@[simp] theorem Cond.ofCode_code (c : Cond) : Cond.ofCode c.code = some c := by cases c <;> rfl
@[simp] theorem AtomOp.ofCode_code (c : AtomOp) : AtomOp.ofCode c.code = some c := by cases c <;> rfl
@[simp] theorem Scope.ofCode_code (c : Scope) : Scope.ofCode c.code = some c := by cases c <;> rfl
@[simp] theorem FenceKind.ofCode_code (c : FenceKind) : FenceKind.ofCode c.code = some c := by cases c <;> rfl

/-! ### The operands of each tile shape are read back from its fields (R70, R71) -/

@[simp] theorem opdKind_encL (v : Byte) : opdKind (encL v) = 3 := by
  simp [opdKind, encL, opdField, bits_append_above _ v 0 2]

@[simp] theorem getElem_encL (v : Byte) : (encL v)[0] = v[0] := by
  rw [← BitVec.getLsbD_eq_getElem, ← BitVec.getLsbD_eq_getElem]
  exact BitVec.getLsbD_append

theorem TAlu2.raw_fields (cls opc) (x : TAlu2) : TAlu2.raw (x.fields cls opc) = some x := by
  simp [TAlu2.raw, TAlu2.fields]

theorem TAlu1.raw_fields (cls opc) (x : TAlu1) : TAlu1.raw (x.fields cls opc) = some x := by
  simp [TAlu1.raw, TAlu1.fields]

theorem TMulh.raw_fields (cls opc) (x : TMulh) : TMulh.raw (x.fields cls opc) = some x := by
  simp [TMulh.raw, TMulh.fields]

theorem TAlu3.raw_fields (cls opc) (x : TAlu3) : TAlu3.raw (x.fields cls opc) = some x := by
  simp [TAlu3.raw, TAlu3.fields]

theorem TSel.raw_fields (cls opc) (x : TSel) : TSel.raw (x.fields cls opc) = some x := by
  simp [TSel.raw, TSel.fields]

theorem TCmp.raw_fields (cls opc) (x : TCmp) : TCmp.raw (x.fields cls opc) = some x := by
  simp [TCmp.raw, TCmp.fields]

theorem TPred2.raw_fields (cls opc) (x : TPred2) : TPred2.raw (x.fields cls opc) = some x := by
  simp [TPred2.raw, TPred2.fields]

theorem TPred1.raw_fields (cls opc) (x : TPred1) : TPred1.raw (x.fields cls opc) = some x := by
  simp [TPred1.raw, TPred1.fields]

theorem TLoad.raw_fields (cls opc) (x : TLoad) : TLoad.raw (x.fields cls opc) = some x := by
  simp [TLoad.raw, TLoad.fields]

theorem TStore.raw_fields (cls opc) (x : TStore) : TStore.raw (x.fields cls opc) = some x := by
  simp [TStore.raw, TStore.fields]

theorem TFence.raw_fields (cls opc) (x : TFence) : TFence.raw (x.fields cls opc) = some x := by
  simp [TFence.raw, TFence.fields]

theorem TLink.raw_fields (cls opc) (x : TLink) : TLink.raw (x.fields cls opc) = some x := by
  simp [TLink.raw, TLink.fields]

theorem TSrd.raw_fields (cls opc) (x : TSrd) : TSrd.raw (x.fields cls opc) = some x := by
  simp [TSrd.raw, TSrd.fields]

theorem TSwr.raw_fields (cls opc) (x : TSwr) : TSwr.raw (x.fields cls opc) = some x := by
  simp [TSwr.raw, TSwr.fields]

theorem TGth.raw_fields (cls opc) (x : TGth) : TGth.raw (x.fields cls opc) = some x := by
  simp [TGth.raw, TGth.fields]

theorem TSct.raw_fields (cls opc) (x : TSct) : TSct.raw (x.fields cls opc) = some x := by
  simp [TSct.raw, TSct.fields]

theorem TPft.raw_fields (cls opc) (x : TPft) : TPft.raw (x.fields cls opc) = some x := by
  simp [TPft.raw, TPft.fields]

theorem TMcast.raw_fields (cls opc) (x : TMcast) : TMcast.raw (x.fields cls opc) = some x := by
  simp [TMcast.raw, TMcast.fields]

theorem TBinit.raw_fields (cls opc) (x : TBinit) : TBinit.raw (x.fields cls opc) = some x := by
  simp [TBinit.raw, TBinit.fields]

theorem TBarv.raw_fields (cls opc) (x : TBarv) : TBarv.raw (x.fields cls opc) = some x := by
  simp [TBarv.raw, TBarv.fields]

theorem TBexp.raw_fields (cls opc) (x : TBexp) : TBexp.raw (x.fields cls opc) = some x := by
  simp [TBexp.raw, TBexp.fields]

theorem TBwait.raw_fields (cls opc) (x : TBwait) : TBwait.raw (x.fields cls opc) = some x := by
  simp [TBwait.raw, TBwait.fields]

theorem TBtry.raw_fields (cls opc) (x : TBtry) : TBtry.raw (x.fields cls opc) = some x := by
  simp [TBtry.raw, TBtry.fields]

theorem TPsett.raw_fields (cls opc) (x : TPsett) : TPsett.raw (x.fields cls opc) = some x := by
  simp [TPsett.raw, TPsett.fields]

theorem TLsupd.raw_fields (cls opc) (x : TLsupd) : TLsupd.raw (x.fields cls opc) = some x := by
  simp [TLsupd.raw, TLsupd.fields]

theorem TDqpush.raw_fields (cls opc) (x : TDqpush) : TDqpush.raw (x.fields cls opc) = some x := by
  simp [TDqpush.raw, TDqpush.fields]

theorem TTdesc.raw_fields (cls opc) (x : TTdesc) : TTdesc.raw (x.fields cls opc) = some x := by
  simp [TTdesc.raw, TTdesc.fields]

theorem TTget.raw_fields (cls opc) (x : TTget) : TTget.raw (x.fields cls opc) = some x := by
  simp [TTget.raw, TTget.fields]

theorem TBind.raw_fields (cls opc) (x : TBind) : TBind.raw (x.fields cls opc) = some x := by
  simp [TBind.raw, TBind.fields]

theorem TQsinit.raw_fields (cls opc) (x : TQsinit) : TQsinit.raw (x.fields cls opc) = some x := by
  simp [TQsinit.raw, TQsinit.fields]

theorem TCpyIn.raw_fields (cls opc) (x : TCpyIn) : TCpyIn.raw (x.fields cls opc) = some x := by
  simp [TCpyIn.raw, TCpyIn.fields]

theorem TCpyOut.raw_fields (cls opc) (x : TCpyOut) : TCpyOut.raw (x.fields cls opc) = some x := by
  simp [TCpyOut.raw, TCpyOut.fields]

theorem TCpyKk.raw_fields (cls opc) (x : TCpyKk) : TCpyKk.raw (x.fields cls opc) = some x := by
  simp [TCpyKk.raw, TCpyKk.fields]

theorem TRcpy.raw_fields (cls opc) (x : TRcpy) : TRcpy.raw (x.fields cls opc) = some x := by
  simp [TRcpy.raw, TRcpy.fields]

theorem TAtom.raw_fields (cls opc) (x : TAtom) (h : (x.op == .cas) = x.c.isSome) :
    TAtom.raw (x.fields cls opc) = some x := by
  obtain ⟨d, a, b, c, op, scope, w64, acq, rel⟩ := x
  cases c with
  | none =>
    have hop : op ≠ .cas := by simpa using h
    simp [TAtom.raw, TAtom.fields, hop]
  | some c =>
    obtain rfl : op = .cas := by simpa using h
    simp [TAtom.raw, TAtom.fields]

theorem TBr.raw_fields (cls opc) (x : TBr) : TBr.raw (x.fields cls opc) = some x := by
  simp [TBr.raw, TBr.fields]

theorem BoundWord.raw_fields (x : BoundWord) : BoundWord.raw x.fields = some x := by
  simp [BoundWord.raw, BoundWord.fields]

/-- The opcode bits that three of the copies add to MOD leave the operands. -/
theorem TCpyOut.raw_orMd (cls opc) (x : TCpyOut) (m : BitVec 2) :
    TCpyOut.raw ((x.fields cls opc).orMd (fld 14 8 m)) = some x := by
  simp [TCpyOut.raw, TCpyOut.fields, TileFields.orMd]

theorem TCpyKk.raw_orMd (cls opc) (x : TCpyKk) (m : BitVec 2) :
    TCpyKk.raw ((x.fields cls opc).orMd (fld 14 8 m)) = some x := by
  simp [TCpyKk.raw, TCpyKk.fields, TileFields.orMd]

theorem TRcpy.raw_orMd (cls opc) (x : TRcpy) (m : BitVec 1) :
    TRcpy.raw ((x.fields cls opc).orMd (fld 14 8 m)) = some x := by
  simp [TRcpy.raw, TRcpy.fields, TileFields.orMd]

/-! ### The opcode maps read every tile instruction back (R80 to R83) -/

/-- The second word of a class-11 pair; a word of another class is decoded with none. -/
def Instr.secondWord : Instr → W64
  | .lit x => x.v
  | .tdescl x => x.v
  | _ => 0

theorem map_of_raw {F α : Type} {raw : F → Option α} {f : F} {x : α} (mk : α → Instr) (h : raw f = some x) :
    (raw f).map mk = some (mk x) := by
  simp [h]

/-- An index beyond the engines' is a routine's (R81). -/
theorem rawClass01_routine {f : TileFields} (h : 9 ≤ f.opc.toNat) :
    rawClass01 f = (BoundWord.raw f).map .routineDispatch := by
  unfold rawClass01
  split <;> first | omega | rfl

theorem rawTile_of_tileFields {i : Instr} {f : TileFields} (h : tileFields i = some f) (hok : i.shapeOk = true) :
    rawTile f i.secondWord = some i := by
  cases i with
  | add x | sub x | mul x | mulh x | madd x | div x | divu x | rem x | remu x | tileAnd x | tileOr x | tileXor x
  | tileAndn x | tileShl x | tileShr x | tileSar x | min x | max x | minu x | maxu x | tileClz x | tilePopc x
  | tileMov x | tileSel x | cmp x | pand x | por x | pxor x | pnot x | lds x | sts x | tileLdk x | tileStk x
  | tileFence x | br x | tileCall x | loop x | srd x | swr x | gth x | sct x | pft x | mcast x | binit x | tileBarv x
  | bexp x | tileBwait x | tileBtry x | ppeek x | psett x | lsupd x | dqpush x | tdesc x | tget x | bind x | bindrd x
  | qsinit x =>
    cases h
    exact map_of_raw _ (x.raw_fields _ _)
  | atoms x =>
    cases h
    exact map_of_raw _ (x.raw_fields _ _ (by simpa [Instr.shapeOk] using hok))
  | jmp a | tileRet a | launch a =>
    cases h
    exact map_of_raw _ (SK.raw_enc a)
  | tileTrap a | safept a | pclose a | preset a =>
    cases h
    exact map_of_raw _ (SKL.raw_enc a)
  | eret | tileNop | taskEnd =>
    cases h
    rfl
  | mma x | accld x | accst x | accz x | tcvt x | qnt x | dqnt x | had x | perm x =>
    cases h
    obtain ⟨idx, d, a, b, c, md⟩ := x
    obtain ⟨rfl, -⟩ : idx = _ ∧ _ := by simpa [Instr.shapeOk] using hok
    exact map_of_raw _ (BoundWord.raw_fields _)
  | routineDispatch x =>
    cases h
    obtain ⟨hidx, -⟩ : 9 ≤ x.idx.toNat ∧ _ := by simpa [Instr.shapeOk] using hok
    exact (rawClass01_routine hidx).trans (map_of_raw _ x.raw_fields)
  | cpyIn x =>
    cases h
    simpa [rawTile, rawClass10, TCpyIn.fields] using x.raw_fields 0b10 0x00
  | cpyOut x =>
    cases h
    simpa [rawTile, rawClass10, TCpyOut.fields, TileFields.orMd] using x.raw_orMd 0b10 0x00 0b01
  | cpyKk x =>
    cases h
    simpa [rawTile, rawClass10, TCpyKk.fields, TileFields.orMd] using x.raw_orMd 0b10 0x00 0b10
  | rcpyPull x =>
    cases h
    simpa [rawTile, rawClass10, TRcpy.fields] using x.raw_fields 0b10 0x04
  | rcpyPush x =>
    cases h
    have hpush : ((x.fields 0b10 0x04).orMd (fld 14 8 1#1)).md.getLsbD 8 = true := by
      simp [TRcpy.fields, TileFields.orMd, getElem_fld_one]
    exact (if_pos hpush).trans (map_of_raw _ (x.raw_orMd _ _ _))
  | pread x =>
    cases h
    simpa [rawTile, rawClass10, TAlu2.fields] using x.raw_fields 0b10 0x12
  | preadHdr x =>
    cases h
    have hraw : TAlu2.raw ((x.fields 0b10 0x12).orMd 1) = some x := x.raw_fields 0b10 0x12
    have hhdr : ((x.fields 0b10 0x12).orMd 1).md.getLsbD 0 = true := by
      simp [TAlu2.fields, TileFields.orMd]
    exact (if_pos hhdr).trans (map_of_raw _ hraw)
  | lit x =>
    cases h
    exact map_of_raw _ (SK.raw_enc x.d)
  | tdescl x =>
    cases h
    simp [rawTile, rawClass11, Instr.secondWord]
  | _ => cases h

/-- Every tile instruction's opcode is assigned (R80 to R83). -/
theorem tileAssigned_of_tileFields {i : Instr} {f : TileFields} (h : tileFields i = some f) :
    tileAssigned f = true := by
  unfold tileFields at h
  split at h <;> cases h <;> rfl

/-! ### The tile decoder -/

theorem checkTile_of_tileFields {i : Instr} {f : TileFields} (h : tileFields i = some f) (hwf : i.wellFormed = true) :
    checkTile f i.secondWord = .ok i := by
  obtain ⟨hok, -⟩ : i.shapeOk = true ∧ _ := by simpa [Instr.wellFormed] using hwf
  exact checkTile_eq_ok_iff.mpr ⟨rawTile_of_tileFields h hok, hwf, h⟩

theorem decodeTile_word_one {f : TileFields} {i : Instr} (hopc : tileAssigned f = true) (hcls : f.cls ≠ 0b11)
    (hcheck : checkTile f 0 = .ok i) (w2 : Option W64) : decodeTile f.word w2 = .ok i := by
  simp only [decodeTile, TileFields.ofWord_word, hopc, if_neg hcls]
  exact hcheck

theorem decodeTile_word_pair {f : TileFields} {i : Instr} {v : W64} (hopc : tileAssigned f = true)
    (hcls : f.cls = 0b11) (hcheck : checkTile f v = .ok i) : decodeTile f.word (some v) = .ok i := by
  simp only [decodeTile, TileFields.ofWord_word, hopc, if_pos hcls]
  exact hcheck

theorem tileWords_eq (i : Instr) : i.tileWords = 1 ∧ i.secondWord = 0 ∨ i.tileWords = 2 := by
  cases i with
  | lit x | tdescl x => exact .inr rfl
  | _ => exact .inl ⟨rfl, rfl⟩

/-- Settles O1: the tables of encodings and of opcodes name the same row, and each operand shape is read back from its
fields. -/
theorem tileWordsDecodeBack : Obligations.TileWordsDecodeBack := by
  intro i f h hwf
  have hopc := tileAssigned_of_tileFields h
  have hcheck := checkTile_of_tileFields h hwf
  obtain ⟨h1, hv⟩ | h2 := tileWords_eq i
  · rw [hv] at hcheck
    have hcls : f.cls ≠ 0b11 := fun hcls => by
      obtain ⟨d, rfl⟩ | ⟨t, a, rfl⟩ := rawTile_of_cls_three hcls (checkTile_eq_ok_iff.mp hcheck).1 <;> cases h1
    exact ⟨f.word, [], encode_of_tileFields h h1, h1.symm, decodeTile_word_one hopc hcls hcheck⟩
  · have hcls := cls_of_tileWords_eq_two h h2
    exact ⟨f.word, [i.secondWord], encode_of_checkTile_pair hcheck hcls, h2.symm,
      fun _ => decodeTile_word_pair hopc hcls hcheck⟩

end Sys2Proof
end

section
/-! O2: every lane instruction is read back from its encoding, as the tile instructions are. -/

namespace Sys2Proof
open Machine (RMode Fmt)

/-! ### Codes and operands of lane words (R76, R193, R198, R205, R232) -/

@[simp] theorem RMode.ofCode_code (c : RMode) : RMode.ofCode c.code = some c := by cases c <;> rfl
@[simp] theorem FCond.ofCode_code (c : FCond) : FCond.ofCode c.code = some c := by cases c <;> rfl
@[simp] theorem RedOp.ofCode_code (c : RedOp) : RedOp.ofCode c.code = some c := by cases c <;> rfl

/-- A conversion names every format but the absent one. -/
theorem Fmt.ofCode4_code {f : Fmt} (h : f ≠ .none) : Fmt.ofCode4 f.code = some f := by
  cases f with
  | none => exact absurd rfl h
  | _ => rfl

@[simp] theorem fieldPred_predField (p : PredNo) : fieldPred (predField p) = p := by revert p; decide

@[simp] theorem fieldPred_predNegField (p : PredNo) (neg : Bool) : fieldPred (predNegField p neg) = p := by
  revert p neg; decide

@[simp] theorem fieldNeg_predNegField (p : PredNo) (neg : Bool) : fieldNeg (predNegField p neg) = neg := by
  revert p neg; decide

@[simp] theorem getElem_maskAll_all (m : Option LSrc) : (maskAll m)[17] = m.isNone := by
  cases m <;> simp [maskAll, getElem_fld_one]

@[simp] theorem getElem_maskAll (m : Option LSrc) {i : Nat} (h : i < 17) : (maskAll m)[i] = false := by
  cases m <;> simp [maskAll, h]

@[simp] theorem extract_maskAll (m : Option LSrc) {s n : Nat} (h : s + n ≤ 17) :
    (maskAll m).extractLsb' s n = 0#n := by
  cases m <;> simp [maskAll, h]

/-- The mask operand is the register of VC unless bit 17 says all (R232). -/
@[simp] theorem mask_read_back (m : Option LSrc) : (if m = none then none else some (maskField m)) = m := by
  cases m <;> simp [maskField]

/-- Operand B is the register of VB unless bit 17 says immediate (R76). -/
@[simp] theorem operandB_read_back (b : LB) :
    (if b.immBits[17] = true then .imm (b.immBits.extractLsb' 0 16) else .reg b.field) = b := by
  cases b <;> simp [LB.immBits, LB.field, getElem_fld_one]

@[simp] theorem getElem_immBits (b : LB) : b.immBits[16] = false := by
  cases b <;> simp [LB.immBits]

/-! ### The operands of each lane shape are read back from its fields (R74 to R76) -/

theorem LR1.raw_fields (maj min) (x : LR1) : LR1.raw (x.fields maj min) = some x := by
  simp [LR1.raw, LR1.fields]

theorem LBitfn.raw_fields (maj min) (x : LBitfn) : LBitfn.raw (x.fields maj min) = some x := by
  simp [LBitfn.raw, LBitfn.fields]

theorem LPermb.raw_fields (maj min) (x : LPermb) : LPermb.raw (x.fields maj min) = some x := by
  simp [LPermb.raw, LPermb.fields]

theorem LPredfn.raw_fields (maj min) (x : LPredfn) : LPredfn.raw (x.fields maj min) = some x := by
  simp [LPredfn.raw, LPredfn.fields]

theorem LPmovR.raw_fields (maj min) (x : LPmovR) : LPmovR.raw (x.fields maj min) = some x := by
  simp [LPmovR.raw, LPmovR.fields]

theorem LF1.raw_fields (maj min) (x : LF1) : LF1.raw (x.fields maj min) = some x := by
  simp [LF1.raw, LF1.fields]

theorem LF2.raw_fields (maj min) (x : LF2) : LF2.raw (x.fields maj min) = some x := by
  simp [LF2.raw, LF2.fields]

theorem LF3.raw_fields (maj min) (x : LF3) : LF3.raw (x.fields maj min) = some x := by
  simp [LF3.raw, LF3.fields]

theorem LFM.raw_fields (maj min) (x : LFM) : LFM.raw (x.fields maj min) = some x := by
  simp [LFM.raw, LFM.fields]

theorem LPk2.raw_fields (maj min) (x : LPk2) : LPk2.raw (x.fields maj min) = some x := by
  simp [LPk2.raw, LPk2.fields]

theorem LPk3.raw_fields (maj min) (x : LPk3) : LPk3.raw (x.fields maj min) = some x := by
  simp [LPk3.raw, LPk3.fields]

theorem LPkM.raw_fields (maj min) (x : LPkM) : LPkM.raw (x.fields maj min) = some x := by
  simp [LPkM.raw, LPkM.fields]

theorem LPwenc.raw_fields (maj min) (x : LPwenc) : LPwenc.raw (x.fields maj min) = some x := by
  simp [LPwenc.raw, LPwenc.fields]

theorem LPwdec.raw_fields (maj min) (x : LPwdec) : LPwdec.raw (x.fields maj min) = some x := by
  simp [LPwdec.raw, LPwdec.fields]

theorem LIdp4.raw_fields (maj min) (x : LIdp4) : LIdp4.raw (x.fields maj min) = some x := by
  simp [LIdp4.raw, LIdp4.fields]

theorem LFdp2.raw_fields (maj min) (x : LFdp2) : LFdp2.raw (x.fields maj min) = some x := by
  simp [LFdp2.raw, LFdp2.fields]

theorem LMovi.raw_fields (maj min) (x : LMovi) : LMovi.raw (x.fields maj min) = some x := by
  simp [LMovi.raw, LMovi.fields]

theorem LMovhi.raw_fields (maj min) (x : LMovhi) : LMovhi.raw (x.fields maj min) = some x := by
  simp [LMovhi.raw, LMovhi.fields]

theorem LSread.raw_fields (maj min) (x : LSread) : LSread.raw (x.fields maj min) = some x := by
  simp [LSread.raw, LSread.fields]

theorem LBra.raw_fields (maj min) (x : LBra) : LBra.raw (x.fields maj min) = some x := by
  simp [LBra.raw, LBra.fields]

theorem LBrx.raw_fields (maj min) (x : LBrx) : LBrx.raw (x.fields maj min) = some x := by
  simp [LBrx.raw, LBrx.fields]

theorem LCall.raw_fields (maj min) (x : LCall) : LCall.raw (x.fields maj min) = some x := by
  simp [LCall.raw, LCall.fields]

theorem LNone.raw_fields (maj min) (x : LNone) : LNone.raw (x.fields maj min) = some x := by
  simp [LNone.raw, LNone.fields]

theorem LLoad.raw_fields (maj min) (x : LLoad) : LLoad.raw (x.fields maj min) = some x := by
  simp [LLoad.raw, LLoad.fields]

theorem LStore.raw_fields (maj min) (x : LStore) : LStore.raw (x.fields maj min) = some x := by
  simp [LStore.raw, LStore.fields]

theorem LAtom.raw_fields (maj min) (x : LAtom) : LAtom.raw (x.fields maj min) = some x := by
  simp [LAtom.raw, LAtom.fields]

theorem LCas.raw_fields (maj min) (x : LCas) : LCas.raw (x.fields maj min) = some x := by
  simp [LCas.raw, LCas.fields]

theorem LFence.raw_fields (maj min) (x : LFence) : LFence.raw (x.fields maj min) = some x := by
  simp [LFence.raw, LFence.fields]

theorem LBarv.raw_fields (maj min) (x : LBarv) : LBarv.raw (x.fields maj min) = some x := by
  simp [LBarv.raw, LBarv.fields]

theorem LBwait.raw_fields (maj min) (x : LBwait) : LBwait.raw (x.fields maj min) = some x := by
  simp [LBwait.raw, LBwait.fields]

theorem LBtry.raw_fields (maj min) (x : LBtry) : LBtry.raw (x.fields maj min) = some x := by
  simp [LBtry.raw, LBtry.fields]

theorem LQend.raw_fields (maj min) (x : LQend) : LQend.raw (x.fields maj min) = some x := by
  simp [LQend.raw, LQend.fields]

theorem LDqpop.raw_fields (maj min) (x : LDqpop) : LDqpop.raw (x.fields maj min) = some x := by
  simp [LDqpop.raw, LDqpop.fields]

theorem LRng.raw_fields (maj min) (x : LRng) : LRng.raw (x.fields maj min) = some x := by
  simp [LRng.raw, LRng.fields]

theorem LMstep.raw_fields (maj min) (x : LMstep) : LMstep.raw (x.fields maj min) = some x := by
  simp [LMstep.raw, LMstep.fields]

theorem LTrap.raw_fields (maj min) (x : LTrap) : LTrap.raw (x.fields maj min) = some x := by
  simp [LTrap.raw, LTrap.fields]

theorem LXchg.raw_fields (maj min) (x : LXchg) : LXchg.raw (x.fields maj min) = some x := by
  simp [LXchg.raw, LXchg.fields, fieldMask, LaneFields.fieldMask]

theorem LXpick.raw_fields (maj min) (x : LXpick) : LXpick.raw (x.fields maj min) = some x := by
  simp [LXpick.raw, LXpick.fields, fieldMask, LaneFields.fieldMask]

theorem LPoll.raw_fields (maj min) (x : LPoll) : LPoll.raw (x.fields maj min) = some x := by
  simp [LPoll.raw, LPoll.fields, fieldMask, LaneFields.fieldMask]

theorem LRed.raw_fields (maj min) (x : LRed) : LRed.raw (x.fields maj min) = some x := by
  simp [LRed.raw, LRed.fields, fieldMask, LaneFields.fieldMask]

theorem LQpush.raw_fields (maj min) (x : LQpush) : LQpush.raw (x.fields maj min) = some x := by
  simp [LQpush.raw, LQpush.fields, fieldMask, LaneFields.fieldMask]

theorem LQpop.raw_fields (maj min) (x : LQpop) : LQpop.raw (x.fields maj min) = some x := by
  simp [LQpop.raw, LQpop.fields, fieldMask, LaneFields.fieldMask]

theorem LLmma.raw_fields (maj min) (x : LLmma) : LLmma.raw (x.fields maj min) = some x := by
  simp [LLmma.raw, LLmma.fields, fieldMask, LaneFields.fieldMask]

theorem LRI.raw_fields (maj min) (x : LRI) : LRI.raw (x.fields maj min) = some x := by
  simp [LRI.raw, LRI.fields, LaneFields.immB]

theorem LRI3.raw_fields (maj min) (x : LRI3) : LRI3.raw (x.fields maj min) = some x := by
  simp [LRI3.raw, LRI3.fields, LaneFields.immB]

theorem LSel.raw_fields (maj min) (x : LSel) : LSel.raw (x.fields maj min) = some x := by
  simp [LSel.raw, LSel.fields, LaneFields.immB]

theorem LFcmp.raw_fields (maj min) (x : LFcmp) : LFcmp.raw (x.fields maj min) = some x := by
  simp [LFcmp.raw, LFcmp.fields]

theorem LPmovP.raw_fields (maj min) (x : LPmovP) : LPmovP.raw (x.fields maj min) = some x := by
  simp [LPmovP.raw, LPmovP.fields]

theorem LIcmp.raw_fields (maj min) (x : LIcmp) : LIcmp.raw (x.fields maj min) = some x := by
  obtain ⟨h, pd, a, b, cond, p, pneg⟩ := x
  cases b <;> simp [LIcmp.raw, LIcmp.fields, getElem_fld_one]

theorem LCtradd.raw_fields (maj min) (x : LCtradd) : LCtradd.raw (x.fields maj min) = some x := by
  obtain ⟨h, vd, a, b⟩ := x
  cases b <;> simp [LCtradd.raw, LCtradd.fields, getElem_fld_one]

theorem LRep.raw_flds (maj min) (x : LRep) : LRep.raw (x.flds maj min) = some x := by
  obtain ⟨h, cnt, stride, fields⟩ := x
  cases cnt <;> simp [LRep.raw, LRep.flds, getElem_fld_one]

theorem cvtOk_formats {dst src : Fmt} {rm : RMode} {ftz nsat : Bool} (h : cvtOk dst src rm ftz nsat = true) :
    dst ≠ .none ∧ src ≠ .none := by
  simp only [cvtOk, Bool.and_eq_true, bne_iff_ne] at h
  exact ⟨h.1.1.1.1, h.1.1.1.2⟩

theorem LCvt.raw_fields (maj min) (x : LCvt) (h : cvtOk x.dst x.src x.rm x.ftz x.nsat = true) :
    LCvt.raw (x.fields maj min) = some x := by
  obtain ⟨hdst, hsrc⟩ := cvtOk_formats h
  simp [LCvt.raw, LCvt.fields, Fmt.ofCode4_code hdst, Fmt.ofCode4_code hsrc]

theorem LCvtunpk.raw_fields (maj min) (x : LCvtunpk) (h : cvtOk x.dst x.src x.rm x.ftz x.nsat = true) :
    LCvtunpk.raw (x.fields maj min) = some x := by
  obtain ⟨hdst, hsrc⟩ := cvtOk_formats h
  simp [LCvtunpk.raw, LCvtunpk.fields, Fmt.ofCode4_code hdst, Fmt.ofCode4_code hsrc]

theorem LCvtpk.raw_fields (maj min) (x : LCvtpk) (h : cvtOk x.dst x.src x.rm x.ftz x.nsat = true)
    (hc : (fmtBits x.dst == 8) = x.c.isSome) : LCvtpk.raw (x.fields maj min) = some x := by
  obtain ⟨hdst, hsrc⟩ := cvtOk_formats h
  have hmask : (if fmtBits x.dst = 8 then some (maskField x.c) else none) = x.c := by
    cases hx : x.c <;> simp_all [maskField]
  simp [LCvtpk.raw, LCvtpk.fields, Fmt.ofCode4_code hdst, Fmt.ofCode4_code hsrc, hmask]

theorem LMulh.raw_fields (maj min) (x : LMulh)
    (h : x.u = true → ∃ s, x.b = .reg s) : LMulh.raw (x.fields maj min) = some x := by
  obtain ⟨hd, vd, a, b, u⟩ := x
  have hu : (!b.immBits[17] && u) = u := by
    cases b with
    | reg s => simp [LB.immBits]
    | imm i => simpa [LB.immBits, getElem_fld_one] using h
  simp [LMulh.raw, LMulh.fields, LaneFields.immB, hu]

/-! ### The opcode maps read every lane instruction back (R85) -/

theorem rawLane_of_laneFields {i : Instr} {f : LaneFields} (h : laneFields i = some f) (hok : i.shapeOk = true) :
    rawLane f = some i := by
  cases i with
  | iadd x | isub x | imul x | imad x | iadd64 x | idiv x | idivu x | irem x | iremu x | imin x | imax x | iminu x
  | imaxu x | iabs x | ineg x | laneAnd x | laneOr x | laneXor x | laneAndn x | bitfn x | laneShl x | laneShr x
  | laneSar x | rotr x | lanePopc x | laneClz x | brev x | bfe x | bfi x | permb x | laneSel x | icmp x | fcmp x
  | predfn x | fadd x | fsub x | fmul x | ffma x | fmin x | fmax x | fdiv x | fsqrt x | frcp x | frsq x | fexp2 x
  | flog2 x | ftanh x | pkadd x | pkmul x | pkfma x | pkmin x | pkmax x | pwenc x | pwdec x | idp4 x | fdp2 x
  | laneMov x | movi x | movhi x | sread x | xpair x | xpick x | xback x | xfwd x | xone x | poll x | red x | bra x
  | brx x | laneCall x | exit x | yield x | laneNop x | ld x | st x | laneLdk x | laneStk x | ldp x | stp x | ldc x
  | atom x | atomcas x | laneFence x | laneBarv x | laneBwait x | laneBtry x | qpush x | qpop x | qcnt x | qend x
  | ltop x | lmma x | dqpop x | rng x | ctradd x | mstep x | laneTrap x | brk x =>
    cases h
    exact map_of_raw _ (x.raw_fields _ _)
  | imulh x =>
    cases h
    refine map_of_raw _ (x.raw_fields _ _ fun hu => ?_)
    cases hb : x.b with
    | reg s => exact ⟨s, rfl⟩
    | imm i => simp [Instr.shapeOk, hu, hb] at hok
  | cvt x =>
    cases h
    obtain ⟨hcvt, -⟩ : cvtOk x.dst x.src x.rm x.ftz x.nsat = true ∧ _ := by simpa [Instr.shapeOk] using hok
    exact map_of_raw _ (x.raw_fields _ _ hcvt)
  | cvtpk x =>
    cases h
    simp only [Instr.shapeOk, Bool.and_eq_true, beq_iff_eq] at hok
    obtain ⟨⟨⟨hcvt, -⟩, hc⟩, -⟩ := hok
    exact map_of_raw _ (x.raw_fields _ _ hcvt hc)
  | cvtunpk x =>
    cases h
    simp only [Instr.shapeOk, Bool.and_eq_true] at hok
    obtain ⟨⟨⟨hcvt, -⟩, -⟩, -⟩ := hok
    exact map_of_raw _ (x.raw_fields _ _ hcvt)
  | pmovToRegister x =>
    cases h
    simpa [rawLane, rawMajor03, LPmovR.fields] using x.raw_fields 0x03 3
  | pmovToPredicates x =>
    cases h
    have htp : (x.fields 0x03 3).imm.getLsbD 16 = true := by simp [LPmovP.fields, getElem_fld_one]
    exact (if_pos htp).trans (map_of_raw _ (x.raw_fields _ _))
  | laneRet x =>
    cases h
    simpa [rawLane, rawMajor0b, LBrx.fields] using x.raw_fields 0x0b 3
  | retTr x =>
    cases h
    simp [rawLane, rawMajor0b, LNone.fields, LNone.raw]
  | rep x =>
    cases h
    exact map_of_raw _ (x.raw_flds _ _)
  | _ => cases h

/-- Every lane instruction's opcode is assigned (R85). -/
theorem laneAssigned_of_laneFields {i : Instr} {f : LaneFields} (h : laneFields i = some f) :
    laneAssigned f = true := by
  unfold laneFields at h
  split at h <;> cases h <;> rfl

/-- Settles O2: the tables of encodings and of opcodes name the same row, and each operand shape is read back from its
fields. -/
theorem laneWordsDecodeBack : Obligations.LaneWordsDecodeBack := by
  intro i f h hwf
  obtain ⟨hok, -⟩ : i.shapeOk = true ∧ _ := by simpa [Instr.wellFormed] using hwf
  refine ⟨f.word, encode_of_laneFields h, decodeLane_eq_ok_iff.mpr ?_⟩
  rw [LaneFields.ofWord_word]
  exact ⟨laneAssigned_of_laneFields h, rawLane_of_laneFields h hok, hwf, h⟩

end Sys2Proof
end

section
/-! O11 and O12: the transfers of the sequencer (R110), to targets inside the tile code and outside it (R72). -/

namespace Sys2Proof
open Machine

/-! ### A checked transfer -/

theorem targetOk_eq_false {q : Seq} {a : W64} (h : ¬ InCode q a) : q.targetOk a = false :=
  Bool.eq_false_iff.mpr fun hok => h ((targetOk_iff q a).mp hok)

theorem jumpTo_inside {s : State} {a : W64} (h : InCode s.curCore.seq a) : jumpTo s.cur a s = tileGo a s :=
  if_pos ((targetOk_iff _ _).mpr h)

theorem jumpTo_outside {s : State} {a : W64} (h : ¬ InCode s.curCore.seq a) : jumpTo s.cur a s = illegalTile s.cur s :=
  if_neg (by simp [targetOk_eq_false h])

/-- ILLEGAL_TILE at the current instruction, as its trap. -/
theorem illegalTile_cur (s : State) : illegalTile s.cur s = takeTrap s.cur
    { kind := .illegalTile, cause := .illegalTile, epc := s.curCore.seq.pc, resume := s.curCore.seq.pc } s := rfl

/-! ### The transfers -/

theorem exec_br_not_taken {x : TBr} {s : State} (h : (s.curCore.seq.pred x.p ^^ x.sense) = false) :
    exec (.br x) s = .next (tileNext s) :=
  if_neg (Bool.eq_false_iff.mp h)

theorem exec_br_taken {x : TBr} {s : State} (h : (s.curCore.seq.pred x.p ^^ x.sense) = true) :
    exec (.br x) s = .next (jumpTo s.cur (s.curCore.seq.pc + 8 * x.disp.signExtend 64) s) :=
  if_pos h

theorem exec_jumpReg {a : SK} {s : State} (h : s.curCore.seq.pendingSK a = false) :
    exec (.jmp a) s = .next (jumpTo s.cur (a.val s.curCore.seq) s) ∧
      exec (.tileRet a) s = .next (jumpTo s.cur (a.val s.curCore.seq) s) := by
  have hjump : jumpReg a s = .next (jumpTo s.cur (a.val s.curCore.seq) s) := if_neg (by simp [h])
  exact ⟨hjump, hjump⟩

section
variable {x : TLink} {s : State} (hd : s.curCore.seq.pendingSK (.s x.d) = false)
include hd

theorem exec_tileCall_inside (h : InCode s.curCore.seq (s.curCore.seq.pc + 8 * x.disp.signExtend 64)) :
    exec (.tileCall x) s = .next (s.updSeq s.cur fun q => { q with
      s := q.s.set x.d.val (q.pc + 8), pc := q.pc + 8 * x.disp.signExtend 64, afterSafe := false }) := by
  change execTileCall x s = _
  simp only [execTileCall, hd, dispTarget, (targetOk_iff _ _).mpr h, Bool.false_eq_true, if_false, if_true]
  rfl

theorem exec_tileCall_outside (h : ¬ InCode s.curCore.seq (s.curCore.seq.pc + 8 * x.disp.signExtend 64)) :
    exec (.tileCall x) s = .next (illegalTile s.cur s) := by
  change execTileCall x s = _
  simp only [execTileCall, hd, dispTarget, targetOk_eq_false h, Bool.false_eq_true, if_false]

theorem exec_loop_last (hn : s.curCore.seq.s[x.d.val] = 1) :
    exec (.loop x) s = .next (s.updSeq s.cur fun q => { q with
      s := q.s.set x.d.val 0, pc := q.pc + 8, afterSafe := false }) := by
  change execLoop x s = _
  simp only [execLoop, hd, hn, Bool.false_eq_true, if_false]
  rfl

theorem exec_loop_inside (hn : s.curCore.seq.s[x.d.val] ≠ 1)
    (h : InCode s.curCore.seq (s.curCore.seq.pc + 8 * x.disp.signExtend 64)) :
    exec (.loop x) s = .next (s.updSeq s.cur fun q => { q with
      s := q.s.set x.d.val (q.s[x.d.val] - 1), pc := q.pc + 8 * x.disp.signExtend 64, afterSafe := false }) := by
  have hn' : s.curCore.seq.s[x.d.val] - 1 ≠ 0 := fun h0 => hn (sub_eq_zero.mp h0)
  change execLoop x s = _
  simp only [execLoop, hd, hn', dispTarget, (targetOk_iff _ _).mpr h, Bool.false_eq_true, if_false, if_true]
  rfl

theorem exec_loop_outside (hn : s.curCore.seq.s[x.d.val] ≠ 1)
    (h : ¬ InCode s.curCore.seq (s.curCore.seq.pc + 8 * x.disp.signExtend 64)) :
    exec (.loop x) s = .next (illegalTile s.cur s) := by
  have hn' : s.curCore.seq.s[x.d.val] - 1 ≠ 0 := fun h0 => hn (sub_eq_zero.mp h0)
  change execLoop x s = _
  simp only [execLoop, hd, hn', dispTarget, targetOk_eq_false h, Bool.false_eq_true, if_false]

end

theorem exec_eret_outside {s : State} (hr : s.curCore.seq.restart = none)
    (h : ¬ InCode s.curCore.seq s.curCore.seq.epc) : exec .eret s = .next (takeTrap s.cur
      { kind := .illegalTile, cause := .illegalTile, epc := s.curCore.seq.epc, resume := s.curCore.seq.epc } s) := by
  change execEret s = _
  simp only [execEret, hr]
  exact congrArg Host.Outcome.next (if_neg (by simp [targetOk_eq_false h]))

/-- Settles O11: each transfer is a checked jump, and the check passes. -/
theorem sequencerTransfers : Obligations.SequencerTransfers := by
  refine ⟨fun x s => ⟨exec_br_not_taken, fun ht hin => ?_⟩, fun a s ha hin => ?_, fun x s hd => ?_⟩
  · rw [exec_br_taken ht, jumpTo_inside hin]
  · rw [← jumpTo_inside hin]
    exact exec_jumpReg ha
  · exact ⟨exec_tileCall_inside hd, exec_loop_inside hd, exec_loop_last hd⟩

/-- Settles O12: the check of each transfer fails, which is ILLEGAL_TILE at it. -/
theorem badTargetsTrap : Obligations.BadTargetsTrap := by
  refine ⟨fun x s ht hout => ?_, fun a s ha hout => ?_, fun x s hd hout => ?_, fun s => exec_eret_outside⟩
  · rw [exec_br_taken ht, jumpTo_outside hout, illegalTile_cur]
  · rw [← illegalTile_cur, ← jumpTo_outside hout]
    exact exec_jumpReg ha
  · rw [← illegalTile_cur]
    exact ⟨exec_tileCall_outside hd hout, fun hn => exec_loop_outside hd hn hout⟩

end Sys2Proof
end

section
/-! O27: the integer, logic and bit instructions of the lanes (R194 to R197). -/

namespace Sys2Proof
open Machine

/-! ### Shifts and counts of bits at any width (R100, R195) -/

/-- A count at or beyond the width shifts everything out. -/
theorem shlAll_eq {w : Nat} (a b : BitVec w) : shlAll w a b = a <<< b.toNat := by
  unfold shlAll
  split
  next => rfl
  next h => exact (BitVec.shiftLeft_eq_zero (Nat.le_of_not_lt h)).symm

theorem shrAll_eq {w : Nat} (a b : BitVec w) : shrAll w a b = a >>> b.toNat := by
  unfold shrAll
  split
  next => rfl
  next h => exact (BitVec.ushiftRight_eq_zero (Nat.le_of_not_lt h)).symm

/-- An arithmetic shift is a division that rounds down. -/
theorem sarAll_eq {w : Nat} (a b : BitVec w) :
    sarAll w a b = BitVec.ofInt w (a.toInt / 2 ^ Nat.min b.toNat (w - 1)) := by
  refine BitVec.eq_of_toInt_eq ?_
  have hsar : (sarAll w a b).toInt = a.toInt / 2 ^ Nat.min b.toNat (w - 1) := by
    rw [sarAll, BitVec.toInt_sshiftRight, Int.shiftRight_eq_div_pow]
    norm_cast
  rw [← hsar, BitVec.ofInt_toInt]

theorem popOf_eq_countP {w : Nat} (a : BitVec w) (n : Nat) : popOf a n = (List.range n).countP a.getLsbD := by
  induction n with
  | zero => rfl
  | succ n ih =>
    rw [popOf, ih, List.range_succ, List.countP_append, List.countP_singleton, Nat.add_comm]

/-! ### The instructions -/

/-- A short instruction with one result register gives the value that its meaning has. -/
theorem laneGives_op1 {i : Instr} {d : RegNo} {f g : LaneIn → W32}
    (he : ∀ s, exec i s = .next (laneAll i (laneOp1 d f) s)) (hfg : ∀ x, f x = g x) :
    LaneGives i fun x => out1 d (g x) :=
  laneGives_of he fun x s => by rw [← hfg]; rfl

theorem laneClz_eq (a : W32) :
    BitVec.ofNat 32 (clzOf 32 a) = if a = 0 then 32 else BitVec.ofNat 32 (31 - Nat.log2 a.toNat) := by
  unfold clzOf
  split <;> rfl

/-- Settles O27: the shifts and the counts of bits by the lemmas about them; every other meaning is the value stated. -/
theorem laneIntegerAndLogic : Obligations.LaneIntegerAndLogic := by
  have hop {i : Instr} {d : RegNo} {f : LaneIn → W32} (he : ∀ s, exec i s = .next (laneAll i (laneOp1 d f) s)) :
      LaneGives i fun x => out1 d (f x) := laneGives_op1 he fun _ => rfl
  refine ⟨fun x => hop fun _ => rfl, fun x => hop fun _ => rfl, fun x => hop fun _ => rfl, fun x => hop fun _ => rfl,
    fun x => hop fun _ => rfl, fun x => laneGives_of (fun _ => rfl) fun i s => rfl, fun x => hop fun _ => rfl,
    fun x => hop fun _ => rfl, fun x => hop fun _ => rfl, fun x => hop fun _ => rfl, fun x => hop fun _ => rfl,
    fun x => hop fun _ => rfl, fun x => hop fun _ => rfl, fun x => hop fun _ => rfl, fun x => hop fun _ => rfl,
    fun x => hop fun _ => rfl, fun x => hop fun _ => rfl, fun x => ?shl, fun x => ?shr, fun x => ?sar,
    fun x => hop fun _ => rfl, fun x => ?popc, fun x => ?clz, fun x => hop fun _ => rfl, fun x => hop fun _ => rfl,
    fun x => hop fun _ => rfl, fun x => hop fun _ => rfl, fun x => hop fun _ => rfl⟩
  case shl => exact laneGives_op1 (fun _ => rfl) fun i => shlAll_eq _ _
  case shr => exact laneGives_op1 (fun _ => rfl) fun i => shrAll_eq _ _
  case sar => exact laneGives_op1 (fun _ => rfl) fun i => sarAll_eq _ _
  case popc => exact laneGives_op1 (fun _ => rfl) fun i => congrArg _ (popOf_eq_countP _ 32)
  case clz => exact laneGives_op1 (fun _ => rfl) fun i => laneClz_eq _

end Sys2Proof
end

section
/-! O5: what a turn of a sequencer, of a lane group and of the hardware runs (R69, R72, R84, R213, R214). -/

namespace Sys2Proof
open Machine

/-! ### The turn -/

theorem step_of_agenda {s : State} {dt : Nat} {turn : Turn} {rest : List AgendaEntry}
    (h : s.sched.agenda = ⟨dt, turn⟩ :: rest) :
    step s = capped ((s.setSched { s.sched with agenda := rest }).pass dt)
      (runMove (turnMove turn ((s.setSched { s.sched with agenda := rest }).pass dt))) := by
  have hnext : nextTurn s = (turn, (s.setSched { s.sched with agenda := rest }).pass dt) := by
    simp only [nextTurn, h]
  rw [step, hnext]

/-! ### The sequencer's turn -/

theorem fetch_inside {q : Seq} (h8 : q.pc.toNat % 8 = 0) (hlt : q.pc.toNat < 8 * q.code.length) :
    q.fetch = some (decodeTile (q.code.getD (q.pc.toNat / 8) 0) q.code[q.pc.toNat / 8 + 1]?) :=
  if_pos ⟨hlt, h8⟩

theorem fetch_outside {q : Seq} (h : ¬ (q.pc.toNat % 8 = 0 ∧ q.pc.toNat < 8 * q.code.length)) : q.fetch = none :=
  if_neg fun ⟨hlt, h8⟩ => h ⟨h8, hlt⟩

theorem nextFault_of_faulted_nil {k : Core} (h : k.faulted = []) : k.nextFault = none := by
  simp [Core.nextFault, h]

theorem codePoisoned_iff (k : Core) (i : Instr) :
    k.codePoisoned i = true ↔ ∃ j < i.tileWords, k.mem.codePoisoned (k.seq.pc.toNat / 8 + j) = true := by
  simp [Core.codePoisoned]

section
variable {s : State} {c : CoreNo} (hclock : (s.core c).health.clockStop = false)
  (hgated : (s.core c).health.gated = false) (hrun : (s.core c).seq.mode = .run) (hfault : (s.core c).faulted = [])
include hclock hgated hrun hfault

theorem seqMove_of_word {i : Instr} (h : (s.core c).seq.fetch = some (.ok i)) :
    seqMove c s = if (s.core c).codePoisoned i then .done (tileFault c .memoryError (s.core c).seq.pc s)
      else .run i (s.setSched { s.sched with cur := c }) := by
  simp [seqMove, hclock, hgated, hrun, nextFault_of_faulted_nil hfault, h]

theorem seqMove_of_undecoded {e : TileDecodeError} (h : (s.core c).seq.fetch = some (.error e)) :
    seqMove c s = .done (if (s.core c).mem.codePoisoned ((s.core c).seq.pc.toNat / 8)
      then tileFault c .memoryError (s.core c).seq.pc s else illegalTile c s) := by
  simp [seqMove, hclock, hgated, hrun, nextFault_of_faulted_nil hfault, h]

theorem seqMove_of_outside (h : (s.core c).seq.fetch = none) : seqMove c s = .done (illegalTile c s) := by
  simp [seqMove, hclock, hgated, hrun, nextFault_of_faulted_nil hfault, h]

end

/-! ### The turn of a lane group -/

theorem op_of_team? {k : Core} {op : Nat} {team : Team} (h : k.team? op = some team) : team.op = op := by
  simpa using List.find?_some h

theorem team?_of_nextTeam {k : Core} {g : Nat} {team : Team} (h : (k.nextTeam g).bind k.team? = some team) :
    k.team? team.op = some team := by
  obtain ⟨op, -, hteam⟩ := Option.bind_eq_some_iff.mp h
  rwa [op_of_team? hteam]

theorem rotate_perm {α : Type} (n : Nat) (xs : List α) : (rotate n xs).Perm xs := by
  conv_rhs => rw [← List.take_append_drop (n % xs.length) xs]
  exact List.perm_append_comm

theorem laneFetch_cached {t : TRef} {pc w : W64} {s : State} (h : s.laneWord t.c pc = some w) :
    laneFetch t pc s =
      if pc.toNat / 8 ∈ (s.core t.c).mem.lanePoison then .fail .memoryError else .word w s := by
  simp only [laneFetch, h, List.contains_iff_mem]

theorem laneFetch_translated {t : TRef} {pc : W64} {s : State} {th : Thread} {p : Phys}
    (hmiss : s.laneWord t.c pc = none) (hth : s.threadOf t = some th) (hpark : th.park = .none ∨ th.park = .retry)
    (htlb : (s.core t.c).tlbFind (s.core t.c).ctx pc .fetch = some p) (hpoison : s.dev.poisoned p.pa 8 = false) :
    laneFetch t pc s =
      .word (BitVec.ofNat 64 (s.dev.word p.pa 8)) (s.cacheWord t.c pc (BitVec.ofNat 64 (s.dev.word p.pa 8))) := by
  rcases hpark with hpark | hpark <;> simp [laneFetch, hmiss, hth, hpark, htlb, hpoison]

/-- What a lane group's turn hands over once it has fetched. -/
def issueSubset (c : CoreNo) (sub : List (Nat × Nat)) (u : State) : State :=
  u.choice.2.setSched { u.choice.2.sched with cur := c, issue := rotate u.choice.1 sub }

section
variable {c : CoreNo} {g : Fin 4} {s : State} {team : Team} {low : Nat} {sub : List (Nat × Nat)} {x : Nat × Nat}
  {th : Thread} {w : W64} {u : State} (hgated : (s.core c).health.gated = false)
  (hmoving : (s.core c).moving = true) (hteam : ((s.core c).nextTeam g.val).bind (s.core c).team? = some team)
  (hfair : (s.core c).expires team g.val = false) (hsub : (s.core c).currentSubset team g.val = some (low, sub))
  (hx : sub.find? (fun y => y.1 == low) = some x)
  (hth : (s.setCore c ((s.core c).takeTurn team.op g.val low)).threadOf ⟨c, x.1, x.2⟩ = some th)
  (hfetch : laneFetch ⟨c, x.1, x.2⟩ th.pc (s.setCore c ((s.core c).takeTurn team.op g.val low)) = .word w u)
include hgated hmoving hteam hfair hsub hx hth hfetch

theorem laneMove_of_word {i : Instr} (h : decodeLane w = .ok i) :
    laneMove c g s = .lanes i ⟨c, g.val, team.op, low, sub.map Prod.fst⟩ (issueSubset c sub u) := by
  simp [laneMove, hgated, hmoving, hteam, hfair, team?_of_nextTeam hteam, hsub, hx, hth, hfetch, h, issueSubset]

theorem laneMove_of_undecoded {e : LaneDecodeError} (h : decodeLane w = .error e) :
    laneMove c g s = .done (laneIllegal (issueSubset c sub u)) := by
  simp [laneMove, hgated, hmoving, hteam, hfair, team?_of_nextTeam hteam, hsub, hx, hth, hfetch, h, issueSubset]

end

/-- A group's turn issues what it has decoded. -/
theorem decodeLane_of_lanes {c : CoreNo} {g : Fin 4} {s v : State} {i : Instr} {n : Issue}
    (h : laneMove c g s = .lanes i n v) : ∃ w, decodeLane w = .ok i := by
  simp only [laneMove] at h
  split at h
  next => cases h
  split at h
  next => cases h
  split at h
  next => cases h
  split at h
  next => cases h
  split at h
  next => cases h
  split at h
  next => cases h
  next => cases h
  next w u _ =>
    split at h
    next j hj => cases h; exact ⟨w, hj⟩
    next => cases h

/-- Settles O5: what a turn runs is what its fetch and its decoder give, branch by branch. -/
theorem stepRunsTheDecodedInstruction : Obligations.StepRunsTheDecodedInstruction := by
  refine ⟨fun s dt turn rest hagenda => ?_, ?_⟩
  · rw [step_of_agenda hagenda]
    intro u
    refine ⟨?_, ?_, ?_⟩
    · rintro c rfl hclock hgated hrun hfault q
      refine ⟨fun i h8 hlt hdec => ?_, fun hout => ?_, fun e h8 hlt hdec hpoison => ?_⟩
      · have hmove := seqMove_of_word hclock hgated hrun hfault ((fetch_inside h8 hlt).trans (congrArg some hdec))
        refine ⟨fun hgood => ?_, fun hpoison => ?_⟩
        · rw [if_neg (mt (codePoisoned_iff _ _).mp hgood)] at hmove
          rw [turnMove, hmove, runMove]
        · rw [if_pos ((codePoisoned_iff _ _).mpr hpoison)] at hmove
          rw [turnMove, hmove, runMove]
      · rw [turnMove, seqMove_of_outside hclock hgated hrun hfault (fetch_outside hout), runMove]
      · have hmove :=
          seqMove_of_undecoded hclock hgated hrun hfault ((fetch_inside h8 hlt).trans (congrArg some hdec))
        rw [if_neg (Bool.eq_false_iff.mp hpoison)] at hmove
        rw [turnMove, hmove, runMove]
    · rintro c g i n v rfl hmove
      refine ⟨decodeLane_of_lanes hmove, fun t ht => ?_⟩
      rw [turnMove, hmove, runMove, ht]
    · rintro i rfl hstep
      rw [turnMove, if_pos hstep, runMove]
  · intro c g s team low sub x th w hgated hmoving hteam hfair hsub hx u hth u' hu v
    have hfetch : laneFetch ⟨c, x.1, x.2⟩ th.pc u = .word w u' := by
      obtain ⟨hcached, hgood, rfl⟩ | ⟨⟨hmiss, hpark⟩, p, htlb, hgood, rfl, rfl⟩ := hu
      · rw [laneFetch_cached hcached, if_neg hgood]
      · exact laneFetch_translated hmiss hth hpark htlb hgood
    exact ⟨fun i => laneMove_of_word hgated hmoving hteam hfair hsub hx hth hfetch,
      fun e => laneMove_of_undecoded hgated hmoving hteam hfair hsub hx hth hfetch, rotate_perm _ _⟩

end Sys2Proof
end

section
/-! O38: REP (R220, R221), and the issue of an instruction in one ready thread, whatever it answers. -/

namespace Sys2Proof
open Machine

/-! ### The issue of one instruction in a ready thread -/

/-- What the issue makes of a meaning's answer. -/
def answered (i : Instr) (t : TRef) : LaneOut → Issued
  | .ok s r => (false, s.onThread t fun th => th.retire i r)
  | .done s => (false, s)
  | .hold s => (true, s)
  | .fault s cause addr detail => (false, laneFault t cause addr detail s)
  | .lock s addr => laneLock t addr s

theorem laneBody_of_unpoisoned {i : Instr} {t : TRef} {th : Thread} {team : Team} {s : State} (f : LaneFn)
    (h : th.readsPoison i.sources = false) :
    laneBody i f t th team s = answered i t (f (laneIn i t th team s).1 (laneIn i t th team s).2) := by
  rw [Instr.sources] at h
  simp only [laneBody, h, Bool.false_eq_true, if_false]
  rfl

theorem any_budget_eq_false {i : Instr} {team : Team} (h : ∀ r ∈ i.use.named, r < team.entry.budget) :
    (i.use.named.any fun r => decide (team.entry.budget ≤ r)) = false :=
  List.any_eq_false.mpr fun r hr => by simpa using h r hr

theorem check_eq_none {i : Instr} {th : Thread} {team : Team}
    (h : team.entry.check = true → th.checkFault i = none) :
    (if team.entry.check then th.checkFault i else none) = none := by
  split_ifs with hcheck
  · exact h hcheck
  · rfl

theorem laneOne_of_ready {i : Instr} {t : TRef} {th : Thread} {team : Team} {s : State} (f : LaneFn)
    (h : LaneReady i t th team s) :
    laneOne i f t s = answered i t (f (laneIn i t th team s).1 (laneIn i t th team s).2) := by
  have hbudget := any_budget_eq_false (i := i) (team := team) fun r hr => by
    simpa using List.all_eq_true.mp h.budget r hr
  have hcheck := check_eq_none h.checks
  rw [← laneBody_of_unpoisoned f h.poison]
  cases hhead : i.laneHead with
  | none => simp [laneOne, h.hasThread, h.hasTeam, hbudget, hcheck, hhead, laneAwait, h.waits]
  | some x => simp [laneOne, h.hasThread, h.hasTeam, hbudget, hcheck, hhead, laneAwait, h.waits, h.guard x hhead]

/-- A false guard: once what an instruction that closes windows waits for is written, the thread passes on (R75). -/
theorem laneOne_of_false_guard {i : Instr} {t : TRef} {th : Thread} {team : Team} {s : State} {x : LHead} (f : LaneFn)
    (hth : s.threadOf t = some th) (hteam : (s.core t.c).team? th.team = some team)
    (hbudget : ∀ r ∈ i.use.named, r < team.entry.budget) (hhead : i.laneHead = some x)
    (hguard : x.holds th.p = false) (hsettled : i.closes = true → th.settled = true) :
    laneOne i f t s = (false, s.onThread t fun h => h.pass i) := by
  have hwait : (i.closes && !th.settled) = false := by
    cases hc : i.closes with
    | false => rfl
    | true => simp [hsettled hc]
  simp [laneOne, hth, hteam, any_budget_eq_false hbudget, hhead, hguard, hwait]

/-! ### The instructions that may be repeated (R221) -/

/-- Issue of an instruction that may be repeated is issue by its meaning. -/
theorem exec_of_laneFnOf {i : Instr} {f : LaneFn} (h : laneFnOf i = some f) (s : State) :
    exec i s = .next (laneAll i f s) := by
  unfold laneFnOf at h
  split at h <;> cases h <;> rfl

/-! ### REP in one thread -/

/-- In a repetition, or with a true guard, REP first fetches the next word. -/
theorem repOne_fetches {x : LRep} {th : Thread} (h : th.rep.isSome = true ∨ x.h.holds th.p = true) :
    ¬ ((th.rep.isNone && x.h.holds th.p = false) = true) := by
  rcases h with h | h
  · obtain ⟨r, hr⟩ := Option.isSome_iff_exists.mp h
    simp [hr]
  · simp [h]

section
variable {x : LRep} {t : TRef} {th : Thread} {s : State} (hth : s.threadOf t = some th)
include hth

theorem repOne_of_false_guard (hrep : th.rep = none) (hguard : x.h.holds th.p = false) :
    repOne x t s = laneOne (.rep x) (fun _ s => .ok s {}) t s := by
  rw [repOne, hth]
  exact if_pos (by simp [hrep, hguard])

theorem repOne_of_wait {u : State} (h : th.rep.isSome = true ∨ x.h.holds th.p = true)
    (hfetch : laneFetch t (th.pc + 8) s = .wait u) : repOne x t s = (true, u) := by
  rw [repOne, hth]
  refine (if_neg (repOne_fetches h)).trans ?_
  rw [hfetch]

theorem repOne_of_fail {cause : Cause} (h : th.rep.isSome = true ∨ x.h.holds th.p = true)
    (hfetch : laneFetch t (th.pc + 8) s = .fail cause) :
    repOne x t s = (false, laneFault t cause (th.pc + 8) 0 s) := by
  rw [repOne, hth]
  refine (if_neg (repOne_fetches h)).trans ?_
  rw [hfetch]

theorem repOne_start {w : W64} {v : State} (hrep : th.rep = none) (hguard : x.h.holds th.p = true)
    (hfetch : laneFetch t (th.pc + 8) s = .word w v) : repOne x t s = laneOne (.rep x) (laneRepStart w x) t v := by
  rw [repOne, hth]
  refine (if_neg (repOne_fetches (.inr hguard))).trans ?_
  rw [hfetch, hrep]

theorem repOne_iterate {w : W64} {v : State} {r : Rep} (hrep : th.rep = some r)
    (hfetch : laneFetch t (th.pc + 8) s = .word w v) : repOne x t s = repIterate t w r v := by
  rw [repOne, hth]
  refine (if_neg (repOne_fetches (.inl (by simp [hrep])))).trans ?_
  rw [hfetch, hrep]

end

theorem repIterate_past {t : TRef} {w : W64} {r : Rep} {s : State} {base : Instr} (hdec : decodeLane w = .ok base)
    (h : repWord w base.use r = none) : repIterate t w r s = (false, laneFault t .budget 0 0 s) := by
  simp [repIterate, hdec, h]

theorem repIterate_formed {t : TRef} {w w' : W64} {r : Rep} {s : State} {base i : Instr} {f : LaneFn}
    (hdec : decodeLane w = .ok base) (h : repWord w base.use r = some w') (hdec' : decodeLane w' = .ok i)
    (hf : laneFnOf i = some f) : repIterate t w r s = laneOne i f t s := by
  simp [repIterate, hdec, h, hdec', hf]

/-! ### The formed word (R220) -/

/-- The step of `repWord` at one field, named or not. -/
def advanceField (r : Rep) (named : Bool) (at_ : Nat) (f : Option Fld) (acc : Option W64) : Option W64 :=
  if named then
    match acc, f with
    | some v, some b =>
      if 63 < b.r.val + r.j * r.stride then none else some (v + (BitVec.ofNat 64 (r.j * r.stride) <<< at_))
    | _, _ => none
  else acc

theorem repFields_eq (u : RegUse) (fields : BitVec 4) : repFields u fields =
    (if fields.getLsbD 0 then [(39, u.d)] else []) ++ (if fields.getLsbD 1 then [(33, u.a)] else []) ++
      (if fields.getLsbD 2 then [(26, u.b)] else []) ++ (if fields.getLsbD 3 then [(19, u.c)] else []) := by
  simp only [repFields, List.zipIdx_cons, List.zipIdx_nil, List.filterMap_cons, List.filterMap_nil]
  split_ifs <;> rfl

theorem repWord_eq (w : W64) (u : RegUse) (r : Rep) : repWord w u r =
    advanceField r (r.fields.getLsbD 3) 19 u.c (advanceField r (r.fields.getLsbD 2) 26 u.b
      (advanceField r (r.fields.getLsbD 1) 33 u.a (advanceField r (r.fields.getLsbD 0) 39 u.d (some w)))) := by
  simp only [repWord, repFields_eq, List.foldl_append, advanceField]
  split_ifs <;> rfl

@[simp] theorem advanceField_none (r : Rep) (named : Bool) (at_ : Nat) (f : Option Fld) :
    advanceField r named at_ f none = none := by
  cases named <;> rfl

theorem advanceField_past {r : Rep} {named : Bool} {at_ : Nat} {f : Option Fld}
    (h : named = true ∧ ∃ b, f = some b ∧ 63 < b.r.val + r.j * r.stride) (acc : Option W64) :
    advanceField r named at_ f acc = none := by
  obtain ⟨rfl, b, rfl, hpast⟩ := h
  cases acc with
  | none => rfl
  | some v => exact if_pos hpast

theorem advanceField_within {r : Rep} {named : Bool} {at_ : Nat} {f : Option Fld}
    (hsome : named = true → f.isSome = true)
    (h : ¬ (named = true ∧ ∃ b, f = some b ∧ 63 < b.r.val + r.j * r.stride)) (v : W64) :
    advanceField r named at_ f (some v) =
      some (v + if named then BitVec.ofNat 64 (r.j * r.stride) <<< at_ else 0) := by
  cases named with
  | false => exact congrArg some (BitVec.add_zero v).symm
  | true =>
    obtain ⟨b, rfl⟩ := Option.isSome_iff_exists.mp (hsome rfl)
    exact if_neg fun hpast => h ⟨rfl, b, rfl, hpast⟩

/-- What holds of every named field. -/
theorem forall_repFields {u : RegUse} {fields : BitVec 4} {P : Option Fld → Prop} :
    (∀ f ∈ repFields u fields, P f.2) ↔
      ∀ k : Fin 4, fields.getLsbD k.val = true → P ([u.d, u.a, u.b, u.c][k.val]) := by
  rw [repFields_eq]
  constructor
  · intro h k hk
    match k with
    | 0 => exact h (39, u.d) (by simpa using hk)
    | 1 => exact h (33, u.a) (by simpa using hk)
    | 2 => exact h (26, u.b) (by simpa using hk)
    | 3 => exact h (19, u.c) (by simpa using hk)
  · intro h f hf
    simp only [List.mem_append, List.mem_ite_nil_right, List.mem_singleton] at hf
    obtain ((⟨hk, rfl⟩ | ⟨hk, rfl⟩) | ⟨hk, rfl⟩) | ⟨hk, rfl⟩ := hf
    · exact h 0 hk
    · exact h 1 hk
    · exact h 2 hk
    · exact h 3 hk

theorem repOk_iff {w : W64} {x : LRep} : repOk w x = true ↔
    ∃ i, decodeLane w = .ok i ∧ (laneFnOf i).isSome = true ∧ ∀ k : Fin 4, x.fields.getLsbD k.val = true →
      ∃ f, [i.use.d, i.use.a, i.use.b, i.use.c][k.val] = some f ∧ x.stride.toNat % f.n = 0 := by
  unfold repOk
  cases hdec : decodeLane w with
  | error e => simp
  | ok i =>
    simp only [Bool.and_eq_true, List.all_eq_true, Except.ok.injEq, exists_eq_left']
    refine and_congr_right fun _ => Iff.trans (forall₂_congr fun f _ => ?_)
      (forall_repFields (P := fun f => ∃ b, f = some b ∧ x.stride.toNat % b.n = 0))
    obtain ⟨at_, f⟩ := f
    cases f <;> simp

/-! ### Iterations -/

theorem pass_of_rep {th : Thread} {x : Rep} (h : th.rep = some x) (i : Instr) :
    ((th.pass i).rep, (th.pass i).pc) =
      if x.j + 1 < x.n then (some { x with j := x.j + 1 }, th.pc) else (none, th.pc + 16) := by
  have hrep : (if i.closes then { th with pend := [] } else th).countWindows.rep = some x := by
    split <;> exact h
  have hpc : (if i.closes then { th with pend := [] } else th).countWindows.pc = th.pc := by
    split <;> rfl
  by_cases hj : x.j + 1 < x.n <;> simp [Thread.pass, Thread.next, hrep, hpc, hj]

/-- Settles O38: REP fetches first, then starts or forms one iteration; a formed word adds the step to each named
field. -/
theorem repeatPrefix : Obligations.RepeatPrefix := by
  refine ⟨fun x => ⟨repOne x, fun s => rfl, ?_, ?_, ?_, ?_⟩, fun t pc w s => laneFetch_cached, ?_,
    fun w x => repOk_iff, ?_⟩
  · intro t th team s w v hth hrep hguard hfetch hready l u n
    rw [repOne_start hth hrep hguard hfetch, laneOne_of_ready _ hready]
    refine ⟨fun hbad => ?_, fun hok hzero => ?_, fun hok hsome => ?_⟩
    · rw [laneRepStart, if_pos hbad]
      rfl
    · rw [laneRepStart, if_neg (by simp [hok]), if_pos hzero]
      rfl
    · rw [laneRepStart, if_neg (by simp [hok]), if_neg hsome]
      rfl
  · intro t th team s hth hteam hrep hbudget hguard hsettled
    rw [repOne_of_false_guard hth hrep hguard]
    exact laneOne_of_false_guard _ hth hteam hbudget rfl hguard fun _ => hsettled
  · exact fun t th s hth h => ⟨fun u => repOne_of_wait hth h, fun cause => repOne_of_fail hth h⟩
  · intro t th s v w r base hth hrep hfetch hdec
    rw [repOne_iterate hth hrep hfetch]
    refine ⟨repIterate_past hdec, fun w' i hform hdec' hmeaning => ?_⟩
    obtain ⟨f, hf⟩ := Option.isSome_iff_exists.mp hmeaning
    exact ⟨laneOne i f, exec_of_laneFnOf hf, repIterate_formed hdec hform hdec' hf⟩
  · intro w u r hsome add past
    rw [repWord_eq]
    refine ⟨fun ⟨k, hk⟩ => ?_, fun h => ?_⟩
    · match k with
      | 0 => rw [advanceField_past (named := r.fields.getLsbD 0) (f := u.d) hk]; simp
      | 1 => rw [advanceField_past (named := r.fields.getLsbD 1) (f := u.a) hk]; simp
      | 2 => rw [advanceField_past (named := r.fields.getLsbD 2) (f := u.b) hk]; simp
      | 3 => rw [advanceField_past (named := r.fields.getLsbD 3) (f := u.c) hk]
    · rw [advanceField_within (named := r.fields.getLsbD 0) (f := u.d) (hsome 0) (h 0),
        advanceField_within (named := r.fields.getLsbD 1) (f := u.a) (hsome 1) (h 1),
        advanceField_within (named := r.fields.getLsbD 2) (f := u.b) (hsome 2) (h 2),
        advanceField_within (named := r.fields.getLsbD 3) (f := u.c) (hsome 3) (h 3)]
      rfl
  · intro th v i res r hrep hv
    have hnext : (v.rep, v.pc) =
        if r.j + 1 < r.n then (some { r with j := r.j + 1 }, th.pc) else (none, th.pc + 16) := by
      rcases hv with rfl | rfl
      · exact retire_of_rep hrep i res
      · exact pass_of_rep hrep i
    refine ⟨fun hlt => ?_, fun hle => ?_⟩
    · rw [if_pos hlt] at hnext
      exact Prod.mk.injEq .. ▸ hnext
    · rw [if_neg (by omega)] at hnext
      exact Prod.mk.injEq .. ▸ hnext

end Sys2Proof
end

section
/-! O40: arrival at a collective (R232, R234). -/

namespace Sys2Proof
open Machine

/-! ### Registers with nothing outstanding -/

theorem owed_of_owing_nil {th : Thread} (h : th.owing = []) (r : RegNo) : th.owed r.val = none := by
  have hr := List.filter_eq_nil_iff.mp h r.val (List.mem_range.mpr r.isLt)
  simpa using hr

theorem readReg_of_settled {th : Thread} {r : Nat} (howed : th.owed r = none) (hfull : th.isFull r = true) (s : State) :
    readReg th r s = (th.reg r, s) := by
  simp [readReg, howed, hfull]

/-! ### The collectives -/

theorem exec_collective {k : CollIns} {m : Option LSrc} (hm : k.ins.collMask = some m) (s : State) :
    exec k.ins s = .next (subsetIssue (collOne k m) s) := by
  have hexec : exec k.ins s = .next (collAll k s) := by
    cases k <;> rfl
  rw [hexec, collAll, hm]

theorem closes_of_collMask {i : Instr} {m : Option LSrc} (h : i.collMask = some m) : i.closes = true := by
  unfold Instr.collMask at h
  split at h <;> first | rfl | cases h

/-- The mask operand is one of the registers that the instruction reads. -/
theorem collMask_eq {k : CollIns} {m : Option LSrc}
    (h : (∃ x, (k.ins = .xpair x ∨ k.ins = .xback x ∨ k.ins = .xfwd x ∨ k.ins = .xone x) ∧ m = x.m) ∨
      (∃ x, k.ins = .xpick x ∧ m = x.m) ∨ (∃ x, k.ins = .poll x ∧ m = x.m) ∨
      (∃ x, k.ins = .red x ∧ m = x.m) ∨ (∃ x, k.ins = .qpush x ∧ m = x.m) ∨
      (∃ x, k.ins = .qpop x ∧ m = x.m) ∨ (∃ x, k.ins = .lmma x ∧ m = x.m)) :
    k.ins.collMask = some m := by
  obtain ⟨x, h | h | h | h, rfl⟩ | ⟨x, h, rfl⟩ | ⟨x, h, rfl⟩ | ⟨x, h, rfl⟩ | ⟨x, h, rfl⟩ | ⟨x, h, rfl⟩ |
    ⟨x, h, rfl⟩ := h
  all_goals
    rw [h]
    rfl

/-! ### One thread at a collective -/

/-- The guard of an instruction in a thread. -/
def guardOf (i : Instr) (th : Thread) : Bool :=
  match i.laneHead with
  | some h => h.holds th.p
  | none => true

/-- The mask that a thread brings. -/
def collMaskOf (m : Option LSrc) (th : Thread) : W32 :=
  match m with
  | some x => th.reg x.r.val
  | none => 0xFFFFFFFF

/-- What a thread does at a collective once its mask is read. -/
def collArrive (k : CollIns) (mask : W32) (t : TRef) (th : Thread) (team : Team) (s : State) : Issued :=
  let i := k.ins
  let guard := guardOf i th
  if mask.getLsbD (t.lane % 32) = false then
    (false, s.onThread t fun th => (if guard then th.release { c := i.use.c } else th).pass i)
  else
    let check := if team.entry.check then th.checkFault i else none
    match if guard then check.or (if th.readsPoison i.sources then some .memoryError else none) else none with
    | some cause => (false, laneFault t cause 0 0 s)
    | none =>
      let v := if guard then arrivalValues i th (s.readStatus t th i.sources) else ((0, []), s)
      let arr : Arrival := { op := k, mask := mask, contrib := guard, a := v.1.1, b := v.1.2.headD 0,
                             vals := v.1.2, pc := th.pc }
      (false, (v.2.release t.c t.agent .core).onThread t fun th =>
        { th with wait := .coll arr, pend := [] })

section
variable {k : CollIns} {m : Option LSrc} {t : TRef} {th : Thread} {team : Team} {s : State}
  (hth : s.threadOf t = some th) (hteam : (s.core t.c).team? th.team = some team)
  (hbudget : ∀ r ∈ k.ins.use.named, r < team.entry.budget) (hwaits : th.awaits k.ins = [])
include hth hteam hbudget hwaits

theorem collOne_mask_empty (hguard : guardOf k.ins th = true) (hcheck : team.entry.check = true)
    (hempty : ∃ x, m = some x ∧ th.isFull x.r.val = false) :
    collOne k m t s = (false, laneFault t .emptyRead 0 0 s) := by
  obtain ⟨x, rfl, hx⟩ := hempty
  have hcond : (guardOf k.ins th && team.entry.check && !th.isFull x.r.val) = true := by simp [hguard, hcheck, hx]
  simp only [collOne, hth, hteam, any_budget_eq_false hbudget, laneAwait, hwaits, List.isEmpty_nil, if_true,
    Bool.false_eq_true, if_false]
  exact if_pos hcond

theorem collOne_mask_poisoned (hfull : ∀ x, m = some x → th.isFull x.r.val = true)
    (hpoison : ∃ x, m = some x ∧ th.readsPoison [x.r.val] = true) :
    collOne k m t s = (false, laneFault t .memoryError 0 0 s) := by
  obtain ⟨x, rfl, hx⟩ := hpoison
  simp [collOne, hth, hteam, any_budget_eq_false hbudget, laneAwait, hwaits, hfull x rfl, hx]

theorem collOne_mask_read (hclose : k.ins.closes = true)
    (hread : ∀ x, m = some x → th.isFull x.r.val = true ∧ th.readsPoison [x.r.val] = false) :
    collOne k m t s = collArrive k (collMaskOf m th) t th team s := by
  have howing : th.owing = [] := by simpa [Thread.awaits, hclose] using hwaits
  cases m with
  | none =>
    simp only [collOne, hth, hteam, any_budget_eq_false hbudget, laneAwait, hwaits, List.isEmpty_nil, if_true,
      Bool.and_false, Bool.false_eq_true, if_false]
    rfl
  | some x =>
    obtain ⟨hfull, hgood⟩ := hread x rfl
    simp only [collOne, hth, hteam, any_budget_eq_false hbudget, laneAwait, hwaits, List.isEmpty_nil, if_true,
      hfull, hgood, readReg_of_settled (owed_of_owing_nil howing x.r) hfull, Bool.not_true, Bool.and_false,
      Bool.false_eq_true, if_false]
    rfl

end

section
variable {k : CollIns} {mask : W32} {t : TRef} {th : Thread} {team : Team} {s : State}

theorem collArrive_outside (h : mask.getLsbD (t.lane % 32) = false) : collArrive k mask t th team s =
    (false, s.onThread t fun u => (if guardOf k.ins th then u.release { c := k.ins.use.c } else u).pass k.ins) :=
  if_pos h

variable (hin : mask.getLsbD (t.lane % 32) = true)
include hin

theorem collArrive_check {cause : Cause} (hguard : guardOf k.ins th = true) (hcheck : team.entry.check = true)
    (hcause : th.checkFault k.ins = some cause) :
    collArrive k mask t th team s = (false, laneFault t cause 0 0 s) := by
  simp [collArrive, hin, hguard, hcheck, hcause]

theorem collArrive_poisoned (hguard : guardOf k.ins th = true)
    (hcheck : team.entry.check = true → th.checkFault k.ins = none) (hpoison : th.readsPoison k.ins.sources = true) :
    collArrive k mask t th team s = (false, laneFault t .memoryError 0 0 s) := by
  simp [collArrive, hin, hguard, check_eq_none hcheck, hpoison]

/-- A member that no check stops arrives with its values and waits. -/
theorem collArrive_arrives (h : guardOf k.ins th = true →
      (team.entry.check = true → th.checkFault k.ins = none) ∧ th.readsPoison k.ins.sources = false) :
    let v := if guardOf k.ins th then arrivalValues k.ins th (s.readStatus t th k.ins.sources) else ((0, []), s)
    collArrive k mask t th team s = (false, (v.2.release t.c t.agent .core).onThread t fun h => { h with
      pend := [],
      wait := .coll { op := k, mask := mask, contrib := guardOf k.ins th, a := v.1.1, b := v.1.2.headD 0,
                      vals := v.1.2, pc := th.pc } }) := by
  cases hguard : guardOf k.ins th with
  | false => simp [collArrive, hin, hguard]
  | true =>
    obtain ⟨hcheck, hgood⟩ := h hguard
    simp [collArrive, hin, hguard, check_eq_none hcheck, hgood]

end

/-- Settles O40: the mask operand is read first; then a thread outside it passes, and a member arrives unless a check
stops it. -/
theorem collectivesArrive : Obligations.CollectivesArrive := by
  refine ⟨fun k m => ?_, fun i th s => ?_⟩
  · intro i hm
    have hmask : i.collMask = some m := collMask_eq hm
    have hclose := closes_of_collMask hmask
    refine ⟨collOne k m, exec_collective hmask, fun t th team s hth hteam hbudget hwaits => ?_⟩
    have hread := fun hfull => collOne_mask_read (m := m) hth hteam hbudget hwaits hclose hfull
    refine ⟨collOne_mask_empty hth hteam hbudget hwaits, collOne_mask_poisoned hth hteam hbudget hwaits,
      fun hfull hout => (hread hfull).trans (collArrive_outside hout), fun hfull hin => ?_⟩
    rw [hread hfull]
    exact ⟨fun cause => collArrive_check hin, collArrive_poisoned hin, collArrive_arrives hin⟩
  · refine ⟨?_, fun hi => ?_⟩
    · rintro x rfl
      rfl
    · unfold arrivalValues
      split
      next x => exact absurd rfl (hi x)
      next => rfl

end Sys2Proof
end

section
/-! O33: the checks of the lane accesses and transfers (R87, R224, R225), and the faults and locks they answer. -/

namespace Sys2Proof
open Machine

/-- A meaning that breaks a range lock, in a ready thread. -/
theorem laneLocks_of {i : Instr} {f : LaneFn} {pre : LaneIn → State → Prop} {addr : LaneIn → W64}
    (he : ∀ s, exec i s = .next (laneAll i f s)) (hf : ∀ x s, pre x s → f x s = .lock s (addr x)) :
    LaneLocks i pre addr :=
  ⟨laneOne i f, he, fun t th team s hready hpre => by rw [laneOne_of_ready f hready, hf _ _ hpre]; rfl⟩

/-! ### The checks of R224 that fail -/

/-- The first address past which an access of `n` bytes leaves a space, and the cause it then takes. -/
def SpaceLimit (sp : LSpace) (n lim : Nat) (cause : Cause) : Prop :=
  match sp with
  | .device => lim = 2 ^ 52 ∧ cause = .badAddr
  | .kennel => lim + n = 0x100000 + 1 ∧ cause = .kennelRange
  | .priv => lim + n = 0x800 + 1 ∧ cause = .privateRange
  | .const => lim + n = 0x800 + 1 ∧ cause = .constRange

section checks
variable {sp : LSpace} {l : LaneIn} {addr : W64} {n lim : Nat} {cause : Cause} {write : Bool} {s : State}

theorem laneCheck_misaligned (h : addr.toNat % n ≠ 0) :
    laneCheck sp l addr n write s = some (.fault s .align addr 0) := if_pos h

theorem laneCheck_beyond (hlim : SpaceLimit sp n lim cause) (halign : addr.toNat % n = 0) (h : lim ≤ addr.toNat) :
    laneCheck sp l addr n write s = some (.fault s cause addr 0) := by
  refine (if_neg (not_not.mpr halign)).trans ?_
  cases sp with
  | device =>
    obtain ⟨rfl, rfl⟩ := hlim
    exact if_pos fun hlow => absurd ((extract_high_eq_zero_iff addr).mp hlow) (not_lt.mpr h)
  | kennel =>
    obtain ⟨hlim, rfl⟩ := hlim
    exact if_pos (by simp only [kennelSize]; omega)
  | priv =>
    obtain ⟨hlim, rfl⟩ := hlim
    exact if_pos (by simp only [privSize]; omega)
  | const =>
    obtain ⟨hlim, rfl⟩ := hlim
    exact if_pos (by omega)

theorem laneCheck_locked (hsp : sp = .device ∨ sp = .kennel) (hlim : SpaceLimit sp n lim cause)
    (halign : addr.toNat % n = 0) (h : addr.toNat < lim)
    (hlock : (s.core l.t.c).locked (sp == .device) addr.toNat n write = true) :
    laneCheck sp l addr n write s = some (.lock s addr) := by
  refine (if_neg (not_not.mpr halign)).trans ?_
  obtain rfl | rfl := hsp
  · obtain ⟨rfl, -⟩ := hlim
    exact (if_neg (not_not.mpr ((extract_high_eq_zero_iff addr).mpr h))).trans (if_pos hlock)
  · obtain ⟨hlim, -⟩ := hlim
    exact (if_neg (by simp only [kennelSize]; omega)).trans (if_pos hlock)

end checks

/-- The meaning answers what the first check that fails answers. -/
def AnswersCheck (f : LaneFn) (sp : LSpace) (addr : LaneIn → W64) (n : Nat) (write : Bool) : Prop :=
  ∀ l s o, laneCheck sp l (addr l) n write s = some o → f l s = o

section answers
variable {i : Instr} {f : LaneFn} {sp : LSpace} {addr : LaneIn → W64} {n lim : Nat} {cause : Cause} {write : Bool}

theorem laneFaults_align (he : ∀ s, exec i s = .next (laneAll i f s)) (hf : AnswersCheck f sp addr n write) :
    LaneFaults i (fun l _ => (addr l).toNat % n ≠ 0) (fun l => (.align, addr l, 0)) :=
  laneFaults_of he fun l s h => hf l s _ (laneCheck_misaligned h)

theorem laneFaults_beyond (he : ∀ s, exec i s = .next (laneAll i f s)) (hf : AnswersCheck f sp addr n write)
    (hlim : SpaceLimit sp n lim cause) :
    LaneFaults i (fun l _ => (addr l).toNat % n = 0 ∧ lim ≤ (addr l).toNat) (fun l => (cause, addr l, 0)) :=
  laneFaults_of he fun l s ⟨halign, h⟩ => hf l s _ (laneCheck_beyond hlim halign h)

theorem laneLocks_locked (he : ∀ s, exec i s = .next (laneAll i f s)) (hf : AnswersCheck f sp addr n write)
    (hlim : SpaceLimit sp n lim cause) (hsp : sp = .device ∨ sp = .kennel) :
    LaneLocks i (fun l s => (addr l).toNat % n = 0 ∧ (addr l).toNat < lim ∧
      (s.core l.t.c).locked (sp == .device) (addr l).toNat n write = true) addr :=
  laneLocks_of he fun l s ⟨halign, h, hlock⟩ => hf l s _ (laneCheck_locked hsp hlim halign h hlock)

end answers

/-! ### Loads and stores -/

theorem answersCheck_ld (x : LLoad) :
    AnswersCheck (laneLd x) .device (fun l => laneAddr true l.a x.off) (2 ^ x.w.toNat) false := by
  intro l s o h
  simp only [laneLd, widthBytes, h]

theorem answersCheck_ldk (x : LLoad) :
    AnswersCheck (laneLdkF x) .kennel (fun l => laneAddr false l.a x.off) (2 ^ x.w.toNat) false := by
  intro l s o h
  simp only [laneLdkF, widthBytes, h]

theorem answersCheck_ldp (x : LLoad) :
    AnswersCheck (laneLdp x) .priv (fun l => laneAddr false l.a x.off) (2 ^ x.w.toNat) false := by
  intro l s o h
  simp only [laneLdp, widthBytes, h]

theorem answersCheck_ldc (x : LLoad) :
    AnswersCheck (laneLdc x) .const (fun l => laneAddr false l.a x.off) (2 ^ x.w.toNat) false := by
  intro l s o h
  simp only [laneLdc, widthBytes, h]

theorem answersCheck_st (x : LStore) :
    AnswersCheck (laneSt x) .device (fun l => laneAddr true l.a x.off) (2 ^ x.w.toNat) true := by
  intro l s o h
  simp only [laneSt, widthBytes, h]

theorem answersCheck_stk (x : LStore) :
    AnswersCheck (laneStkF x) .kennel (fun l => laneAddr false l.a x.off) (2 ^ x.w.toNat) true := by
  intro l s o h
  simp only [laneStkF, widthBytes, h]

theorem answersCheck_stp (x : LStore) :
    AnswersCheck (laneStp x) .priv (fun l => laneAddr false l.a x.off) (2 ^ x.w.toNat) true := by
  intro l s o h
  simp only [laneStp, widthBytes, h]

/-! ### Atomics -/

section atomic
variable {op : AtomOp} {vd : RegNo} {sc : Scope} {w64 acq rel : Bool} {cmp : LaneIn → List W32} {l : LaneIn} {s : State}

/-- The meaning that ATOM and ATOMCAS share. -/
def laneAtomicBy (op : AtomOp) (vd : RegNo) (sc : Scope) (w64 acq rel : Bool) (cmp : LaneIn → List W32) : LaneFn :=
  fun l s => laneAtomic op vd sc w64 acq rel l.b (cmp l) l s

theorem exec_atomicBy {i : Instr}
    (h : (∃ x : LAtom, i = .atom x ∧ sc = x.scope ∧ w64 = x.w64) ∨ (∃ x : LCas, i = .atomcas x ∧ sc = x.scope ∧ w64 = x.w64)) :
    ∃ op vd acq rel cmp, ∀ s, exec i s = .next (laneAll i (laneAtomicBy op vd sc w64 acq rel cmp) s) := by
  obtain ⟨x, rfl, rfl, rfl⟩ | ⟨x, rfl, rfl, rfl⟩ := h
  · exact ⟨x.op, x.vd, x.acq, x.rel, fun _ => [], fun _ => rfl⟩
  · exact ⟨.cas, x.vd, x.acq, x.rel, LaneIn.c, fun _ => rfl⟩

/-- The address of an atomic: a Kennel offset at CORE scope, else a pair (R228). -/
def atomicAddr (sc : Scope) (l : LaneIn) : W64 := if sc = .core then l.a0.zeroExtend 64 else l.a.getD 1 0 ++ l.a.getD 0 0

def atomicSpace (sc : Scope) : LSpace := if sc = .core then .kennel else .device

theorem answersCheck_atomic :
    AnswersCheck (laneAtomicBy op vd sc w64 acq rel cmp) (atomicSpace sc) (atomicAddr sc) (if w64 then 8 else 4) true := by
  intro l s o h
  simp only [atomicSpace, atomicAddr] at h
  simp only [laneAtomicBy, laneAtomic, show wide l.a = l.a.getD 1 0 ++ l.a.getD 0 0 from rfl, h]

theorem atomicSpace_limit : SpaceLimit (atomicSpace sc) (if w64 then 8 else 4)
    (if sc = .core then 0x100000 + 1 - (if w64 then 8 else 4) else 2 ^ 52)
    (if sc = .core then .kennelRange else .badAddr) := by
  by_cases hsc : sc = .core
  · rw [atomicSpace, if_pos hsc, if_pos hsc, if_pos hsc]
    exact ⟨by split_ifs <;> rfl, rfl⟩
  · rw [atomicSpace, if_neg hsc, if_neg hsc, if_neg hsc]
    exact ⟨rfl, rfl⟩

theorem atomicSpace_lockable : atomicSpace sc = .device ∨ atomicSpace sc = .kennel := by
  by_cases hsc : sc = .core
  · exact .inr (if_pos hsc)
  · exact .inl (if_neg hsc)

theorem atomicSpace_beq_device : (atomicSpace sc == .device) = (sc != .core) := by
  cases sc <;> decide

theorem laneAtomic_core_poisoned (hcan : LaneCan .kennel l (atomicAddr .core l) (if w64 then 8 else 4) true s)
    (hpoison : (s.core l.t.c).kpoisoned (atomicAddr .core l).toNat (if w64 then 8 else 4) = true) :
    laneAtomicBy op vd .core w64 acq rel cmp l s = .fault s .memoryError (atomicAddr .core l) 0 := by
  simp only [atomicAddr, if_true] at hcan hpoison ⊢
  simp only [laneAtomicBy, laneAtomic, if_true, laneCheck_of_can hcan, hpoison]

theorem laneAtomic_remote_unmapped
    (hcan : LaneCan .device l (atomicAddr .system l) (if w64 then 8 else 4) true s)
    (hbit : (atomicAddr .system l).getLsbD 51 = true)
    (hwindow : ((s.part (ctxPart (s.core l.t.c).ctx)).window (atomicAddr .system l)).v = false) :
    laneAtomicBy op vd .system w64 acq rel cmp l s = .fault s .translation (atomicAddr .system l) 0 := by
  have hsc : Scope.system ≠ .core := by decide
  rw [show atomicAddr .system l = wide l.a from rfl] at hcan hbit hwindow ⊢
  have hremote : remoteAddr .system (wide l.a) = true := by
    rw [remoteAddr, Bool.and_eq_true]
    exact ⟨rfl, hbit⟩
  simp only [laneAtomicBy, laneAtomic, if_neg hsc, hremote, if_true, laneCheck_of_can hcan, hwindow]

theorem laneAtomic_device_poisoned {p : Phys} (hsc : sc ≠ .core)
    (hcan : LaneCan .device l (wide l.a) (if w64 then 8 else 4) true s)
    (hlocal : ¬ (sc = .system ∧ (wide l.a).getLsbD 51 = true)) (hat : LaneAt l (wide l.a) .atomic p s)
    (hpoison : s.dev.poisoned p.pa (if w64 then 8 else 4) = true) :
    laneAtomicBy op vd sc w64 acq rel cmp l s = .fault s .memoryError (wide l.a) 0 := by
  have hremote : remoteAddr sc (wide l.a) = false := by
    rw [remoteAddr, Bool.eq_false_iff, ne_eq, Bool.and_eq_true, beq_iff_eq]
    exact hlocal
  simp only [laneAtomicBy, laneAtomic, if_neg hsc, hremote, Bool.false_eq_true, if_false, laneCheck_of_can hcan,
    laneXlate_of_at hat, hpoison, if_true]

end atomic

/-! ### The optimiser step -/

theorem findSome?_range_of_first {α : Type} {g : Nat → Option α} {j n : Nat} {o : α} (hj : j < n)
    (hbefore : ∀ k < j, g k = none) (hat : g j = some o) : (List.range n).findSome? g = some o := by
  induction n with
  | zero => exact absurd hj (Nat.not_lt_zero j)
  | succ n ih =>
    rw [List.range_succ, List.findSome?_append]
    obtain hlt | rfl := Nat.lt_succ_iff_lt_or_eq.mp hj
    · rw [ih hlt, Option.some_or]
    · have hnone : (List.range j).findSome? g = none :=
        List.findSome?_eq_none_iff.mpr fun k hk => hbefore k (List.mem_range.mp hk)
      rw [hnone, Option.none_or, List.findSome?_singleton, hat]

section mstep
variable {x : LMstep} {j : Nat} {l : LaneIn} {s : State}

def mstepAddr (j : Nat) (l : LaneIn) : W64 := (l.a.getD j 0).zeroExtend 64

/-- The checks of the four words are made one by one: the first that fails answers. -/
theorem laneMstep_of_check {o : LaneOut} (hj : j < 4)
    (hbefore : ∀ k < j, LaneCan .kennel l (mstepAddr k l) (mstepSize x k) (k != 1) s)
    (hat : laneCheck .kennel l (mstepAddr j l) (mstepSize x j) (j != 1) s = some o) : laneMstep x l s = o := by
  have hfirst := findSome?_range_of_first
    (g := fun j => laneCheck .kennel l (mstepAddr j l) (mstepSize x j) (j != 1) s) hj
    (fun k hk => laneCheck_of_can (hbefore k hk)) hat
  simp only [mstepAddr, mstepSize] at hfirst
  simp only [laneMstep, hfirst]

theorem mstepSize_le (x : LMstep) (j : Nat) : mstepSize x j ≤ 4 := by
  rw [mstepSize]
  split_ifs <;> omega

end mstep

/-! ### Parameter blocks and streams -/

section blocks
variable {s : State} {t : TRef} {team : Team} {l : LaneIn}

theorem nestedCheck_align {a : W64} {fmt : Option W32} (h : a.toNat % 16 ≠ 0) :
    nestedCheck s t team a fmt = .fault .align a := if_pos h

theorem nestedCheck_beyond {a : W64} {fmt : Option W32} (halign : a.toNat % 16 = 0) (h : 0x100000 < a.toNat + 80) :
    nestedCheck s t team a fmt = .fault .kennelRange a :=
  (if_neg (not_not.mpr halign)).trans (if_pos h)

theorem nestedCheck_locked {a : W64} {fmt : Option W32} (halign : a.toNat % 16 = 0) (h : a.toNat + 80 ≤ 0x100000)
    (hlock : (s.core t.c).locked false a.toNat 80 false = true) : nestedCheck s t team a fmt = .lock a :=
  (if_neg (not_not.mpr halign)).trans ((if_neg (not_lt.mpr h)).trans (if_pos hlock))

theorem laneLtop_of_fault {x : LR1} {cause : Cause} {a : W64}
    (h : nestedCheck s l.t l.team (l.a0.zeroExtend 64) none = .fault cause a) :
    laneLtop x l s = .fault s cause a 0 := by
  simp only [laneLtop, h]

theorem laneLtop_of_lock {x : LR1} {a : W64} (h : nestedCheck s l.t l.team (l.a0.zeroExtend 64) none = .lock a) :
    laneLtop x l s = .lock s a := by
  simp only [laneLtop, h]

theorem laneLtop_of_full {x : LR1} {e : BindEntry} {r : IssueRec}
    (h : nestedCheck s l.t l.team (l.a0.zeroExtend 64) none = .ok e r)
    (hfull : 8 ≤ (s.core l.t.c).queued (queueOf e)) : laneLtop x l s = .hold s := by
  simp only [laneLtop, h, hfull, if_true]

end blocks

section streams
variable {k : Core} {a : Nat} {size : Option Nat} {l : LaneIn} {s : State}

theorem streamCheck_align (h : a % 32 ≠ 0) : k.streamCheck a size = .fault .align := if_pos h

theorem streamCheck_beyond (halign : a % 32 = 0) (h : 0x100000 < a + 32) : k.streamCheck a size = .fault .kennelRange :=
  (if_neg (not_not.mpr halign)).trans (if_pos h)

theorem streamCheck_locked (halign : a % 32 = 0) (h : a + 32 ≤ 0x100000) (hlock : k.locked false a 32 true = true) :
    k.streamCheck a size = .wait :=
  (if_neg (not_not.mpr halign)).trans ((if_neg (not_lt.mpr h)).trans (if_pos hlock))

theorem streamCheck_malformed (halign : a % 32 = 0) (h : a + 32 ≤ 0x100000) (hlock : k.locked false a 32 true = false)
    (hpoison : k.kpoisoned a 32 = false) (hok : (k.streamAt a).ok = false) :
    k.streamCheck a size = .fault .badStream := by
  refine (if_neg (not_not.mpr halign)).trans ((if_neg (not_lt.mpr h)).trans ?_)
  simp only [hlock, hpoison, hok, Bool.false_eq_true, if_false, decide_true, Bool.true_or, if_true]

/-- The core as the thread sees the header at `a`. -/
def headerCore (l : LaneIn) (s : State) : Core := (s.atBank l.t.c l.t.agent l.a0.toNat 32).core l.t.c

theorem laneStream_of_fault {f : Nat → Stream → State → LaneOut} {cause : Cause}
    (h : (headerCore l s).streamCheck l.a0.toNat none = .fault cause) :
    laneStream f l s = .fault s cause (l.a0.zeroExtend 64) 0 := by
  rw [headerCore] at h
  simp only [laneStream, h]

theorem laneStream_of_wait {f : Nat → Stream → State → LaneOut}
    (h : (headerCore l s).streamCheck l.a0.toNat none = .wait) : laneStream f l s = .hold s := by
  rw [headerCore] at h
  simp only [laneStream, h]

/-- What QCNT and QEND do with a header that passes. -/
def headerUse : Instr → LaneIn → Nat → Stream → State → LaneOut
  | .qcnt x, _ => fun _ st u => .ok u (out1 x.vd (BitVec.ofBool st.done ++ BitVec.ofNat 31 st.count))
  | _, l => fun a _ u => .ok (u.kwrite l.t.c (a + 12) (leBytes 4 0x5C000001)) {}

theorem exec_header {i : Instr} (h : (∃ x, i = .qcnt x) ∨ (∃ x, i = .qend x)) (s : State) :
    exec i s = .next (laneAll i (fun l s => laneStream (headerUse i l) l s) s) := by
  obtain ⟨x, rfl⟩ | ⟨x, rfl⟩ := h <;> rfl

end streams

/-! ### Transfers (R87) -/

theorem laneTargetOk_iff (a : W64) : laneTargetOk a = true ↔ a.toNat % 8 = 0 ∧ a.toNat < 2 ^ 52 := by
  have hlow : a.extractLsb' 0 3 = 0 ↔ a.toNat % 8 = 0 := by
    rw [← BitVec.toNat_inj, BitVec.extractLsb'_toNat, Nat.shiftRight_zero]
    rfl
  rw [laneTargetOk, Bool.and_eq_true, beq_iff_eq, beq_iff_eq, hlow, extract_high_eq_zero_iff]

theorem laneGoto_bad {target : W64} {r : LaneRes} {s : State}
    (h : target.toNat % 8 ≠ 0 ∨ 2 ^ 52 ≤ target.toNat) : laneGoto target r s = .fault s .badTarget target 0 :=
  if_neg fun hok => by
    have := (laneTargetOk_iff target).mp hok
    omega

/-- Settles O33: each meaning answers its first failing check, and `answered` makes of that the fault, the lock or the
wait. -/
theorem laneAccessFaults : Obligations.LaneAccessFaults := by
  refine ⟨fun x i sp lim cause => ?_, fun x i sp lim cause => ?_, fun i sc w64 => ?_, fun x j hj => ?_, fun x => ?_,
    fun i hi => ?_, fun i target hi => ?_⟩
  · intro n hi addr
    obtain ⟨f, he, hf, hlim⟩ : ∃ f : LaneFn, (∀ s, exec i s = .next (laneAll i f s)) ∧
        AnswersCheck f sp addr n false ∧ SpaceLimit sp n lim cause := by
      obtain ⟨rfl, rfl, h⟩ | ⟨rfl, rfl, h⟩ | ⟨rfl, rfl, h⟩ | ⟨rfl, rfl, h⟩ := hi
      · exact ⟨laneLd x, fun _ => rfl, answersCheck_ld x, h⟩
      · exact ⟨laneLdkF x, fun _ => rfl, answersCheck_ldk x, h⟩
      · exact ⟨laneLdp x, fun _ => rfl, answersCheck_ldp x, h⟩
      · exact ⟨laneLdc x, fun _ => rfl, answersCheck_ldc x, h⟩
    exact ⟨laneFaults_align he hf, laneFaults_beyond he hf hlim, laneLocks_locked he hf hlim⟩
  · intro n hi addr
    obtain ⟨f, he, hf, hlim⟩ : ∃ f : LaneFn, (∀ s, exec i s = .next (laneAll i f s)) ∧
        AnswersCheck f sp addr n true ∧ SpaceLimit sp n lim cause := by
      obtain ⟨rfl, rfl, h⟩ | ⟨rfl, rfl, h⟩ | ⟨rfl, rfl, h⟩ := hi
      · exact ⟨laneSt x, fun _ => rfl, answersCheck_st x, h⟩
      · exact ⟨laneStkF x, fun _ => rfl, answersCheck_stk x, h⟩
      · exact ⟨laneStp x, fun _ => rfl, answersCheck_stp x, h⟩
    exact ⟨laneFaults_align he hf, laneFaults_beyond he hf hlim, laneLocks_locked he hf hlim⟩
  · intro n hi sp lim addr
    obtain ⟨op, vd, acq, rel, cmp, he⟩ := exec_atomicBy hi
    refine ⟨laneFaults_align he answersCheck_atomic, laneFaults_beyond he answersCheck_atomic atomicSpace_limit, ?_, ?_,
      ?_, fun p hsc => ?_⟩
    · rw [← atomicSpace_beq_device]
      exact laneLocks_locked he answersCheck_atomic atomicSpace_limit atomicSpace_lockable
    · rintro rfl
      exact laneFaults_of he fun l s ⟨hcan, hpoison⟩ => laneAtomic_core_poisoned hcan hpoison
    · rintro rfl
      exact laneFaults_of he fun l s ⟨hcan, hbit, hwindow⟩ => laneAtomic_remote_unmapped hcan hbit hwindow
    · have haddr (l : LaneIn) : addr l = wide l.a := if_neg hsc
      have hsp : sp = .device := if_neg hsc
      refine laneFaults_of he fun l s ⟨hcan, hlocal, hat, hpoison⟩ => ?_
      rw [haddr] at hcan hlocal hat ⊢
      rw [hsp] at hcan
      exact laneAtomic_device_poisoned hsc hcan hlocal hat hpoison
  · intro n addr before
    have hsize : mstepSize x j ≤ 4 := mstepSize_le x j
    have hlim : SpaceLimit .kennel (mstepSize x j) (0x100000 + 1 - mstepSize x j) .kennelRange := ⟨by omega, rfl⟩
    refine ⟨laneFaults_of (f := laneMstep x) (fun _ => rfl) ?_, laneFaults_of (f := laneMstep x) (fun _ => rfl) ?_,
      laneLocks_of (f := laneMstep x) (fun _ => rfl) ?_⟩
    · rintro l s ⟨hbefore, h⟩
      exact laneMstep_of_check hj hbefore (laneCheck_misaligned h)
    · rintro l s ⟨hbefore, halign, h⟩
      exact laneMstep_of_check hj hbefore (laneCheck_beyond hlim halign (Nat.sub_le_of_le_add h))
    · rintro l s ⟨hbefore, halign, h, hlock⟩
      exact laneMstep_of_check hj hbefore
        (laneCheck_locked (.inr rfl) hlim halign (Nat.lt_sub_of_add_lt (Nat.lt_succ_of_le h)) hlock)
  · intro a
    have haddr (l : LaneIn) : (l.a0.zeroExtend 64 : W64).toNat = a l := toNat_zeroExtend_64 l.a0
    refine ⟨laneFaults_of (f := laneLtop x) (fun _ => rfl) ?_, laneFaults_of (f := laneLtop x) (fun _ => rfl) ?_,
      laneLocks_of (f := laneLtop x) (fun _ => rfl) ?_, laneHolds_of (f := laneLtop x) (after := fun _ s => s)
      (fun _ => rfl) ?_⟩
    · rintro l s h
      rw [← haddr] at h
      exact laneLtop_of_fault (nestedCheck_align h)
    · rintro l s ⟨halign, h⟩
      rw [← haddr] at halign h
      exact laneLtop_of_fault (nestedCheck_beyond halign h)
    · rintro l s ⟨halign, h, hlock⟩
      rw [← haddr] at halign h hlock
      exact laneLtop_of_lock (nestedCheck_locked halign h hlock)
    · rintro l s ⟨e, r, hok, hfull⟩
      exact laneLtop_of_full hok hfull
  · refine ⟨laneFaults_of (exec_header hi) fun l s h => laneStream_of_fault (streamCheck_align h),
      laneFaults_of (exec_header hi) fun l s ⟨halign, h⟩ => laneStream_of_fault (streamCheck_beyond halign h),
      laneHolds_of (after := fun _ s => s) (exec_header hi) fun l s ⟨halign, h, hlock⟩ =>
        laneStream_of_wait (streamCheck_locked halign h hlock),
      laneFaults_of (exec_header hi) fun l s ⟨halign, h, hlock, hpoison, hok⟩ =>
        laneStream_of_fault (streamCheck_malformed halign h hlock hpoison hok)⟩
  · obtain ⟨x, rfl, rfl⟩ | ⟨x, rfl, rfl⟩ | ⟨x, rfl | rfl, rfl⟩ := hi
    · exact laneFaults_of (f := laneBra x) (fun _ => rfl) fun l s h => laneGoto_bad h
    · exact laneFaults_of (f := laneCallF x) (fun _ => rfl) fun l s h => laneGoto_bad h
    · exact laneFaults_of (f := laneBrx x) (fun _ => rfl) fun l s h => laneGoto_bad h
    · exact laneFaults_of (f := laneRetF x) (fun _ => rfl) fun l s h => laneGoto_bad h

end Sys2Proof
end

section
/-! O39: traps, breakpoints, unassigned words and range locks, and the lane handler's frame (R225, R251 to R254). -/

namespace Sys2Proof
open Machine

/-! ### Private SRAM: a read after a write -/

theorem hole_fillHoles (x n y : Nat) (hs : List (Nat × Nat)) :
    ((fillHoles x n hs).any fun h => decide (h.1 ≤ y) && decide (y < h.2)) =
      (!(decide (x ≤ y) && decide (y < x + n)) && hs.any fun h => decide (h.1 ≤ y) && decide (y < h.2)) := by
  induction hs with
  | nil => exact (Bool.and_false _).symm
  | cons h hs ih =>
    rw [fillHoles, List.flatMap_cons, List.any_append, ← fillHoles, ih, List.any_cons, List.any_filter, List.any_cons,
      List.any_cons, List.any_nil, Bool.and_or_distrib_left]
    congr 1
    rw [Bool.eq_iff_iff]
    simp only [Bool.or_false, Bool.or_eq_true, Bool.and_eq_true, Bool.not_eq_true', Bool.and_eq_false_iff,
      decide_eq_true_eq, decide_eq_false_iff_not, Nat.min_def, Nat.max_def]
    split_ifs <;> omega

section private_sram
variable {m : CoreMem} {lane b : Nat} {bs : List Byte}

/-- The byte of the lanes' SRAM at `x`. -/
def privByte (m : CoreMem) (x : Nat) : Byte :=
  if m.hole (privMap + x) then Config.residue m.seed (privMap + x) else memRead m.priv x

theorem pread_eq_map (m : CoreMem) (a n : Nat) : m.pread a n = (List.range n).map fun i => privByte m (a + i) := by
  simp only [CoreMem.pread, CoreMem.bytes, privByte, Nat.add_assoc]

theorem privByte_pput (h : m.priv.wf = true) (x : Nat) : privByte (m.pput lane b bs) x =
    if 2048 * lane + b ≤ x ∧ x < 2048 * lane + b + bs.length then bs.getD (x - (2048 * lane + b)) 0 else privByte m x := by
  have hhole : (m.pput lane b bs).hole (privMap + x) =
      (!(decide (2048 * lane + b ≤ x) && decide (x < 2048 * lane + b + bs.length)) && m.hole (privMap + x)) := by
    refine (hole_fillHoles _ _ _ _).trans (congrArg (fun c => !c && m.hole (privMap + x)) ?_)
    rw [Bool.eq_iff_iff]
    simp only [Bool.and_eq_true, decide_eq_true_eq]
    omega
  have hread := memRead_memPutN h (2048 * lane + b) bs x
  simp only [privByte, hhole]
  change (if _ then _ else memRead (memPutN m.priv (2048 * lane + b) bs) x) = _
  rw [hread]
  by_cases hin : 2048 * lane + b ≤ x ∧ x < 2048 * lane + b + bs.length
  · simp [hin]
  · have hout : (decide (2048 * lane + b ≤ x) && decide (x < 2048 * lane + b + bs.length)) = false := by
      simpa using hin
    simp only [hin, hout, Bool.not_false, Bool.true_and, if_false]
    rfl

theorem pread_pput_inside (h : m.priv.wf = true) {a n : Nat} (hin : a + n ≤ bs.length) :
    (m.pput lane b bs).pread (2048 * lane + b + a) n = (bs.drop a).take n := by
  rw [pread_eq_map]
  refine List.ext_getElem (by simp; omega) fun i hi _ => ?_
  rw [List.length_map, List.length_range] at hi
  have hlt : a + i < bs.length := by omega
  rw [List.getElem_map, List.getElem_range, privByte_pput h, if_pos (by omega), List.getElem_take, List.getElem_drop,
    show 2048 * lane + b + a + i - (2048 * lane + b) = a + i by omega, List.getD_eq_getElem _ _ hlt]

theorem pread_pput_outside (h : m.priv.wf = true) {x : Nat}
    (hout : x < 2048 * lane + b ∨ 2048 * lane + b + bs.length ≤ x) :
    (m.pput lane b bs).pread x 1 = m.pread x 1 := by
  simp only [pread_eq_map, List.range_one, List.map_cons, List.map_nil, Nat.add_zero]
  rw [privByte_pput h, if_neg (by omega)]

end private_sram

/-! ### The frame (R253) -/

/-- The frame with its fields one after another. -/
theorem frameBytes_eq (th : Thread) (h : HandlerCause) (word addr : W64) (code : BitVec 16) :
    frameBytes th h word addr code =
      leBytes 8 (if h = .rangeLock then th.pc else th.pc + 8).toNat ++ (leBytes 8 th.pc.toNat ++ (leBytes 8 word.toNat ++
      (leBytes 8 (if h = .rangeLock then addr.toNat else 0) ++ (leBytes 4 (if h = .software then code.toNat else 0) ++
      (h.code :: (th.full.extractLsb' 0 4).zeroExtend 8 :: (leBytes 2 0 ++ (leBytes 4 (th.saved 0).toNat ++
      (leBytes 4 (th.saved 1).toNat ++ (leBytes 4 (th.saved 2).toNat ++ (leBytes 4 (th.saved 3).toNat ++
      leBytes 8 0)))))))))) := by
  simp [frameBytes, List.append_assoc, List.range_succ]

theorem length_frameBytes (th : Thread) (h : HandlerCause) (word addr : W64) (code : BitVec 16) :
    (frameBytes th h word addr code).length = 64 := by
  simp [frameBytes_eq]

theorem frame_layout (th : Thread) (h : HandlerCause) (word addr : W64) (code : BitVec 16) :
    let f (a n : Nat) : Nat := ofBytes (((frameBytes th h word addr code).drop a).take n)
    f 0 8 = (if h = .rangeLock then th.pc else th.pc + 8).toNat ∧ f 8 8 = th.pc.toNat ∧ f 0x10 8 = word.toNat ∧
      f 0x18 8 = (if h = .rangeLock then addr.toNat else 0) ∧ f 0x20 4 = (if h = .software then code.toNat else 0) ∧
      f 0x24 1 = h.code.toNat ∧ f 0x25 1 = (th.full.extractLsb' 0 4).toNat ∧ f 0x26 2 = 0 ∧ f 0x38 8 = 0 ∧
      ∀ r < 4, f (0x28 + 4 * r) 4 = (th.saved r).toNat := by
  have hresume := (if h = .rangeLock then th.pc else th.pc + 8).isLt
  have haddr : (if h = .rangeLock then addr.toNat else 0) < 2 ^ 64 := by
    split_ifs
    · exact addr.isLt
    · decide
  have hfull := (th.full.extractLsb' 0 4).isLt
  have hcode : (if h = .software then code.toNat else 0) < 2 ^ 32 := by
    have := code.isLt
    split_ifs <;> omega
  simp only [frameBytes_eq]
  refine ⟨?_, ?_, ?_, ?_, ?_, ?_, ?_, ?_, ?_, fun r hr => ?_⟩
  · simpa [ofBytes_leBytes] using hresume
  · simp [ofBytes_leBytes, th.pc.isLt]
  · simp [ofBytes_leBytes, word.isLt]
  · simpa [ofBytes_leBytes] using haddr
  · simpa [ofBytes_leBytes] using hcode
  · simp [ofBytes]
  · simpa [ofBytes] using Nat.lt_trans hfull (by decide : 16 < 256)
  · simp [ofBytes_leBytes]
  · simp [ofBytes_leBytes]
  · have hcases : r = 0 ∨ r = 1 ∨ r = 2 ∨ r = 3 := by omega
    rcases hcases with rfl | rfl | rfl | rfl <;>
      simp [ofBytes_leBytes, (th.saved _).isLt]

/-! ### Threads at other places -/

theorem slotIx_ne {lane lane' slot slot' : Nat} (hs : slot < 4) (hs' : slot' < 4) (h : ¬ (lane' = lane ∧ slot' = slot)) :
    slotIx lane' slot' ≠ slotIx lane slot := by
  simp only [slotIx]
  omega

theorem thread_setThread_other (k : Core) {lane lane' slot slot' : Nat} (th : Option Thread)
    (h : slotIx lane' slot' ≠ slotIx lane slot) : (k.setThread lane slot th).thread lane' slot' = k.thread lane' slot' := by
  simp only [Core.thread, Core.setThread, Vector.getElem?_setIfInBounds, Ne.symm h, if_false]

theorem thread_pwrite (k : Core) (lane a : Nat) (bs : List Byte) (lane' slot : Nat) :
    (k.pwrite lane a bs).thread lane' slot = k.thread lane' slot := rfl

/-! ### Entering the handler (R252) -/

/-- The thread as it enters the handler: `v0` has the address of its frame. -/
def inHandler (slot : Nat) (handler : W64) (th : Thread) : Thread :=
  { th.put 0 (BitVec.ofNat 32 (frameAddr slot)) with pend := [], park := .none, wait := .none, pc := handler }

theorem inHandler_reg_zero (slot : Nat) (handler : W64) (th : Thread) :
    (inHandler slot handler th).reg 0 = BitVec.ofNat 32 (frameAddr slot) :=
  (reg_put th 0 (BitVec.ofNat 32 (frameAddr slot)) 0).trans (if_pos rfl)

theorem inHandler_isFull_zero (slot : Nat) (handler : W64) (th : Thread) : (inHandler slot handler th).isFull 0 = true :=
  (isFull_put th 0 0 (BitVec.ofNat 32 (frameAddr slot)) (by decide)).trans (by simp)

theorem inHandler_reg_succ (slot : Nat) (handler : W64) (th : Thread) {r : Nat} (h : 0 < r) :
    (inHandler slot handler th).reg r = th.reg r :=
  (reg_put th 0 (BitVec.ofNat 32 (frameAddr slot)) r).trans (if_neg h.ne')

theorem inHandler_isFull_succ (slot : Nat) (handler : W64) (th : Thread) {r : Nat} (h : 0 < r) :
    (inHandler slot handler th).isFull r = th.isFull r := by
  by_cases hr : r < 64
  · exact (isFull_put th 0 r (BitVec.ofNat 32 (frameAddr slot)) hr).trans (by simp [h.ne'])
  · exact (BitVec.getLsbD_of_ge _ _ (not_lt.mp hr)).trans (BitVec.getLsbD_of_ge _ _ (not_lt.mp hr)).symm

section entry
variable {t : TRef} {h : HandlerCause} {addr : W64} {code : BitVec 16} {s : State} {th : Thread}

/-- The state with the frame written and the thread in the handler. -/
def entered (t : TRef) (h : HandlerCause) (addr : W64) (code : BitVec 16) (th : Thread) (s : State) : State :=
  (s.updCore t.c fun k => k.pwrite t.lane (frameAddr t.slot) (frameBytes th h (s.wordAt t th) addr code)).onThread t
    (inHandler t.slot (s.laneHandler t.c))

theorem enterHandler_unsettled (hth : s.threadOf t = some th) (hsettled : th.settled = false) :
    enterHandler t h addr code s = awaitRegs t th th.owing s := by
  simp only [enterHandler, hth, hsettled, if_true]

theorem enterHandler_poisoned (hth : s.threadOf t = some th) (hsettled : th.settled = true)
    (hpoison : th.readsPoison [0, 1, 2, 3] = true) :
    enterHandler t h addr code s = (false, laneFault t .memoryError 0 0 s) := by
  simp only [enterHandler, hth, hsettled, hpoison, Bool.true_eq_false, if_false, if_true]

theorem laneHandler_pwrite (c : CoreNo) (lane a : Nat) (bs : List Byte) :
    (s.updCore c fun k => k.pwrite lane a bs).laneHandler c = s.laneHandler c := by
  simp only [State.laneHandler, State.core_updCore_same]
  rfl

theorem enterHandler_settled (hth : s.threadOf t = some th) (hsettled : th.settled = true)
    (hpoison : th.readsPoison [0, 1, 2, 3] = false) :
    enterHandler t h addr code s = (false, entered t h addr code th s) := by
  simp only [enterHandler, hth, hsettled, hpoison, Bool.true_eq_false, Bool.false_eq_true, if_false, entered,
    laneHandler_pwrite]
  rfl

/-- The thread's core with the frame written. -/
def framedCore (t : TRef) (h : HandlerCause) (addr : W64) (code : BitVec 16) (th : Thread) (s : State) : Core :=
  (s.core t.c).pwrite t.lane (frameAddr t.slot) (frameBytes th h (s.wordAt t th) addr code)

theorem thread_framedCore (lane slot : Nat) : (framedCore t h addr code th s).thread lane slot = s.thread t.c lane slot :=
  thread_pwrite _ _ _ _ _ _

theorem entered_core : (entered t h addr code th s).core t.c = (framedCore t h addr code th s).setThread t.lane t.slot
    (((framedCore t h addr code th s).thread t.lane t.slot).map (inHandler t.slot (s.laneHandler t.c))) := by
  simp only [entered, State.onThread, State.updThread, State.core_updCore_same, framedCore]

theorem entered_mem : ((entered t h addr code th s).core t.c).mem =
    (s.core t.c).mem.pput t.lane (frameAddr t.slot) (frameBytes th h (s.wordAt t th) addr code) := by
  rw [entered_core, Core.setThread_mem, framedCore, Core.pwrite_mem]

theorem entered_threadOf (hth : s.threadOf t = some th) :
    (entered t h addr code th s).threadOf t = some (inHandler t.slot (s.laneHandler t.c) th) := by
  rw [State.threadOf, State.thread, entered_core, thread_setThread_map, thread_framedCore, show s.thread _ _ _ = _ from hth,
    Option.map_some]

theorem entered_threadOf_other {t' : TRef} (hc : t'.c = t.c) (hne : slotIx t'.lane t'.slot ≠ slotIx t.lane t.slot) :
    (entered t h addr code th s).threadOf t' = s.threadOf t' := by
  rw [State.threadOf, State.threadOf, State.thread, hc, entered_core, thread_setThread_other _ _ hne, thread_framedCore]

/-- What the entry leaves in the bytes of the frame. -/
theorem entered_pread_frame (hwf : Memory.wf (s.core t.c).mem.priv = true) {a n : Nat} (hin : a + n ≤ 64) :
    ((entered t h addr code th s).core t.c).mem.pread (2048 * t.lane + 0x700 + 64 * t.slot + a) n =
      ((frameBytes th h (s.wordAt t th) addr code).drop a).take n := by
  rw [entered_mem, show 2048 * t.lane + 0x700 + 64 * t.slot + a = 2048 * t.lane + frameAddr t.slot + a by
    rw [frameAddr, Nat.add_assoc (2048 * t.lane)]]
  exact pread_pput_inside hwf (by rw [length_frameBytes]; exact hin)

theorem entered_pread_outside (hwf : Memory.wf (s.core t.c).mem.priv = true) {a : Nat}
    (hout : a < 2048 * t.lane + 0x700 + 64 * t.slot ∨ 2048 * t.lane + 0x700 + 64 * t.slot + 64 ≤ a) :
    ((entered t h addr code th s).core t.c).mem.pread a 1 = (s.core t.c).mem.pread a 1 := by
  rw [Nat.add_assoc (2048 * t.lane)] at hout
  rw [entered_mem]
  exact pread_pput_outside hwf (by rw [length_frameBytes]; exact hout)

/-! ### Traps and range locks -/

theorem laneTrapTo_of_handler (hhandler : s.laneHandler t.c ≠ 0) : laneTrapTo t h code s = enterHandler t h 0 code s :=
  if_neg hhandler

theorem laneLock_of_handler (hth : s.threadOf t = some th) (hhandler : s.laneHandler t.c ≠ 0) (hrep : th.rep = none) :
    laneLock t addr s = enterHandler t .rangeLock addr 0 s := by
  simp only [laneLock, hth, hrep, hhandler, Option.isSome_none, Bool.false_eq_true, or_self, if_false]

theorem laneLock_waits (hth : s.threadOf t = some th) (hwait : s.laneHandler t.c = 0 ∨ th.rep.isSome = true) :
    laneLock t addr s = (true, s) := by
  simp only [laneLock, hth]
  exact if_pos hwait

theorem wordAt_of_cached {w : W64} (h : s.laneWord t.c th.pc = some w) : s.wordAt t th = w := by
  simp only [State.wordAt, h]

end entry

/-! ### TRAP and BRK -/

theorem answered_trapOut (i : Instr) (t : TRef) (r : Issued) : answered i t (trapOut r) = r := by
  obtain ⟨held, s⟩ := r
  cases held <;> rfl

/-- An instruction without register operands reads nothing. -/
theorem laneIn_of_no_operands {i : Instr} (t : TRef) (th : Thread) (team : Team) (s : State) (hi : i.use = {}) :
    laneIn i t th team s = (⟨t, th, team, [], [], []⟩, s) := by
  simp only [laneIn, Instr.sources, hi]
  rfl

/-! ### The obligation -/

theorem laneTrap_acts (x : LTrap) : ∃ act, LaneActs (.laneTrap x) act ∧ ∀ t th team s,
    LaneReady (.laneTrap x) t th team s → act t s = laneTrapTo t .software x.code s := by
  refine ⟨laneOne (.laneTrap x) (laneTrapF x), fun s => rfl, fun t th team s hready => ?_⟩
  rw [laneOne_of_ready _ hready, laneIn_of_no_operands t th team s rfl]
  exact answered_trapOut _ _ _

theorem brk_acts (x : LNone) : ∃ act, LaneActs (.brk x) act ∧ ∀ t th team s, LaneReady (.brk x) t th team s →
    (s.debugged t.c = true → act t s = (false, debugPark t s)) ∧
    (s.debugged t.c = false → act t s = laneTrapTo t .breakpoint 0 s) := by
  refine ⟨laneOne (.brk x) (laneBrk x), fun s => rfl, fun t th team s hready => ?_⟩
  rw [laneOne_of_ready _ hready, laneIn_of_no_operands t th team s rfl]
  refine ⟨fun hdebug => ?_, fun hdebug => ?_⟩
  · simp only [laneBrk, hdebug, if_true]
    rfl
  · simp only [laneBrk, hdebug, Bool.false_eq_true, if_false]
    exact answered_trapOut _ _ _

section handler
variable {t : TRef} {h : HandlerCause} {addr : W64} {code : BitVec 16} {s : State} {th : Thread}

/-- What a trap, or a range lock at `addr`, answers. -/
def trapOrLock (t : TRef) (h : HandlerCause) (addr : W64) (code : BitVec 16) (s : State) : Issued :=
  if h = .rangeLock then laneLock t addr s else laneTrapTo t h code s

/-- With a handler, and no repetition under a lock, both enter it alike; a lock has no code. -/
theorem trapOrLock_of_handler (hth : s.threadOf t = some th) (hhandler : s.laneHandler t.c ≠ 0)
    (hrep : h = .rangeLock → th.rep = none) : trapOrLock t h addr code s =
      enterHandler t h (if h = .rangeLock then addr else 0) (if h = .rangeLock then 0 else code) s := by
  by_cases hlock : h = .rangeLock
  · subst hlock
    exact laneLock_of_handler hth hhandler (hrep rfl)
  · rw [trapOrLock, if_neg hlock, if_neg hlock, if_neg hlock, laneTrapTo_of_handler hhandler]

theorem trapOrLock_without_handler (hth : s.threadOf t = some th) (hnone : s.laneHandler t.c = 0) :
    trapOrLock t h addr code s = if h = .rangeLock then (true, s) else (false, laneFault t h.cause 0 0 s) := by
  by_cases hlock : h = .rangeLock
  · rw [trapOrLock, if_pos hlock, if_pos hlock, laneLock_waits hth (.inl hnone)]
  · rw [trapOrLock, if_neg hlock, if_neg hlock, laneTrapTo, if_pos hnone]

end handler

/-- Settles O39: TRAP and BRK answer what their meanings give, and entry writes the frame, whose bytes `frame_layout`
lists, and moves the thread alone. -/
theorem laneTrapsAndHandler : Obligations.LaneTrapsAndHandler := by
  refine ⟨laneTrap_acts, brk_acts, fun _ => rfl, fun t h addr code s th hth _ hslot => ?_⟩
  intro lock r at_
  have hr : r = trapOrLock t h addr code s := rfl
  refine ⟨fun hnone => hr.trans (trapOrLock_without_handler hth hnone), fun hlock hrep => ?_, fun hhandler hrep hsettled => ?_,
    fun hhandler hrep hsettled hpoison => ?_, fun hwf hhandler hrep hsettled hpoison => ?_⟩
  · exact (if_pos hlock).trans (laneLock_waits hth (.inr hrep))
  · rw [hr, trapOrLock_of_handler hth hhandler hrep, enterHandler_unsettled hth hsettled]
    rfl
  · rw [hr, trapOrLock_of_handler hth hhandler hrep, enterHandler_poisoned hth hsettled hpoison]
  · have hentered := hr.trans ((trapOrLock_of_handler hth hhandler hrep).trans (enterHandler_settled hth hsettled hpoison))
    obtain ⟨-, hcores⟩ := memoriesWf_iff.mp hwf
    have hpriv : Memory.wf (s.core t.c).mem.priv = true := ((Bool.and_eq_true _ _).mp (hcores t.c)).2
    intro u f
    have hu : u = entered t h at_ (if lock then 0 else code) th s := congrArg Prod.snd hentered
    have hslice (a n : Nat) (hin : a + n ≤ 64) : f a n =
        ofBytes (((frameBytes th h (s.wordAt t th) at_ (if lock then 0 else code)).drop a).take n) := by
      rw [← entered_pread_frame hpriv hin, ← hu]
    obtain ⟨hresume, hpc, hword, haddr, hcode, hcause, hfull, hpad, hrest, hsaved⟩ :=
      frame_layout th h (s.wordAt t th) at_ (if lock then 0 else code)
    refine ⟨congrArg Prod.fst hentered, (hslice 0 8 (by decide)).trans hresume, (hslice 8 8 (by decide)).trans hpc,
      (hslice 0x10 8 (by decide)).trans hword, (hslice 0x18 8 (by decide)).trans (haddr.trans ?_),
      (hslice 0x20 4 (by decide)).trans (hcode.trans ?_), (hslice 0x24 1 (by decide)).trans (hcause.trans ?_),
      (hslice 0x25 1 (by decide)).trans hfull, (hslice 0x26 2 (by decide)).trans hpad,
      (hslice 0x38 8 (by decide)).trans hrest, fun r hr => (hslice _ 4 (by omega)).trans ((hsaved r hr).trans ?_),
      fun w => wordAt_of_cached, fun a hout => ?_, inHandler t.slot (s.laneHandler t.c) th, ?_, rfl,
      inHandler_reg_zero _ _ th, inHandler_isFull_zero _ _ th, rfl, rfl, rfl,
      fun r hr => ⟨inHandler_reg_succ _ _ th hr, inHandler_isFull_succ _ _ th hr⟩, fun t' hc _ hslot' hne => ?_⟩
    · by_cases hlock : lock
      · exact if_pos hlock
      · exact (if_neg hlock).trans (congrArg BitVec.toNat (if_neg hlock : at_ = 0)).symm
    · by_cases hsoft : h = .software
      · have hlock : ¬ lock := fun hl => by cases hsoft.symm.trans hl
        rw [if_pos hsoft, if_pos hsoft, if_neg hlock]
      · rw [if_neg hsoft, if_neg hsoft]
    · cases h <;> rfl
    · exact apply_ite BitVec.toNat _ _ _
    · rw [hu]
      exact entered_pread_outside hpriv hout
    · rw [hu]
      exact entered_threadOf hth
    · rw [hu]
      refine entered_threadOf_other hc (slotIx_ne hslot hslot' fun ⟨hlane, hsame⟩ => hne ?_)
      cases t
      cases t'
      simp only at hc hlane hsame
      rw [hc, hlane, hsame]

end Sys2Proof
end

section
/-! O6 and O7: the integer forms of the sequencer (R98 to R100). -/

namespace Sys2Proof
open Machine

/-- A two-operand form whose meaning is the value stated. -/
theorem tileGives_alu2 {i : TAlu2 → Instr} {f g : W64 → W64 → W64} (he : ∀ x s, exec (i x) s = alu2 finishSK f x s)
    (hfg : ∀ a b, f a b = g a b) : TileGives i g := by
  intro x s h
  rw [he, alu2_ready h, finishSK_eq, hfg]

/-- The leading zero bits: as many as the bits above the highest one. -/
theorem clzOf_spec {w : Nat} (a : BitVec w) : clzOf w a ≤ w ∧ (∀ k, w - clzOf w a ≤ k → a.getLsbD k = false) ∧
    (clzOf w a < w → a.getLsbD (w - 1 - clzOf w a) = true) := by
  unfold clzOf
  split
  next h =>
    subst h
    simp
  next h =>
    have hne : a.toNat ≠ 0 := fun h0 => h (BitVec.eq_of_toNat_eq (by simpa using h0))
    have hlog : a.toNat.log2 < w := (Nat.log2_lt hne).2 a.isLt
    refine ⟨by omega, fun k hk => ?_, fun _ => ?_⟩
    · exact Nat.testBit_lt_two_pow ((Nat.log2_lt hne).1 (by omega))
    · rw [show w - 1 - (w - 1 - a.toNat.log2) = a.toNat.log2 by omega]
      exact Nat.testBit_log2 hne

theorem exec_tileClz {x : TAlu1} {s : State} (h : Ready1 x s) : exec (.tileClz x) s =
    .next (tileResult x.d (BitVec.ofNat 64 (clzOf 64 (x.a.val s.curCore.seq))) s) :=
  alu1_ready (f := fun a => BitVec.ofNat 64 (clzOf 64 a)) h

theorem exec_tilePopc {x : TAlu1} {s : State} (h : Ready1 x s) : exec (.tilePopc x) s =
    .next (tileResult x.d (BitVec.ofNat 64 ((List.range 64).countP (x.a.val s.curCore.seq).getLsbD)) s) := by
  rw [← popOf_eq_countP]
  exact alu1_ready (f := fun a => BitVec.ofNat 64 (popOf a 64)) h

/-- Settles O6: the shifts, the counts of bits and the minima by the lemmas about them; the other values are the model's. -/
theorem sequencerIntegerResults : Obligations.SequencerIntegerResults := by
  have hop {i : TAlu2 → Instr} {f : W64 → W64 → W64} (he : ∀ x s, exec (i x) s = alu2 finishSK f x s) :
      TileGives i f := tileGives_alu2 he fun _ _ => rfl
  refine ⟨hop fun _ _ => rfl, hop fun _ _ => rfl, hop fun _ _ => rfl, hop fun _ _ => rfl, hop fun _ _ => rfl,
    hop fun _ _ => rfl, tileGives_alu2 (fun _ _ => rfl) shlAll_eq, tileGives_alu2 (fun _ _ => rfl) shrAll_eq,
    tileGives_alu2 (fun _ _ => rfl) sarAll_eq, hop fun _ _ => rfl, hop fun _ _ => rfl, hop fun _ _ => rfl,
    hop fun _ _ => rfl, fun x s h => ?clz, fun x s h => ?popc⟩
  case clz => exact ⟨clzOf 64 (x.a.val s.curCore.seq), exec_tileClz h, clzOf_spec _⟩
  case popc => exact exec_tilePopc h

/-- A three-operand form with ready operands. -/
theorem exec_madd {x : TAlu3} {s : State} (h : Ready2 ⟨x.d, x.a, x.b⟩ s) (hc : s.curCore.seq.pendingSKL x.c = false) :
    exec (.madd x) s = .next (tileLate x.d
      (x.a.val s.curCore.seq * x.b.val s.curCore.seq + x.c.val s.curCore.seq) 0 s) := by
  obtain ⟨ha, hb, hd⟩ := h
  change execMadd x s = _
  simp [execMadd, ha, hb, hc, hd, finishLate, finishLateFl_eq]

/-- A division whose value is stated with the zero divisor apart. -/
theorem tileGivesLate_divOp {i : TAlu2 → Instr} {f g : W64 → W64 → W64} (he : ∀ x s, exec (i x) s = divOp f x s)
    (hfg : ∀ a b, f a b = g a b) : TileGivesLate i g fun _ b => if b = 0 then fDivZero else 0 := by
  intro x s h
  simp only [tileGivesLate_div i f he x s h, hfg, divFlag_eq]

/-- Settles O7: products are the model's own values; the divisions are those of the bit vector library (R66). -/
theorem sequencerLateResults : Obligations.SequencerLateResults := by
  refine ⟨fun x s h => alu2_ready h, fun d a b s h u => alu2_ready h, fun x s h hc => exec_madd h hc,
    tileGivesLate_divOp (fun _ _ => rfl) fun a b => ?_, tileGivesLate_divOp (fun _ _ => rfl) fun a b => ?_,
    tileGivesLate_divOp (fun _ _ => rfl) fun a b => ?_, tileGivesLate_divOp (fun _ _ => rfl) fun a b => ?_⟩
  all_goals split
  · exact (div_zero_divisor ‹_›).1
  · exact divS_eq ‹_›
  · exact (div_zero_divisor ‹_›).2.1
  · exact divU_eq ‹_›
  · exact (div_zero_divisor ‹_›).2.2.1
  · exact remS_eq ‹_›
  · exact (div_zero_divisor ‹_›).2.2.2
  · exact remU_eq ‹_›

end Sys2Proof
end

section
/-! O16: the checks of R105 for the accesses of the sequencer, in their order, and the traps they give. -/

namespace Sys2Proof
open Machine

/-! ### The first check that fails -/

/-- A sequencer access takes the trap of the first check that fails. -/
def TakesChecks (i : Instr) (kennel : Bool) (addr : W64) (n : Nat) (write : Bool) (s : State) : Prop :=
  ∀ t, seqCheck s.cur kennel addr n write s = some t → exec i s = .next t

section checks
variable {i : Instr} {kennel : Bool} {addr : W64} {n : Nat} {write : Bool} {s : State}

theorem seqCheck_of_can (h : SeqCan kennel addr n write s) : seqCheck s.cur kennel addr n write s = none := by
  obtain ⟨halign, hrange, hlock⟩ := h
  unfold seqCheck
  rw [if_neg (not_not_intro halign), core_cur, hlock]
  cases kennel with
  | true => simp [kennelSize, Nat.not_lt.mpr hrange]
  | false => simp [(extract_high_eq_zero_iff addr).mpr hrange]

theorem TakesChecks.align (h : TakesChecks i kennel addr n write s) (halign : addr.toNat % n ≠ 0) :
    exec i s = .next (tileFault s.cur .align addr s) := h _ (if_pos halign)

theorem TakesChecks.kennelRange (h : TakesChecks i true addr n write s) (halign : addr.toNat % n = 0)
    (hrange : 0x100000 < addr.toNat + n) : exec i s = .next (tileFault s.cur .kennelRange addr s) := by
  refine h _ ?_
  rw [seqCheck, if_neg (not_not_intro halign), if_pos ⟨rfl, hrange⟩]

theorem TakesChecks.badAddr (h : TakesChecks i false addr n write s) (halign : addr.toNat % n = 0)
    (hrange : 2 ^ 52 ≤ addr.toNat) : exec i s = .next (tileFault s.cur .badAddr addr s) := by
  have hhigh : addr.extractLsb' 52 12 ≠ 0 := fun h0 => absurd ((extract_high_eq_zero_iff addr).mp h0) (by omega)
  refine h _ ?_
  rw [seqCheck, if_neg (not_not_intro halign), if_neg (by simp), if_pos ⟨rfl, hhigh⟩]

theorem TakesChecks.lock (h : TakesChecks i kennel addr n write s) (halign : addr.toNat % n = 0)
    (hrange : if kennel then addr.toNat + n ≤ 0x100000 else addr.toNat < 2 ^ 52)
    (hlock : s.curCore.locked (!kennel) addr.toNat n write = true) :
    exec i s = .next (lockTrap s.cur addr s) := by
  refine h _ ?_
  rw [seqCheck, if_neg (not_not_intro halign), core_cur, hlock]
  cases kennel with
  | true => simp [kennelSize, Nat.not_lt.mpr hrange]
  | false => simp [(extract_high_eq_zero_iff addr).mpr hrange]

end checks

/-! ### Loads and stores with written operands (R98, R104, R105) -/

section loads
variable {x : TLoad} {s : State} (ha : s.curCore.seq.pendingSK x.a = false) (hb : s.curCore.seq.pendingSKL x.b = false)
  (hd : s.curCore.destHeld x.d = false)
include ha hb hd

theorem takesChecks_tileLdk :
    TakesChecks (.tileLdk x) true (addrOf s.curCore.seq x.a x.b) (widthBytes x.w) false s := by
  intro t ht
  change execTileLdk x s = _
  simp [execTileLdk, addrWaits, ha, hb, hd, ht]

theorem takesChecks_lds :
    TakesChecks (.lds x) false (addrOf s.curCore.seq x.a x.b) (widthBytes x.w) false s := by
  intro t ht
  change execLds x s = _
  simp [execLds, addrWaits, ha, hb, hd, ht]

theorem exec_tileLdk_of_can (hcan : SeqCan true (addrOf s.curCore.seq x.a x.b) (widthBytes x.w) false s) :
    exec (.tileLdk x) s =
      let addr := addrOf s.curCore.seq x.a x.b
      if s.curCore.kpoisoned addr.toNat (widthBytes x.w) = true then .next (tileFault s.cur .memoryError addr s)
      else .next (seqLoad s.cur x.d ⟨false, addr.toNat, addr, widthBytes x.w, x.sx, none⟩ s) := by
  change execTileLdk x s = _
  simp [execTileLdk, addrWaits, ha, hb, hd, seqCheck_of_can hcan]

theorem exec_lds_of_can {p : Phys} (hcan : SeqCan false (addrOf s.curCore.seq x.a x.b) (widthBytes x.w) false s)
    (hat : SeqAt (addrOf s.curCore.seq x.a x.b) .read p s) :
    exec (.lds x) s =
      let addr := addrOf s.curCore.seq x.a x.b
      let r := s.readPoison s.cur p.pa (widthBytes x.w)
      if r.1 = true then .next (tileFault s.cur .memoryError addr r.2)
      else .next (seqLoad s.cur x.d ⟨true, p.pa, addr, widthBytes x.w, x.sx, none⟩ r.2) := by
  change execLds x s = _
  simp [execLds, addrWaits, ha, hb, hd, seqCheck_of_can hcan, seqXlate_ok hat]

end loads

section stores
variable {x : TStore} {s : State} (ha : s.curCore.seq.pendingSK x.a = false) (hb : s.curCore.seq.pendingSKL x.b = false)
  (hc : s.curCore.seq.pendingSKL x.c = false)
include ha hb hc

theorem takesChecks_tileStk :
    TakesChecks (.tileStk x) true (addrOf s.curCore.seq x.a x.b) (widthBytes x.w) true s := by
  intro t ht
  change execTileStk x s = _
  simp [execTileStk, addrWaits, ha, hb, hc, ht]

theorem takesChecks_sts :
    TakesChecks (.sts x) false (addrOf s.curCore.seq x.a x.b) (widthBytes x.w) true s := by
  intro t ht
  change execSts x s = _
  simp [execSts, addrWaits, ha, hb, hc, ht]

theorem exec_tileStk_of_can (hcan : SeqCan true (addrOf s.curCore.seq x.a x.b) (widthBytes x.w) true s) :
    exec (.tileStk x) s = .next ((s.kstore s.cur .seq (addrOf s.curCore.seq x.a x.b).toNat
      (valueBytes (widthBytes x.w) (x.c.val s.curCore.seq))).seqDone s.cur) := by
  change execTileStk x s = _
  simp [execTileStk, addrWaits, ha, hb, hc, seqCheck_of_can hcan]

theorem exec_sts_of_can {p : Phys} (hcan : SeqCan false (addrOf s.curCore.seq x.a x.b) (widthBytes x.w) true s)
    (hat : SeqAt (addrOf s.curCore.seq x.a x.b) .write p s) :
    exec (.sts x) s = .next ((s.dstore s.cur .seq p.pidx s.curCore.replaying p.pa
      (valueBytes (widthBytes x.w) (x.c.val s.curCore.seq))).seqDone s.cur) := by
  change execSts x s = _
  simp [execSts, addrWaits, ha, hb, hc, seqCheck_of_can hcan, seqXlate_ok hat]

end stores

/-! ### Atomics with written operands (R107, R108, R368) -/

/-- The bytes of an atomic. -/
def TAtom.bytes (x : TAtom) : Nat := if x.w64 then 8 else 4

section atomics
variable {x : TAtom} {s : State} (ha : s.curCore.seq.pendingSK x.a = false) (hb : s.curCore.seq.pendingSKL x.b = false)
  (hc : ∀ o, x.c = some o → s.curCore.seq.pendingSKL o = false) (hd : s.curCore.destHeld x.d = false)
include ha hb hc hd

theorem takesChecks_atoms : TakesChecks (.atoms x) (x.scope == .core) (x.a.val s.curCore.seq) x.bytes true s := by
  intro t ht
  unfold TAtom.bytes at ht
  change execAtoms x s = _
  cases hx : x.c with
  | none => simp [execAtoms, ha, hb, hx, hd, ht]
  | some o => simp [execAtoms, ha, hb, hx, hc o hx, hd, ht]

theorem exec_atoms_core_poisoned (hsc : x.scope = .core) (hcan : SeqCan true (x.a.val s.curCore.seq) x.bytes true s)
    (hpoison : s.curCore.kpoisoned (x.a.val s.curCore.seq).toNat x.bytes = true) :
    exec (.atoms x) s = .next (tileFault s.cur .memoryError (x.a.val s.curCore.seq) s) := by
  have hnone := seqCheck_of_can hcan
  unfold TAtom.bytes at hnone hpoison
  change execAtoms x s = _
  cases hx : x.c with
  | none => simp [execAtoms, ha, hb, hx, hd, hsc, hnone, hpoison]
  | some o => simp [execAtoms, ha, hb, hx, hc o hx, hd, hsc, hnone, hpoison]

theorem exec_atoms_device_poisoned {p : Phys} (hsc : x.scope ≠ .core)
    (hlocal : ¬ (x.scope = .system ∧ (x.a.val s.curCore.seq).getLsbD 51 = true))
    (hcan : SeqCan false (x.a.val s.curCore.seq) x.bytes true s) (hat : SeqAt (x.a.val s.curCore.seq) .atomic p s)
    (hpoison : s.dev.poisoned p.pa x.bytes = true) :
    exec (.atoms x) s = .next (tileFault s.cur .memoryError (x.a.val s.curCore.seq) s) := by
  have hnone := seqCheck_of_can hcan
  unfold TAtom.bytes at hnone hpoison
  have hkennel : (x.scope == .core) = false := beq_eq_false_iff_ne.mpr hsc
  have hremote : remoteAddr x.scope (x.a.val s.curCore.seq) = false := by
    simpa [remoteAddr, beq_eq_false_iff_ne] using hlocal
  change execAtoms x s = _
  cases hx : x.c with
  | none => simp [execAtoms, ha, hb, hx, hd, hsc, hkennel, hremote, hnone, seqXlate_ok hat, hpoison]
  | some o => simp [execAtoms, ha, hb, hx, hc o hx, hd, hsc, hkennel, hremote, hnone, seqXlate_ok hat, hpoison]

theorem exec_atoms_remote_unmapped (hsc : x.scope = .system) (hbit : (x.a.val s.curCore.seq).getLsbD 51 = true)
    (hcan : SeqCan false (x.a.val s.curCore.seq) x.bytes true s) (hremote : s.curCore.seq.remote = .none)
    (hwindow : ((s.part (ctxPart s.curCore.ctx)).window (x.a.val s.curCore.seq)).v = false) :
    exec (.atoms x) s = .next (tileFault s.cur .translation (x.a.val s.curCore.seq) s) := by
  have hnone : seqCheck s.cur (Scope.system == .core) (x.a.val s.curCore.seq) (if x.w64 then 8 else 4) true s = none :=
    seqCheck_of_can hcan
  have haddr : remoteAddr .system (x.a.val s.curCore.seq) = true := hbit
  change execAtoms x s = _
  cases hx : x.c with
  | none => simp [execAtoms, ha, hb, hx, hd, hsc, hremote, haddr, hnone, hwindow]
  | some o => simp [execAtoms, ha, hb, hx, hc o hx, hd, hsc, hremote, haddr, hnone, hwindow]

end atomics

/-- Settles O16: each access takes the first check that fails; ATOMS then takes its poison or its window. -/
theorem sequencerAccessChecks : Obligations.SequencerAccessChecks := by
  refine ⟨fun x s ha hb hd => ?loads, fun x s ha hb hc => ?stores, fun x s ha hb hc hd => ?atomics⟩
  case loads =>
    have hk := takesChecks_tileLdk ha hb hd
    have hs := takesChecks_lds ha hb hd
    exact ⟨fun h => ⟨hk.align h, hs.align h⟩, hk.kennelRange, hs.badAddr, hk.lock, hs.lock⟩
  case stores =>
    have hk := takesChecks_tileStk ha hb hc
    have hs := takesChecks_sts ha hb hc
    exact ⟨fun h => ⟨hk.align h, hs.align h⟩, hk.kennelRange, hs.badAddr, hk.lock, hs.lock⟩
  case atomics =>
    have h := takesChecks_atoms ha hb hc hd
    have hcore (hsc : x.scope = .core) : (x.scope == .core) = true := beq_iff_eq.mpr hsc
    have hdev (hsc : x.scope ≠ .core) : (x.scope == .core) = false := beq_eq_false_iff_ne.mpr hsc
    refine ⟨h.align, fun halign hsc => ?_, fun halign hsc => ?_, fun halign hsc => ?_, fun halign hsc => ?_,
      fun hcan hsc hpoison => ?_, fun hsc hbit hcan hremote hwindow => ?_, fun p hsc hlocal hcan hat hpoison => ?_⟩
    · rw [hcore hsc] at h
      exact h.kennelRange halign
    · rw [hdev hsc] at h
      exact h.badAddr halign
    · rw [hcore hsc] at h
      exact h.lock halign
    · rw [hdev hsc] at h
      exact h.lock halign
    · exact exec_atoms_core_poisoned ha hb hc hd hsc hcan hpoison
    · exact exec_atoms_remote_unmapped ha hb hc hd hsc hbit hcan hremote hwindow
    · exact exec_atoms_device_poisoned ha hb hc hd hsc hlocal hcan hat hpoison

end Sys2Proof
end

section
/-! O15: the loads and stores of the sequencer (R104 to R106), and what they are where nothing is on its way. -/

namespace Sys2Proof
open Machine

/-! ### With nothing on its way and no choice listed -/

theorem choice_nil {s : State} (h : s.sched.choices = []) : s.choice = (0, s) := by
  simp [State.choice, h]

/-- The sequencer has no late load: none reads before an access. -/
theorem bindLoads_seq_none {s : State} {c : CoreNo} (h : ∀ r ∈ (s.core c).seq.pend, r.load = none)
    (take : LateLoad → Bool) : s.bindLoads c .seq take = s := by
  have hone (i : Nat) : bindSeqLoad c take s i = s := by
    have hload : ((s.core c).seq.pend[i]?).bind SPend.load = none := by
      cases hp : (s.core c).seq.pend[i]? with
      | none => rfl
      | some r => exact h r (List.mem_of_getElem? hp)
    simp [bindSeqLoad, hload]
  change (List.range (s.core c).seq.pend.length).foldl (bindSeqLoad c take) s = s
  exact foldl_holds (fun t => t = s) _ (fun t i ht => by rw [ht, hone]) s _ rfl

theorem inOrder_seq_none {s : State} {c : CoreNo} (h : ∀ r ∈ (s.core c).seq.pend, r.load = none) (dev : Bool)
    (pa n : Nat) : s.inOrder c .seq dev pa n = s := bindLoads_seq_none h _

/-- The agent has no Kennel store on its way: none lands. -/
theorem landKstores_none {k : Core} {a : Agent} (h : ∀ p ∈ k.kstores, p.agent ≠ a) (take : KStore → Bool) :
    k.landKstores a take = k := by
  have hsplit (ps : List KStore) (hps : ∀ p ∈ ps, p.agent ≠ a) : splitKstores a take ps = ([], ps) := by
    induction ps with
    | nil => rfl
    | cons p ps ih =>
      have hp : (p.agent == a) = false := beq_eq_false_iff_ne.mpr (hps p List.mem_cons_self)
      simp [splitKstores, ih fun q hq => hps q (List.mem_cons_of_mem p hq), hp]
  simp [Core.landKstores, hsplit k.kstores h]

theorem updCore_of_fixed {s : State} {c : CoreNo} {f : Core → Core} (h : f (s.core c) = s.core c) : s.updCore c f = s := by
  rw [State.updCore, h, State.setCore_self]

theorem atBank_seq_none {s : State} {c : CoreNo} (hpend : ∀ r ∈ (s.core c).seq.pend, r.load = none)
    (hstores : ∀ p ∈ (s.core c).kstores, p.agent ≠ .seq) (addr n : Nat) : s.atBank c .seq addr n = s := by
  rw [State.atBank, inOrder_seq_none hpend]
  exact updCore_of_fixed (landKstores_none hstores _)

/-- A Kennel load that reads at once what the bank holds. -/
theorem seqLoad_kennel_now {s : State} {d : SK} {l : LateLoad} (hdev : l.dev = false) (hrmw : l.rmw = none)
    (hchoices : s.sched.choices = []) (hpend : ∀ r ∈ s.curCore.seq.pend, r.load = none)
    (hstores : ∀ p ∈ s.curCore.kstores, p.agent ≠ .seq) :
    seqLoad s.cur d l s = tileLate d (extendTo 64 l.n l.sx (ofBytes (s.curCore.kread l.pa l.n))) 0 s := by
  have hbefore : s.beforeLate s.cur .seq l = s := by
    simp only [State.beforeLate, hrmw]
    exact inOrder_seq_none hpend _ _ _
  have hread : s.readLate s.cur .seq l = (ofBytes (s.curCore.kread l.pa l.n), s) := by
    simp only [State.readLate, hrmw, hdev, Bool.false_eq_true, if_false]
    rw [core_cur, kreadBy_eq_kread fun p hp ha => absurd ha (hstores p hp)]
  rw [seqLoad, hbefore, choice_nil hchoices]
  simp only [hread, if_true]
  rfl

/-- A Kennel store that reaches its bank at once. -/
theorem kstore_now {s : State} {addr : Nat} {bs : List Byte} (hchoices : s.sched.choices = [])
    (hpend : ∀ r ∈ s.curCore.seq.pend, r.load = none) (hstores : ∀ p ∈ s.curCore.kstores, p.agent ≠ .seq) :
    s.kstore s.cur .seq addr bs = s.kwrite s.cur addr bs := by
  rw [State.kstore, inOrder_seq_none hpend, choice_nil hchoices]
  simp only [if_true]
  rw [atBank_seq_none hpend hstores]

/-- Looking for poison moves choices and words of the L1 alone (R285). -/
theorem bareState_readPoison (s : State) (c : CoreNo) (pa n : Nat) : bareState (s.readPoison c pa n).2 = bareState s := by
  unfold State.readPoison
  split
  · rfl
  · split
    · rfl
    · dsimp only
      split
      · exact bareState_choice s
      · exact (bareState_updCore rfl).trans (bareState_choice s)

/-! ### Loaded values (R104) -/

/-- Bit `j` of byte `i` of the number that bytes stand for. -/
theorem testBit_ofBytes (bs : List Byte) (i j : Nat) (hj : j < 8) :
    (ofBytes bs).testBit (8 * i + j) = (bs.getD i 0).getLsbD j := by
  induction bs generalizing i with
  | nil => simp [ofBytes]
  | cons b bs ih =>
    have hsplit : ofBytes (b :: bs) = 2 ^ 8 * ofBytes bs + b.toNat := by simp only [ofBytes]; omega
    rw [hsplit, Nat.testBit_two_pow_mul_add _ b.isLt]
    cases i with
    | zero => simp [hj, BitVec.getLsbD]
    | succ i =>
      rw [if_neg (by omega), show 8 * (i + 1) + j - 8 = 8 * i + j by omega, ih]
      rfl

theorem ofBytes_lt (bs : List Byte) : ofBytes bs < 2 ^ (8 * bs.length) := by
  induction bs with
  | nil => simp [ofBytes]
  | cons b bs ih =>
    have hb : b.toNat < 2 ^ 8 := b.isLt
    have hpow : 2 ^ (8 * (bs.length + 1)) = 256 * 2 ^ (8 * bs.length) := by
      rw [Nat.mul_add, Nat.pow_add]; omega
    simp only [ofBytes, List.length_cons, hpow]
    omega

/-- A value of `8 * n` bits, extended to 64. -/
theorem extendTo_64 {n : Nat} (hn : 1 ≤ n) (hn8 : n ≤ 8) (sx : Bool) {v : Nat} (hv : v < 2 ^ (8 * n)) :
    extendTo 64 n sx v =
      if sx && v.testBit (8 * n - 1) then BitVec.ofNat 64 (v + (2 ^ 64 - 2 ^ (8 * n))) else BitVec.ofNat 64 v := by
  cases sx with
  | false => rfl
  | true =>
    have hbit : v.testBit (8 * n - 1) = decide (2 ^ (8 * n) ≤ 2 * v) := by
      rw [Nat.testBit_eq_decide_div_mod_eq, decide_eq_decide]
      interval_cases n <;> omega
    simp only [extendTo, toSigned, Nat.mod_eq_of_lt hv, hbit, if_true, Bool.true_and, decide_eq_true_eq]
    by_cases hneg : 2 ^ (8 * n) ≤ 2 * v
    · rw [if_neg (by omega), if_pos hneg]
      apply BitVec.eq_of_toNat_eq
      rw [BitVec.toNat_ofInt, BitVec.toNat_ofNat]
      interval_cases n <;> omega
    · rw [if_pos (by omega), if_neg hneg]
      exact BitVec.ofInt_natCast _ _

/-- Settles O15: with the checks of R105 passed, each instruction is its access; then what the accesses are. -/
theorem sequencerLoadsAndStores : Obligations.SequencerLoadsAndStores := by
  refine ⟨fun x s ha hb hd => ⟨fun hcan => ⟨fun hpoison => ?ldk_poisoned, fun hpoison => ⟨?ldk, ?ldk_now⟩⟩,
      fun p hcan hat => ⟨fun hpoison => ?lds_poisoned, fun hpoison => ?lds⟩⟩,
    fun c pa n s => ⟨fun h => ?memory_poison, fun h h' => ?no_poison⟩,
    fun x s ha hb hc => ⟨fun hcan => ⟨?stk, ?stk_now⟩, fun p hcan hat => ?sts⟩,
    fun c d l s => ⟨fun h => ?load_now, fun h => ?load_later⟩,
    fun c a addr bs s => ⟨fun h => if_pos h, fun h => if_neg h⟩,
    fun c a pidx replay pa bs s => ⟨fun h => if_neg h, fun h => if_pos h⟩, fun n sx bs hlen hn hn8 => ?value⟩
  case ldk_poisoned => exact (exec_tileLdk_of_can ha hb hd hcan).trans (if_pos hpoison)
  case ldk => exact (exec_tileLdk_of_can ha hb hd hcan).trans (if_neg (ne_true_of_eq_false hpoison))
  case ldk_now =>
    intro hchoices hpend hstores
    refine ((exec_tileLdk_of_can ha hb hd hcan).trans (if_neg (ne_true_of_eq_false hpoison))).trans ?_
    exact congrArg _ (seqLoad_kennel_now rfl rfl hchoices hpend hstores)
  case lds_poisoned =>
    refine ((exec_lds_of_can ha hb hd hcan hat).trans (if_pos hpoison)).trans ?_
    exact congrArg _ (tileFault_of_bare (bareState_readPoison _ _ _ _) _ _)
  case lds => exact (exec_lds_of_can ha hb hd hcan hat).trans (if_neg (ne_true_of_eq_false hpoison))
  case memory_poison => exact if_pos h
  case no_poison => exact (if_neg (ne_true_of_eq_false h)).trans (if_pos h')
  case stk => exact exec_tileStk_of_can ha hb hc hcan
  case stk_now =>
    intro hchoices hpend hstores
    exact (exec_tileStk_of_can ha hb hc hcan).trans (by rw [kstore_now hchoices hpend hstores]; rfl)
  case sts => exact exec_sts_of_can ha hb hc hcan hat
  case load_now => exact if_pos h
  case load_later => exact if_neg h
  case value =>
    have htop : (ofBytes bs).testBit (8 * n - 1) = (bs.getD (n - 1) 0).getLsbD 7 := by
      rw [← testBit_ofBytes bs (n - 1) 7 (by omega)]
      congr 1
      omega
    rw [← htop]
    exact extendTo_64 hn hn8 sx (hlen ▸ ofBytes_lt bs)

end Sys2Proof
end

section
/-! O35: the bit and byte functions of R195 to R197, bit by bit, and the new values of atomics (R107). -/

namespace Sys2Proof
open Machine

/-! ### Words looked up and reversed (R195) -/

/-- A bit of the words that a fold has joined. -/
theorem getLsbD_foldl_or {α : Type} {w : Nat} (p : α → Bool) (f : α → BitVec w) (xs : List α) (z : BitVec w) (k : Nat) :
    (xs.foldl (fun acc t => if p t then acc ||| f t else acc) z).getLsbD k =
      (z.getLsbD k || xs.any fun t => p t && (f t).getLsbD k) := by
  induction xs generalizing z with
  | nil => simp
  | cons x xs ih =>
    rw [List.foldl_cons, ih, List.any_cons, ← Bool.or_assoc]
    congr 1
    cases p x <;> simp

/-- Of the words that a fold joins only number `j` has bit `k`: its condition is bit `k` of the result. -/
theorem getLsbD_foldl_or_range {w n j k : Nat} {p : Nat → Bool} {f : Nat → BitVec w} (hj : j < n)
    (hf : ∀ t < n, (f t).getLsbD k = decide (j = t)) :
    ((List.range n).foldl (fun acc t => if p t then acc ||| f t else acc) 0#w).getLsbD k = p j := by
  rw [getLsbD_foldl_or, BitVec.getLsbD_zero, Bool.false_or, Bool.eq_iff_iff, List.any_eq_true]
  simp only [List.mem_range, Bool.and_eq_true]
  constructor
  · rintro ⟨t, ht, hp, hbit⟩
    rw [hf t ht, decide_eq_true_eq] at hbit
    rwa [hbit]
  · exact fun hp => ⟨j, hj, hp, (hf j hj).trans (decide_eq_true rfl)⟩

/-- The place in the table that three bits select. -/
def bitIndex (a b c : Bool) : Nat := a.toNat + 2 * b.toNat + 4 * c.toNat

theorem bitIndex_lt (a b c : Bool) : bitIndex a b c < 8 := by revert a b c; decide

/-- Three bits match the bits of `t` exactly where they select it. -/
theorem match_bitIndex (a b c : Bool) : ∀ t < 8,
    ((if t / 2 ^ 0 % 2 = 1 then a else !a) && (if t / 2 ^ 1 % 2 = 1 then b else !b) &&
      (if t / 2 ^ 2 % 2 = 1 then c else !c)) = decide (bitIndex a b c = t) := by revert a b c; decide

theorem getLsbD_bitfnOf (lut : Byte) (a b c : W32) {k : Nat} (hk : k < 32) :
    (bitfnOf lut a b c).getLsbD k = lut.getLsbD (bitIndex (a.getLsbD k) (b.getLsbD k) (c.getLsbD k)) := by
  have hside (p : Prop) [Decidable p] (v : W32) :
      (if p then v else ~~~v).getLsbD k = if p then v.getLsbD k else !v.getLsbD k := by
    split
    · rfl
    · simp [hk]
  refine getLsbD_foldl_or_range (bitIndex_lt _ _ _) fun t ht => ?_
  rw [BitVec.getLsbD_and, BitVec.getLsbD_and, hside, hside, hside]
  exact match_bitIndex _ _ _ t ht

theorem getLsbD_brevOf (a : W32) {k : Nat} (hk : k < 32) : (brevOf a).getLsbD k = a.getLsbD (31 - k) :=
  getLsbD_foldl_or_range (p := fun t => a.getLsbD (31 - t)) hk fun t _ => getLsbD_one_shiftLeft t k hk

/-! ### Bit fields (R196) -/

theorem fieldPos_lt (b : W32) : fieldPos b < 256 := (b.extractLsb' 0 8).isLt

theorem fieldLen_le (b : W32) : fieldLen b ≤ 32 := Nat.min_le_right _ _

/-- The source of `BFE` above its 32 bits: zeros or its sign bit. -/
def bfeBit (a b : W32) (n : Nat) : Bool := if n < 32 then a.getLsbD n else b.getLsbD 15 && a.getLsbD 31

/-- Bits from `p` up, moved to the top of a word. -/
theorem getLsbD_field {m p l j : Nat} (src : BitVec m) (hj : j < 32) :
    (((src >>> p).extractLsb' 0 32 : W32) <<< (32 - l)).getLsbD j =
      (decide (32 - l ≤ j) && src.getLsbD (p + (j - (32 - l)))) := by
  by_cases h : 32 - l ≤ j
  · simp [hj, h, Nat.not_lt.mpr h]
  · simp [h, Nat.lt_of_not_le h]

theorem getLsbD_bfeOf (a b : W32) {k : Nat} (hk : k < 32) : (bfeOf a b).getLsbD k =
    if k < fieldLen b then bfeBit a b (fieldPos b + k)
    else decide (0 < fieldLen b) && b.getLsbD 15 && bfeBit a b (fieldPos b + fieldLen b - 1) := by
  have hpos := fieldPos_lt b
  have hlen := fieldLen_le b
  have hmsb : a.msb = a.getLsbD 31 := BitVec.msb_eq_getLsbD_last a
  unfold bfeOf bfeBit
  generalize fieldPos b = p at *
  generalize fieldLen b = l at *
  by_cases hl : l = 0
  · simp [hl]
  · cases b.getLsbD 15 with
    | false =>
      have hsrc (n : Nat) (hn : n < 288) : (a.zeroExtend 288).getLsbD n = if n < 32 then a.getLsbD n else false := by
        rw [BitVec.zeroExtend, BitVec.getLsbD_setWidth]
        split
        · simp [hn]
        · rw [BitVec.getLsbD_of_ge a n (by omega), Bool.and_false]
      simp only [hl, if_false, Bool.false_eq_true, BitVec.getLsbD_ushiftRight, Bool.and_false, Bool.false_and]
      by_cases hkl : k < l
      · rw [getLsbD_field _ (by omega), if_pos hkl, show p + (32 - l + k - (32 - l)) = p + k by omega, hsrc _ (by omega)]
        simp
      · rw [if_neg hkl]
        exact BitVec.getLsbD_of_ge _ _ (by omega)
    | true =>
      have hsrc (n : Nat) (hn : n < 288) :
          (a.signExtend 288).getLsbD n = if n < 32 then a.getLsbD n else a.getLsbD 31 := by
        rw [BitVec.getLsbD_signExtend, hmsb, decide_eq_true hn, Bool.true_and]
      have htop : 32 - l ≤ 31 := by omega
      simp only [hl, if_false, if_true, Bool.true_and, Bool.and_true, BitVec.getLsbD_sshiftRight,
        BitVec.msb_eq_getLsbD_last, show ¬ 32 ≤ k by omega, decide_false, Bool.not_false]
      by_cases hkl : k < l
      · rw [if_pos (by omega), if_pos hkl, getLsbD_field _ (by omega),
          show p + (32 - l + k - (32 - l)) = p + k by omega, hsrc _ (by omega)]
        simp
      · rw [if_neg (by omega), if_neg hkl, getLsbD_field _ (by omega),
          show p + (32 - 1 - (32 - l)) = p + l - 1 by omega, hsrc _ (by omega)]
        simp [htop, Nat.pos_of_ne_zero hl]

theorem getLsbD_bfiOf (a b c : W32) {k : Nat} (hk : k < 32) : (bfiOf a b c).getLsbD k =
    if fieldPos b ≤ k ∧ k < fieldPos b + fieldLen b then a.getLsbD (k - fieldPos b) else c.getLsbD k := by
  have hlen := fieldLen_le b
  unfold bfiOf
  generalize fieldPos b = p
  generalize fieldLen b = l at *
  have hmask : (BitVec.ofNat 32 (2 ^ l - 1) <<< p).getLsbD k = decide (p ≤ k ∧ k < p + l) := by
    have hin : k - p < 32 := by omega
    rw [BitVec.getLsbD_shiftLeft, BitVec.getLsbD_ofNat, Nat.testBit_two_pow_sub_one]
    by_cases h : p ≤ k
    · simp [hk, h, hin, Nat.not_lt.mpr h]
      omega
    · simp [h, Nat.lt_of_not_le h]
  simp only [BitVec.getLsbD_or, BitVec.getLsbD_and, BitVec.getLsbD_not, hmask, hk]
  by_cases h : p ≤ k ∧ k < p + l
  · have hin : k - p < 32 := by omega
    simp [h, hk, hin, Nat.not_lt.mpr h.1]
  · simp [h]

/-! ### Bytes (R197) -/

/-- The bytes of four bytes. -/
theorem byte_of_four (f : Nat → Byte) : ∀ k < 4,
    ((f 3 ++ f 2 ++ f 1 ++ f 0 : W32)).extractLsb' (8 * k) 8 = f k := by
  intro k hk
  have h0 := bits_append_low (f 3 ++ f 2 ++ f 1) (f 0)
  have h1 := (bits_append_above (f 3 ++ f 2 ++ f 1) (f 0) 0 8).trans (bits_append_low (f 3 ++ f 2) (f 1))
  have h2 := (bits_append_above (f 3 ++ f 2 ++ f 1) (f 0) 8 8).trans ((bits_append_above (f 3 ++ f 2) (f 1) 0 8).trans
    (bits_append_low (f 3) (f 2)))
  have h3 := (bits_append_above (f 3 ++ f 2 ++ f 1) (f 0) 16 8).trans ((bits_append_above (f 3 ++ f 2) (f 1) 8 8).trans
    ((bits_append_above (f 3) (f 2) 0 8).trans (bits_all (f 3))))
  interval_cases k
  exacts [h0, h1, h2, h3]

/-- What `PERMB` puts into byte `k`. -/
def permbByte (mode : BitVec 2) (t : List W32) (b : W32) (k : Nat) : Byte :=
  let x := wordByte b k
  let n := if mode = 1 then (x.extractLsb' 4 4).toNat else (x.extractLsb' 0 4).toNat
  if mode = 2 ∧ x.getLsbD 7 then 0 else wordByte (t.getD (n / 4) 0) (n % 4)

theorem permbOf_byte (mode : BitVec 2) (t : List W32) (b : W32) {k : Nat} (hk : k < 4) :
    (permbOf mode t b).extractLsb' (8 * k) 8 = permbByte mode t b k :=
  byte_of_four (permbByte mode t b) k hk

/-! ### Atomics (R107) -/

theorem toInt_ofNat_eq_toSigned (w v : Nat) : (BitVec.ofNat w v).toInt = toSigned w v := by
  rw [BitVec.toInt_eq_toNat_cond, BitVec.toNat_ofNat, toSigned]
  norm_cast

section atomNew
variable {n old x : Nat} (hold : old < 2 ^ (8 * n)) (hx : x < 2 ^ (8 * n)) (cmp : Nat)
include hold hx

theorem atomNew_bitwise : atomNew .and n old x cmp = old &&& x ∧ atomNew .or n old x cmp = old ||| x ∧
    atomNew .xor n old x cmp = old ^^^ x := by
  simp [atomNew, Nat.mod_eq_of_lt hold, Nat.mod_eq_of_lt hx]

theorem atomNew_unsigned : atomNew .minu n old x cmp = Nat.min old x ∧ atomNew .maxu n old x cmp = Nat.max old x := by
  simp only [atomNew, minU, maxU, apply_ite BitVec.toNat, BitVec.toNat_ofNat, Nat.mod_eq_of_lt hold,
    Nat.mod_eq_of_lt hx]
  exact ⟨Nat.min_def.symm, Nat.max_def.symm.trans (Nat.max_comm x old)⟩

theorem atomNew_signed :
    atomNew .min n old x cmp = (if toSigned (8 * n) old ≤ toSigned (8 * n) x then old else x) ∧
    atomNew .max n old x cmp = (if toSigned (8 * n) old ≥ toSigned (8 * n) x then old else x) := by
  simp only [atomNew, minS, maxS, toInt_ofNat_eq_toSigned, apply_ite BitVec.toNat,
    BitVec.toNat_ofNat, Nat.mod_eq_of_lt hold, Nat.mod_eq_of_lt hx, ge_iff_le, and_self]

theorem atomNew_cas (hcmp : cmp < 2 ^ (8 * n)) : atomNew .cas n old x cmp = if old = cmp then x else old := by
  have heq : BitVec.ofNat (8 * n) old = BitVec.ofNat (8 * n) cmp ↔ old = cmp := by
    rw [← BitVec.toNat_inj, BitVec.toNat_ofNat, BitVec.toNat_ofNat, Nat.mod_eq_of_lt hold, Nat.mod_eq_of_lt hcmp]
  simp only [atomNew, heq, apply_ite BitVec.toNat, BitVec.toNat_ofNat, Nat.mod_eq_of_lt hold, Nat.mod_eq_of_lt hx]

end atomNew

theorem atomNew_add (n old x cmp : Nat) : atomNew .add n old x cmp = (old + x) % 2 ^ (8 * n) := by
  simp [atomNew]

theorem atomNew_xchg {n x : Nat} (old : Nat) (hx : x < 2 ^ (8 * n)) (cmp : Nat) : atomNew .xchg n old x cmp = x :=
  (BitVec.toNat_ofNat _ _).trans (Nat.mod_eq_of_lt hx)

/-- Settles O35: each function by its bits, each atomic by the operation on words. -/
theorem bitAndAtomicFunctions : Obligations.BitAndAtomicFunctions := by
  refine ⟨fun n _ old x cmp hold hx hcmp => ?atomics, fun lut a b c _ hk => getLsbD_bitfnOf lut a b c hk,
    fun a _ hk => getLsbD_brevOf a hk, fun a b _ hk => getLsbD_bfeOf a b hk, fun a b c _ hk => getLsbD_bfiOf a b c hk,
    fun mode t b _ hk => permbOf_byte mode t b hk⟩
  case atomics =>
    obtain ⟨hand, hor, hxor⟩ := atomNew_bitwise hold hx cmp
    obtain ⟨hminu, hmaxu⟩ := atomNew_unsigned hold hx cmp
    obtain ⟨hmin, hmax⟩ := atomNew_signed hold hx cmp
    exact ⟨atomNew_add n old x cmp, hand, hor, hxor, hminu, hmaxu, hmin, hmax, atomNew_xchg old hx cmp,
      atomNew_cas hold hx cmp hcmp⟩

end Sys2Proof
end

section
/-! O18, refuted by a concrete state: an acquire at DEVICE sets the stamp of the agent's floor (R263) and does not raise it,
and the statement asks nothing of the stamps that a state holds. -/

namespace Sys2Proof
open Machine

/-- Releases of core 0 hand on stamp 1, while no write of device memory has been performed yet. -/
def handingOn : State := State.reset.updCore 0 fun k => { k with relCore := { acq := 1 } }

/-- What is handed on covers stamp 1; the floor that the acquire leaves covers the stamp of device memory, which is 0. -/
theorem stampOf_acquire_handingOn : (handingOn.core 0).relCore.stampOf 0 = 1 ∧
    (((handingOn.acquire 0 .seq .device).core 0).floorOf .seq).stampOf 0 = 0 := by decide +kernel

/-- Refutes O18: where releases have handed on a stamp beyond that of device memory, an acquire at DEVICE leaves the
agent's floor below what they handed on. -/
theorem not_sequencerAtomics : ¬ Obligations.SequencerAtomics := by
  rintro ⟨-, -, -, -, -, -, hacquire⟩
  obtain ⟨-, -, -, hhanded⟩ := hacquire 0 .seq .device handingOn (.inl rfl)
  obtain ⟨hbefore, hafter⟩ := stampOf_acquire_handingOn
  have hle := hhanded 0
  rw [hbefore, hafter] at hle
  exact absurd hle (by decide)

end Sys2Proof
end

section
/-! The on-core memories byte by byte, and a core's list of ops: what O48 needs of both (R13, R144, R279). -/

namespace Sys2Proof
open Machine

/-! ### The Kennel and accumulator memory, byte by byte -/

theorem byteIn_eq (m : CoreMem) (acc : Bool) (x : Nat) : m.byteIn acc x =
    if m.hole ((if acc then accMap else 0) + x) then Config.residue m.seed ((if acc then accMap else 0) + x)
    else memRead (if acc then m.acc else m.kennel) x := by
  cases acc <;> rfl

theorem kread_eq_map (m : CoreMem) (a n : Nat) : m.kread a n = (List.range n).map fun i => m.byteIn false (a + i) := by
  simp [CoreMem.kread, CoreMem.bytes, byteIn_eq]

theorem aread_eq_map (m : CoreMem) (a n : Nat) : m.aread a n = (List.range n).map fun i => m.byteIn true (a + i) := by
  simp [CoreMem.aread, CoreMem.bytes, byteIn_eq, Nat.add_assoc]

theorem kread_one (m : CoreMem) (x : Nat) : m.kread x 1 = [m.byteIn false x] := by simp [kread_eq_map]

theorem aread_one (m : CoreMem) (x : Nat) : m.aread x 1 = [m.byteIn true x] := by simp [aread_eq_map]

/-- A write to one of the two memories, which `acc` names. -/
def putIn (m : CoreMem) (acc : Bool) (a : Nat) (bs : List Byte) : CoreMem := if acc then m.aput a bs else m.kput a bs

theorem putIn_wf {m : CoreMem} (h : CoreMem.wf m = true) (acc : Bool) (a : Nat) (bs : List Byte) :
    CoreMem.wf (putIn m acc a bs) = true := by
  cases acc
  · exact kput_wf h a bs
  · exact aput_wf h a bs

theorem write_eq_putIn (k : Core) (acc : Bool) (a : Nat) (bs : List Byte) :
    (if acc then k.awrite a bs else k.kwrite a bs) = { k with mem := putIn k.mem acc a bs } := by
  cases acc <;> rfl

theorem hole_putIn (m : CoreMem) (acc : Bool) (a : Nat) (bs : List Byte) (y : Nat) : (putIn m acc a bs).hole y =
    (!(decide ((if acc then accMap else 0) + a ≤ y) && decide (y < (if acc then accMap else 0) + a + bs.length)) &&
      m.hole y) := by
  cases acc
  · simp only [Bool.false_eq_true, if_false, Nat.zero_add]
    exact hole_fillHoles a bs.length y m.holes
  · exact hole_fillHoles (accMap + a) bs.length y m.holes

/-- A byte after a write within its memory: the two memories do not reach into one another. -/
theorem byteIn_putIn {m : CoreMem} (h : CoreMem.wf m = true) {acc acc' : Bool} {a x : Nat} {bs : List Byte}
    (ha : acc' = false → a + bs.length ≤ 0x100000) (hx : acc = false → x < 0x100000) :
    (putIn m acc' a bs).byteIn acc x =
      if acc = acc' ∧ a ≤ x ∧ x < a + bs.length then bs.getD (x - a) 0 else m.byteIn acc x := by
  simp only [CoreMem.wf, Bool.and_eq_true] at h
  obtain ⟨⟨hk, hacc⟩, -⟩ := h
  have hkennel := memRead_memPutN hk a bs x
  have haccum := memRead_memPutN hacc a bs x
  rw [byteIn_eq, byteIn_eq, hole_putIn]
  have hmap : accMap = 0x100000 := rfl
  cases acc <;> cases acc' <;> simp only [Bool.false_eq_true, ↓reduceIte, forall_const, Nat.zero_add, true_and, false_and,
    reduceCtorEq, IsEmpty.forall_iff] at ha hx ⊢
  · change (if _ then _ else memRead (memPutN m.kennel a bs) x) = _
    rw [hkennel]
    by_cases hin : a ≤ x ∧ x < a + bs.length
    · simp [hin]
    · simp only [← Bool.decide_and, hin, decide_false, Bool.not_false, Bool.true_and, if_false]
      rfl
  · have hout : ¬ (accMap + a ≤ x ∧ x < accMap + a + bs.length) := by omega
    simp only [← Bool.decide_and, hout, decide_false, Bool.not_false, Bool.true_and]
    rfl
  · have hout : ¬ (a ≤ accMap + x ∧ accMap + x < a + bs.length) := by omega
    simp only [← Bool.decide_and, hout, decide_false, Bool.not_false, Bool.true_and]
    rfl
  · change (if _ then _ else memRead (memPutN m.acc a bs) x) = _
    rw [haccum]
    have hiff : (accMap + a ≤ accMap + x ∧ accMap + x < accMap + a + bs.length) ↔ a ≤ x ∧ x < a + bs.length := by omega
    simp only [← Bool.decide_and, hiff]
    by_cases hin : a ≤ x ∧ x < a + bs.length
    · simp only [hin, and_self, decide_true, Bool.not_true, Bool.false_and, Bool.false_eq_true, if_false, if_true]
    · simp only [hin, decide_false, Bool.not_false, Bool.true_and, if_false]
      rfl

/-- A write of some bytes: accumulator memory or Kennel, the address, the bytes. -/
abbrev Piece := Bool × Nat × List Byte

/-- The piece writes byte `x` of this memory. -/
def Piece.covers (w : Piece) (acc : Bool) (x : Nat) : Prop := acc = w.1 ∧ w.2.1 ≤ x ∧ x < w.2.1 + w.2.2.length

/-- Pieces written one after another. -/
def putAll (m : CoreMem) (ws : List Piece) : CoreMem := ws.foldl (fun m w => putIn m w.1 w.2.1 w.2.2) m

theorem foldl_write_eq_putAll (k : Core) (ws : List Piece) :
    ws.foldl (fun k w => if w.1 then k.awrite w.2.1 w.2.2 else k.kwrite w.2.1 w.2.2) k = { k with mem := putAll k.mem ws } := by
  induction ws generalizing k with
  | nil => rfl
  | cons w ws ih => rw [List.foldl_cons, write_eq_putIn, ih]; rfl

/-- A byte after several writes: what every piece that covers it says, where one covers it or it stood there already. -/
theorem byteIn_putAll {m : CoreMem} (h : CoreMem.wf m = true) {ws : List Piece} {acc : Bool} {x : Nat} {v : Byte}
    (hfits : ∀ w ∈ ws, w.1 = false → w.2.1 + w.2.2.length ≤ 0x100000) (hx : acc = false → x < 0x100000)
    (hsays : ∀ w ∈ ws, w.covers acc x → w.2.2.getD (x - w.2.1) 0 = v)
    (hthere : (∃ w ∈ ws, w.covers acc x) ∨ m.byteIn acc x = v) : (putAll m ws).byteIn acc x = v := by
  induction ws generalizing m with
  | nil => simpa [putAll] using hthere
  | cons w ws ih =>
    have hbyte := byteIn_putIn h (hfits w List.mem_cons_self) hx (acc := acc)
    refine ih (putIn_wf h _ _ _) (fun w hw => hfits w (List.mem_cons_of_mem _ hw))
      (fun w hw => hsays w (List.mem_cons_of_mem _ hw)) ?_
    rw [hbyte]
    by_cases hw : w.covers acc x
    · exact .inr ((if_pos hw).trans (hsays w List.mem_cons_self hw))
    · refine hthere.imp (fun ⟨u, hu, hcov⟩ => ?_) fun hm => (if_neg hw).trans hm
      rcases List.mem_cons.mp hu with rfl | hu
      · exact absurd hcov hw
      · exact ⟨u, hu, hcov⟩

/-- A byte that no piece covers stays. -/
theorem byteIn_putAll_outside {m : CoreMem} (h : CoreMem.wf m = true) {ws : List Piece} {acc : Bool} {x : Nat}
    (hfits : ∀ w ∈ ws, w.1 = false → w.2.1 + w.2.2.length ≤ 0x100000) (hx : acc = false → x < 0x100000)
    (hout : ∀ w ∈ ws, ¬ w.covers acc x) : (putAll m ws).byteIn acc x = m.byteIn acc x :=
  byteIn_putAll h hfits hx (fun w hw hcov => absurd hcov (hout w hw)) (.inr rfl)

/-! ### The ops of a core -/

theorem op?_updOp (k : Core) (id : Nat) {f : Op → Op} (hf : ∀ o, (f o).id = o.id) :
    (k.updOp id f).op? id = (k.op? id).map f := by
  have hids : ((fun o : Op => o.id == id) ∘ fun o => if o.id = id then f o else o) = fun o => o.id == id := by
    funext o
    simp only [Function.comp_apply]
    split_ifs
    · rw [hf]
    · rfl
  simp only [Core.op?, Core.updOp, List.find?_map, hids]
  refine Option.map_congr fun o ho => if_pos ?_
  simpa using List.find?_some ho

theorem id_of_op? {k : Core} {id : Nat} {o : Op} (h : k.op? id = some o) : o.id = id := by
  simpa using List.find?_some h

end Sys2Proof
end

section
/-! O48, the run of an engine op: its start, and the parts in which it reads its operands, computes and writes its
result (R124, R126, R143, R257). -/

namespace Sys2Proof
open Machine

/-! ### The start (R124, R126, R180) -/

/-- An engine op that no close holds back and that meets no range lock makes its step. -/
theorem exec_engineOpStart {c : CoreNo} {conv : Bool} {s : State} {o : Op} (hrun : (s.core c).enginesRun = true)
    (hstart : (s.core c).startable (if conv then .conv else .matrix) = some o)
    (hclose : o.entry.engfn = 5 → o.st = .queued → ∀ d, tileOf c o.rcd.d = some d → d.d.pidx ∉ s.openCloses c)
    (hlock : (s.core c).opLocked (engineTouch s c o) = false) :
    exec (.engineOpStart c conv) s = .next (engineStep c o s.choice.1 s.choice.2) := by
  change execEngineOpStart c conv s = _
  simp only [execEngineOpStart, hstart, hrun, hlock, Bool.not_true, Bool.false_or, Bool.or_false]
  refine if_neg fun hwaits => ?_
  simp only [Bool.and_eq_true, beq_iff_eq] at hwaits
  obtain ⟨⟨hfn, hst⟩, hopen⟩ := hwaits
  cases hd : tileOf c o.rcd.d with
  | none => simp [hd] at hopen
  | some d => exact hclose hfn hst d hd (by simpa [hd] using hopen)

/-- Choice 0 makes the whole of an op that has read nothing yet. -/
theorem engineStep_zero {c : CoreNo} {o : Op} {s : State} (hresult : o.result = none) (hseen : o.seen = []) :
    engineStep c o 0 s = startOp c o s := by
  simp [engineStep, hresult, hseen]

/-! ### The checks and the function (R143, R285) -/

/-- The op has executed, with this status, SCALE and folds. -/
def executedIn (c : CoreNo) (o : Op) (st : OpStatus) (scale : Option W32) (folded : List Nat) (u : State) : State :=
  u.updCore c fun k => k.updOp o.id fun x => { x with st := .executed st scale, folded := folded }

section run
variable {c : CoreNo} {o : Op} {s : State} {d : Tile}

theorem startOp_of_fault {f : OpStatus} (h : engineFault s c o.entry.engfn o.rcd.word.md.toNat o.rcd = some f) :
    startOp c o s = executedIn c o f none [] s := by
  simp [startOp, executedIn, h]

theorem startOp_of_poisoned {t : Tile} (h : engineFault s c o.entry.engfn o.rcd.word.md.toNat o.rcd = none)
    (hd : tileOf c o.rcd.d = some d) (ht : (tilesRead o.entry.engfn o.rcd.word.md.toNat d (tileOf c o.rcd.a)
      (tileOf c o.rcd.b)).find? s.tilePoisoned = some t) :
    startOp c o s = executedIn c o { cause := .memoryError, addr := BitVec.ofNat 64 t.d.base } none [] s := by
  simp [startOp, executedIn, h, hd, ht]

/-- The indices that the function reads A by: its table's, else the columns in order. -/
def tableOf (c : CoreNo) (o : Op) (d : Tile) (s : State) : List Nat :=
  let cols := ((tileOf c o.rcd.a).map fun x => x.d.cols).getD d.d.cols
  ((tableAddr o.entry.engfn o.rcd.word.md.toNat o.rcd).map fun x => readTable (s.core c) x.toNat cols).getD
    (List.range cols)

theorem startOp_of_checked (h : engineFault s c o.entry.engfn o.rcd.word.md.toNat o.rcd = none)
    (hd : tileOf c o.rcd.d = some d) (ht : (tilesRead o.entry.engfn o.rcd.word.md.toNat d (tileOf c o.rcd.a)
      (tileOf c o.rcd.b)).find? s.tilePoisoned = none) :
    let r := runEngine c o o.entry.engfn o.rcd.word.md.toNat d (tileOf c o.rcd.a) (tileOf c o.rcd.b) (tableOf c o d s) s
    startOp c o s = executedIn c o r.st r.scale r.folded r.s := by
  simp only [startOp, executedIn, tableOf, h, hd, ht]
  cases tileOf c o.rcd.a <;> cases tableAddr o.entry.engfn o.rcd.word.md.toNat o.rcd <;> rfl

end run

/-! ### What a run leaves alone: device memory, the ops, the lanes' SRAM -/

/-- What the bytes of the memories hang on beside those that an engine writes, and the ops of the core. -/
def engineRest (s : State) (c : CoreNo) : Memory × Scrub × Memory × Nat × List Op :=
  (s.dev.hbm, s.dev.scrub, (s.core c).mem.priv, (s.core c).mem.seed, (s.core c).ops)

theorem engineRest_updCore {s : State} {c : CoreNo} {f : Core → Core}
    (hpriv : (f (s.core c)).mem.priv = (s.core c).mem.priv) (hseed : (f (s.core c)).mem.seed = (s.core c).mem.seed) (hops : (f (s.core c)).ops = (s.core c).ops) :
    engineRest (s.updCore c f) c = engineRest s c := by
  simp [engineRest, hpriv, hseed, hops]

theorem engineRest_choice (s : State) (c : CoreNo) : engineRest s.choice.2 c = engineRest s c := by
  unfold State.choice
  split <;> rfl

theorem hostEvent_keeps (s : State) (ctx : W32) (e : Event) :
    (s.hostEvent ctx e).dev = s.dev ∧ (s.hostEvent ctx e).cores = s.cores := by
  unfold State.hostEvent
  split
  · exact ⟨rfl, rfl⟩
  · dsimp only
    split <;> exact ⟨rfl, rfl⟩

theorem engineRest_machineCheck (s : State) (source : Nat) (ctx : W32) (core slice : Nat) (info pa : W64) (c : CoreNo) :
    engineRest (s.machineCheck source (some ctx) core slice info pa) c = engineRest s c := by
  obtain ⟨hdev, hcores⟩ := hostEvent_keeps (s.toMgmt (.machineCheck (s.mcRecord source (ctxPart ctx).val core slice info pa)))
    ctx ((s.toMgmt (.machineCheck (s.mcRecord source (ctxPart ctx).val core slice info pa))).mkEvent 6 (BitVec.allOnes 32) 0
      (s.mcRecord source (ctxPart ctx).val core slice info pa))
  simp only [State.machineCheck, engineRest, State.core, hdev, hcores]
  rfl

theorem engineRest_writeCells (c : CoreNo) (d : Desc) (cs : Cells) (s : State) :
    engineRest (writeCells c d cs s) c = engineRest s c := by
  have hkeeps := foldl_keeps (fun k : Core => (k.mem.priv, k.mem.seed, k.ops))
    (fun k (row : List FRes × Nat) => if d.space = spaceAcc then k.awrite (d.base + row.2 * d.pitch) (rowBytes d row.1)
      else k.kwrite (d.base + row.2 * d.pitch) (rowBytes d row.1)) (fun k row => by split <;> rfl) (s.core c) cs.zipIdx
  exact engineRest_updCore (congrArg Prod.fst hkeeps) (congrArg (·.2.1) hkeeps) (congrArg (·.2.2) hkeeps)

theorem engineRest_commit (c : CoreNo) (o : Op) (d : Desc) (cs : Cells) (s : State) :
    engineRest (commit c o d cs s).s c = engineRest s c := by
  unfold commit
  dsimp only
  split
  · exact (engineRest_updCore rfl rfl rfl).trans (engineRest_writeCells c d cs s)
  · exact engineRest_writeCells c d cs s

theorem engineRest_runMma (c : CoreNo) (o : Op) (md : Nat) (d a b : Tile) (table : List Nat) (s : State) :
    engineRest (runMma c o md d a b table s).s c = engineRest s c := by
  have hwork : engineRest (s.setWork c d.d (mmaCells s md d a b table)).choice.2 c = engineRest s c :=
    (engineRest_choice _ _).trans (engineRest_updCore rfl rfl rfl)
  unfold runMma
  dsimp only
  split
  · exact (engineRest_commit _ _ _ _ _).trans hwork
  · exact (engineRest_machineCheck _ _ _ _ _ _ _ _).trans ((engineRest_commit _ _ _ _ _).trans hwork)

theorem engineRest_runEngine (c : CoreNo) (o : Op) (fn md : Nat) (d : Tile) (a b : Option Tile) (table : List Nat)
    (s : State) : engineRest (runEngine c o fn md d a b table s).s c = engineRest s c := by
  unfold runEngine
  split
  case h_1 => exact engineRest_runMma _ _ _ _ _ _ _ _
  case h_5 => exact engineRest_writeCells _ _ _ _
  all_goals exact engineRest_commit _ _ _ _ _

/-- An op that runs stays in its core's list; but for that only the bytes of D, folds and the working buffer change. -/
theorem startOp_keeps (c : CoreNo) (o : Op) (s : State) : ∃ u st scale folded,
    startOp c o s = executedIn c o st scale folded u ∧ engineRest u c = engineRest s c := by
  cases hf : engineFault s c o.entry.engfn o.rcd.word.md.toNat o.rcd with
  | some f => exact ⟨s, f, none, [], startOp_of_fault hf, rfl⟩
  | none =>
    cases hd : tileOf c o.rcd.d with
    | none => exact ⟨s, {}, none, [], by simp [startOp, executedIn, hf, hd], rfl⟩
    | some d =>
      cases ht : (tilesRead o.entry.engfn o.rcd.word.md.toNat d (tileOf c o.rcd.a) (tileOf c o.rcd.b)).find?
          s.tilePoisoned with
      | some t => exact ⟨s, _, none, [], startOp_of_poisoned hf hd ht, rfl⟩
      | none => exact ⟨_, _, _, _, startOp_of_checked hf hd ht, engineRest_runEngine _ _ _ _ _ _ _ _ _⟩

/-! ### Reading in parts (R106, R257) -/

theorem engineRest_seenBy (s : State) (o : Op) (c : CoreNo) : engineRest (s.seenBy o) c = engineRest s c := by
  refine foldl_keeps (fun s => engineRest s c) _ (fun s b => ?_) s o.seen
  have hcore := core_updCore_keeps (fun k : Core => (k.mem.priv, k.mem.seed, k.ops)) s b.core
    (fun k => { k with mem := k.mem.show b }) (by unfold CoreMem.show; split <;> rfl) c
  simp only [engineRest, State.updCore_dev]
  exact congrArg (fun v => (s.dev.hbm, s.dev.scrub, v)) hcore

/-- The bytes that a step reads, of those that the op has not read yet. -/
def newlySeen (c : CoreNo) (o : Op) (take : Nat → Bool) (s : State) : List SeenByte :=
  (readPlacesOf s c o).zipIdx.filterMap fun x =>
    if take x.2 && !(o.seen.any fun b => b.core == x.1.1 && b.acc == x.1.2.1 && b.addr == x.1.2.2) then
      some { core := x.1.1, acc := x.1.2.1, addr := x.1.2.2, val := (s.core x.1.1).mem.byteIn x.1.2.1 x.1.2.2 }
    else none

theorem newlySeen_spec {c : CoreNo} {o : Op} {take : Nat → Bool} {s : State} {b : SeenByte}
    (hb : b ∈ newlySeen c o take s) :
    (b.core, b.acc, b.addr) ∈ readPlacesOf s c o ∧ b.val = (s.core b.core).mem.byteIn b.acc b.addr := by
  obtain ⟨p, hp, hpb⟩ := List.mem_filterMap.mp hb
  split_ifs at hpb
  obtain rfl := Option.some.inj hpb
  exact ⟨List.fst_mem_of_mem_zipIdx hp, rfl⟩

theorem op?_readSome {c : CoreNo} {o x : Op} (take : Nat → Bool) {s : State} (hx : (s.core c).op? o.id = some x) :
    ((readSome c o take s).core c).op? o.id =
      some { x with st := .running, seen := x.seen ++ newlySeen c o take s } := by
  unfold readSome
  rw [State.core_updCore_same]
  refine (op?_updOp _ _ fun _ => ?_).trans ?_
  · rfl
  · rw [hx]
    rfl

theorem sameMemory_readSome (c : CoreNo) (o : Op) (take : Nat → Bool) (s : State) : SameMemory s (readSome c o take s) :=
  sameMemory_updCore s c _ rfl

theorem updOp_mem (k : Core) (id : Nat) (f : Op → Op) : (k.updOp id f).mem = k.mem := rfl

theorem bytesOf_reads {m n : CoreMem} (hpriv : m.priv = n.priv) (hseed : m.seed = n.seed) (a : Nat) :
    (m.bytesOf n).kread a 1 = n.kread a 1 ∧ (m.bytesOf n).aread a 1 = n.aread a 1 ∧
      (m.bytesOf n).pread a 1 = n.pread a 1 := by
  cases m
  cases n
  simp only at hpriv hseed
  subst hpriv hseed
  exact ⟨rfl, rfl, rfl⟩

theorem SameMemory.trans {s t u : State} (h : SameMemory s t) (h' : SameMemory t u) : SameMemory s u :=
  ⟨fun pa => (h'.1 pa).trans (h.1 pa), fun c a => by
    obtain ⟨hk, ha, hp⟩ := h.2 c a
    obtain ⟨hk', ha', hp'⟩ := h'.2 c a
    exact ⟨hk'.trans hk, ha'.trans ha, hp'.trans hp⟩⟩

/-- The state `u` with every on-core memory as it stands in `s`. -/
def unwritten (c : CoreNo) (s u : State) : State :=
  { u with cores := Vector.ofFn fun d =>
      if d = c then { u.core d with mem := (u.core d).mem.bytesOf (s.core d).mem } else s.core d }

theorem sameMemory_unwritten {c : CoreNo} {s u : State} (hhbm : u.dev.hbm = s.dev.hbm) (hscrub : u.dev.scrub = s.dev.scrub)
    (hpriv : (u.core c).mem.priv = (s.core c).mem.priv) (hseed : (u.core c).mem.seed = (s.core c).mem.seed) :
    SameMemory s (unwritten c s u) := by
  refine ⟨fun pa => by simp only [unwritten, DevMem.byte, hhbm, hscrub], fun d a => ?_⟩
  have hcore : (unwritten c s u).core d =
      if d = c then { u.core d with mem := (u.core d).mem.bytesOf (s.core d).mem } else s.core d := by
    simp [unwritten, State.core]
  rw [hcore]
  split_ifs with hd
  · subst hd
    exact bytesOf_reads hpriv hseed a
  · exact ⟨rfl, rfl, rfl⟩

/-- The op computes with its writes still to be made: every memory stays. -/
theorem sameMemory_computeOp {c : CoreNo} {o : Op} {s : State} (ho : ((s.core c).op? o.id).isSome = true) :
    SameMemory s (computeOp c o s) := by
  obtain ⟨x, hx⟩ := Option.isSome_iff_exists.mp ho
  obtain ⟨w, st, scale, folded, hstart, hrest⟩ := startOp_keeps c o (s.seenBy o)
  rw [engineRest_seenBy] at hrest
  simp only [engineRest, Prod.mk.injEq] at hrest
  obtain ⟨hhbm, hscrub, hpriv, hseed, hops⟩ := hrest
  have hop : ((startOp c o (s.seenBy o)).core c).op? o.id = some { x with st := .executed st scale, folded := folded } := by
    have hw : (w.core c).op? o.id = some x := by rw [← hx]; simp only [Core.op?, hops]
    rw [hstart, executedIn, State.core_updCore_same]
    refine (op?_updOp _ _ fun _ => ?_).trans ?_
    · rfl
    · rw [hw]
      rfl
  have hback : SameMemory s (unwritten c s (startOp c o (s.seenBy o))) := by
    refine sameMemory_unwritten ?_ ?_ ?_ ?_ <;> rw [hstart, executedIn]
    · exact hhbm
    · exact hscrub
    · rw [State.core_updCore_same]
      exact hpriv
    · rw [State.core_updCore_same]
      exact hseed
  simp only [computeOp, hop]
  split_ifs
  · exact hback.trans (sameMemory_updCore _ _ _ (updOp_mem _ _ _))
  · exact hback

/-! ### Writing in parts (R106, R257) -/

/-- The bytes that a step writes, of those that the op has still to write. -/
def todoPieces (o : Op) (take : Nat → Bool) : List Piece :=
  (o.todo.zipIdx.filter fun x => take x.2).map fun x => (x.1.acc, x.1.addr, [x.1.val])

theorem mem_todoPieces {o : Op} {take : Nat → Bool} {w : Piece} : w ∈ todoPieces o take ↔
    ∃ (i : Nat) (b : TodoByte), o.todo[i]? = some b ∧ take i = true ∧ w = (b.acc, b.addr, [b.val]) := by
  simp only [todoPieces, List.mem_map, List.mem_filter, List.mem_zipIdx_iff_getElem?, Prod.exists]
  constructor
  · rintro ⟨b, i, ⟨hb, hi⟩, rfl⟩
    exact ⟨i, b, hb, hi, rfl⟩
  · rintro ⟨i, b, hb, hi, rfl⟩
    exact ⟨b, i, ⟨hb, hi⟩, rfl⟩

theorem covers_byte {b : TodoByte} {acc : Bool} {x : Nat} :
    Piece.covers (b.acc, b.addr, [b.val]) acc x ↔ b.acc = acc ∧ b.addr = x := by
  simp only [Piece.covers, List.length_singleton]
  constructor
  · rintro ⟨rfl, hle, hlt⟩
    exact ⟨rfl, by omega⟩
  · rintro ⟨rfl, rfl⟩
    exact ⟨rfl, by omega, by omega⟩

section writes
variable {c : CoreNo} {s : State} {o : Op} {take : Nat → Bool} {st : OpStatus} {scale : Option W32}
  (hresult : o.result = some (st, scale)) (hwork : o.entry.engfn = 0 → (s.core c).mem.workPoison = [])
include hresult hwork

/-- The bytes named are written; with the last one the op has executed. -/
theorem writeSome_eq : writeSome c o take s = s.updCore c fun k =>
    ({ k with mem := putAll k.mem (todoPieces o take) } : Core).updOp o.id fun x =>
      if (o.todo.zipIdx.filter fun x => !take x.2).isEmpty then
        { x with st := .executed st scale, seen := [], result := none, todo := [] }
      else { x with todo := (o.todo.zipIdx.filter fun x => !take x.2).map Prod.fst } := by
  simp only [writeSome, hresult]
  rw [if_neg fun h => h.2 (hwork h.1)]
  simp only [← foldl_write_eq_putAll, todoPieces, List.foldl_map]

theorem mem_writeSome : ((writeSome c o take s).core c).mem = putAll (s.core c).mem (todoPieces o take) := by
  rw [writeSome_eq hresult hwork, State.core_updCore_same]
  rfl

theorem op?_writeSome (hall : ∀ i < o.todo.length, take i = true) {x : Op} (hx : (s.core c).op? o.id = some x) :
    ((writeSome c o take s).core c).op? o.id =
      some { x with st := .executed st scale, seen := [], result := none, todo := [] } := by
  have hrest : (o.todo.zipIdx.filter fun x => !take x.2) = [] := by
    refine List.filter_eq_nil_iff.mpr fun x hx => ?_
    have hlt := (List.getElem?_eq_some_iff.mp (List.mem_zipIdx_iff_getElem?.mp hx)).1
    simp [hall _ hlt]
  rw [writeSome_eq hresult hwork, State.core_updCore_same]
  simp only [hrest, List.isEmpty_nil, if_true]
  refine (op?_updOp _ _ fun _ => ?_).trans ?_
  · rfl
  · change ((s.core c).op? o.id).map _ = _
    rw [hx]
    rfl

variable (hwf : memoriesWf s = true) (hin : ∀ b ∈ o.todo, b.addr < if b.acc then 0x40000 else 0x100000)
include hwf hin

omit hresult hwork hwf in
theorem todoPieces_fit : ∀ w ∈ todoPieces o take, w.1 = false → w.2.1 + w.2.2.length ≤ 0x100000 := by
  intro w hw hacc
  obtain ⟨i, b, hb, -, rfl⟩ := mem_todoPieces.mp hw
  have hlt := hin b (List.mem_of_getElem? hb)
  simp only at hacc
  rw [hacc] at hlt
  exact hlt

/-- A byte that the step does not write stays. -/
theorem byteIn_writeSome_outside {acc : Bool} {x : Nat} (hx : acc = false → x < 0x100000)
    (hout : ¬ ∃ (i : Nat) (b : TodoByte), o.todo[i]? = some b ∧ take i = true ∧ b.acc = acc ∧ b.addr = x) :
    ((writeSome c o take s).core c).mem.byteIn acc x = (s.core c).mem.byteIn acc x := by
  rw [mem_writeSome hresult hwork]
  refine byteIn_putAll_outside ((memoriesWf_iff.mp hwf).2 c) (todoPieces_fit hin) hx fun w hw hcov => hout ?_
  obtain ⟨i, b, hb, hi, rfl⟩ := mem_todoPieces.mp hw
  exact ⟨i, b, hb, hi, covers_byte.mp hcov⟩

/-- A byte that the step writes has the value computed for it. -/
theorem byteIn_writeSome {i : Nat} {b : TodoByte} (hb : o.todo[i]? = some b) (hi : take i = true)
    (hone : ∀ (j : Nat) b', o.todo[j]? = some b' → (b'.acc, b'.addr) = (b.acc, b.addr) → b' = b) :
    ((writeSome c o take s).core c).mem.byteIn b.acc b.addr = b.val := by
  rw [mem_writeSome hresult hwork]
  have hlt := hin b (List.mem_of_getElem? hb)
  refine byteIn_putAll ((memoriesWf_iff.mp hwf).2 c) (todoPieces_fit hin) (fun hacc => ?_) (fun w hw hcov => ?_)
    (.inl ⟨_, mem_todoPieces.mpr ⟨i, b, hb, hi, rfl⟩, covers_byte.mpr ⟨rfl, rfl⟩⟩)
  · rwa [hacc] at hlt
  · obtain ⟨j, b', hb', -, rfl⟩ := mem_todoPieces.mp hw
    obtain ⟨hacc, haddr⟩ := covers_byte.mp hcov
    rw [hone j b' hb' (by rw [hacc, haddr])]
    simp

end writes

end Sys2Proof
end

section
/-! O48, the checks of an engine op: descriptors, the rules of its function, the table and the record (R143 to R145). -/

namespace Sys2Proof
open Machine

/-! ### Check 1: the operands (R20, R143) -/

/-- The operand is a tile that R20 refuses. -/
def BadTile (pedlimit : Nat) (v : OpVal) : Prop := ∃ t, v = .tile t ∧ (Desc.of t).ok pedlimit true = false

def badTile (pedlimit : Nat) (v : OpVal) : Bool :=
  match v with
  | .tile t => !(Desc.of t).ok pedlimit true
  | .none | .val _ => false

theorem badTile_iff {pedlimit : Nat} {v : OpVal} : badTile pedlimit v = true ↔ BadTile pedlimit v := by
  cases v <;> simp [badTile, BadTile]

theorem descFault_eq (pedlimit : Nat) (r : IssueRec) : descFault pedlimit r =
    if badTile pedlimit r.d then some (opFault .badDesc 0) else if badTile pedlimit r.a then some (opFault .badDesc 1)
    else if badTile pedlimit r.b then some (opFault .badDesc 2) else if badTile pedlimit r.c then some (opFault .badDesc 3)
    else none := rfl

/-- The first bad operand in the order D, A, B, C is the one that the fault names. -/
theorem descFault_of_first {pedlimit n : Nat} {r : IssueRec} {v : OpVal} (hv : [r.d, r.a, r.b, r.c][n]? = some v)
    (hbad : BadTile pedlimit v) (hfirst : ∀ m < n, ∀ w, [r.d, r.a, r.b, r.c][m]? = some w → ¬ BadTile pedlimit w) :
    descFault pedlimit r = some (opFault .badDesc n) := by
  simp only [← badTile_iff] at hbad hfirst
  rw [descFault_eq]
  match n, hv with
  | 0, hv =>
    obtain rfl : r.d = v := by simpa using hv
    simp [hbad]
  | 1, hv =>
    obtain rfl : r.a = v := by simpa using hv
    simp [hbad, hfirst 0 (by decide) r.d rfl]
  | 2, hv =>
    obtain rfl : r.b = v := by simpa using hv
    simp [hbad, hfirst 0 (by decide) r.d rfl, hfirst 1 (by decide) r.a rfl]
  | 3, hv =>
    obtain rfl : r.c = v := by simpa using hv
    simp [hbad, hfirst 0 (by decide) r.d rfl, hfirst 1 (by decide) r.a rfl, hfirst 2 (by decide) r.b rfl]
  | _ + 4, hv => simp at hv

theorem descFault_eq_none {pedlimit : Nat} {r : IssueRec} (h : ∀ v ∈ [r.d, r.a, r.b, r.c], ¬ BadTile pedlimit v) :
    descFault pedlimit r = none := by
  simp only [← badTile_iff] at h
  simp [descFault_eq, h]

/-! ### Checks 3 and 4: the table (R63, R143) -/

section table
variable {k : Core} {x : W64} {n : Nat}

theorem tableFault_align (h : x.toNat % 2 ≠ 0) : tableFault k x n = some { cause := .align, addr := x } := if_pos h

theorem tableFault_range (h : x.toNat % 2 = 0) (hend : 0x100000 < x.toNat + 2 * n) :
    tableFault k x n = some { cause := .kennelRange, addr := x } := by
  rw [tableFault, if_neg (not_not.mpr h)]
  exact if_pos hend

theorem tableFault_within (h : x.toNat % 2 = 0) (hend : x.toNat + 2 * n ≤ 0x100000) : tableFault k x n =
    if k.kpoisoned x.toNat (2 * n) then some { cause := .memoryError, addr := x }
    else if (readTable k x.toNat n).any fun i => decide (n ≤ i) then some { cause := .badPerm, addr := x } else none := by
  rw [tableFault, if_neg (not_not.mpr h)]
  exact if_neg (Nat.not_lt.mpr hend)

theorem tableFault_poison (h : x.toNat % 2 = 0) (hend : x.toNat + 2 * n ≤ 0x100000)
    (hpoison : k.kpoisoned x.toNat (2 * n) = true) : tableFault k x n = some { cause := .memoryError, addr := x } := by
  rw [tableFault_within h hend, if_pos hpoison]

theorem tableFault_badPerm (h : x.toNat % 2 = 0) (hend : x.toNat + 2 * n ≤ 0x100000)
    (hpoison : k.kpoisoned x.toNat (2 * n) = false) (hbad : ∃ i < n, n ≤ k.kword (x.toNat + 2 * i) 2) :
    tableFault k x n = some { cause := .badPerm, addr := x } := by
  have hany : ((readTable k x.toNat n).any fun i => decide (n ≤ i)) = true := by simpa [readTable] using hbad
  rw [tableFault_within h hend, hpoison, hany]
  rfl

end table

/-! ### The checks in order (R143) -/

/-- Check 5: the record of D. -/
def recordFault (s : State) (c : CoreNo) (fn : Nat) (d : Desc) : Option OpStatus :=
  if fn = 5 ∧ d.pidx = 0 then some { cause := .noStats }
  else if fn ≠ 5 ∧ d.space = 0 ∧ d.pidx ≠ 0 ∧ (s.dev.rcd (s.core c).ctx d.pidx).fmt ≠ d.fmt then
    some (opFault .illegalOperand 0)
  else none

theorem recordFault_noStats {s : State} {c : CoreNo} {fn : Nat} {d : Desc} (hfn : fn = 5) (hd : d.pidx = 0) :
    recordFault s c fn d = some { cause := .noStats } := if_pos ⟨hfn, hd⟩

theorem recordFault_format {s : State} {c : CoreNo} {fn : Nat} {d : Desc} (hfn : fn ≠ 5) (hspace : d.space = 0)
    (hd : d.pidx ≠ 0) (hfmt : (s.dev.rcd (s.core c).ctx d.pidx).fmt ≠ d.fmt) :
    recordFault s c fn d = some { cause := .illegalOperand } := by
  rw [recordFault, if_neg fun h => hfn h.1, if_pos ⟨hfn, hspace, hd, hfmt⟩]
  rfl

theorem recordFault_eq_none {s : State} {c : CoreNo} {fn : Nat} {d : Desc} (hstats : fn = 5 → d.pidx ≠ 0)
    (hfmt : fn ≠ 5 → d.space ≠ 0 ∨ d.pidx = 0 ∨ (s.dev.rcd (s.core c).ctx d.pidx).fmt = d.fmt) :
    recordFault s c fn d = none := by
  rw [recordFault, if_neg fun h => hstats h.1 h.2, if_neg]
  rintro ⟨hfn, hspace, hd, hne⟩
  rcases hfmt hfn with h | h | h
  exacts [h hspace, hd h, hne h]

section checks
variable {s : State} {c : CoreNo} {fn md : Nat} {r : IssueRec} {t : W128} (hd : r.d = .tile t)

theorem engineFault_of_desc {f : OpStatus} (h : descFault (s.pedlimit c) r = some f) :
    engineFault s c fn md r = some f := by
  simp [engineFault, h]

include hd

/-- With good descriptors the checks go on in this order: the function's rules, the table, the record. -/
theorem engineFault_eq (h : descFault (s.pedlimit c) r = none) : engineFault s c fn md r =
    (ruleFault fn md (Desc.of t) ((tileOf c r.a).map Tile.d) ((tileOf c r.b).map Tile.d)).or
      (((tableAddr fn md r).bind fun x => tableFault (s.core c) x
        ((((tileOf c r.a).map Tile.d).map Desc.cols).getD (Desc.of t).cols)).or (recordFault s c fn (Desc.of t))) := by
  have hdesc : (tileOf c r.d).map Tile.d = some (Desc.of t) := by rw [hd]; rfl
  simp only [engineFault, h, hdesc]
  cases ruleFault fn md (Desc.of t) ((tileOf c r.a).map Tile.d) ((tileOf c r.b).map Tile.d) with
  | some f => rfl
  | none =>
    have hcols : (match (tileOf c r.a).map Tile.d with | some a => a.cols | none => (Desc.of t).cols) =
        (((tileOf c r.a).map Tile.d).map Desc.cols).getD (Desc.of t).cols := by
      cases tileOf c r.a <;> rfl
    simp only [Option.none_or]
    rw [← hcols]
    cases tileOf c r.a <;> simp only [Option.map_none, Option.map_some] <;>
      cases (tableAddr fn md r).bind _ <;> rfl

section good
variable (hgood : ∀ v ∈ [r.d, r.a, r.b, r.c], ¬ BadTile (s.pedlimit c) v)
include hgood

theorem engineFault_of_rules {f : OpStatus}
    (h : ruleFault fn md (Desc.of t) ((tileOf c r.a).map Tile.d) ((tileOf c r.b).map Tile.d) = some f) :
    engineFault s c fn md r = some f := by
  rw [engineFault_eq hd (descFault_eq_none hgood), h, Option.some_or]

variable (hrules : ruleFault fn md (Desc.of t) ((tileOf c r.a).map Tile.d) ((tileOf c r.b).map Tile.d) = none)
include hrules

theorem engineFault_of_table {x : W64} {f : OpStatus} (hx : tableAddr fn md r = some x) (h : tableFault (s.core c) x
      ((((tileOf c r.a).map Tile.d).map Desc.cols).getD (Desc.of t).cols) = some f) :
    engineFault s c fn md r = some f := by
  rw [engineFault_eq hd (descFault_eq_none hgood), hrules, hx, Option.none_or, Option.bind_some, h, Option.some_or]

theorem engineFault_of_record (h : ∀ x, tableAddr fn md r = some x → tableFault (s.core c) x
      ((((tileOf c r.a).map Tile.d).map Desc.cols).getD (Desc.of t).cols) = none) :
    engineFault s c fn md r = recordFault s c fn (Desc.of t) := by
  have htable : (tableAddr fn md r).bind (fun x => tableFault (s.core c) x
      ((((tileOf c r.a).map Tile.d).map Desc.cols).getD (Desc.of t).cols)) = none := Option.bind_eq_none_iff.mpr h
  rw [engineFault_eq hd (descFault_eq_none hgood), hrules, htable, Option.none_or, Option.none_or]

end good
end checks

/-! ### Check 2: the rules of the functions (R145, R151 to R160) -/

theorem firstBroken_eq_none {rules : List (Bool × Nat)} : firstBroken rules = none ↔ ∀ x ∈ rules, x.1 = true := by
  simp [firstBroken]

theorem cause_firstBroken {rules : List (Bool × Nat)} {f : OpStatus} (h : firstBroken rules = some f) :
    f.cause = .illegalOperand := by
  obtain ⟨r, -, rfl⟩ := Option.map_eq_some_iff.mp h
  rfl

/-- The pairs of formats that `MMA` takes, with their K step and the accumulator's format (R56). -/
theorem mmaPair_eq_some {a b : Fmt} {p : Nat × Fmt} : mmaPair a b = some p ↔
    ((a = .int8 ∨ a = .uint8) ∧ (b = .int8 ∨ b = .uint8) ∧ p = (48, .int32)) ∨
    (a = .pw8 ∧ b = .int8 ∧ p = (48, .int32)) ∨
    ((a = .e4m3 ∨ a = .e5m2) ∧ (b = .e4m3 ∨ b = .e5m2) ∧ p = (48, .fp32)) ∨
    ((a = .bf16 ∨ a = .fp16) ∧ b = a ∧ p = (24, .fp32)) := by
  cases a <;> cases b <;> simp [mmaPair, eq_comm (b := p)]

theorem inKR_iff {d : Desc} : inKR d = true ↔ d.space = 0 ∨ d.space = 2 := by simp [inKR, spaceKennel, spaceRemote]

theorem floatHK_iff {f : Fmt} : floatHK f = true ↔ f = .fp32 ∨ f = .bf16 ∨ f = .fp16 := by simp [floatHK, or_assoc]

theorem quantFmt_iff {f : Fmt} : quantFmt f = true ↔ f = .int8 ∨ f = .e4m3 ∨ f = .e5m2 ∨ f = .pw8 := by
  simp [quantFmt, or_assoc]

theorem unaryRules_iff {d a : Desc} :
    (∀ x ∈ unaryRules d a, x.1 = true) ↔ a.rows = d.rows ∧ a.cols = d.cols := by
  simp [unaryRules, eq_comm (a := a.rows), eq_comm (a := a.cols)]

theorem mmaRules_eq_none {d a b : Desc} : mmaRules d a b = none ↔ d.space = 1 ∧ inKR a = true ∧ a.rows = d.rows ∧
    inKR b = true ∧ b.rows = d.rbytes / 4 ∧ a.cols = b.cols ∧
    ∃ p, mmaPair a.fmtOr b.fmtOr = some p ∧ a.cols % p.1 = 0 ∧ d.fmtOr = p.2 := by
  rw [mmaRules, firstBroken_eq_none]
  generalize mmaPair a.fmtOr b.fmtOr = pair
  cases pair with
  | none => simp
  | some p => simp [spaceAcc]

theorem accldRules_eq_none {d a : Desc} : accldRules d a = none ↔ d.space = 1 ∧ a.space = 0 ∧
    (a.rows = d.rows ∧ a.cols = d.cols) ∧
    ((d.fmtOr = .fp32 ∧ (a.fmtOr = .fp32 ∨ a.fmtOr = .bf16 ∨ a.fmtOr = .fp16)) ∨
      (d.fmtOr = .int32 ∧ (a.fmtOr = .int32 ∨ a.fmtOr = .int8))) := by
  rw [accldRules, firstBroken_eq_none, List.forall_mem_append, unaryRules_iff]
  cases a.fmtOr <;> cases d.fmtOr <;> simp [spaceAcc, spaceKennel, and_assoc]

theorem accstRules_eq_none {d a : Desc} : accstRules d a = none ↔ d.space = 0 ∧ a.space = 1 ∧
    (a.rows = d.rows ∧ a.cols = d.cols) ∧ d.fmtOr ≠ .none ∧ d.fmtOr ≠ .uint8 ∧ d.fmtOr ≠ .pw8 := by
  rw [accstRules, firstBroken_eq_none, List.forall_mem_append, unaryRules_iff]
  cases d.fmtOr <;> simp [spaceAcc, spaceKennel, and_assoc]

/-- The rules of a function of the converter beside spaces and shape. -/
def ownRules (fn md : Nat) (d a : Desc) : List (Bool × Nat) :=
  match fn with
  | 5 => [(quantFmt d.fmtOr, 0), (md == 0 || d.role == (if md = 3 then roleWgt else roleAct), 0), (floatHK a.fmtOr, 1)]
  | 6 => [(floatHK d.fmtOr, 0), (quantFmt a.fmtOr, 1)]
  | 7 => [(floatHK d.fmtOr, 0), (d.role == roleAct, 0), (floatHK a.fmtOr, 1)]
  | 8 => [(d.role == roleWgt, 0), (a.fmtOr == d.fmtOr, 1)]
  | _ => []

/-- The block of a Hadamard form. -/
def hadBlock (fn md : Nat) : Nat := if fn = 5 ∨ fn = 7 then (if md = 1 then 16 else if md = 2 then 32 else 1) else 1

theorem converterRules_eq (fn md : Nat) (d a : Desc) : converterRules fn md d a =
    (firstBroken ([(d.space == spaceKennel, 0), (inKR a, 1)] ++ ownRules fn md d a ++ unaryRules d a)).or
      (if a.cols % hadBlock fn md ≠ 0 then some (opFault .badDesc 1) else none) := by
  have hblock : (if fn = 5 ∨ fn = 7 then (match md with | 1 => 16 | 2 => 32 | _ => 1) else 1) = hadBlock fn md := by
    unfold hadBlock
    split_ifs with _ h1 h2
    · subst h1
      rfl
    · subst h2
      rfl
    · split
      exacts [absurd rfl h1, absurd rfl h2, rfl]
    · rfl
  rw [← hblock]
  change (match firstBroken ([(d.space == spaceKennel, 0), (inKR a, 1)] ++ ownRules fn md d a ++ unaryRules d a) with
    | some f => some f
    | none => _) = _
  cases firstBroken ([(d.space == spaceKennel, 0), (inKR a, 1)] ++ ownRules fn md d a ++ unaryRules d a) <;> rfl

theorem converterRules_eq_none {fn md : Nat} {d a : Desc} : converterRules fn md d a = none ↔
    d.space = 0 ∧ inKR a = true ∧ (a.rows = d.rows ∧ a.cols = d.cols) ∧
    (∀ x ∈ ownRules fn md d a, x.1 = true) ∧ a.cols % hadBlock fn md = 0 := by
  have hspaces : (∀ x ∈ [(d.space == spaceKennel, 0), (inKR a, 1)], x.1 = true) ↔ d.space = 0 ∧ inKR a = true := by
    simp [spaceKennel]
  have hblock : (if a.cols % hadBlock fn md ≠ 0 then some (opFault .badDesc 1) else none) = none ↔
      a.cols % hadBlock fn md = 0 := by simp
  rw [converterRules_eq, Option.or_eq_none_iff, firstBroken_eq_none, List.forall_mem_append, List.forall_mem_append,
    unaryRules_iff, hspaces, hblock]
  simp only [and_assoc, and_left_comm (a := ∀ x ∈ ownRules fn md d a, x.1 = true)]

theorem converterRules_cause {fn md : Nat} {d a : Desc} {f : OpStatus} (h : converterRules fn md d a = some f) :
    f.cause = .illegalOperand ∨
      ((fn = 5 ∨ fn = 7) ∧ a.cols % (if md = 1 then 16 else 32) ≠ 0 ∧ f.cause = .badDesc) := by
  rw [converterRules_eq, Option.or_eq_some_iff] at h
  rcases h with h | ⟨-, h⟩
  · exact .inl (cause_firstBroken h)
  · by_cases hmod : a.cols % hadBlock fn md = 0
    · simp [hmod] at h
    · rw [if_pos hmod] at h
      obtain rfl := Option.some.inj h
      refine .inr ?_
      unfold hadBlock at hmod
      split_ifs at hmod with hfn h1 h2
      · exact ⟨hfn, by rwa [if_pos h1], rfl⟩
      · exact ⟨hfn, by rwa [if_neg h1], rfl⟩
      · exact absurd (Nat.mod_one _) hmod
      · exact absurd (Nat.mod_one _) hmod

end Sys2Proof
end

section
/-! O48, the nine functions of the engines and what they commit (R56 to R63, R144 to R160). -/

namespace Sys2Proof
open Machine

/-! ### The elements of D, by row and column -/

theorem zipIdx_map_range {α : Type} (n : Nat) (f : Nat → α) :
    ((List.range n).map f).zipIdx = (List.range n).map fun i => (f i, i) := by
  refine List.ext_getElem (by simp) fun i hi _ => by simp

/-- A fold of words whose every step joins bits keeps bit `n` where it stood or some step sets it. -/
theorem getLsbD_foldl_of_step {α : Type} {w n : Nat} {F : BitVec w → α → BitVec w} {g : α → Bool}
    (h : ∀ z x, (F z x).getLsbD n = (z.getLsbD n || g x)) (xs : List α) (z : BitVec w) :
    (xs.foldl F z).getLsbD n = (z.getLsbD n || xs.any g) := by
  induction xs generalizing z with
  | nil => simp
  | cons x xs ih => rw [List.foldl_cons, ih, h, List.any_cons, Bool.or_assoc]

theorem getLsbD_cellFlags (d : Desc) (f : Nat → Nat → FRes) (n : Nat) :
    (cellFlags d (cellsOf d f)).getLsbD n = true ↔
      ∃ i < d.rows, ∃ k < d.cols, d.valid i k = true ∧ (f i k).flags.getLsbD n = true := by
  have hrow (z : Flags6) (row : List FRes × Nat) :
      (row.1.zipIdx.foldl (fun fl x => if d.valid row.2 x.2 then fl ||| x.1.flags else fl) z).getLsbD n =
        (z.getLsbD n || row.1.zipIdx.any fun x => d.valid row.2 x.2 && x.1.flags.getLsbD n) :=
    getLsbD_foldl_or (fun x : FRes × Nat => d.valid row.2 x.2) (fun x => x.1.flags) _ z n
  rw [cellFlags, getLsbD_foldl_of_step hrow]
  simp [cellsOf, zipIdx_map_range]

theorem cellFolds_cellsOf (ctx : W32) (d : Desc) (replay : Bool) (f : Nat → Nat → FRes) :
    cellFolds ctx d replay (cellsOf d f) = (List.range d.rows).flatMap fun i => (List.range d.cols).filterMap fun k =>
      if d.valid i k then some ({ ctx := ctx, idx := d.pidx, bits := (f i k).bits, replay := replay } : Fold) else none := by
  simp only [cellFolds, cellsOf, zipIdx_map_range, List.flatMap_map, List.filterMap_map]
  rfl

/-- Whether there is an element to fold does not hang on the values. -/
theorem cellFolds_eq_nil_iff (ctx : W32) (d : Desc) (replay : Bool) (f : Nat → Nat → FRes) :
    cellFolds ctx d replay (cellsOf d f) = [] ↔ ∀ i < d.rows, ∀ k < d.cols, d.valid i k = false := by
  simp [cellFolds_cellsOf, List.flatMap_eq_nil_iff, List.filterMap_eq_nil_iff]

/-! ### Writing D (R144) -/

/-- The rows of D as they are written. -/
def rowPieces (d : Desc) (f : Nat → Nat → FRes) : List Piece :=
  (List.range d.rows).map fun i =>
    (d.space == spaceAcc, d.base + i * d.pitch, rowBytes d ((List.range d.cols).map fun k => f i k))

theorem writeCells_eq (c : CoreNo) (d : Desc) (f : Nat → Nat → FRes) (s : State) :
    writeCells c d (cellsOf d f) s = s.updCore c fun k => { k with mem := putAll k.mem (rowPieces d f) } := by
  simp only [writeCells, cellsOf, zipIdx_map_range, ← foldl_write_eq_putAll, rowPieces, List.foldl_map, beq_iff_eq]

theorem getElem?_flatMap_const {α β : Type} {g : α → List β} {e : Nat} (hg : ∀ a, (g a).length = e) (xs : List α)
    (k : Nat) {j : Nat} (hj : j < e) : (xs.flatMap g)[k * e + j]? = xs[k]?.bind fun a => (g a)[j]? := by
  induction xs generalizing k with
  | nil => simp
  | cons x xs ih =>
    rw [List.flatMap_cons]
    cases k with
    | zero => rw [Nat.zero_mul, Nat.zero_add, List.getElem?_append_left (by rw [hg]; exact hj)]; rfl
    | succ k =>
      rw [List.getElem?_append_right (by rw [hg, Nat.succ_mul]; omega), hg,
        show (k + 1) * e + j - e = k * e + j by rw [Nat.succ_mul]; omega, ih]
      rfl

theorem length_rowBytes (d : Desc) (row : List FRes) : (rowBytes d row).length = row.length * d.esize := by
  simp [rowBytes, List.length_flatMap]

theorem getD_rowBytes (d : Desc) (f : Nat → FRes) {k j : Nat} (hk : k < d.cols) (hj : j < d.esize) :
    (rowBytes d ((List.range d.cols).map f)).getD (k * d.esize + j) 0 = (leBytes d.esize (f k).bits).getD j 0 := by
  have hlen (x : FRes) : (leBytes d.esize x.bits).length = d.esize := length_leBytes _ _
  rw [List.getD_eq_getElem?_getD, rowBytes, getElem?_flatMap_const hlen _ _ hj]
  simp [hk]

/-! ### A descriptor that R20 accepts -/

theorem esize_pos (d : Desc) : 0 < d.esize := by
  unfold Desc.esize
  split
  · exact Nat.one_pos
  · exact Nat.one_pos
  next f' _ _ => cases f' <;> decide

/-- The rows of an accepted tile lie in its space, do not overlap, and hold whole elements. -/
theorem ok_rows {d : Desc} {pedlimit : Nat} (h : d.ok pedlimit true = true) :
    d.cols * d.esize = d.rbytes ∧ d.rbytes ≤ d.pitch ∧ d.space ≠ 3 ∧ ∀ i < d.rows, d.base + i * d.pitch + d.rbytes ≤ d.size := by
  simp only [Desc.ok, Bool.and_eq_true, decide_eq_true_eq, bne_iff_ne, ne_eq, Bool.or_eq_true, beq_iff_eq] at h
  obtain ⟨⟨⟨⟨⟨⟨⟨⟨⟨⟨⟨⟨⟨-, hspace⟩, -⟩, -⟩, -⟩, hwhole⟩, -⟩, -⟩, hpitch⟩, hlast⟩, -⟩, -⟩, -⟩, -⟩ := h
  refine ⟨Nat.div_mul_cancel (Nat.dvd_of_mod_eq_zero hwhole), ?_, hspace, fun i hi => ?_⟩
  · unfold Desc.pitch
    split_ifs with hp
    · omega
    · exact hpitch.resolve_left hp
  · have hle : i * d.pitch ≤ (d.rows - 1) * d.pitch := Nat.mul_le_mul_right _ (by omega)
    unfold Desc.last at hlast
    omega

section stored
variable {d : Desc} {f : Nat → Nat → FRes} {m : CoreMem} {pedlimit : Nat} (hok : d.ok pedlimit true = true)
  (hwf : CoreMem.wf m = true)
include hok

theorem mem_rowPieces {w : Piece} (h : w ∈ rowPieces d f) : ∃ i < d.rows,
    w = (d.space == spaceAcc, d.base + i * d.pitch, rowBytes d ((List.range d.cols).map fun k => f i k)) ∧
      w.2.2.length = d.rbytes := by
  obtain ⟨i, hi, rfl⟩ := List.mem_map.mp h
  refine ⟨i, List.mem_range.mp hi, rfl, ?_⟩
  rw [length_rowBytes, List.length_map, List.length_range, (ok_rows hok).1]

theorem rowPieces_fit : ∀ w ∈ rowPieces d f, w.1 = false → w.2.1 + w.2.2.length ≤ 0x100000 := by
  intro w hw hacc
  obtain ⟨i, hi, rfl, hlen⟩ := mem_rowPieces hok hw
  have hfit := (ok_rows hok).2.2.2 i hi
  have hsize : d.size = 0x100000 := by
    unfold Desc.size
    rw [if_neg (by simpa using hacc)]
    rfl
  rw [hlen]
  change d.base + i * d.pitch + d.rbytes ≤ _
  omega

include hwf

/-- A byte of a row holds what the row's element gives. -/
theorem byteIn_row {i k j : Nat} (hi : i < d.rows) (hk : k < d.cols) (hj : j < d.esize) :
    (putAll m (rowPieces d f)).byteIn (d.space == spaceAcc) (d.elemAt i k + j) =
      (leBytes d.esize (f i k).bits).getD j 0 := by
  obtain ⟨hcols, hpitch, -, hfit⟩ := ok_rows hok
  have hin : k * d.esize + j < d.rbytes := by
    have hmul : (k + 1) * d.esize ≤ d.cols * d.esize := Nat.mul_le_mul_right _ hk
    rw [Nat.succ_mul] at hmul
    omega
  have hrow := hfit i hi
  refine byteIn_putAll hwf (rowPieces_fit hok) (fun hacc => ?_) (fun w hw hcov => ?_) (.inl
    ⟨_, List.mem_map.mpr ⟨i, List.mem_range.mpr hi, rfl⟩, rfl, ?_⟩)
  · have hsize : d.size = 0x100000 := by
      unfold Desc.size
      rw [if_neg (by simpa using hacc)]
      rfl
    unfold Desc.elemAt
    omega
  · obtain ⟨i', hi', rfl, hlen⟩ := mem_rowPieces hok hw
    obtain ⟨-, hle, hlt⟩ := hcov
    rw [hlen] at hlt
    simp only [Desc.elemAt] at hle hlt ⊢
    have hsame : i' = i := by
      rcases Nat.lt_trichotomy i' i with hii | hii | hii
      · have hmul : (i' + 1) * d.pitch ≤ i * d.pitch := Nat.mul_le_mul_right _ hii
        rw [Nat.succ_mul] at hmul
        omega
      · exact hii
      · have hmul : (i + 1) * d.pitch ≤ i' * d.pitch := Nat.mul_le_mul_right _ hii
        rw [Nat.succ_mul] at hmul
        omega
    subst hsame
    rw [show d.base + i' * d.pitch + k * d.esize + j - (d.base + i' * d.pitch) = k * d.esize + j by omega]
    exact getD_rowBytes d (f i') hk hj
  · simp only [length_rowBytes, List.length_map, List.length_range, hcols, Desc.elemAt]
    omega

/-- An element reads back the bits that were committed for it. -/
theorem elem_row {i k : Nat} (hi : i < d.rows) (hk : k < d.cols) (hbits : (f i k).bits < 256 ^ d.esize) :
    ofBytes ((List.range d.esize).map fun j =>
      (putAll m (rowPieces d f)).byteIn (d.space == spaceAcc) (d.elemAt i k + j)) = (f i k).bits := by
  have hbytes : ((List.range d.esize).map fun j =>
      (putAll m (rowPieces d f)).byteIn (d.space == spaceAcc) (d.elemAt i k + j)) = leBytes d.esize (f i k).bits := by
    refine List.ext_getElem (by simp) fun j hj hj' => ?_
    have hlt : j < d.esize := by simpa using hj
    rw [List.getElem_map, List.getElem_range, byteIn_row hok hwf hi hk hlt, List.getD_eq_getElem]
  rw [hbytes, ofBytes_leBytes, Nat.mod_eq_of_lt hbits]

/-- A byte outside the rows, or of the other memory, stays. -/
theorem byteIn_row_outside {acc : Bool} {x : Nat} (hx : acc = false → x < 0x100000)
    (hout : (∀ y ∈ d.rowsList, x < y.1 ∨ y.1 + y.2 ≤ x) ∨ acc ≠ (d.space == spaceAcc)) :
    (putAll m (rowPieces d f)).byteIn acc x = m.byteIn acc x := by
  refine byteIn_putAll_outside hwf (rowPieces_fit hok) hx fun w hw ⟨hacc, hle, hlt⟩ => ?_
  obtain ⟨i, hi, rfl, hlen⟩ := mem_rowPieces hok hw
  rw [hlen] at hlt
  rcases hout with hrows | hspace
  · have hy := hrows (d.base + i * d.pitch, d.rbytes) (List.mem_map.mpr ⟨i, List.mem_range.mpr hi, rfl⟩)
    simp only at hy hle hlt
    omega
  · exact hspace hacc

end stored

/-! ### Commit (R144) -/

theorem core_writeCells (c : CoreNo) (d : Desc) (f : Nat → Nat → FRes) (s : State) :
    (writeCells c d (cellsOf d f) s).core c = { s.core c with mem := putAll (s.core c).mem (rowPieces d f) } := by
  rw [writeCells_eq, State.core_updCore_same]

/-- The valid elements of a tracked Kennel tile go to the core's port. -/
theorem commit_state (c : CoreNo) (o : Op) (d : Desc) (f : Nat → Nat → FRes) (s : State) :
    (commit c o d (cellsOf d f) s).s = (writeCells c d (cellsOf d f) s).updCore c fun k =>
      { k with port := k.port ++ if d.space = 0 ∧ d.pidx ≠ 0 then
          cellFolds (s.core c).ctx d o.replay (cellsOf d f) else [] } := by
  have hctx : ((writeCells c d (cellsOf d f) s).core c).ctx = (s.core c).ctx := by rw [core_writeCells]; rfl
  by_cases h : d.space = 0 ∧ d.pidx ≠ 0
  · have htracked : (d.space == spaceKennel && d.pidx != 0) = true := by simpa [spaceKennel] using h
    simp only [commit, htracked, if_true, if_pos h]
    simp only [State.updCore, hctx]
  · have htracked : (d.space == spaceKennel && d.pidx != 0) = false := by
      rw [Bool.eq_false_iff]
      simpa [spaceKennel] using h
    simp only [commit, htracked, if_neg h, List.append_nil]
    exact (updCore_of_fixed rfl).symm

theorem commit_folded (c : CoreNo) (o : Op) (d : Desc) (f : Nat → Nat → FRes) (s : State) (ctx : W32) :
    (commit c o d (cellsOf d f) s).folded =
      if d.space = 0 ∧ d.pidx ≠ 0 ∧ cellFolds ctx d o.replay (cellsOf d f) ≠ [] then [d.pidx] else [] := by
  have hnil : (cellFolds 0 d false (cellsOf d f)).isEmpty = true ↔ cellFolds ctx d o.replay (cellsOf d f) = [] := by
    rw [List.isEmpty_iff, cellFolds_eq_nil_iff, cellFolds_eq_nil_iff]
  simp only [commit]
  refine if_congr ?_ rfl rfl
  simp only [Bool.and_eq_true, beq_iff_eq, bne_iff_ne, Bool.not_eq_true', ne_eq, ← hnil, Bool.not_eq_true, and_assoc,
    spaceKennel]

section readBack
variable {c : CoreNo} {d : Desc} {f : Nat → Nat → FRes} {s : State} {pedlimit : Nat} (hok : d.ok pedlimit true = true)
  (hwf : memoriesWf s = true)
include hok hwf

theorem elem_writeCells {i k : Nat} (hi : i < d.rows) (hk : k < d.cols) (hbits : (f i k).bits < 256 ^ d.esize) :
    (writeCells c d (cellsOf d f) s).elem ⟨d, c⟩ i k = (f i k).bits := by
  refine Eq.trans ?_ (elem_row hok ((memoriesWf_iff.mp hwf).2 c) hi hk hbits)
  simp only [State.elem, core_writeCells]
  by_cases hspace : d.space = spaceAcc
  · rw [if_pos hspace, aread_eq_map, beq_iff_eq.mpr hspace]
  · rw [if_neg hspace, kread_eq_map, beq_eq_false_iff_ne.mpr hspace]

theorem kread_writeCells {x : Nat} (hout : (∀ y ∈ d.rowsList, x < y.1 ∨ y.1 + y.2 ≤ x) ∨ d.space ≠ 0) (hspace : d.space ≠ 2)
    (hx : x < 0x100000) :
    ((writeCells c d (cellsOf d f) s).core c).mem.kread x 1 = (s.core c).mem.kread x 1 := by
  rw [kread_one, kread_one, core_writeCells]
  refine congrArg (fun b => [b]) (byteIn_row_outside hok ((memoriesWf_iff.mp hwf).2 c) (fun _ => hx) (hout.imp_right ?_))
  intro hne
  obtain ⟨-, -, hspace3, -⟩ := ok_rows hok
  have hacc : d.space = spaceAcc := by
    change d.space = 1
    bv_omega
  rw [beq_iff_eq.mpr hacc]
  decide

theorem aread_writeCells {x : Nat} (hout : (∀ y ∈ d.rowsList, x < y.1 ∨ y.1 + y.2 ≤ x) ∨ d.space ≠ 1) :
    ((writeCells c d (cellsOf d f) s).core c).mem.aread x 1 = (s.core c).mem.aread x 1 := by
  rw [aread_one, aread_one, core_writeCells]
  refine congrArg (fun b => [b]) (byteIn_row_outside hok ((memoriesWf_iff.mp hwf).2 c) (by simp) (hout.imp_right ?_))
  intro hne
  have hacc : (d.space == spaceAcc) = false := beq_eq_false_iff_ne.mpr hne
  rw [hacc]
  decide

end readBack

/-! ### QNT (R157) -/

section functions
variable (c : CoreNo) (o : Op) (md : Nat) (d a : Tile) (b : Option Tile) (table : List Nat) (s : State)

/-- An element of `QNT` before it is quantised. -/
theorem qntSource_eq (i k : Nat) : qntSource s a md table i k =
    if md = 1 then hadElem fp32F 16 ((List.range a.d.cols).map fun j => s.val a i j) k
    else if md = 2 then hadElem fp32F 32 ((List.range a.d.cols).map fun j => s.val a i j) k
    else cvtElem .fp32 a.d.fmtOr .rn false false (s.elem a i (table.getD k 0)) := by
  unfold qntSource
  split_ifs with h1 h2
  · subst h1
    rfl
  · subst h2
    rfl
  · split
    exacts [absurd rfl h1, absurd rfl h2, rfl]

/-- The saturated valid elements are counted row by row. -/
theorem saturated_eq (q : Nat → Nat → FRes) : ((cellsOf d.d q).zipIdx.map fun row =>
      (row.1.zipIdx.filter fun x => d.d.valid row.2 x.2 && x.1.flags &&& fSat != 0).length).sum =
    ((List.range d.d.rows).map fun i => ((List.range d.d.cols).filter fun k =>
      d.d.valid i k && (q i k).flags &&& fSat != 0).length).sum := by
  simp only [cellsOf, zipIdx_map_range, List.map_map, Function.comp_def, List.filter_map, List.length_map]

/-- THRESH changes the cause of the status alone. -/
theorem rescale_of (p : Prop) [Decidable p] (fl : BitVec 6) :
    (if p then { cause := .rescale, flags := fl } else { flags := fl } : OpStatus) =
      { cause := if p then .rescale else .none, flags := fl } := by
  split_ifs <;> rfl

/-- The result of `QNT` for the elements `q`. -/
theorem runEngine_qnt {q : Nat → Nat → FRes} {f : Nat × Nat}
    (hf : f = qntFactors d.d.fmtOr (s.dev.rcd (s.core c).ctx d.d.pidx).closed.amax
      (if md = 1 then 4 else if md = 2 then 8 else 1))
    (hq : ∀ i k, q i k = qntElem d.d.fmtOr f.1 (qntSource s a md table i k)) :
    let r := runEngine c o 5 md d (some a) b table s
    let rcd := s.dev.rcd (s.core c).ctx d.d.pidx
    let sat := ((List.range d.d.rows).map fun i => ((List.range d.d.cols).filter fun k =>
      d.d.valid i k && (q i k).flags &&& fSat != 0).length).sum
    r.s = writeCells c d.d (cellsOf d.d q) s ∧ r.scale = some (BitVec.ofNat 32 f.2) ∧ r.folded = [] ∧
      r.st = { cause := if rcd.thresh ≠ 0 ∧ rcd.thresh.toNat ≤ sat then .rescale else .none,
               flags := cellFlags d.d (cellsOf d.d q) } := by
  have hh : (match md with | 1 => 4 | 2 => 8 | _ => 1) = if md = 1 then 4 else if md = 2 then 8 else 1 := by
    split_ifs with h1 h2
    · subst h1
      rfl
    · subst h2
      rfl
    · split
      exacts [absurd rfl h1, absurd rfl h2, rfl]
  obtain rfl : q = fun i k => qntElem d.d.fmtOr f.1 (qntSource s a md table i k) := funext fun i => funext fun k => hq i k
  intro r rcd sat
  have hr : r = runQnt c md d a table s := rfl
  rw [← hh] at hf
  subst hf
  refine ⟨rfl, rfl, rfl, ?_⟩
  have hsat : sat = _ := (saturated_eq d _).symm
  rw [hsat, hr]
  exact rescale_of _ _

/-! ### MMA (R145 to R149) -/

theorem chunks_eq {α : Type} (n m : Nat) (xs : List α) :
    chunks n m xs = (List.range m).map fun i => (xs.drop (i * n)).take n := by
  induction m generalizing xs with
  | zero => rfl
  | succ m ih =>
    rw [chunks, ih, List.range_succ_eq_map, List.map_cons, List.map_map, Nat.zero_mul, List.drop_zero]
    refine congrArg _ (List.map_congr_left fun i _ => ?_)
    rw [List.drop_drop, Function.comp_apply, Nat.succ_mul, Nat.add_comm]

theorem take_drop_map_range {α : Type} {n st : Nat} {i : Nat} (f : Nat → α) (h : (i + 1) * st ≤ n) :
    (((List.range n).map f).drop (i * st)).take st = (List.range st).map fun k => f (i * st + k) := by
  rw [Nat.succ_mul] at h
  refine List.ext_getElem (by simp; omega) fun k hk hk' => by simp

/-- The products of a row of A, read through the table, and a row of B, in K steps. -/
theorem chunks_products {α : Type} {n st : Nat} {table : List Nat} (f : Nat → α) (g : Nat → α) (mul : α → α → FVal)
    (hlen : table.length = n) :
    chunks st (n / st) (List.zipWith mul (table.map f) ((List.range n).map g)) =
      (List.range (n / st)).map fun i => (List.range st).map fun k =>
        mul (f (table.getD (i * st + k) 0)) (g (i * st + k)) := by
  have hzip : List.zipWith mul (table.map f) ((List.range n).map g) =
      (List.range n).map fun k => mul (f (table.getD k 0)) (g k) := by
    refine List.ext_getElem (by simp [hlen]) fun k hk hk' => ?_
    have hkn : k < table.length := by simpa [hlen] using hk'
    simp [hkn]
  rw [hzip, chunks_eq]
  refine List.map_congr_left fun i hi => take_drop_map_range _ ?_
  calc (i + 1) * st ≤ n / st * st := Nat.mul_le_mul_right _ (List.mem_range.mp hi)
    _ ≤ n := Nat.div_mul_le_self n st

/-- An element of `MMA` folds its K steps onto D or nothing. -/
theorem getElem?_mmaCells {b : Tile} {st : Nat} {acc : Fmt} {i j : Nat} (hpair : mmaPair a.d.fmtOr b.d.fmtOr = some (st, acc))
    (hlen : table.length = a.d.cols) (hi : i < a.d.rows) (hj : j < b.d.rows) :
    ((mmaCells s md d a b table)[i]?.bind fun x => x[j]?) = some (mmaElem acc
      (if md % 2 = 1 then some (s.elem d i j) else none)
      ((List.range (a.d.cols / st)).map fun n => (List.range st).map fun k =>
        ((s.val a i (table.getD (n * st + k) 0)).mul (s.val b j (n * st + k))).getD (.nan true))) := by
  simp only [mmaCells, hpair, zipIdx_map_range, List.map_map]
  simp only [List.getElem?_map, List.getElem?_range hi, List.getElem?_range hj, Option.map_some, Option.bind_some,
    Function.comp_apply]
  rw [chunks_products (fun k => s.val a i k) (fun k => s.val b j k) (fun x y => term (x.mul y)) hlen]
  rfl

theorem ctx_setWork_choice (cs : Cells) : ((s.setWork c d.d cs).choice.2.core c).ctx = (s.core c).ctx := by
  rw [core_choice]
  unfold State.setWork
  rw [State.core_updCore_same]
  rfl

/-- The checksums of `MMA`: they agree, after a rerun or at once, or the op ends with MATRIX_CHECK (R149). -/
theorem runEngine_mma (b : Tile) : let cs := mmaCells s md d a b table
    let w := (s.setWork c d.d cs).choice
    let r := runEngine c o 0 md d (some a) (some b) table s
    (w.1 ≤ 1 → r = commit c o d.d cs (w.2.setDev { w.2.dev with corrected := w.2.dev.corrected + w.1 })) ∧
    (1 < w.1 → r.st.cause = .matrixCheck ∧ r.st.flags = cellFlags d.d cs ∧ r.scale = none ∧
      ∃ e, r.s = (commit c o d.d cs w.2).s.machineCheck 1 (some (s.core c).ctx) c.val 255 e 0) := by
  intro cs w r
  have hr : r = runMma c o md d a b table s := rfl
  refine ⟨fun h => ?_, fun h => ?_⟩
  · exact hr.trans (if_pos h)
  · have hrun := hr.trans (if_neg (Nat.not_le.mpr h))
    rw [hrun]
    refine ⟨rfl, rfl, rfl, (o.dtag.zeroExtend 64) |||
      (BitVec.ofNat 64 ((w.1 - 2) / d.d.cols % d.d.rows + 256 * ((w.1 - 2) % d.d.cols)) <<< 16), ?_⟩
    rw [← ctx_setWork_choice c d s cs]
    rfl

/-- The other functions commit their elements. -/
theorem runEngine_accst : runEngine c o 2 md d (some a) b table s = commit c o d.d (cellsOf d.d fun i k =>
    accstElem a.d.fmtOr d.d.fmtOr (if md % 4 = 1 then 4 else if md % 4 = 2 then 5 else 0) (md / 4 == 1)
      (factorOf o.rcd.b) (factorOf o.rcd.c) (s.elem a i k)) s := by
  have hh : (match md % 4 with | 1 => 4 | 2 => 5 | _ => 0) = if md % 4 = 1 then 4 else if md % 4 = 2 then 5 else 0 := by
    generalize md % 4 = h
    split_ifs with h1 h2
    · subst h1
      rfl
    · subst h2
      rfl
    · split
      exacts [absurd rfl h1, absurd rfl h2, rfl]
  rw [← hh]
  rfl

theorem runEngine_had {f : FFmt} (hf : d.d.fmtOr.ffmt = some f) : runEngine c o 7 md d (some a) b table s =
    commit c o d.d (cellsOf d.d fun i k =>
      hadElem f (if md = 1 then 16 else 32) ((List.range a.d.cols).map fun j => s.val a i j) k) s := by
  simp only [runEngine, hf]

end functions

end Sys2Proof
end

section
/-! O48: the threads of a core by their places: what a pass over threads does at one place, and the threads of a team. -/

namespace Sys2Proof
open Machine

/-! ### Passes whose steps each act at one place -/

section places
variable {σ α κ β : Type} {place : α → κ} {g : σ → κ → β} {f : σ → α → σ}
  (hother : ∀ s x p, p ≠ place x → g (f s x) p = g s p)
include hother

theorem foldl_at_other {xs : List α} {p : κ} (hp : ∀ x ∈ xs, p ≠ place x) (s : σ) : g (xs.foldl f s) p = g s p := by
  induction xs generalizing s with
  | nil => rfl
  | cons x xs ih =>
    exact (ih (fun y hy => hp y (List.mem_cons_of_mem x hy)) (f s x)).trans (hother s x p (hp x List.mem_cons_self))

/-- At the place of one element the pass acts once, on what stood there. -/
theorem foldl_at_mem {xs : List α} (hnodup : (xs.map place).Nodup) {x : α} (hx : x ∈ xs) (s : σ) :
    ∃ s', g s' (place x) = g s (place x) ∧ g (xs.foldl f s) (place x) = g (f s' x) (place x) := by
  induction xs generalizing s with
  | nil => simp at hx
  | cons y ys ih =>
    rw [List.map_cons, List.nodup_cons] at hnodup
    obtain ⟨hy, hys⟩ := hnodup
    rcases List.mem_cons.mp hx with rfl | hx
    · exact ⟨s, rfl, foldl_at_other hother (fun z hz heq => hy (List.mem_map.mpr ⟨z, hz, heq.symm⟩)) (f s x)⟩
    · obtain ⟨s', hs', hfold⟩ := ih hys hx (f s y)
      exact ⟨s', hs'.trans (hother s y _ fun heq => hy (List.mem_map.mpr ⟨x, hx, heq⟩)), hfold⟩

end places

/-! ### Threads -/

/-- The thread at a place of the slots. -/
def threadAt (k : Core) (i : Nat) : Option Thread := (k.slots[i]?).getD none

theorem threadAt_slotIx (k : Core) (lane slot : Nat) : threadAt k (slotIx lane slot) = k.thread lane slot := rfl

theorem threadAt_setThread (k : Core) (lane slot : Nat) (th : Option Thread) (i : Nat) :
    threadAt (k.setThread lane slot th) i = if i = slotIx lane slot ∧ i < 512 then th else threadAt k i := by
  simp only [threadAt, Core.setThread, Vector.getElem?_setIfInBounds]
  by_cases hi : slotIx lane slot = i
  · subst hi
    by_cases h : slotIx lane slot < 512 <;> simp [h]
  · simp [hi, Ne.symm hi]

theorem threadAt_lt {k : Core} {i : Nat} {th : Thread} (h : threadAt k i = some th) : i < 512 := by
  by_contra hi
  simp [threadAt, hi] at h

theorem threads_eq (k : Core) : k.threads =
    (List.range 512).filterMap fun i => (threadAt k i).map fun t => (i / 4, i % 4, t) := by
  have hzip : k.slots.toList.zipIdx = (List.range 512).map fun i => (threadAt k i, i) := by
    refine List.ext_getElem (by simp) fun i hi hi' => ?_
    have hlt : i < 512 := by simpa using hi'
    simp [threadAt, hlt]
  rw [Core.threads, hzip, List.filterMap_map]
  rfl

theorem place_div_mod (i : Nat) : slotIx (i / 4) (i % 4) = i := by
  simp only [slotIx]
  omega

/-- The threads of a team are those at the places that name it. -/
theorem teamThreads_eq (k : Core) (op : Nat) : k.teamThreads op =
    (List.range 512).filterMap fun i => ((threadAt k i).filter fun t => t.team == op).map fun t => (i / 4, i % 4, t) := by
  rw [Core.teamThreads, threads_eq, List.filter_filterMap]
  refine List.filterMap_congr fun i _ => ?_
  cases threadAt k i with
  | none => rfl
  | some t =>
    simp only [Option.map_some, Option.filter_some]
    split_ifs <;> rfl

theorem mem_teamThreads {k : Core} {op : Nat} {x : Nat × Nat × Thread} : x ∈ k.teamThreads op ↔
    x.1 < 128 ∧ x.2.1 < 4 ∧ threadAt k (slotIx x.1 x.2.1) = some x.2.2 ∧ x.2.2.team = op := by
  obtain ⟨lane, slot, th⟩ := x
  simp only [teamThreads_eq, List.mem_filterMap, List.mem_range, Option.map_eq_some_iff, Option.filter_eq_some_iff,
    beq_iff_eq]
  constructor
  · rintro ⟨i, hi, t, ⟨ht, hteam⟩, heq⟩
    obtain ⟨rfl, rfl, rfl⟩ : i / 4 = lane ∧ i % 4 = slot ∧ t = th := by simpa using heq
    exact ⟨by omega, by omega, by rwa [place_div_mod], hteam⟩
  · rintro ⟨hlane, hslot, hth, hteam⟩
    refine ⟨slotIx lane slot, threadAt_lt hth, th, ⟨hth, hteam⟩, ?_⟩
    have hdiv : slotIx lane slot / 4 = lane := by
      simp only [slotIx]
      omega
    have hmod : slotIx lane slot % 4 = slot := by
      simp only [slotIx]
      omega
    rw [hdiv, hmod]

theorem mem_teamThreads_of_thread {k : Core} {lane slot : Nat} {th : Thread} (h : k.thread lane slot = some th)
    (hlane : lane < 128) (hslot : slot < 4) : (lane, slot, th) ∈ k.teamThreads th.team :=
  mem_teamThreads.mpr ⟨hlane, hslot, h, rfl⟩

/-- A thread's place is in the list of its team's places. -/
theorem mem_teamThreads_at {k : Core} {i : Nat} {th : Thread} (h : threadAt k i = some th) :
    (i / 4, i % 4, th) ∈ k.teamThreads th.team := by
  have hi := threadAt_lt h
  exact mem_teamThreads.mpr ⟨by dsimp only; omega, by dsimp only; omega, by simpa only [place_div_mod] using h, rfl⟩

def placeOf (x : Nat × Nat × Thread) : Nat := slotIx x.1 x.2.1

theorem nodup_teamThreads (k : Core) (op : Nat) : ((k.teamThreads op).map placeOf).Nodup := by
  rw [teamThreads_eq, List.map_filterMap]
  refine List.Nodup.filterMap ?_ List.nodup_range
  intro i j n hi hj
  simp only [Option.map_map, Option.mem_def, Option.map_eq_some_iff, Function.comp_apply, placeOf, place_div_mod] at hi hj
  obtain ⟨_, _, rfl⟩ := hi
  obtain ⟨_, _, rfl⟩ := hj
  rfl

section pass
variable {σ : Type} {g : σ → Nat → Option Thread} {f : σ → Nat × Nat × Thread → σ}
  (hother : ∀ s x i, i ≠ placeOf x → g (f s x) i = g s i)
include hother

/-- A pass over the threads of a team, each step of which acts at its thread's place alone. -/
theorem foldl_team_at {k : Core} {op i : Nat} {th : Thread} (hth : threadAt k i = some th) (hteam : th.team = op) (s : σ) :
    ∃ s', g s' i = g s i ∧ g ((k.teamThreads op).foldl f s) i = g (f s' (i / 4, i % 4, th)) i := by
  subst hteam
  have hplace : placeOf (i / 4, i % 4, th) = i := place_div_mod i
  have h := foldl_at_mem hother (nodup_teamThreads k th.team) (mem_teamThreads_at hth) s
  rwa [hplace] at h

/-- It leaves the other places as they are. -/
theorem foldl_team_other {k : Core} {op i : Nat} (hth : ∀ th, threadAt k i = some th → th.team ≠ op) (s : σ) :
    g ((k.teamThreads op).foldl f s) i = g s i := by
  refine foldl_at_other hother (fun x hx heq => ?_) s
  obtain ⟨-, -, hx, hteam⟩ := mem_teamThreads.mp hx
  exact hth x.2.2 ((congrArg (threadAt k) heq).trans hx) hteam

end pass

theorem threadAt_setThread_other (h : Nat × Nat × Thread → Option Thread) (k : Core) (x : Nat × Nat × Thread) (i : Nat)
    (hi : i ≠ placeOf x) : threadAt (k.setThread x.1 x.2.1 (h x)) i = threadAt k i := by
  rw [threadAt_setThread, if_neg fun heq => hi heq.1]

/-- A pass that sets each thread of a team anew. -/
theorem threadAt_setTeam {k : Core} {op i : Nat} {th : Thread} (hth : threadAt k i = some th) (hteam : th.team = op)
    (h : Nat × Nat × Thread → Option Thread) (k0 : Core) :
    threadAt ((k.teamThreads op).foldl (fun k x => k.setThread x.1 x.2.1 (h x)) k0) i = h (i / 4, i % 4, th) := by
  obtain ⟨k', -, hfold⟩ := foldl_team_at (threadAt_setThread_other h) hth hteam k0
  rw [hfold, threadAt_setThread, if_pos ⟨(place_div_mod i).symm, threadAt_lt hth⟩]

theorem threadAt_setTeam_other {k : Core} {op i : Nat} (hth : ∀ th, threadAt k i = some th → th.team ≠ op)
    (h : Nat × Nat × Thread → Option Thread) (k0 : Core) :
    threadAt ((k.teamThreads op).foldl (fun k x => k.setThread x.1 x.2.1 (h x)) k0) i = threadAt k0 i :=
  foldl_team_other (threadAt_setThread_other h) hth k0

end Sys2Proof
end

section
/-! O48: admission of a team, the scan and the completion of ops, the delivery of a fault. -/

namespace Sys2Proof
open Machine

/-! ### TEAM_ADMISSION (R128, R25, R22) -/

theorem exec_teamAdmission {c : CoreNo} {s : State} {o : Op} {gs : List Nat} (ho : (s.core c).laneHead = some o)
    (hgs : (s.core c).groupsFor o.entry.gang = some gs) (hmoving : (s.core c).moving = true) :
    exec (.teamAdmission c) s = .next (s.updCore c fun k => k.startTeam s.now o gs) := by
  change execTeamAdmission c s = _
  simp only [execTeamAdmission, ho, hgs, hmoving, if_true]

/-- The groups of a GANG: as many as it names, different, and each with a free slot in every lane. -/
theorem groupsFor_spec {k : Core} {gang : Nat} {gs : List Nat} (h : k.groupsFor gang = some gs) :
    gs.length = (if gang = 0 then 1 else if gang = 1 then 2 else 4) ∧ gs.Nodup ∧
      ∀ g ∈ gs, g < 4 ∧ k.groupFree g = true := by
  unfold Core.groupsFor at h
  split at h
  · obtain ⟨g, hg, rfl⟩ := Option.map_eq_some_iff.mp h
    have hlt : g < 4 := List.mem_range.mp (List.mem_of_find?_eq_some hg)
    have hfree : k.groupFree g = true := List.find?_some hg
    simp [hlt, hfree]
  · split_ifs at h with h01 h23
    · cases h
      obtain ⟨h0, h1⟩ := Bool.and_eq_true_iff.mp h01
      simp [h0, h1]
    · cases h
      obtain ⟨h2, h3⟩ := Bool.and_eq_true_iff.mp h23
      simp [h2, h3]
  · rename_i hne0 hne1
    split_ifs at h with hall
    cases h
    have hfree : ∀ g < 4, k.groupFree g = true := by simpa using hall
    rw [if_neg hne0, if_neg hne1]
    exact ⟨rfl, by decide, fun g hg => ⟨by simp at hg; omega, hfree g (by simp at hg; omega)⟩⟩

/-- The places of a team's threads: each lane of its groups, with the rank there (R22). -/
def teamPlaces (gs : List Nat) : List (Nat × Nat) :=
  gs.zipIdx.flatMap fun g => (List.range 32).map fun l => (32 * g.1 + l, 32 * g.2 + l)

/-- Start one thread of a team in the lowest free slot of a lane. -/
def startIn (o : Op) (k : Core) (x : Nat × Nat) : Core :=
  match k.freeSlot x.1 with
  | some t => k.setThread x.1 t (some (startThread o x.2))
  | none => k

/-- The threads of one lane. -/
def laneThreads (k : Core) (lane : Nat) (n : Fin 4) : Option Thread := k.thread lane n.val

theorem mem_teamPlaces {gs : List Nat} {j g l : Nat} (hj : gs[j]? = some g) (hl : l < 32) :
    (32 * g + l, 32 * j + l) ∈ teamPlaces gs := by
  have hzip : (g, j) ∈ gs.zipIdx := List.mem_zipIdx_iff_getElem?.mpr hj
  exact List.mem_flatMap.mpr ⟨(g, j), hzip, List.mem_map.mpr ⟨l, List.mem_range.mpr hl, rfl⟩⟩

theorem nodup_teamPlaces {gs : List Nat} (h : gs.Nodup) : ((teamPlaces gs).map Prod.fst).Nodup := by
  have hlanes : (teamPlaces gs).map Prod.fst = gs.flatMap fun g => (List.range 32).map fun l => 32 * g + l := by
    have hzip : gs = gs.zipIdx.map Prod.fst := by simp
    conv_rhs => rw [hzip]
    simp only [teamPlaces, List.map_flatMap, List.map_map, List.flatMap_map]
    rfl
  rw [hlanes, List.nodup_flatMap]
  refine ⟨fun g _ => List.nodup_range.map fun a b hab => by simpa using hab, h.imp fun {a b} hab => ?_⟩
  intro x hxa hxb
  obtain ⟨i, hi, rfl⟩ := List.mem_map.mp hxa
  obtain ⟨n, hn, heq⟩ := List.mem_map.mp hxb
  rw [List.mem_range] at hi hn
  omega

theorem freeSlot_congr {k k' : Core} {lane : Nat} (h : laneThreads k lane = laneThreads k' lane) :
    k.freeSlot lane = k'.freeSlot lane := by
  refine List.find?_congr fun n hn => ?_
  have hn4 : n < 4 := List.mem_range.mp hn
  exact congrArg (fun th : Option Thread => th.isNone) (congrFun h ⟨n, hn4⟩)

theorem freeSlot_eq_some {k : Core} {lane n : Nat} (h : k.freeSlot lane = some n) :
    n < 4 ∧ k.thread lane n = none := by
  have hmem : n < 4 := List.mem_range.mp (List.mem_of_find?_eq_some h)
  have hnone := List.find?_some h
  exact ⟨hmem, Option.isNone_iff_eq_none.mp hnone⟩

theorem laneThreads_startIn (o : Op) (k : Core) (x : Nat × Nat) (lane : Nat) (h : lane ≠ x.1) :
    laneThreads (startIn o k x) lane = laneThreads k lane := by
  unfold startIn
  split
  case h_2 => rfl
  case h_1 t ht =>
    obtain ⟨ht4, -⟩ := freeSlot_eq_some ht
    funext n
    exact thread_setThread_other k _ (slotIx_ne ht4 n.isLt fun heq => h heq.1)

theorem foldl_teamPlaces (o : Op) (gs : List Nat) (k : Core) : (teamPlaces gs).foldl (startIn o) k =
    gs.zipIdx.foldl (fun k g => (List.range 32).foldl (fun k l => startIn o k (32 * g.1 + l, 32 * g.2 + l)) k) k := by
  simp only [teamPlaces, List.foldl_flatMap, List.foldl_map]

/-- A team starts its threads one by one, in a core with the threads that are there. -/
theorem startTeam_eq (k : Core) (now : Nat) (o : Op) (gs : List Nat) :
    ∃ k0 : Core, k0.slots = k.slots ∧ k.startTeam now o gs = (teamPlaces gs).foldl (startIn o) k0 := by
  simp only [foldl_teamPlaces]
  refine ⟨?start, ?slots, ?passes⟩
  case passes => rfl
  case slots => rfl

/-- Each lane of a team's groups gets its thread, in a slot that was free. -/
theorem startTeam_thread {k : Core} {now : Nat} {o : Op} {gs : List Nat} (h : k.groupsFor o.entry.gang = some gs)
    {j g l : Nat} (hj : gs[j]? = some g) (hl : l < 32) : ∃ n < 4, k.thread (32 * g + l) n = none ∧
      (k.startTeam now o gs).thread (32 * g + l) n = some (startThread o (32 * j + l)) := by
  obtain ⟨-, hnodup, hgroups⟩ := groupsFor_spec h
  obtain ⟨hg4, hfree⟩ := hgroups g (List.mem_of_getElem? hj)
  have hfree' : ∀ l < 32, (k.freeSlot (32 * g + l)).isSome = true := by simpa [Core.groupFree] using hfree
  obtain ⟨n, hn⟩ := Option.isSome_iff_exists.mp (hfree' l hl)
  obtain ⟨hn4, hnone⟩ := freeSlot_eq_some hn
  obtain ⟨k0, hk0, hstart⟩ := startTeam_eq k now o gs
  obtain ⟨k', hk', hfold⟩ := foldl_at_mem (place := Prod.fst) (g := laneThreads) (laneThreads_startIn o)
    (nodup_teamPlaces hnodup) (mem_teamPlaces hj hl) k0
  dsimp only at hk' hfold
  have hsame : laneThreads k' (32 * g + l) = laneThreads k (32 * g + l) := 
    hk'.trans (funext fun n => congrArg (fun v => (v[slotIx _ n.val]?).getD none) hk0)
  have hfold' : (k.startTeam now o gs).thread (32 * g + l) n = (startIn o k' (32 * g + l, 32 * j + l)).thread (32 * g + l) n :=
    hstart ▸ congrFun hfold ⟨n, hn4⟩
  refine ⟨n, hn4, hnone, hfold'.trans ?_⟩
  have hslot : startIn o k' (32 * g + l, 32 * j + l) =
      k'.setThread (32 * g + l) n (some (startThread o (32 * j + l))) := by
    simp only [startIn, (freeSlot_congr hsame).trans hn]
  rw [hslot, ← threadAt_slotIx, threadAt_setThread, if_pos]
  refine ⟨rfl, ?_⟩
  simp only [slotIx]
  omega

end Sys2Proof
end

section
/-! O48: the scan of a finished team, the completion of ops, and what completes with them. -/

namespace Sys2Proof
open Machine

/-! ### PEDIGREE_SCAN (R130) -/

section scan
variable {c : CoreNo} {op : Nat} {s : State} {team : Team} {o : Op} (hteam : (s.core c).team? op = some team)
  (ho : (s.core c).op? op = some o) (habort : team.aborting = false) (hdone : (s.core c).teamDone op = true)
  (hrun : (s.core c).enginesRun = true)
include hteam ho habort hdone hrun

theorem exec_pedigreeScan_end (hscan : team.scan.getD (team.scanTiles (s.pedlimit c)) = []) :
    exec (.pedigreeScan c op) s = .next (s.updCore c fun k => k.updTeam op fun t => { t with scan := some [] }) := by
  change execPedigreeScan c op s = _
  simp [execPedigreeScan, hteam, ho, habort, hdone, hrun, hscan]

variable {x : W128} {rest : List W128} (hscan : team.scan.getD (team.scanTiles (s.pedlimit c)) = x :: rest)
include hscan

theorem exec_pedigreeScan_poison (hpoison : scanPoison s c x = true) : exec (.pedigreeScan c op) s =
    .next (s.updCore c fun k => k.updTeam op fun t => { t with
      scan := some [], aborting := true,
      fault := some { cause := .memoryError, addr := BitVec.ofNat 64 (Desc.of x).base } }) := by
  change execPedigreeScan c op s = _
  simp [execPedigreeScan, hteam, ho, habort, hdone, hrun, hscan, hpoison]

theorem exec_pedigreeScan_fold (hpoison : scanPoison s c x = false) : ∃ t, exec (.pedigreeScan c op) s = .next t ∧
    t = s.updCore c (fun k => { k with
      port := k.port ++ scanFolds s c o.replay x, ops := (t.core c).ops,
      teams := (k.updTeam op fun t => { t with scan := some rest }).teams }) := by
  refine ⟨?t, ?hexec, ?hupd⟩
  case hexec =>
    change execPedigreeScan c op s = _
    simp only [execPedigreeScan, hteam, ho, habort, hdone, hrun, hscan, hpoison, Bool.not_true, Bool.or_self,
      Bool.false_eq_true, if_false]
    rfl
  case hupd =>
    refine updCore_congr s ?_
    rw [State.core_updCore_same]
    rfl

end scan

/-! ### OP_COMPLETION (R127, R130, R134, R250) -/

section completion
variable {c : CoreNo} {op : Nat} {s : State} {o : Op} (ho : (s.core c).op? op = some o)
include ho

theorem exec_opCompletion_executed {st : OpStatus} {scale : Option W32} (hst : o.st = .executed st scale)
    (hparent : o.parent = none) (hcause : st.cause = .none) : exec (.opCompletion c op) s =
    .next ((s.updCore c fun k =>
      { k.retireOp o scale with seq := (k.retireOp o scale).seq.orFlags st.flags }).acquire c .seq .core) := by
  change execOpCompletion c op s = _
  simp only [execOpCompletion, ho, hst, hparent, hcause, if_true]

theorem exec_opCompletion_nested {st : OpStatus} {scale : Option W32} {p : Nat} (hst : o.st = .executed st scale)
    (hparent : o.parent = some p)
    (hlock : scale.isSome = true → (s.core c).locked false (blockScale o.block) 4 true = false) :
    exec (.opCompletion c op) s = .next (completeNested c o p st scale s) := by
  change execOpCompletion c op s = _
  have hfree : (scale.isSome && (s.core c).locked false (blockScale o.block) 4 true) = false := by
    cases hscale : scale.isSome with
    | false => rfl
    | true => exact hlock hscale
  simp [execOpCompletion, ho, hst, hparent, hfree]

theorem exec_opCompletion_team {team : Team} (hst : o.st = .running) (hteam : (s.core c).team? op = some team) :
    exec (.opCompletion c op) s = .next (completeTeam c o team s) := by
  change execOpCompletion c op s = _
  simp only [execOpCompletion, ho, hst, hteam]

end completion

/-- A nested op without a fault passes its status word on. -/
theorem completeNested_ok {c : CoreNo} {o : Op} {p : Nat} {st : OpStatus} {scale : Option W32} {s : State}
    (hcause : st.cause = .none ∨ st.cause = .rescale) :
    let drop (k : Core) : Core := { k with ops := k.ops.filter fun x => x.id != o.id }
    let folds (x : Op) : Op := { x with folded := x.folded ++ o.folded }
    let s1 := (scale.map fun d => s.kwrite c (o.block + 0x19) (leBytes 4 d.toNat)).getD s
    completeNested c o p st scale s = ((s1.updCore c drop).nestedArrive c p o.id
      (st.flags.zeroExtend 32 ||| if st.cause = .rescale then 0x40 else 0)).updCore c fun k =>
        (k.updTeam p fun t => { t with flags := t.flags ||| st.flags }).updOp p folds := by
  intro drop folds s1
  have hok : ¬ (st.cause ≠ .none ∧ st.cause ≠ .rescale) := fun ⟨hnone, hrescale⟩ => hcause.elim hnone hrescale
  cases scale <;> exact if_neg hok

theorem completeTeam_done {c : CoreNo} {o : Op} {team : Team} {s : State} (habort : team.aborting = false)
    (hdone : (s.core c).teamDone o.id = true) (hscan : team.scan = some []) : completeTeam c o team s =
    (s.updCore c fun k =>
      let k := { k with teams := k.teams.filter fun t => t.op != o.id }
      { k.retireOp o none with seq := (k.retireOp o none).seq.orFlags team.flags }).acquire c .seq .core := by
  simp [completeTeam, habort, hdone, hscan]

theorem completeTeam_aborted {c : CoreNo} {o : Op} {team : Team} {s : State} (habort : team.aborting = true)
    (hstopped : (s.core c).teamStopped o.id = true)
    (hnested : (((s.core c).cancelNested o.id).ops.any fun x => x.parent == some o.id) = false) :
    completeTeam c o team s =
      ((s.setCore c ((s.core c).cancelNested o.id)).settleTeam c o.id).updCore c fun k => k.finishAbort team := by
  simp only [completeTeam, habort, hstopped, hnested, if_true, Bool.true_eq_false, Bool.false_eq_true, if_false]

/-! ### The status word of a nested op arrives (R250) -/

theorem awaitsOp_pend {th : Thread} {n i : Nat} (h : th.awaitsOp n = some i) : ∃ p, th.pend[i]? = some p := by
  have hp := List.find?_some h
  cases hpend : th.pend[i]? with
  | none => simp [hpend] at hp
  | some p => exact ⟨p, rfl⟩

/-- The register that takes the word is marked when it is FULL. -/
theorem arriveStatus_spec {th : Thread} {i : Nat} {w : W32} {p : LPend} (hp : th.pend[i]? = some p) :
    ∃ m : BitVec 64, th.arriveStatus i w = { th.arrive i [w] with status := m } ∧
      ((th.arrive i [w]).isFull p.dst.val = true → m.getLsbD p.dst.val = true) := by
  refine ⟨(th.arrive i [w]).status ||| ((th.arrive i [w]).full &&& (1#64 <<< p.dst.val)), ?_, fun hfull => ?_⟩
  · simp only [Thread.arriveStatus, hp]
  · have hbit : (1#64 <<< p.dst.val).getLsbD p.dst.val = true := by
      rw [getLsbD_one_shiftLeft _ _ p.dst.isLt, decide_eq_true rfl]
    rw [Thread.isFull] at hfull
    rw [BitVec.getLsbD_or, BitVec.getLsbD_and, hfull, hbit]
    simp

/-- The status word goes to one thread. -/
def passStatus (c : CoreNo) (nested : Nat) (w : W32) (s : State) (x : Nat × Nat × Thread) : State :=
  match x.2.2.awaitsOp nested with
  | some i => s.updThread c x.1 x.2.1 fun th => th.arriveStatus i w
  | none => s

theorem threadAt_passStatus (c : CoreNo) (nested : Nat) (w : W32) (s : State) (x : Nat × Nat × Thread) (i : Nat)
    (h : i ≠ placeOf x) : threadAt ((passStatus c nested w s x).core c) i = threadAt (s.core c) i := by
  unfold passStatus
  split
  · rw [State.updThread, State.core_updCore_same, threadAt_setThread, if_neg fun heq => h heq.1]
  · rfl

section arrive
variable {s : State} {c : CoreNo} {op n lane slot : Nat} {w : W32} {th : Thread} (hth : s.thread c lane slot = some th)
include hth

theorem nestedArrive_waiting (hslot : slot < 4) {i : Nat} (hteam : th.team = op)
    (hawaits : th.awaitsOp n = some i) :
    (s.nestedArrive c op n w).thread c lane slot = some (th.arriveStatus i w) := by
  obtain ⟨s', hs', hfold⟩ := foldl_team_at (g := fun s => threadAt (s.core c)) (threadAt_passStatus c n w) hth hteam s
  have hdiv : slotIx lane slot / 4 = lane := by
    simp only [slotIx]
    omega
  have hmod : slotIx lane slot % 4 = slot := by
    simp only [slotIx]
    omega
  have hstep : (s.nestedArrive c op n w).thread c lane slot =
      (s'.updThread c lane slot fun th => th.arriveStatus i w).thread c lane slot := by
    refine hfold.trans ?_
    simp only [passStatus, hawaits, hdiv, hmod]
    rfl
  have hthere : s'.thread c lane slot = some th := hs'.trans hth
  rw [hstep, thread_updThread_same, hthere, Option.map_some]

theorem nestedArrive_other (h : th.team ≠ op ∨ th.awaitsOp n = none) :
    (s.nestedArrive c op n w).thread c lane slot = some th := by
  by_cases hteam : th.team = op
  · have hnone : th.awaitsOp n = none := h.resolve_left fun hne => hne hteam
    obtain ⟨s', hs', hfold⟩ := foldl_team_at (g := fun s => threadAt (s.core c)) (threadAt_passStatus c n w) hth hteam s
    refine hfold.trans ?_
    simp only [passStatus, hnone]
    exact hs'.trans hth
  · have hother (th' : Thread) (hth' : threadAt (s.core c) (slotIx lane slot) = some th') : th'.team ≠ op := by
      obtain rfl : th' = th := Option.some.inj (hth'.symm.trans hth)
      exact hteam
    have hfold := foldl_team_other (g := fun s => threadAt (s.core c)) (threadAt_passStatus c n w) hother s
    exact hfold.trans hth

end arrive

/-! ### The end of an abort (R135) -/

theorem threadAt_freeTeam (k : Core) (op i : Nat) : threadAt (k.freeTeam op) i =
    (threadAt k i).filter fun th => !(th.team == op) := by
  have hteam (th : Thread) (hth : threadAt k i = some th) (hop : th.team = op) : threadAt (k.freeTeam op) i = none :=
    threadAt_setTeam hth hop (fun _ => none) _
  have hother (h : ∀ th, threadAt k i = some th → th.team ≠ op) : threadAt (k.freeTeam op) i = threadAt k i :=
    threadAt_setTeam_other h (fun _ => none) _
  cases hth : threadAt k i with
  | none =>
    rw [hother fun th h => absurd (hth.symm.trans h) (Option.some_ne_none th).symm, hth]
    rfl
  | some th =>
    by_cases hop : th.team = op
    · simp [hteam th hth hop, Option.filter_some, hop]
    · rw [hother fun th' h => by rwa [← Option.some.inj (hth.symm.trans h)], hth]
      simp [Option.filter_some, hop]

theorem freeTeam_ops (k : Core) (op : Nat) : (k.freeTeam op).ops = k.ops :=
  foldl_keeps Core.ops (fun (k : Core) (x : Nat × Nat × Thread) => k.setThread x.1 x.2.1 none) (fun _ _ => rfl) _ _

/-- The team is gone with its threads, and its op has ended with the fault. -/
theorem finishAbort_spec {k : Core} {team : Team} {o : Op} (ho : k.op? team.op = some o) :
    (k.finishAbort team).team? team.op = none ∧
      (∀ lane slot, (k.finishAbort team).thread lane slot = (k.thread lane slot).filter fun th => !(th.team == team.op)) ∧
      (k.finishAbort team).op? team.op = some { o with
        st := .executed { (team.fault.getD {}) with flags := team.flags ||| k.liveFlags team.op } none } := by
  refine ⟨?_, fun lane slot => threadAt_freeTeam k team.op (slotIx lane slot), ?_⟩
  · refine List.find?_eq_none.mpr fun t ht => ?_
    obtain ⟨-, hne⟩ := List.mem_filter.mp ht
    simpa using hne
  · have hops : ({ k.freeTeam team.op with dq := dqAbort k.dq team.dtag } : Core).op? team.op = some o := by
      refine Eq.trans ?_ ho
      exact congrArg (List.find? fun o : Op => o.id == team.op) (freeTeam_ops k team.op)
    refine (op?_updOp _ _ fun _ => ?_).trans ?_
    · rfl
    · rw [hops]
      rfl

/-! ### Reads of status words (R250, R265) -/

theorem readStatus_unmarked {s : State} {t : TRef} {th : Thread} {regs : List Nat}
    (h : ∀ r ∈ regs, th.status.getLsbD r = false) : s.readStatus t th regs = s := by
  have hany : regs.any th.status.getLsbD = false := by simpa using h
  simp [State.readStatus, hany]

theorem readStatus_marked {s : State} {t : TRef} {th : Thread} {regs : List Nat}
    (h : ∃ r ∈ regs, th.status.getLsbD r = true) : s.readStatus t th regs = s.acquire t.c t.agent .core :=
  if_pos (List.any_eq_true.mpr h)

/-! ### FAULT_DELIVERY (R136) -/

theorem exec_faultDelivery {c : CoreNo} {s : State} {f : Faulted} (hf : (s.core c).nextFault = some f)
    (htakes : (s.core c).seq.takesDelivery = true) (hclock : (s.core c).health.clockStop = false) :
    exec (.faultDelivery c) s = .next (deliver c f s) := by
  change execFaultDelivery c s = _
  simp [execFaultDelivery, hf, htakes, hclock]

end Sys2Proof
end

section
/-! O48: WATCHDOG stops every thread of a team, and no team stays overdue (R131, R135, R375). -/

namespace Sys2Proof
open Machine

/-! ### What is on its way acts -/

theorem foldl_fixed_of_mem {σ α : Type} {f : σ → α → σ} {s : σ} {xs : List α} (h : ∀ x ∈ xs, f s x = s) : xs.foldl f s = s := by
  induction xs with
  | nil => rfl
  | cons x xs ih =>
    rw [List.foldl_cons, h x List.mem_cons_self]
    exact ih fun y hy => h y (List.mem_cons_of_mem x hy)

theorem bindThreadLoad_none {s : State} {c : CoreNo} {lane slot : Nat} {th : Thread} (hth : s.thread c lane slot = some th)
    (hpend : ∀ p ∈ th.pend, ∀ l, p.res ≠ .load l) (take : LateLoad → Bool) (i : Nat) :
    bindThreadLoad c lane slot take s i = s := by
  unfold bindThreadLoad
  split
  · rfl
  · rename_i p hp
    rw [hth, Option.bind_some] at hp
    split
    · rename_i l _ hres
      exact absurd hres (hpend p (List.mem_of_getElem? hp) l)
    · rfl

theorem bindLoads_thread_none {s : State} {c : CoreNo} {lane slot : Nat} {th : Thread}
    (hth : s.thread c lane slot = some th) (hpend : ∀ p ∈ th.pend, ∀ l, p.res ≠ .load l) (take : LateLoad → Bool) :
    s.bindLoads c (.thread lane slot) take = s := by
  simp only [State.bindLoads, hth]
  exact foldl_fixed_of_mem fun i _ => bindThreadLoad_none hth hpend take i

theorem landLstores_none {k : Core} {a : Agent} (h : ∀ p ∈ k.lstores, p.agent ≠ a) (take : PStore → Bool) :
    k.landLstores a take = k := by
  have hsplit (ps : List PStore) (hps : ∀ p ∈ ps, p.agent ≠ a) : splitLstores a take ps = ([], ps) := by
    induction ps with
    | nil => rfl
    | cons p ps ih =>
      have hp : (p.agent == a) = false := beq_eq_false_iff_ne.mpr (hps p List.mem_cons_self)
      simp [splitLstores, ih fun q hq => hps q (List.mem_cons_of_mem p hq), hp]
  simp [Core.landLstores, hsplit k.lstores h]

/-- A team with no load and no store on its way. -/
theorem settleThreads_none {s : State} {c : CoreNo} {op : Nat}
    (h : ∀ y ∈ (s.core c).teamThreads op, (∀ p ∈ y.2.2.pend, ∀ l, p.res ≠ .load l) ∧
      (∀ p ∈ (s.core c).kstores, p.agent ≠ .thread y.1 y.2.1) ∧
      ∀ p ∈ (s.core c).lstores, p.agent ≠ .thread y.1 y.2.1) : s.settleThreads c op = s := by
  refine foldl_fixed_of_mem fun y hy => ?_
  obtain ⟨-, -, hth, -⟩ := mem_teamThreads.mp hy
  obtain ⟨hpend, hk, hl⟩ := h y hy
  rw [State.settleAgent, bindLoads_thread_none hth hpend]
  refine updCore_of_fixed ?_
  rw [landKstores_none hk, landLstores_none hl]

theorem bareState_settleThreads (s : State) (c : CoreNo) (op : Nat) : bareState (s.settleThreads c op) = bareState s :=
  foldl_keeps bareState _ (fun s (x : Nat × Nat × Thread) => bareState_settleAgent s c (.thread x.1 x.2.1)) _ _

/-! ### The watchdog's stop -/

/-- A thread parked for a replayable fault stops, and what it waits for is withdrawn. -/
def withdrawThread (k : Core) (x : Nat × Nat × Thread) : Core :=
  match x.2.2.park with
  | .none | .retry | .walking | .failed _ => k
  | .waiting _ _ => (k.unparkThread x.1 x.2.1 x.2.2.park).setThread x.1 x.2.1 (some x.2.2.stop)

theorem withdrawTeam_eq (k : Core) (op : Nat) : k.withdrawTeam op = (k.teamThreads op).foldl withdrawThread k := rfl

theorem slots_unparkThread (k : Core) (lane slot : Nat) (p : Park) : (k.unparkThread lane slot p).slots = k.slots := by
  cases p <;> rfl

theorem threadAt_withdrawThread (k : Core) (x : Nat × Nat × Thread) (i : Nat) (h : i ≠ placeOf x) :
    threadAt (withdrawThread k x) i = threadAt k i := by
  unfold withdrawThread
  split
  case h_5 =>
    rw [threadAt_setThread, if_neg fun heq => h heq.1, threadAt, slots_unparkThread, threadAt]
  all_goals rfl

theorem teams_withdrawThread (k : Core) (x : Nat × Nat × Thread) : (withdrawThread k x).teams = k.teams := by
  unfold withdrawThread
  split
  case h_5 =>
    cases x.2.2.park <;> rfl
  all_goals rfl

/-- After the withdrawal a thread of the team is there, the same once it stops. -/
theorem threadAt_withdrawTeam {k : Core} {op i : Nat} {th : Thread} (hth : threadAt k i = some th) (hteam : th.team = op) :
    ∃ th', threadAt (k.withdrawTeam op) i = some th' ∧ th'.stop = th.stop := by
  obtain ⟨k', hk', hfold⟩ := foldl_team_at (g := threadAt) threadAt_withdrawThread hth hteam k
  rw [withdrawTeam_eq, hfold]
  unfold withdrawThread
  split
  case h_5 =>
    refine ⟨th.stop, ?_, rfl⟩
    rw [threadAt_setThread, if_pos ⟨(place_div_mod i).symm, threadAt_lt hth⟩]
  all_goals exact ⟨th, hk'.trans hth, rfl⟩

theorem threadAt_withdrawTeam_other {k : Core} {op i : Nat} (hth : ∀ th, threadAt k i = some th → th.team ≠ op) :
    threadAt (k.withdrawTeam op) i = threadAt k i :=
  foldl_team_other (g := threadAt) threadAt_withdrawThread hth k

/-- The expiry of a team: it is aborted and each of its threads stops with nothing on its way. -/
def haltTeam (op : Nat) (st : OpStatus) (k : Core) : Core :=
  ((k.abortTeam op st).teamThreads op).foldl (fun k y => k.setThread y.1 y.2.1 (some { y.2.2.stop with pend := [] }))
    (k.abortTeam op st)

theorem haltTeam_thread {k : Core} {op i : Nat} {th : Thread} (hth : threadAt k i = some th) (hteam : th.team = op)
    (st : OpStatus) : threadAt (haltTeam op st k) i = some { th with wait := .faulted, park := .none, pend := [] } := by
  obtain ⟨th', hth', hstop⟩ := threadAt_withdrawTeam
    (k := k.updTeam op fun t => { t with fault := some (t.fault.getD st), aborting := true }) hth hteam
  have hteam' : th'.team = op := (congrArg Thread.team hstop).trans hteam
  refine (threadAt_setTeam hth' hteam' (fun y => some { y.2.2.stop with pend := [] }) _).trans ?_
  exact congrArg (fun th : Thread => some { th with pend := [] }) hstop

theorem haltTeam_other {k : Core} {op i : Nat} (hth : ∀ th, threadAt k i = some th → th.team ≠ op) (st : OpStatus) :
    threadAt (haltTeam op st k) i = threadAt k i := by
  have habort : threadAt (k.abortTeam op st) i = threadAt k i :=
    threadAt_withdrawTeam_other (k := k.updTeam op fun t => { t with fault := some (t.fault.getD st), aborting := true }) hth
  exact (threadAt_setTeam_other (habort ▸ hth) (fun y => some { y.2.2.stop with pend := [] }) _).trans habort

theorem haltTeam_teams (k : Core) (op : Nat) (st : OpStatus) : (haltTeam op st k).teams =
    (k.updTeam op fun t => { t with fault := some (t.fault.getD st), aborting := true }).teams :=
  (foldl_keeps Core.teams (fun (k : Core) (y : Nat × Nat × Thread) =>
    k.setThread y.1 y.2.1 (some { y.2.2.stop with pend := [] })) (fun _ _ => rfl) _ _).trans
    (foldl_keeps Core.teams withdrawThread teams_withdrawThread _ _)

theorem exec_watchdog (c : CoreNo) (op : Nat) (s : State) : exec (.watchdog c op) s = .next (s.watchdog c op) := rfl

/-- What the watchdog records. -/
def expiry (s : State) (c : CoreNo) (team : Team) (x : Nat × Nat × Thread) : OpStatus :=
  { cause := .watchdog, detail := BitVec.ofNat 64 (2 ^ team.entry.wdog),
    lane := some (s.laneWhere ⟨c, x.1, x.2.1⟩ x.2.2) }

theorem watchdog_overdue {s : State} {c : CoreNo} {op : Nat} {team : Team} {x : Nat × Nat × Thread}
    (hteam : (s.core c).team? op = some team) (hx : (s.core c).lowestRank op = some x)
    (hover : (s.core c).overdue s.now team = true) :
    s.watchdog c op = (s.settleThreads c op).updCore c (haltTeam op (expiry s c team x)) := by
  simp only [State.watchdog, hteam, hx, hover, Bool.true_eq_false, if_false]
  rfl

theorem overdue_iff {k : Core} {now : Nat} {t : Team} : k.overdue now t = true ↔
    2 ^ t.entry.wdog ≤ t.counted now ∧ (t.aborting = true → k.teamStopped t.op = false) := by
  simp only [Core.overdue, Bool.and_eq_true, decide_eq_true_eq, Bool.not_eq_true', Bool.and_eq_false_iff]
  cases t.aborting <;> simp

/-! ### Whether a team has stopped -/

/-- The lanes of a team's threads and what each waits for: all that the rule of its stop reads. -/
def waitsOf (ts : List (Nat × Nat × Thread)) : List (Nat × Wait) := ts.map fun x => (x.1, x.2.2.wait)

/-- A thread with this wait runs no further, once the lanes `stopped` do not. -/
def haltsAt (stopped : List Nat) (x : Nat × Wait) : Bool :=
  match x.2 with
  | .faulted | .barrier _ _ _ => true
  | .coll a => (maskLanes a.mask).any fun l => stopped.contains (32 * (x.1 / 32) + l)
  | .none | .debug => false

theorem stopRound_eq (ts : List (Nat × Nat × Thread)) (acc : List Nat) :
    stopRound ts acc = ((waitsOf ts).filter (haltsAt acc)).map Prod.fst := by
  rw [waitsOf, List.filter_map, List.map_map]
  rfl

theorem stopFix_congr {ts ts' : List (Nat × Nat × Thread)} (h : waitsOf ts = waitsOf ts') (n : Nat) (acc : List Nat) :
    stopFix ts n acc = stopFix ts' n acc := by
  induction n generalizing acc with
  | zero => rfl
  | succ n ih => simp only [stopFix, stopRound_eq, h, ih]

theorem teamStopped_congr {k k' : Core} {op : Nat} (h : waitsOf (k.teamThreads op) = waitsOf (k'.teamThreads op)) :
    k.teamStopped op = k'.teamStopped op := by
  have hlen : (k.teamThreads op).length = (k'.teamThreads op).length := by
    simpa [waitsOf] using congrArg List.length h
  simp only [Core.teamStopped, stopFix_congr h, hlen]

/-- A team whose threads have all faulted has stopped. -/
theorem teamStopped_of_faulted {k : Core} {op : Nat} (h : ∀ x ∈ k.teamThreads op, x.2.2.wait = .faulted) :
    k.teamStopped op = true := by
  have hround (acc : List Nat) : (stopRound (k.teamThreads op) acc).length = (k.teamThreads op).length := by
    rw [stopRound_eq, List.filter_eq_self.mpr]
    · simp [waitsOf]
    · intro y hy
      obtain ⟨x, hx, rfl⟩ := List.mem_map.mp hy
      simp only [haltsAt, h x hx]
  have hfix : (stopFix (k.teamThreads op) 128 []).length = (k.teamThreads op).length := by
    rw [stopFix]
    simp only [hround]
    split_ifs with hempty
    · exact hempty.symm
    · rw [stopFix]
      simp only [hround, if_true]
  simp [Core.teamStopped, hfix]

theorem waitsOf_teamThreads (k : Core) (op : Nat) : waitsOf (k.teamThreads op) = (List.range 512).filterMap fun i =>
    (((threadAt k i).filter fun t => t.team == op).map Thread.wait).map fun w => (i / 4, w) := by
  rw [waitsOf, teamThreads_eq, List.map_filterMap]
  simp only [Option.map_map]
  rfl

theorem lowestRank_eq_none {k : Core} {op : Nat} (h : k.lowestRank op = none) : k.teamThreads op = [] := by
  have hsome (xs : List (Nat × Nat × Thread)) (b : Nat × Nat × Thread) : (xs.foldl (fun best x =>
      match best with
      | some b => if x.2.2.rank < b.2.2.rank then some x else best
      | none => some x) (some b)) ≠ none := by
    induction xs generalizing b with
    | nil => simp
    | cons x xs ih =>
      rw [List.foldl_cons]
      dsimp only
      split_ifs
      · exact ih x
      · exact ih b
  cases hts : k.teamThreads op with
  | nil => rfl
  | cons x xs =>
    rw [Core.lowestRank, hts, List.foldl_cons] at h
    exact absurd h (hsome xs x)

/-! ### No team stays overdue -/

/-- No team of this op with live threads is overdue. -/
def notOverdue (s : State) (c : CoreNo) (op : Nat) : Prop :=
  ∀ team ∈ (s.core c).teams, team.op = op → (s.core c).teamThreads op ≠ [] → (s.core c).overdue s.now team = false

/-- Nothing of a team that the watchdog's count and its stop read has moved. -/
structure TeamStays (s t : State) (c : CoreNo) (op : Nat) : Prop where
  teams : ∀ team ∈ (t.core c).teams, team.op = op → team ∈ (s.core c).teams
  waits : waitsOf ((t.core c).teamThreads op) = waitsOf ((s.core c).teamThreads op)
  now : t.now = s.now

theorem TeamStays.trans {s t u : State} {c : CoreNo} {op : Nat} (h : TeamStays s t c op) (h' : TeamStays t u c op) :
    TeamStays s u c op :=
  ⟨fun team hmem hop => h.teams team (h'.teams team hmem hop) hop, h'.waits.trans h.waits, h'.now.trans h.now⟩

theorem TeamStays.notOverdue {s t : State} {c : CoreNo} {op : Nat} (h : TeamStays s t c op) (hs : notOverdue s c op) :
    notOverdue t c op := by
  intro team hmem hop hlive
  have hlive' : (s.core c).teamThreads op ≠ [] := fun hnil => hlive (by simpa [waitsOf, hnil] using h.waits)
  have hover := hs team (h.teams team hmem hop) hop hlive'
  rw [Core.overdue, hop] at hover ⊢
  rw [h.now, teamStopped_congr h.waits]
  exact hover

theorem waits_bareThread (op : Nat) (th : Option Thread) : ((th.map bareThread).filter fun t => t.team == op).map Thread.wait =
    (th.filter fun t => t.team == op).map Thread.wait := by
  cases th with
  | none => rfl
  | some th => by_cases h : th.team = op <;> simp [Option.filter_some, bareThread, h]

theorem teamStays_of_bare {s t : State} (h : bareState t = bareState s) (c : CoreNo) (op : Nat) : TeamStays s t c op := by
  refine ⟨fun team hmem _ => ?_, ?_, stateField_eq h State.now fun _ => rfl⟩
  · rwa [← coreField_eq h c Core.teams fun _ => rfl]
  · rw [waitsOf_teamThreads, waitsOf_teamThreads]
    refine List.filterMap_congr fun i _ => congrArg _ ?_
    have hth : (threadAt (t.core c) i).map bareThread = (threadAt (s.core c) i).map bareThread := by
      have := thread_of_bare h c (i / 4) (i % 4)
      rwa [State.thread, State.thread, ← threadAt_slotIx, ← threadAt_slotIx, place_div_mod] at this
    rw [← waits_bareThread, hth, waits_bareThread]

theorem teamStays_haltTeam {s : State} {c c' : CoreNo} {op op' : Nat} (st : OpStatus) (h : ¬ (c' = c ∧ op' = op)) :
    TeamStays s (s.updCore c (haltTeam op st)) c' op' := by
  by_cases hc : c' = c
  · subst hc
    have hop : op' ≠ op := fun heq => h ⟨rfl, heq⟩
    refine ⟨fun team hmem hteam => ?_, ?_, rfl⟩
    · rw [State.core_updCore_same, haltTeam_teams] at hmem
      obtain ⟨y, hy, rfl⟩ := List.mem_map.mp hmem
      by_cases hyop : y.op = op
      · rw [if_pos hyop] at hteam
        exact absurd (hteam.symm.trans hyop) hop
      · rwa [if_neg hyop]
    · rw [State.core_updCore_same, waitsOf_teamThreads, waitsOf_teamThreads]
      refine List.filterMap_congr fun i _ => congrArg _ ?_
      cases hth : threadAt (s.core c') i with
      | none => rw [haltTeam_other (by simp [hth]), hth]
      | some th =>
        by_cases hteam : th.team = op
        · rw [haltTeam_thread hth hteam]
          simp [Option.filter_some, hteam, Ne.symm hop]
        · rw [haltTeam_other fun th' h => by rwa [← Option.some.inj (hth.symm.trans h)], hth]
  · have hcore := State.core_updCore_other s c c' (haltTeam op st) hc
    exact ⟨fun team hmem _ => by rwa [← hcore], by rw [hcore], rfl⟩

/-- A thread of the team after the stop was one before. -/
theorem haltTeam_faulted {k : Core} {op i : Nat} {th : Thread} {st : OpStatus}
    (hth : threadAt (haltTeam op st k) i = some th) (hteam : th.team = op) : th.wait = .faulted := by
  by_cases h : ∃ th', threadAt k i = some th' ∧ th'.team = op
  · obtain ⟨th', hth', hteam'⟩ := h
    rw [haltTeam_thread hth' hteam'] at hth
    cases hth
    rfl
  · have hother (th' : Thread) (hth' : threadAt k i = some th') : th'.team ≠ op := fun hop => h ⟨th', hth', hop⟩
    rw [haltTeam_other hother] at hth
    exact absurd hteam (hother th hth)

theorem notOverdue_haltTeam (s : State) (c : CoreNo) (op : Nat) (st : OpStatus) :
    notOverdue (s.updCore c (haltTeam op st)) c op := by
  intro team hmem hop _
  rw [State.core_updCore_same] at hmem ⊢
  have hstopped : (haltTeam op st (s.core c)).teamStopped op = true := by
    refine teamStopped_of_faulted fun x hx => ?_
    obtain ⟨-, -, hth, hteam⟩ := mem_teamThreads.mp hx
    exact haltTeam_faulted hth hteam
  have haborting : team.aborting = true := by
    rw [haltTeam_teams] at hmem
    obtain ⟨y, -, rfl⟩ := List.mem_map.mp hmem
    by_cases hy : y.op = op
    · rw [if_pos hy]
    · rw [if_neg hy] at hop
      exact absurd hop hy
  simp [Core.overdue, haborting, hop, hstopped]

/-- What a watchdog does: nothing, because the team is not overdue, or the stop. -/
theorem watchdog_cases {s : State} {c : CoreNo} (op : Nat) (hnodup : ((s.core c).teams.map Team.op).Nodup) :
    (s.watchdog c op = s ∧ notOverdue s c op) ∨
      ∃ st, s.watchdog c op = (s.settleThreads c op).updCore c (haltTeam op st) := by
  cases hteam : (s.core c).team? op with
  | none =>
    refine .inl ⟨by simp only [State.watchdog, hteam], fun team hmem hop => ?_⟩
    exact absurd hop (by simpa using List.find?_eq_none.mp hteam team hmem)
  | some team =>
    cases hx : (s.core c).lowestRank op with
    | none =>
      exact .inl ⟨by simp only [State.watchdog, hteam, hx], fun _ _ _ hlive => absurd (lowestRank_eq_none hx) hlive⟩
    | some x =>
      cases hover : (s.core c).overdue s.now team with
      | false =>
        refine .inl ⟨by simp only [State.watchdog, hteam, hx, hover, if_true], fun team' hmem hop _ => ?_⟩
        have hsame : team' = team := List.inj_on_of_nodup_map hnodup hmem (List.mem_of_find?_eq_some hteam)
          (hop.trans (op_of_team? hteam).symm)
        exact hsame ▸ hover
      | true => exact .inr ⟨_, watchdog_overdue hteam hx hover⟩

theorem notOverdue_watchdog {s : State} {c : CoreNo} (op : Nat) (hnodup : ((s.core c).teams.map Team.op).Nodup) :
    notOverdue (s.watchdog c op) c op := by
  rcases watchdog_cases op hnodup with ⟨heq, hs⟩ | ⟨st, heq⟩
  · rwa [heq]
  · rw [heq]
    exact notOverdue_haltTeam _ c op st

theorem notOverdue_watchdog_other {s : State} {c c' : CoreNo} {op op' : Nat}
    (hnodup : ((s.core c).teams.map Team.op).Nodup) (hs : notOverdue s c' op') : notOverdue (s.watchdog c op) c' op' := by
  by_cases hsame : c' = c ∧ op' = op
  · obtain ⟨rfl, rfl⟩ := hsame
    exact notOverdue_watchdog op' hnodup
  · rcases watchdog_cases op hnodup with ⟨heq, -⟩ | ⟨st, heq⟩
    · rwa [heq]
    · rw [heq]
      exact ((teamStays_of_bare (bareState_settleThreads s c op) c' op').trans (teamStays_haltTeam st hsame)).notOverdue hs

theorem ops_watchdog {s : State} {c : CoreNo} (op : Nat) (hnodup : ((s.core c).teams.map Team.op).Nodup) (d : CoreNo) :
    ((s.watchdog c op).core d).teams.map Team.op = (s.core d).teams.map Team.op := by
  rcases watchdog_cases op hnodup with ⟨heq, -⟩ | ⟨st, heq⟩
  · rw [heq]
  · rw [heq, core_updCore_keeps (fun k => k.teams.map Team.op)]
    · exact coreField_eq (bareState_settleThreads s c op) d (fun k => k.teams.map Team.op) fun _ => rfl
    · rw [haltTeam_teams, Core.updTeam, List.map_map]
      refine List.map_congr_left fun t _ => ?_
      rw [Function.comp_apply]
      split_ifs <;> rfl

theorem notOverdue_foldl (xs : List (CoreNo × Nat)) {s : State} (hnodup : ∀ d, ((s.core d).teams.map Team.op).Nodup)
    (h : ∀ c op, notOverdue s c op ∨ (c, op) ∈ xs) (c : CoreNo) (op : Nat) :
    notOverdue (xs.foldl (fun s x => s.watchdog x.1 x.2) s) c op := by
  induction xs generalizing s with
  | nil => exact (h c op).resolve_right List.not_mem_nil
  | cons x xs ih =>
    refine ih (fun d => (ops_watchdog x.2 (hnodup x.1) d).symm ▸ hnodup d) fun c op => ?_
    rcases h c op with hs | hmem
    · exact .inl (notOverdue_watchdog_other (hnodup x.1) hs)
    · rcases List.mem_cons.mp hmem with rfl | hmem
      · exact .inl (notOverdue_watchdog op (hnodup c))
      · exact .inr hmem

/-- A team with a watchdog that has run out is among those that the machine goes through. -/
theorem notOverdue_or_mem (s : State) (c : CoreNo) (op : Nat) : notOverdue s c op ∨ (c, op) ∈ s.overdue := by
  by_cases h : ∃ team ∈ (s.core c).teams, team.op = op ∧ (s.core c).overdue s.now team = true
  · obtain ⟨team, hmem, rfl, hover⟩ := h
    exact .inr (List.mem_flatMap.mpr ⟨c, List.mem_finRange c,
      List.mem_map.mpr ⟨team, List.mem_filter.mpr ⟨hmem, hover⟩, rfl⟩⟩)
  · refine .inl fun team hmem hop _ => ?_
    by_contra hover
    exact h ⟨team, hmem, hop, Bool.eq_true_of_not_eq_false hover⟩

end Sys2Proof
end

section
/-! O48, assembled: the rules of the engines' functions in the words of the statement, then the whole statement. -/

namespace Sys2Proof
open Machine

/-! ### The checks (R143) -/

theorem mmaRules_iff {d a b : Desc} : mmaRules d a b = none ↔ d.space = 1 ∧ (a.space = 0 ∨ a.space = 2) ∧ a.rows = d.rows ∧
    (b.space = 0 ∨ b.space = 2) ∧ b.rows = d.rbytes / 4 ∧ a.cols = b.cols ∧
    (((a.fmtOr = .int8 ∨ a.fmtOr = .uint8) ∧ (b.fmtOr = .int8 ∨ b.fmtOr = .uint8) ∧ a.cols % 48 = 0 ∧ d.fmtOr = .int32) ∨
     (a.fmtOr = .pw8 ∧ b.fmtOr = .int8 ∧ a.cols % 48 = 0 ∧ d.fmtOr = .int32) ∨
     ((a.fmtOr = .e4m3 ∨ a.fmtOr = .e5m2) ∧ (b.fmtOr = .e4m3 ∨ b.fmtOr = .e5m2) ∧ a.cols % 48 = 0 ∧ d.fmtOr = .fp32) ∨
     ((a.fmtOr = .bf16 ∨ a.fmtOr = .fp16) ∧ b.fmtOr = a.fmtOr ∧ a.cols % 24 = 0 ∧ d.fmtOr = .fp32)) := by
  rw [mmaRules_eq_none, inKR_iff, inKR_iff]
  simp only [mmaPair_eq_some, or_and_right, exists_or, and_assoc, exists_and_left, exists_eq_left]

/-- The converter's rules with its own rules of one function. -/
theorem converter_iff {fn md : Nat} {d a : Desc} {own : Prop} (hown : (∀ x ∈ ownRules fn md d a, x.1 = true) ↔ own) :
    converterRules fn md d a = none ↔ d.space = 0 ∧ (a.space = 0 ∨ a.space = 2) ∧ (a.rows = d.rows ∧ a.cols = d.cols) ∧
      own ∧ a.cols % hadBlock fn md = 0 := by
  rw [converterRules_eq_none, inKR_iff, hown]

/-- The block rule of the Hadamard forms. -/
theorem hadBlock_iff {fn md n : Nat} (h : fn = 5 ∨ fn = 7) :
    n % hadBlock fn md = 0 ↔ (md = 1 → n % 16 = 0) ∧ (md = 2 → n % 32 = 0) := by
  rw [hadBlock, if_pos h]
  split_ifs with h1 h2
  · simp [h1]
  · simp [h2]
  · simp [h1, h2, Nat.mod_one]

theorem hadBlock_other {fn md n : Nat} (h : ¬ (fn = 5 ∨ fn = 7)) : n % hadBlock fn md = 0 := by
  rw [hadBlock, if_neg h, Nat.mod_one]

section converter
variable {md : Nat} {d a : Desc}

theorem cvtRules_eq_none : converterRules 4 md d a = none ↔ d.space = 0 ∧ (a.space = 0 ∨ a.space = 2) ∧
    a.rows = d.rows ∧ a.cols = d.cols := by
  have hown : (∀ x ∈ ownRules 4 md d a, x.1 = true) ↔ True := by simp [ownRules]
  rw [converter_iff hown]
  simp [hadBlock_other]

theorem qntRules_eq_none : converterRules 5 md d a = none ↔ d.space = 0 ∧ (a.space = 0 ∨ a.space = 2) ∧
    (a.rows = d.rows ∧ a.cols = d.cols) ∧
    (d.fmtOr = .int8 ∨ d.fmtOr = .e4m3 ∨ d.fmtOr = .e5m2 ∨ d.fmtOr = .pw8) ∧
    (a.fmtOr = .fp32 ∨ a.fmtOr = .bf16 ∨ a.fmtOr = .fp16) ∧ (md = 0 ∨ d.role = if md = 3 then 2 else 1) ∧
    (md = 1 → a.cols % 16 = 0) ∧ (md = 2 → a.cols % 32 = 0) := by
  have hown : (∀ x ∈ ownRules 5 md d a, x.1 = true) ↔
      quantFmt d.fmtOr = true ∧ (md = 0 ∨ d.role = if md = 3 then 2 else 1) ∧ floatHK a.fmtOr = true := by
    simp [ownRules, roleWgt, roleAct]
  rw [converter_iff hown, hadBlock_iff (.inl rfl), quantFmt_iff, floatHK_iff]
  simp only [and_assoc, and_left_comm (a := md = 0 ∨ d.role = if md = 3 then 2 else 1)]

theorem dqntRules_eq_none : converterRules 6 md d a = none ↔ d.space = 0 ∧ (a.space = 0 ∨ a.space = 2) ∧
    (a.rows = d.rows ∧ a.cols = d.cols) ∧ (d.fmtOr = .fp32 ∨ d.fmtOr = .bf16 ∨ d.fmtOr = .fp16) ∧
    (a.fmtOr = .int8 ∨ a.fmtOr = .e4m3 ∨ a.fmtOr = .e5m2 ∨ a.fmtOr = .pw8) := by
  have hown : (∀ x ∈ ownRules 6 md d a, x.1 = true) ↔ floatHK d.fmtOr = true ∧ quantFmt a.fmtOr = true := by
    simp [ownRules]
  rw [converter_iff hown, floatHK_iff, quantFmt_iff]
  simp [hadBlock_other]

theorem hadRules_eq_none : converterRules 7 md d a = none ↔ d.space = 0 ∧ (a.space = 0 ∨ a.space = 2) ∧
    (a.rows = d.rows ∧ a.cols = d.cols) ∧ (d.fmtOr = .fp32 ∨ d.fmtOr = .bf16 ∨ d.fmtOr = .fp16) ∧
    (a.fmtOr = .fp32 ∨ a.fmtOr = .bf16 ∨ a.fmtOr = .fp16) ∧ d.role = 1 ∧
    (md = 1 → a.cols % 16 = 0) ∧ (md = 2 → a.cols % 32 = 0) := by
  have hown : (∀ x ∈ ownRules 7 md d a, x.1 = true) ↔ floatHK d.fmtOr = true ∧ d.role = 1 ∧ floatHK a.fmtOr = true := by
    simp [ownRules, roleAct]
  rw [converter_iff hown, hadBlock_iff (.inr rfl), floatHK_iff, floatHK_iff]
  simp only [and_assoc, and_left_comm (a := d.role = 1)]

theorem permRules_eq_none : converterRules 8 md d a = none ↔ d.space = 0 ∧ (a.space = 0 ∨ a.space = 2) ∧
    (a.rows = d.rows ∧ a.cols = d.cols) ∧ d.role = 2 ∧ a.fmtOr = d.fmtOr := by
  have hown : (∀ x ∈ ownRules 8 md d a, x.1 = true) ↔ d.role = 2 ∧ a.fmtOr = d.fmtOr := by
    simp [ownRules, roleWgt]
  rw [converter_iff hown]
  simp [hadBlock_other]

end converter

theorem ruleFault_cause {fn md : Nat} {d a b : Desc} {f : OpStatus} (h : ruleFault fn md d (some a) (some b) = some f) :
    f.cause = .illegalOperand ∨
      ((fn = 5 ∨ fn = 7) ∧ a.cols % (if md = 1 then 16 else 32) ≠ 0 ∧ f.cause = .badDesc) := by
  unfold ruleFault at h
  split at h
  case h_5 heq _ =>
    cases heq
    exact converterRules_cause h
  case h_6 => cases h
  all_goals exact .inl (cause_firstBroken h)

theorem accRules_iff {d : Desc} : firstBroken [(d.space == spaceAcc, 0)] = none ↔ d.space = 1 := by
  simp [firstBroken_eq_none, spaceAcc]

/-! ### The statement -/

/-- Settles O48, clause by clause, in the order of the statement. -/
theorem opsStartAndComplete : Obligations.OpsStartAndComplete := by
  unfold Obligations.OpsStartAndComplete
  refine ⟨?start, ?run, ?reads, ?writes, ?checks, ?rules, ?functions, ?products, ?commit, ?admission, ?scan, ?completion,
    ?arrival, ?status, ?abort, ?watchdog, ?overdue, ?delivery⟩
  case start =>
    intro c conv s o hrun hstart hclose hlock
    have hexec := exec_engineOpStart hrun hstart hclose hlock
    refine ⟨hexec, fun hresult hseen hchoices => ?_⟩
    rw [hexec, choice_nil hchoices, engineStep_zero hresult hseen]
  case run =>
    intro c s o
    exact ⟨fun f hf => startOp_of_fault hf, fun d hok hd =>
      ⟨fun t ht => startOp_of_poisoned hok hd ht, fun ht => startOp_of_checked hok hd ht⟩⟩
  case reads =>
    intro c s o take
    exact ⟨fun x hx => ⟨newlySeen c o take s, op?_readSome take hx, fun b hb => newlySeen_spec hb⟩,
      sameMemory_readSome c o take s, sameMemory_computeOp⟩
  case writes =>
    intro c s o take st scale hresult hwf hwork hin
    refine ⟨fun x hx hout => ?_, fun x hout => ?_, fun i b hb hi hone => ?_, fun hall x hx => ?_⟩
    · rw [Core.kread, Core.kread, kread_one, kread_one,
        byteIn_writeSome_outside hresult hwork hwf hin (fun _ => hx) hout]
    · rw [aread_one, aread_one, byteIn_writeSome_outside hresult hwork hwf hin (by simp) hout]
    · exact byteIn_writeSome hresult hwork hwf hin hb hi hone
    · exact op?_writeSome hresult hwork hall hx
  case checks =>
    intro c s fn md r t0 hd
    refine ⟨fun n v hv hbad hfirst => engineFault_of_desc (descFault_of_first hv hbad hfirst), fun hgood => ?_⟩
    refine ⟨fun f hf => engineFault_of_rules hd hgood hf, fun hrules x hx => ?_, fun hrules htable => ?_⟩
    · have htab {f : OpStatus} := engineFault_of_table (f := f) hd hgood hrules hx
      exact ⟨fun halign => htab (tableFault_align halign), fun heven hend => htab (tableFault_range heven hend),
        fun heven hend hpoison => htab (tableFault_poison heven hend hpoison),
        fun heven hend hpoison hbad => htab (tableFault_badPerm heven hend hpoison hbad)⟩
    · have hrec := engineFault_of_record hd hgood hrules htable
      refine ⟨fun hfn hpidx => hrec.trans (recordFault_noStats hfn hpidx),
        fun hfn hspace hpidx hfmt => hrec.trans (recordFault_format hfn hspace hpidx hfmt),
        fun hfn hpidx => hrec.trans (recordFault_eq_none (fun _ => hpidx) fun hne => absurd hfn hne),
        fun hfn hfmt => hrec.trans (recordFault_eq_none (fun heq => absurd heq hfn) fun _ => hfmt)⟩
  case rules =>
    intro fn md d a b
    exact ⟨mmaRules_iff, accldRules_eq_none, fun _ => accstRules_eq_none, accRules_iff, cvtRules_eq_none,
      qntRules_eq_none, dqntRules_eq_none, hadRules_eq_none, permRules_eq_none, fun f hf => ruleFault_cause hf⟩
  case functions =>
    intro c o md d a b table s
    refine ⟨rfl, runEngine_accst c o md d a b table s, rfl, rfl, rfl, fun f hf => runEngine_had c o md d a b table s hf, rfl,
      runEngine_qnt c o md d a b table s rfl fun i k => by rw [qntSource_eq], fun b => runEngine_mma c o md d a table s b⟩
  case products =>
    intro s md d a b table st acc i j hpair _ _ hlen hi hj
    exact getElem?_mmaCells md d a table s hpair hlen hi hj
  case commit =>
    intro c o d f s r folds
    have hfolds : cellFolds (s.core c).ctx d o.replay (cellsOf d f) = folds := cellFolds_cellsOf _ d o.replay f
    rw [← hfolds]
    exact ⟨rfl, rfl, commit_state c o d f s, commit_folded c o d f s _, fun n _ => getLsbD_cellFlags d f n,
      fun pl hok hspace hwf hbits => ⟨fun i hi k hk => elem_writeCells hok hwf hi hk (hbits i k), fun x =>
        ⟨fun hout hx => kread_writeCells hok hwf hout hspace hx, fun hout _ => aread_writeCells hok hwf hout⟩⟩⟩
  case admission =>
    intro c s o gs ho hgs hmoving
    exact ⟨exec_teamAdmission ho hgs hmoving, (groupsFor_spec hgs).1, fun j g hj l hl => startTeam_thread hgs hj hl⟩
  case scan =>
    intro c op s team o hteam ho habort hdone hrun
    exact ⟨exec_pedigreeScan_end hteam ho habort hdone hrun, fun x rest hscan =>
      ⟨exec_pedigreeScan_poison hteam ho habort hdone hrun hscan,
        exec_pedigreeScan_fold hteam ho habort hdone hrun hscan⟩⟩
  case completion =>
    intro c op s o ho
    refine ⟨fun st scale => exec_opCompletion_executed ho, fun st scale p hst hparent hlock => ?_, fun team hst hteam => ?_⟩
    · have hexec := exec_opCompletion_nested ho hst hparent hlock
      refine ⟨fun hnone hrescale => ?_, fun hcause => ?_⟩
      · exact hexec.trans (congrArg _ (if_pos ⟨hnone, hrescale⟩))
      · exact hexec.trans (congrArg _ (completeNested_ok hcause))
    · obtain rfl := id_of_op? ho
      have hexec := exec_opCompletion_team ho hst hteam
      refine ⟨fun habort hdone hscan => ?_, fun habort hstopped hnested => ?_⟩
      · exact hexec.trans (congrArg _ (completeTeam_done habort hdone hscan))
      · exact hexec.trans (congrArg _ (completeTeam_aborted habort hstopped hnested))
  case arrival =>
    intro s c op n w lane slot th hth hlane hslot
    refine ⟨fun i hteam hawaits => ⟨nestedArrive_waiting hth hslot hteam hawaits, ?_⟩, nestedArrive_other hth⟩
    obtain ⟨p, hp⟩ := awaitsOp_pend hawaits
    obtain ⟨m, harrive, hmarked⟩ := arriveStatus_spec (w := w) hp
    exact ⟨m, harrive, fun p' hp' => Option.some.inj (hp.symm.trans hp') ▸ hmarked⟩
  case status => exact fun s t th regs => ⟨readStatus_unmarked, readStatus_marked⟩
  case abort =>
    intro k team o ho
    obtain ⟨hgone, hthreads, hop⟩ := finishAbort_spec ho
    refine ⟨hgone, fun lane slot th hth => ?_, fun lane slot th hth hteam => ?_, hop⟩
    · rw [hthreads, Option.filter_eq_some_iff] at hth
      simpa using hth.2
    · rw [hthreads, Option.filter_eq_some_iff]
      exact ⟨hth, by simpa using hteam⟩
  case watchdog =>
    intro c op s team x hteam hx hcount hstop
    have hover : (s.core c).overdue s.now team = true :=
      overdue_iff.mpr ⟨hcount, fun haborting => (op_of_team? hteam).symm ▸ hstop haborting⟩
    have hexec := (exec_watchdog c op s).trans (congrArg _ (watchdog_overdue hteam hx hover))
    refine ⟨settleThreads_none, _, expiry s c team x, hexec, ?_, rfl, rfl, rfl, ?_,
      fun lane slot th _ _ hth hop => ?_, fun lane slot th _ _ hth hop => ?_⟩
    · rw [State.core_updCore_same]
      rfl
    · rw [State.core_updCore_same, haltTeam_teams]
    · rw [State.thread, State.core_updCore_same]
      exact haltTeam_thread hth hop _
    · rw [State.thread, State.core_updCore_same]
      exact (haltTeam_other (fun th' hth' => by rwa [← Option.some.inj (hth.symm.trans hth')]) _).trans hth
  case overdue =>
    intro s c team hnodup u hmem hlive
    exact notOverdue_foldl s.overdue hnodup (notOverdue_or_mem s) c team.op team hmem rfl hlive
  case delivery => exact fun c s f => exec_faultDelivery

end Sys2Proof
end

section
/-! O19: the update of the loss-scale state (R184). -/

namespace Sys2Proof
open Machine

section lossScale
variable {d : W64}

/-- The fields of a loss-scale state (R184): E, CNT, EMIN, EMAX and GI, of which E, EMIN and EMAX are signed. -/
def lossE (d : W64) : Int := (d.extractLsb' 56 8).toInt
def lossCnt (d : W64) : Nat := (d.extractLsb' 32 24).toNat
def lossEmin (d : W64) : Int := (d.extractLsb' 24 8).toInt
def lossEmax (d : W64) : Int := (d.extractLsb' 16 8).toInt
def lossGi (d : W64) : Nat := (d.extractLsb' 0 16).toNat

/-- A state with new E and CNT over the kept low half. -/
def lossWord (d : W64) (e : Int) (cnt : Nat) : W64 := BitVec.ofInt 8 e ++ BitVec.ofNat 24 cnt ++ d.extractLsb' 0 32

/-- The count after one more clean step, which stops at the largest. -/
def lossCount (d : W64) : Nat := Nat.min (lossCnt d + 1) (2 ^ 24 - 1)

theorem lsUpdate_illegal {overflow : Bool} (h : lossEmax d < lossEmin d) : lsUpdate d overflow = none := if_pos h

theorem lsUpdate_overflow (h : lossEmin d ≤ lossEmax d) : lsUpdate d true =
    if lossE d ≤ lossEmin d then some (lossWord d (lossEmin d) 0, tflLsfloor, true)
    else some (lossWord d (lossE d - 1) 0, 0, false) :=
  (if_neg (not_lt.mpr h)).trans (if_pos rfl)

theorem lsUpdate_clean (h : lossEmin d ≤ lossEmax d) : lsUpdate d false =
    if lossGi d ≠ 0 ∧ lossGi d ≤ lossCount d then
      if lossEmax d ≤ lossE d then some (lossWord d (lossEmax d) 0, tflLsceil, false)
      else some (lossWord d (lossE d + 1) 0, 0, false)
    else some (lossWord d (lossE d) (lossCount d), 0, false) :=
  (if_neg (not_lt.mpr h)).trans (if_neg Bool.false_ne_true)

end lossScale

section lsupd
variable {x : TLsupd} {s : State}

/-- The register and the flags are written, and the PC goes to the next word. -/
def lossDone (x : TLsupd) (v fl : W64) (s : State) : State := s.updSeq s.cur fun q => { q with
  s := q.s.set x.d.val v, tflags := q.tflags ||| fl, pc := q.pc + 8, afterSafe := false }

theorem exec_lsupd_illegal (hd : s.curCore.seq.pendingSK (.s x.d) = false)
    (hv : lsUpdate s.curCore.seq.s[x.d.val] (s.curCore.seq.pred x.p) = none) :
    exec (.lsupd x) s = .next (tileFault s.cur .illegalOperand 0 s) := by
  show execLsupd x s = _
  simp only [execLsupd, hd, hv, Bool.false_eq_true, if_false]

theorem exec_lsupd_done {v fl : W64} {floor : Bool} (hd : s.curCore.seq.pendingSK (.s x.d) = false)
    (hv : lsUpdate s.curCore.seq.s[x.d.val] (s.curCore.seq.pred x.p) = some (v, fl, floor))
    (hfloor : (floor && s.curCore.seq.trapen) = false) : exec (.lsupd x) s = .next (lossDone x v fl s) := by
  show execLsupd x s = _
  simp only [execLsupd, hd, hv, hfloor, Bool.false_eq_true, if_false]
  rfl

/-- Where the floor is hit and TRAPEN says so, the LSFLOOR trap is taken from the updated state. -/
theorem exec_lsupd_trap {v fl : W64} (hd : s.curCore.seq.pendingSK (.s x.d) = false)
    (hv : lsUpdate s.curCore.seq.s[x.d.val] (s.curCore.seq.pred x.p) = some (v, fl, true))
    (htrap : s.curCore.seq.trapen = true) : let pc := s.curCore.seq.pc + 8
    exec (.lsupd x) s =
      .next (takeTrap s.cur { kind := .lsfloor, cause := .lsfloor, epc := pc, resume := pc } (lossDone x v fl s)) := by
  show execLsupd x s = _
  simp only [execLsupd, hd, hv, htrap, Bool.and_true, Bool.false_eq_true, if_false, if_true]
  rfl

end lsupd

/-- Settles O19: the word that `lsUpdate` answers in each branch of R184's pseudocode, and what LSUPD makes of it. -/
theorem lossScaleUpdate : Obligations.LossScaleUpdate := by
  intro x s q d e cnt emin emax gi done n hd
  have clean (h : emin ≤ emax) (hp : q.pred x.p = false) := (congrArg (lsUpdate d) hp).trans (lsUpdate_clean h)
  have overflow (h : emin ≤ emax) (hp : q.pred x.p = true) := (congrArg (lsUpdate d) hp).trans (lsUpdate_overflow h)
  refine ⟨fun h => ?_, fun h hp he => ?_, fun h hp he ht => ?_, fun h hp he ht => ?_, fun h hp hgi => ?_,
    fun h hp hgi hn he => ?_, fun h hp hgi hn he => ?_⟩
  · exact exec_lsupd_illegal hd (lsUpdate_illegal h)
  · exact exec_lsupd_done hd ((overflow h hp).trans (if_neg (not_le.mpr he))) rfl
  · exact exec_lsupd_done hd ((overflow h hp).trans (if_pos he)) ht
  · exact exec_lsupd_trap hd ((overflow h hp).trans (if_pos he)) ht
  · refine exec_lsupd_done hd ((clean h hp).trans (if_neg ?_)) rfl
    rintro ⟨hne, hle⟩
    exact hgi.elim hne (not_lt.mpr hle)
  · exact exec_lsupd_done hd ((clean h hp).trans ((if_pos ⟨hgi, hn⟩).trans (if_neg (not_le.mpr he)))) rfl
  · exact exec_lsupd_done hd ((clean h hp).trans ((if_pos ⟨hgi, hn⟩).trans (if_pos he))) rfl

end Sys2Proof
end

section
/-! O25: pedigree requests at issue (R178 to R183). -/

namespace Sys2Proof
open Machine

section index
variable {s : State} {c : CoreNo} {i : W64}

theorem pedOk_eq_false (h : i = 0 ∨ s.pedlimit c ≤ i.toNat) : s.pedOk c i = false := by
  rw [State.pedOk, Bool.and_eq_false_iff, bne_eq_false_iff_eq, decide_eq_false_iff_not, not_lt]
  exact h

theorem pedOk_eq_true (hne : i ≠ 0) (hlt : i.toNat < s.pedlimit c) : s.pedOk c i = true := by
  rw [State.pedOk, Bool.and_eq_true, bne_iff_ne, decide_eq_true_eq]
  exact ⟨hne, hlt⟩

end index

/-- The format codes of R42 are 0 to 9. -/
theorem ofCode_isNone (b : BitVec 4) : (Fmt.ofCode b).isNone = decide (9 < b.toNat) := by
  revert b
  decide

theorem pedSend_eq (s : State) (c : CoreNo) (r : PedReq) : s.pedSend c r = s.updCore c fun k =>
    { k with ped := k.ped ++ [r], seq := { k.seq with pc := k.seq.pc + 8, afterSafe := false } } := rfl

/-! ### Closes and resets (R179, R182) -/

section close
variable {a : SKL} {mk : Nat → PedReq} {s : State} (ha : s.curCore.seq.pendingSKL a = false)
include ha

theorem pedClose_illegal (hi : s.pedOk s.cur (a.val s.curCore.seq) = false) :
    pedClose a mk s = .next (tileFault s.cur .illegalOperand 0 s) := by
  simp only [pedClose, ha, hi, Bool.false_eq_true, if_false, if_true]

theorem pedClose_sends (hi : s.pedOk s.cur (a.val s.curCore.seq) = true)
    (hopen : (a.val s.curCore.seq).toNat ∉ s.openCloses s.cur) (hroom : (s.openCloses s.cur).length < 16) :
    let i := (a.val s.curCore.seq).toNat
    pedClose a mk s =
      .next (((s.release s.cur .seq .device).performAll s.cur fun p => p.pidx == i).pedSend s.cur (mk i)) := by
  have hgo : ((s.openCloses s.cur).contains (a.val s.curCore.seq).toNat || decide (16 ≤ (s.openCloses s.cur).length)) =
      false := by simp [hopen, hroom]
  simp only [pedClose, ha, hi, hgo, Bool.false_eq_true, Bool.true_eq_false, if_false]

theorem pedClose_waits (hi : s.pedOk s.cur (a.val s.curCore.seq) = true)
    (hfull : (a.val s.curCore.seq).toNat ∈ s.openCloses s.cur ∨ 16 ≤ (s.openCloses s.cur).length) :
    pedClose a mk s = .next s := by
  have hwait : ((s.openCloses s.cur).contains (a.val s.curCore.seq).toNat || decide (16 ≤ (s.openCloses s.cur).length)) =
      true := by simpa using hfull
  simp only [pedClose, ha, hi, hwait, Bool.false_eq_true, Bool.true_eq_false, if_false, if_true]

end close

/-! ### Reads (R181) -/

section read
variable {x : TAlu2} {fieldOk : W64 → Bool} {mk : Nat → Nat → SK → PedReq} {s : State}

theorem pedRead_illegal (hready : Ready2 x s) (h : s.pedOk s.cur (x.a.val s.curCore.seq) = false ∨
    fieldOk (x.b.val s.curCore.seq) = false) :
    pedRead x fieldOk mk s = .next (tileFault s.cur .illegalOperand 0 s) := by
  obtain ⟨ha, hb, hd⟩ := hready
  simp only [pedRead, ha, hb, hd, Bool.or_false, Bool.false_eq_true, if_false]
  exact if_pos (by simpa using h)

theorem pedRead_sends (hready : Ready2 x s) (hi : s.pedOk s.cur (x.a.val s.curCore.seq) = true)
    (hfield : fieldOk (x.b.val s.curCore.seq) = true)
    (hopen : (x.a.val s.curCore.seq).toNat ∉ s.openCloses s.cur) :
    pedRead x fieldOk mk s = .next (s.updCore s.cur fun k => { k with
      ped := k.ped ++ [mk (x.a.val s.curCore.seq).toNat (x.b.val s.curCore.seq).toNat x.d],
      seq := { k.seq with pend := k.seq.pend ++ [⟨x.d, none, 0, none⟩], pc := k.seq.pc + 8, afterSafe := false } }) := by
  obtain ⟨ha, hb, hd⟩ := hready
  have hclosed : (s.openCloses s.cur).contains (x.a.val s.curCore.seq).toNat = false := by simpa using hopen
  simp only [pedRead, ha, hb, hd, hi, hfield, hclosed, Bool.or_false, decide_false, Bool.false_eq_true, Bool.true_eq_false,
    if_false]
  rw [pedSend_eq, State.updSeq, updCore_updCore]

end read

/-! ### Settings (R183) -/

section sett
variable {x : TPsett} {s : State} (ha : s.curCore.seq.pendingSKL x.a = false) (hb : s.curCore.seq.pendingSKL x.b = false)
include ha hb

theorem execPsett_illegal (h : s.pedOk s.cur (x.a.val s.curCore.seq) = false ∨
    (x.f = 2 ∧ 9 < ((x.b.val s.curCore.seq).extractLsb' 0 4).toNat)) :
    execPsett x s = .next (tileFault s.cur .illegalOperand 0 s) := by
  simp only [execPsett, ha, hb, Bool.or_false, Bool.false_eq_true, if_false, ofCode_isNone]
  exact if_pos (by simpa using h)

/-- What is asked of a PSETT that passes: it waits for an open close of its index, else it is sent. -/
theorem execPsett_passed (hi : s.pedOk s.cur (x.a.val s.curCore.seq) = true)
    (hfmt : x.f = 2 → ((x.b.val s.curCore.seq).extractLsb' 0 4).toNat ≤ 9) :
    let i := (x.a.val s.curCore.seq).toNat
    execPsett x s = if i ∈ s.openCloses s.cur then .next s
      else .next (s.pedSend s.cur (.sett i x.f (x.b.val s.curCore.seq))) := by
  have hpass : ¬ (decide (s.pedOk s.cur (x.a.val s.curCore.seq) = false) ||
      x.f == 2 && decide (9 < ((x.b.val s.curCore.seq).extractLsb' 0 4).toNat)) = true := by simpa [hi] using hfmt
  simp only [execPsett, ha, hb, Bool.or_false, Bool.false_eq_true, if_false, ofCode_isNone, List.contains_iff_mem]
  exact if_neg hpass

end sett

/-- Settles O25: one lemma for each way a request of R178 to R183 goes at issue. -/
theorem pedigreeRequestsIssue : Obligations.PedigreeRequestsIssue := by
  refine ⟨fun a s ha => ⟨fun hi => ?_, fun hne hlt hopen hroom => ?_, fun hne hlt hfull => ?_⟩, ?_,
    fun x s ha hb => ⟨fun h => ?_, fun hne hlt hfmt => ?_⟩⟩
  · exact ⟨pedClose_illegal ha (pedOk_eq_false hi), pedClose_illegal ha (pedOk_eq_false hi)⟩
  · have hi := pedOk_eq_true hne hlt
    exact ⟨pedClose_sends ha hi hopen hroom, pedClose_sends ha hi hopen hroom⟩
  · have hi := pedOk_eq_true hne hlt
    exact ⟨pedClose_waits ha hi hfull, pedClose_waits ha hi hfull⟩
  · intro n x fieldOk r s q i b hn hready
    obtain ⟨mk, hexec, rfl⟩ : ∃ mk, exec n s = pedRead x fieldOk mk s ∧ r = mk i.toNat b.toNat x.d := by
      obtain ⟨rfl, rfl, rfl⟩ | ⟨rfl, rfl, rfl⟩ | ⟨rfl, rfl, rfl⟩ := hn <;> exact ⟨_, rfl, rfl⟩
    rw [hexec]
    refine ⟨fun h => pedRead_illegal hready ?_, fun hne hlt hfield hopen =>
      pedRead_sends hready (pedOk_eq_true hne hlt) hfield hopen⟩
    rw [← or_assoc] at h
    exact h.imp_left pedOk_eq_false
  · rw [← or_assoc] at h
    exact execPsett_illegal ha hb (h.imp_left pedOk_eq_false)
  · have hexec := execPsett_passed ha hb (pedOk_eq_true hne hlt) hfmt
    exact ⟨fun hopen => hexec.trans (if_pos hopen), fun hopen => hexec.trans (if_neg hopen)⟩

end Sys2Proof
end

section
/-! O21: Retriever commands at issue (R162, R163). -/

namespace Sys2Proof
open Machine

/-! ### The checks of R163, one after another -/

section checks
variable {c : CoreNo} {m : Cmd} {o : CmdOperands} {s : State}

/-- The tiles of a command have descriptors that their consumer accepts. -/
def CmdTilesOk (o : CmdOperands) (s : State) : Prop := ∀ t ∈ o.tiles, (Desc.of t).ok (s.pedlimit s.cur) false = true

/-- They lie in the Kennel, and the rules of shape hold. -/
def CmdShaped (o : CmdOperands) (s : State) : Prop :=
  CmdTilesOk o s ∧ (∀ t ∈ o.tiles, (Desc.of t).space = spaceKennel) ∧ o.shapeOk = true

/-- The Kennel addresses of a command are aligned. -/
def CmdAligned (m : Cmd) (o : CmdOperands) (s : State) : Prop :=
  CmdShaped o s ∧ (∀ a, o.klist = some a → a.1.toNat % a.2.1 = 0) ∧ (m.dev = false → m.bar.toNat % 16 = 0)

/-- They lie in the Kennel with all their bytes. -/
def CmdInside (m : Cmd) (o : CmdOperands) (s : State) : Prop :=
  CmdAligned m o s ∧ (∀ a, o.klist = some a → a.1.toNat + a.2.2 ≤ 0x100000) ∧
    (m.dev = false → m.bar.toNat + 16 ≤ 0x100000)

/-- The device virtual addresses of a command are below 2^52. -/
def CmdReached (m : Cmd) (o : CmdOperands) (s : State) : Prop :=
  CmdInside m o s ∧ (∀ a ∈ o.devs, a.toNat < 2 ^ 52) ∧ (m.dev = true → m.bar.toNat < 2 ^ 52)

/-- The Kennel addresses of a command in the order of their checks: its list, its barrier. -/
def cmdKennel (m : Cmd) (o : CmdOperands) : List (W64 × Nat × Nat) :=
  o.klist.toList ++ if m.dev then [] else [(m.bar, 16, 16)]

/-- The device virtual addresses of a command in the order of their checks. -/
def cmdDevice (m : Cmd) (o : CmdOperands) : List W64 := o.devs ++ if m.dev then [m.bar] else []

theorem find?_cmdKennel_list {p : W64 × Nat × Nat → Bool} {a : W64 × Nat × Nat}
    (ha : o.klist = some a) (hp : p a = true) :
    (cmdKennel m o).find? p = some a := by
  simp [cmdKennel, ha, hp]

theorem find?_cmdKennel_bar {p : W64 × Nat × Nat → Bool}
    (hlist : ∀ a, o.klist = some a → p a = false) (hdev : m.dev = false)
    (hp : p (m.bar, 16, 16) = true) : (cmdKennel m o).find? p = some (m.bar, 16, 16) := by
  have hnone : o.klist.toList.find? p = none := by simpa using hlist
  simp [cmdKennel, hdev, hp, hnone]

theorem find?_cmdKennel_none {p : W64 × Nat × Nat → Bool} (hlist : ∀ a, o.klist = some a → p a = false)
    (hbar : m.dev = false → p (m.bar, 16, 16) = false) : (cmdKennel m o).find? p = none := by
  have hnone : o.klist.toList.find? p = none := by simpa using hlist
  cases hdev : m.dev
  · simp [cmdKennel, hdev, hbar hdev, hnone]
  · simp [cmdKennel, hdev, hnone]

theorem find?_cmdDevice_bar {p : W64 → Bool} (hdevs : ∀ a ∈ o.devs, p a = false) (hdev : m.dev = true)
    (hp : p m.bar = true) : (cmdDevice m o).find? p = some m.bar := by
  have hnone : o.devs.find? p = none := by simpa using hdevs
  simp [cmdDevice, hdev, hp, hnone]

theorem find?_cmdDevice_none {p : W64 → Bool} (hdevs : ∀ a ∈ o.devs, p a = false)
    (hbar : m.dev = true → p m.bar = false) : (cmdDevice m o).find? p = none := by
  have hnone : o.devs.find? p = none := by simpa using hdevs
  cases hdev : m.dev
  · simp [cmdDevice, hdev, hnone]
  · simp [cmdDevice, hdev, hbar hdev, hnone]

theorem high_eq_false {a : W64} (h : a.toNat < 2 ^ 52) : (a.extractLsb' 52 12 != 0) = false :=
  bne_eq_false_iff_eq.mpr ((extract_high_eq_zero_iff a).mpr h)

theorem high_eq_true {a : W64} (h : 2 ^ 52 ≤ a.toNat) : (a.extractLsb' 52 12 != 0) = true :=
  bne_iff_ne.mpr fun h0 => absurd ((extract_high_eq_zero_iff a).mp h0) (not_lt.mpr h)

end checks

section cmdCheck
variable {m : Cmd} {o : CmdOperands} {s : State}

theorem cmdCheck_badDesc (h : ¬ CmdTilesOk o s) : cmdCheck s.cur m o s = some (tileFault s.cur .badDesc 0 s) := by
  refine if_pos ?_
  simpa [CmdTilesOk] using h

theorem cmdCheck_illegal (htiles : CmdTilesOk o s) (h : ¬ CmdShaped o s) :
    cmdCheck s.cur m o s = some (tileFault s.cur .illegalOperand 0 s) := by
  refine (if_neg ?_).trans (if_pos ?_)
  · simpa [CmdTilesOk] using htiles
  · by_cases hspace : ∀ t ∈ o.tiles, (Desc.of t).space = spaceKennel
    · have hshape : o.shapeOk = false := Bool.eq_false_iff.mpr fun hok => h ⟨htiles, hspace, hok⟩
      simp [hshape]
    · have hout : ∃ t ∈ o.tiles, (Desc.of t).space ≠ spaceKennel := by simpa using hspace
      simp [hout]

/-- The check of the list that a command reads at issue. -/
def cmdListCheck (o : CmdOperands) (s : State) : Option State :=
  match o.klist with
  | some a =>
    if s.curCore.locked false a.1.toNat a.2.2 false then some (lockTrap s.cur a.1 s)
    else if s.curCore.kpoisoned a.1.toNat a.2.2 then some (tileFault s.cur .memoryError a.1 s)
    else none
  | none => none

/-- The checks of R163 on addresses, in their order. -/
def cmdAddressCheck (m : Cmd) (o : CmdOperands) (s : State) : Option State :=
  match (cmdKennel m o).find? fun a => a.1.toNat % a.2.1 != 0 with
  | some a => some (tileFault s.cur .align a.1 s)
  | none =>
    match (cmdKennel m o).find? fun a => decide (kennelSize < a.1.toNat + a.2.2) with
    | some a => some (tileFault s.cur .kennelRange a.1 s)
    | none =>
      match (cmdDevice m o).find? fun a => a.extractLsb' 52 12 != 0 with
      | some a => some (tileFault s.cur .badAddr a s)
      | none =>
        if m.dev && m.bar.toNat % 16 != 0 then some (tileFault s.cur .badBarrier m.bar s) else cmdListCheck o s

theorem cmdCheck_of_shaped (h : CmdShaped o s) : cmdCheck s.cur m o s = cmdAddressCheck m o s := by
  obtain ⟨htiles, hspace, hshape⟩ := h
  refine (if_neg ?_).trans (if_neg ?_)
  · simpa [CmdTilesOk] using htiles
  · simpa [hshape] using hspace

theorem cmdAddressCheck_misaligned {a : W64 × Nat × Nat}
    (hf : ((cmdKennel m o).find? fun a => a.1.toNat % a.2.1 != 0) = some a) :
    cmdAddressCheck m o s = some (tileFault s.cur .align a.1 s) := by
  simp only [cmdAddressCheck, hf]

theorem find?_misaligned (h : CmdAligned m o s) : ((cmdKennel m o).find? fun a => a.1.toNat % a.2.1 != 0) = none := by
  obtain ⟨-, hlist, hbar⟩ := h
  exact find?_cmdKennel_none (fun a ha => by simpa using hlist a ha) fun hdev => by simpa using hbar hdev

theorem cmdAddressCheck_beyond {a : W64 × Nat × Nat} (h : CmdAligned m o s)
    (hf : ((cmdKennel m o).find? fun a => decide (kennelSize < a.1.toNat + a.2.2)) = some a) :
    cmdAddressCheck m o s = some (tileFault s.cur .kennelRange a.1 s) := by
  simp only [cmdAddressCheck, find?_misaligned h, hf]

theorem find?_beyond (h : CmdInside m o s) :
    ((cmdKennel m o).find? fun a => decide (kennelSize < a.1.toNat + a.2.2)) = none := by
  obtain ⟨-, hlist, hbar⟩ := h
  exact find?_cmdKennel_none (fun a ha => decide_eq_false (not_lt.mpr (hlist a ha))) fun hdev =>
    decide_eq_false (not_lt.mpr (hbar hdev))

theorem cmdAddressCheck_high {a : W64} (h : CmdInside m o s)
    (hf : ((cmdDevice m o).find? fun a => a.extractLsb' 52 12 != 0) = some a) :
    cmdAddressCheck m o s = some (tileFault s.cur .badAddr a s) := by
  simp only [cmdAddressCheck, find?_misaligned h.1, find?_beyond h, hf]

theorem find?_high (h : CmdReached m o s) : ((cmdDevice m o).find? fun a => a.extractLsb' 52 12 != 0) = none := by
  obtain ⟨-, hdevs, hbar⟩ := h
  exact find?_cmdDevice_none (fun a ha => high_eq_false (hdevs a ha)) fun hdev => high_eq_false (hbar hdev)

theorem cmdAddressCheck_badBarrier (h : CmdReached m o s) (hdev : m.dev = true) (hbar : m.bar.toNat % 16 ≠ 0) :
    cmdAddressCheck m o s = some (tileFault s.cur .badBarrier m.bar s) := by
  simp only [cmdAddressCheck, find?_misaligned h.1.1, find?_beyond h.1, find?_high h]
  exact if_pos (by simp [hdev, hbar])

theorem cmdAddressCheck_reached (h : CmdReached m o s) (hbar : m.bar.toNat % 16 = 0) :
    cmdAddressCheck m o s = cmdListCheck o s := by
  simp only [cmdAddressCheck, find?_misaligned h.1.1, find?_beyond h.1, find?_high h]
  exact if_neg (by simp [hbar])

end cmdCheck

/-! ### Issue -/

section issue
variable {waits : Bool} {regs : List RegNo} {m : Cmd} {o : CmdOperands} {s : State}

/-- Nothing that the command names is still to be written, and its queue has room. -/
def CmdFree (waits : Bool) (regs : List RegNo) (m : Cmd) (s : State) : Prop :=
  waits = false ∧ (∀ r ∈ regs, s.curCore.tilePending r = false) ∧ s.curCore.retCount m.q < 24

theorem issueCmd_traps {t : State} (h : CmdFree waits regs m s) (hcheck : cmdCheck s.cur m o s = some t) :
    issueCmd waits regs m o s = .next t := by
  obtain ⟨hwaits, hregs, hroom⟩ := h
  have hgo : (waits || regs.any s.curCore.tilePending || decide (24 ≤ s.curCore.retCount m.q)) = false := by
    simpa [hwaits, hroom] using hregs
  simp only [issueCmd, hgo, hcheck, Bool.false_eq_true, if_false]

theorem issueCmd_captures (h : CmdFree waits regs m s) (hcheck : cmdCheck s.cur m o s = none) :
    issueCmd waits regs m o s = .next ((s.release s.cur .seq .core).updCore s.cur fun k => k.captureCmd m) := by
  obtain ⟨hwaits, hregs, hroom⟩ := h
  have hgo : (waits || regs.any s.curCore.tilePending || decide (24 ≤ s.curCore.retCount m.q)) = false := by
    simpa [hwaits, hroom] using hregs
  simp only [issueCmd, hgo, hcheck, Bool.false_eq_true, if_false]

theorem cmdTraps_of_issueCmd {i : Instr} (he : exec i s = issueCmd waits regs m o s) (h : CmdFree waits regs m s) :
    CmdTraps i m o s := by
  have traps {t : State} (hcheck : cmdCheck s.cur m o s = some t) : exec i s = .next t := he.trans (issueCmd_traps h hcheck)
  have trapsAt {t : State} (hs : CmdShaped o s) (hcheck : cmdAddressCheck m o s = some t) : exec i s = .next t :=
    traps ((cmdCheck_of_shaped hs).trans hcheck)
  unfold CmdTraps
  intro k gives tilesOk shaped aligned inside reached
  refine ⟨fun htiles => ?_, fun htiles hs => ?_, fun a hs ha hne => ?_, fun hs hlist hdev hne => ?_,
    fun a hal ha hlt => ?_, fun hal hlist hdev hlt => ?_, fun a hin ha hle => ?_, fun hin hdevs hdev hle => ?_,
    fun hre hdev hne => ?_, fun a hre hbar ha => ?_⟩
  · exact traps (cmdCheck_badDesc htiles)
  · exact traps (cmdCheck_illegal htiles hs)
  · exact trapsAt hs (cmdAddressCheck_misaligned (find?_cmdKennel_list ha (bne_iff_ne.mpr hne)))
  · exact trapsAt hs (cmdAddressCheck_misaligned (a := (m.bar, 16, 16))
      (find?_cmdKennel_bar (fun a ha => bne_eq_false_iff_eq.mpr (hlist a ha)) hdev (bne_iff_ne.mpr hne)))
  · exact trapsAt hal.1 (cmdAddressCheck_beyond hal (find?_cmdKennel_list ha (decide_eq_true hlt)))
  · exact trapsAt hal.1 (cmdAddressCheck_beyond (a := (m.bar, 16, 16)) hal
      (find?_cmdKennel_bar (fun a ha => decide_eq_false (not_lt.mpr (hlist a ha))) hdev (decide_eq_true hlt)))
  · refine trapsAt hin.1.1 (cmdAddressCheck_high hin ?_)
    rw [cmdDevice, ha]
    exact List.find?_cons_of_pos (high_eq_true hle)
  · exact trapsAt hin.1.1 (cmdAddressCheck_high hin
      (find?_cmdDevice_bar (fun a ha => high_eq_false (hdevs a ha)) hdev (high_eq_true hle)))
  · exact trapsAt hre.1.1.1 (cmdAddressCheck_badBarrier hre hdev hne)
  · have hlist := cmdAddressCheck_reached hre hbar
    refine ⟨fun hlock => trapsAt hre.1.1.1 (hlist.trans ?_), fun hlock hpoison => trapsAt hre.1.1.1 (hlist.trans ?_)⟩
    · simp only [cmdListCheck, ha, k, hlock, if_true]
    · simp only [cmdListCheck, ha, k, hlock, hpoison, Bool.false_eq_true, if_false, if_true]

theorem cmdCheck_of_can (h : CmdCan m o s) : cmdCheck s.cur m o s = none := by
  obtain ⟨htiles, hshape, hlist, hbar, hrange, hdevs⟩ := h
  have hshaped : CmdShaped o s := ⟨fun t ht => (htiles t ht).1, fun t ht => (htiles t ht).2, hshape⟩
  have hreached : CmdReached m o s :=
    ⟨⟨⟨hshaped, fun a ha => (hlist a ha).1, fun _ => hbar⟩, fun a ha => (hlist a ha).2.1,
      fun hdev => by simpa [hdev] using hrange⟩,
      hdevs, fun hdev => by simpa [hdev] using hrange⟩
  rw [cmdCheck_of_shaped hshaped, cmdAddressCheck_reached hreached hbar]
  cases ha : o.klist with
  | none => simp only [cmdListCheck, ha]
  | some a =>
    obtain ⟨-, -, hlock, hpoison⟩ := hlist a ha
    simp only [cmdListCheck, ha, hlock, hpoison, Bool.false_eq_true, if_false]

/-- The command that its capture leaves in the core: a release moves nothing that it captures but the floor. -/
theorem captureCmd_release (m : Cmd) (s : State) : let u := s.release s.cur .seq .core
    let n : Cmd := { m with id := s.curCore.nextId, pc := s.curCore.seq.pc, floor := u.curCore.issueFloor .seq,
                            replay := s.curCore.replaying }
    u.updCore s.cur (fun k => k.captureCmd m) = u.updCore s.cur fun k => { k with
      cmds := k.cmds ++ [n], nextId := k.nextId + 1, locks := k.locks ++ cmdLocks n,
      retq := k.retq.set m.q.toNat ((k.retq[m.q.toNat]'m.q.isLt) ++ [.cmd n.id]) m.q.isLt,
      seq := { k.seq with pc := k.seq.pc + 8, afterSafe := false } } := by
  intro u n
  have hrel : bareState u = bareState s := bareState_release _ _ _ _
  have hid : (u.core s.cur).nextId = s.curCore.nextId := coreField_eq hrel s.cur _ fun _ => rfl
  have hpc : (u.core s.cur).seq.pc = s.curCore.seq.pc := seqField_eq hrel s.cur _ fun _ => rfl
  have hreplay : (u.core s.cur).replaying = s.curCore.replaying := coreField_eq hrel s.cur _ fun _ => rfl
  have hcore : u.curCore = u.core s.cur := by rw [State.curCore, cur_of_bare hrel]
  refine updCore_congr u ?_
  simp only [Core.captureCmd, n, dif_pos m.q.isLt, hid, hpc, hreplay, hcore, advance_one]

theorem captures_of_issueCmd {i : Instr} (he : exec i s = issueCmd waits regs m o s) : Captures i waits regs m o s := by
  intro hwaits hregs hroom
  have hfree : CmdFree waits regs m s := ⟨hwaits, hregs, hroom⟩
  refine ⟨cmdTraps_of_issueCmd he hfree, fun hcan => ?_⟩
  rw [he, issueCmd_captures hfree (cmdCheck_of_can hcan), captureCmd_release]

end issue

/-- Settles O21: the nine commands issue by `issueCmd`, whose checks are those of R163. -/
theorem retrieverCommandsIssue : Obligations.RetrieverCommandsIssue := by
  refine ⟨fun x s => ?_, fun x s => ?_, fun x s => ?_, fun x s => ?_, fun x s => ?_, fun x s => ?_,
    fun i kind x s hi => ?_, fun x s => ?_⟩
  case refine_7 =>
    refine captures_of_issueCmd ?_
    obtain ⟨rfl, rfl⟩ | ⟨rfl, rfl⟩ := hi <;> rfl
  all_goals exact captures_of_issueCmd rfl

end Sys2Proof
end

section
/-! O37: lane control, lane barriers, streams, decision records and nested issue (R173, R217 to R219, R231, R244, R246,
R248, R254). -/

namespace Sys2Proof
open Machine

/-! ### Transfers (R87, R217) -/

theorem laneGoto_ok {target : W64} {r : LaneRes} {s : State} (h : target.toNat % 8 = 0 ∧ target.toNat < 2 ^ 52) :
    laneGoto target r s = .ok s { r with goto := some target } := if_pos ((laneTargetOk_iff target).mpr h)

/-! ### The return from a lane trap (R254) -/

section retTr
variable {x : LNone} {l : LaneIn} {s : State}

/-- A field of the frame in the thread's slot. -/
def frameField (l : LaneIn) (s : State) (a n : Nat) : Nat :=
  ofBytes ((s.core l.t.c).mem.pread (2048 * l.t.lane + 0x700 + 64 * l.t.slot + a) n)

theorem frameField_resume (l : LaneIn) (s : State) :
    frameField l s 0 8 = ofBytes ((s.core l.t.c).mem.pread (2048 * l.t.lane + 0x700 + 64 * l.t.slot) 8) := by
  rw [frameField, Nat.add_zero]

/-- `v0` to `v3` come back from the frame: FULL where it says so. -/
def restoreFrame (l : LaneIn) (s : State) (th : Thread) : Thread := (List.range 4).foldl (fun th r =>
  if frameField l s 0x25 1 / 2 ^ r % 2 = 1 then th.put r (BitVec.ofNat 32 (frameField l s (0x28 + 4 * r) 4))
    else th.drop r) th

theorem laneRetTr_eq (x : LNone) (l : LaneIn) (s : State) : laneRetTr x l s =
    let resume : W64 := BitVec.ofNat 64 (frameField l s 0 8)
    if (s.core l.t.c).framePoisoned l.t.lane l.t.slot then
      .fault s .memoryError (BitVec.ofNat 64 (0x700 + 64 * l.t.slot)) 0
    else if laneTargetOk resume then .ok (s.onThread l.t (restoreFrame l s)) { goto := some resume }
    else .fault s .badTarget resume 0 := by
  have hrestore : restoreFrame l s = fun th => (List.range 4).foldl (fun th r =>
      if frameField l s 0x25 1 / 2 ^ r % 2 = 1 then th.put r (BitVec.ofNat 32 (frameField l s (0x28 + 4 * r) 4))
      else th.drop r) th := rfl
  simp only [laneRetTr, hrestore, frameField, frameAddr, Nat.add_zero, ← Nat.add_assoc]

/-- RESUME as a word, and the rule of R87 for it. -/
theorem resume_toNat (l : LaneIn) (s : State) :
    (BitVec.ofNat 64 (frameField l s 0 8) : W64).toNat = frameField l s 0 8 := by
  have hlt := ofBytes_lt ((s.core l.t.c).mem.pread (2048 * l.t.lane + 0x700 + 64 * l.t.slot) 8)
  rw [← frameField_resume, CoreMem.pread, CoreMem.bytes, List.length_map, List.length_range] at hlt
  exact (BitVec.toNat_ofNat _ _).trans (Nat.mod_eq_of_lt hlt)

theorem laneRetTr_poisoned (h : (s.core l.t.c).framePoisoned l.t.lane l.t.slot = true) :
    laneRetTr x l s = .fault s .memoryError (BitVec.ofNat 64 (0x700 + 64 * l.t.slot)) 0 :=
  (laneRetTr_eq x l s).trans (if_pos h)

theorem laneRetTr_ok (h : (s.core l.t.c).framePoisoned l.t.lane l.t.slot = false)
    (hresume : frameField l s 0 8 % 8 = 0 ∧ frameField l s 0 8 < 2 ^ 52) : laneRetTr x l s =
      .ok (s.onThread l.t (restoreFrame l s)) { goto := some (BitVec.ofNat 64 (frameField l s 0 8)) } := by
  rw [← resume_toNat, ← laneTargetOk_iff] at hresume
  exact (laneRetTr_eq x l s).trans ((if_neg (Bool.eq_false_iff.mp h)).trans (if_pos hresume))

theorem laneRetTr_bad (h : (s.core l.t.c).framePoisoned l.t.lane l.t.slot = false)
    (hresume : frameField l s 0 8 % 8 ≠ 0 ∨ 2 ^ 52 ≤ frameField l s 0 8) :
    laneRetTr x l s = .fault s .badTarget (BitVec.ofNat 64 (frameField l s 0 8)) 0 := by
  have hbad : ¬ laneTargetOk (BitVec.ofNat 64 (frameField l s 0 8)) = true := by
    rw [laneTargetOk_iff, resume_toNat]
    omega
  exact (laneRetTr_eq x l s).trans ((if_neg (Bool.eq_false_iff.mp h)).trans (if_neg hbad))

end retTr

/-! ### Barriers (R173, R231) -/

section barrier
variable {dev write : Bool} {l : LaneIn} {s : State}

/-- The address of a lane barrier. -/
def laneBarAddr (dev : Bool) (l : LaneIn) : W64 := if dev then wide l.a else l.a0.zeroExtend 64

/-- Where a barrier at an aligned address lies, or the check of R173 that fails. -/
def laneBarPlace (dev : Bool) (l : LaneIn) (write : Bool) (s : State) : Except LaneOut BarPlace :=
  if dev = false then
    if kennelSize < (laneBarAddr dev l).toNat + 16 then .error (.fault s .kennelRange (laneBarAddr dev l) 0)
    else if (s.core l.t.c).locked false (laneBarAddr dev l).toNat 16 write then .error (.lock s (laneBarAddr dev l))
    else .ok (.kennel l.t.c (laneBarAddr dev l).toNat)
  else if (laneBarAddr dev l).extractLsb' 52 12 ≠ 0 then .error (.fault s .badAddr (laneBarAddr dev l) 0)
  else
    match laneXlate l (laneBarAddr dev l) .atomic s with
    | .wait t => .error (.hold t)
    | .fail cause => .error (.fault s cause (laneBarAddr dev l) 0)
    | .ok p => .ok (.device p)

theorem laneBarrier_misaligned (h : (laneBarAddr dev l).toNat % 16 ≠ 0) :
    laneBarrier dev l write s = .error (.fault s .badBarrier (laneBarAddr dev l) 0) := if_pos h

section aligned
variable (halign : (laneBarAddr dev l).toNat % 16 = 0)
include halign

theorem laneBarrier_eq_bind : laneBarrier dev l write s = (laneBarPlace dev l write s).bind fun pl =>
    if s.barPoisoned pl = true then .error (.fault s .memoryError (laneBarAddr dev l) 0)
    else .ok (laneBarAddr dev l, pl) := by
  refine (if_neg (not_not.mpr halign)).trans ?_
  show (match laneBarPlace dev l write s with
    | Except.error e => Except.error e
    | Except.ok pl => if s.barPoisoned pl then Except.error (.fault s .memoryError (laneBarAddr dev l) 0)
      else Except.ok (laneBarAddr dev l, pl)) = _
  cases laneBarPlace dev l write s <;> rfl

theorem laneBarrier_refused {o : LaneOut} (h : laneBarPlace dev l write s = .error o) :
    laneBarrier dev l write s = .error o := by
  rw [laneBarrier_eq_bind halign, h]
  rfl

theorem laneBarrier_placed {pl : BarPlace} (h : laneBarPlace dev l write s = .ok pl) :
    laneBarrier dev l write s = if s.barPoisoned pl = true then .error (.fault s .memoryError (laneBarAddr dev l) 0)
      else .ok (laneBarAddr dev l, pl) := by
  rw [laneBarrier_eq_bind halign, h]
  rfl

end aligned

theorem laneBarPlace_beyond (h : 0x100000 < (laneBarAddr false l).toNat + 16) :
    laneBarPlace false l write s = .error (.fault s .kennelRange (laneBarAddr false l) 0) := by
  rw [laneBarPlace, if_pos rfl]
  exact if_pos h

theorem laneBarPlace_inside (h : (laneBarAddr false l).toNat + 16 ≤ 0x100000) : laneBarPlace false l write s =
    if (s.core l.t.c).locked false (laneBarAddr false l).toNat 16 write = true then .error (.lock s (laneBarAddr false l))
    else .ok (.kennel l.t.c (laneBarAddr false l).toNat) := by
  rw [laneBarPlace, if_pos rfl]
  exact if_neg (not_lt.mpr h)

theorem laneBarPlace_high (h : 2 ^ 52 ≤ (laneBarAddr true l).toNat) :
    laneBarPlace true l write s = .error (.fault s .badAddr (laneBarAddr true l) 0) := by
  rw [laneBarPlace, if_neg (by decide), if_pos (bne_iff_ne.mp (high_eq_true h))]

theorem laneBarPlace_device {p : Phys} (h : (laneBarAddr true l).toNat < 2 ^ 52)
    (hat : LaneAt l (laneBarAddr true l) .atomic p s) : laneBarPlace true l write s = .ok (.device p) := by
  rw [laneBarPlace, if_neg (by decide), if_neg (not_not.mpr ((extract_high_eq_zero_iff _).mpr h)), laneXlate_of_at hat]

/-- Past its checks a barrier is poisoned or found at its place. -/
theorem laneBarrier_found {pl : BarPlace} (halign : (laneBarAddr dev l).toNat % 16 = 0)
    (hkennel : dev = false → (laneBarAddr dev l).toNat + 16 ≤ 0x100000 ∧
      (s.core l.t.c).locked false (laneBarAddr dev l).toNat 16 write = false ∧ pl = .kennel l.t.c (laneBarAddr dev l).toNat)
    (hdevice : dev = true → (laneBarAddr dev l).toNat < 2 ^ 52 ∧
      ∃ p, LaneAt l (laneBarAddr dev l) .atomic p s ∧ pl = .device p) :
    laneBarrier dev l write s = if s.barPoisoned pl = true then .error (.fault s .memoryError (laneBarAddr dev l) 0)
      else .ok (laneBarAddr dev l, pl) := by
  refine laneBarrier_placed halign ?_
  cases dev with
  | false =>
    obtain ⟨hle, hlock, rfl⟩ := hkennel rfl
    exact (laneBarPlace_inside hle).trans (if_neg (Bool.eq_false_iff.mp hlock))
  | true =>
    obtain ⟨hlt, p, hat, rfl⟩ := hdevice rfl
    exact laneBarPlace_device hlt hat

section barv
variable {x : LBarv} {a : W64} {pl : BarPlace} (hbar : laneBarrier x.dev l true s = .ok (a, pl))
include hbar

theorem laneBarvF_ok : let u := (s.release l.t.c l.t.agent (barScope x.dev)).barSettle l.t.c l.t.agent pl
    ((u.bar pl).update 1 0).isSome = true →
    laneBarvF x l s =
      .ok (u.setBar l.t.c.val (s.core l.t.c).ctx (laneReplay l s) (((u.bar pl).update 1 0).getD (u.bar pl)) pl)
      (out1 x.vd (u.bar pl).phase) := by
  intro u hsome
  obtain ⟨b, hb⟩ := Option.isSome_iff_exists.mp hsome
  have hupdate : u.barUpdate l.t.c.val (s.core l.t.c).ctx (laneReplay l s) pl 1 0 =
      some ((u.bar pl).phase, u.setBar l.t.c.val (s.core l.t.c).ctx (laneReplay l s) b pl) := by
    simp only [State.barUpdate, hb]
  simp only [laneBarvF, hbar, show (s.release l.t.c l.t.agent (barScope x.dev)).barSettle l.t.c l.t.agent pl = u from rfl,
    hupdate, hb, Option.getD_some]

theorem laneBarvF_refused : let u := (s.release l.t.c l.t.agent (barScope x.dev)).barSettle l.t.c l.t.agent pl
    (u.bar pl).update 1 0 = none → laneBarvF x l s = .fault s .badBarrier a 0 := by
  intro u hnone
  have hupdate : u.barUpdate l.t.c.val (s.core l.t.c).ctx (laneReplay l s) pl 1 0 = none := by
    simp only [State.barUpdate, hnone]
  simp only [laneBarvF, hbar, show (s.release l.t.c l.t.agent (barScope x.dev)).barSettle l.t.c l.t.agent pl = u from rfl,
    hupdate]

end barv
end barrier

/-! ### Streams (R244) -/

theorem laneStream_ok {f : Nat → Stream → State → LaneOut} {l : LaneIn} {s : State} {st : Stream}
    (h : (headerCore l s).streamCheck l.a0.toNat none = .ok st) :
    laneStream f l s = f l.a0.toNat st (s.atBank l.t.c l.t.agent l.a0.toNat 32) := by
  rw [headerCore] at h
  simp only [laneStream, h]

/-- The word of QCNT: DONE over the low 31 bits of the count. -/
theorem countWord_eq (st : Stream) : (BitVec.ofBool st.done ++ BitVec.ofNat 31 st.count : W32) =
    BitVec.ofNat 32 ((if st.done then 2 ^ 31 else 0) + (st.tail + 2 ^ 32 - st.head) % 2 ^ 31) := by
  have hcount : st.count % 2 ^ 31 = (st.tail + 2 ^ 32 - st.head) % 2 ^ 31 := by
    rw [Stream.count, Nat.mod_mod_of_dvd _ (by decide)]
  refine BitVec.eq_of_toNat_eq ?_
  rw [BitVec.toNat_append, ← Nat.shiftLeft_add_eq_or_of_lt (BitVec.isLt _), BitVec.toNat_ofNat, BitVec.toNat_ofNat, hcount,
    BitVec.toNat_ofBool, Nat.shiftLeft_eq]
  have hlt := Nat.mod_lt (st.tail + 2 ^ 32 - st.head) (show 0 < 2 ^ 31 by decide)
  cases st.done <;> simp only [Bool.toNat_false, Bool.toNat_true, Bool.false_eq_true, if_true, if_false] <;> omega

/-! ### Decision records (R246) -/

theorem laneDqpop_none {x : LDqpop} {l : LaneIn} {s : State}
    (h : nextDq (s.core l.t.c).dq l.team.dtag l.th.lastDq = none) :
    laneDqpop x l s = .ok s { preds := [(x.pb, false)] } := by
  simp only [laneDqpop, h]

/-! ### Nested issue (R248) -/

/-- The op that a nested issue in state `u`, past its release, queues. -/
def nestedOp (t : TRef) (team : Team) (e : BindEntry) (r : IssueRec) (block : Nat) (u : State) : Op :=
  { id := (u.core t.c).nextId, rcd := r, entry := e, dtag := team.dtag, q := queueOf e, st := .queued,
    parent := some team.op, block := block, folded := [], held := false, floor := (u.core t.c).issueFloor t.agent,
    replay := match (u.core t.c).op? team.op with
      | some o => o.replay
      | none => false }

theorem issueNested_eq (t : TRef) (team : Team) (e : BindEntry) (r : IssueRec) (block : Nat) (s : State) :
    let u := s.release t.c t.agent .core
    let n := nestedOp t team e r block u
    issueNested t team e r block s =
      (n.id, u.updCore t.c fun k => { k with ops := k.ops ++ [n], nextId := k.nextId + 1 }) := rfl

/-- A release hands out no op numbers. -/
theorem nestedOp_id (t : TRef) (team : Team) (e : BindEntry) (r : IssueRec) (block : Nat) (s : State)
    (c : CoreNo) (a : Agent)
    (sc : Scope) : (nestedOp t team e r block (s.release c a sc)).id = (s.core t.c).nextId :=
  coreField_eq (bareState_release s c a sc) t.c Core.nextId fun _ => rfl

theorem laneLtop_ok {x : LR1} {l : LaneIn} {e : BindEntry} {r : IssueRec} {s : State}
    (h : nestedCheck s l.t l.team (l.a0.zeroExtend 64) none = .ok e r) (hroom : (s.core l.t.c).queued (queueOf e) < 8) :
    laneLtop x l s = .ok (issueNested l.t l.team e r l.a0.toNat s).2
      { late := some (x.vd, 1, .nested (s.core l.t.c).nextId) } := by
  have hid : (issueNested l.t l.team e r l.a0.toNat s).1 = (s.core l.t.c).nextId :=
    nestedOp_id l.t l.team e r l.a0.toNat s _ _ _
  simp only [laneLtop, h, if_neg (not_le.mpr hroom), toNat_zeroExtend_64, hid]

/-- Settles O37: what each meaning answers in a ready thread, by the lemmas above. -/
theorem laneControlStreamsNested : Obligations.LaneControlStreamsNested := by
  refine ⟨fun i target link hi => ?_, fun x => ?_, fun x r => ?_, fun x => ?_, fun x => ?_, fun x => ?_, fun x => ?_,
    fun x a pl => ?_, fun x a pl => ?_, fun dev write i s => ?_, fun x st => ?_, fun x st => ?_, fun x => ?_,
    fun x n => ?_, fun x e r => ?_, fun x cause a => ?_, fun t team e r block s => ?_⟩
  · obtain ⟨x, rfl, rfl, rfl⟩ | ⟨x, rfl, rfl, rfl⟩ | ⟨x, rfl | rfl, rfl, rfl⟩ := hi
    · exact laneDoes_of (f := laneBra x) (fun _ => rfl) fun l s h => laneGoto_ok h
    · exact laneDoes_of (f := laneCallF x) (fun _ => rfl) fun l s h => laneGoto_ok h
    · exact laneDoes_of (f := laneBrx x) (fun _ => rfl) fun l s h => laneGoto_ok h
    · exact laneDoes_of (f := laneRetF x) (fun _ => rfl) fun l s h => laneGoto_ok h
  · refine laneDoes_of (f := laneRetTr x) (fun _ => rfl) ?_
    rintro l s ⟨hpoison, hresume⟩
    rw [← frameField_resume] at hresume
    exact laneRetTr_ok hpoison hresume
  · refine laneFaults_of (f := laneRetTr x) (fun _ => rfl) ?_
    rintro l s ⟨hpoison, hr, hbad⟩
    rw [hr, ← frameField_resume] at hbad
    rw [hr, ← frameField_resume]
    exact laneRetTr_bad hpoison hbad
  · exact laneFaults_of (f := laneRetTr x) (fun _ => rfl) fun l s hpoison => laneRetTr_poisoned hpoison
  · exact laneDoes_of (f := laneExit x) (fun _ => rfl) fun l s _ => rfl
  · exact laneDoes_of (f := laneYield x) (fun _ => rfl) fun l s _ => rfl
  · exact laneDoes_of (f := laneNopF x) (fun _ => rfl) fun l s _ => rfl
  · exact laneDoes_of (f := laneBarvF x) (fun _ => rfl) fun l s ⟨hbar, hsome⟩ => laneBarvF_ok hbar hsome
  · exact laneFaults_of (f := laneBarvF x) (fun _ => rfl) fun l s ⟨hbar, hnone⟩ => laneBarvF_refused hbar hnone
  · refine ⟨laneBarrier_misaligned, ?_, ?_, ?_, fun pl => laneBarrier_found⟩
    · rintro halign rfl h
      exact laneBarrier_refused halign (laneBarPlace_beyond h)
    · rintro halign rfl h hlock
      exact laneBarrier_refused halign ((laneBarPlace_inside h).trans (if_pos hlock))
    · rintro halign rfl h
      exact laneBarrier_refused halign (laneBarPlace_high h)
  · refine laneDoes_of (f := laneQcnt x) (fun _ => rfl) fun l s h => (laneStream_ok h).trans ?_
    rw [countWord_eq]
  · exact laneDoes_of (f := laneQend x) (fun _ => rfl) fun l s h => laneStream_ok h
  · exact laneDoes_of (f := laneDqpop x) (fun _ => rfl) fun l s h => laneDqpop_none h
  · refine laneDoes_of (f := laneDqpop x) (fun _ => rfl) fun l s h => ?_
    simp only [laneDqpop, h]
  · exact laneDoes_of (f := laneLtop x) (fun _ => rfl) fun l s ⟨hok, hroom⟩ => laneLtop_ok hok hroom
  · exact laneFaults_of (f := laneLtop x) (fun _ => rfl) fun l s h => laneLtop_of_fault h
  · exact ⟨nestedOp t team e r block _, nestedOp_id _ _ _ _ _ _ _ _ _, rfl, rfl, rfl, rfl, rfl, rfl, rfl, rfl, rfl,
      issueNested_eq t team e r block s⟩

end Sys2Proof
end

section
/-! Retriever commands: how a landing counts, ends its command or fails it (R164, R170, R171): what O50 needs. -/

namespace Sys2Proof
open Machine

/-! ### The commands of a core -/

theorem cmd?_updCmd (k : Core) (id : Nat) {f : Cmd → Cmd} (hf : ∀ m, (f m).id = m.id) :
    (k.updCmd id f).cmd? id = (k.cmd? id).map f := by
  have hids : ((fun m : Cmd => m.id == id) ∘ fun m => if m.id = id then f m else m) = fun m => m.id == id := by
    funext m
    simp only [Function.comp_apply]
    split_ifs
    · rw [hf]
    · rfl
  simp only [Core.cmd?, Core.updCmd, List.find?_map, hids]
  refine Option.map_congr fun m hm => if_pos ?_
  simpa using List.find?_some hm

theorem cmd?_dropCmd (k : Core) (id : Nat) : (k.dropCmd id).cmd? id = none := by
  rw [Core.cmd?, List.find?_eq_none]
  intro m hm
  have hne : m.id ≠ id := by simpa using (List.mem_filter.mp hm).2
  simpa using hne

theorem core_dropFlow (s : State) (c d : CoreNo) (id : Nat) : (s.dropFlow c id).core d = s.core d := rfl

/-- No flow carries a command that has ended. -/
theorem job_dropFlow (s : State) (c : CoreNo) (id : Nat) :
    ∀ f ∈ (s.dropFlow c id).ytt.flows, f.job ≠ some (.cmd c id) := by
  intro f hf
  obtain ⟨g, -, rfl⟩ := List.mem_map.mp hf
  split_ifs with h
  · exact nofun
  · exact h

/-! ### Landings that count -/

/-- The command once pieces `ps`, of `size` bytes together, have landed; `bad` says that a peer did not run the context. -/
def cmdSettled (ps : List Nat) (size : Nat) (bad : Bool) (m : Cmd) : Cmd :=
  { m with landed := m.landed ++ ps, sub := m.sub + size, peerBad := m.peerBad || bad, park := .none }

section settle
variable {c : CoreNo} {id : Nat} {ps : List Nat} {size : Nat} {bad : Bool} {s : State} {m : Cmd}
  (hm : (s.core c).cmd? id = some m)
include hm

theorem settleCmd_eq : settleCmd c id ps size bad s =
    let u := s.updCore c fun k => k.updCmd id (cmdSettled ps size bad)
    let m' := cmdSettled ps size bad m
    if m'.pieces.all m'.hasLanded then
      if m'.peerBad then failCmd c m' .mcastPeer 0 u else (u.updCore c fun k => k.dropCmd id).dropFlow c id
    else u := by
  have hfound : ((s.updCore c fun k => k.updCmd id (cmdSettled ps size bad)).core c).cmd? id =
      some (cmdSettled ps size bad m) := by
    rw [State.core_updCore_same, cmd?_updCmd (f := cmdSettled ps size bad) _ _ fun _ => rfl, hm]
    rfl
  have hfold : (fun m : Cmd => { m with
      landed := m.landed ++ ps, sub := m.sub + size, peerBad := m.peerBad || bad, park := .none }) =
    cmdSettled ps size bad := rfl
  simp only [settleCmd, hfold, hfound]

theorem settleCmd_counts (h : ∃ i ∈ (cmdSettled ps size bad m).pieces, (cmdSettled ps size bad m).hasLanded i = false) :
    settleCmd c id ps size bad s = s.updCore c fun k => k.updCmd id (cmdSettled ps size bad) :=
  (settleCmd_eq hm).trans (if_neg (by simpa using h))

theorem settleCmd_peer (h : ∀ i ∈ (cmdSettled ps size bad m).pieces, (cmdSettled ps size bad m).hasLanded i = true)
    (hbad : (cmdSettled ps size bad m).peerBad = true) : settleCmd c id ps size bad s =
      failCmd c (cmdSettled ps size bad m) .mcastPeer 0 (s.updCore c fun k => k.updCmd id (cmdSettled ps size bad)) :=
  (settleCmd_eq hm).trans ((if_pos (List.all_eq_true.mpr h)).trans (if_pos hbad))

/-- The last piece ends the command: it leaves the core with its locks and its flow. -/
theorem settleCmd_ends (h : ∀ i ∈ (cmdSettled ps size bad m).pieces, (cmdSettled ps size bad m).hasLanded i = true)
    (hgood : (cmdSettled ps size bad m).peerBad = false) : let t := settleCmd c id ps size bad s
    (t.core c).cmd? id = none ∧ (t.core c).locks = (s.core c).locks.filter (fun l => l.cmd != id) ∧ t.dev = s.dev ∧
      ∀ f ∈ t.ytt.flows, f.job ≠ some (.cmd c id) := by
  intro t
  have ht : t = ((s.updCore c fun k => k.updCmd id (cmdSettled ps size bad)).updCore c fun k =>
      k.dropCmd id).dropFlow c id :=
    (settleCmd_eq hm).trans ((if_pos (List.all_eq_true.mpr h)).trans (if_neg (Bool.eq_false_iff.mp hgood)))
  have hcore : t.core c = ((s.core c).updCmd id (cmdSettled ps size bad)).dropCmd id := by
    rw [ht, core_dropFlow, State.core_updCore_same, State.core_updCore_same]
  refine ⟨?_, ?_, ?_, ?_⟩
  · rw [hcore, cmd?_dropCmd]
  · rw [hcore]
    rfl
  · rw [ht]
    rfl
  · rw [ht]
    exact job_dropFlow _ _ _

end settle

section subtract
variable {c : CoreNo} {m : Cmd} {pl : BarPlace} {ps : List Nat} {size : Nat} {s : State}

theorem subtractLanding_poisoned (h : s.barPoisoned pl = true) :
    subtractLanding c m pl ps size s = failCmd c m .memoryError m.bar s := if_pos h

theorem subtractLanding_updated {r : W32 × State} (h : s.barPoisoned pl = false)
    (hr : s.barUpdate c.val (s.core c).ctx m.replay pl 0 (-(size : Int)) = some r) :
    subtractLanding c m pl ps size s = settleCmd c m.id ps size false r.2 := by
  simp only [subtractLanding, h, hr, Bool.false_eq_true, if_false]

theorem subtractLanding_refused (h : s.barPoisoned pl = false)
    (hr : s.barUpdate c.val (s.core c).ctx m.replay pl 0 (-(size : Int)) = none) :
    subtractLanding c m pl ps size s = failCmd c m .badBarrier m.bar s := by
  simp only [subtractLanding, h, hr, Bool.false_eq_true, if_false]

end subtract

/-! ### Failures (R170) -/

/-- The command holds its status, and its locks and its flow are gone. -/
def cmdFailed (c : CoreNo) (m : Cmd) (st : OpStatus) (u : State) : State := (u.updCore c fun k =>
  ({ k with locks := k.locks.filter fun l => l.cmd != m.id }).updCmd m.id fun x =>
    { x with st := .failed st, park := .none }).dropFlow c m.id

section fail
variable {c : CoreNo} {m : Cmd} {cause : Cause} {addr : W64} {s : State}

theorem failCmd_of_addBack {b : Bool} {u : State} (hpark : m.park = .none) (hback : s.addBack c m = (b, u)) :
    let st : OpStatus := { cause := if b then cause else .badBarrier, addr := if b then addr else m.bar,
                           detail := if b then 0 else cause.code.zeroExtend 64 }
    failCmd c m cause addr s = cmdFailed c m st u := by
  simp only [failCmd, hback, hpark]
  rfl

variable (hkind : m.kind ≠ .mcast) (hdev : m.dev = false) (hsub : m.sub ≠ 0)
include hkind hdev hsub

theorem addBack_updated {r : W32 × State} (h : (s.core c).kpoisoned m.bar.toNat 16 = false)
    (hr : s.barUpdate c.val (s.core c).ctx m.replay (.kennel c m.bar.toNat) 0 m.sub = some r) :
    s.addBack c m = (true, r.2) := by
  have hpoison : s.barPoisoned (.kennel c m.bar.toNat) = false := h
  simp only [State.addBack, if_neg hkind, if_neg hsub, State.cmdBar, hdev, hpoison, hr, Bool.false_eq_true, if_false]

theorem addBack_lost (h : (s.core c).kpoisoned m.bar.toNat 16 = true ∨
    s.barUpdate c.val (s.core c).ctx m.replay (.kennel c m.bar.toNat) 0 m.sub = none) : s.addBack c m = (false, s) := by
  simp only [State.addBack, if_neg hkind, if_neg hsub, State.cmdBar, hdev, Bool.false_eq_true, if_false]
  by_cases hpoison : s.barPoisoned (.kennel c m.bar.toNat) = true
  · exact if_pos hpoison
  · refine (if_neg hpoison).trans ?_
    rw [h.resolve_left hpoison]

end fail

end Sys2Proof
end

section
/-! A piece that lands byte by byte from Kennel to Kennel (R257, R269, R270): what O50 needs. -/

namespace Sys2Proof
open Machine

/-! ### Bytes written one by one -/

theorem kread_kwrite_byte {k : Core} (h : CoreMem.wf k.mem = true) (a x : Nat) (v : Byte) :
    (k.kwrite a [v]).kread x 1 = if x = a then [v] else k.kread x 1 := by
  simp only [CoreMem.wf, Bool.and_eq_true] at h
  obtain ⟨⟨hkennel, -⟩, -⟩ := h
  have hread := memRead_memPutN hkennel a [v] x
  have hhole : (k.mem.kput a [v]).hole x = (!(decide (a ≤ x) && decide (x < a + 1)) && k.mem.hole x) :=
    hole_fillHoles a 1 x k.mem.holes
  have hiff : (a ≤ x ∧ x < a + [v].length) ↔ x = a := by
    rw [List.length_singleton]
    omega
  have hbool : (decide (a ≤ x) && decide (x < a + 1)) = decide (x = a) := by
    rw [← Bool.decide_and, decide_eq_decide]
    omega
  rw [if_congr hiff rfl rfl] at hread
  rw [hbool] at hhole
  rw [Core.kread, Core.kread, kread_one, kread_one, byteIn_eq, byteIn_eq]
  simp only [Bool.false_eq_true, if_false, Nat.zero_add]
  rw [show (k.kwrite a [v]).mem.hole x = _ from hhole, show memRead (k.kwrite a [v]).mem.kennel x = _ from hread]
  by_cases hx : x = a
  · simp [hx]
  · simp only [hx, decide_false, Bool.not_false, Bool.true_and, if_false]
    rfl

section writes
variable {c : CoreNo} {b : Nat} {w : Nat → Byte}

/-- Bytes `js` of a destination at `b`, written one after another. -/
def writeBytes (c : CoreNo) (b : Nat) (w : Nat → Byte) (js : List Nat) (s : State) : State :=
  js.foldl (fun s j => s.kwrite c (b + j) [w j]) s

theorem core_kwrite_same (s : State) (c : CoreNo) (a : Nat) (bs : List Byte) :
    (s.kwrite c a bs).core c = (s.core c).kwrite a bs := State.core_updCore_same _ _ _

/-- A byte after them. -/
theorem kread_writeBytes (js : List Nat) {s : State} (h : CoreMem.wf (s.core c).mem = true) (x : Nat) :
    (∀ j ∈ js, x = b + j → ((writeBytes c b w js s).core c).kread x 1 = [w j]) ∧
      ((∀ j ∈ js, x ≠ b + j) → ((writeBytes c b w js s).core c).kread x 1 = (s.core c).kread x 1) := by
  induction js generalizing s with
  | nil => exact ⟨nofun, fun _ => rfl⟩
  | cons i js ih =>
    have hbyte := kread_kwrite_byte h (b + i) x (w i)
    have hwf : CoreMem.wf ((s.kwrite c (b + i) [w i]).core c).mem = true := by
      rw [core_kwrite_same]
      exact kput_wf h _ _
    obtain ⟨hin, hout⟩ := ih hwf
    rw [core_kwrite_same, hbyte] at hout
    refine ⟨fun j hj hx => ?_, fun hne => ?_⟩
    · by_cases hlater : j ∈ js
      · exact hin j hlater hx
      · obtain rfl : j = i := (List.mem_cons.mp hj).resolve_right hlater
        refine (hout fun j' hj' hx' => hlater ?_).trans (if_pos hx)
        rwa [show j = j' by omega]
    · exact (hout fun j hj => hne j (List.mem_cons_of_mem _ hj)).trans (if_neg (hne i List.mem_cons_self))

end writes

/-! ### Bytes read one by one -/

/-- What a read of some bytes, of values `f`, makes of one byte of an access. -/
def stepByte (n : Nat) (f : Nat → Byte) (x : Option Byte × Nat) : Option Byte :=
  match x.1 with
  | some b => some b
  | none => if n = 0 ∨ n.testBit x.2 then some (f x.2) else none

/-- Reads that leave the state alone. -/
theorem byteSteps_of_pure {act : Nat → State → Byte × State} {f : Nat → Byte} {s : State}
    (hact : ∀ i, act i s = (f i, s))
    (n : Nat) (part : List (Option Byte)) : byteSteps n part act s = (part.zipIdx.map (stepByte n f), s) := by
  have hgo (xs : List (Option Byte × Nat)) (acc : List (Option Byte)) : xs.foldl (fun acc x =>
      match x.1 with
      | some b => (acc.1 ++ [some b], acc.2)
      | none =>
        if n = 0 ∨ n.testBit x.2 then
          let r := act x.2 acc.2
          (acc.1 ++ [some r.1], r.2)
        else (acc.1 ++ [none], acc.2)) (acc, s) = (acc ++ xs.map (stepByte n f), s) := by
    induction xs generalizing acc with
    | nil => simp
    | cons x xs ih =>
      obtain ⟨x, i⟩ := x
      cases x with
      | some b => simp [ih, stepByte]
      | none =>
        by_cases hi : n = 0 ∨ n.testBit i = true
        · simp [hi, hact, ih, stepByte]
        · simp [hi, ih, stepByte]
  exact hgo _ _

/-- Where all the rest is read, each byte is the one read before or the one read now. -/
theorem getD_stepByte_zero (f : Nat → Byte) (part : List (Option Byte)) {j : Nat} (hj : j < part.length) :
    (((part.zipIdx.map (stepByte 0 f)).getD j none).getD 0) = (part.getD j none).getD (f j) := by
  simp only [List.getD_eq_getElem?_getD, List.getElem?_map, List.getElem?_zipIdx, List.getElem?_eq_getElem hj,
    Option.map_some,
    Option.getD_some, Nat.zero_add]
  cases part[j] <;> simp [stepByte]

/-! ### One step of a piece -/

section step
variable {m : Cmd} {piece len n : Nat} {read : Nat → State → Byte × State} {write : Nat → Byte → State → State}
  {c : CoreNo} {s : State}

/-- The step reads some of the bytes that are still to be read, and writes none. -/
def landReading (m : Cmd) (piece len n : Nat) : Bool :=
  n != 0 && n % 2 == 0 && (m.landingOf piece len).got.any Option.isNone

/-- The bytes that the step writes. -/
def landNow (m : Cmd) (piece len n : Nat) : List Nat :=
  if landReading m piece len n then []
  else (m.landingOf piece len).left.filter fun i => n == 0 || (n / 2).testBit i

theorem landNow_of_reading (h : landReading m piece len n = true) : landNow m piece len n = [] := if_pos h

theorem mem_landNow (h : landReading m piece len n = false) {j : Nat} : j ∈ landNow m piece len n ↔
    j ∈ (m.landingOf piece len).left ∧ (n == 0 || (n / 2).testBit j) = true := by
  rw [landNow, if_neg (Bool.eq_false_iff.mp h), List.mem_filter]

/-- Bytes are left to write: the piece has not landed. -/
theorem landSome_unfinished {j : Nat} (hj : j ∈ (m.landingOf piece len).left) (hlate : j ∉ landNow m piece len n) :
    (landSome c m piece len n read write s).1 = none := by
  refine if_neg ?_
  rw [List.isEmpty_iff, List.filter_eq_nil_iff, not_forall]
  refine ⟨j, fun hall => hall hj ?_⟩
  have hnow : (landNow m piece len n).contains j = false := by simpa using hlate
  show (!(landNow m piece len n).contains j) = true
  rw [hnow]
  rfl

/-- The core after the step, but for the command's record of the piece. -/
theorem kread_landSome (x : Nat) :
    let got := byteSteps (if landReading m piece len n then n / 2 else 0) (m.landingOf piece len).got read s
    ((landSome c m piece len n read write s).2.core c).kread x 1 =
      (((landNow m piece len n).foldl (fun s i => write i ((got.1.getD i none).getD 0) s) got.2).core c).kread x 1 :=
  by
  intro got
  exact core_updCore_keeps (fun k => k.kread x 1) _ c _ rfl c

end step

section kennel
variable {c : CoreNo} {m : Cmd} {i n a b len : Nat} {landed : State → State} {s : State}

/-- The step of a piece from Kennel to Kennel of one core. -/
def kennelStep (c : CoreNo) (m : Cmd) (i n a b len : Nat) (s : State) : Option (List Byte) × State :=
  landSome c m i len n (readByte c m (.kennel a len) []) (writeByte c (.kennel b len) []) s

theorem landPartly_poisoned (hopen : (m.landingOf i len).got.any Option.isNone = true)
    (hpoison : (s.core c).kpoisoned a len = true) :
    landPartly c c m i n (.kennel a len) (.kennel b len) [] [] landed s =
      failCmd c m .memoryError (BitVec.ofNat 64 a) s :=
  if_pos (by
    rw [Bool.and_eq_true]
    exact ⟨hopen, hpoison⟩)

theorem landPartly_unfinished (hclean : ¬ ((m.landingOf i len).got.any Option.isNone = true ∧
    (s.core c).kpoisoned a len = true)) (hleft : (kennelStep c m i n a b len s).1 = none) :
    landPartly c c m i n (.kennel a len) (.kennel b len) [] [] landed s = (kennelStep c m i n a b len s).2 := by
  have hgo : ((m.landingOf i len).got.any Option.isNone && sidePoisoned c (.kennel a len) [] s) = false := by
    rw [Bool.eq_false_iff, ne_eq, Bool.and_eq_true]
    exact hclean
  rw [kennelStep] at hleft ⊢
  simp only [landPartly, Side.len, hgo, hleft, Bool.false_eq_true, if_false]

/-- The byte of the source that a read of byte `j` gives. -/
def sourceByte (s : State) (c : CoreNo) (a j : Nat) : Byte := ((s.core c).kread (a + j) 1).headD 0

/-- What the step makes of a byte of the core's Kennel. -/
theorem kread_kennelStep (x : Nat) :
    let got := (m.landingOf i len).got.zipIdx.map (stepByte (if landReading m i len n then n / 2 else 0) (sourceByte s c a))
    ((kennelStep c m i n a b len s).2.core c).kread x 1 =
      ((writeBytes c b (fun j => (got.getD j none).getD 0) (landNow m i len n) s).core c).kread x 1 := by
  intro got
  have hkread := kread_landSome (m := m) (piece := i) (len := len) (n := n) (c := c) (s := s)
    (read := readByte c m (.kennel a len) []) (write := writeByte c (.kennel b len) []) x
  rw [byteSteps_of_pure (act := readByte c m (.kennel a len) []) (f := sourceByte s c a) fun _ => rfl] at hkread
  exact hkread

/-- A step that reads some bytes moves no byte of the Kennel. -/
theorem kread_kennelStep_reading (h : landReading m i len n = true) (x : Nat) :
    ((kennelStep c m i n a b len s).2.core c).kread x 1 = (s.core c).kread x 1 := by
  rw [kread_kennelStep, landNow_of_reading h]
  rfl

/-- A step that writes makes each byte it writes the one read before, or else the source's. -/
theorem kread_kennelStep_writing (hwf : CoreMem.wf (s.core c).mem = true) (h : landReading m i len n = false)
    (hleft : ∀ j ∈ (m.landingOf i len).left, j < (m.landingOf i len).got.length) (x : Nat) :
    (∀ j ∈ landNow m i len n, x = b + j → ((kennelStep c m i n a b len s).2.core c).kread x 1 =
      [((m.landingOf i len).got.getD j none).getD (sourceByte s c a j)]) ∧
    ((∀ j ∈ landNow m i len n, x ≠ b + j) →
      ((kennelStep c m i n a b len s).2.core c).kread x 1 = (s.core c).kread x 1) := by
  rw [kread_kennelStep, h]
  obtain ⟨hin, hout⟩ := kread_writeBytes (c := c) (b := b) (w := fun j => (((m.landingOf i len).got.zipIdx.map
    (stepByte 0 (sourceByte s c a))).getD j none).getD 0) (landNow m i len n) hwf x
  refine ⟨fun j hj hx => (hin j hj hx).trans ?_, hout⟩
  rw [getD_stepByte_zero _ _ (hleft j ((mem_landNow h).mp hj).1)]

end kennel

end Sys2Proof
end

section
/-! O50: the start of Retriever commands, and how each kind of piece lands (R162, R164 to R169, R172). -/

namespace Sys2Proof
open Machine

/-! ### The start (R162, R172) -/

section start
variable {c : CoreNo} {q : BitVec 2} {s : State}

/-- The head of a queue is gone. -/
def popQueue (q : BitVec 2) (rest : List RetEntry) (k : Core) : Core :=
  { k with retq := if h : q.toNat < 4 then k.retq.set q.toNat rest else k.retq }

/-- What the start of a command that runs now does. -/
def startCmd (c : CoreNo) (m : Cmd) (u : State) : State :=
  match m.kind with
  | .pull => startPull c m u
  | .push => startPush c m u
  | .cpyIn | .cpyOut | .cpyKk | .gth | .sct | .pft | .mcast => u

theorem startCmd_of_other {m : Cmd} (hpull : m.kind ≠ .pull) (hpush : m.kind ≠ .push) (u : State) :
    startCmd c m u = u := by
  unfold startCmd
  split
  next h => exact absurd h hpull
  next h => exact absurd h hpush
  all_goals rfl

theorem exec_retrieverCommandStart_cmd {id : Nat} {rest : List RetEntry} {m : Cmd} (hmoving : (s.core c).moving = true)
    (hq : (s.core c).retq.toList.getD q.toNat [] = .cmd id :: rest) :
    let u := s.updCore c fun k => (popQueue q rest k).updCmd id fun m => { m with st := .running }
    (u.core c).cmd? id = some m → exec (.retrieverCommandStart c q) s = .next (startCmd c m u) := by
  intro u hm
  have hm' : ((s.updCore c fun k => (popQueue q rest k).updCmd id fun m => { m with st := .running }).core c).cmd? id =
    some m := hm
  simp only [popQueue] at hm'
  show execRetrieverCommandStart c q s = _
  simp only [execRetrieverCommandStart, hmoving, hq, hm', Bool.not_true, Bool.false_eq_true, if_false]
  simp only [startCmd]
  cases m.kind <;> rfl

theorem exec_retrieverCommandStart_marker {ctx : W32} {g : Bool} {rest : List RetEntry} (hmoving : (s.core c).moving = true)
    (hq : (s.core c).retq.toList.getD q.toNat [] = .marker ctx g :: rest)
    (hidle : ((s.core c).cmds.any fun m => m.q == q && m.st == .running) = false) :
    exec (.retrieverCommandStart c q) s = .next (s.updCore c (popQueue q rest)) := by
  show execRetrieverCommandStart c q s = _
  simp only [execRetrieverCommandStart, hmoving, hq, hidle, Bool.not_true, Bool.false_eq_true, if_false]
  rfl

end start

/-! ### One piece -/

section piece
variable {c : CoreNo} {id i : Nat} {s : State} {m : Cmd} {n : Nat} {v : State}

/-- What a landing makes of a piece under choice `n`, by the kind of its command. -/
def landPiece (c : CoreNo) (m : Cmd) (i n : Nat) (v : State) : State :=
  match m.kind with
  | .pull => landPull c m i n v
  | .push => sendPush c m n v
  | .pft => landPft c m i v
  | .mcast => landMcast c m i n v
  | .cpyIn | .cpyOut | .cpyKk | .gth | .sct => if v.rowBlocked c m i then v else landRow c m i n v

theorem exec_retrieverLanding (hchoice : s.choice = (n, v)) (hm : (s.core c).cmd? id = some m) (hrun : m.st = .running)
    (hmoving : (s.core c).moving = true) (hi : i ∈ m.pieces) (hlanded : m.hasLanded i = false) :
    exec (.retrieverLanding c id i) s = .next (landPiece c m i n v) := by
  have hgo : (decide (m.st ≠ .running) || !(s.core c).moving || !m.pieces.contains i || m.hasLanded i) = false := by
    simp [hrun, hmoving, hi, hlanded]
  show execRetrieverLanding c id i s = _
  simp only [execRetrieverLanding, hm, hgo, hchoice, Bool.false_eq_true, if_false, landPiece]
  cases m.kind <;> simp only [apply_ite Host.Outcome.next]

theorem landPiece_row (h : m.kind ∈ ([.cpyIn, .cpyOut, .cpyKk, .gth, .sct] : List CmdKind)) :
    landPiece c m i n v = if v.rowBlocked c m i then v else landRow c m i n v := by
  simp only [List.mem_cons, List.not_mem_nil, or_false] at h
  rcases h with h | h | h | h | h <;> simp only [landPiece, h]

end piece

/-! ### Rows of CPY, GTH and SCT -/

section row
variable {c : CoreNo} {m : Cmd} {i n : Nat} {s : State} {src dst : Side} (hsides : m.sides i = (src, dst))
include hsides

theorem landRow_source_waits {t : State} (h : sideXlate c m .read src s = .wait t) : landRow c m i n s = t := by
  simp only [landRow, hsides, h]

theorem landRow_source_fails {x : Cause} {a : W64} (h : sideXlate c m .read src s = .fail x a) :
    landRow c m i n s = failCmd c m x a s := by
  simp only [landRow, hsides, h]

section source
variable {sp : List (Phys × Nat)} (hsp : sideXlate c m .read src s = .ok sp)
include hsp

theorem landRow_destination_waits {t : State} (h : sideXlate c m .write dst s = .wait t) : landRow c m i n s = t := by
  simp only [landRow, hsides, hsp, h]

theorem landRow_destination_fails {x : Cause} {a : W64} (h : sideXlate c m .write dst s = .fail x a) :
    landRow c m i n s = failCmd c m x a s := by
  simp only [landRow, hsides, hsp, h]

section destination
variable {dp : List (Phys × Nat)} (hdp : sideXlate c m .write dst s = .ok dp)
include hdp

theorem landRow_barrier_waits {t : State} (h : cmdBarrier c m s = .wait t) : landRow c m i n s = t := by
  simp only [landRow, hsides, hsp, hdp, h]

theorem landRow_barrier_fails {x : Cause} {a : W64} (h : cmdBarrier c m s = .fail x a) :
    landRow c m i n s = failCmd c m x a s := by
  simp only [landRow, hsides, hsp, hdp, h]

section barrier
variable {pl : BarPlace} (hpl : cmdBarrier c m s = .at pl)
include hpl

theorem landRow_poisoned (hwhole : m.whole i n = true) (h : readSide c m src sp s = none) :
    landRow c m i n s = failCmd c m .memoryError src.addr s := by
  simp only [landRow, hsides, hsp, hdp, hpl, hwhole, h, if_true]

theorem landRow_moved {bs : List Byte} {u : State} (hwhole : m.whole i n = true)
    (h : readSide c m src sp s = some (bs, u)) :
    landRow c m i n s = subtractLanding c m pl [i] bs.length (writeSide c m dst dp bs u) := by
  simp only [landRow, hsides, hsp, hdp, hpl, hwhole, h, if_true]

theorem landRow_partly (hwhole : m.whole i n = false) :
    landRow c m i n s = landPartly c c m i n src dst sp dp (subtractLanding c m pl [i] src.len) s := by
  simp only [landRow, hsides, hsp, hdp, hpl, hwhole, Bool.false_eq_true, if_false]

end barrier
end destination
end source
end row

/-! ### Frames of a PUSH -/

theorem rbytes_bounds (t : W128) : 1 ≤ (Desc.of t).rbytes ∧ (Desc.of t).rbytes ≤ 512 :=
  ⟨Nat.le_add_left _ _, (t.extractLsb' 20 9).isLt⟩

theorem rowsPerFrame_pos (t : W128) : 0 < rowsPerFrame (Desc.of t).rbytes := by
  obtain ⟨hlow, hhigh⟩ := rbytes_bounds t
  exact Nat.div_pos (by omega) hlow

/-- Frame `j` of a command that has rows left for it. -/
theorem frameRows_getElem? {rows rlen j : Nat} (hpos : 0 < rowsPerFrame rlen) (hj : rowsPerFrame rlen * j < rows) :
    (frameRows rows rlen)[j]? =
      some (rowsPerFrame rlen * j, Nat.min (rowsPerFrame rlen) (rows - rowsPerFrame rlen * j)) := by
  have hlt : j < (rows + rowsPerFrame rlen - 1) / rowsPerFrame rlen := by
    rw [Nat.lt_iff_add_one_le, Nat.le_div_iff_mul_le hpos, Nat.add_mul, Nat.mul_comm]
    omega
  simp only [frameRows, List.getElem?_map, List.getElem?_range hlt, Option.map_some]

/-- Of a piece that moves whole nothing has been read. -/
theorem landingOf_of_whole {m : Cmd} {piece n len : Nat} (h : m.whole piece n = true) :
    m.landingOf piece len = { piece := piece, got := List.replicate len none, left := List.range len } := by
  rw [Cmd.whole, Bool.and_eq_true, Bool.not_eq_true', List.any_eq_false] at h
  rw [Cmd.landingOf, List.find?_eq_none.mpr h.2]
  rfl

theorem open_of_whole {m : Cmd} {piece n len : Nat} (h : m.whole piece n = true) (hlen : 0 < len) :
    (m.landingOf piece len).got.any Option.isNone = true := by
  rw [landingOf_of_whole h, List.any_eq_true]
  exact ⟨none, List.mem_replicate.mpr ⟨hlen.ne', rfl⟩, rfl⟩

section push
variable {c : CoreNo} {m : Cmd} {n : Nat} {v : State} {fl : YttFlow}

/-- The Kennel addresses of `r` rows of a PUSH from row `first` on. -/
def pushRows (m : Cmd) (first r : Nat) : List Nat :=
  (List.range r).map fun j => (Desc.of m.src).base + (first + j) * (Desc.of m.src).pitch

/-- The frame that carries these rows is sent. -/
def pushFrame (c : CoreNo) (m : Cmd) (first r : Nat) (fl : YttFlow) (ctx : W32) (bs : List Byte) (u : State) : State :=
  (u.yttSend fl { yttFrame 1 (yttEnd u.ytt.devid.toNat (ctx.extractLsb' 28 4).toNat) (yttEnd m.rdev m.rpart)
      (BitVec.ofNat 64 (m.addr.toNat + first * m.pitch)) 0 bs with
    fl := if first + r = (Desc.of m.src).rows then 1 else 0, rows := BitVec.ofNat 16 r,
    rlen := BitVec.ofNat 16 (Desc.of m.src).rbytes, pitch := BitVec.ofNat 32 m.pitch }).updCore c fun k =>
      k.updCmd m.id fun m => { m with frames := m.frames + 1 }

/-- How a byte of these rows is read. -/
def pushByte (c : CoreNo) (m : Cmd) (first : Nat) : Nat → State → Byte × State := fun x u =>
  (((u.core c).kread ((Desc.of m.src).base + (first + x / (Desc.of m.src).rbytes) * (Desc.of m.src).pitch +
    x % (Desc.of m.src).rbytes) 1).headD 0, u)

variable {first r : Nat}

theorem any_pushRows_eq_false (h : ∀ a ∈ pushRows m first r, (v.core c).kpoisoned a (Desc.of m.src).rbytes = false) :
    ((pushRows m first r).any fun a => (v.core c).kpoisoned a (Desc.of m.src).rbytes) = false :=
  List.any_eq_false.mpr fun a ha => Bool.eq_false_iff.mp (h a ha)

variable (hframe : (frameRows (Desc.of m.src).rows (Desc.of m.src).rbytes)[m.frames]? = some (first, r))
  (hflow : (v.ytt.flows.find? fun f => f.job == some (.cmd c m.id)) = some fl)
include hframe hflow

theorem sendPush_poisoned (hopen : (m.landingOf (256 + m.frames) (r * (Desc.of m.src).rbytes)).got.any Option.isNone = true)
    (hpoison : ∃ a ∈ pushRows m first r, (v.core c).kpoisoned a (Desc.of m.src).rbytes = true) :
    sendPush c m n v = failCmd c m .memoryError (BitVec.ofNat 64 (Desc.of m.src).base) v := by
  have hany : ((pushRows m first r).any fun a => (v.core c).kpoisoned a (Desc.of m.src).rbytes) = true :=
    List.any_eq_true.mpr hpoison
  rw [pushRows] at hany
  simp only [sendPush, hframe, hflow, hopen, hany, Bool.and_true, if_true]

section clean
variable (hclean : ∀ a ∈ pushRows m first r, (v.core c).kpoisoned a (Desc.of m.src).rbytes = false)
include hclean

theorem sendPush_whole (hwhole : m.whole (256 + m.frames) n = true) : sendPush c m n v =
    pushFrame c m first r fl (v.core c).ctx
      ((pushRows m first r).flatMap fun a => (v.core c).kread a (Desc.of m.src).rbytes) v := by
  have hany := any_pushRows_eq_false hclean
  rw [pushRows] at hany
  simp only [sendPush, hframe, hflow, hany, hwhole, Bool.and_false, Bool.false_eq_true, if_false, if_true]
  rfl

section partly
variable (hwhole : m.whole (256 + m.frames) n = false) {part : Option (List Byte) × State}
  (hpart : landSome c m (256 + m.frames) (r * (Desc.of m.src).rbytes) n (pushByte c m first) (fun _ _ u => u) v = part)
include hwhole hpart

theorem sendPush_unread (hleft : part.1 = none) : sendPush c m n v = part.2 := by
  have hany := any_pushRows_eq_false hclean
  rw [pushRows] at hany
  delta pushByte at hpart
  simp only [sendPush, hframe, hflow, hany, hwhole, hpart, hleft, Bool.and_false, Bool.false_eq_true, if_false]

theorem sendPush_read {bs : List Byte} (hread : part.1 = some bs) :
    sendPush c m n v = pushFrame c m first r fl (v.core c).ctx bs part.2 := by
  have hany := any_pushRows_eq_false hclean
  rw [pushRows] at hany
  delta pushByte at hpart
  simp only [sendPush, hframe, hflow, hany, hwhole, hpart, hread, Bool.and_false, Bool.false_eq_true, if_false]
  rfl

end partly
end clean
end push

/-! ### Rows of a PULL, pieces of a PFT, rows of a MCAST -/

section others
variable {c : CoreNo} {m : Cmd} {i n : Nat} {s : State}

theorem landPull_partly {pl : BarPlace} (hpart : (m.part.any fun p => p.piece == i) = true)
    (hpl : cmdBarrier c m s = .at pl) : let row := (Desc.of m.dst).row i
    landPull c m i n s = landPartly c c m i n row row [] [] (subtractLanding c m pl [i] row.len) s := by
  intro row
  simp only [landPull, hpart, hpl, if_true]
  rfl

section prefetch
variable {u : State} (hpage :
  let page := pftXlate c m .read (m.addr.toNat + 512 * i) (Nat.min 512 (m.count - 512 * i)) s
  (∃ ps, page = .ok ps ∧ u = s) ∨ ∃ f, page = .error f ∧ u = pftDrop c .read f s)
include hpage

theorem landPft_kennel (hdev : m.dev = false) : landPft c m i s =
    subtractLanding c m (.kennel c m.bar.toNat) [i] (Nat.min 512 (m.count - 512 * i)) u := by
  obtain ⟨ps, hpage, rfl⟩ | ⟨f, hpage, rfl⟩ := hpage <;> simp only [landPft, hpage, hdev, if_true]

theorem landPft_device {p : Phys × Nat} {ps : List (Phys × Nat)} (hdev : m.dev = true)
    (hbar : pftXlate c m .atomic m.bar.toNat 16 u = .ok (p :: ps)) : landPft c m i s =
      subtractLanding c m (.device p.1) [i] (Nat.min 512 (m.count - 512 * i)) u := by
  obtain ⟨ps, hpage, rfl⟩ | ⟨f, hpage, rfl⟩ := hpage <;>
    simp only [landPft, hpage, hdev, hbar, Bool.true_eq_false, if_false]

theorem landPft_dropped {f : WalkFail} (hdev : m.dev = true)
    (hbar : pftXlate c m .atomic m.bar.toNat 16 u = .error f) : landPft c m i s =
      settleCmd c m.id [i] 0 false (pftDrop c .atomic f u) := by
  obtain ⟨ps, hpage, rfl⟩ | ⟨f, hpage, rfl⟩ := hpage <;>
    simp only [landPft, hpage, hdev, hbar, Bool.true_eq_false, if_false]

end prefetch

/-- The core that a row of a MCAST goes to runs the command's context. -/
def peerRuns (c : CoreNo) (i : Nat) (s : State) : Bool :=
  (s.core (clusterCore c (i % 4))).seq.mode != .idle && (s.core (clusterCore c (i % 4))).ctx == (s.core c).ctx

/-- The Kennel address of that row, in both cores. -/
def mcastAddr (m : Cmd) (i : Nat) : Nat := (Desc.of m.src).base + i / 4 * (Desc.of m.src).pitch

theorem landMcast_absent (h : peerRuns c i s = false) : landMcast c m i n s = settleCmd c m.id [256 + i] 0 true s := by
  refine if_pos ?_
  rw [peerRuns, Bool.and_eq_false_iff] at h
  simpa using h

theorem landMcast_present (h : peerRuns c i s = true) : landMcast c m i n s =
    let peer := clusterCore c (i % 4)
    let a := mcastAddr m i
    let row : Side := .kennel a (Desc.of m.src).rbytes
    if m.whole i n then
      if (s.core c).kpoisoned a (Desc.of m.src).rbytes then failCmd c m .memoryError (BitVec.ofNat 64 a) s
      else landedMcast c peer m i (s.kwrite peer a ((s.core c).kread a (Desc.of m.src).rbytes))
    else landPartly c peer m i n row row [] [] (landedMcast c peer m i) s := by
  refine if_neg ?_
  rw [peerRuns, Bool.and_eq_true] at h
  simpa using h

section multicast
variable {peer : CoreNo}

theorem landedMcast_poisoned (h : (s.core peer).kpoisoned m.bar.toNat 16 = true) :
    landedMcast c peer m i s = failCmd c m .memoryError m.bar s := if_pos h

variable (hclean : (s.core peer).kpoisoned m.bar.toNat 16 = false)
include hclean

theorem landedMcast_updated {r : W32 × State} (hr : s.barUpdate c.val (s.core c).ctx m.replay
    (.kennel peer m.bar.toNat) 0 (-((Desc.of m.src).rbytes : Int)) = some r) :
    landedMcast c peer m i s = settleCmd c m.id [i] (Desc.of m.src).rbytes false r.2 := by
  refine (if_neg (Bool.eq_false_iff.mp hclean)).trans ?_
  change s.barUpdate c.val (s.core c).ctx m.replay (.kennel peer m.bar.toNat) 0 (-(descRow m.src : Int)) = some r at hr
  rw [hr]
  rfl

theorem landedMcast_refused (hr : s.barUpdate c.val (s.core c).ctx m.replay
    (.kennel peer m.bar.toNat) 0 (-((Desc.of m.src).rbytes : Int)) = none) :
    landedMcast c peer m i s = failCmd c m .badBarrier m.bar s := by
  refine (if_neg (Bool.eq_false_iff.mp hclean)).trans ?_
  change s.barUpdate c.val (s.core c).ctx m.replay (.kennel peer m.bar.toNat) 0 (-(descRow m.src : Int)) = none at hr
  rw [hr]

end multicast
end others

/-- Settles O50: each clause by the lemma above for its kind of piece, the bytes by `kread_kennelStep`. -/
theorem retrieverPiecesLand : Obligations.RetrieverPiecesLand := by
  unfold Obligations.RetrieverPiecesLand
  refine ⟨?start, ?marker, ?landing, ?bytes, ?subtract, ?settle, ?fail⟩
  case start =>
    intro c q s id rest m hmoving hq u hm f d
    have hexec := exec_retrieverCommandStart_cmd hmoving hq hm
    refine ⟨fun hkind => ?_, fun hkind => ?_, fun hpull hpush => ?_⟩
    · rw [hexec, startCmd, hkind]
      rfl
    · rw [hexec, startCmd, hkind]
      rfl
    · exact hexec.trans (congrArg _ (startCmd_of_other hpull hpush _))
  case marker => exact fun c q s ctx g rest hmoving hq hidle => exec_retrieverCommandStart_marker hmoving hq hidle
  case landing =>
    intro c id i s m n v hchoice hm hrun hmoving hi hlanded rows row src dst from_ to_
    have goes {t : State} (h : landPiece c m i n v = t) : exec (.retrieverLanding c id i) s = .next t :=
      (exec_retrieverLanding hchoice hm hrun hmoving hi hlanded).trans (congrArg _ h)
    have goesRow {t : State} (h : row) (ht : landRow c m i n v = t) : exec (.retrieverLanding c id i) s = .next t :=
      goes ((landPiece_row h.1).trans ((if_neg (Bool.eq_false_iff.mp h.2)).trans ht))
    have hsides : m.sides i = (src, dst) := rfl
    have hcore (d : CoreNo) : v.core d = s.core d := by
      rw [show v = s.choice.2 from (congrArg Prod.snd hchoice).symm, core_choice]
    refine ⟨fun hrows hblocked => goes ((landPiece_row hrows).trans (if_pos hblocked)), ?moves, ?stops, ?push, ?pull, ?pft,
      ?mcast⟩
    case moves =>
      refine fun sp dp pl hrow hsp hdp hpl => ⟨fun hwhole =>
        ⟨fun bs u hread => goesRow hrow ?_, fun hread => goesRow hrow ?_⟩,
        fun hwhole => goesRow hrow ?_⟩
      · exact landRow_moved hsides hsp hdp hpl hwhole hread
      · exact landRow_poisoned hsides hsp hdp hpl hwhole hread
      · exact landRow_partly hsides hsp hdp hpl hwhole
    case stops =>
      refine fun hrow => ⟨fun t h => goesRow hrow (landRow_source_waits hsides h),
        fun x a h => goesRow hrow (landRow_source_fails hsides h), fun sp hsp =>
        ⟨fun t h => goesRow hrow (landRow_destination_waits hsides hsp h),
          fun x a h => goesRow hrow (landRow_destination_fails hsides hsp h), fun dp hdp =>
          ⟨fun t h => goesRow hrow (landRow_barrier_waits hsides hsp hdp h),
            fun x a h => goesRow hrow (landRow_barrier_fails hsides hsp hdp h)⟩⟩⟩
    case push =>
      intro r fl hkind d per rows' size fetch part send hlt hr hflow
      have goesPush {t : State} (h : sendPush c m n v = t) : exec (.retrieverLanding c id i) s = .next t :=
        goes ((by simp only [landPiece, hkind] : landPiece c m i n v = sendPush c m n v).trans h)
      have hpos := rowsPerFrame_pos m.src
      have hframe : (frameRows d.rows d.rbytes)[m.frames]? = some (per * m.frames, r) := by
        rw [hr]
        exact frameRows_getElem? hpos hlt
      rw [← hcore]
      refine ⟨fun hpoison hwhole => goesPush ?_, fun hclean => ⟨fun hwhole => goesPush ?_, fun hwhole =>
        ⟨fun hleft => goesPush ?_, fun bs hread => goesPush ?_⟩⟩⟩
      · have hsize : 0 < r * d.rbytes := by
          refine Nat.mul_pos ?_ (rbytes_bounds m.src).1
          rw [hr]
          exact Nat.lt_min.mpr ⟨hpos, Nat.sub_pos_of_lt hlt⟩
        exact sendPush_poisoned hframe hflow (open_of_whole hwhole hsize) hpoison
      · exact sendPush_whole hframe hflow hclean hwhole
      · exact sendPush_unread hframe hflow hclean hwhole rfl hleft
      · exact sendPush_read hframe hflow hclean hwhole rfl hread
    case pull =>
      intro hkind row'
      have hpull : landPiece c m i n v = landPull c m i n v := by simp only [landPiece, hkind]
      exact ⟨fun hnone => goes (hpull.trans (if_neg (Bool.eq_false_iff.mp hnone))),
        fun pl hpart hpl => goes (hpull.trans (landPull_partly hpart hpl))⟩
    case pft =>
      intro u hkind size page drop hpage bar
      have hpft : landPiece c m i n v = landPft c m i v := by simp only [landPiece, hkind]
      exact ⟨fun hdev => goes (hpft.trans (landPft_kennel hpage hdev)),
        fun p ps hdev hbar => goes (hpft.trans (landPft_device hpage hdev hbar)),
        fun f hdev hbar => goes (hpft.trans (landPft_dropped hpage hdev hbar))⟩
    case mcast =>
      intro hkind d a peer runs
      have hmcast : landPiece c m i n v = landMcast c m i n v := by simp only [landPiece, hkind]
      have hruns : peerRuns c i v = runs := by
        simp only [peerRuns, hcore]
        rfl
      rw [← hruns]
      refine ⟨fun h => goes (hmcast.trans (landMcast_absent h)), fun h hwhole hpoison => goes (hmcast.trans ?_),
        fun h hwhole hclean => ?_, fun h hwhole => goes (hmcast.trans ?_)⟩
      · rw [← hcore] at hpoison
        exact (landMcast_present h).trans ((if_pos hwhole).trans (if_pos hpoison))
      · intro u bar bad
        rw [← hcore] at hclean
        have hlands : landPiece c m i n v = landedMcast c peer m i u := by
          refine hmcast.trans ((landMcast_present h).trans ((if_pos hwhole).trans
            ((if_neg (Bool.eq_false_iff.mp hclean)).trans ?_)))
          rw [hcore]
          rfl
        have hctx : (u.core c).ctx = (s.core c).ctx :=
          (core_updCore_keeps (fun k => k.ctx) v peer _ rfl c).trans (congrArg Core.ctx (hcore c))
        have hbar : bar = u.barUpdate c.val (u.core c).ctx m.replay (.kennel peer m.bar.toNat) 0 (-(d.rbytes : Int)) := by
          rw [hctx]
        rw [hbar]
        exact ⟨fun hbad => goes (hlands.trans (landedMcast_poisoned hbad)),
          fun r hbad hr => goes (hlands.trans (landedMcast_updated hbad hr)),
          fun hbad hr => goes (hlands.trans (landedMcast_refused hbad hr))⟩
      · exact (landMcast_present h).trans (if_neg (Bool.eq_false_iff.mp hwhole))
  case bytes =>
    intro c m i n a b len landed s p hwf hlen hleft k t open_ reading taken
    refine ⟨landPartly_poisoned, fun hclean => ⟨fun hreading hne x => ?_, fun hreading hlate x => ?_⟩⟩
    · obtain ⟨j, hj⟩ := List.exists_mem_of_ne_nil _ hne
      have hnow : j ∉ landNow m i len n := by
        rw [landNow_of_reading hreading]
        exact List.not_mem_nil
      rw [show t = _ from landPartly_unfinished hclean (landSome_unfinished hj hnow)]
      exact kread_kennelStep_reading hreading x
    · obtain ⟨j, hj, hnot⟩ := hlate
      have hnow : j ∉ landNow m i len n := fun h => Bool.eq_false_iff.mp hnot ((mem_landNow hreading).mp h).2
      obtain ⟨hin, hout⟩ := kread_kennelStep_writing (a := a) (b := b) ((memoriesWf_iff.mp hwf).2 c) hreading
        (fun j hj => (hleft j hj).trans_eq hlen.symm) x
      rw [show t = _ from landPartly_unfinished hclean (landSome_unfinished hj hnow)]
      exact ⟨fun j hj htaken => hin j ((mem_landNow hreading).mpr ⟨hj, htaken⟩), fun hne => hout fun j hj =>
        hne j ((mem_landNow hreading).mp hj).1 ((mem_landNow hreading).mp hj).2⟩
  case subtract =>
    exact fun c m pl ps size s => ⟨subtractLanding_poisoned, fun r => subtractLanding_updated, subtractLanding_refused⟩
  case settle => exact fun c id ps size bad s m hm => ⟨settleCmd_counts hm, settleCmd_peer hm, settleCmd_ends hm⟩
  case fail =>
    intro c m cause addr s hkind hdev hpark hsub bar lost failed
    refine ⟨fun r hlost hr => ?_, fun hlost => ?_⟩
    · have hpoison : (s.core c).kpoisoned m.bar.toNat 16 = false := (Bool.or_eq_false_iff.mp hlost).1
      exact failCmd_of_addBack hpark (addBack_updated hkind hdev hsub hpoison hr)
    · refine failCmd_of_addBack hpark (addBack_lost hkind hdev hsub ?_)
      exact (Bool.or_eq_true_iff.mp hlost).imp_right Option.isNone_iff_eq_none.mp

end Sys2Proof
end
